-- ==== Sys2Proof/Word.lean ====
section
/-! DEFINITION. The word types of the block and the index types of its instanced resources (00 R1, R7; 01 R15). -/
namespace Sys2Proof

/-- 8, 16, 32 and 64 bit words of the register map and of the descriptors (00 R7, 22 R499). -/
abbrev Byte := BitVec 8
abbrev Half := BitVec 16
abbrev Word := BitVec 32
abbrev DWord := BitVec 64
/-- A 32-byte digest (01 R19). -/
abbrev Digest := BitVec 256

/-- Outlet number, 0-7 (00 R1, R4). -/
abbrev Outlet := Fin 8
/-- Phase number, 0-23 (00 R1, R4). -/
abbrev Phase := Fin 24
/-- Regatta port, 0-3 (01 R33). -/
abbrev Port := Fin 4
/-- Ring number, 0-63 (01 R15). -/
abbrev Ring := Fin 64
/-- PCIe function PF0, PF1, PF2 (01 R15). -/
abbrev Fn := Fin 3
/-- MSI-X vector, 0-127 (01 R15). -/
abbrev IrqVec := Fin 128
/-- Measurement lane, 0-23 (04 R120). -/
abbrev MLane := Fin 24
/-- Automated connection device and its machine CAN FD channel, 0-3 (01 R33). -/
abbrev Acd := Fin 4
/-- Auxiliary PWM channel, 0-7 (05 R142). -/
abbrev Aux := Fin 8
/-- Housekeeping channel, 0-63 (09 R220). -/
abbrev HkChan := Fin 64
/-- Controller identity, 12 bits (00 R4). -/
abbrev CtrlId := BitVec 12

end Sys2Proof
end

