-- ==== Sys2Proof/Config.lean ====
section
/-! DEFINITION. What an implementation fixes and the manual leaves open: constants without a body, so that nothing in
Lean can give them a value, and the numbers the manual itself fixes. -/
namespace Sys2Proof.Config

/-- A value the manual leaves open after a command that goes on; applied to the counter `free` of the state
(log entry 4). Free: no body. -/
opaque freeNat : Nat → Nat

/-- As `freeNat`, for a signed value (log entry 4). -/
opaque freeInt : Nat → Int

/-- Die stepping and boot ROM version of `GLB_REV`, whose values 22 R505 does not give (log entry 5). -/
opaque glbRev : BitVec 16

/-- The device serial of the birth certificate, 16 ASCII bytes (22 R505, 18 R438), issued in manufacture (log entry 5). -/
opaque serial : BitVec 128

/-- Factory calibration in OTP: gain in Q2.30 and offset of a channel (04 R118), measurement lanes 0-23 and housekeeping channels
from 64; written in manufacture, no value given (log entry 5). -/
opaque factoryGain : Nat → Int
opaque factoryOffset : Nat → Int

/-- SHA3-256 of bytes, and the digests of the public keys that the caddy derives: the birth key of a base root, the state key of a base
root, life-cycle state and n_t, with the measurement register where the measured form of eff is in force (18 R429, R438).
No value of them is provable (log entry 15). -/
opaque sha3 : List (BitVec 8) → Digest
opaque birthDigest : Nat → Digest
opaque stateDigest : Nat → Nat → Nat → Option (BitVec 512) → Digest

/-- Digest of the receipt public key, by the state key's digest (18 R429). -/
opaque receiptKey : Digest → Digest

/-- The measurement register after an image: SHAKE256 of the register, kind, version and header digest (19 R454). -/
opaque measure : BitVec 512 → Nat → Word → Digest → BitVec 512

/-- Byte k of the signature that the key of a digest makes over bytes (18 R432; FIPS 204), and of a certificate or public key
(18 R438). -/
opaque sigByte : Digest → List (BitVec 8) → Nat → BitVec 8
opaque keyByte : Digest → Nat → BitVec 8

/-- Whether a digest is one of Paistud's own anchors, which OTP holds from MAKER on (18 R434). Free (log entry 15). -/
opaque paistudAnchor : Digest → Bool

/-- Bytes of the birth certificate of a base root that manufacture writes: enrolment time, Paistud anchor digest, signature (18 R438), by
offset (log entry 5). -/
opaque birthField : Nat → Nat → BitVec 8

/-- Body of JOIN_ACK, JOIN_REFUSE and LEAVE_ACK, by message kind, controller named, and the round or reason: 02 gives their contents and
no layout (log entry 144). -/
opaque answerBody : Nat → Nat → Nat → List (BitVec 8)

/-- Texts of display items whose form 13 R336 leaves open, by item code and value. -/
opaque itemText : Nat → Int → Nat → BitVec 8

/-- Class of a control-pilot voltage between the ranges of IEC 61851-1, and class of the charge-enable loop and the ID contact at the levels
of SAE J3271 (07 R176, R177): those standards' (log entry 164). -/
opaque cpBetween : Int → Nat
opaque mcsClass : Int → Int → Nat

/-- The cable coding of IEC 61851-1 in A, 0 none, by the resistance of the proximity contact in Ω (07 R176; log entry 164). -/
opaque cableCoding : Int → BitVec 8

/-- Where in its band of ±2 °C the die comparator trips, in 0.01 °C (09 R230; log entry 168). -/
opaque dieTripBand : Nat

/-- The SLAC retry count that ISO 15118-3 allows (08 R211), a number of that standard (log entry 13). -/
opaque slacRetries : Nat

/-- CLK_SYS cycles in a microsecond: 375 MHz (01, first paragraph). -/
def cyclesPerUs : Nat := 375

/-- The nominal rate word: 8/3 ns per CLK_SYS cycle in units of 2^-32 ns (02, "Fleet time"). -/
def nominalRate : Nat := 8 * 2 ^ 32 / 3

/-- A round in ns (00 R5). -/
def roundNs : Nat := 250000

/-- A control tick in ns (01 R25). -/
def tickNs : Nat := 20000

/-- A housekeeping round in ns (00 R5). -/
def hkNs : Nat := 10000000

/-- A second in ns. -/
def secondNs : Nat := 1000000000

end Sys2Proof.Config
end

