-- ==== Sys2Proof/Machine/Bits.lean ====
section
/-! DEFINITION. Bit-field, saturation and indexed-update helpers that every block uses. -/
namespace Sys2Proof

/-- Change the entry of an instanced resource. -/
def vmod {α : Type} {n : Nat} (v : Vector α n) (i : Fin n) (f : α → α) : Vector α n :=
  v.set i.val (f (v.get i)) i.isLt

/-- Apply a change to every instance, in index order. -/
def vmapIdx {α : Type} {n : Nat} (v : Vector α n) (f : Fin n → α → α) : Vector α n :=
  (List.finRange n).foldl (fun w i => vmod w i (f i)) v

/-- A saturating 32-bit counter's increment (00 R524). -/
def satInc (w : Word) : Word := if w = BitVec.allOnes 32 then w else w + 1

/-- A count added to a saturating 32-bit counter. -/
def satAdd (w : Word) (k : Nat) : Word := BitVec.ofNat 32 (min (w.toNat + k) (2 ^ 32 - 1))

/-- Clearing write to a saturating counter, 'W1C of the whole word' (00 R524). -/
def w1cWhole (w written : Word) : Word := if written = 0 then w else 0

/-- Clearing write to a W1C field (00 R9). -/
def w1c (w written : Word) : Word := w &&& ~~~ written

/-- An unsigned quantity in a field of w bits, held at the field's end. -/
def clampU (w : Nat) (n : Nat) : BitVec w := BitVec.ofNat w (min n (2 ^ w - 1))

/-- A signed quantity in a field of w bits, held at the field's ends. -/
def clampS (w : Nat) (i : Int) : BitVec w :=
  BitVec.ofInt w (max (-(2 ^ (w - 1) : Int)) (min i (2 ^ (w - 1) - 1 : Int)))

/-- The word whose only set bit is b. -/
def bit (w b : Nat) : BitVec w := 1#w <<< b

/-- A flag as a bit of a 32-bit register at a position. -/
def flagAt (b : Bool) (pos : Nat) : Word := if b then bit 32 pos else 0

/-- A field of w bits placed at a position of a 32-bit register. -/
def fieldAt {w : Nat} (v : BitVec w) (pos : Nat) : Word := v.setWidth 32 <<< pos

/-- A number placed in a field of w bits at a position of a 32-bit register. -/
def natAt (n w pos : Nat) : Word := (BitVec.ofNat w n).setWidth 32 <<< pos

/-- Bits [pos + w - 1 : pos] of a register word. -/
def bitsOf {m : Nat} (x : BitVec m) (pos w : Nat) : BitVec w := x.extractLsb' pos w

/-- Low and high word of a 64-bit value (22 R500). -/
def lo32 (x : DWord) : Word := x.extractLsb' 0 32
def hi32 (x : DWord) : Word := x.extractLsb' 32 32

/-- Replace the low or the high word of a 64-bit register. -/
def setLo (x : DWord) (v : Word) : DWord := hi32 x ++ v
def setHi (x : DWord) (v : Word) : DWord := v ++ lo32 x

/-- Division rounded up; 0 for a divisor 0. -/
def ceilDiv (a b : Nat) : Nat := (a + b - 1) / b

/-- Division rounded to the nearest, halves up. -/
def roundDiv (a b : Nat) : Nat := (2 * a + b) / (2 * b)

/-- Signed division rounded to the nearest, halves away from zero. -/
def roundDivI (a : Int) (b : Nat) : Int :=
  if a < 0 then - ((2 * a.natAbs + b) / (2 * b) : Nat) else ((2 * a.natAbs + b) / (2 * b) : Nat)

/-- Entry n of a list of words, 0 beyond its end. -/
def nth {α : Type} (l : List α) (n : Nat) (d : α) : α := (l[n]?).getD d

/-- Count the instances for which a property holds. -/
def countFin (n : Nat) (p : Fin n → Bool) : Nat := ((List.finRange n).filter p).length

/-- Sum over the instances. -/
def sumFin (n : Nat) (f : Fin n → Nat) : Nat := ((List.finRange n).map f).foldl (· + ·) 0

/-- Signed sum over the instances. -/
def sumFinI (n : Nat) (f : Fin n → Int) : Int := ((List.finRange n).map f).foldl (· + ·) 0

/-- Little-endian bytes of a value (00 R7). -/
def leBytes (n : Nat) (v : Nat) : List Byte := (List.range n).map fun i => BitVec.ofNat 8 (v / 2 ^ (8 * i))

/-- A byte taken into a reflected CRC of w bits, with the polynomial reflected. -/
def crcByte {w : Nat} (poly r : BitVec w) (b : BitVec 8) : BitVec w :=
  (List.range 8).foldl (fun x _ => if x.getLsbD 0 then (x >>> 1) ^^^ poly else x >>> 1) (r ^^^ b.setWidth w)

/-- The CRC-32 of IEEE 802.3 (02 R38), and the CRC-32C of the safe frames (10 R254). -/
def crc32 (l : List (BitVec 8)) : Word := ~~~ l.foldl (crcByte 0xEDB88320#32) (BitVec.allOnes 32)
def crc32c (l : List (BitVec 8)) : Word := ~~~ l.foldl (crcByte 0x82F63B78#32) (BitVec.allOnes 32)

/-- A byte taken into a CRC of w bits that is not reflected. -/
def crcByteMsb {w : Nat} (poly r : BitVec w) (b : BitVec 8) : BitVec w :=
  (List.range 8).foldl (fun x _ => if x.msb then (x <<< 1) ^^^ poly else x <<< 1) (r ^^^ (b.setWidth w <<< (w - 8)))

/-- The CRC-64 of the lanes' digests (11 R276). -/
def crc64 (l : List (BitVec 8)) : DWord := l.foldl (crcByteMsb 0x42F0E1EBA9EA3693#64) 0

/-- Linear interpolation between two points, rounded to the nearest; the first value where the points coincide. -/
def interp (x x0 y0 x1 y1 : Int) : Int :=
  if x1 = x0 then y0 else y0 + roundDivI ((y1 - y0) * (x - x0)) (x1 - x0).toNat

end Sys2Proof
end

