-- ==== Sys2Proof/Machine/Types.lean ====
section
/-! DEFINITION. The operand and record types that the commands carry and the state holds: masters, event sources,
descriptors, completions, journal records, demand and grant records. -/
namespace Sys2Proof

/-- The ordering variants of 00 R1. -/
inductive Variant where
  | a2 | a4 | a8t
deriving DecidableEq, Repr

/-- The three planes (01 R13). -/
inductive Plane where
  | control | data | mgmt
deriving DecidableEq, Repr

/-- The fabric masters the manual names (01 R13, 16 R401). `lane` is the driving control lane. -/
inductive Master where
  | pf (f : Fn)
  | app (i : Fin 4)
  | integ (i : Fin 2)
  | dma (i : Fin 8)
  | lane | cox | mgmt | legal | caddy
  /-- The inspection channel of the maker port (19 R451). -/
  | port
deriving DecidableEq, Repr

/-- Master code of 16 R401; none for a master that cannot be frozen. -/
def Master.code : Master → Option (Fin 24)
  | .pf f => some ⟨f.val, by omega⟩
  | .app i => some ⟨4 + i.val, by omega⟩
  | .integ i => some ⟨8 + i.val, by omega⟩
  | .dma i => some ⟨16 + i.val, by omega⟩
  | _ => none

/-- Index of a master's own bank of a banked register (22 R500, R505): its code where it has one. -/
def Master.bank : Master → Fin 32
  | .pf f => ⟨f.val, by omega⟩
  | .app i => ⟨4 + i.val, by omega⟩
  | .integ i => ⟨8 + i.val, by omega⟩
  | .dma i => ⟨16 + i.val, by omega⟩
  | .lane => 24 | .cox => 25 | .mgmt => 26 | .legal => 27 | .caddy => 28 | .port => 29

/-- Who owns a slot of the fabric wheel: a plane, or one of the two sealed domains (01 R15). -/
inductive Owner where
  | control | data | mgmt | legal | caddy
deriving DecidableEq, Repr

/-- The owner of each of the 16 fabric arbitration slots (01 R15). -/
def wheel (k : Fin 16) : Owner :=
  match k with
  | 0 | 4 | 8 | 12 => .control
  | 1 | 2 | 5 | 6 | 9 | 10 | 13 | 14 => .data
  | 3 | 11 => .mgmt
  | 7 => .legal
  | _ => .caddy

/-- The plane or domain that a master belongs to (01 R13, R15). The inspection channel of the maker port counts with the
management plane, which the manual does not say: DESIGN CHOICE (log entry 136). -/
def Master.owner : Master → Owner
  | .pf f => if f = 0 then .control else if f = 1 then .data else .mgmt
  | .app _ | .integ _ | .dma _ => .data
  | .lane | .cox => .control
  | .mgmt | .port => .mgmt
  | .legal => .legal
  | .caddy => .caddy

/-- The masters that write demand slots: those of the data plane beside the integrator partition and PF1, which reaches no mailbox
(01 R14, R23). DEDUCED (log entry 137). -/
def Master.demands (m : Master) : Bool := match m with | .app _ | .dma _ => true | _ => false

/-- The core groups of 01 R13. -/
inductive CoreGroup where
  | laneA | laneB | cox | app | integ | mgmt | legal | caddy
deriving DecidableEq, Repr

/-- Position of a group in the table of 01 R13. -/
def CoreGroup.idx : CoreGroup → Fin 8
  | .laneA => 0 | .laneB => 1 | .cox => 2 | .app => 3 | .integ => 4 | .mgmt => 5 | .legal => 6 | .caddy => 7

/-- Number of cores, the plane or domain, and the bytes of private SRAM of a core group (01 R13). -/
def CoreGroup.count : CoreGroup → Nat
  | .laneA | .laneB | .integ => 2 | .app => 4 | .cox | .mgmt | .legal | .caddy => 1
def CoreGroup.owner : CoreGroup → Owner
  | .laneA | .laneB | .cox => .control | .app | .integ => .data | .mgmt => .mgmt | .legal => .legal | .caddy => .caddy
def CoreGroup.sram : CoreGroup → Nat
  | .laneA | .laneB | .integ | .mgmt | .legal => 2 ^ 20 | .cox => 2 ^ 16 | .app => 2 ^ 21 | .caddy => 2 ^ 19

/-- The regions of SRAM and MRAM of 01 R14. The junction mailboxes are the demand and grant slots, which DEMAND_WRITE and
the grant writer reach. -/
inductive Region where
  | window
  | priv (g : CoreGroup)
  | journal | legalStore | eventJournal | configArea
deriving DecidableEq, Repr

/-- Bytes of a region (01 R13, R14). -/
def Region.size : Region → Nat
  | .window => 2 ^ 24
  | .priv g => g.sram
  | .journal | .legalStore | .eventJournal | .configArea => 2 ^ 21

/-- Whether the Writer column of 01 R14 names a master, for the regions beside the shared window. The integrator partition
counts as a domain of its own, the application cores' region as the rest of the data plane's (R13 names it so). The
acceptance journal is written by the ring engine alone, which is no master. -/
def Region.writer (g : Region) (m : Master) : Bool :=
  match g with
  | .window | .journal => false
  | .priv .integ => match m with | .integ _ => true | _ => false
  | .priv .app => match m with | .integ _ => false | _ => m.owner == .data
  | .priv c => m.owner == c.owner
  | .legalStore => m == .legal
  | .eventJournal => m == .mgmt
  | .configArea => m == .mgmt || m.owner == .control

/-- Who carries a block's `_EVENTS` register; instanced blocks name the instance. -/
inductive EvSrc where
  | clk | pwr
  | ring (f : Fn)
  | frz | alc | cfg
  | pwm (n : Phase)
  | reg (n : Phase)
  | out (o : Outlet)
  | vcl (o : Outlet)
  | thm | saf | lne | met | bil | bat | key | lcs | dia
deriving DecidableEq, Repr

/-- A block's events and their enables (`_EVENTS`, `_EVENT_EN`). -/
structure EvReg where
  flags : Word
  en : Word
deriving DecidableEq, Repr

def EvReg.zero : EvReg := ⟨0, 0⟩

/-- Block index of an event journal record (21 R484). -/
def EvSrc.block : EvSrc → Nat
  | .clk => 1 | .pwr => 2 | .ring _ => 3 | .frz => 5 | .alc => 7 | .cfg => 8
  | .pwm _ => 9 | .reg _ => 10 | .out _ => 11 | .vcl _ => 12 | .thm => 13 | .saf => 14
  | .lne => 15 | .met => 16 | .bil => 17 | .bat => 18 | .key => 19 | .lcs => 20 | .dia => 21

/-- The event vector that a block raises: control 0, data 32, management 96 (15 R388; each block's `_EVENT_EN`
row names its plane). -/
def EvSrc.vec : EvSrc → IrqVec
  | .clk | .pwr | .frz | .cfg | .key | .lcs | .dia | .bil | .met => 96
  | .ring f => if f = 0 then 0 else if f = 1 then 32 else 96
  | .vcl _ => 32
  | _ => 0

/-- An event journal record (21 R484). -/
structure JRec where
  number : Nat
  time : Nat
  block : Nat
  code : Nat
  origin : Nat
  flags : Nat
  subject : Nat
  suppressed : Nat
  a : Nat
  b : Nat
deriving DecidableEq, Repr

/-- A submission descriptor of 64 bytes (15 R373); `payload` holds bytes 24-63, little-endian. -/
structure Desc where
  seq : DWord
  opcode : Half
  cls : Byte
  flags : Byte
  target : Word
  notBefore : DWord
  payload : BitVec 320
deriving DecidableEq, Repr

/-- Fields of the payload by descriptor offset (15 R373: byte ranges are descriptor offsets). -/
def Desc.b (d : Desc) (off : Nat) : Byte := d.payload.extractLsb' ((off - 24) * 8) 8
def Desc.h (d : Desc) (off : Nat) : Half := d.payload.extractLsb' ((off - 24) * 8) 16
def Desc.w (d : Desc) (off : Nat) : Word := d.payload.extractLsb' ((off - 24) * 8) 32
def Desc.q (d : Desc) (off : Nat) : DWord := d.payload.extractLsb' ((off - 24) * 8) 64
/-- `IRQ_NOW` (15 R373). -/
def Desc.irqNow (d : Desc) : Bool := d.flags.getLsbD 0

/-- A request to the caddy (01 R18): what it asks and of which slot. -/
structure CaddyReq where
  kind : Nat
  slot : Nat
deriving DecidableEq, Repr

/-- Status of a completion (15 R384). -/
inductive CStatus where
  | done | capacity | malformed | state | epoch
deriving DecidableEq, Repr

/-- A completion of 32 bytes (15 R384) without `PHASE`, which its CQ slot gives. -/
structure Comp where
  seq : DWord
  status : CStatus
  replay : Bool
  detail : Half
  result : Word
  effect : DWord
  jpos : DWord
deriving DecidableEq, Repr

/-- The states of a journal slot (17 R410). -/
inductive SlotState where
  | accepted | handed | completed | consumed
deriving DecidableEq, Repr

/-- Ring states (15 R393 `STATE`). -/
inductive RingState where
  | disabled | running | draining | frozen | held
deriving DecidableEq, Repr

/-- Owners of a window page (16 R395). -/
inductive PageOwner where
  | free | host | device | legal
deriving DecidableEq, Repr

/-- A demand record of 32 bytes (01 R24). Quantities in the units of the record. -/
structure Demand where
  seq : Word
  session : Word
  maxV : Half
  targetV : Half
  maxImpI : Half
  maxExpI : Half
  maxImpP : Word
  maxExpP : Word
  gmin : Word
  band : Byte
  mode : Byte
  flags : Half
deriving DecidableEq, Repr

/-- A demand record of zeros. -/
def Demand.zero : Demand := ⟨0, 0, 0, 0, 0, 0, 0, 0, 0, 0, 0, 0⟩
/-- Flag bit 0 vehicle ready, bit 1 stop requested (01 R24). -/
def Demand.ready (d : Demand) : Bool := d.flags.getLsbD 0
def Demand.stop (d : Demand) : Bool := d.flags.getLsbD 1

/-- A grant record (01 R28). -/
structure Grant where
  seq : Word
  session : Word
  round : DWord
  impP : Word
  expP : Word
  curLimit : Half
  voltLimit : Half
  status : Byte
  phases : Byte
  flags : Half
deriving DecidableEq, Repr

def Grant.zero : Grant := ⟨0, 0, 0, 0, 0, 0, 0, 0, 0, 0⟩

/-! Small readings of these types. -/

/-- Outlets and phases of a variant (00 R1). -/
def Variant.outlets : Variant → Nat | .a2 => 2 | .a4 => 4 | .a8t => 8
def Variant.phases : Variant → Nat | .a2 => 12 | .a4 => 24 | .a8t => 24

/-- Origin field of a record: the plane or domain that owns the block (21 R484; 01 R15). DEDUCED (log entry 8). -/
def EvSrc.origin : EvSrc → Nat
  | .alc | .pwm _ | .reg _ | .out _ | .thm | .bat => 0
  | .vcl _ => 1
  | .cfg | .lcs | .dia => 2
  | .met | .bil => 3
  | .key => 4
  | .clk | .pwr | .ring _ | .frz | .saf | .lne => 5

/-- Subject of an event bit's record: the outlet, phase or function of the block's instance (21 R484). -/
def EvSrc.subject : EvSrc → Nat
  | .pwm n => n.val | .reg n => n.val | .out o => o.val | .vcl o => o.val | .ring f => f.val | _ => 0

/-- Work with opcode high byte 0x0D is the legal domain's (17 R418). -/
def Desc.isLegal (d : Desc) : Bool := bitsOf d.opcode 8 8 == 0x0D

end Sys2Proof
end

