-- ==== Sys2Proof/Machine/TypesSite.lean ====
section
/-! DEFINITION. Regatta frames and their payloads (02 R38, R48, R56-R59; 03 R74, R83, R92; 10 R252-R257), and the
contents of a configuration (04 R102-R119; 06 R146-R147; 07 R173-R175; 09 R222; 13 R317, R335; 14 R349). -/
namespace Sys2Proof

/-- An active or staged pair: epoch and crew digest (04 R101, R112). -/
structure Pair where
  epoch : Word
  digest : Digest
deriving DecidableEq, Repr

/-- UP payload (03 R74). -/
structure Up where
  round : Nat
  pair : Pair
  members : Nat
  absent : Nat
  curtail : BitVec 2
  holding : Bool
  cap : Word
  holdReserve : Word
  fallback : Word
  /-- Valid notices: old parent, re-parented controller; at most 8. -/
  notices : List (CtrlId × CtrlId)
  /-- Valid divergence change records: controller, divergent; at most 16. -/
  changes : List (CtrlId × Bool)
  d : Vector Word 64
  s : Vector Word 64
deriving DecidableEq, Repr

/-- The tuple of λ, f, FULL, B and hold reserve (03 R93). -/
structure AlcResult where
  lam : BitVec 6
  f : Half
  full : Bool
  budget : Word
  holdReserve : Word
deriving DecidableEq, Repr

/-- DOWN payload (03 R83). -/
structure Down where
  round : Nat
  res : AlcResult
  byBow : Bool
  hold : Bool
  drill : Bool
  shed : Bool
  pair : Pair
  originator : CtrlId
  crew : BitVec 4
  members : BitVec 13
  absent : BitVec 13
  curtail : BitVec 2
  drillRound : Nat
  actRound : Nat
  notices : List (CtrlId × CtrlId)
  divergent : BitVec 4096
deriving DecidableEq, Repr

/-- PROBE payload (02 R48); a distance of 255 means not attached. -/
structure Probe where
  id : CtrlId
  crew : BitVec 4
  strokeDist : Byte
  bowDist : Byte
  strokeParent : Option CtrlId
  bowParent : Option CtrlId
  pathDelay : Word
  epoch : Word
  taiCorr : Int
  corrRound : Word
  admitted : Bool
  inTime : Bool
deriving DecidableEq, Repr

/-- MIRROR payload (03 R92). -/
inductive Mirror where
  | crewSum (round : Nat) (sum : Up)
  | result (round : Nat) (r : AlcResult)
  | name (round : Nat) (reason : Byte)
  | demote (round : Nat) (reason : Byte)
  /-- A frame of any other kind; it is dropped (02 R41). -/
  | other (kind : Byte)
deriving DecidableEq, Repr

/-- A stop entry of a heartbeat: originator, release, stop number (10 R257). -/
structure StopEntry where
  origin : CtrlId
  release : Bool
  number : Half
deriving DecidableEq, Repr

/-- A safe frame of kind 1, 2 or 3 by the fields of its protocol data unit (10 R252-R261): data length, data, and its check. -/
structure SafeFrame where
  conn : Word
  seq : Word
  time : Nat
  len : Byte
  data : List Byte
  check : Word
deriving DecidableEq, Repr

/-- Body of JOIN and LEAVE (02 R57). `sigOk` is the outcome of the ML-DSA check and of the comparison of the
identity digest with the public key. -/
structure JoinBody where
  id : CtrlId
  crew : BitVec 4
  pair : Pair
  signTime : Nat
  identity : Digest
  sigOk : Bool
deriving DecidableEq, Repr

/-- The CFG messages (02 R56; 04 R111, R113; 21 R492). -/
inductive CfgBody where
  | join (b : JoinBody)
  | joinAck (id : CtrlId) (round : Nat)
  | joinRefuse (id : CtrlId) (reason : Byte)
  | leave (b : JoinBody)
  | leaveAck (id : CtrlId) (round : Nat)
  | stageReport (id : CtrlId) (crew : BitVec 4) (status : BitVec 4) (pair : Pair)
  | announce (pair : Pair) (round : Nat)
  | diagRequest (id : CtrlId) (crew : BitVec 4) (reqId : Word)
  | diagReply (reqId : Word) (record : List Byte)
deriving DecidableEq, Repr

/-- Class order of 02 R42. -/
inductive RgtClass where
  | alloc | safe | cfg | data
deriving DecidableEq, Repr

def RgtClass.rank : RgtClass → Nat
  | .alloc => 0 | .safe => 1 | .cfg => 2 | .data => 3

/-- What a frame carries. -/
inductive Payload where
  | up (u : Up)
  | down (d : Down)
  | probe (p : Probe) (triggered : Bool)
  | mirror (m : Mirror)
  | safe (f : SafeFrame)
  /-- A CFG segment: message kind and ID, segment, count, its part of the body. -/
  | segment (kind : Half) (msgId : Word) (index count : Nat) (bytes : List Byte)
  | tunnel (channel : BitVec 4) (msgId : Word) (index count : Nat) (length : Word) (bytes : List Byte)
  /-- A frame of a type that 02 R41 does not define. -/
  | other (c : RgtClass) (typ : BitVec 6) (bytes : List Byte)
deriving DecidableEq, Repr

def Payload.cls : Payload → RgtClass
  | .up _ | .down _ | .probe _ _ | .mirror _ => .alloc
  | .safe _ => .safe
  | .segment _ _ _ _ _ => .cfg
  | .tunnel _ _ _ _ _ _ => .data
  | .other c _ _ => c

/-- Whether a payload is of a type of 02 R41. -/
def Payload.defined : Payload → Bool
  | .other _ _ _ => false
  | _ => true

/-- A frame handed to a port (02 R38). -/
structure Frame where
  src : CtrlId
  srcCrew : BitVec 4
  dest : Option (CtrlId × BitVec 4)
  seq : Word
  hops : Byte
  hopLimit : Byte
  hopLocal : Bool
  body : Payload
  /-- The frame that was being forwarded turned out corrupted: it ends with ABORT (02 R39). -/
  cut : Bool
deriving DecidableEq, Repr

/-- The header of a received frame with its receive times (02 R38, R60). `crcOk` is false also for a frame that ended
in ABORT; `aborted` tells the two apart (02 R39). -/
structure Hdr where
  src : CtrlId
  crew : BitVec 4
  dest : Option (CtrlId × BitVec 4)
  seq : Word
  hops : Byte
  hopLimit : Byte
  hopLocal : Bool
  triggered : Bool
  /-- Payload length of the header, and the length of the frame from SOF to EOF. -/
  length : Nat
  eof : Nat
  crcOk : Bool
  aborted : Bool
  /-- Transmit time of this hop (bytes 16-23). -/
  txTime : Nat
  /-- Invalid code groups that the port has received since its last command (21 R488). -/
  codeErrs : Nat
deriving DecidableEq, Repr

/-! Configuration contents. -/

structure MemberEntry where
  id : CtrlId
  identity : Digest
  part : Digest
deriving DecidableEq, Repr

inductive Umpire where
  | none | host
  | ctrl (id : CtrlId)
deriving DecidableEq, Repr

structure LeapEntry where
  instant : Nat
  diff : Int
deriving DecidableEq, Repr

structure LocalEntry where
  instant : Nat
  off : Int
deriving DecidableEq, Repr

/-- A priority band (07 R174). -/
structure BandCfg where
  cap : Word
  exportOk : Bool
  gminOk : Bool
deriving DecidableEq, Repr

/-- A tariff switch: minute of day, tariff 1-8 (13 R317). -/
structure TariffSwitch where
  minute : Nat
  tariff : Nat
deriving DecidableEq, Repr

structure SpecialDay where
  year : Nat
  month : Nat
  day : Nat
  dayType : Nat
deriving DecidableEq, Repr

/-- Tariff schedule (13 R317). -/
structure TariffCfg where
  count : Nat
  len : Nat
  sliding : Bool
  sub : Nat
  stepLimit : Nat
  cycleDay : Nat
  dynamicOk : Bool
  dayTypes : List (List TariffSwitch)
  week : List Nat
  special : List SpecialDay
deriving DecidableEq, Repr

/-- A display of the scroll list (13 R335): subject 0-7 outlet, 16 grid. -/
structure DisplayCfg where
  chain : Nat
  pos : Nat
  subject : Nat
  dwell : Nat
  items : List Nat
deriving DecidableEq, Repr

/-- Outlets entry (07 R173). -/
structure OutletCfg where
  kind : BitVec 2
  carriers : BitVec 3
  vehChan : HkChan
  maxV : Nat
  maxImpI : Nat
  maxExpI : Nat
  isoChan : Option HkChan
  deadlineMs : Nat
  holdMs : Nat
  isoPass : Nat
  isoFault : Nat
  prechargeMs : Nat
  stopMs : Nat
  pilot : Fin 8
  exportOk : Bool
deriving DecidableEq, Repr

/-- Header of the phases section (06 R146). -/
structure PhasesHdr where
  period : Nat
  deadTime : Nat
  slopeK : Nat
  dcChan : HkChan
  prechargeI : Nat
  prechargeRamp : Nat
  checkRampMs : Nat
deriving DecidableEq, Repr

/-- Phases entry (06 R147). -/
structure PhaseCfg where
  hsChan : HkChan
  ifs : Nat
  ind : Nat
  rating : Nat
  blankNs : Nat
  dmax : Nat
  bandLo : Int
  bandHi : Int
  hsWarn : Int
  hsShut : Int
  hsReturn : Int
deriving DecidableEq, Repr

/-- Stage-group matrix entry (07 R175). -/
structure MtxEntry where
  phase : Phase
  outlet : Outlet
  opMs : Nat
  relMs : Nat
  home : Bool
deriving DecidableEq, Repr

/-- A temperature or flow source, or a pump (09 R222). -/
inductive ThmRef where
  | none
  | chan (c : HkChan)
  | aux (a : Aux)
  | drive (d : Fin 8)
deriving DecidableEq, Repr

structure ThmOutlet where
  sensA : HkChan
  sensB : Option HkChan
  loop : Option (Fin 4)
  start : Int
  hard : Int
  noFlow : Nat
deriving DecidableEq, Repr

structure ThmLoop where
  temp : ThmRef
  flow : ThmRef
  pump : ThmRef
  failsafe : Nat
  minFlow : Nat
  period : Nat
  temps : List Int
  duties : List Nat
deriving DecidableEq, Repr

structure ThmFan where
  aux : Aux
  failsafe : Nat
  period : Nat
  temps : List Int
  duties : List Nat
deriving DecidableEq, Repr

structure ThmDrive where
  addr : Nat
  speedReg : Nat
  flowReg : Option Nat
  tempReg : Option Nat
deriving DecidableEq, Repr

/-- Thermal tables (09 R222). -/
structure ThermCfg where
  beta : Nat
  rn : Nat
  batLo : Int
  batHi : Int
  bakChan : Option HkChan
  baud : BitVec 2
  outlets : Vector (Option ThmOutlet) 8
  loops : Vector (Option ThmLoop) 4
  fans : Vector (Option ThmFan) 4
  drives : Vector (Option ThmDrive) 8
deriving DecidableEq, Repr

/-- Battery tables (14 R349). -/
structure BatCfg where
  capacity : Nat
  chgP : Nat
  disP : Nat
  chgI : Nat
  disI : Nat
  vEoc : Nat
  vEod : Nat
  lo : Nat
  hi : Nat
  eff : Nat
  bc : Nat
  bs : Nat
  d1 : Nat
  d2 : Nat
  d3 : Nat
  c1 : Nat
  c2 : Nat
  c3 : Nat
  restI : Nat
  restS : Nat
  taperI : Nat
  quasi : Nat
  growth : Nat
  degradedH : Nat
  heldEn : Bool
  chans : List HkChan
  temps : List Int
  /-- 8 rows of 11 values, mV. -/
  ocv : List (List Nat)
  /-- 8 rows of 10 values, µΩ. -/
  z : List (List Nat)
deriving DecidableEq, Repr

/-- Sensor calibration entry (04 R119). -/
structure CalEntry where
  src : Option HkChan
  gain : Int
  offset : Int
  delay : Int
  gTable : List Int
  phTable : List Int
deriving DecidableEq, Repr

/-- The contents of a configuration: crew image and this controller's part (04 R101-R108). -/
structure CfgImage where
  pair : Pair
  crew : BitVec 4
  stroke : CtrlId
  bow : Option CtrlId
  umpire : Umpire
  members : List MemberEntry
  rating : Nat
  presets : Vector Nat 3
  leaps : List LeapEntry
  locals : List LocalEntry
  bands : Option (Vector BandCfg 16)
  tariff : Option TariffCfg
  scroll : Option (List DisplayCfg)
  /-- Variant bits of the controller part: A2, A4, A8T. -/
  variants : BitVec 3
  partId : CtrlId
  phaseRating : Nat
  outletRating : Vector Nat 8
  cabImport : Nat
  cabExport : Nat
  fbShare : Nat
  fbRamp : Nat
  outlets : Vector (Option OutletCfg) 8
  hdr : PhasesHdr
  phases : Vector (Option PhaseCfg) 24
  matrix : List MtxEntry
  thermal : ThermCfg
  battery : Option BatCfg
  laneCal : Vector (Option CalEntry) 24
  hkCal : Vector (Option CalEntry) 64
deriving DecidableEq, Repr

/-- Whether a member is listed. -/
def CfgImage.lists (c : CfgImage) (id : CtrlId) (identity : Digest) : Bool :=
  c.members.any fun m => m.id == id && m.identity == identity

/-- What a vehicle has stated of itself, in the units of the record fields after the conversion of 08 R207 and before the
clamp: limits, targets, discharge limits, and whether it asks for constant voltage (GB/T 27930). -/
structure EvVals where
  maxV : Nat
  targetV : Nat
  targetI : Nat
  maxI : Nat
  maxP : Option Nat
  disI : Nat
  disP : Nat
  constV : Bool
deriving DecidableEq, Repr

def EvVals.zero : EvVals := ⟨0, 0, 0, 0, none, 0, 0, false⟩

end Sys2Proof
end

