-- ==== Sys2Proof/Machine/TypesIn.lean ====
section
/-! DEFINITION. What the environment hands the block with a command: sampled inputs, converted channels, vehicle messages,
results of the cryptographic engines. -/
namespace Sys2Proof

/-- The inputs latched at a control tick beside the demand slots (11 R272): of the voltage and the current lane of each outlet the ten raw
outputs of its regulation filter whose times lie in the previous tick (12 R292); of each phase the eight codes of its sense sampler in the
period in progress (06 R154); contactor feedbacks DC+ and DC-, and the IMD_ALM_N levels. -/
structure TickIn where
  v : Vector (Vector Int 10) 8
  i : Vector (Vector Int 10) 8
  sense : Vector (Vector Int 8) 24
  fbp : Byte
  fbm : Byte
  imd : Byte
deriving DecidableEq, Repr

/-- What a pilot interface measures for one classification (07 R176-R178): the high plateau of a period of the control pilot and its low
plateau, in mV; the levels of the charge-enable loop and of the ID contact, in mV; the level of PLT_IN. -/
inductive PilotSample where
  | cp (high low : Int)
  | mcs (loop id : Int)
  | pltIn (level : Bool)
deriving DecidableEq, Repr

/-- The results of a housekeeping round (09 R220, R221): raw readings in the channel's LSB (none: invalid), die sensors,
supply channels, the mean ones-density of each measurement lane in 0.1 % (21 R488), and the resistance of the proximity contact of each pilot, Ω (07 R176). -/
structure HkIn where
  raw : Vector (Option Int) 64
  die : Vector (Option Int) 4
  supply : Vector Nat 6
  density : Vector Nat 24
  pp : Vector Int 8
deriving DecidableEq, Repr

/-- A PTP message (02 R65; IEEE 1588), its correction field already added to the time that it carries: a Sync with its sequence, one-step or
two-step; the Follow_Up of a two-step one; a Delay_Resp, with own time of the request and the master's of its reception; a completed
exchange of peer delay messages, with its four times. Times are in ns, own ones in fleet time, the others in TAI. -/
inductive PtpMsg where
  | sync (n : Half) (t1 : Option Int)
  | followUp (n : Half) (t1 : Int)
  | delayResp (t3 t4 : Int)
  | peerDelay (t1 t2 t3 t4 : Int)
deriving DecidableEq, Repr

/-- What a lane seals as its tick record (11 R275): tick, lane, flags, the writes that it issued (BAR0 offset, data) in their order, the bytes of
its state region, its subsets of the outlets and the phases. -/
structure TickRec where
  tick : DWord
  lane : Byte
  flags : Byte
  writes : List (Word × Word)
  region : List Byte
  outlets : Vector Word 8
  clamps : Vector Half 24
deriving DecidableEq, Repr

/-- A vehicle message by what it says (08 R205-R215); the encodings are those of the standards. -/
inductive VehMsg where
  /-- A stream that does not decode (R212). -/
  | exiError
  /-- An optional message or parameter that R205 does not name. -/
  | unsupported
  /-- A CAN frame in FD format (R202). -/
  | fdFrame
  /-- The IPv6 and SDP exchange is done (R204). -/
  | ipUp
  /-- A TLS handshake succeeded, with a CBC suite or a GCM one (R213). -/
  | tlsUp (cbc : Bool)
  /-- SessionSetup, or the start of the CAN exchange: the vehicle begins a session (R206). -/
  | setup
  /-- A service is selected: BPT or not (R205). -/
  | service (bpt : Bool)
  /-- The vehicle needs authorisation of a kind 1 to 4 (R210). -/
  | authorise (kind : BitVec 3)
  /-- An item of a kind 1 to 3 that the host may fetch (R214). -/
  | item (kind : Byte) (bytes : List Byte)
  /-- The vehicle asks for the schedules (R214). -/
  | scheduleRequest
  /-- Charge parameters or limits (R207). -/
  | limits (v : EvVals)
  | cableCheck
  /-- The vehicle's ready flag, or BRO (R207). -/
  | ready (on : Bool)
  /-- PreCharge with its target voltage. -/
  | precharge (targetV : Nat)
  /-- A current-demand message of the protocol in force (R215). -/
  | demand (v : EvVals)
  /-- PowerDelivery stop, an error code, a stop flag, BST or BEM (R207). -/
  | stop
  | welding
  /-- SessionStop. -/
  | sessionStop
deriving DecidableEq, Repr

/-- One 12.8 µs output of the legal decimators (12 R292): the raw code of each lane, and the 256 bitstream bits that it spans,
the first bit in bit 0 of word 0. -/
structure LegalIn where
  code : Vector Int 24
  bits : Vector (Vector Word 8) 24
deriving DecidableEq, Repr

/-- A grid window as it ends (12 R299-R301): its length in ns, the reference phase where one qualifies, the frequency in mHz, and of
each phase the rms values (mV, mA), P and Q (W, var); of each grid lane (V and I of phases 1 to 3 in turn) the magnitudes G_h
(mV or mA) and phases θ_h (0.01°) of harmonics 1 to 63. -/
structure GridIn where
  length : Nat
  ref : Option (Fin 3)
  freq : Nat
  vrms : Vector Nat 3
  irms : Vector Nat 3
  p : Vector Int 3
  q : Vector Int 3
  mag : Vector (List Nat) 6
  ang : Vector (List Int) 6
deriving DecidableEq, Repr

/-- The supply monitor's inputs (10 R262; 20 R470, R475, R476): the core rail and the 3.3 V I/O rail in mV, and for how long, in ns, what they
show has been so. -/
structure Rails where
  core : Nat
  io : Nat
  held : Nat
deriving DecidableEq, Repr

/-- What the caddy's tamper detection sees (18 R428): of two consecutive mesh checks the patterns driven and returned, one bit a pair; the
light sensor above its trip level; the key memory's own sensor in °C; VBAK and the core rail in mV; TMP_SW_N low, and for how long in ns. -/
structure TamperIn where
  drive : Vector (BitVec 4) 2
  ret : Vector (BitVec 4) 2
  light : Bool
  temp : Int
  vbak : Nat
  core : Nat
  swLow : BitVec 2
  swHeld : Nat
deriving DecidableEq, Repr

/-- What the management core does under a policy (19 R459): a freeze release, a staging of a configuration received on its Ethernet ports, a
key or image command with the verdict on the content it carries. -/
inductive PolicyAct where
  | release (token : Word)
  | stage (crew part : List Byte)
  | desc (d : Desc) (contentOk : Bool)
deriving DecidableEq, Repr

end Sys2Proof
end

