-- ==== Sys2Proof/Syntax.lean ====
section
/-! DEFINITION. The commands: one constructor for each row of spec/opcode_table.json. -/
namespace Sys2Proof

/-- The commands of the block, in the order of the table. A command that a host descriptor carries takes its ring and the
descriptor as fetched (15 R373). -/
inductive Instr where
  -- session junction, housekeeping, allocation rounds (01, 03, 09)
  | controlTick (inp : TickIn)
  | recordExpired (o : Outlet)
  | demandWrite (m : Master) (o : Outlet) (len offset : Nat) (d : Demand)
  | housekeepingRoundEnd (inp : HkIn)
  | upSend
  | upReceive (p : Port) (h : Hdr) (u : Up)
  | search
  | downReceive (p : Port) (h : Hdr) (d : Down)
  | downEvaluate
  | applyInstant
  | clampTransfer
  | mirrorReceive (p : Port) (h : Hdr) (m : Mirror)
  | umpireDecide
  | takeover
  | treeSwitch
  | drillRound
  | curtailChange (samples : List (Bool × Bool))
  | alcSetCap (r : Ring) (d : Desc)
  | alcDrill (r : Ring) (d : Desc)
  | alcTakeover (r : Ring) (d : Desc)
  | alcRoleRestore (r : Ring) (d : Desc)
  | alcHoldClear (r : Ring) (d : Desc)
  -- Regatta link and fleet time (02)
  | probeSend (triggered : Bool)
  | probeReceive (p : Port) (h : Hdr) (b : Probe)
  | portEnWrite (m : Master) (p : Port) (w : Word)
  | syncAcquired (p : Port) (aligned : Bool) (groups : Nat)
  | syncLost (p : Port) (los : Bool) (codeErrs : Nat)
  | neighbourSilent (p : Port)
  | portActive (p : Port)
  | frameForward (p : Port) (h : Hdr) (body : Payload)
  | cfgSegmentReceive (p : Port) (h : Hdr) (kind : Half) (msgId : Word) (index count : Nat) (bytes : List Byte)
  | cfgMessageTimeout
  | join (identity : Digest)
  | joinRepeat (identity : Digest)
  | joinReceive (p : Port) (h : Hdr) (b : JoinBody)
  | joinAck (id : CtrlId) (round : Nat)
  | joinRefuse (id : CtrlId) (reason : Byte)
  | admissionRound
  | leave (p : Port) (h : Hdr) (b : JoinBody)
  | leaveAck (id : CtrlId) (round : Nat)
  | memberRemoved (id : CtrlId)
  | timeOffsetUpdate (p : Port) (t1 t2 t3 t4 : Nat)
  | timeHoldover
  | crewForm
  | taiCheck
  | taiCorrectionApply
  | ppsEdge
  | ptpMessage (mgmtPort : Fin 2) (domain : Byte) (m : PtpMsg)
  -- configuration (04)
  | cfgStage (r : Ring) (d : Desc)
  | stageVerifyDone (sigOk : Bool)
  | cfgActivate (r : Ring) (d : Desc)
  | cfgStageCancel (r : Ring) (d : Desc)
  | stageReport
  | stageReportReceive (h : Hdr) (status : BitVec 4) (pair : Pair)
  | activationTimeout
  | announce
  | announceReceive (h : Hdr) (pair : Pair) (round : Nat)
  | adopted
  | catchUp
  -- PWM generators (05)
  | pwmShadowWrite (m : Master) (n : Phase) (reg : Fin 5) (w : Word)
  | pwmCommit (m : Master) (n : Phase) (w : Word)
  | pwmGroupCommit (m : Master) (w : Word)
  | pwmStart (m : Master) (w : Word)
  | pwmCtrlWrite (m : Master) (n : Phase) (w : Word)
  | pwmDtMinWrite (m : Master) (w : Word)
  | pwmAuxCommit (m : Master) (a : Aux) (w : Word)
  | pwmAuxCtrlWrite (m : Master) (a : Aux) (w : Word)
  | pendingTransfer (c : Fin 32)
  | periodBoundary (c : Fin 32) (samples : Vector Int 8)
  -- phase regulation (06)
  | comparatorTrip (n : Phase) (tm : Nat) (sense : Int)
  | dmaxLimit (n : Phase)
  | regApplyArm (m : Master) (w : Word)
  | regCtrlWrite (m : Master) (n : Phase) (w : Word)
  | regPhaseRestore (r : Ring) (d : Desc)
  | overcurrent (n : Phase) (a b : Int)
  | trackError (o : Outlet)
  | rampTimeout (o : Outlet)
  | pauseTimeout (o : Outlet)
  -- outlets (07)
  | outEnable (r : Ring) (d : Desc)
  | outDisable (r : Ring) (d : Desc)
  | outStop (r : Ring) (d : Desc)
  | outFaultClear (r : Ring) (d : Desc)
  | outSessionCap (r : Ring) (d : Desc)
  | pilotChange (i : Fin 8) (samples : List PilotSample)
  | cableCheckDone (o : Outlet)
  | cableCheckTimeout (o : Outlet)
  | prechargeTimeout (o : Outlet)
  | contactorDeadline (o : Outlet)
  | contactorFeedback (o : Outlet) (plus minus : Bool)
  | stopRampEnd (o : Outlet)
  | weldCheck (o : Outlet)
  | weldCheckTimeout (o : Outlet)
  | imdAlarm (o : Outlet)
  | moveCurrentZero (n : Phase)
  | moveTimeout (n : Phase)
  | matrixFeedback (k : HkChan) (closed : Bool)
  | reversalCurrentZero (o : Outlet)
  -- vehicle links (08)
  | vehicleMessage (o : Outlet) (msg : VehMsg)
  | protoSelected (o : Outlet) (offered : Byte)
  | slacMatch (o : Outlet) (mean : Byte)
  | slacFail (o : Outlet)
  | tlsFail (o : Outlet)
  | recordRefresh (o : Outlet)
  | authTimeout (o : Outlet)
  | loopTimeout (o : Outlet)
  | chargerFrameSend (o : Outlet)
  | vclSessionNextRead (m : Master)
  | vclSessionPolicy (r : Ring) (d : Desc)
  | vclAuth (r : Ring) (d : Desc)
  | vclFetch (r : Ring) (d : Desc)
  | vclCertResponse (r : Ring) (d : Desc)
  | vclSchedule (r : Ring) (d : Desc)
  | vclStationChain (r : Ring) (d : Desc)
  -- cooling and thermal (09)
  | drivePoll (n : Fin 8)
  | driveResponse (n : Fin 8) (flow : Option Nat) (temp : Option Int)
  | driveResponseTimeout (n : Fin 8)
  | flowFault (l : Fin 4)
  | dieTrip (temp : Int)
  -- safety (10)
  | safSeoDemand (r : Ring) (d : Desc)
  | safStoDemand (r : Ring) (d : Desc)
  | safSiteStop (r : Ring) (d : Desc)
  | safReset (r : Ring) (d : Desc)
  | estop (e : Fin 4) (a b : Bool) (held : Nat)
  | estopDiscrepancy (e : Fin 4)
  | contactorRelease (o : Outlet)
  | permitLost (o : Outlet)
  | genFault (n : Phase) (pad : Option Bool)
  | stoFault (a : Acd) (padA padB : Option Bool)
  | brkPulseEnd
  | imdFault (o : Outlet)
  | heartbeatSend (triggered : Bool)
  | heartbeatReceive (p : Port) (h : Hdr) (f : SafeFrame)
  | releaseAnnounceEnd (origin : CtrlId)
  | connExpired (p : Fin 8)
  | acdFrameSend (a : Acd)
  | acdFrameReceive (a : Acd) (f : SafeFrame)
  | tickTokenLost
  | supplyFault (x : Rails)
  | supplyRecovered (x : Rails)
  -- clock monitor (20)
  | rootLost (gap : Nat) (locked : Bool)
  | driftCheck (edges : Nat)
  | xtalFail (freq : Nat)
  | clockFaultReset
  -- control lanes (11)
  | tickCompare (a b : Option TickRec) (landed : List (Word × Word))
  | laneTakeover
  | tokenGateStop
  | coxDead
  | restartComplete (lane : Fin 2) (ok : Bool)
  | restartTimeout (lane : Fin 2)
  | resynced (lane : Fin 2)
  | drillTick
  | lneSwapDrill (r : Ring) (d : Desc)
  | lneLaneRestore (r : Ring) (d : Desc)
  -- metrology (12)
  | secondBoundary
  | sessionEvent (o : Outlet) (start : Bool)
  | gridWindowEnd (g : GridIn)
  | laneFault (n : MLane) (bits : List Bool)
  | laneClear (n : MLane)
  | reversedSensor (i : Fin 9)
  | darkBurst (samples : Vector (Vector Int 32) 8)
  | metCapture (r : Ring) (d : Desc)
  | captureDone
  -- billing (13)
  | intervalEnd
  | clockStep
  | receiptReady (number : Nat) (signed verified : Bool)
  | bilTariffSet (r : Ring) (d : Desc)
  | bilReceiptFetch (r : Ring) (d : Desc)
  | bilExport (r : Ring) (d : Desc)
  | bilErase (r : Ring) (d : Desc)
  | displayDwell (o : Fin 8)
  | displayPoll (o : Fin 8)
  | displayAnswer (o : Fin 8) (bytes : List Byte)
  | tamper (y : Fin 3) (low : Bool) (held : Nat)
  -- battery (14)
  | stepMeasurement (v1 i1 v2 i2 : Int) (spread : Nat)
  | heldDone
  | heldStepStart
  | batteryEnd
  | batteryHistoryWrite
  | bakEstimate
  | batHeldStep (r : Ring) (d : Desc)
  | batShip (r : Ring) (d : Desc)
  -- rings (15)
  | ringDbSq (m : Master) (r : Ring) (p : Word)
  | ringDbCq (m : Master) (r : Ring) (c : Word)
  | ringCtrlWrite (m : Master) (r : Ring) (w : Word)
  | busMasterEnable (f : Fn) (on : Bool)
  | drainDone (r : Ring)
  | descriptorDecide (r : Ring) (d : Desc) (contentOk : Bool)
  | acceptanceCommit (r : Ring) (verified : Bool)
  | notBeforeReached (r : Ring) (seq : DWord)
  | completionWrite (r : Ring)
  | ringNop (r : Ring) (d : Desc)
  | ringFence (r : Ring) (d : Desc)
  | irqModerationTimer (v : IrqVec)
  | journalRetry (verified : Bool)
  | rgtTimeOfDay (r : Ring) (d : Desc)
  | rgtTunnelSend (r : Ring) (d : Desc)
  | rgtTunnelRecv (r : Ring) (d : Desc)
  | tunnelReceive (p : Port) (h : Hdr) (channel : BitVec 4) (msgId : Word) (index count : Nat) (length : Word)
      (bytes : List Byte)
  | tunnelTimeout
  | tunnelRecvTimeout
  | functionLevelReset (f : Fn)
  -- shared window and freezing (16)
  | windowAccess (m : Master) (g : Region) (write : Bool) (addr : Nat) (bytes : List Byte)
  | winClaim (r : Ring) (d : Desc)
  | winRelease (r : Ring) (d : Desc)
  | winPartWrite (m : Master) (w : Word)
  | winOwnRead (f : Fn)
  | frzReleaseWrite (m : Master) (w : Word)
  -- register map (22)
  | loWordRead (m : Master) (off : Nat)
  | lcsPortAuthWrite (m : Master) (w : Word) (sigOk : Bool)
  | unmappedAccess (m : Master) (off : Nat) (write : Bool)
  | registerWrite (m : Master) (off : Nat) (w : Word)
  -- delivery (17)
  | dlvRingForget (r : Ring) (d : Desc)
  | journalRecovery
  -- keys (18)
  | caddyRequest (arrivals : List (Fin 4 × CaddyReq))
  | keySlotWrite (r : Ring) (d : Desc)
  | keySlotErase (r : Ring) (d : Desc)
  | keyOtpWrite (r : Ring) (d : Desc) (verified : Bool)
  | keyAnchorSet (r : Ring) (d : Desc)
  | keyLegacySet (r : Ring) (d : Desc)
  | keyQuote (r : Ring) (d : Desc)
  | keyCertFetch (r : Ring) (d : Desc)
  | keyTamper (x : TamperIn)
  -- life cycle (19)
  | lcsChallenge (r : Ring) (d : Desc)
  | lcsTransition (r : Ring) (d : Desc)
  | lcsPortOpen (r : Ring) (d : Desc)
  | lcsPortClose (r : Ring) (d : Desc)
  | lcsImageWrite (r : Ring) (d : Desc)
  | lcsImageActivate (r : Ring) (d : Desc)
  | lcsImageConfirm (r : Ring) (d : Desc)
  | lcsPolicySet (r : Ring) (d : Desc)
  | lcsLock (r : Ring) (d : Desc)
  -- resets and power (19, 20)
  | readyTimeout (kind : Fin 6)
  | planeReady (p : Plane) (integrator : Bool)
  | coldReset (source : BitVec 3) (held : Nat) (aonOk : Bool) (slots : BitVec 2) (estopA estopB : BitVec 4)
  | warmReset (clockFault : Bool) (held : Nat)
  | planeReset (p : Plane)
  | pwrReset (r : Ring) (d : Desc)
  | pwrIdle (r : Ring) (d : Desc)
  | pwrRun (r : Ring) (d : Desc)
  | powerFailWarning (pfw : Bool) (x : Rails)
  | pfwRecovered (pfw : Bool) (x : Rails)
  | holdEntry (x : Rails)
  | aonStop (vbak : Nat)
  -- diagnosis (21)
  | diaExport (r : Ring) (d : Desc)
  | diaHealth (r : Ring) (d : Desc)
  | diaRemote (r : Ring) (d : Desc)
  | diaRemoteTimeout
  | diagRequest (p : Port) (h : Hdr) (id : CtrlId) (crew : BitVec 4) (reqId : Word)
  | diagReply (p : Port) (h : Hdr) (reqId : Word) (record : List Byte)
  | driftWindow
  -- rows at the table's end
  | permitChange (o : Outlet) (closed : Bool)
  | legalSample (s : LegalIn)
  | compareEvent (n : Phase)
  | roleRestoreRound
  | removalRound
  | rootRecovered (held : Nat) (locked : Bool)
  | extSourceLost
  | imageVerifyDone (ok : Bool)
  | policyAction (act : PolicyAct)
  | bakChargerMode (vbak : Half) (microamps : Nat)
deriving DecidableEq, Repr

end Sys2Proof
end

