-- ==== Sys2Proof/Machine/Image.lean ====
section
/-! DEFINITION. The bytes of a configuration: headers, section framing and section bodies with their ranges (04 R101-R108, R119; 06 R146,
R147; 07 R173-R175; 09 R221, R222; 13 R317, R335; 14 R349). Fields are little-endian (00 R7); reserved fields are not looked at (00 R8). -/
namespace Sys2Proof.Machine

/-! ### Fields -/

def u8 (b : List Byte) (o : Nat) : Nat := (nth b o 0).toNat
def u16 (b : List Byte) (o : Nat) : Nat := u8 b o + 256 * u8 b (o + 1)
def u32 (b : List Byte) (o : Nat) : Nat := u16 b o + 65536 * u16 b (o + 2)
def u64 (b : List Byte) (o : Nat) : Nat := u32 b o + 2 ^ 32 * u32 b (o + 4)
def s16 (b : List Byte) (o : Nat) : Int := (BitVec.ofNat 16 (u16 b o)).toInt
def s32 (b : List Byte) (o : Nat) : Int := (BitVec.ofNat 32 (u32 b o)).toInt

/-- n bytes from an offset on. -/
def slice (b : List Byte) (o n : Nat) : List Byte := (b.drop o).take n

/-- A 32-byte digest, byte 0 least significant. -/
def digestAt (b : List Byte) (o : Nat) : Digest := (List.range 32).foldl (fun w i => w ||| BitVec.ofNat 256 (u8 b (o + i)) <<< (8 * i)) 0

/-- n entries of a size from an offset on. -/
def entriesAt (b : List Byte) (o size n : Nat) : List (List Byte) := (List.range n).map fun i => slice b (o + size * i) size

/-- A value lies in a range. -/
def natIn (lo hi x : Nat) : Bool := decide (lo ≤ x) && decide (x ≤ hi)

/-- Values rise from each to the next; where a chapter says ascending, strictly (log entry 139). -/
def rising : List Int → Bool
  | a :: b :: t => decide (a < b) && rising (b :: t)
  | _ => true
def risingNat (l : List Nat) : Bool := rising (l.map Int.ofNat)

/-- Values do not fall from one to the next. -/
def notFalling : List Nat → Bool
  | a :: b :: t => decide (a ≤ b) && notFalling (b :: t)
  | _ => true

/-- Every value occurs once. -/
def distinct {α : Type} [DecidableEq α] : List α → Bool
  | [] => true
  | a :: t => !(t.any fun x => decide (x = a)) && distinct t

/-- The value where a condition holds. -/
def okIf {α : Type} (c : Bool) (x : α) : Option α := if c then some x else none

/-- Every element's value, where each has one. -/
def allSome {α : Type} : List (Option α) → Option (List α)
  | [] => some []
  | none :: _ => none
  | some x :: t => (allSome t).map (x :: ·)

/-- The entry of a list that carries a number, for each number. -/
def byNumber {α : Type} (n : Nat) (l : List (Nat × α)) : Vector (Option α) n :=
  vmapIdx (.replicate n none) fun i _ => (l.find? fun x => x.1 == i.val).map (·.2)

/-- A housekeeping channel, 0-63. -/
def hkChan? (x : Nat) : Option HkChan := if h : x < 64 then some ⟨x, h⟩ else none

/-- A channel that may be absent: 0xFF none. -/
def hkOpt? (x : Nat) : Option (Option HkChan) := if x = 255 then some none else (hkChan? x).map some

/-! ### Headers and framing (04 R102, R103) -/

/-- A section: type, flags bit 0, body. -/
structure Section where
  kind : Nat
  ignorable : Bool
  body : List Byte
deriving DecidableEq, Repr

/-- The sections from the start of a list of bytes on, which they fill to its end; a section is padded with zeros to a multiple of 8. -/
def sections : Nat → List Byte → Option (List Section)
  | 0, b => if b.isEmpty then some [] else none
  | n + 1, b =>
    let len := u32 b 4
    let full := (len + 15) / 8 * 8
    if b.length < full then none
    else if (slice b (8 + len) (full - 8 - len)).any (· != 0) then none
    else (sections n (b.drop full)).map (⟨u16 b 0, (nth b 2 0).getLsbD 0, slice b 8 len⟩ :: ·)

/-- The section types that a kind of image may hold (04 R104). -/
def knownTypes (kind : Nat) : List Nat :=
  if kind = 1 then [1, 2, 3, 4, 5, 6] else [0x101, 0x102, 0x103, 0x104, 0x105, 0x106, 0x107]

/-- Bytes of a signature of an ML-DSA parameter set (04 R102). -/
def sigLen (alg : Nat) : Nat := if alg = 44 then 2420 else if alg = 65 then 3309 else if alg = 87 then 4627 else 0

/-- Bytes from offset 0 to the end of the last section, as the header says. -/
def imageLen (b : List Byte) : Nat := u32 b 12

/-- The header of a kind, without the fields that R110 checks by themselves. -/
def imgHeaderOk (kind : Nat) (b : List Byte) : Bool :=
  decide (u32 b 0 = 0x434C4843) && u16 b 4 == 1 && u16 b 6 == kind && natIn 1 64 (u16 b 20) && decide (64 ≤ imageLen b) &&
  (if kind = 1 then
    u16 b 16 % 4096 == 0 && u16 b 18 == 0 && sigLen (u16 b 22) != 0 &&
    u32 b (imageLen b) == sigLen (u16 b 22) && b.length == imageLen b + 4 + sigLen (u16 b 22)
  else
    (u16 b 18 == 1 || u16 b 18 == 2 || u16 b 18 == 4) && u16 b 22 == 0 && digestAt b 32 == 0 && b.length == imageLen b)

/-- The sections of an image whose header and framing are right: as many as the header says, types ascending and each once, unknown types
ignorable. -/
def framing (kind : Nat) (b : List Byte) : Option (List Section) :=
  if !imgHeaderOk kind b then none
  else match sections (u16 b 20) ((b.take (imageLen b)).drop 64) with
    | none => none
    | some l =>
      okIf (l.length == u16 b 20 && risingNat (l.map (·.kind)) && l.all fun x => (knownTypes kind).contains x.kind || x.ignorable) l

/-- The body of a section, where the image has one. -/
def bodyOf (l : List Section) (kind : Nat) : Option (List Byte) := (l.find? fun x => x.kind == kind).map (·.body)

/-- The crew digest or a part digest (04 R101). -/
def imageDigest (b : List Byte) : Digest := Config.sha3 (b.take (imageLen b))

/-! ### The crew image (04 R105, R106, R108; 07 R174; 13 R317, R335) -/

/-- What the membership section says. -/
structure Crew where
  stroke : CtrlId
  bow : Option CtrlId
  umpire : Umpire
  members : List MemberEntry
deriving DecidableEq, Repr

/-- The entries of a membership body, as far as it holds them. -/
def memberEntries (b : List Byte) : List MemberEntry :=
  (entriesAt b 8 68 (u16 b 6)).map fun e => ⟨BitVec.ofNat 12 (u16 e 0), digestAt e 4, digestAt e 36⟩

def umpireOf (x : Nat) : Umpire := if x = 0xFFFF then .none else if 0x8000 ≤ x then .host else .ctrl (BitVec.ofNat 12 x)

/-- Crew membership (R105): Stroke, Bow and a controller Umpire are listed and differ. -/
def crewOf (b : List Byte) : Option Crew :=
  let ids := (entriesAt b 8 68 (u16 b 6)).map fun e => u16 e 0
  let ms := memberEntries b
  let bow := if u16 b 2 = 0xFFFF then [] else [u16 b 2]
  let ump := match umpireOf (u16 b 4) with | .ctrl c => [c.toNat] | _ => []
  let roles := u16 b 0 :: (bow ++ ump)
  okIf (natIn 1 4096 (u16 b 6) && b.length == 8 + 68 * u16 b 6 && risingNat ids && ids.all (· < 4096) &&
      distinct (ms.map (·.identity)) && distinct roles && roles.all ids.contains)
    ⟨BitVec.ofNat 12 (u16 b 0), if u16 b 2 = 0xFFFF then none else some (BitVec.ofNat 12 (u16 b 2)), umpireOf (u16 b 4), ms⟩

/-- Crew budget (R106): rating and presets, none above the one before it. -/
def budgetOf (b : List Byte) : Option (Nat × Vector Nat 3) :=
  okIf (b.length == 16 && decide (u32 b 4 ≤ u32 b 0) && decide (u32 b 8 ≤ u32 b 4) && decide (u32 b 12 ≤ u32 b 8))
    (u32 b 0, #v[u32 b 4, u32 b 8, u32 b 12])

/-- Time (R108). -/
def timeOf (b : List Byte) : Option (List LeapEntry × List LocalEntry) :=
  let p := u16 b 0
  let q := u16 b 2
  let leaps := (entriesAt b 8 16 p).map fun e => (⟨u64 e 0, s16 e 8⟩ : LeapEntry)
  let locals := (entriesAt b (8 + 16 * p) 16 q).map fun e => (⟨u64 e 0, s32 e 8⟩ : LocalEntry)
  okIf (natIn 1 64 p && decide (q ≤ 64) && b.length == 8 + 16 * (p + q) && risingNat (leaps.map (·.instant)) &&
      risingNat (locals.map (·.instant)) && locals.all fun e => decide (-50400 ≤ e.off) && decide (e.off ≤ 50400))
    (leaps, locals)

/-- Priority bands (07 R174). -/
def bandsOf (b : List Byte) : Option (Vector BandCfg 16) :=
  okIf (b.length == 128)
    (vmapIdx (.replicate 16 ⟨0, false, false⟩) fun k _ =>
      ⟨BitVec.ofNat 32 (u32 b (8 * k.val)), (nth b (8 * k.val + 4) 0).getLsbD 0, (nth b (8 * k.val + 4) 0).getLsbD 1⟩)

/-- A day type of the tariff schedule: its switches ascend from minute 0, unused ones are zero. -/
def dayTypeOf (n : Nat) (e : List Byte) : Option (List TariffSwitch) :=
  let c := u8 e 0
  let sw := (entriesAt e 4 4 c).map fun x => (⟨u16 x 0, u8 x 2⟩ : TariffSwitch)
  okIf (natIn 1 12 c && u16 e 4 == 0 && risingNat (sw.map (·.minute)) &&
      sw.all (fun x => decide (x.minute ≤ 1439) && natIn 1 n x.tariff) && (e.drop (4 + 4 * c)).all (· == 0)) sw

/-- Tariff schedule (13 R317). -/
def tariffOf (b : List Byte) : Option TariffCfg :=
  let n := u8 b 0
  let l := u8 b 1
  let s := u8 b 3
  let k := u8 b 8
  let m := u8 b 9
  let week := (List.range 7).map fun i => u8 b (16 + 52 * k + i)
  let special := (entriesAt b (24 + 52 * k) 8 m).map fun e => (⟨u16 e 0, u8 e 2, u8 e 3, u8 e 4⟩ : SpecialDay)
  match allSome ((entriesAt b 16 52 k).map (dayTypeOf n)) with
  | none => none
  | some days =>
    okIf (natIn 1 8 n && natIn 1 60 l && 1440 % l == 0 && decide (u8 b 2 ≤ 1) &&
        (if u8 b 2 = 0 then s == 0 else s != 0 && l % s == 0 && decide (l / s ≤ 15)) &&
        decide (u16 b 4 ≤ 600) && decide (u8 b 6 ≤ 28) && natIn 1 8 k && decide (m ≤ 64) && b.length == 24 + 52 * k + 8 * m &&
        week.all (natIn 1 k) && special.all (fun e => natIn 1 k e.dayType) &&
        risingNat (special.map fun e => (e.year * 256 + e.month) * 256 + e.day))
      ⟨n, l, u8 b 2 == 1, s, u16 b 4, u8 b 6, (nth b 7 0).getLsbD 0, days, week, special⟩

/-- A configured item code that is valid for a subject (13 R336). -/
def itemOk (subject code : Nat) : Bool :=
  natIn 0x20 0x31 code || (if subject = 0x10 then natIn 0x35 0x3C code else natIn 0x32 0x34 code)

/-- Display scroll list (13 R335); `fitted` says which outlets are. -/
def scrollOf (fitted : Nat → Bool) (b : List Byte) : Option (List DisplayCfg) :=
  let n := u8 b 0
  let l := (entriesAt b 8 24 n).map fun e => (⟨u8 e 0, u8 e 1, u8 e 2, u8 e 3, (slice e 8 (min 16 (u8 e 4))).map (·.toNat)⟩ : DisplayCfg)
  okIf (natIn 1 8 n && b.length == 8 + 24 * n && distinct (l.map fun e => (e.chain, e.pos)) &&
      (l.all fun e => decide (e.chain ≤ 1) && natIn 1 4 e.pos && (e.subject == 0x10 || (decide (e.subject < 8) && fitted e.subject)) &&
        natIn 2 30 e.dwell && e.items.all (itemOk e.subject)) &&
      (entriesAt b 8 24 n).all fun e => decide (u8 e 4 ≤ 16) && (e.drop (8 + u8 e 4)).all (· == 0))
    l

/-! ### The controller part (04 R107, R119; 06 R146, R147; 07 R173, R175; 09 R222; 14 R349) -/

/-- What the ratings section says. -/
structure Ratings where
  phase : Nat
  outlets : Vector Nat 8
  cabImport : Nat
  cabExport : Nat
  fbShare : Nat
  fbRamp : Nat
deriving DecidableEq, Repr

/-- Ratings (R107); an outlet that the variant lacks has rating 0. -/
def ratingsOf (v : Variant) (b : List Byte) : Option Ratings :=
  okIf (b.length == 52 && natIn 1 65535 (u32 b 48) && (List.range 8).all fun o => decide (o < v.outlets) || u32 b (4 + 4 * o) == 0)
    ⟨u32 b 0, vmapIdx (.replicate 8 0) fun o _ => u32 b (4 + 4 * o.val), u32 b 36, u32 b 40, u32 b 44, u32 b 48⟩

/-- An outlets entry (07 R173). -/
def outletEntry (e : List Byte) : Option (Nat × OutletCfg) :=
  let pass := if u16 e 14 = 0 then 500 else u16 e 14
  let fault := if u16 e 16 = 0 then 100 else u16 e 16
  match hkChan? (u8 e 3), hkOpt? (u8 e 10) with
  | some veh, some iso =>
    if hp : u8 e 22 < 8 then
      okIf (decide (u8 e 0 < 8) && decide (u8 e 1 ≤ 2) && natIn 500 15000 (u16 e 4) && natIn 10 200 (u8 e 11) && natIn 100 10000 (u16 e 12) &&
          natIn 100 5000 pass && decide (fault < pass) && natIn 1000 20000 (u16 e 18) && natIn 10 1000 (u16 e 20))
        (u8 e 0, ⟨BitVec.ofNat 2 (u8 e 1), BitVec.ofNat 3 (u8 e 2), veh, u16 e 4, u16 e 6, u16 e 8, iso, u8 e 11, u16 e 12, u16 e 14, u16 e 16,
          u16 e 18, u16 e 20, ⟨u8 e 22, hp⟩, (nth e 23 0).getLsbD 0⟩)
    else none
  | _, _ => none

/-- The outlets section. -/
def outletsOf (b : List Byte) : Option (Vector (Option OutletCfg) 8) :=
  let n := u8 b 0
  match allSome ((entriesAt b 8 32 n).map outletEntry) with
  | none => none
  | some l => okIf (natIn 1 8 n && b.length == 8 + 32 * n && risingNat (l.map (·.1))) (byNumber 8 l)

/-- The header of the phases section (06 R146, R527); `dtMin` is `PWM_DT_MIN` in force. -/
def phasesHdrOf (dtMin : Nat) (b : List Byte) : Option PhasesHdr :=
  match hkChan? (u8 b 7) with
  | none => none
  | some dc =>
    okIf (natIn 4800 240000 (u32 b 0) && natIn dtMin 4095 (u16 b 4) && natIn 1 255 (u8 b 6) && natIn 1 100 (u16 b 8) &&
        natIn 10 1000 (u16 b 10) && natIn 10 10000 (u16 b 12) && natIn 1 24 (u8 b 14) && b.length == 16 + 24 * u8 b 14)
      ⟨u32 b 0, u16 b 4, u8 b 6, dc, u16 b 8, u16 b 10, u16 b 12⟩

/-- A phases entry (06 R147). -/
def phaseEntry (e : List Byte) : Option (Nat × PhaseCfg) :=
  match hkChan? (u8 e 1) with
  | none => none
  | some hs =>
    okIf (decide (u8 e 0 < 24) && decide (100 ≤ u16 e 2) && decide (10 ≤ u16 e 4) && decide (u16 e 6 ≤ u16 e 2) && natIn 40 400 (u16 e 8) &&
        natIn 1000 9500 (u16 e 10) && decide (s16 e 12 < s16 e 14) && decide (s16 e 16 < s16 e 18) && decide (s16 e 20 < s16 e 16))
      (u8 e 0, ⟨hs, u16 e 2, u16 e 4, u16 e 6, u16 e 8, u16 e 10, s16 e 12, s16 e 14, s16 e 16, s16 e 18, s16 e 20⟩)

def phasesOf (b : List Byte) : Option (Vector (Option PhaseCfg) 24) :=
  match allSome ((entriesAt b 16 24 (u8 b 14)).map phaseEntry) with
  | none => none
  | some l => okIf (risingNat (l.map (·.1))) (byNumber 24 l)

/-- A matrix entry (07 R175), of a fitted phase and a fitted outlet. -/
def mtxOf (outs : Vector (Option OutletCfg) 8) (phs : Vector (Option PhaseCfg) 24) (e : List Byte) : Option MtxEntry :=
  if hn : u8 e 0 < 24 then
    if ho : u8 e 1 < 8 then
      okIf ((phs.get ⟨u8 e 0, hn⟩).isSome && (outs.get ⟨u8 e 1, ho⟩).isSome && natIn 1 50 (u8 e 2) && natIn 1 50 (u8 e 3))
        ⟨⟨u8 e 0, hn⟩, ⟨u8 e 1, ho⟩, u8 e 2, u8 e 3, (nth e 4 0).getLsbD 0⟩
    else none
  else none

/-- The matrix section: at most one home entry for a phase, a pair once, a home phase for every fitted outlet. -/
def matrixOf (outs : Vector (Option OutletCfg) 8) (phs : Vector (Option PhaseCfg) 24) (b : List Byte) : Option (List MtxEntry) :=
  let n := u8 b 0
  match allSome ((entriesAt b 8 8 n).map (mtxOf outs phs)) with
  | none => none
  | some l =>
    let homes := l.filter (·.home)
    okIf (natIn 1 64 n && b.length == 8 + 8 * n && distinct (homes.map (·.phase)) && distinct (l.map fun e => (e.phase, e.outlet)) &&
        (List.finRange 8).all fun o => (outs.get o).isNone || homes.any fun e => e.outlet == o) l

/-- A source or pump of the thermal tables (09 R222): a channel or auxiliary channel below a bound, 0x80 + d for drive d, 0xFF none. -/
def thmRef? (aux : Bool) (x : Nat) : Option ThmRef :=
  if 0x80 ≤ x && x < 0x88 then (if h : x - 0x80 < 8 then some (.drive ⟨x - 0x80, h⟩) else none)
  else if aux then (if h : x < 8 then some (.aux ⟨x, h⟩) else none)
  else if x = 255 then some .none
  else (hkChan? x).map .chan

/-- Five table temperatures and duties. -/
def tempsAt (e : List Byte) (o : Nat) : List Int := (List.range 5).map fun i => s16 e (o + 2 * i)
def dutiesAt (e : List Byte) (o : Nat) : List Nat := (List.range 5).map fun i => u8 e (o + i)

def thmOutletOf (outs : Vector (Option OutletCfg) 8) (e : List Byte) : Option (Nat × ThmOutlet) :=
  match hkChan? (u8 e 1), hkOpt? (u8 e 2) with
  | some a, some b =>
    if ho : u8 e 0 < 8 then
      let loop : Option (Option (Fin 4)) := if u8 e 3 = 255 then some none else if h : u8 e 3 < 4 then some (some ⟨u8 e 3, h⟩) else none
      match loop with
      | none => none
      | some l => okIf ((outs.get ⟨u8 e 0, ho⟩).isSome && decide (s16 e 4 + 500 ≤ s16 e 6)) (u8 e 0, ⟨a, b, l, s16 e 4, s16 e 6, u16 e 8⟩)
    else none
  | _, _ => none

def thmLoopOf (e : List Byte) : Option ThmLoop :=
  match thmRef? false (u8 e 0), thmRef? false (u8 e 1), thmRef? true (u8 e 2) with
  | some t, some f, some p =>
    okIf (decide (u8 e 3 ≤ 100) && rising (tempsAt e 8) && (dutiesAt e 18).all (· ≤ 100))
      ⟨t, f, p, u8 e 3, u16 e 4, u16 e 6, tempsAt e 8, dutiesAt e 18⟩
  | _, _, _ => none

def thmFanOf (e : List Byte) : Option ThmFan :=
  if h : u8 e 0 < 8 then
    okIf (decide (u8 e 1 ≤ 100) && rising (tempsAt e 4) && (dutiesAt e 14).all (· ≤ 100))
      ⟨⟨u8 e 0, h⟩, u8 e 1, u16 e 2, tempsAt e 4, dutiesAt e 14⟩
  else none

def thmDriveOf (e : List Byte) : Option ThmDrive :=
  okIf (natIn 1 247 (u8 e 0))
    ⟨u8 e 0, u16 e 2, if u16 e 4 = 0xFFFF then none else some (u16 e 4), if u16 e 6 = 0xFFFF then none else some (u16 e 6)⟩

/-- Thermal tables (09 R222). Loops are numbered by their place in the section. -/
def thermalOf (outs : Vector (Option OutletCfg) 8) (b : List Byte) : Option ThermCfg :=
  let a := u8 b 0
  let l := u8 b 1
  let f := u8 b 2
  let d := u8 b 3
  let outE := entriesAt b 16 16 a
  let loopE := entriesAt b (16 + 16 * a) 24 l
  let fanE := entriesAt b (16 + 16 * a + 24 * l) 20 f
  let drvE := entriesAt b (16 + 16 * a + 24 * l + 20 * f) 8 d
  match allSome (outE.map (thmOutletOf outs)), allSome (loopE.map thmLoopOf), allSome (fanE.map thmFanOf), allSome (drvE.map thmDriveOf),
      hkOpt? (u8 b 14) with
  | some os, some ls, some fs, some ds, some bak =>
    okIf (decide (a ≤ 8) && decide (l ≤ 4) && decide (f ≤ 4) && decide (d ≤ 8) && b.length == 16 + 16 * a + 24 * l + 20 * f + 8 * d &&
        natIn 2000 6000 (u16 b 4) && decide (u8 b 12 ≤ 44) && decide (u8 b 12 < u8 b 13) && decide (u8 b 13 ≤ 45) &&
        risingNat (os.map (·.1)) && notFalling (loopE.map (u8 · 0)) && risingNat (fanE.map (u8 · 0)) && risingNat (drvE.map (u8 · 0)))
      ⟨u16 b 4, u32 b 8, u8 b 12, u8 b 13, bak, BitVec.ofNat 2 (u8 b 15), byNumber 8 os, byNumber 4 ((List.range l).zip ls),
        byNumber 4 ((List.range f).zip fs), byNumber 8 ((List.range d).zip ds)⟩
  | _, _, _, _, _ => none

/-- Battery tables (14 R349). -/
def batteryOf (b : List Byte) : Option BatCfg :=
  let n := u8 b 61
  let temps := (List.range 8).map fun i => s16 b (72 + 2 * i)
  let ocv := (List.range 8).map fun r => (List.range 11).map fun c => u32 b (88 + 44 * r + 4 * c)
  let z := (List.range 8).map fun r => (List.range 10).map fun c => u32 b (440 + 40 * r + 4 * c)
  match allSome ((List.range (min 8 n)).map fun i => hkChan? (u8 b (62 + i))) with
  | none => none
  | some chans =>
    okIf (b.length == 760 && decide (u32 b 24 < u32 b 20) && decide (u16 b 28 < u16 b 30) && decide (u16 b 30 ≤ 10000) &&
        natIn 9000 10000 (u16 b 32) && decide (u8 b 34 ≤ 15) && decide (u8 b 35 ≤ 15) &&
        decide (u16 b 38 < u16 b 36) && decide (u16 b 40 < u16 b 38) && decide (u16 b 42 < u16 b 44) && decide (u16 b 44 < u16 b 46) &&
        decide (60 ≤ u16 b 50) && decide (u16 b 58 ≤ 720) && natIn 1 8 n && ((slice b (62 + n) (8 - n)).all (· == 255)) &&
        rising temps && ocv.all notFalling)
      ⟨u32 b 0, u32 b 4, u32 b 8, u32 b 12, u32 b 16, u32 b 20, u32 b 24, u16 b 28, u16 b 30, u16 b 32, u8 b 34, u8 b 35, u16 b 36, u16 b 38,
        u16 b 40, u16 b 42, u16 b 44, u16 b 46, u16 b 48, u16 b 50, u16 b 52, u16 b 54, u16 b 56, u16 b 58, (nth b 60 0).getLsbD 0, chans,
        temps, ocv, z⟩

/-- A sensor calibration entry (04 R119): the phase table is of grid lanes only. -/
def calOf (e : List Byte) : Option (Nat × CalEntry) :=
  let ch := u8 e 0
  let ph := (List.range 17).map fun i => s32 e (84 + 4 * i)
  match hkOpt? (u8 e 1) with
  | none => none
  | some src =>
    okIf ((decide (ch < 24) || natIn 64 127 ch) && decide (-20000 ≤ s32 e 12) && decide (s32 e 12 ≤ 20000) &&
        (decide (ch < 24) || s32 e 12 == 0) && (natIn 16 21 ch || ph.all (· == 0)))
      (ch, ⟨src, s32 e 4, s32 e 8, s32 e 12, (List.range 17).map fun i => s32 e (16 + 4 * i), ph⟩)

/-- The sensor calibration section: measurement lanes, housekeeping channels. -/
def calibrationOf (b : List Byte) : Option (Vector (Option CalEntry) 24 × Vector (Option CalEntry) 64) :=
  let n := u16 b 0
  match allSome ((entriesAt b 4 152 n).map calOf) with
  | none => none
  | some l =>
    okIf (decide (n ≤ 88) && b.length == 4 + 152 * n && risingNat (l.map (·.1)))
      (byNumber 24 l, byNumber 64 ((l.filter fun x => decide (64 ≤ x.1)).map fun x => (x.1 - 64, x.2)))

/-! ### Resources (04 R110 step 8) -/

/-- The variant's bit in a controller part. -/
def variantBit : Variant → Nat | .a2 => 0 | .a4 => 1 | .a8t => 2

/-- The part names only resources that the variant has (00 R1): its variant bit, outlets, phases, matrix and thermal outlets, calibrated
measurement lanes. -/
def resourcesPresent (v : Variant) (part : List Byte) (l : List Section) : Bool :=
  let body := fun k => (bodyOf l k).getD []
  let outs := (entriesAt (body 0x102) 8 32 (u8 (body 0x102) 0)).map (u8 · 0)
  let phs := (entriesAt (body 0x103) 16 24 (u8 (body 0x103) 14)).map (u8 · 0)
  let mtx := entriesAt (body 0x104) 8 8 (u8 (body 0x104) 0)
  let thm := (entriesAt (body 0x105) 16 16 (u8 (body 0x105) 0)).map (u8 · 0)
  let cal := (entriesAt (body 0x107) 4 152 (u16 (body 0x107) 0)).map (u8 · 0)
  (nth part 18 0).getLsbD (variantBit v) && outs.all (· < v.outlets) && phs.all (· < v.phases) &&
  mtx.all (fun e => decide (u8 e 0 < v.phases) && decide (u8 e 1 < v.outlets)) && thm.all (· < v.outlets) &&
  cal.all fun c => decide (c < 2 * v.outlets) || decide (16 ≤ c)

/-! ### The contents (04 R110 step 9) -/

/-- The rows of 09 R221 in which a configuration gives a channel a role; the five rows are tried in their order. -/
def channelRows (c : CfgImage) (n : HkChan) : List Bool :=
  let outs := c.thermal.outlets.toList.filterMap id
  let loops := c.thermal.loops.toList.filterMap id
  [outs.any (fun o => o.sensA == n || o.sensB == some n) || loops.any (fun l => l.temp == .chan n),
   (c.phases.toList.filterMap id).any (fun p => p.hsChan == n) || c.thermal.bakChan == some n ||
     (match c.battery with | some b => b.chans.contains n | none => false),
   loops.any (fun l => l.flow == .chan n),
   c.hdr.dcChan == n || (c.outlets.toList.filterMap id).any (fun o => o.vehChan == n),
   (c.outlets.toList.filterMap id).any (fun o => o.isoChan == some n)]

/-- A channel has roles of two rows: the image is malformed (09 R221). -/
def roleConflict (c : CfgImage) : Bool := (List.finRange 64).any fun n => decide (1 < ((channelRows c n).filter id).length)

/-- An optional section: absent, or within its ranges. -/
def optional {α : Type} (f : List Byte → Option α) : Option (List Byte) → Option (Option α)
  | none => some none
  | some b => (f b).map some

/-- The contents of a crew image and a part; none where a required section is missing or a value lies outside its range. -/
def decodeImage (v : Variant) (dtMin : Nat) (crew part : List Byte) (cs ps : List Section) : Option CfgImage :=
  match (bodyOf cs 1).bind crewOf, (bodyOf cs 2).bind budgetOf, (bodyOf cs 3).bind timeOf, optional bandsOf (bodyOf cs 4),
      optional tariffOf (bodyOf cs 5), (bodyOf ps 0x101).bind (ratingsOf v), (bodyOf ps 0x102).bind outletsOf,
      (bodyOf ps 0x103).bind (phasesHdrOf dtMin), (bodyOf ps 0x103).bind phasesOf, optional batteryOf (bodyOf ps 0x106),
      (bodyOf ps 0x107).bind calibrationOf with
  | some m, some bd, some tm, some bands, some tariff, some rt, some outs, some hdr, some phs, some bat, some cal =>
    match (bodyOf ps 0x104).bind (matrixOf outs phs), (bodyOf ps 0x105).bind (thermalOf outs),
        optional (scrollOf fun o => if h : o < 8 then (outs.get ⟨o, h⟩).isSome else false) (bodyOf cs 6) with
    | some mtx, some thm, some scroll =>
      let c : CfgImage :=
        { pair := ⟨BitVec.ofNat 32 (u32 crew 8), imageDigest crew⟩, crew := BitVec.ofNat 4 (u16 crew 16 / 4096), stroke := m.stroke, bow := m.bow,
          umpire := m.umpire, members := m.members, rating := bd.1, presets := bd.2, leaps := tm.1, locals := tm.2, bands := bands, tariff := tariff,
          scroll := scroll, variants := BitVec.ofNat 3 (u16 part 18), partId := BitVec.ofNat 12 (u16 part 16), phaseRating := rt.phase,
          outletRating := rt.outlets, cabImport := rt.cabImport, cabExport := rt.cabExport, fbShare := rt.fbShare, fbRamp := rt.fbRamp,
          outlets := outs, hdr := hdr, phases := phs, matrix := mtx, thermal := thm, battery := bat, laneCal := cal.1, hkCal := cal.2 }
      okIf (!roleConflict c) c
    | _, _, _ => none
  | _, _, _, _, _, _, _, _, _, _, _ => none

end Sys2Proof.Machine
end

