-- ==== Sys2Proof/Machine/StateHost.lean ====
section
/-! DEFINITION. State of the host-facing blocks and of the blocks every other block reports to: clocks, power, event
registers, interrupts, rings, journal, shared window, freezes, diagnosis, GLB (15, 16, 17, 20, 21, 22). -/
namespace Sys2Proof.Machine

/-- Clock tree, clock monitor and time (20 R463-R469, R483; 02 "Fleet time"). `cycle` counts CLK_SYS cycles and is the
model's own base for the durations of the manual (log entry 1); `fleetFix` is the fleet-time counter in units of
2^-32 ns. -/
structure Clk where
  cycle : Nat
  fleetFix : Nat
  rate : Nat
  rtcFix : Nat
  pllLock : Bool
  rootLost : Bool
  drift : Bool
  holdover : Bool
  xtalFail : Bool
  /-- Cycle since which the crystal has been in range while `XTAL_FAIL` is set (20 R468). -/
  xtalGood : Option Nat
  rootPpm : Half
  cntLoss : Word
  cntDrift : Word
  /-- Cycle of the clock fault whose warm reset is due 5 ms later (20 R469 step 5). -/
  faultSince : Option Nat
  /-- Warm reset held until the root is good (20 R469 step 5). -/
  resetHeld : Bool
deriving DecidableEq, Repr

/-- Power states of 20 R475. -/
inductive PwrMode where
  | run | idle | hold | ship
deriving DecidableEq, Repr

/-- Modes of the backup-cell charger (20 R479). -/
inductive BakMode where
  | off | constCurrent | constVoltage
deriving DecidableEq, Repr

/-- Steps of a dark-charge burst in HOLD (12 R307): AUXPWR off, on for 500 µs, on with MOD_CLK running. -/
inductive Burst where
  | off | powered | clocked
deriving DecidableEq, Repr

/-- Resets and power states (20 R470-R483). -/
structure Pwr where
  mode : PwrMode
  /-- The burst in progress (12 R307; 23 R519). -/
  burst : Burst
  pfw : Bool
  cause : BitVec 3
  aonLost : Bool
  legalReady : Bool
  mgmtReady : Bool
  controlReady : Bool
  dataReady : Bool
  integratorReady : Bool
  home : Bool
  ready : Bool
  readyMs : Half
  holdS : Word
  bakChg : BitVec 5
  cntPfw : Word
  cntWarm : Word
  bakMode : BakMode
  /-- Fetching has stopped at a warning or a clock fault (20 R469, R476). -/
  fetchStopped : Bool
  /-- Cycle of the last reset release (bounds of 20 R473). -/
  resetAt : Nat
  /-- Descriptors of `PWR_RESET` waiting for the ready instant of the plane they reset (20 R481). -/
  resetWait : List (Ring × DWord × Plane)
  /-- Planes whose plane reset has not completed: control, data, management (20 R483 `PLANE_RESET`). -/
  planeRst : BitVec 3
  /-- Cycle of the last cold start (21 R491). -/
  coldAt : Nat
  /-- Fleet time of the entry into HOLD, and whether the always-on domain has stopped in it (20 R475, R478). -/
  holdAt : Nat
  aonStopped : Bool
deriving DecidableEq, Repr

/-- The `_EVENTS` and `_EVENT_EN` registers of every block. -/
structure EvRegs where
  clk : EvReg
  pwr : EvReg
  ring : Vector EvReg 3
  frz : EvReg
  alc : EvReg
  cfg : EvReg
  pwm : Vector EvReg 24
  reg : Vector EvReg 24
  out : Vector EvReg 8
  vcl : Vector EvReg 8
  thm : EvReg
  saf : EvReg
  lne : EvReg
  met : EvReg
  bil : EvReg
  bat : EvReg
  key : EvReg
  lcs : EvReg
  dia : EvReg
deriving DecidableEq, Repr

/-- A vector's moderation state and its MSI-X table entry (15 R389, R393). -/
structure Irq where
  count : Byte
  time : Half
  u : Half
  /-- Cycle at which the running moderation timer started. -/
  timer : Option Nat
  msgAddr : DWord
  msgData : Word
  masked : Bool
  pendingBit : Bool
deriving DecidableEq, Repr

/-- A token bucket (15 R376), in 375,000,000ths of a token, and the cycle of its last refill. -/
structure Bucket where
  level : Nat
  since : Nat
deriving DecidableEq, Repr

/-- A descriptor decided to accept whose acceptance commit is in progress (15 R380). -/
structure Committing where
  slot : Word
  desc : Desc
  pages : List (Fin 4096)
deriving DecidableEq, Repr

/-- A completion that a CQ slot holds: of an accepted sequence, or a refusal or replay. -/
inductive CqEntry where
  | original (seq : DWord)
  | refusal (seq : DWord)
  | replay (seq : DWord)
deriving DecidableEq, Repr

/-- A ring (15 R368-R393). -/
structure RingSt where
  base : DWord
  cqBase : DWord
  shadow : DWord
  size : BitVec 4
  en : Bool
  classes : BitVec 5
  vector : BitVec 7
  st : RingState
  cqFull : Bool
  p : Word
  /-- The next slot whose descriptor is decided; A is this, or the first slot still committing (15 R369, R371). -/
  fetch : Word
  q : Word
  c : Word
  exp : DWord
  outstanding : Nat
  /-- Fetching waits for the next doorbell write (16 R404; 20 R477). -/
  waitDb : Bool
  keptSq : Option Word
  keptCq : Option Word
  committing : List Committing
  /-- Refusal completions not yet written (15 R381; 16 R403), and whether each is signalled at once. -/
  refusals : List (Comp × Bool)
  /-- Replays asked for and not yet written (15 R382), and whether each is signalled at once. -/
  replays : List (DWord × Bool)
  /-- What the CQ slots from C up to Q hold. -/
  cqLog : List CqEntry
  buckets : Vector Bucket 5
  updates : Word
deriving DecidableEq, Repr

/-- Banked RING registers of a function and its Bus Master Enable (15 R393, R530; 17 R425). -/
structure RingFn where
  cntAccept : Word
  cntRefused : Word
  cntReplay : Word
  cntTunnelDrop : Word
  cntBadAccess : Word
  busMaster : Bool
  recovering : Bool
  lastReset : BitVec 3
  recovered : Bool
  interrupted : Bool
deriving DecidableEq, Repr

/-- A journal slot with its records (17 R409-R412). `tookUp` is the model's own mark that the work has been taken up
(15 R377, R378); `written` and `everWritten` say whether its completion stands in the present CQ or ever stood in one
(17 R417). -/
structure JSlot where
  seq : DWord
  desc : Desc
  st : SlotState
  comp : Option Comp
  tookUp : Bool
  jpos : DWord
  /-- Fleet time of the acceptance. -/
  accepted : Nat
  /-- A cold reset took its pages before it had finished with them (17 R419). -/
  lost : Bool
  deadline : Nat
  pages : List (Fin 4096)
  written : Bool
  everWritten : Bool
deriving DecidableEq, Repr

/-- The acceptance and completion journal (17 R409-R413). -/
structure Dlv where
  slots : Vector (List JSlot) 64
  first : Vector DWord 64
  jpos : DWord
  fault : Bool
  lastRetry : Nat
  /-- Fleet time at which the reset began that a carrier's records are still to be recovered after: control, data, management plane,
  legal domain (17 R418). -/
  resetStart : Vector (Option Nat) 4
  devBuckets : Vector Bucket 5
deriving DecidableEq, Repr

/-- A window page (16 R395). -/
structure Page where
  owner : PageOwner
  gen : BitVec 14
  /-- 0 none, 1 control, 2 data, 3 management (16 R408 `AGENT`). -/
  agent : BitVec 2
deriving DecidableEq, Repr

/-- The shared window (16 R394-R400). Pages at their reset state are not listed in `pages`: the list holds the pages
that differ from FREE, generation 0, agent none, by rising page number. `mem` holds the bytes that differ from 0. -/
structure Win where
  pages : List (Nat × Page)
  mem : List (Nat × Byte)
  pf1First : BitVec 12
  pf2First : BitVec 12
  ownSel : Vector (BitVec 12) 3
deriving DecidableEq, Repr

/-- Freeze registers of a master (16 R402, R408). -/
structure FrzM where
  frozen : Bool
  token : Word
  wher : Word
  time : DWord
  dropped : Word
deriving DecidableEq, Repr

/-- Freezing (16 R401-R408). -/
structure Frz where
  number : Nat
  m : Vector FrzM 24
  cntBreach : Word
deriving DecidableEq, Repr

/-- A drift indicator (21 R489): its value, the samples of the window being filled, and the runs of closed windows. -/
structure DriftInd where
  value : Word
  sum : Nat
  n : Nat
  above : Nat
  under : Nat
deriving DecidableEq, Repr

/-- Last write and suppressed count of a journal key (21 R486). -/
structure JKey where
  block : Nat
  code : Nat
  subject : Nat
  last : Nat
  suppressed : Nat
deriving DecidableEq, Repr

/-- A DIA_REMOTE waiting for its reply (21 R493). -/
structure RemoteWait where
  ring : Ring
  seq : DWord
  dest : BitVec 16
  reqId : Word
  page : Word
  since : Nat
deriving DecidableEq, Repr

/-- Diagnosis (21 R484-R495). `journal` is newest first. -/
structure Dia where
  journal : List JRec
  waiting : List JRec
  next : Nat
  keys : List JKey
  wrapped : Bool
  drift : BitVec 16
  dieSpread : Bool
  laneWarn : Bool
  cntSuppressed : Word
  cntRemote : Word
  codeErr : Vector Word 4
  ind : Vector DriftInd 16
  /-- Cycle at which the window in progress was opened. -/
  windowAt : Nat
  laneHealth : Vector (BitVec 10) 24
  laneFaults : Vector Byte 24
  spreadRun : Nat
  calmRun : Nat
  remote : List RemoteWait
  nextReq : Word
deriving DecidableEq, Repr

/-- Banked GLB registers of a master and its latched `_HI` words, by offset of the `_LO` word (22 R500, R505). -/
structure GlbBank where
  cntUnmapped : Word
  cntResetDrop : Word
  last : BitVec 20
  latches : List (Nat × Word)
deriving DecidableEq, Repr

/-- GLB (22 R505) and the ordering variant (00 R1). -/
structure Glb where
  variant : Variant
  bank : Vector GlbBank 32
deriving DecidableEq, Repr

/-- A write of the device to host memory (15 R371, R385). -/
inductive HostWrite where
  | completion (r : Ring) (index : Word) (phase : Bool) (c : Comp)
  | shadow (r : Ring) (a q : Word) (exp : DWord) (time : Nat) (st : RingState) (outstanding : Nat) (updates : Word)
deriving DecidableEq, Repr

/-- A partial tunnelled message (15 R387). -/
structure TunnelPart where
  source : BitVec 16
  channel : BitVec 4
  msgId : Word
  length : Word
  count : Nat
  got : List (Nat × List Byte)
  since : Nat
deriving DecidableEq, Repr

/-- A pending `RGT_TUNNEL_RECV` (15 R386). -/
structure TunnelWait where
  ring : Ring
  seq : DWord
  channel : BitVec 4
  pages : Nat
  list : Word
  since : Nat
deriving DecidableEq, Repr

/-- The rings' Regatta work (15 R386, R387). -/
structure Tunnel where
  parts : List TunnelPart
  recv : List TunnelWait
  nextId : Word
  /-- `RGT_TIME_OF_DAY` waiting for its PPS edge: ring, sequence, seconds, fleet time of acceptance; oldest first. -/
  tod : List (Ring × DWord × DWord × Nat)
deriving DecidableEq, Repr

/-- What has left the block toward the host: writes to host memory and MSI-X messages, oldest first. -/
structure HostOut where
  writes : List HostWrite
  msix : List IrqVec
deriving DecidableEq, Repr

/-! Reset values. -/

def Clk.cold : Clk :=
  { cycle := 0, fleetFix := 0, rate := Config.nominalRate, rtcFix := 0, pllLock := false, rootLost := false,
    drift := false, holdover := false, xtalFail := false, xtalGood := none, rootPpm := 0, cntLoss := 0, cntDrift := 0,
    faultSince := none, resetHeld := false }

def Pwr.cold : Pwr :=
  { mode := .run, burst := .off, pfw := false, cause := 0, aonLost := false, legalReady := false, mgmtReady := false,
    controlReady := false, dataReady := false, integratorReady := false, home := false, ready := false,
    readyMs := 0, holdS := 0, bakChg := 5, cntPfw := 0, cntWarm := 0, bakMode := .off, fetchStopped := false,
    resetAt := 0, resetWait := [], planeRst := 0, coldAt := 0, holdAt := 0, aonStopped := false }

def EvRegs.cold : EvRegs :=
  { clk := .zero, pwr := .zero, ring := .replicate 3 .zero, frz := .zero, alc := .zero, cfg := .zero,
    pwm := .replicate 24 .zero, reg := .replicate 24 .zero, out := .replicate 8 .zero, vcl := .replicate 8 .zero,
    thm := .zero, saf := .zero, lne := .zero, met := .zero, bil := .zero, bat := .zero, key := .zero, lcs := .zero,
    dia := .zero }

/-- `IRQ[v]_MOD` cold: COUNT 1, TIME 0 (15 R393); the table entry is masked after reset, as the PCI Express Base
Specification has it. PRESUMED (log entry 6). -/
def Irq.cold : Irq :=
  { count := 1, time := 0, u := 0, timer := none, msgAddr := 0, msgData := 0, masked := true, pendingBit := false }

/-- Rate and burst of a class in a ring's bucket and in the device's bucket (15 R376). -/
def ringRate (c : Fin 5) : Nat × Nat :=
  match c with | 0 => (4000, 16) | 1 => (2000, 32) | 2 => (1000, 64) | 3 => (200, 256) | 4 => (100, 16)
def devRate (c : Fin 5) : Nat × Nat :=
  match c with | 0 => (40000, 160) | 1 => (20000, 320) | 2 => (8000, 640) | 3 => (1000, 1024) | 4 => (1000, 64)

/-- Units of a token in a bucket: one refill unit a cycle for each token per second. -/
def tokenUnit : Nat := 375000000

/-- Every bucket starts full. DESIGN CHOICE (log entry 1): 15 R376 gives no level at reset. -/
def bucketsFull (rate : Fin 5 → Nat × Nat) (now : Nat) : Vector Bucket 5 :=
  vmapIdx (.replicate 5 ⟨0, now⟩) fun c b => { b with level := (rate c).2 * tokenUnit }

/-- The function that a ring belongs to (01 R15). -/
def ringFn (r : Ring) : Fn := if r.val < 16 then 0 else if r.val < 48 then 1 else 2

/-- First completion vector of a function: 1, 33, 97 (15 R393). -/
def firstVector (f : Fn) : BitVec 7 := if f = 0 then 1 else if f = 1 then 33 else 97

def RingSt.cold (r : Ring) : RingSt :=
  { base := 0, cqBase := 0, shadow := 0, size := 4, en := false, classes := 0b11111, vector := firstVector (ringFn r),
    st := .disabled, cqFull := false, p := 0, fetch := 0, q := 0, c := 0, exp := 0, outstanding := 0, waitDb := false, keptSq := none,
    keptCq := none, committing := [], refusals := [], replays := [], cqLog := [], buckets := bucketsFull ringRate 0,
    updates := 0 }

def RingFn.cold : RingFn :=
  { cntAccept := 0, cntRefused := 0, cntReplay := 0, cntTunnelDrop := 0, cntBadAccess := 0, busMaster := false,
    recovering := true, lastReset := 1, recovered := false, interrupted := false }

def Dlv.empty : Dlv :=
  { slots := .replicate 64 [], first := .replicate 64 0, jpos := 0, fault := false, lastRetry := 0,
    resetStart := .replicate 4 none,
    devBuckets := bucketsFull devRate 0 }

def Page.cold : Page := ⟨.free, 0, 0⟩

def Win.cold : Win := { pages := [], mem := [], pf1First := 256, pf2First := 3840, ownSel := .replicate 3 0 }

def FrzM.none : FrzM := ⟨false, 0, 0, 0, 0⟩
def Frz.cold : Frz := { number := 0, m := .replicate 24 .none, cntBreach := 0 }

def DriftInd.zero : DriftInd := ⟨0, 0, 0, 0, 0⟩

def Dia.cold : Dia :=
  { journal := [], waiting := [], next := 0, keys := [], wrapped := false, drift := 0, dieSpread := false,
    laneWarn := false, cntSuppressed := 0, cntRemote := 0, codeErr := .replicate 4 0, ind := .replicate 16 .zero, windowAt := 0,
    laneHealth := .replicate 24 0, laneFaults := .replicate 24 0, spreadRun := 0, calmRun := 0, remote := [],
    nextReq := 0 }

def Glb.cold : Glb := { variant := .a8t, bank := .replicate 32 ⟨0, 0, 0, []⟩ }

def Tunnel.empty : Tunnel := { parts := [], recv := [], nextId := 0, tod := [] }

def HostOut.empty : HostOut := ⟨[], []⟩

end Sys2Proof.Machine
end

