-- ==== Sys2Proof/Machine/StateSite.lean ====
section
/-! DEFINITION. State of the Regatta link, the allocation and the configuration (02, 03, 04). -/
namespace Sys2Proof.Machine

/-- Port states and roles (02 R49, R50). `outside` is the role of a port to which the table gives none: a neighbour of another crew that is
not admitted, or any neighbour of a controller that is not admitted itself; it shows as NONE (log entry 143). -/
inductive PortState where
  | off | acquire | hello | active | down
deriving DecidableEq, Repr

inductive PortRole where
  | none | parent | child | alternate | guest | foreign | outside
deriving DecidableEq, Repr

/-- A Regatta port (02 R48-R51, R68). -/
structure PortSt where
  en : Bool
  media : Bool
  allocOk : Bool
  st : PortState
  role : PortRole
  bowParent : Bool
  los : Bool
  wentDown : Bool
  tooFar : Bool
  asym : Word
  delay : Word
  offset : Word
  /-- The neighbour's last valid PROBE. -/
  probe : Option Probe
  /-- Consecutive rounds with a valid PROBE (02 R49) and the last round that had one. -/
  probeRounds : Nat
  probeRound : Nat
  /-- Cycle of the last valid frame (02 R49). -/
  lastValid : Nat
  /-- Last SAFE source sequence recorded (02 R44). -/
  lastSafe : Option Word
  /-- Transmit and own receive time of the last valid frame, which the next frame echoes (02 R38). -/
  echoTx : Nat
  echoRx : Nat
  cntCrc : Word
  cntAbort : Word
  cntDown : Word
  cntDrop : Word
deriving DecidableEq, Repr

/-- What a port transmits (02 R36): ordered sets, and the bytes of frames between them. -/
inductive LineSym where
  | idle | sof | eof | abort | suspend | resume
  | data (b : Byte)
deriving DecidableEq, Repr

/-- A frame in transmission or suspended (02 R42): its bytes, and how many of them have been sent. -/
structure Sending where
  cls : RgtClass
  bytes : List Byte
  sent : Nat
  cut : Bool
deriving DecidableEq, Repr

/-- The transmitter of a port (02 R36, R42, R47). -/
structure LineSt where
  /-- Frames waiting, in the order in which the port sends them. -/
  waiting : List Frame
  /-- The frame in transmission, and the one that is suspended. -/
  current : Option Sending
  held : Option Sending
  /-- What has left the port, oldest first; the IDLE that fills the time beside frames is left out. -/
  line : List LineSym
  /-- Time of the code group in progress, in fifths of a CLK_SYS cycle; a code group takes 6 of them. -/
  credit : Nat
  /-- The round in which CFG bytes are being counted, and those counted in it (02 R47). -/
  cfgRound : Nat
  cfgUsed : Nat
deriving DecidableEq, Repr

def LineSt.cold : LineSt :=
  { waiting := [], current := none, held := none, line := [], credit := 0, cfgRound := 0, cfgUsed := 0 }

/-- Role of `RGT_ID` (02 R68). -/
inductive RgtRole where
  | member | stroke | bow | notAdmitted
deriving DecidableEq, Repr

/-- A partly assembled CFG message (02 R56). -/
structure CfgAsm where
  src : CtrlId
  msgId : Word
  kind : Half
  count : Nat
  got : List (Nat × List Byte)
  since : Nat
deriving DecidableEq, Repr

/-- An assembled CFG message not yet processed. -/
structure CfgMsg where
  src : CtrlId
  msgId : Word
  kind : Half
  bytes : List Byte
deriving DecidableEq, Repr

/-- A member as the Stroke and the Bow keep it (02 R58, R59). -/
structure MemberRec where
  id : CtrlId
  fromRound : Nat
  removal : Option Nat
  /-- The last round in which an UP of it is known to have reached the tally. -/
  heard : Nat
deriving DecidableEq, Repr

/-- The Regatta link and fleet time (02). -/
structure Rgt where
  id : CtrlId
  crew : BitVec 4
  role : RgtRole
  port : Vector PortSt 4
  route : Vector Word 512
  parent : Option Port
  bowParentPort : Option Port
  strokeDist : Nat
  bowDist : Nat
  pathDelay : Nat
  taiCorr : Int
  /-- Announced TAI correction and the round from which it applies (02 R64). -/
  pendCorr : Option (Int × Nat)
  sync : BitVec 2
  outOfTime : Bool
  stepped : Bool
  srcLost : Bool
  corrChanged : Bool
  bowDetached : Bool
  offsetAbs : Half
  srcSel : BitVec 2
  ppsEn : Bool
  p2p : Bool
  ptpDomain : Byte
  cfgShape : BitVec 7
  /-- Round at whose start the trees are switched to the Bow as root (02 R53). -/
  switchAt : Option Nat
  /-- Trees swapped for the drill round in progress (02 R53; 03 R97). -/
  swapped : Bool
  asm : List CfgAsm
  inbox : List CfgMsg
  guests : List (CtrlId × Port)
  joining : Bool
  admitRound : Option Nat
  /-- Round of the own admission. -/
  fromRound : Nat
  removeRound : Option Nat
  lastRefuse : Byte
  lastJoin : Option Nat
  members : List MemberRec
  /-- Last round with a frame of the time parent, and rounds in succession with |o| within 1 µs (02 R62). -/
  offRound : Nat
  inTimeRounds : Nat
  /-- Round from which the correction in force has applied, as PROBE frames carry it (02 R48). -/
  corrRound : Nat
  /-- Stroke distance, Bow distance and admission that the last PROBE frames showed (02 R48). -/
  probeShown : Nat × Nat × Bool
  /-- External source: TAI at its last valid message or edge, with the fleet time of that instant; valid; the TAI second
  that the next PPS edge marks (02 R63-R65). -/
  srcTai : Option (Int × Int)
  /-- PTP: TAI at the last complete synchronisation, with the fleet time of that instant; the last master time and its reception; the
  sequence and reception of a Sync whose Follow_Up is awaited; the delay of the path (02 R65). -/
  ptpTai : Option (Int × Int)
  ptpSync : Option (Int × Nat)
  ptpWait : Option (Half × Nat)
  ptpDelay : Option Int
  ppsTod : Option Nat
  lastSeq : Word
  /-- ID of the next CFG message sent (02 R56). -/
  nextMsg : Word
  formed : Bool
  /-- A reset other than a cold one has reached the control plane since the last cold one (02, end). -/
  restarted : Bool
  lastTaiCheck : Nat
deriving DecidableEq, Repr

/-- Allocation states (03 R88). -/
inductive AlcState where
  | normal | miss | hold | ramp | fallback | divergent
deriving DecidableEq, Repr

/-- What a controller keeps for a CHILD port (03 R75-R79). -/
structure ChildSt where
  lastD : Vector Word 64
  lastH : Word
  lastF : Word
  lastMembers : Nat
  lastCap : Word
  lastCurtail : BitVec 2
  has : Bool
  q : Nat
  k : Nat
  /-- The UP taken for the round in progress. -/
  taken : Option Up
  /-- First round at whose tally the substitution has ended (03 R78). -/
  endRound : Option Nat
  sub : Word
  /-- The DOWN of the round was forwarded on the port. -/
  forwarded : Bool
deriving DecidableEq, Repr

/-- The curves built for a round (03 R70, R71, R85, R86). -/
structure Built where
  round : Nat
  d : Vector Nat 64
  s : Vector Nat 64
  outD : Vector (Vector Nat 64) 8
  outS : Vector (Vector Nat 64) 8
  batD : Vector Nat 64
  batS : Vector Nat 64
  /-- Own cap and CURTAIL level as the feeding latch took them. -/
  cap : Word
  curtail : BitVec 2
deriving DecidableEq, Repr

/-- An `ALC_SET_CAP` or `OUT_SESSION_CAP` waiting for the first apply instant computed with its cap (03 R87). -/
structure CapWait where
  ring : Ring
  seq : DWord
  latchRound : Nat
  outlet : Option Outlet
  /-- The last round whose UP carried the cap. -/
  upRound : Option Nat
  /-- Curves have been built with the cap since. -/
  fed : Bool
deriving DecidableEq, Repr

/-- Allocation (03). -/
structure Alc where
  round : Nat
  lam : BitVec 6
  full : Bool
  shed : Bool
  holdDown : Bool
  f : Half
  st : AlcState
  strokeByBow : Bool
  missCount : Nat
  share : Nat
  supplyShare : Nat
  holdBound : Nat
  budget : Word
  holdReserve : Word
  cap : Word
  curtail : BitVec 2
  /-- The last sample of the CURTAIL pins (03 R81). -/
  curtailSample : BitVec 2
  /-- The level taken at the last tick latch. -/
  curtailLatched : BitVec 2
  crewCurtail : BitVec 2
  downMembers : BitVec 13
  downAbsent : BitVec 13
  stroke : CtrlId
  bow : Option CtrlId
  drillRound : Option Nat
  cntMiss : Word
  cntLate : Word
  cntWithheld : Word
  child : Vector ChildSt 4
  curve : Vector Word 64
  supplyCurve : Vector Word 64
  sum : Option Up
  divergent : BitVec 4096
  crewPair : Option Pair
  built : Option Built
  /-- Per-outlet net grants in force: import and export power in 100 W (03 R86). -/
  impGrant : Vector Nat 8
  expGrant : Vector Nat 8
  batGrant : Int
  upSentRound : Option Nat
  notices : List (CtrlId × CtrlId)
  /-- Change records owed by this controller for its children (03 R79). -/
  changes : List (CtrlId × Bool)
  downValid : Option Down
  mirrorSum : Option (Nat × Up)
  mirrorResult : Option (Nat × AlcResult)
  ownResult : Option (Nat × AlcResult)
  strokeDown : Option (Nat × AlcResult)
  silent : Nat
  named : Option Nat
  /-- Round from which a Stroke that has been demoted sends no DOWN and acts as a member (03 R94). -/
  demoteAt : Option Nat
  /-- It is such a member, and no takeover DOWN has given it another tree yet. -/
  ceded : Bool
  restore : Option (Nat × Ring × DWord)
  drillWait : Option (Ring × DWord)
  capWait : List CapWait
  /-- Next state and miss count of a round as evaluated at T + 140 µs (03 R88). -/
  eval : Option (Nat × AlcState × Nat)
  /-- The last UP was clamped at its hold bound: it was a holding UP (03 R85). -/
  upHolding : Bool
deriving DecidableEq, Repr

/-- Staged status (04 R110). -/
abbrev StagedStatus := BitVec 4

/-- A STAGE_REPORT as the Stroke keeps it (04 R112). -/
structure ReportRec where
  id : CtrlId
  status : StagedStatus
  pair : Pair
  since : Nat
deriving DecidableEq, Repr

/-- A `CFG_ACTIVATE` being waited for or announced (04 R112-R115). -/
structure ActWait where
  ring : Ring
  seq : DWord
  pair : Pair
  timeout : Nat
  start : Nat
  /-- Announced activation round. -/
  announced : Option Nat
deriving DecidableEq, Repr

/-- The staged slot of the configuration area (01 R19; 04 R110): which of the two slots it is, the bytes copied into it, in the lengths that
the staging gave, and what they say where every section lies within its form and ranges. -/
structure Staged where
  slotB : Bool
  crew : List Byte
  part : List Byte
  img : Option CfgImage
deriving DecidableEq, Repr

/-- Configuration (04). -/
structure Cfg where
  active : CfgImage
  /-- The active slot of the two (04 R114). -/
  activeB : Bool
  stagedStatus : StagedStatus
  staged : Option Staged
  /-- Pair shown for the staged slot. -/
  stagedPair : Pair
  /-- `CFG_STAGE` whose verification runs (04 R110). -/
  stageWait : Option (Ring × DWord)
  /-- `LEGAL_CAL_FROZEN`, and the user layers that the legal seal holds for lanes 0-21 (04 R120; 01 R22). -/
  calFrozen : Bool
  calSeal : Vector (Option CalEntry) 24
  actRound : Option Nat
  annPair : Option (Pair × Nat)
  raisedFor : Option Nat
  reports : List ReportRec
  act : Option ActWait
  lastReport : Nat
  lastAnnounce : Option Nat
  catchUpRound : Option Nat
  legalEpoch : Word
  /-- The legal-facing sections in force in the legal domain (01 R20, R525). -/
  legal : CfgImage
  cntAdopt : Word
  cntStageFail : Word
deriving DecidableEq, Repr

/-! Reset values. -/

def PortSt.cold : PortSt :=
  { en := false, media := false, allocOk := true, st := .off, role := .none, bowParent := false, los := false,
    wentDown := false, tooFar := false, asym := 0, delay := 0, offset := 0, probe := none, probeRounds := 0,
    probeRound := 0, lastValid := 0, lastSafe := none, echoTx := 0, echoRx := 0, cntCrc := 0, cntAbort := 0,
    cntDown := 0, cntDrop := 0 }

def Rgt.cold : Rgt :=
  { id := 0, crew := 0, role := .notAdmitted, port := .replicate 4 .cold, route := .replicate 512 0, parent := none,
    bowParentPort := none, strokeDist := 255, bowDist := 255, pathDelay := 0, taiCorr := 0, pendCorr := none, sync := 0,
    outOfTime := false, stepped := false, srcLost := false, corrChanged := false, bowDetached := false, offsetAbs := 0,
    srcSel := 0, ppsEn := false, p2p := false, ptpDomain := 0, cfgShape := 10, switchAt := none, swapped := false,
    asm := [], inbox := [], guests := [], joining := false, admitRound := none, fromRound := 0, removeRound := none, lastRefuse := 0,
    lastJoin := none, members := [], offRound := 0, inTimeRounds := 0, corrRound := 0, probeShown := (255, 255, false), srcTai := none, ptpTai := none, ptpSync := none, ptpWait := none, ptpDelay := none, ppsTod := none,
    lastSeq := 0, nextMsg := 0, formed := false, restarted := false, lastTaiCheck := 0 }

def ChildSt.none : ChildSt :=
  { lastD := .replicate 64 0, lastH := 0, lastF := 0, lastMembers := 0, lastCap := BitVec.allOnes 32, lastCurtail := 0,
    has := false, q := 0, k := 0, taken := Option.none, endRound := Option.none, sub := 0, forwarded := false }

def Alc.cold : Alc :=
  { round := 0, lam := 0, full := false, shed := false, holdDown := false, f := 0, st := .miss,
    strokeByBow := false, missCount := 0, share := 0, supplyShare := 0, holdBound := 0, budget := 0, holdReserve := 0,
    cap := BitVec.allOnes 32, curtail := 0, curtailSample := 0, curtailLatched := 0, crewCurtail := 0,
    downMembers := 0, downAbsent := 0, stroke := 0, bow := none, drillRound := none, cntMiss := 0, cntLate := 0,
    cntWithheld := 0, child := .replicate 4 .none, curve := .replicate 64 0, supplyCurve := .replicate 64 0,
    sum := none, divergent := 0, crewPair := none, built := none, impGrant := .replicate 8 0,
    expGrant := .replicate 8 0, batGrant := 0, upSentRound := none, notices := [], changes := [], downValid := none,
    mirrorSum := none, mirrorResult := none, ownResult := none, strokeDown := none, silent := 0,
    named := none, demoteAt := none, ceded := false, restore := none, drillWait := none, capWait := [], eval := none, upHolding := false }

/-! The configuration held at the first reset. The manual gives no factory contents of the configuration slots: the
default below is the model's own, DESIGN CHOICE (log entry 3): epoch 0, controller 0 of crew 0 as Stroke without Bow or
Umpire, nothing fitted, all ratings zero. -/

def defaultHdr : PhasesHdr :=
  { period := 4800, deadTime := 48, slopeK := 128, dcChan := 0, prechargeI := 1, prechargeRamp := 10, checkRampMs := 10 }

def defaultTherm : ThermCfg :=
  { beta := 2000, rn := 10000, batLo := 0, batHi := 45, bakChan := none, baud := 0, outlets := .replicate 8 none,
    loops := .replicate 4 none, fans := .replicate 4 none, drives := .replicate 8 none }

def defaultImage : CfgImage :=
  { pair := ⟨0, 0⟩, crew := 0, stroke := 0, bow := none, umpire := .none, members := [⟨0, 0, 0⟩], rating := 0,
    presets := .replicate 3 0, leaps := [⟨0, 32⟩], locals := [], bands := none, tariff := none, scroll := none,
    variants := 0b111, partId := 0, phaseRating := 0, outletRating := .replicate 8 0, cabImport := 0, cabExport := 0,
    fbShare := 0, fbRamp := 1, outlets := .replicate 8 none, hdr := defaultHdr, phases := .replicate 24 none,
    matrix := [], thermal := defaultTherm, battery := none, laneCal := .replicate 24 none, hkCal := .replicate 64 none }

def Cfg.default : Cfg :=
  { active := defaultImage, activeB := false, stagedStatus := 0, staged := none, stagedPair := ⟨0, 0⟩, stageWait := none, calFrozen := false,
    calSeal := .replicate 24 none, actRound := none, annPair := none, raisedFor := none, reports := [],
    act := none, lastReport := 0, lastAnnounce := none, catchUpRound := none, legalEpoch := 0, legal := defaultImage,
    cntAdopt := 0, cntStageFail := 0 }

end Sys2Proof.Machine
end

