-- ==== Sys2Proof/Machine/StatePower.lean ====
section
/-! DEFINITION. State of the session junction, the PWM generators, the phase regulators, the outlets and the contactor
matrix (01 R23-R28, 05, 06, 07). Times of PWM channels are in taps of 208.3 ps since the cold reset. -/
namespace Sys2Proof.Machine

/-- The session junction of an outlet (01 R23-R28). -/
structure JnSt where
  slot : Demand
  /-- The slot has been written since the last latch (01 R25). -/
  fresh : Bool
  /-- Cycle of the beat that wrote the slot, and the record not yet latched that it displaced: a beat in the latch cycle is
  taken at the next tick (01 R25). -/
  arrived : Nat
  displaced : Option Demand
  /-- The last latched record. -/
  latched : Option Demand
  /-- Fleet time of the latch that renewed the validity of 01 R27. -/
  validAt : Option Nat
  /-- The last latched record that was not refused under order 2 of 07 R180: the record a session runs on. -/
  good : Option Demand
  expired : Bool
  grant : Grant
deriving DecidableEq, Repr

/-- A set of period, compares, dead time and mask codes (05 R131). Period and compares in register layout:
[15:0] coarse, [19:16] fine. -/
structure PwmSet where
  period : BitVec 20
  rise : BitVec 20
  fall : BitVec 20
  dt : BitVec 12
  comm : BitVec 4
  fault : BitVec 4
deriving DecidableEq, Repr

/-- A committed snapshot with its tag and the time of its commit (05 R132, R134). -/
structure PwmPending where
  set : PwmSet
  tag : Half
  since : Nat
deriving DecidableEq, Repr

/-- A phase channel (05 R124-R145). -/
structure PwmCh where
  en : Bool
  polH : Bool
  polL : Bool
  cmode : Bool
  swFault : Bool
  shadow : PwmSet
  accepted : PwmSet
  pend : Option PwmPending
  active : PwmSet
  /-- The active set comes from an accepted commit (05 R137). -/
  hasActive : Bool
  tag : Half
  written : BitVec 5
  commMasked : Bool
  faultMasked : Bool
  lastResult : BitVec 3
  cntCommit : Word
  cntRefused : Word
  running : Bool
  /-- The next period boundary; before the first one, the start instant (05 R125). -/
  bound : Nat
  /-- The first boundary has passed. -/
  begun : Bool
  /-- Offset in the period before which every compare has been dealt with (05 R127). -/
  off : Nat
  /-- The ideal level and the time since which it holds (05 R127, R129). -/
  ideal : Bool
  since : Nat
  /-- The ideal level stays low until the next rising compare (05 R128; 06 R152). -/
  blocked : Bool
  /-- Time of the last release of a mask, from which the dead-time logic counts (05 R140). -/
  released : Nat
  /-- Times at which PWMH and PWML last reached low, before polarity (05 R140). -/
  fellH : Nat
  fellL : Nat
deriving DecidableEq, Repr

/-- An auxiliary set (05 R142). -/
structure AuxSet where
  period : Half
  duty : Half
deriving DecidableEq, Repr

structure AuxPending where
  set : AuxSet
  tag : Half
  since : Nat
deriving DecidableEq, Repr

/-- An auxiliary channel (05 R142, R143). -/
structure AuxCh where
  en : Bool
  pol : Bool
  fsLevel : Bool
  shadow : AuxSet
  failsafe : Half
  accepted : AuxSet
  pend : Option AuxPending
  active : AuxSet
  running : Bool
  /-- The first boundary, the start instant, has passed (05 R142). -/
  begun : Bool
  inFailsafe : Bool
  /-- Output held at `FS_LEVEL` on a clock-monitor fault (05 R143). -/
  heldFs : Bool
  lastResult : BitVec 3
  written : BitVec 2
  tag : Half
  bound : Nat
deriving DecidableEq, Repr

structure Pwm where
  ch : Vector PwmCh 24
  aux : Vector AuxCh 8
  dtMin : BitVec 12
  groupMask : BitVec 24
deriving DecidableEq, Repr

/-- The sampling of a period: its start, its length, the samples taken of it, and the time at which the channel stopped in it, in taps
(06 R154). -/
structure SampleGrid where
  start : Nat
  period : Nat
  taken : Nat
  stop : Option Nat
deriving DecidableEq, Repr

/-- The end of a pulse by the maximum duty or the falling compare, which a trip in the same CLK_PWM cycle makes a tripped one: its rise
and its end, in taps, and the run and the count before it (06 R152). -/
structure PulseEnd where
  rise : Nat
  ended : Nat
  run : Nat
  count : Word
deriving DecidableEq, Repr

/-- A phase regulator (06 R148-R172). -/
structure RegCh where
  en : Bool
  dir : Bool
  slopeAuto : Bool
  peak : BitVec 12
  shadow : BitVec 12
  /-- Shadow written since the last transfer (06 R155). -/
  shadowSet : Bool
  inForce : BitVec 12
  slope : Half
  blank : BitVec 7
  dmax : BitVec 14
  senseAvg : BitVec 12
  retired : Bool
  hsWarn : Bool
  hsShut : Bool
  /-- The shutdown or return acts from the next tick (06 R168). -/
  shutCounted : Bool
  lastTripped : Bool
  untripRun : Nat
  cntTrip : Word
  cntUntripped : Word
  hsTemp : Half
  /-- Samples of the tick in progress: sum and number (06 R154). -/
  accSum : Int
  accN : Nat
  /-- The last complete tick had a sample (06 R154). -/
  tickSampled : Bool
  /-- Sums of the samples of each period of the run of untripped periods (06 R164) and of tripped periods (06 R165), newest first. -/
  runMeans : List Int
  tripMeans : List Int
  detOpen : Bool
  detSense : Bool
  /-- How the last pulse of the period in progress ended: by a qualified trip or not (06 R152). -/
  pulse : Option Bool
  lastEnd : Option PulseEnd
  /-- The period being sampled, and the sum of its samples so far (06 R154, R164). -/
  grid : Option SampleGrid
  perSum : Int
deriving DecidableEq, Repr

/-- Start-up machine states (06 R161). -/
inductive StartState where
  | off | ramp | pause | track | matched | run | fault
deriving DecidableEq, Repr

/-- A start-up machine (06 R161-R163). -/
structure StartM where
  st : StartState
  ratiometric : Bool
  attempt : Nat
  trackError : Bool
  target : Nat
  /-- Cycle of entry into the state. -/
  since : Nat
  /-- Cycle of entry into TRACK since START (06 R163). -/
  t0 : Nat
  matchRun : Nat
  errSince : Option Nat
  /-- The reference of the last tick, mV (06 R161-R163). -/
  ref : Nat
deriving DecidableEq, Repr

structure Reg where
  ch : Vector RegCh 24
  applyTime : DWord
  armed : Bool
  start : Vector StartM 8
deriving DecidableEq, Repr

/-- Session machine states (07 R184). -/
inductive OutState where
  | off | idle | plugged | cableCheck | precharge | closing | energy | stopping | opening | weldCheck | released | fault
deriving DecidableEq, Repr

/-- An outlet (07 R173-R198). -/
structure OutSt where
  st : OutState
  /-- Cycle of entry into the state (07 R184: timers run from entry). -/
  since : Nat
  grantStatus : BitVec 3
  disablePending : Bool
  session : Word
  lastEnded : Word
  /-- The session fixed at entry into DIVERGENT (04 R117). -/
  fixedSession : Option Word
  cls : BitVec 3
  /-- The class of the last classification, and how many in succession have given it, up to 3 (07 R179). -/
  pilotSeen : BitVec 3
  pilotRun : Nat
  drivingPwm : Bool
  ppCode : Byte
  vcc : Nat
  /-- The cable check hold: cycle of its start (06 R163). -/
  holdAt : Option Nat
  /-- Insulation has been good throughout the last 20 % of the hold so far (07 R185). -/
  isoGood : Bool
  isoWarn : Bool
  imdLevel : Bool
  ilim : Nat
  exporting : Bool
  /-- i_lim at entry into STOPPING or at the start of a reversal (07 R182, R193). -/
  rampFrom : Nat
  /-- Cycle of an unplug that ends the session (07 R184). -/
  unplugAt : Option Nat
  /-- Bound in ms that an orderly stop or a power-fail warning puts on the stop ramp (09 R229; 20 R476). -/
  rampLimit : Option Nat
  /-- Reason under which the session is ending; written to `OUT[o]_END` at its end (07 R184). -/
  reason : Byte
  endReason : Byte
  endState : BitVec 4
  weldUnverified : Bool
  openUnderLoad : Bool
  hostCap : Word
  cntMalformed : Word
  cntSessions : Word
  cntFault : Word
  /-- Stage-side and vehicle-side voltage, 0.1 V, and outlet current, 0.1 A, of the last tick. -/
  vs : Int
  vv : Int
  cur : Int
  /-- Weld check: cycle since which the two sides have agreed (07 R186). -/
  weldSince : Option Nat
  /-- The vehicle side has read at least 60 V in this weld check (07 R186). -/
  vvSeen : Bool
  /-- Consecutive ticks after the deadline at which the feedback of DC+, DC- has differed from its drive (10 R244). -/
  mismatch : Vector Nat 2
  /-- A reversal is in progress (07 R193, R198 `REVERSING`). -/
  rev : Bool
  revAt : Option Nat
  revSince : Nat
  oppositeRun : Nat
  /-- i_cmd of the outer loop, a free value (06 R528), 0.1 A. -/
  icmd : Nat
  /-- The last loss of a phase: the tick in progress and m before it (06 R170). -/
  loss : Option (Nat × Nat)
  /-- Descriptors whose effect is a coming transition: OUT_STOP and OUT_DISABLE (15 R377). -/
  stopWait : List (Ring × DWord)
  disWait : List (Ring × DWord)
  disNow : Bool
  stopNow : Bool
deriving DecidableEq, Repr

/-- A move of a phase between outlets (07 R190): source (none: unassigned), destination, step 2, 3 or 4, cycle of the
step's start. -/
structure MoveSt where
  src : Option Outlet
  dst : Outlet
  step : Nat
  since : Nat
  homing : Bool
deriving DecidableEq, Repr

/-- The contactor matrix (07 R175, R189-R192, R198). -/
structure Mtx where
  drv : BitVec 64
  fb : BitVec 64
  disabled : BitVec 64
  move : Vector (Option MoveSt) 24
  /-- The outlet in whose group a phase counts, before retirement and shutdown are taken off (07 R190). -/
  assigned : Vector (Option Outlet) 24
deriving DecidableEq, Repr

/-! Reset values. -/

def JnSt.cold : JnSt :=
  { slot := .zero, fresh := false, arrived := 0, displaced := none, latched := none, validAt := none, good := none, expired := false, grant := .zero }

/-- Cold shadow, accepted, pending and active sets: zeros, dead time 48, masks 0b0101 (05 R145). -/
def PwmSet.cold : PwmSet := ⟨0, 0, 0, 48, 0b0101, 0b0101⟩

def PwmCh.cold : PwmCh :=
  { en := false, polH := false, polL := false, cmode := false, swFault := false, shadow := .cold, accepted := .cold,
    pend := none, active := .cold, hasActive := false, tag := 0, written := 0, commMasked := false,
    faultMasked := false, lastResult := 0, cntCommit := 0, cntRefused := 0, running := false, bound := 0, begun := false,
    off := 0, ideal := false, since := 0, blocked := false, released := 0, fellH := 0, fellL := 0 }

def AuxCh.cold : AuxCh :=
  { en := false, pol := false, fsLevel := false, shadow := ⟨0, 0⟩, failsafe := 0, accepted := ⟨0, 0⟩, pend := none,
    active := ⟨0, 0⟩, running := false, begun := false, inFailsafe := false, heldFs := false, lastResult := 0, written := 0, tag := 0,
    bound := 0 }

def Pwm.cold : Pwm := { ch := .replicate 24 .cold, aux := .replicate 8 .cold, dtMin := 48, groupMask := 0 }

def RegCh.cold : RegCh :=
  { en := false, dir := false, slopeAuto := true, peak := 0, shadow := 0, shadowSet := false, inForce := 0, slope := 0,
    blank := 120, dmax := 1000, senseAvg := 0, retired := false, hsWarn := false, hsShut := false,
    shutCounted := false, lastTripped := false, untripRun := 0, cntTrip := 0, cntUntripped := 0, hsTemp := 0,
    accSum := 0, accN := 0, tickSampled := false, runMeans := [], tripMeans := [], detOpen := false,
    detSense := false, pulse := none, lastEnd := none, grid := none, perSum := 0 }

def StartM.cold : StartM :=
  { st := .off, ratiometric := false, attempt := 0, trackError := false, target := 0, since := 0, t0 := 0,
    matchRun := 0, errSince := none, ref := 0 }

def Reg.cold : Reg :=
  { ch := .replicate 24 .cold, applyTime := 0, armed := false, start := .replicate 8 .cold }

def OutSt.cold : OutSt :=
  { st := .off, since := 0, grantStatus := 2, disablePending := false, session := 0, lastEnded := 0,
    fixedSession := none, cls := 0, pilotSeen := 0, pilotRun := 0, drivingPwm := false, ppCode := 0, vcc := 500,
    holdAt := none, isoGood := true, isoWarn := false, imdLevel := false, ilim := 0, exporting := false,
    rampFrom := 0, unplugAt := none, rampLimit := none, reason := 0, endReason := 0, endState := 0, weldUnverified := false, openUnderLoad := false,
    hostCap := BitVec.allOnes 32, cntMalformed := 0, cntSessions := 0, cntFault := 0, vs := 0, vv := 0, cur := 0,
    weldSince := none, mismatch := .replicate 2 0, rev := false, vvSeen := false, revAt := none, revSince := 0, oppositeRun := 0, icmd := 0, loss := none,
    stopWait := [], disWait := [], disNow := false, stopNow := false }

def Mtx.cold : Mtx :=
  { drv := 0, fb := 0, disabled := 0, move := .replicate 24 none, assigned := .replicate 24 none }

end Sys2Proof.Machine
end

