-- ==== Sys2Proof/Machine/StateField.lean ====
section
/-! DEFINITION. State of the vehicle links, the thermal block, the safety block and the control lanes (08, 09, 10, 11). -/
namespace Sys2Proof.Machine

/-- Policy of a session (08 R214 `VCL_SESSION_POLICY`). -/
structure VclPolicy where
  band : BitVec 4
  gmin : Word
deriving DecidableEq, Repr

/-- Isolation status of an answer (08 R209). -/
inductive IsoStatus where
  | invalid | valid | warning | fault
deriving DecidableEq, Repr

/-- An answer to the vehicle (08 R209): 0.1 V, mA, 0.1 A, 100 W. -/
structure VclAnswer where
  presentV : Int
  presentI : Int
  maxI : Nat
  maxP : Nat
  currentLimit : Bool
  powerLimit : Bool
  iso : IsoStatus
  ongoing : Bool
  notReady : Bool
  stopping : Bool
deriving DecidableEq, Repr

/-- Answers and frames that the data plane sends to a vehicle (08). -/
inductive VclOut where
  | answer (o : Outlet) (a : VclAnswer)
  | failure (o : Outlet)
  /-- The "not supported" response of a standard (08 R205). -/
  | notSupported (o : Outlet)
  | authOngoing (o : Outlet)
  | chargerFrame (o : Outlet) (a : VclAnswer)
  | certResponse (o : Outlet) (bytes : List Byte)
  /-- The host's schedule tuples, or one tuple of a power in 100 W for 24 h. -/
  | schedule (o : Outlet) (bytes : List Byte)
  | defaultSchedule (o : Outlet) (power : Nat)
  | slacKey (o : Outlet) (key : Nat)
deriving DecidableEq, Repr

/-- A vehicle link (08 R199-R219). -/
structure VclSt where
  ctrl : BitVec 10
  link : BitVec 3
  proto : BitVec 4
  tls : Bool
  permit : Bool
  authGranted : Bool
  bpt : Bool
  carrierMissing : Bool
  slacThreshold : Byte
  slacTx : Byte
  slacMean : Byte
  evTarget : Word
  authReq : BitVec 3
  authSession : Word
  defaultBand : BitVec 4
  cntSlacFail : Word
  cntTimeout : Word
  cntExiErr : Word
  cntTlsFail : Word
  /-- Session in force on the link, 0 none, and the record last written. -/
  session : Word
  record : Demand
  policy : Option VclPolicy
  ev : EvVals
  /-- The vehicle has reached readiness by its own messages (08 R207). -/
  evReady : Bool
  stopReq : Bool
  /-- Cycle at which the wait for VCL_AUTH began (08 R210). -/
  authSince : Option Nat
  /-- `AUTH_TIMEOUT` has been set for the session (08 R210, R214). -/
  authFailed : Bool
  /-- Cycles of the last record write, the last current-demand message and the last charger frame. -/
  lastWrite : Nat
  lastDemand : Nat
  lastFrame : Nat
  slacRetries : Nat
  /-- FD frames that came on the vehicle link (08 R202). -/
  errFrames : Nat
  /-- Items sent by the vehicle, by kind, and the host's schedules (08 R214). -/
  items : List (Byte × List Byte)
  schedule : Option (List Byte)
deriving DecidableEq, Repr

structure Vcl where
  ch : Vector VclSt 8
  sessionNext : Word
  hostWait : BitVec 6
  stationChain : List Byte
  out : List VclOut
deriving DecidableEq, Repr

/-- A drive on the cooling bus (09 R224). -/
structure DriveSt where
  fault : Bool
  misses : Nat
  polled : Option Nat
  lastPoll : Nat
  flow : Option Nat
  temp : Option Int
  speed : Nat
  /-- The speed last written to the drive. -/
  sent : Option Nat
deriving DecidableEq, Repr

/-- A cooling loop (09 R223, R225). -/
structure LoopSt where
  flow : Half
  duty : BitVec 7
  fault : Bool
  belowSince : Option Nat
  goodSince : Option Nat
deriving DecidableEq, Repr

/-- Cooling and thermal (09). Temperatures are signed, 0.01 °C; none: not valid. -/
structure Thm where
  dieK : BitVec 4
  dieStop : Bool
  dieTripped : Bool
  /-- Every outlet had stopped in the orderly stop in force (09 R229). -/
  dieDone : Bool
  mramBlocked : Bool
  batBlocked : Bool
  bakBlocked : Bool
  dieTemp : Int
  /-- Number of the last housekeeping round end, one more than the round of the values (09 R220); 0 before the first. -/
  hkEnd : Nat
  die : Vector (Option Int) 4
  supply : Vector Nat 6
  phi : Vector (BitVec 10) 8
  tf : Vector (Option Int) 8
  hard : Vector Bool 8
  loop : Vector LoopSt 4
  fan : Vector (BitVec 7) 4
  drive : Vector DriveSt 8
  hk : Vector (Option Int) 64
  /-- Temperature term k of each channel (04 R118). -/
  hkK : Vector Int 64
  /-- Last valid reading of the DC-link channel, mV (06 R157). -/
  dcLast : Int
  cntBusErr : Word
  cntJournalDrop : Word
  /-- Housekeeping rounds in succession with T_d at or below 110 °C (09 R229, R230). -/
  coolRounds : Nat
  /-- Modbus requests sent (09 R224): drive, function code, register, value. -/
  busOut : List (Fin 8 × Nat × Nat × Nat)
deriving DecidableEq, Repr

/-- A held stop (10 R258). -/
structure StopHeld where
  origin : CtrlId
  number : Half
  /-- Round in which a neighbour last announced it (10 R259). -/
  lastHeard : Nat
  /-- ESTOP pairs whose latch originated it. -/
  pairs : BitVec 4
deriving DecidableEq, Repr

/-- A release being announced, until the round `rounds` starts (10 R259). -/
structure RelAnn where
  origin : CtrlId
  number : Half
  rounds : Nat
deriving DecidableEq, Repr

/-- A safe connection as its consumer keeps it (10 R256). -/
structure SafeConn where
  /-- Accepted frames in succession, up to 2; established at 2. -/
  got : Nat
  /-- A frame has been accepted since the connection was last without a reference. -/
  ref : Bool
  lastSeq : Word
  lastTime : Nat
  rejSeq : Option Word
  expired : Bool
  txSeq : Word
deriving DecidableEq, Repr

/-- An ACD connection's settings and state (10 R261). -/
structure AcdSt where
  en : Bool
  outlet : Outlet
  period : Byte
  maxAge : BitVec 10
  canId : Word
  flags : Byte
  conn : SafeConn
  lastTx : Nat
deriving DecidableEq, Repr

/-- The safety block (10). -/
structure Saf where
  /-- Global sources, sources of each outlet and of each ACD (10 R239, R240, R250), in the bit order of R270. -/
  srcGlb : BitVec 10
  srcOut : Vector (BitVec 6) 8
  srcSto : Vector (BitVec 6) 4
  gateEn : BitVec 24
  genFault : BitVec 24
  /-- What holds a GATE_EN pad, none where it follows its command; of STO_A (0-3) and STO_B (4-7) the same (10 R237, R241, R251). -/
  gatePad : Vector (Option Bool) 24
  stoPad : Vector (Option Bool) 8
  overcurrent : BitVec 24
  estopMap : Vector Word 4
  estopA : BitVec 4
  estopB : BitVec 4
  latched : BitVec 4
  discrepancy : BitVec 4
  disagree : Vector (Option Nat) 4
  welds : Byte
  fbFaults : Byte
  brkTrip : Bool
  brkUntil : Nat
  brkPulse : BitVec 10
  stoCmd : BitVec 8
  stoFault : BitVec 4
  siteMode : BitVec 2
  siteMaxAge : BitVec 10
  siteNext : Half
  stops : List StopHeld
  overflow : Bool
  siteLost : Bool
  released : List (CtrlId × Half)
  announcing : List RelAnn
  conn : Vector SafeConn 4
  /-- Place at which the next heartbeat's entries begin (10 R257). -/
  rotate : Nat
  /-- A change of the stops held has not yet left in a triggered heartbeat, and its entries (10 R257). -/
  trig : Bool
  changed : List StopEntry
  /-- Journal positions of the last host demands: global, of each outlet, of each ACD (10 R266, R529). -/
  hostGlb : Nat
  hostOut : Vector Nat 8
  hostSto : Vector Nat 4
  acd : Vector AcdSt 4
  cntRejId : Word
  cntRejSeq : Word
  cntRejAge : Word
  cntRejCrc : Word
  cntExpired : Word
  /-- Contactor drives, the lane's commands and the feedbacks, DC+ and DC- (10 R242, R244). -/
  ocp : Byte
  ocm : Byte
  fbp : Byte
  fbm : Byte
  lastDrive : Vector Nat 8
  /-- Cycle since which safe energy off has been demanded of the outlet, and since which the permit is absent. -/
  seoSince : Vector (Option Nat) 8
  permit : Vector Bool 8
  permitSince : Vector (Option Nat) 8
  imdSince : Vector (Option Nat) 8
  imdFault : Byte
  tokenMiss : Nat
  supplyGood : Option Nat
  acdOut : List (Acd × SafeFrame)
deriving DecidableEq, Repr

/-- Lane states (11 R284). -/
inductive LaneState where
  | inStep | restarting | resync | dead
deriving DecidableEq, Repr

/-- What the input frame of a tick holds for the referee (11 R272, R279): start-up MATCHED, permit and safe energy off of each outlet,
its rated and feathering currents by direction, and code(rating) of each phase. -/
structure LaneFrame where
  matched : Byte
  permit : Byte
  seo : Byte
  rated : Vector Nat 8
  featherImp : Vector Nat 8
  featherExp : Vector Nat 8
  code : Vector (BitVec 12) 24
deriving DecidableEq, Repr

/-- A write that the output port of the driving lane holds until Cox finds the tick's records matched (11 R274): the drives of an outlet's
contactors closed, a matrix drive closed, `PWM_START`, `EN` of `REG[n]_CTRL` set. -/
inductive GatedWrite where
  | drives (o : Outlet)
  | matrix (k : Nat) (n : Phase)
  | start (mask : BitVec 24)
  | regEn (n : Phase)
deriving DecidableEq, Repr

/-- The control lanes and Cox (11). -/
structure Lne where
  /-- 0 lane A drives, 1 lane B. -/
  driving : Bool
  last : BitVec 3
  cause : BitVec 4
  stopped : Bool
  state : Vector LaneState 2
  coxDead : Bool
  verdictTick : Nat
  restarts : Vector Word 2
  cntMismatch : Word
  cntTakeover : Word
  cntDrill : Word
  record : Vector (Vector Word 28) 2
  /-- Named driving lane for the next tick (11 R281). -/
  nextDriving : Option Bool
  restartTimes : Vector (List Nat) 2
  /-- Cycle of entry into RESTARTING; in RESYNC the tick of the snapshot (11 R284, R285). -/
  since : Vector Nat 2
  stoppedAt : Nat
  tokenStopped : Bool
  lastKick : Nat
  /-- An accepted drill with the cycle from which it is due; ticks of it still to match; the start of its tick d (11 R286). -/
  drill : Option (Ring × DWord × Nat)
  drillLeft : Nat
  drillStart : Nat
  /-- The record that the last match or verdict upheld (11 R279). -/
  agreed : Vector Word 28
  frame : LaneFrame
  /-- The gated writes held, oldest first (11 R274). -/
  held : List GatedWrite
  stopAll : Bool
  takeoverFlag : Bool
  resyncFlag : Bool
  tick : Nat
  ticked : Bool
deriving DecidableEq, Repr

/-! Reset values. -/

def VclSt.cold : VclSt :=
  { ctrl := 0, link := 0, proto := 0, tls := false, permit := false, authGranted := false, bpt := false,
    carrierMissing := false, slacThreshold := 40, slacTx := 0, slacMean := 0, evTarget := 0, authReq := 0,
    authSession := 0, defaultBand := 15, cntSlacFail := 0, cntTimeout := 0, cntExiErr := 0, cntTlsFail := 0,
    session := 0, record := .zero, policy := none, ev := .zero, evReady := false, stopReq := false, authSince := none,
    authFailed := false, lastWrite := 0, lastDemand := 0, lastFrame := 0, slacRetries := 0, errFrames := 0, items := [],
    schedule := none }

def Vcl.cold : Vcl :=
  { ch := .replicate 8 .cold, sessionNext := 1, hostWait := 30, stationChain := [], out := [] }

def DriveSt.cold : DriveSt :=
  { fault := false, misses := 0, polled := none, lastPoll := 0, flow := none, temp := none, speed := 0,
    sent := none }

def LoopSt.cold : LoopSt := { flow := 0, duty := 0, fault := false, belowSince := none, goodSince := none }

def Thm.cold : Thm :=
  { dieK := 8, dieStop := false, dieTripped := false, dieDone := false, mramBlocked := false, batBlocked := false, bakBlocked := false,
    dieTemp := 0, hkEnd := 0, die := .replicate 4 none, supply := .replicate 6 0, phi := .replicate 8 0,
    tf := .replicate 8 none, hard := .replicate 8 false, loop := .replicate 4 .cold, fan := .replicate 4 0,
    drive := .replicate 8 .cold, hk := .replicate 64 none, hkK := .replicate 64 0, dcLast := 0, cntBusErr := 0, cntJournalDrop := 0, coolRounds := 0,
    busOut := [] }

def SafeConn.none : SafeConn :=
  { got := 0, ref := false, lastSeq := 0, lastTime := 0, rejSeq := Option.none, expired := false, txSeq := 0 }

def AcdSt.cold : AcdSt :=
  { en := false, outlet := 0, period := 5, maxAge := 20, canId := 0, flags := 0, conn := .none, lastTx := 0 }

def Saf.cold : Saf :=
  { srcGlb := 0b0000100000, srcOut := .replicate 8 0, srcSto := .replicate 4 0b011001, gateEn := 0, genFault := 0,
    gatePad := .replicate 24 none, stoPad := .replicate 8 none,
    overcurrent := 0, estopMap := .replicate 4 0, estopA := 0, estopB := 0, latched := 0, discrepancy := 0,
    disagree := .replicate 4 none, welds := 0, fbFaults := 0, brkTrip := false, brkUntil := 0, brkPulse := 200,
    stoCmd := 0, stoFault := 0, siteMode := 1, siteMaxAge := 2, siteNext := 0, stops := [], overflow := false,
    siteLost := false, released := [], announcing := [], conn := .replicate 4 .none, rotate := 0, trig := false, changed := [],
    hostGlb := 0, hostOut := .replicate 8 0, hostSto := .replicate 4 0,
    acd := .replicate 4 .cold, cntRejId := 0, cntRejSeq := 0, cntRejAge := 0, cntRejCrc := 0, cntExpired := 0,
    ocp := 0, ocm := 0, fbp := 0, fbm := 0, lastDrive := .replicate 8 0, seoSince := .replicate 8 (some 0),
    permit := .replicate 8 false, permitSince := .replicate 8 none, imdSince := .replicate 8 none, imdFault := 0,
    tokenMiss := 0, supplyGood := none, acdOut := [] }

def Lne.cold : Lne :=
  { driving := false, last := 0, cause := 0, stopped := false, state := .replicate 2 .inStep, coxDead := false,
    verdictTick := 0, restarts := .replicate 2 0, cntMismatch := 0, cntTakeover := 0, cntDrill := 0,
    record := .replicate 2 (.replicate 28 0), nextDriving := none, restartTimes := .replicate 2 [],
    since := .replicate 2 0, stoppedAt := 0, tokenStopped := false, lastKick := 0, drill := none, drillLeft := 0,
    drillStart := 0, agreed := .replicate 28 0,
    frame := ⟨0, 0, 0, .replicate 8 0, .replicate 8 0, .replicate 8 0, .replicate 24 0⟩, held := [], stopAll := false, takeoverFlag := false, resyncFlag := false, tick := 0,
    ticked := false }

end Sys2Proof.Machine
end

