-- ==== Sys2Proof/Machine/StateLegal.lean ====
section
/-! DEFINITION. State of metrology, billing, the buffer battery, the keys and the life cycle (12, 13, 14, 18, 19). -/
namespace Sys2Proof.Machine

/-- Sums over the legal samples of a second, of an outlet: mV, mA, µW, and their number; and whether a net of the second was flagged
`LANE_FAULT` (12 R297, R309). -/
structure SecSums where
  v : Int
  i : Int
  p : Int
  n : Nat
  fault : Bool
deriving DecidableEq, Repr

/-- A session as metrology and billing follow it: its values (12 R304) and what its receipt needs (13 R332). Energies in mWh. -/
structure MetSession where
  id : Word
  running : Bool
  imp : Nat
  exp : Nat
  start : Nat
  tariff : Nat
  corr : Int
  seq : Nat
  imp0 : Nat
  exp0 : Nat
  impT : Vector Nat 8
  expT : Vector Nat 8
  flags : Half
deriving DecidableEq, Repr

/-- A capture that is running (12 R311): its pages, the bytes written so far and the time of its first sample. -/
structure CaptureRun where
  ring : Ring
  seq : DWord
  mask : BitVec 24
  decimated : Bool
  refs : List Word
  bytes : Nat
  first : Option Nat
deriving DecidableEq, Repr

/-- Window quantities of a grid phase (12 R301, R309): mV, mA, W, var, VA, 0.0001, 0.01 %. -/
structure GridQty where
  vrms : Nat
  irms : Nat
  p : Int
  q : Int
  s : Nat
  pf : Int
  thdV : Nat
  thdI : Nat
deriving DecidableEq, Repr

/-- Metrology (12). -/
structure Met where
  newest : Bool
  writing : Bool
  laneFault : BitVec 24
  /-- Cycle at which the last faulty window of each lane ended (12 R297). -/
  laneBadAt : Vector Nat 24
  noVoltage : Bool
  nominal60 : Bool
  /-- The nominal frequency has been taken since the start or since `NO_VOLTAGE` was cleared (12 R299). -/
  nominalKnown : Bool
  tempSrcLost : Bool
  darkPending : Bool
  freq : Nat
  window : Word
  cntFaultSeconds : Word
  dark : Vector Nat 8
  /-- Temperature term k (0.1 ppm), phase φ (0.1 µrad) and shift s (ns) in force for each lane (12 R295, R296). -/
  k : Vector Int 24
  phi : Vector Int 24
  /-- The terms k of the lanes' regulation filters, under the user layer of the active epoch (12 R292, R296; log entry 161). -/
  regK : Vector Int 24
  shift : Vector Int 24
  snap : Vector (Vector Word 256) 2
  live : Vector Word 16
  harm : Vector (Vector Word 64) 6
  pubSeq : Word
  /-- Net accumulators of the nets in progress, in µW-samples (12 R298, R299, R302). -/
  accOut : Vector Int 8
  accP : Int
  accQ : Int
  /-- Nets in progress that contain a replaced sample: outlets 0-7, grid 8 (12 R297). -/
  netFault : BitVec 9
  /-- The last net of the subject was negative (13 R338). -/
  lastNeg : BitVec 9
  /-- Sums of the second in progress and of the last closed second. -/
  sums : Vector SecSums 8
  lastSec : Vector SecSums 8
  /-- Index of the last closed second (12 R303). -/
  second : Nat
  /-- Instant of a second boundary that an interval end at the same instant has already processed (13 R328). -/
  doneAt : Option Nat
  /-- Sums of the currents over the tick in progress, with the number of samples (12 R310). -/
  tickSum : Vector Int 8
  tickN : Nat
  session : Vector MetSession 8
  /-- Session events signalled and not yet taken: outlet, start or end, session ID, fleet time, end reason (12 R304). -/
  signals : List (Outlet × Bool × Word × Nat × Byte)
  /-- Reversed sensors declared: outlets 0-7, grid 8; seconds in succession with the condition; time since it was last present
  (12 R305). -/
  reversed : BitVec 9
  revRun : Vector Nat 9
  revLast : Vector (Option Nat) 9
  grid : Vector GridQty 3
  capture : Option CaptureRun
  /-- Dark charge: remainder in mA·s of each outlet, fleet times of the first and last dark second of the HOLD (12 R308). -/
  darkRem : Vector Nat 8
  darkFirst : Vector (Option Nat) 8
  darkLast : Vector Nat 8
deriving DecidableEq, Repr

/-- An energy register pair of an outlet and tariff (13 R315), mWh. -/
structure EnergyPair where
  imp : Nat
  exp : Nat
deriving DecidableEq, Repr

/-- Grid registers of a tariff (13 R315), mWh and mvarh. -/
structure GridRegs where
  imp : Nat
  exp : Nat
  q : Vector Nat 4
deriving DecidableEq, Repr

/-- A maximum demand, W, with its time (13 R322). -/
structure MaxDem where
  imp : Nat
  impTime : Nat
  exp : Nat
  expTime : Nat
deriving DecidableEq, Repr

/-- An interval record (13 R321). -/
structure IntervalRec where
  seq : Nat
  start : Nat
  stop : Nat
  startWall : Int
  imp : Nat
  exp : Nat
  impDem : Nat
  expDem : Nat
  tariff : Nat
  flags : BitVec 8
deriving DecidableEq, Repr

/-- A billing cycle record (13 R323). -/
structure CycleRec where
  index : Word
  seq : Nat
  time : Nat
  outlets : Vector (Vector EnergyPair 8) 8
  grid : Vector GridRegs 8
  md : Vector MaxDem 8
deriving DecidableEq, Repr

/-- A receipt (13 R332, R333); `signed` says whether it carries a signature. -/
structure Receipt where
  number : Nat
  outlet : Outlet
  session : MetSession
  stop : Nat
  corr : Int
  seq : Nat
  imp1 : Nat
  exp1 : Nat
  version : Word
  epoch : Word
  digest : Digest
  meterId : BitVec 128
  signed : Bool
deriving DecidableEq, Repr

/-- A tamper record (13 R340): count, first and last times. -/
structure TamperCnt where
  count : Word
  first : Nat
  last : Nat
deriving DecidableEq, Repr

/-- A display (13 R335-R338): its entry in force, the place in its sequence, the cycles of the dwell's start, of the last poll and of a poll
that waits for its answer, the polls without a healthy answer. -/
structure DispSt where
  entry : Option DisplayCfg
  item : Nat
  since : Nat
  missed : Nat
  lastPoll : Nat
  waiting : Option Nat
deriving DecidableEq, Repr

/-- The billing state that always-on SRAM and the commit records hold (13 R329). -/
structure BilCore where
  tariff : Nat
  dynamic : Bool
  hold : Bool
  seq : Nat
  cycle : Word
  outlets : Vector (Vector EnergyPair 8) 8
  grid : Vector GridRegs 8
  md : Vector MaxDem 8
  /-- Remainders of the nets, in µW-samples (12 R303). -/
  remOut : Vector Int 8
  remP : Int
  remQ : Int
  /-- The open interval: start in fleet and wall time, energy posted, flags of R321. -/
  openStart : Nat
  openWall : Int
  openImp : Nat
  openExp : Nat
  openFlags : BitVec 8
  /-- Sub-interval records of the sliding window, newest first (13 R322). -/
  slide : List IntervalRec
  /-- B: wall time of the latest boundary processed (13 R327). -/
  last : Int
  /-- Wall time up to which cycle ends have been processed (13 R323). -/
  lastCycle : Int
deriving DecidableEq, Repr

/-- A step record (13 R325): old and new wall time, source. -/
structure StepRec where
  old : Int
  new : Int
  src : BitVec 2
deriving DecidableEq, Repr

/-- Frames and texts that the legal domain puts on a display chain (13 R338). -/
structure DispOut where
  chain : Nat
  frame : List Byte
deriving DecidableEq, Repr

/-- Billing and the legal domain (13). Records of the legal store are newest first. -/
structure Bil where
  legalUp : Bool
  /-- Meter inputs whose type counts again: they have been high for 10 ms since the last event (13 R339). -/
  tamperArm : BitVec 3
  core : BilCore
  sealedF : Bool
  erased : Bool
  meterId : BitVec 128
  legalVersion : Word
  legalDigest : Digest
  errNoTime : Bool
  errStore : Bool
  errCommitLost : Bool
  errSign : Bool
  /-- Number of the next receipt; receipts that wait for their signature; receipts held (13 R332-R334). -/
  nextReceipt : Nat
  unsignedR : List Receipt
  receipts : List Receipt
  stepOld : DWord
  stepNew : DWord
  stepSrc : BitVec 2
  dispFaulty : Byte
  cntOverwritten : Word
  tamper : Vector TamperCnt 9
  /-- Tamper events that wait for a restore with MRAM writes allowed (13 R340). -/
  tamperHeld : List (Fin 9 × Nat)
  records : List IntervalRec
  cycles : List CycleRec
  steps : List StepRec
  /-- Clock steps that the legal domain has not yet acted on (13 R324, R325). -/
  stepPend : List StepRec
  /-- Instant of an interval end that a second boundary at the same instant has already processed (13 R328). -/
  doneAt : Option Nat
  disp : Vector DispSt 8
  /-- Commit slots, newest first, with their instants (13 R329). -/
  commits : List (Nat × BilCore)
  exportRun : Option (Ring × Desc)
  /-- Billing sequence of an export since which no net has been posted (13 R344). -/
  exported : Option Nat
  out : List DispOut
deriving DecidableEq, Repr

/-- A held step (14 R357): who asked, its start in fleet time, the current held. -/
structure HeldRun where
  ring : List (Ring × DWord)
  start : Nat
  current : Int
deriving DecidableEq, Repr

/-- A battery history record (14 R359). -/
structure BatRec where
  c : Nat
  soc : Nat
  ur : Nat
  trueRef : Nat
  capacity : Nat
  cycles : Word
  overdraw : Nat
  relearn : Bool
  z : Vector (Vector Word 10) 8
deriving DecidableEq, Repr

/-- Buffer battery (14). Times in fleet ns where a reset outlives them, in cycles otherwise. -/
structure Bat where
  present : Bool
  degraded : Bool
  relearn : Bool
  eod : Bool
  eoc : Bool
  tempFail : Bool
  eodLevel : BitVec 2
  eocLevel : BitVec 2
  soc : Nat
  u : Nat
  volt : Int
  curr : Int
  tLo : Int
  tHi : Int
  capacity : Nat
  cycles : Word
  overdraw : Nat
  grant : Int
  grantIlim : Nat
  rLast : Word
  vbak : Half
  bakEst : Byte
  bakLow : Bool
  bakCrit : Bool
  shipArmed : Bool
  cntSteps : Word
  cntReject : Word
  cntHeld : Word
  z : Vector (Vector Word 10) 8
  /-- Charge accumulator in mA-samples and counted charge in mAh (14 R350). -/
  acc : Int
  c : Nat
  /-- Sums of lanes 22 and 23 over the housekeeping round and of lane 23 over the tick in progress, with their numbers of
  samples; the mean of lane 23 over the last tick. -/
  vSum : Int
  iSum : Int
  sumN : Nat
  tickSum : Int
  tickN : Nat
  tickMean : Int
  ur : Nat
  /-- Fleet time of the last true reference (14 R351, R359). -/
  trueRef : Nat
  restSince : Option Nat
  fullSince : Option Nat
  quasiRun : Nat
  /-- Cycle of the apply instant that opened a step measurement (14 R353). -/
  meas : Option Nat
  /-- A held step asked for, by descriptors or by the device, with the fleet time of the first request (14 R357). -/
  heldReq : Option (List (Ring × DWord) × Nat)
  lastHeldReq : Option Nat
  heldRun : Option HeldRun
  eodSince : Option Nat
  eocSince : Option Nat
  /-- Net charge counted since the last empty reference, and the fleet time of that reference (14 R354). -/
  sinceEmpty : Int
  emptyAt : Option Nat
  disRem : Nat
  /-- History records, newest first, at most two; a write waits while MRAM writes are forbidden (14 R359). -/
  hist : List BatRec
  histWait : Bool
  lastHistory : Nat
  /-- No valid record stood at the start: the first round takes the state of charge from the table. -/
  fresh : Bool
  lastEstimate : Nat
deriving DecidableEq, Repr

/-- An MRAM key slot (18 R433, R437, R444): attributes, state code and n_t at writing, content. -/
structure KeySlot where
  kind : BitVec 4
  usage : BitVec 4
  role : BitVec 4
  state : Nat
  nt : Nat
  data : List Byte
deriving DecidableEq, Repr

/-- An OTP key slot (18 R433, R444). -/
structure OtpSlot where
  kind : BitVec 4
  usage : BitVec 4
  role : BitVec 4
  stateMask : BitVec 5
  void : Bool
  programmed : Bool
  data : List Byte
deriving DecidableEq, Repr

/-- An anchor: parameter set, public key and its digest, slot whose content is that digest (18 R434). -/
structure Anchor where
  param : Byte
  key : List Byte
  digest : Digest
  slot : Nat
deriving DecidableEq, Repr

/-- The caddy (18). -/
structure Key where
  /-- Number of the base root, which a new enrolment advances (19 R446). -/
  root : Nat
  rootOk : Bool
  rootFail : Bool
  zeroized : Bool
  mixed : Bool
  rngFail : Bool
  /-- Conditioned outputs that have passed since the failed health test (18 R432). -/
  rngGood : Nat
  /-- State code, n_t and issue time of the state certificate held (18 R437, R438). -/
  cert : Option (Nat × Nat × Nat)
  tamper : BitVec 5
  swEn : BitVec 2
  birthDigest : Digest
  stateDigest : Digest
  birthCert : Bool
  legacy : BitVec 2
  legacyKey : List Byte
  queues : Vector (List CaddyReq) 4
  /-- Queue to be served next. -/
  turn : Fin 4
  cntSign : Word
  cntVerifyFail : Word
  cntRefused : Word
  anchors : Vector (Option Anchor) 4
  /-- MRAM slots that are not empty, by rising number. -/
  slots : List (Nat × KeySlot)
  otp : Vector OtpSlot 16
deriving DecidableEq, Repr

/-- An image slot of the boot flash (19 R452): whether it holds a verified image, and its header. -/
structure ImgSlot where
  valid : Bool
  version : Word
  index : BitVec 6
  variants : BitVec 3
  header : Digest
  body : Digest
deriving DecidableEq, Repr

/-- An image kind (19 R453-R456, R462). -/
structure ImgKind where
  runningB : Bool
  started : Bool
  trial : Bool
  tries : BitVec 3
  failed : Bool
  rollback : BitVec 6
  a : ImgSlot
  b : ImgSlot
  preferB : Bool
  /-- Cycle at which the kind was last started, while it has not reported ready (19 R454). -/
  since : Option Nat
deriving DecidableEq, Repr

/-- Life-cycle states (19 R445). -/
inductive LcState where
  | maker | integr | service | ret | scrap
deriving DecidableEq, Repr

/-- An `LCS_IMAGE_WRITE` whose verification runs (19 R456): descriptor, kind, slot, header as written. -/
structure ImgWrite where
  ring : Option Ring
  seq : DWord
  kind : Fin 6
  slotB : Bool
  img : ImgSlot
deriving DecidableEq, Repr

/-- Life cycle and firmware (19). -/
structure Lcs where
  st : LcState
  returnPending : Bool
  /-- The `LCS_TRANSITION` that a pending RETURN completes (19 R449). -/
  returnWait : Option (Ring × DWord)
  /-- A RETURN has been entered: the next cold reset erases journal and configuration (19 R449). -/
  eraseDue : Bool
  portOpen : Bool
  /-- The port has been open since the last cold reset (19 R450). -/
  portOpened : Bool
  lock : Bool
  recovery : Bool
  normalBoot : Bool
  /-- Permissions of the policy in force (19 R459). -/
  policy : Option (BitVec 4)
  nt : Nat
  nonce : Digest
  /-- Fleet time at which the newest nonce was issued; none when it has been used (19 R447). -/
  nonceAt : Option Nat
  meas : BitVec 512
  img : Vector ImgKind 6
  portAuth : List Byte
  cntAuthFail : Word
  cntLegalWp : Word
  writing : List ImgWrite
  /-- `LCS_IMAGE_ACTIVATE` whose reset is to come: descriptor and kind (19 R460). -/
  activating : List (Ring × DWord × Fin 6)
deriving DecidableEq, Repr

/-! Reset values. -/

def SecSums.zero : SecSums := ⟨0, 0, 0, 0, false⟩
def GridQty.zero : GridQty := ⟨0, 0, 0, 0, 0, 0, 0, 0⟩
def MetSession.none : MetSession :=
  { id := 0, running := false, imp := 0, exp := 0, start := 0, tariff := 1, corr := 0, seq := 0, imp0 := 0, exp0 := 0,
    impT := .replicate 8 0, expT := .replicate 8 0, flags := 0 }

def Met.cold : Met :=
  { newest := false, writing := false, laneFault := 0, laneBadAt := .replicate 24 0, noVoltage := true, nominal60 := false, nominalKnown := false,
    tempSrcLost := false, darkPending := false, freq := 0, window := 0, cntFaultSeconds := 0, dark := .replicate 8 0,
    k := .replicate 24 0, phi := .replicate 24 0, regK := .replicate 24 0, shift := .replicate 24 0, snap := .replicate 2 (.replicate 256 0),
    live := .replicate 16 0, harm := .replicate 6 (.replicate 64 0), pubSeq := 0, accOut := .replicate 8 0, accP := 0,
    accQ := 0, netFault := 0, lastNeg := 0, sums := .replicate 8 .zero, lastSec := .replicate 8 .zero, second := 0,
    doneAt := none, tickSum := .replicate 8 0, tickN := 0, session := .replicate 8 .none, signals := [], reversed := 0,
    revRun := .replicate 9 0, revLast := .replicate 9 none, grid := .replicate 3 .zero,
    capture := none, darkRem := .replicate 8 0, darkFirst := .replicate 8 none, darkLast := .replicate 8 0 }

def zeroPairs : Vector (Vector EnergyPair 8) 8 := .replicate 8 (.replicate 8 ⟨0, 0⟩)
def zeroGrid : Vector GridRegs 8 := .replicate 8 ⟨0, 0, .replicate 4 0⟩
def zeroMd : Vector MaxDem 8 := .replicate 8 ⟨0, 0, 0, 0⟩

def BilCore.cold : BilCore :=
  { tariff := 1, dynamic := false, hold := false, seq := 0, cycle := 0, outlets := zeroPairs, grid := zeroGrid,
    md := zeroMd, remOut := .replicate 8 0, remP := 0, remQ := 0, openStart := 0, openWall := 0, openImp := 0, openExp := 0,
    openFlags := 0, slide := [], last := 0, lastCycle := 0 }

def DispSt.cold : DispSt := ⟨none, 0, 0, 0, 0, none⟩

def Bil.cold : Bil :=
  { legalUp := false, tamperArm := 7, core := .cold, sealedF := false, erased := false, meterId := 0, legalVersion := 0, legalDigest := 0,
    errNoTime := true, errStore := false, errCommitLost := false, errSign := false, nextReceipt := 1, unsignedR := [],
    receipts := [], stepOld := 0, stepNew := 0, stepSrc := 0, dispFaulty := 0, cntOverwritten := 0,
    tamper := .replicate 9 ⟨0, 0, 0⟩, tamperHeld := [], records := [], cycles := [], steps := [], stepPend := [], doneAt := none,
    disp := .replicate 8 .cold, commits := [], exportRun := none, exported := none, out := [] }

def Bat.cold : Bat :=
  { present := false, degraded := false, relearn := false, eod := false, eoc := false, tempFail := false, eodLevel := 0,
    eocLevel := 0, soc := 0, u := 0, volt := 0, curr := 0, tLo := 0, tHi := 0, capacity := 0, cycles := 0, overdraw := 0,
    grant := 0, grantIlim := 0, rLast := 0, vbak := 0, bakEst := 0, bakLow := false, bakCrit := false, shipArmed := false,
    cntSteps := 0, cntReject := 0, cntHeld := 0, z := .replicate 8 (.replicate 10 0), acc := 0, c := 0, vSum := 0, iSum := 0,
    sumN := 0, tickSum := 0, tickN := 0, tickMean := 0, ur := 0, trueRef := 0, restSince := none, fullSince := none,
    quasiRun := 0, meas := none, heldReq := none, lastHeldReq := none, heldRun := none, eodSince := none, eocSince := none,
    sinceEmpty := 0, emptyAt := none, disRem := 0, hist := [], histWait := false, lastHistory := 0, fresh := true,
    lastEstimate := 0 }

def OtpSlot.empty : OtpSlot := ⟨0, 0, 0, 0, false, false, []⟩

/-- The caddy as a cold start leaves it; a base root of number 0 and a birth certificate for it stand in OTP or key memory.
DESIGN CHOICE (log entries 1 and 14). -/
def Key.cold : Key :=
  { root := 0, rootOk := false, rootFail := false, zeroized := false, mixed := true, rngFail := false, rngGood := 0,
    cert := none, tamper := 0, swEn := 0, birthDigest := Config.birthDigest 0, stateDigest := Config.stateDigest 0 0 0 none,
    birthCert := true, legacy := 0, legacyKey := [], queues := .replicate 4 [], turn := 0, cntSign := 0,
    cntVerifyFail := 0, cntRefused := 0, anchors := .replicate 4 none, slots := [], otp := .replicate 16 .empty }

def ImgSlot.empty : ImgSlot := ⟨false, 0, 0, 0, 0, 0⟩

/-- The images that a device holds in its boot flash at the first start: version 0, index 0, for every variant, in slot A, confirmed.
DESIGN CHOICE (log entry 14): the manual gives no flash contents. -/
def ImgSlot.first : ImgSlot := ⟨true, 0, 0, 0b111, 0, 0⟩

def ImgKind.cold : ImgKind :=
  { runningB := false, started := false, trial := false, tries := 0, failed := false, rollback := 0, a := .first,
    b := .empty, preferB := false, since := none }

/-- MAKER, with the maker port open (19 R445, R450). DESIGN CHOICE (log entry 14): the state stands in OTP. -/
def Lcs.cold : Lcs :=
  { st := .maker, returnPending := false, returnWait := none, eraseDue := false, portOpen := true, portOpened := true, lock := false,
    recovery := false, normalBoot := false, policy := none, nt := 0, nonce := 0, nonceAt := none, meas := 0,
    img := .replicate 6 .cold, portAuth := [], cntAuthFail := 0, cntLegalWp := 0, writing := [], activating := [] }

end Sys2Proof.Machine
end

