-- ==== Sys2Proof/Machine/State.lean ====
section
/-! DEFINITION. The state of the block, the reasons a step can stop, and the state right after a cold reset. -/
namespace Sys2Proof.Machine

/-- Everything the manual gives the block (INVENTORY.md lists it field by field), with the queue of waiting commands. -/
structure State where
  clk : Clk
  pwr : Pwr
  ev : EvRegs
  irq : Vector Irq 128
  ring : Vector RingSt 64
  ringF : Vector RingFn 3
  dlv : Dlv
  win : Win
  /-- Contents of the cores' private SRAM regions, in the order of 01 R13: the bytes that differ from 0. -/
  sram : Vector (List (Nat × Byte)) 8
  frz : Frz
  dia : Dia
  glb : Glb
  tun : Tunnel
  hostOut : HostOut
  rgt : Rgt
  /-- The transmitters of the Regatta ports. -/
  line : Vector LineSt 4
  alc : Alc
  cfg : Cfg
  jn : Vector JnSt 8
  pwm : Pwm
  reg : Reg
  out : Vector OutSt 8
  mtx : Mtx
  vcl : Vcl
  thm : Thm
  saf : Saf
  lne : Lne
  met : Met
  bil : Bil
  bat : Bat
  key : Key
  lcs : Lcs
  /-- The model's own counter at which free values are taken (log entry 4); no field of the manual. -/
  free : Nat
  /-- Commands waiting, first in first out. -/
  pending : List Instr
deriving DecidableEq, Repr

/-- Reasons the block stops with a fault. No command of the block raises one: every fault of the manual is an effect on
the state. -/
inductive Fault where
  /-- Raised by nobody. Safe: the type is only what the interface asks for. -/
  | none
deriving DecidableEq, Repr

/-- Reasons a command is turned away by the model. -/
inductive Refusal where
  /-- Raised by Dispatch.lean for a command that has no meaning yet. Safe: the machine stops where the hardware goes on. -/
  | notModelled (mnemonic : String)
deriving DecidableEq, Repr

/-- Ring registers and queues at reset. -/
def ringsCold : Vector RingSt 64 := vmapIdx (.replicate 64 (RingSt.cold 0)) fun r _ => RingSt.cold r

/-- The block right after a cold reset from power-on: every field at the value the manual gives, or at the value that log
entries 1, 2 and 3 name. -/
def State.reset : State :=
  { clk := .cold, pwr := .cold, ev := .cold, irq := .replicate 128 .cold, ring := ringsCold,
    ringF := .replicate 3 .cold, dlv := .empty, win := .cold, sram := .replicate 8 [], frz := .cold, dia := .cold, glb := .cold, tun := .empty,
    hostOut := .empty, rgt := .cold, line := .replicate 4 .cold, alc := .cold, cfg := .default, jn := .replicate 8 .cold, pwm := .cold,
    reg := .cold, out := .replicate 8 .cold, mtx := .cold, vcl := .cold, thm := .cold, saf := .cold, lne := .cold,
    met := .cold, bil := .cold, bat := .cold, key := .cold, lcs := .cold, free := 0, pending := [] }

end Sys2Proof.Machine
end

