-- ==== Sys2Proof/Machine/Wire.lean ====
section
/-! DEFINITION. Bytes on the wire: Regatta frames and their payloads (02 R38, R48, R56, R57; 03 R74, R83, R92; 04 R111, R113; 15 R387;
21 R492), safe frames (10 R252-R257, R261), and the completions and shadow records that host memory receives (15 R371, R384). -/
namespace Sys2Proof

/-! ### Fields -/

/-- An identity field: controller ID in [11:0], crew ID in [15:12]. -/
def idBytes (id : CtrlId) (crew : BitVec 4) : List Byte := leBytes 2 (id.toNat + 4096 * crew.toNat)
def digestLe (d : Digest) : List Byte := leBytes 32 d.toNat
def pairBytes (p : Pair) : List Byte := leBytes 4 p.epoch.toNat ++ digestLe p.digest

/-- A list of records in a field of n of them; entries beyond the field are dropped, missing ones are 0. -/
def fieldOf {α : Type} (n size : Nat) (f : α → List Byte) (l : List α) : List Byte :=
  let b := (l.take n).flatMap f
  b ++ List.replicate (n * size - b.length) 0

/-- Signed ns in 8 bytes. -/
def signed8 (i : Int) : List Byte := leBytes 8 (BitVec.ofInt 64 i).toNat

def noticeBytes (x : CtrlId × CtrlId) : List Byte := leBytes 4 (x.1.toNat + 4096 * x.2.toNat + 2 ^ 31)
def changeBytes (x : CtrlId × Bool) : List Byte := leBytes 2 (x.1.toNat + (if x.2 then 2 ^ 14 else 0) + 2 ^ 15)
def flagBits (l : List Bool) : Nat := ((List.range l.length).map fun i => if nth l i false then 2 ^ i else 0).foldl (· + ·) 0

/-! ### ALLOC payloads -/

/-- UP, 640 bytes (03 R74). -/
def Up.bytes (u : Up) : List Byte :=
  leBytes 8 u.round ++ pairBytes u.pair ++ leBytes 2 (u.members % 8192) ++ leBytes 2 (u.absent % 8192) ++ leBytes 1 u.curtail.toNat ++
  leBytes 1 (flagBits [u.holding]) ++ leBytes 2 0 ++ leBytes 4 u.cap.toNat ++ leBytes 4 u.holdReserve.toNat ++ leBytes 4 u.fallback.toNat ++
  fieldOf 8 4 noticeBytes u.notices ++ fieldOf 16 2 changeBytes u.changes ++ u.d.toList.flatMap (fun w => leBytes 4 w.toNat) ++
  u.s.toList.flatMap fun w => leBytes 4 w.toNat

/-- The flags byte of a DOWN (03 R83). -/
def downFlags (full byBow hold drill shed : Bool) : Nat := flagBits [full, byBow, hold, drill, shed]

/-- DOWN, 624 bytes (03 R83). -/
def Down.bytes (d : Down) : List Byte :=
  leBytes 8 d.round ++ leBytes 1 d.res.lam.toNat ++ leBytes 1 (downFlags d.res.full d.byBow d.hold d.drill d.shed) ++ leBytes 2 d.res.f.toNat ++
  leBytes 4 d.res.budget.toNat ++ leBytes 4 d.res.holdReserve.toNat ++ pairBytes d.pair ++ idBytes d.originator d.crew ++
  leBytes 2 d.members.toNat ++ leBytes 2 d.absent.toNat ++ leBytes 1 d.curtail.toNat ++ leBytes 1 0 ++ leBytes 8 d.drillRound ++
  leBytes 8 d.actRound ++ fieldOf 8 4 noticeBytes d.notices ++ leBytes 512 d.divergent.toNat

/-- A parent field of a PROBE: bit 15 where there is none. -/
def parentBytes (p : Option CtrlId) : List Byte := leBytes 2 (match p with | some c => c.toNat | none => 2 ^ 15)

/-- PROBE, 32 bytes (02 R48). -/
def Probe.bytes (p : Probe) : List Byte :=
  idBytes p.id p.crew ++ leBytes 1 p.strokeDist.toNat ++ leBytes 1 p.bowDist.toNat ++ parentBytes p.strokeParent ++ parentBytes p.bowParent ++
  leBytes 4 p.pathDelay.toNat ++ leBytes 4 p.epoch.toNat ++ signed8 p.taiCorr ++ leBytes 4 p.corrRound.toNat ++
  leBytes 1 (flagBits [p.admitted, p.inTime]) ++ leBytes 3 0

/-- MIRROR (03 R92): kind, 7 reserved bytes, round, and what the kind carries. The flags of a result show FULL (03 R83). -/
def Mirror.bytes : Mirror → List Byte
  | .crewSum n u => leBytes 8 0 ++ leBytes 8 n ++ u.bytes
  | .result n r =>
    leBytes 8 1 ++ leBytes 8 n ++ leBytes 1 r.lam.toNat ++ leBytes 1 (flagBits [r.full]) ++ leBytes 2 r.f.toNat ++ leBytes 4 r.budget.toNat ++
    leBytes 4 r.holdReserve.toNat
  | .name n why => leBytes 8 2 ++ leBytes 8 n ++ [why]
  | .demote n why => leBytes 8 3 ++ leBytes 8 n ++ [why]
  | .other k => leBytes 8 k.toNat

/-! ### Safe frames (10 R252-R257, R261) -/

/-- Bytes 0 to 51 of a safe frame: the data is padded with zero bytes. -/
def SafeFrame.head (f : SafeFrame) : List Byte :=
  leBytes 4 f.conn.toNat ++ leBytes 4 f.seq.toNat ++ leBytes 8 f.time ++ leBytes 1 f.len.toNat ++ leBytes 3 0 ++
  (f.data ++ List.replicate (32 - f.data.length) 0).take 32

/-- The check of R254 is right. -/
def SafeFrame.checkOk (f : SafeFrame) : Bool := f.check == crc32c f.head

/-- The 56-byte protocol data unit. -/
def SafeFrame.bytes (f : SafeFrame) : List Byte := f.head ++ leBytes 4 f.check.toNat

/-- A safe frame with its check. -/
def SafeFrame.make (conn seq : Word) (time : Nat) (data : List Byte) : SafeFrame :=
  let f : SafeFrame := ⟨conn, seq, time, BitVec.ofNat 8 data.length, data, 0⟩
  { f with check := crc32c f.head }

/-- The heartbeat data (10 R257): a stop is held, and up to 7 entries. -/
def StopEntry.bytes (e : StopEntry) : List Byte :=
  leBytes 4 (e.origin.toNat + (if e.release then 4096 else 0) + 65536 * e.number.toNat)
def heartData (held : Bool) (l : List StopEntry) : List Byte :=
  leBytes 1 (flagBits [held]) ++ leBytes 1 (min 7 l.length) ++ leBytes 2 0 ++ fieldOf 7 4 StopEntry.bytes l

/-- A word of the data of a safe frame. -/
def SafeFrame.word (f : SafeFrame) (o : Nat) : Word := nth f.data (o + 3) 0 ++ nth f.data (o + 2) 0 ++ nth f.data (o + 1) 0 ++ nth f.data o 0

/-- The stop entries that a heartbeat carries. -/
def SafeFrame.entries (f : SafeFrame) : List StopEntry :=
  (List.range (min 7 (nth f.data 1 0).toNat)).map fun i =>
    let w := f.word (4 + 4 * i)
    ⟨bitsOf w 0 12, w.getLsbD 12, bitsOf w 16 16⟩

/-- The first data byte: the flags of an ACD (10 R261). -/
def SafeFrame.b0 (f : SafeFrame) : Byte := nth f.data 0 0

/-! ### CFG messages (02 R56, R57; 04 R111, R113; 21 R492) -/

/-- Body of JOIN and LEAVE before the signature, and with it: the public key is that of the identity digest, the signature is made over the
SHA3-256 digest of bytes 0 to 2,031. -/
def JoinBody.signed (b : JoinBody) : List Byte :=
  idBytes b.id b.crew ++ leBytes 2 0 ++ pairBytes b.pair ++ leBytes 8 b.signTime ++ digestLe b.identity ++
  (List.range 1952).map (Config.keyByte b.identity)
def JoinBody.bytes (b : JoinBody) : List Byte :=
  b.signed ++ (List.range 3309).map (Config.sigByte b.identity (digestLe (Config.sha3 b.signed)))

/-- Kind and body of a message. The layouts of JOIN_ACK, JOIN_REFUSE and LEAVE_ACK are not given (log entry 144). -/
def CfgBody.kind : CfgBody → Half
  | .join _ => 0x0001 | .joinAck _ _ => 0x0002 | .joinRefuse _ _ => 0x0003 | .leave _ => 0x0004 | .leaveAck _ _ => 0x0005
  | .stageReport .. => 0x0010 | .announce _ _ => 0x0011 | .diagRequest .. => 0x0020 | .diagReply .. => 0x0021

def CfgBody.bytes : CfgBody → List Byte
  | .join b => b.bytes
  | .joinAck id n => Config.answerBody 2 id.toNat n
  | .joinRefuse id why => Config.answerBody 3 id.toNat why.toNat
  | .leave b => b.bytes
  | .leaveAck id n => Config.answerBody 5 id.toNat n
  | .stageReport id crew st p => idBytes id crew ++ leBytes 1 st.toNat ++ leBytes 1 0 ++ pairBytes p
  | .announce p a => pairBytes p ++ leBytes 8 a
  | .diagRequest id crew q => idBytes id crew ++ leBytes 2 0 ++ leBytes 4 q.toNat
  | .diagReply q rec => leBytes 4 q.toNat ++ leBytes 4 0 ++ rec

/-- Bytes of a message that a segment carries: 2,004 less its 8-byte header (02 R38, R56). -/
def segmentSize : Nat := 1996

/-- The segments of a message, numbered from 0; a message without a body has one. -/
def segmentsOf (kind : Half) (msgId : Word) (body : List Byte) : List Payload :=
  let n := max 1 (ceilDiv body.length segmentSize)
  (List.range n).map fun i => .segment kind msgId i n ((body.drop (segmentSize * i)).take segmentSize)

/-! ### Frames (02 R38) -/

def Payload.bytes : Payload → List Byte
  | .up u => u.bytes
  | .down d => d.bytes
  | .probe p _ => p.bytes
  | .mirror m => m.bytes
  | .safe f => f.bytes
  | .segment kind id i n b => leBytes 4 id.toNat ++ leBytes 1 i ++ leBytes 1 n ++ leBytes 2 kind.toNat ++ b
  | .tunnel ch id i n len b => leBytes 1 ch.toNat ++ leBytes 1 i ++ leBytes 1 n ++ leBytes 1 0 ++ leBytes 4 id.toNat ++ leBytes 4 len.toNat ++ b
  | .other _ _ b => b

/-- The type of a frame within its class (02 R41). -/
def Payload.typ : Payload → Nat
  | .up _ => 1 | .down _ => 2 | .probe _ _ => 3 | .mirror _ => 4 | .safe _ => 1 | .segment .. => 1 | .tunnel .. => 1 | .other _ t _ => t.toNat

/-- The triggered flag of a frame. -/
def Payload.triggered : Payload → Bool
  | .probe _ t => t
  | _ => false

/-- A frame with the times that are inserted at its SOF: its own transmit time and the echo times of the port. -/
def Frame.head (f : Frame) (tx echoTx echoRx : Nat) : List Byte :=
  let p := f.body.bytes
  leBytes 1 (64 * f.body.cls.rank + f.body.typ) ++ leBytes 1 (flagBits [f.dest.isNone, f.hopLocal, f.body.triggered]) ++ leBytes 2 p.length ++
  idBytes f.src f.srcCrew ++ (match f.dest with | some d => idBytes d.1 d.2 | none => leBytes 2 0) ++ [f.hops, f.hopLimit] ++ leBytes 2 0 ++
  leBytes 4 f.seq.toNat ++ leBytes 8 tx ++ leBytes 8 echoTx ++ leBytes 8 echoRx ++ p
def Frame.bytes (f : Frame) (tx echoTx echoRx : Nat) : List Byte :=
  let h := f.head tx echoTx echoRx
  h ++ leBytes 4 (crc32 h).toNat

/-- The payload length of a received frame agrees with the place of its EOF, and the frame is no longer than a frame is (02 R38, R41). -/
def Hdr.framed (h : Hdr) : Bool := h.eof == 44 + h.length && decide (h.length ≤ 2004)

/-- Bytes of a frame on the line. -/
def Frame.size (f : Frame) : Nat := 44 + f.body.bytes.length

/-- ALLOC and SAFE frames are never suspended, and suspend the others (02 R42). -/
def RgtClass.urgent (c : RgtClass) : Bool := c == .alloc || c == .safe

/-! ### Host memory (15 R371, R384) -/

/-- State of a ring as `RING[r]_STATUS` and the shadow record show it (15 R393). -/
def RingState.shown : RingState → Nat | .disabled => 0 | .running => 1 | .draining => 2 | .frozen => 3 | .held => 4

/-- Status codes of a completion. -/
def CStatus.shown : CStatus → Nat | .done => 0 | .capacity => 1 | .malformed => 2 | .state => 3 | .epoch => 4

/-- A completion, 32 bytes (15 R384). -/
def Comp.bytes (phase : Bool) (c : Comp) : List Byte :=
  leBytes 8 c.seq.toNat ++ leBytes 2 (c.status.shown + (if phase then 2 ^ 14 else 0) + (if c.replay then 2 ^ 15 else 0)) ++ leBytes 2 c.detail.toNat ++
  leBytes 4 c.result.toNat ++ leBytes 8 c.effect.toNat ++ leBytes 8 c.jpos.toNat

/-- What a write to host memory holds: a completion, or a shadow record of 32 bytes (15 R371). -/
def Machine.HostWrite.bytes : Machine.HostWrite → List Byte
  | .completion _ _ phase c => c.bytes phase
  | .shadow _ a q exp time st out n =>
    leBytes 4 a.toNat ++ leBytes 4 q.toNat ++ leBytes 8 exp.toNat ++ leBytes 8 time ++ leBytes 1 st.shown ++ leBytes 1 0 ++ leBytes 2 out ++
    leBytes 4 n.toNat

end Sys2Proof
end

