-- ==== Sys2Proof/Machine/Line.lean ====
section
/-! DEFINITION. The transmitter of a Regatta port: the ordered sets and frames that it sends as time passes, the order of classes, suspension,
the shaping of the CFG class (02 R35, R36, R42, R47, R60). -/
namespace Sys2Proof.Machine

/-- What the transmitter needs to know of the controller while time passes: fleet time at the start, in units of 2^-32 ns, and its rate per
CLK_SYS cycle; the echo times of the port; the bytes of a round that the CFG class may take. -/
structure LineEnv where
  fix : Nat
  rate : Nat
  echoTx : Nat
  echoRx : Nat
  allow : Nat

/-- Bytes of a round at 2.5 Gbit/s, one each 3.2 ns (02 R35). -/
def lineBytes : Nat := 78125

/-- Fleet time, in ns, after a number of fifths of a cycle. -/
def LineEnv.nsAt (e : LineEnv) (t : Nat) : Nat := (e.fix + t * e.rate / 5) / 2 ^ 32

/-- Insert a frame behind every waiting frame of its class and of a higher class (02 R42). -/
def insertFrame (f : Frame) : List Frame → List Frame
  | [] => [f]
  | g :: t => if f.body.cls.rank < g.body.cls.rank then f :: g :: t else g :: insertFrame f t

/-- The count of CFG bytes passes into another round: each round takes its allowance off it (02 R47; log entry 145). -/
def LineSt.newRound (allow r : Nat) (l : LineSt) : LineSt :=
  if l.cfgRound = r then l else { l with cfgRound := r, cfgUsed := l.cfgUsed - allow * (r - l.cfgRound) }

/-- A CFG frame may start while the round's allowance holds it, or at a round's first one (log entry 145). -/
def LineSt.mayStart (allow : Nat) (l : LineSt) (f : Frame) : Bool :=
  f.body.cls != .cfg || l.cfgUsed == 0 || decide (l.cfgUsed + f.size ≤ allow)

/-- The frame that starts at a frame boundary: the first waiting one; where that is a CFG frame that the shaping holds back, the first DATA
frame. -/
def LineSt.pick (allow : Nat) (l : LineSt) : Option Frame :=
  match l.waiting with
  | [] => none
  | f :: t => if l.mayStart allow f then some f else t.find? fun g => g.body.cls == .data

/-- A frame starts: SOF, with its transmit time and the echo times inserted (02 R38, R60). -/
def LineSt.start (e : LineEnv) (t : Nat) (f : Frame) (l : LineSt) : LineSt :=
  let tx := e.nsAt t
  let bytes := if f.cut then f.head tx e.echoTx e.echoRx else f.bytes tx e.echoTx e.echoRx
  { l with waiting := l.waiting.erase f, current := some ⟨f.body.cls, bytes, 0, f.cut⟩, line := l.line ++ [.sof],
           cfgUsed := if f.body.cls = .cfg then l.cfgUsed + f.size else l.cfgUsed }

/-- k more bytes of a frame. -/
def Sending.next (x : Sending) (k : Nat) : List LineSym := ((x.bytes.drop x.sent).take k).map .data

/-- Bytes up to the next 64-byte boundary, counted from SOF (02 R42). -/
def Sending.toBoundary (x : Sending) : Nat := if x.sent % 64 = 0 && x.sent != 0 then 0 else 64 - x.sent % 64

/-- The next thing that the transmitter does in the fifths of a cycle that are left of a span; the flag says whether it may do more. A code group
takes 6 of them. -/
def LineSt.act (e : LineEnv) (span left : Nat) (l : LineSt) : LineSt × Nat × Bool :=
  let urgentWaits := match l.waiting with | f :: _ => f.body.cls.urgent | [] => false
  let t := span - left
  match l.current with
  | some x =>
    let n := x.bytes.length - x.sent
    let stop := !x.cls.urgent && urgentWaits && decide (x.toBoundary < n)
    let k := if stop then x.toBoundary else n
    let cost := 6 * (k + (if stop then 1 else 3))
    if cost ≤ left then
      if stop then
        ({ l with current := none, held := some { x with sent := x.sent + k }, line := l.line ++ x.next k ++ [.suspend] }, left - cost, true)
      else ({ l with current := none, line := l.line ++ x.next k ++ [if x.cut then .abort else .eof, .idle] }, left - cost, true)
    else
      let j := min k (left / 6)
      ({ l with current := some { x with sent := x.sent + j }, line := l.line ++ x.next j }, left - 6 * j, false)
  | none =>
    if left < 6 then (l, if l.waiting.isEmpty && l.held.isNone then 0 else left, false)
    else
      match (if urgentWaits then none else l.held) with
      | some x => ({ l with current := some x, held := none, line := l.line ++ [.resume] }, left - 6, true)
      | none =>
        let r := e.nsAt t / Config.roundNs
        let l := l.newRound e.allow r
        match l.pick e.allow with
        | some f => (l.start e t f, left - 6, true)
        | none =>
          if l.waiting.isEmpty then (l, 0, false)
          else
            let wait := ceilDiv (((r + 1) * Config.roundNs * 2 ^ 32 - e.fix) * 5) e.rate - t
            if 0 < wait && wait < left then (l, left - wait, true) else (l, 0, false)

/-- The transmitter over a span, in at most so many things done. -/
def LineSt.run (e : LineEnv) (span : Nat) : Nat → Nat → LineSt → LineSt
  | 0, left, l => { l with credit := left }
  | n + 1, left, l =>
    match l.act e span left with
    | (l', left', true) => l'.run e span n left'
    | (l', left', false) => { l' with credit := left' }

/-- The transmitter over k cycles. Each waiting frame starts and ends once, is suspended once at the most, and waits for 3 rounds at the most. -/
def LineSt.cycles (e : LineEnv) (k : Nat) (l : LineSt) : LineSt :=
  l.run e (5 * k) (8 * l.waiting.length + 8) (l.credit + 5 * k)

/-- Frames in progress are ended with ABORT, and those waiting are dropped (02 R49). -/
def LineSt.stop (l : LineSt) : LineSt :=
  { l with waiting := [], current := none, held := none, credit := 0,
           line := if l.current.isSome || l.held.isSome then l.line ++ [.abort] else l.line }

end Sys2Proof.Machine
end

