-- ==== Sys2Proof/Machine/Ops.lean ====
section
/-! DEFINITION. The operations that every block shares: time, events and their journal records, interrupts, the shared
window's memory and pages, freezing, the take-up and completion of host work, frames handed to a Regatta port. -/
namespace Sys2Proof.Machine

/-! ### Block updates -/

def State.modClk (f : Clk → Clk) (s : State) : State := { s with clk := f s.clk }
def State.modPwr (f : Pwr → Pwr) (s : State) : State := { s with pwr := f s.pwr }
def State.modEv (f : EvRegs → EvRegs) (s : State) : State := { s with ev := f s.ev }
def State.modIrq (v : IrqVec) (f : Irq → Irq) (s : State) : State := { s with irq := vmod s.irq v f }
def State.modRing (r : Ring) (f : RingSt → RingSt) (s : State) : State := { s with ring := vmod s.ring r f }
def State.modRingF (n : Fn) (f : RingFn → RingFn) (s : State) : State := { s with ringF := vmod s.ringF n f }
def State.modDlv (f : Dlv → Dlv) (s : State) : State := { s with dlv := f s.dlv }
def State.modWin (f : Win → Win) (s : State) : State := { s with win := f s.win }
def State.modSram (g : CoreGroup) (f : List (Nat × Byte) → List (Nat × Byte)) (s : State) : State :=
  { s with sram := vmod s.sram g.idx f }
def State.modFrz (f : Frz → Frz) (s : State) : State := { s with frz := f s.frz }
def State.modDia (f : Dia → Dia) (s : State) : State := { s with dia := f s.dia }
def State.modGlb (f : Glb → Glb) (s : State) : State := { s with glb := f s.glb }
def State.modTun (f : Tunnel → Tunnel) (s : State) : State := { s with tun := f s.tun }
def State.modHost (f : HostOut → HostOut) (s : State) : State := { s with hostOut := f s.hostOut }
def State.modRgt (f : Rgt → Rgt) (s : State) : State := { s with rgt := f s.rgt }
def State.modPort (p : Port) (f : PortSt → PortSt) (s : State) : State :=
  { s with rgt := { s.rgt with port := vmod s.rgt.port p f } }
def State.modLine (p : Port) (f : LineSt → LineSt) (s : State) : State := { s with line := vmod s.line p f }
def State.modAlc (f : Alc → Alc) (s : State) : State := { s with alc := f s.alc }
def State.modChild (p : Port) (f : ChildSt → ChildSt) (s : State) : State :=
  { s with alc := { s.alc with child := vmod s.alc.child p f } }
def State.modCfg (f : Cfg → Cfg) (s : State) : State := { s with cfg := f s.cfg }
def State.modJn (o : Outlet) (f : JnSt → JnSt) (s : State) : State := { s with jn := vmod s.jn o f }
def State.modPwm (f : Pwm → Pwm) (s : State) : State := { s with pwm := f s.pwm }
def State.modCh (n : Phase) (f : PwmCh → PwmCh) (s : State) : State :=
  { s with pwm := { s.pwm with ch := vmod s.pwm.ch n f } }
def State.modAux (a : Aux) (f : AuxCh → AuxCh) (s : State) : State :=
  { s with pwm := { s.pwm with aux := vmod s.pwm.aux a f } }
def State.modReg (f : Reg → Reg) (s : State) : State := { s with reg := f s.reg }
def State.modRegCh (n : Phase) (f : RegCh → RegCh) (s : State) : State :=
  { s with reg := { s.reg with ch := vmod s.reg.ch n f } }
def State.modStart (o : Outlet) (f : StartM → StartM) (s : State) : State :=
  { s with reg := { s.reg with start := vmod s.reg.start o f } }
def State.modOut (o : Outlet) (f : OutSt → OutSt) (s : State) : State := { s with out := vmod s.out o f }
def State.modMtx (f : Mtx → Mtx) (s : State) : State := { s with mtx := f s.mtx }
def State.modVcl (f : Vcl → Vcl) (s : State) : State := { s with vcl := f s.vcl }
def State.modVclCh (o : Outlet) (f : VclSt → VclSt) (s : State) : State :=
  { s with vcl := { s.vcl with ch := vmod s.vcl.ch o f } }
def State.modThm (f : Thm → Thm) (s : State) : State := { s with thm := f s.thm }
def State.modSaf (f : Saf → Saf) (s : State) : State := { s with saf := f s.saf }
def State.modLne (f : Lne → Lne) (s : State) : State := { s with lne := f s.lne }
def State.modMet (f : Met → Met) (s : State) : State := { s with met := f s.met }
def State.modBil (f : Bil → Bil) (s : State) : State := { s with bil := f s.bil }
def State.modBat (f : Bat → Bat) (s : State) : State := { s with bat := f s.bat }
def State.modKey (f : Key → Key) (s : State) : State := { s with key := f s.key }
def State.modLcs (f : Lcs → Lcs) (s : State) : State := { s with lcs := f s.lcs }

/-- Do something for every instance, in index order. -/
def State.forAll {n : Nat} (f : Fin n → State → State) (s : State) : State :=
  (List.finRange n).foldl (fun t i => f i t) s

/-- Do something where a condition holds. -/
def State.cond (c : Bool) (f : State → State) (s : State) : State := if c then f s else s

/-- A free value is taken: the next one will be another (log entry 4). -/
def State.useFree (s : State) : State := { s with free := s.free + 1 }

/-! ### Power -/

/-- Main supply: RUN or IDLE. -/
def State.supplied (s : State) : Bool := s.pwr.mode == .run || s.pwr.mode == .idle

/-- What happens with the main supply present; in HOLD and SHIP nothing does (20 R475). -/
def State.live (s : State) (f : State → State) : Host.Outcome State Fault Refusal := .next (if s.supplied then f s else s)

/-- AUXPWR is on: in RUN and IDLE, and in HOLD from 500 µs before MOD_CLK starts until it stops; off and held low between bursts and in
SHIP (23 R519). -/
def State.auxPower (s : State) : Bool :=
  match s.pwr.mode with
  | .run | .idle => true
  | .hold => s.pwr.burst != .off
  | .ship => false

/-- MOD_CLK runs: with the main supply, and in the second step of a burst (12 R307). -/
def State.modClock (s : State) : Bool := s.supplied || (s.pwr.mode == .hold && s.pwr.burst == .clocked)

/-! ### Time -/

/-- Fleet time in ns (00 R4). -/
def State.now (s : State) : Nat := s.clk.fleetFix / 2 ^ 32

/-- What the transmitter of a port needs to know while time passes. -/
def State.lineEnv (s : State) (p : Port) : LineEnv :=
  ⟨s.clk.fleetFix, s.clk.rate, (s.rgt.port.get p).echoTx, (s.rgt.port.get p).echoRx, lineBytes * s.rgt.cfgShape.toNat / 100⟩

/-- k CLK_SYS cycles pass: the cycle count and the fleet-time counter, by its rate word, advance (02, "Fleet time"), and the Regatta ports
transmit (02 R36, R42). -/
def State.runCycles (k : Nat) (s : State) : State :=
  { s with clk := { s.clk with cycle := s.clk.cycle + k, fleetFix := s.clk.fleetFix + k * s.clk.rate },
           line := if k = 0 then s.line else Vector.ofFn fun p => (s.line.get p).cycles (s.lineEnv p) k }

/-- Time runs up to a cycle that lies ahead; a cycle that has passed changes nothing (log entry 7). -/
def State.runTo (due : Nat) (s : State) : State := s.runCycles (due - s.clk.cycle)

/-- Time runs up to a fleet time that lies ahead (log entry 7). -/
def State.runToFleet (t : Nat) (s : State) : State :=
  s.runCycles (ceilDiv (t * 2 ^ 32 - s.clk.fleetFix) s.clk.rate)

/-- Time runs up to an offset in ns into the round in progress, or into the next one where it has passed (00 R5). -/
def State.runToOffset (off : Nat) (s : State) : State :=
  let t := s.now / Config.roundNs * Config.roundNs + off
  s.runToFleet (if s.now ≤ t then t else t + Config.roundNs)

/-- Cycles of a duration in µs, ms and s. -/
def us (n : Nat) : Nat := n * Config.cyclesPerUs
def ms (n : Nat) : Nat := us (n * 1000)
def sec (n : Nat) : Nat := ms (n * 1000)

/-- The round in progress and its start (00 R5). -/
def State.round (s : State) : Nat := s.now / Config.roundNs
def State.roundStart (s : State) : Nat := s.round * Config.roundNs

/-- What the real-time clock reads, in units of 2^-32 ns: the value set at the last second, counted on by the crystal, within 30 ppm and one
crystal edge of 30,517.578125 ns (20 R464, R465). The place within that bound is a free value (log entry 4). -/
def State.rtcReading (s : State) : Nat :=
  let base := if s.pwr.mode = .hold then s.clk.rtcFix else s.now / Config.secondNs * Config.secondNs * 2 ^ 32
  let b := (s.clk.fleetFix - base) * 30 / 1000000 + 30518 * 2 ^ 32
  s.clk.fleetFix + Config.freeNat s.free % (2 * b + 1) - b

/-- Time in taps of 208.3 ps since the cold reset: 64 taps in 5 cycles (05, "Time base"). -/
def State.taps (s : State) : Nat := s.clk.cycle * 64 / 5

/-- The first cycle at or after a time in taps. -/
def cycleOfTaps (t : Nat) : Nat := ceilDiv (t * 5) 64

/-! ### Variants (00 R1, R2) -/

def State.hasOutlet (s : State) (o : Outlet) : Bool := o.val < s.glb.variant.outlets
def State.hasPhase (s : State) (n : Phase) : Bool := n.val < s.glb.variant.phases
def State.hasLane (s : State) (n : MLane) : Bool := n.val < 2 * s.glb.variant.outlets || 16 ≤ n.val

/-- The outlets entry of a fitted outlet that the variant has (07 R173). -/
def State.outCfg (s : State) (o : Outlet) : Option OutletCfg :=
  if s.hasOutlet o then s.cfg.active.outlets.get o else none

/-- The phases entry of a fitted phase that the variant has (06 R147). -/
def State.phaseCfg (s : State) (n : Phase) : Option PhaseCfg :=
  if s.hasPhase n then s.cfg.active.phases.get n else none

/-! ### Interrupts (15 R388, R389) -/

/-- The vector's message leaves, or its pending bit is set while it is masked; u is cleared. -/
def State.sendMsi (v : IrqVec) (s : State) : State :=
  if (s.irq.get v).masked then
    s.modIrq v fun q => { q with u := 0, timer := none, pendingBit := true }
  else
    (s.modIrq v fun q => { q with u := 0, timer := none }).modHost fun h => { h with msix := h.msix ++ [v] }

/-- One more completion or event on a vector. -/
def State.irqItem (v : IrqVec) (atOnce : Bool) (s : State) : State :=
  let q := s.irq.get v
  let u := clampU 16 (q.u.toNat + 1)
  let s' := s.modIrq v fun q => { q with u := u, timer := q.timer <|> some s.clk.cycle }
  if atOnce || q.time = 0 || max 1 q.count.toNat ≤ u.toNat then s'.sendMsi v else s'

/-! ### Events and the event journal (21 R484-R487) -/

def State.evGet (s : State) : EvSrc → EvReg
  | .clk => s.ev.clk | .pwr => s.ev.pwr | .ring f => s.ev.ring.get f | .frz => s.ev.frz | .alc => s.ev.alc
  | .cfg => s.ev.cfg | .pwm n => s.ev.pwm.get n | .reg n => s.ev.reg.get n | .out o => s.ev.out.get o
  | .vcl o => s.ev.vcl.get o | .thm => s.ev.thm | .saf => s.ev.saf | .lne => s.ev.lne | .met => s.ev.met
  | .bil => s.ev.bil | .bat => s.ev.bat | .key => s.ev.key | .lcs => s.ev.lcs | .dia => s.ev.dia

def EvRegs.set (e : EvRegs) (v : EvReg) : EvSrc → EvRegs
  | .clk => { e with clk := v } | .pwr => { e with pwr := v } | .ring f => { e with ring := vmod e.ring f fun _ => v }
  | .frz => { e with frz := v } | .alc => { e with alc := v } | .cfg => { e with cfg := v }
  | .pwm n => { e with pwm := vmod e.pwm n fun _ => v } | .reg n => { e with reg := vmod e.reg n fun _ => v }
  | .out o => { e with out := vmod e.out o fun _ => v } | .vcl o => { e with vcl := vmod e.vcl o fun _ => v }
  | .thm => { e with thm := v } | .saf => { e with saf := v } | .lne => { e with lne := v }
  | .met => { e with met := v } | .bil => { e with bil := v } | .bat => { e with bat := v }
  | .key => { e with key := v } | .lcs => { e with lcs := v } | .dia => { e with dia := v }

def State.evSet (e : EvSrc) (v : EvReg) (s : State) : State := s.modEv fun r => r.set v e

/-- Records of the SAF, KEY and LCS blocks are never suppressed (21 R486). -/
def neverSuppressed (block : Nat) : Bool := block == 14 || block == 19 || block == 20

/-- A record reaches the journal, or the queue of 09 R232 while MRAM writes are forbidden. -/
def State.storeRec (r : JRec) (s : State) : State :=
  if s.thm.mramBlocked then
    if s.dia.waiting.length < 512 then s.modDia fun d => { d with waiting := d.waiting ++ [{ r with flags := r.flags ||| 2 }] }
    else s.modThm fun t => { t with cntJournalDrop := satInc t.cntJournalDrop }
  else s.modDia fun d =>
    { d with journal := (r :: d.journal).take 65536, wrapped := d.wrapped || decide (65536 ≤ d.journal.length) }

/-- One occurrence is journaled, or suppressed within 100 ms of a record of the same key (21 R485, R486). -/
def State.journal (block code subject a b origin : Nat) (s : State) : State :=
  let same : JKey → Bool := fun k => k.block == block && k.code == code && k.subject == subject
  let old := s.dia.keys.find? same
  match old with
  | some k =>
    if !neverSuppressed block && s.now < k.last + 100000000 then
      s.modDia fun d =>
        { d with keys := { k with suppressed := min 65535 (k.suppressed + 1) } :: d.keys.filter (fun x => !same x),
                 cntSuppressed := satInc d.cntSuppressed }
    else
      (s.modDia fun d =>
        { d with keys := ⟨block, code, subject, s.now, 0⟩ :: d.keys.filter (fun x => !same x), next := d.next + 1 }).storeRec
        ⟨s.dia.next, s.now, block, code, origin,
          (if s.bil.errNoTime then 1 else 0) + (if s.pwr.mode = .hold then 4 else 0), subject, k.suppressed, a, b⟩
  | none =>
    (s.modDia fun d => { d with keys := ⟨block, code, subject, s.now, 0⟩ :: d.keys, next := d.next + 1 }).storeRec
      ⟨s.dia.next, s.now, block, code, origin,
        (if s.bil.errNoTime then 1 else 0) + (if s.pwr.mode = .hold then 4 else 0), subject, 0, a, b⟩

/-- An event bit is set: the flag, its record, and the block's vector when it is enabled (21 R486; 15 R388). -/
def State.raise (e : EvSrc) (b : Nat) (s : State) : State :=
  let r := s.evGet e
  let s' := (s.evSet e { r with flags := r.flags ||| bit 32 b }).journal e.block b e.subject 0 0 e.origin
  if r.en.getLsbD b then s'.irqItem e.vec false else s'

/-- As `raise`, where the code has a subject and values of its own (21 R484: 'as the code gives'). -/
def State.raiseAt (e : EvSrc) (b subject a v : Nat) (s : State) : State :=
  let r := s.evGet e
  let s' := (s.evSet e { r with flags := r.flags ||| bit 32 b }).journal e.block b subject a v e.origin
  if r.en.getLsbD b then s'.irqItem e.vec false else s'

/-! ### Sparse stores in canonical form -/

/-- What a sparse store holds at a key; `d` where it lists nothing. -/
def sparseGet {α : Type} (d : α) : List (Nat × α) → Nat → α
  | [], _ => d
  | (k', v) :: t, k => if k = k' then v else sparseGet d t k

/-- Store a value and keep the form: keys strictly rising, no entry equal to the default. -/
def sparsePut {α : Type} [DecidableEq α] (d : α) : List (Nat × α) → Nat → α → List (Nat × α)
  | [], k, v => if v = d then [] else [(k, v)]
  | (k', v') :: t, k, v =>
    if k < k' then (if v = d then (k', v') :: t else (k, v) :: (k', v') :: t)
    else if k = k' then (if v = d then t else (k, v) :: t)
    else (k', v') :: sparsePut d t k v

/-- The canonical form. -/
def sparseWf {α : Type} [DecidableEq α] (d : α) : List (Nat × α) → Bool
  | [] => true
  | (k, v) :: t => decide (v ≠ d) && (match t with | [] => true | (k', _) :: _ => decide (k < k')) && sparseWf d t

/-! ### The shared window (16 R394-R400) -/

/-- Canonical form of the window's memory. -/
abbrev Memory.wf (m : List (Nat × Byte)) : Prop := sparseWf (0 : Byte) m = true

/-- Read and write a byte of the window; an unlisted byte reads 0 (16 R400). -/
def State.memRead (s : State) (a : Nat) : Byte := sparseGet 0 s.win.mem a
def State.memWrite (a : Nat) (b : Byte) (s : State) : State := s.modWin fun w => { w with mem := sparsePut 0 w.mem a b }

/-- Write bytes at rising addresses. -/
def State.memWriteList : Nat → List Byte → State → State
  | _, [], s => s
  | a, b :: t, s => (s.memWrite a b).memWriteList (a + 1) t

/-- Read n bytes, and a little-endian word (00 R7). -/
def State.memReadList (s : State) (a n : Nat) : List Byte := (List.range n).map fun i => s.memRead (a + i)
def State.memRead32 (s : State) (a : Nat) : Word :=
  s.memRead (a + 3) ++ s.memRead (a + 2) ++ s.memRead (a + 1) ++ s.memRead a

/-- Write bytes at rising addresses of a private SRAM region (01 R13, R14). -/
def State.sramWrite (g : CoreGroup) (a : Nat) (bytes : List Byte) (s : State) : State :=
  s.modSram g fun m => (bytes.zip (List.range bytes.length)).foldl (fun m x => sparsePut 0 m (a + x.2) x.1) m

/-- The private SRAM of a core group that a reset reaches is cleared (20 R471). -/
def State.sramClear (g : CoreGroup) (s : State) : State := s.modSram g fun _ => []
def State.sramCopy (src dst : CoreGroup) (s : State) : State := s.modSram dst fun _ => s.sram.get src.idx

def State.page (s : State) (p : Nat) : Page := sparseGet .cold s.win.pages p
def State.setPage (p : Nat) (g : Page) (s : State) : State := s.modWin fun w => { w with pages := sparsePut .cold w.pages p g }

/-- The function whose range holds a page (16 R394). -/
def Win.rangeOf (w : Win) (p : Nat) : Fn :=
  if p < w.pf1First.toNat then 0 else if p < w.pf2First.toNat then 1 else 2

/-- The page passes to a new owner; its generation grows by 1 modulo 2^14 (16 R397, R398, R399). -/
def State.passPage (owner : PageOwner) (agent : BitVec 2) (p : Nat) (s : State) : State :=
  let g := s.page p
  s.setPage p ⟨owner, g.gen + 1, agent⟩

def State.passPages (owner : PageOwner) (agent : BitVec 2) (ps : List (Fin 4096)) (s : State) : State :=
  ps.foldl (fun t p => t.passPage owner agent p.val) s

/-- Whether the ownership table lets a master read or write a page (16 R395). -/
def State.mayAccess (s : State) (m : Master) (p : Nat) : Bool :=
  let g := s.page p
  match g.owner, m with
  | .host, .pf f => s.win.rangeOf p == f
  | .device, .lane => g.agent == 1
  | .device, .app _ => g.agent == 2
  | .device, .dma _ => g.agent == 2
  | .device, .mgmt => g.agent == 3
  | .legal, .legal => true
  | _, _ => false

/-- Page number of a page reference (16 R396). -/
def pageOf (ref : Word) : Fin 4096 := Fin.ofNat 4096 (ref.toNat % 4096)
def genOf (ref : Word) : BitVec 14 := bitsOf ref 12 14

/-- The first `n` references that a list page holds (16 R396). -/
def State.listRefs (s : State) (listRef : Word) (n : Nat) : List Word :=
  (List.range n).map fun i => s.memRead32 ((pageOf listRef).val * 4096 + 4 * i)

/-- Bytes of the pages of a list, in order. -/
def State.readPages (s : State) (refs : List Word) : List Byte := refs.flatMap fun x => s.memReadList ((pageOf x).val * 4096) 4096

/-- Write bytes into the pages a list names, in order (16 R396). -/
def State.writePages (refs : List Word) (bytes : List Byte) (s : State) : State :=
  (refs.zip (List.range refs.length)).foldl
    (fun t rk => t.memWriteList ((pageOf rk.1).val * 4096) ((bytes.drop (rk.2 * 4096)).take 4096)) s

/-! ### Freezing (16 R401-R404) -/

def State.frozen (s : State) (m : Master) : Bool :=
  match m.code with | some c => (s.frz.m.get c).frozen | none => false

/-- A as the shadow shows it: the first slot still committing, else the next to be decided (15 R369). -/
def RingSt.a (r : RingSt) : Word :=
  match r.committing with | [] => r.fetch | c :: _ => c.slot

/-- The ring's shadow record is written (15 R371). No write of a HELD ring, or without bus mastering, reaches host memory (R530). -/
def State.writeShadow (r : Ring) (s : State) : State :=
  let q := s.ring.get r
  if q.st = .held || !(s.ringF.get (ringFn r)).busMaster then s
  else (s.modRing r fun q => { q with updates := q.updates + 1 }).modHost fun h =>
    { h with writes := h.writes ++ [.shadow r q.a q.q q.exp s.now q.st q.outstanding q.updates] }

/-- Freeze a master that can be frozen: token, place and time of the breach, event; a function's rings show FROZEN and
each shadow record is written once (16 R402, R403). Only a master of R401 can be frozen. -/
def State.freeze (m : Master) (cause : Nat) (place : Word) (s : State) : State :=
  match m.code with
  | none => s
  | some c =>
    let num := s.frz.number + 1
    let s1 := s.modFrz fun z =>
      { z with number := num, cntBreach := satInc z.cntBreach,
               m := vmod z.m c fun x =>
                 { x with frozen := true, token := BitVec.ofNat 32 (num * 65536 + cause * 256 + c.val), wher := place,
                          time := BitVec.ofNat 64 s.now } }
    let s2 := match m with
      | .pf f => s1.forAll fun (r : Ring) t =>
          if ringFn r = f then (t.modRing r fun q => { q with st := .frozen }).writeShadow r else t
      | _ => s1
    s2.raiseAt .frz 0 c.val cause place.toNat

/-- A transaction of a frozen master is dropped and counted (16 R402). -/
def State.dropFrozen (m : Master) (s : State) : State :=
  match m.code with
  | none => s
  | some c => s.modFrz fun z => { z with m := vmod z.m c fun x => { x with dropped := satInc x.dropped } }

/-! ### The fabric (01 R15, R16) -/

/-- The master of a command that is a fabric access; none for every other command. -/
def masterOf : Instr → Option Master
  | .demandWrite m _ _ _ _ | .portEnWrite m _ _ | .pwmShadowWrite m _ _ _ | .pwmCommit m _ _ | .pwmGroupCommit m _
  | .pwmStart m _ | .pwmCtrlWrite m _ _ | .pwmDtMinWrite m _ | .pwmAuxCommit m _ _ | .pwmAuxCtrlWrite m _ _
  | .regApplyArm m _ | .regCtrlWrite m _ _ | .vclSessionNextRead m | .ringDbSq m _ _ | .ringDbCq m _ _
  | .ringCtrlWrite m _ _ | .windowAccess m _ _ _ _ | .winPartWrite m _ | .frzReleaseWrite m _ | .loWordRead m _
  | .lcsPortAuthWrite m _ _ | .unmappedAccess m _ _ | .registerWrite m _ _ => some m
  | .winOwnRead f => some (.pf f)
  | _ => none

/-- The owner that the beat of cycle k goes to: that of its slot, or the next in wheel order with a request pending. -/
def grantee (k : Nat) (pending : Owner → Bool) : Option Owner :=
  ((List.range 16).map fun i => wheel (Fin.ofNat 16 (k + i))).find? pending

/-- Beats that pass, from cycle k on, before an owner's request gets its own; each beat takes one of the other requests away. -/
def arbitrate (o : Owner) : Nat → Nat → List Owner → Nat
  | 0, _, _ => 0
  | fuel + 1, k, others =>
    match grantee k fun x => x == o || others.contains x with
    | some x => if x = o then 0 else arbitrate o fuel (k + 1) (others.erase x) + 1
    | none => 0

/-- Owners of the accesses that wait behind the command in progress: their requests are pending too (log entry 136). -/
def State.requests (s : State) : List Owner := (s.pending.filterMap masterOf).map Master.owner

/-- A master's request gets its beat: the cycles up to it pass, and its own. The write acts in that cycle, so that a
hardware event of the same cycle, which the model carries out after the write, is not cleared by it (00 R10, R524; log
entry 136). -/
def State.beat (m : Master) (s : State) : State :=
  s.runCycles (arbitrate m.owner 16 (s.clk.cycle + 1) s.requests + 1)

/-- The beats of an access of n bytes at an address, of 32 bytes each. -/
def beatsOf (addr n : Nat) : Nat := if n = 0 then 1 else (addr + n - 1) / 32 - addr / 32 + 1

/-- Several beats of a master. -/
def State.beats : Nat → Master → State → State
  | 0, _, s => s
  | n + 1, m, s => (s.beat m).beats n m

/-- A master's transaction: dropped while it is frozen (16 R402), carried out at its beat otherwise (01 R16). -/
def State.transact (m : Master) (f : State → State) (s : State) : State :=
  if s.frozen m then s.dropFrozen m else f (s.beat m)

/-- The firewall drops a write of a master outside its rights and records it (01 R14; 21 R487 code 0x41). -/
def State.firewallDrop (m : Master) (addr data : Nat) (s : State) : State :=
  s.journal 0 0x41 (m.bank).val addr data 5

/-- A write to a locked setup register: the writing master is frozen with cause 4; a master that cannot be frozen has
its write dropped and recorded (16 R401, R402; 01 R14). -/
def State.lockedWrite (m : Master) (off : Nat) (s : State) : State :=
  match m.code with
  | some _ => s.freeze m 4 (BitVec.ofNat 32 off)
  | none => s.firewallDrop m off 0

/-! ### Planes -/

def State.planeReady (s : State) : Plane → Bool
  | .control => s.pwr.controlReady
  | .data => s.pwr.dataReady
  | .mgmt => s.pwr.mgmtReady

/-- The plane that carries the work of a function out (17 R418). -/
def planeOfFn (f : Fn) : Plane := if f = 0 then .control else if f = 1 then .data else .mgmt

def State.carrierReady (s : State) (r : Ring) (d : Desc) : Bool :=
  if d.isLegal then s.bil.legalUp else s.planeReady (planeOfFn (ringFn r))

/-! ### Journal slots and completions (15 R377-R385; 17 R409-R413) -/

/-- Journal writes are forbidden by temperature or by a journal fault (09 R232; 17 R413). -/
def State.journalClosed (s : State) : Bool := s.thm.mramBlocked || s.dlv.fault

def State.slot? (s : State) (r : Ring) (seq : DWord) : Option JSlot := (s.dlv.slots.get r).find? fun j => j.seq == seq

def State.modSlot (r : Ring) (seq : DWord) (f : JSlot → JSlot) (s : State) : State :=
  s.modDlv fun v => { v with slots := vmod v.slots r fun l => l.map fun j => if j.seq = seq then f j else j }

/-- Fleet time at which a descriptor was accepted. -/
def State.acceptedAt (s : State) (r : Ring) (seq : DWord) : Nat := match s.slot? r seq with | some j => j.accepted | none => s.now

/-- Whether the slot of a descriptor is work that may be taken up now: it is accepted or handed over (for DC3 handed),
has not been taken up, everything before it in its ring has been, and its carrier is ready (15 R377, R378; 17 R410,
R420). -/
def State.due (s : State) (r : Ring) (d : Desc) : Bool :=
  match s.slot? r d.seq with
  | none => false
  | some j =>
    decide (j.desc = d) && !j.tookUp && j.comp.isNone &&
    (j.st == .handed || (j.st == .accepted && d.cls != 3)) &&
    (s.dlv.slots.get r).all (fun x => decide (d.seq.toNat ≤ x.seq.toNat) || x.tookUp || x.comp.isSome) &&
    s.carrierReady r d

/-- The work is handed over and taken up (17 R410 HANDED; 15 R377). -/
def State.takeUp (r : Ring) (d : Desc) (s : State) : State :=
  s.modSlot r d.seq fun j => { j with st := .handed, tookUp := true }

/-- The effect of an accepted descriptor at its take-up; nothing where it is not due, so that accepted work acts once
(17 R418, R424). -/
def State.work (r : Ring) (d : Desc) (f : State → State) (s : State) : State :=
  if s.due r d then f (s.takeUp r d) else s

/-- The completion of an accepted descriptor is formed with its fleet time of effect. The slot becomes COMPLETED, or
keeps its state while journal writes are forbidden (17 R410; 09 R232). -/
def State.completeAt (r : Ring) (seq : DWord) (detail : Half) (result : Word) (effect : Nat) (s : State) : State :=
  s.modSlot r seq fun j =>
    if j.comp.isSome then j
    else { j with comp := some ⟨seq, .done, false, detail, result, BitVec.ofNat 64 effect, j.jpos⟩, tookUp := true,
                  st := if s.journalClosed then .handed else .completed }

def State.complete (r : Ring) (seq : DWord) (detail : Half) (result : Word) (s : State) : State :=
  s.completeAt r seq detail result s.now

/-! ### Frames handed to a port (02 R38-R43) -/

/-- The source sequence of a new frame (02 R40): fleet time in units of 16 ns, or, where frames have carried that value already, the last
value plus 1. Values that only such frames have reached lie less than 256 units ahead of fleet time (log entry 146). -/
def State.nextSeq (s : State) : Word :=
  let t := BitVec.ofNat 32 (s.now / 16)
  if (s.rgt.lastSeq - t).toNat < 256 then s.rgt.lastSeq + 1 else t

/-- A frame waits at a port (02 R42). -/
def State.handOver (p : Port) (f : Frame) (s : State) : State := s.modLine p fun l => { l with waiting := insertFrame f l.waiting }

/-- A frame of this controller is handed to a port. -/
def State.sendFrame (p : Port) (dest : Option (CtrlId × BitVec 4)) (hopLimit : Byte) (hopLocal : Bool)
    (body : Payload) (s : State) : State :=
  let q := s.nextSeq
  (s.modRgt fun g => { g with lastSeq := q }).handOver p ⟨s.rgt.id, s.rgt.crew, dest, q, 0, hopLimit, hopLocal, body, false⟩

/-- The classes that a port of a role carries (02 R50). -/
def PortRole.carries : PortRole → RgtClass → Bool
  | .parent, _ => true
  | .child, _ => true
  | .alternate, c => c != .alloc
  | .none, c => c != .alloc
  | .guest, c => c == .cfg
  | .foreign, c => c == .cfg || c == .data
  | .outside, c => c == .cfg

/-- An ACTIVE port carries a class; without `ALLOC_OK` only CFG and DATA beside PROBE (02 R50, R68). -/
def PortSt.carries (t : PortSt) (c : RgtClass) : Bool :=
  t.st == .active && t.role.carries c && (t.allocOk || c == .cfg || c == .data)

/-- A message in segments to a controller through a port (02 R56). -/
def State.sendMessage (p : Port) (dest : Option (CtrlId × BitVec 4)) (body : CfgBody) (s : State) : State :=
  (segmentsOf body.kind s.rgt.nextMsg body.bytes).foldl (fun t x => t.sendFrame p dest 32 false x)
    (s.modRgt fun g => { g with nextMsg := g.nextMsg + 1 })

/-- The port and validity that `RGT_ROUTE` gives for a controller (02 R68). -/
def State.routeTo (s : State) (c : CtrlId) : Option Port :=
  let w := s.rgt.route.get ⟨c.toNat / 8, by have := c.isLt; omega⟩
  let nib : BitVec 4 := bitsOf w (4 * (c.toNat % 8)) 4
  if nib.getLsbD 3 then some ⟨(bitsOf nib 0 2).toNat, (bitsOf nib 0 2).isLt⟩ else none

/-- The port toward a controller for CFG frames: for a guest the GUEST port on which it was seen, otherwise its route (02 R43, R57). -/
def State.cfgPort (s : State) (c : CtrlId) : Option Port :=
  match s.rgt.guests.find? fun g => g.1 == c with | some g => some g.2 | none => s.routeTo c

/-- A CFG message to a controller, through a port that carries the class (02 R43, R50). -/
def State.sendCfg (dest : CtrlId × BitVec 4) (body : CfgBody) (s : State) : State :=
  match s.cfgPort dest.1 with
  | some p => if (s.rgt.port.get p).carries .cfg then s.sendMessage p (some dest) body else s
  | none => s

/-- The pair in force (04 R101, R117). -/
def State.ownPair (s : State) : Pair := s.cfg.active.pair

end Sys2Proof.Machine
end

