-- ==== Sys2Proof/Machine/Operands.lean ====
section
/-! DEFINITION. The operand forms that several blocks read: register fields, guarded register writes, stage groups, limits,
voltages, and the codes of the current loops. -/
namespace Sys2Proof

/-- An integrator-partition core. -/
def Master.isInteg : Master → Bool | .integ _ => true | _ => false

/-- PF2 and the management core (02 R67; 04 R121). -/
def Master.isMgmt (m : Master) : Bool := m == .pf 2 || m == .mgmt

end Sys2Proof

namespace Sys2Proof.Machine

/-! ### Register writes -/

/-- A write to a plane's block while the plane is in reset or not yet ready is counted (22 R502). -/
def State.countResetDrop (m : Master) (s : State) : State :=
  s.modGlb fun g => { g with bank := vmod g.bank m.bank fun b => { b with cntResetDrop := satInc b.cntResetDrop } }

/-- The cause of a breach by an integrator core: 5 for a snapshot buffer or the live record, 4 elsewhere (22 R498). -/
def integCause (off : Nat) : Nat := if 0x51000 ≤ off && off < 0x51C00 then 5 else 4

/-- A register write at its beat: ignored for an absent resource (00 R2); dropped without breach and counted while the owning plane is
down (22 R502); a breach when an integrator core makes it (22 R498); carried out where the owning chapter's write-access rule grants it,
and otherwise a write to a locked setup register (16 R402). -/
def State.checkedWrite (m : Master) (up present allowed : Bool) (off : Nat) (f : State → State) (t : State) : State :=
  if !present then t
  else if !up then t.countResetDrop m
  else if m.isInteg then t.freeze m (integCause off) (BitVec.ofNat 32 off)
  else if allowed then f t
  else t.lockedWrite m off

/-- A register write as a transaction of its master: dropped while that is frozen (16 R402), else checked at its beat (01 R16). -/
def State.guardedWrite (m : Master) (up present allowed : Bool) (off : Nat) (f : State → State) (s : State) : State :=
  s.transact m (·.checkedWrite m up present allowed off f)

/-- The masters that the write-access rules of the control-plane blocks name: the driving lane, and PF0 before
configuration lock (05 R144; 06 R171). -/
def State.laneOrPf0 (s : State) (m : Master) : Bool := m == .lane || (m == .pf 0 && !s.lcs.lock)

/-! ### Stage groups (07 R190; 06 R157) -/

/-- A phase is in the outlet's group, not in transit, not retired and not shut down. -/
def State.inGroup (s : State) (o : Outlet) (n : Phase) : Bool :=
  let c := s.reg.ch.get n
  (s.mtx.assigned.get n == some o) && (s.mtx.move.get n).isNone && !c.retired && !c.shutCounted && (s.phaseCfg n).isSome

/-- Lane 2o or 2o + 1 is faulty: the control plane counts the outlet as having m = 0 (12 R297). -/
def State.laneFaulty (s : State) (o : Outlet) : Bool :=
  s.met.laneFault.getLsbD (2 * o.val) || s.met.laneFault.getLsbD (2 * o.val + 1)

/-- A phase counts in m of an outlet. -/
def State.counts (s : State) (o : Outlet) (n : Phase) : Bool := s.inGroup o n && !s.laneFaulty o

/-- m: the number of phases counted. -/
def State.mOf (s : State) (o : Outlet) : Nat := countFin 24 (s.counts o)

/-- The phases counted, lowest first. -/
def State.group (s : State) (o : Outlet) : List Phase := (List.finRange 24).filter (s.counts o)

/-- The outlet whose stage group holds a phase, retired or not. -/
def State.holder (s : State) (n : Phase) : Option Outlet :=
  if (s.mtx.move.get n).isNone then s.mtx.assigned.get n else none

/-- Phases in the outlet's stage group, retired or not: those that the matrix connects to it (00, "Terms"; 01 R28). -/
def State.groupSize (s : State) (o : Outlet) : Nat := countFin 24 fun n => s.holder n == some o && (s.phaseCfg n).isSome

/-- Sum of the current ratings of the phases counted, 0.1 A (07 R182 `rated`). -/
def State.rated (s : State) (o : Outlet) : Nat :=
  sumFin 24 fun n => if s.counts o n then (match s.phaseCfg n with | some c => c.rating | none => 0) else 0

/-- Phases as a bit set. -/
def phaseBits (p : Phase → Bool) : BitVec 24 :=
  (List.finRange 24).foldl (fun w n => if p n then w ||| bit 24 n.val else w) 0

def outletBits (p : Outlet → Bool) : BitVec 8 :=
  (List.finRange 8).foldl (fun w o => if p o then w ||| bit 8 o.val else w) 0

/-! ### Voltages and limits -/

/-- Housekeeping channel value, none while invalid (09 R221). -/
def State.hkVal (s : State) (c : HkChan) : Option Int := s.thm.hk.get c

/-- An outlet's maximum current in a direction, 0.1 A (07 R173). -/
def State.maxCurrent (s : State) (o : Outlet) (exporting : Bool) : Nat :=
  match s.outCfg o with | none => 0 | some c => if exporting then c.maxExpI else c.maxImpI

/-- Feathering current limit: φ / 1,000 of the outlet's maximum current in the direction (09 R226). -/
def State.featherCurrent (s : State) (o : Outlet) (exporting : Bool) : Nat :=
  s.maxCurrent o exporting * (s.thm.phi.get o).toNat / 1000

/-- DC-link voltage in mV: the last valid value of its channel (06 R157). -/
def State.vbus (s : State) : Nat := s.thm.dcLast.toNat

/-- Stage-side voltage for limits: lane 2o in 0.1 V, no less than 500 (07 R182; 01 R526). -/
def State.vStage (s : State) (o : Outlet) : Nat := max 500 (s.out.get o).vs.toNat

/-- Outlet voltage in mV for the codes of 06 R157: no less than 0, no greater than the DC link. -/
def State.vout (s : State) (o : Outlet) : Nat := min ((s.out.get o).vs.toNat * 100) s.vbus

/-! ### The peak-current codes (06 R149, R150, R157) -/

/-- Taps of a period or compare in register layout (05, "Time base"). -/
def tapsOf (x : BitVec 20) : Nat := 16 * (bitsOf x 0 16).toNat + (bitsOf x 16 4).toNat

/-- Register layout of a number of taps. -/
def ofTaps (t : Nat) : BitVec 20 := (BitVec.ofNat 4 (t % 16)) ++ (BitVec.ofNat 16 (t / 16))

/-- code(cur / m) of 06 R157: cur in 0.1 A, voltages in mV, the slope in Q8.8 LSB per µs, the period in taps. -/
def peakCode (c : PhaseCfg) (period slope vbus vout : Nat) (dir : Bool) (cur m : Nat) : BitVec 12 :=
  let von := if dir then vout else vbus - vout
  let voff := if dir then vbus - vout else vout
  if m = 0 || c.ifs = 0 || c.ind = 0 then 0
  else if vbus < 1000 then clampU 12 (min 4095 (roundDiv (cur * 4095) (m * c.ifs)))
  else
    let num := cur * 4095 * 6144000 * vbus * c.ind
      + m * (von * period * voff * 4095 * 64 + slope * period * voff * 5 * c.ind * c.ifs)
    clampU 12 (min 4095 (roundDiv num (m * 6144000 * vbus * c.ind * c.ifs)))

/-- The slope that `SLOPE_AUTO` writes: (k / 256) × v_off / L in Q8.8 LSB per µs (06 R149). -/
def autoSlope (c : PhaseCfg) (k vbus vout : Nat) (dir : Bool) : Half :=
  let voff := if dir then vbus - vout else vout
  if c.ind = 0 || c.ifs = 0 then 0 else clampU 16 (roundDiv (k * voff * 4095) (10 * c.ind * c.ifs))

/-- The effective code: the lesser of the peak command and the clamp in force (06 R150). -/
def RegCh.effective (c : RegCh) : BitVec 12 := if c.peak.toNat ≤ c.inForce.toNat then c.peak else c.inForce

/-- code(cur / m) for a phase in its outlet's present voltages. -/
def State.codeFor (s : State) (o : Outlet) (n : Phase) (cur m : Nat) : BitVec 12 :=
  match s.phaseCfg n with
  | none => 0
  | some c =>
    let r := s.reg.ch.get n
    peakCode c s.cfg.active.hdr.period r.slope.toNat s.vbus (s.vout o) r.dir cur m

/-- code(min(i / m, rating)), the clamp of 06 R157. -/
def State.clampFor (s : State) (o : Outlet) (n : Phase) (cur m : Nat) : BitVec 12 :=
  match s.phaseCfg n with
  | none => 0
  | some c => if c.rating * m ≤ cur then s.codeFor o n c.rating 1 else s.codeFor o n cur m

/-! ### Pads of the safety block (10 R237) -/

/-- The level read back at a GATE_EN pin, and at STO_A (0-3) and STO_B (4-7): the command's, unless something holds the pad. -/
def State.gatePin (s : State) (n : Phase) : Bool := (s.saf.gatePad.get n).getD (s.saf.gateEn.getLsbD n.val)
def State.stoPin (s : State) (i : Fin 8) : Bool := (s.saf.stoPad.get i).getD (s.saf.stoCmd.getLsbD i.val)

/-- The STO readbacks as `SAF_STO_PINS` shows them (10 R270). -/
def State.stoPins (s : State) : Byte := (List.finRange 8).foldl (fun w i => if s.stoPin i then w ||| bit 8 i.val else w) 0

end Sys2Proof.Machine
end

