-- ==== Sys2Proof/Machine/Flags.lean ====
section
/-! DEFINITION. The flag computations that several blocks share: safety sources and what they block, fault and commutation
masks, gate enables, STO pins, the driven pin levels. -/
namespace Sys2Proof.Machine

/-! ### Safe energy off (10 R239, R240) -/

def State.seoGlobal (s : State) : Bool := s.saf.srcGlb != 0
def State.seoOut (s : State) (o : Outlet) : Bool := s.seoGlobal || s.saf.srcOut.get o != 0

/-- Safe energy off blocks a phase: global, or of the outlet in which it counts, or of an outlet between which it moves
(10 R240). -/
def State.blockedPhase (s : State) (n : Phase) : Bool :=
  s.seoGlobal ||
  (List.finRange 8).any fun o =>
    s.seoOut o && (s.inGroup o n ||
      (match s.mtx.move.get n with | some v => v.src == some o || v.dst == o | none => false))

/-- A clock-monitor fault is in force (20 R466, R467). -/
def State.clockFault (s : State) : Bool := s.clk.rootLost || s.clk.drift

/-- A fault source of a phase's PWM channel is asserted (05 R139); a channel that the variant lacks has none (00 R2). Safe energy
off of the outlet counts for the phase of its group whether or not it is retired. -/
def State.faultSource (s : State) (n : Phase) : Bool :=
  s.hasPhase n && (s.blockedPhase n || (match s.holder n with | some o => s.seoOut o | none => false) ||
  (s.reg.ch.get n).retired || (s.reg.ch.get n).shutCounted || s.clockFault || (s.pwm.ch.get n).swFault)

/-- The matrix asserts a phase's commutation signal: it is leaving or changing a stage group (07 R190 step 1). -/
def State.commSignal (s : State) (n : Phase) : Bool :=
  match s.mtx.move.get n with | some v => v.src.isSome && decide (v.step < 5) | none => false

/-! ### Output levels of a phase channel (05 R129, R138-R140) -/

/-- Output levels PWMH and PWML before masks: each follows its level once it has held for the dead time, counted from the
last release of a mask at the earliest (05 R129, R140). -/
def PwmCh.plain (c : PwmCh) (now : Nat) : Bool × Bool :=
  let ok := decide (max c.since c.released + c.active.dt.toNat ≤ now)
  (c.ideal && ok, !c.ideal && ok)

/-- The levels to which a mask code forces PWMH and PWML: an output that it leaves unforced is forced low while the other one is forced
high (05 R138). -/
def maskSet (k : BitVec 4) : Option Bool × Option Bool :=
  (if k.getLsbD 0 then some (k.getLsbD 1) else if k.getLsbD 2 && k.getLsbD 3 then some false else none,
   if k.getLsbD 2 then some (k.getLsbD 3) else if k.getLsbD 0 && k.getLsbD 1 then some false else none)

/-- The levels to which the codes that apply force the outputs: the fault code's setting where it forces an output, the commutation
code's otherwise (05 R139). -/
def PwmCh.forced (c : PwmCh) : Option Bool × Option Bool :=
  let f := if c.faultMasked then maskSet c.active.fault else (none, none)
  let k := if c.commMasked then maskSet c.active.comm else (none, none)
  (f.1 <|> k.1, f.2 <|> k.2)

/-- The outputs: both low before the start instant and on a channel that is not running; one that a mask forces high rises the dead time
after the other has reached low, at the earliest (05 R137, R140). -/
def PwmCh.outputs (c : PwmCh) (now : Nat) : Bool × Bool :=
  if !c.running || !c.begun then (false, false)
  else
    let out := fun (forced : Option Bool) (fell : Nat) (plain : Bool) =>
      match forced with | some b => b && decide (fell + c.active.dt.toNat ≤ now) | none => plain
    (out c.forced.1 c.fellL (c.plain now).1, out c.forced.2 c.fellH (c.plain now).2)

/-- A change of a channel at a time in taps, which notes the outputs that it takes low. -/
def PwmCh.turn (tm : Nat) (f : PwmCh → PwmCh) (c : PwmCh) : PwmCh :=
  let d := f c
  { d with fellH := if (c.outputs tm).1 && !(d.outputs tm).1 then tm else d.fellH,
           fellL := if (c.outputs tm).2 && !(d.outputs tm).2 then tm else d.fellL }

def State.turnCh (n : Phase) (tm : Nat) (f : PwmCh → PwmCh) (s : State) : State := s.modCh n (PwmCh.turn tm f)

/-- The levels of the PWMH and PWML balls: the crossbar of the direction in force and the polarity bits (05 R129;
06 R153). -/
def State.balls (s : State) (n : Phase) : Bool × Bool :=
  let c := s.pwm.ch.get n
  let (h, l) := c.outputs s.taps
  let (h, l) := (h ^^ c.polH, l ^^ c.polL)
  if (s.reg.ch.get n).dir then (l, h) else (h, l)

/-! ### Masks -/

/-- Mask codes apply where their source is asserted; the event bit is set as the code takes hold (05 R139). -/
def State.applyMasks (n : Phase) (s : State) : State :=
  let s1 := if s.faultSource n && !(s.pwm.ch.get n).faultMasked then
      (s.turnCh n s.taps fun c => { c with faultMasked := true }).raise (.pwm n) 2 else s
  if s1.commSignal n && !(s1.pwm.ch.get n).commMasked then
    (s1.turnCh n s1.taps fun c => { c with commMasked := true }).raise (.pwm n) 3 else s1

/-- Release at a time, in taps, of the masks whose condition has gone (05 R139, R140). -/
def State.releaseMasks (n : Phase) (tm : Nat) (s : State) : State :=
  let c := s.pwm.ch.get n
  let f := c.faultMasked && (s.faultSource n || (s.evGet (.pwm n)).flags.getLsbD 2)
  let k := c.commMasked && s.commSignal n
  if f = c.faultMasked && k = c.commMasked then s
  else s.turnCh n tm fun c => { c with faultMasked := f, commMasked := k, released := tm }

/-- On a channel that is not running a mask whose condition has gone is released at once; a running one waits for its boundary
(05 R139). -/
def State.restMasks (n : Phase) (s : State) : State :=
  if (s.pwm.ch.get n).running then s else s.releaseMasks n s.taps

/-- GATE_EN goes low on every phase that safe energy off or an overcurrent blocks (10 R241, R247). -/
def State.dropGates (s : State) : State :=
  s.modSaf fun f => { f with gateEn := f.gateEn &&& ~~~ (phaseBits s.blockedPhase ||| f.overcurrent) }

/-- The start of a demand is kept for the contactor half (10 R242). -/
def State.markDemands (s : State) : State :=
  s.modSaf fun f => { f with seoSince := vmapIdx f.seoSince fun o x => if s.seoOut o then x <|> some s.clk.cycle else none }

/-- What a change of the sources brings at once: gates low, fault codes latched, the contactor half's demand noted; on a
channel that is not running a mask whose condition has gone is released (05 R139; 10 R241, R242). -/
def State.safetyUpdate (s : State) : State :=
  (s.dropGates.markDemands).forAll fun (n : Phase) t =>
    (t.applyMasks n).restMasks n

/-- Raise a global source, an outlet's source, an ACD's source (10 R239, R250); the event is set when the source is new. -/
def State.raiseGlb (b : Nat) (s : State) : State :=
  if s.saf.srcGlb.getLsbD b then s
  else ((s.modSaf fun f => { f with srcGlb := f.srcGlb ||| bit 10 b }).raise .saf 1).safetyUpdate

def State.raiseOut (o : Outlet) (b : Nat) (s : State) : State :=
  if (s.saf.srcOut.get o).getLsbD b then s
  else ((s.modSaf fun f => { f with srcOut := vmod f.srcOut o fun x => x ||| bit 6 b }).raiseAt .saf 0 o.val b 0).safetyUpdate

/-- The STO pins of an ACD go low at once while a source applies (10 R250). -/
def State.raiseSto (a : Acd) (b : Nat) (s : State) : State :=
  let s1 := s.modSaf fun f => { f with stoCmd := f.stoCmd &&& ~~~ (bit 8 a.val ||| bit 8 (a.val + 4)) }
  if (s.saf.srcSto.get a).getLsbD b then s1
  else (s1.modSaf fun f => { f with srcSto := vmod f.srcSto a fun x => x ||| bit 6 b }).raiseAt .saf 2 a.val b 0

/-- Release a source (10 R239, R250). -/
def State.clearGlb (b : Nat) (s : State) : State :=
  (s.modSaf fun f => { f with srcGlb := f.srcGlb &&& ~~~ bit 10 b }).safetyUpdate
def State.clearOut (o : Outlet) (b : Nat) (s : State) : State :=
  (s.modSaf fun f => { f with srcOut := vmod f.srcOut o fun x => x &&& ~~~ bit 6 b }).safetyUpdate
def State.clearSto (a : Acd) (b : Nat) (s : State) : State :=
  s.modSaf fun f => { f with srcSto := vmod f.srcSto a fun x => x &&& ~~~ bit 6 b }

/-- The control-fault source of every ACD follows the clock, tick-token and supply sources (10 R250). -/
def State.controlFault (s : State) : Bool := (s.saf.srcGlb &&& 0b0001110000) != 0
def State.syncControlFault (s : State) : State :=
  s.forAll fun (a : Acd) t => if s.controlFault then t.raiseSto a 3 else t.clearSto a 3

/-! ### Outlet contactors (10 R242, R244) -/

def State.drivesClosed (s : State) (o : Outlet) : Bool := s.saf.ocp.getLsbD o.val && s.saf.ocm.getLsbD o.val
def State.bothOpen (s : State) (o : Outlet) : Bool := !s.saf.fbp.getLsbD o.val && !s.saf.fbm.getLsbD o.val
def State.bothClosed (s : State) (o : Outlet) : Bool := s.saf.fbp.getLsbD o.val && s.saf.fbm.getLsbD o.val

/-- The contactor half sets both drives of an outlet and notes the cycle of a change (10 R244). -/
def State.setDrives (o : Outlet) (closed : Bool) (s : State) : State :=
  if s.saf.ocp.getLsbD o.val = closed && s.saf.ocm.getLsbD o.val = closed then s
  else s.modSaf fun f =>
    { f with ocp := if closed then f.ocp ||| bit 8 o.val else f.ocp &&& ~~~ bit 8 o.val,
             ocm := if closed then f.ocm ||| bit 8 o.val else f.ocm &&& ~~~ bit 8 o.val,
             lastDrive := vmod f.lastDrive o fun _ => s.clk.cycle }

/-- A lane command to open: held by the contactor half between a demand of safe energy off and its own release, passed
at once otherwise (10 R242). -/
def State.laneOpen (o : Outlet) (s : State) : State := if s.seoOut o then s else s.setDrives o false

/-- The output port of the driving lane holds a gated write (11 R274). -/
def State.holdWrite (w : GatedWrite) (s : State) : State := s.modLne fun l => { l with held := l.held ++ [w] }

/-- A lane command to close, which the output port holds; with `COX_DEAD` it is discarded (11 R274, R283). -/
def State.laneClose (o : Outlet) (s : State) : State := if s.lne.coxDead then s else s.holdWrite (.drives o)

/-- It reaches the contactor half, which does not pass it under safe energy off, nor without the permit (10 R242, R266), and not after the lane
has taken it back. DEDUCED (log entry 65). -/
def State.passClose (o : Outlet) (s : State) : State :=
  let st := (s.out.get o).st
  if s.seoOut o || !s.saf.permit.get o || !(st == .closing || st == .energy || st == .stopping) then s else s.setDrives o true

/-- The contactor deadline has passed since the last change of the drives (10 R244). -/
def State.deadlinePassed (s : State) (o : Outlet) : Bool :=
  match s.outCfg o with
  | none => true
  | some c => (s.saf.lastDrive.get o) + ms c.deadlineMs ≤ s.clk.cycle

/-- The weld path: global safe energy off, the latch of the outlet, BRK_TRIP once for each weld latched, and a journal
record that names the contactor, or 3 where no feedback shows closed (10 R246; 21 R487 code 0x46). -/
def State.weldPath (o : Outlet) (s : State) : State :=
  if s.saf.welds.getLsbD o.val then s.raiseGlb 8
  else
    let which := match s.saf.fbp.getLsbD o.val, s.saf.fbm.getLsbD o.val with
      | true, false => 0 | false, true => 1 | true, true => 2 | false, false => 3
    let s1 := s.modSaf fun f =>
      { f with welds := f.welds ||| bit 8 o.val, brkTrip := true, brkUntil := s.clk.cycle + ms f.brkPulse.toNat }
    ((s1.raiseAt .saf 7 o.val which 0).journal 14 0x46 o.val which 0 5).raiseGlb 8

end Sys2Proof.Machine
end

