-- ==== Sys2Proof/Machine/Pwm.lean ====
section
/-! DEFINITION. The PWM generators: shadow sets, commits, starts, period and compare events, auxiliary channels (05). -/
namespace Sys2Proof.Machine

/-- The longest of the 8 CLK_PWM cycles between a commit and its transfer, in taps (05 R134). -/
def cutoffTaps : Nat := 128

/-- A mask code is valid: a level bit only of a forced output, and not both outputs forced high (05 R138). -/
def maskOk (k : BitVec 4) : Bool :=
  (!k.getLsbD 1 || k.getLsbD 0) && (!k.getLsbD 3 || k.getLsbD 2) && !(k.getLsbD 1 && k.getLsbD 3)

/-- The split-update rule: a new period with a compare that was not written and lies at or beyond it (05 R133). -/
def splitUpdate (c : PwmCh) : Bool :=
  c.written.getLsbD 0 &&
  ((!c.written.getLsbD 1 && tapsOf c.shadow.period ≤ tapsOf c.shadow.rise) ||
   (!c.written.getLsbD 2 && tapsOf c.shadow.period ≤ tapsOf c.shadow.fall))

/-- The checks of a commit in their order; the result of the first that fails, 0 when none does (05 R132). -/
def commitResult (dtMin : BitVec 12) (c : PwmCh) : BitVec 3 :=
  if !c.en then 6
  else if tapsOf c.shadow.period < 4800 then 2
  else if c.shadow.dt.toNat < dtMin.toNat then 3
  else if !(maskOk c.shadow.comm && maskOk c.shadow.fault) then 4
  else if splitUpdate c then 1
  else 0

/-- A refused commit: its result, event and count; the sets stay as they are (05 R132). -/
def State.pwmRefuse (n : Phase) (res : BitVec 3) (s : State) : State :=
  (s.modCh n fun c => { c with lastResult := res, cntRefused := satInc c.cntRefused }).raise (.pwm n)
    (if res = 1 then 0 else 1)

/-- An accepted commit: the shadow set and its tag become the pending set (05 R132). -/
def State.pwmAccept (n : Phase) (tag : Half) (s : State) : State :=
  let had := (s.pwm.ch.get n).pend.isSome
  let s1 := s.modCh n fun c =>
    { c with pend := some ⟨c.shadow, tag, s.taps⟩, accepted := c.shadow, written := 0, lastResult := 0,
             cntCommit := satInc c.cntCommit }
  if had then s1.raise (.pwm n) 4 else s1

/-- One commit (05 R132). -/
def State.pwmCommitOne (n : Phase) (tag : Half) (s : State) : State :=
  let res := commitResult s.pwm.dtMin (s.pwm.ch.get n)
  if res = 0 then s.pwmAccept n tag else s.pwmRefuse n res

/-- A group commit: all named channels, or none (05 R135). -/
def State.pwmGroup (mask : BitVec 24) (tag : Half) (s : State) : State :=
  let named : Phase → Bool := fun n => mask.getLsbD n.val && s.hasPhase n
  let res : Phase → BitVec 3 := fun n => commitResult s.pwm.dtMin (s.pwm.ch.get n)
  let allOk := (List.finRange 24).all fun n => !named n || res n == 0
  s.forAll fun (n : Phase) t =>
    if !named n then t
    else if allOk then t.pwmAccept n tag
    else t.pwmRefuse n (if res n = 0 then 5 else res n)

/-- Both outputs low, no boundaries, no more samples (05 R137; 06 R154). -/
def State.pwmStop (n : Phase) (s : State) : State :=
  (s.turnCh n s.taps fun c => { c with running := false, begun := false, ideal := false, blocked := false, off := 0 }).modRegCh n fun r =>
    { r with grid := r.grid.map fun g => { g with stop := g.stop <|> some s.taps } }

/-- Clearing EN stops the channel; masks whose condition has gone are released at once (05 R137, R139). -/
def State.pwmDisable (n : Phase) (s : State) : State :=
  ((s.modCh n fun c => { c with en := false }).pwmStop n).restMasks n

/-- Start every named channel that may start, with one start instant: the CLK_PWM edge 8 cycles after the write
(05 R137). -/
def State.pwmStartMask (mask : BitVec 24) (s : State) : State :=
  let inst := ceilDiv s.taps 16 * 16 + cutoffTaps
  s.forAll fun (n : Phase) t =>
    let c := t.pwm.ch.get n
    if !mask.getLsbD n.val || !t.hasPhase n then t
    else if c.running then t.raise (.pwm n) 5
    else if c.en && c.hasActive then
      t.modCh n fun c => { c with running := true, begun := false, bound := inst, ideal := false, since := inst, blocked := false, off := 0 }
    else t

/-- `PWM_START` by the driving lane: the output port holds it, but lets it pass with `COX_DEAD` (11 R274, R283). -/
def State.gatedStart (mask : BitVec 24) (s : State) : State := if s.lne.coxDead then s.pwmStartMask mask else s.holdWrite (.start mask)

/-- A pending set comes into force (05 R134). -/
def PwmCh.transfer (c : PwmCh) : PwmCh :=
  match c.pend with
  | none => c
  | some p => { c with active := p.set, tag := p.tag, pend := none, hasActive := true }

/-- L0 of the period (05 R127). -/
def levelAtBoundary (a : PwmSet) : Bool := decide (tapsOf a.fall < tapsOf a.period) && decide (tapsOf a.fall < tapsOf a.rise)

/-- A takeover discards shadow writes made since the last accepted commit (05 R136). -/
def State.pwmDiscard (s : State) : State :=
  s.forAll fun (n : Phase) t =>
    if (t.pwm.ch.get n).written = 0 then t
    else (t.modCh n fun c => { c with shadow := c.accepted, written := 0 }).raise (.pwm n) 6

/-- A warm or control-plane reset: the phase channels take their cold values; auxiliary channels, `PWM_DT_MIN` and the
enables of events as R145 gives (05 R145). -/
def State.pwmReset (s : State) : State :=
  (s.modPwm fun p => { p with ch := .replicate 24 .cold, groupMask := 0 }).modEv fun e =>
    { e with pwm := .replicate 24 .zero }

/-! ### Pulses and samples (06 R150, R152, R154, R164, R165) -/

/-- The regulator holds the ideal level low: an effective code of 0 (06 R150). -/
def RegCh.holdsLow (c : RegCh) : Bool := c.effective == 0

/-- An effective code that has become 0 holds the ideal level low at once (06 R150). -/
def State.holdLow (n : Phase) (s : State) : State :=
  if (s.reg.ch.get n).holdsLow && (s.pwm.ch.get n).ideal then
    s.turnCh n s.taps fun c => { c with ideal := false, since := s.taps }
  else s

/-- A change of a phase's codes (06 R150, R155). -/
def State.modCode (n : Phase) (f : RegCh → RegCh) (s : State) : State := (s.modRegCh n f).holdLow n

/-- A pulse ends: counted only while the regulator is enabled; a pulse produced while it is not breaks the run (06 R164). -/
def RegCh.endPulse (tripped : Bool) (rise ended : Nat) (c : RegCh) : RegCh :=
  if !c.en then { c with pulse := none, untripRun := 0, lastEnd := none }
  else if tripped then
    { c with lastTripped := true, untripRun := 0, cntTrip := satInc c.cntTrip, pulse := some true, lastEnd := none }
  else
    { c with lastTripped := false, untripRun := min 15 (c.untripRun + 1), cntUntripped := satInc c.cntUntripped, pulse := some false,
             lastEnd := some ⟨rise, ended, c.untripRun, c.cntUntripped⟩ }

/-- A trip in the CLK_PWM cycle in which the maximum duty or the falling compare ended the pulse: the pulse counts as tripped (06 R152). -/
def RegCh.retrip (e : PulseEnd) (c : RegCh) : RegCh :=
  ({ c with untripRun := e.run, cntUntripped := e.count }).endPulse true e.rise e.ended

/-- The runs of untripped and tripped periods at a period's end; a period without a counted pulse breaks them (06 R164, R165). -/
def RegCh.closePeriod (c : RegCh) : RegCh :=
  match c.pulse with
  | some false => { c with runMeans := (c.perSum :: c.runMeans).take 8, tripMeans := [], pulse := none }
  | some true =>
    { c with runMeans := [], tripMeans := if 410 ≤ c.effective.toNat then (c.perSum :: c.tripMeans).take 4 else [], pulse := none }
  | none => { c with runMeans := [], tripMeans := [], untripRun := 0, pulse := none }

/-- Samples of a period whose times lie before a time, in taps: 8 a period, equally spaced from its start (06 R154). -/
def SampleGrid.due (g : SampleGrid) (tm : Nat) : Nat :=
  let top := match g.stop with | some t => min t tm | none => tm
  countFin 8 fun j => decide (8 * g.start + j.val * g.period < 8 * top)

/-- A quantity measured from the DC link to the outlet, in the conducting direction of `DIR` (06 R148, R154). -/
def RegCh.signed (c : RegCh) (x : Int) : Int := if c.dir then -x else x

/-- The samples of the period in progress up to a time enter the tick's mean and the period's; v holds the period's codes, positive from
the DC link to the outlet (06 R154). -/
def RegCh.sample (tm : Nat) (v : Vector Int 8) (c : RegCh) : RegCh :=
  match c.grid with
  | none => c
  | some g =>
    let k := max g.taken (g.due tm)
    let x := ((v.toList.drop g.taken).take (k - g.taken)).map c.signed
    { c with accSum := c.accSum + x.sum, accN := c.accN + x.length, perSum := c.perSum + x.sum, grid := some { g with taken := k } }

/-- A period begins (06 R154). -/
def RegCh.openPeriod (start period : Nat) (c : RegCh) : RegCh := { c with grid := some ⟨start, period, 0, none⟩, perSum := 0 }

/-- Failed open: 8 consecutive untripped pulses with a mean below 10 % of the average command (06 R164). -/
def openFailed (sums : List Int) (ifs icmd m : Nat) : Bool :=
  sums.length == 8 && decide (sums.foldl (· + ·) 0 * (ifs : Int) * 10 * m < (icmd : Int) * 64 * 2047)

/-- Failed sense: trips in 4 consecutive periods with a mean within ±20 codes (06 R165). -/
def senseFailed (sums : List Int) : Bool := sums.length == 4 && decide ((sums.foldl (· + ·) 0).natAbs ≤ 640)

/-- Detections at a period's end act at the next tick (06 R166). -/
def State.detect (n : Phase) (s : State) : State :=
  match s.holder n, s.phaseCfg n with
  | some o, some pc =>
    s.modRegCh n fun c =>
      { c with detOpen := c.detOpen || openFailed c.runMeans pc.ifs (s.out.get o).icmd (s.mOf o),
               detSense := c.detSense || senseFailed c.tripMeans }
  | _, _ => s.modRegCh n fun c => { c with detSense := c.detSense || senseFailed c.tripMeans }

/-! ### Commands -/

/-- PWM block base of a channel's registers (05 R145). -/
def pwmOff (n : Phase) (reg : Nat) : Nat := 0x20000 + n.val * 0x100 + reg
def auxOff (a : Aux) (reg : Nat) : Nat := 0x21800 + a.val * 0x20 + reg

/-- Store a shadow register: 0 period, 1 rise, 2 fall, 3 dead time, 4 masks (05 R131). -/
def PwmSet.store (x : PwmSet) (reg : Fin 5) (w : Word) : PwmSet :=
  match reg with
  | 0 => { x with period := bitsOf w 0 20 }
  | 1 => { x with rise := bitsOf w 0 20 }
  | 2 => { x with fall := bitsOf w 0 20 }
  | 3 => { x with dt := bitsOf w 0 12 }
  | 4 => { x with comm := bitsOf w 0 4, fault := bitsOf w 4 4 }

/-- PWM_SHADOW_WRITE (05 R131). -/
def execPwmShadowWrite (m : Master) (n : Phase) (reg : Fin 5) (w : Word) (s : State) :
    Host.Outcome State Fault Refusal :=
  s.live fun s => (s.guardedWrite m s.pwr.controlReady (s.hasPhase n) (s.laneOrPf0 m) (pwmOff n (4 + 4 * reg.val)) fun t =>
    t.modCh n fun c => { c with shadow := c.shadow.store reg w, written := c.written ||| bit 5 reg.val })

/-- PWM_COMMIT (05 R132). -/
def execPwmCommit (m : Master) (n : Phase) (w : Word) (s : State) : Host.Outcome State Fault Refusal :=
  s.live fun s => (s.guardedWrite m s.pwr.controlReady (s.hasPhase n) (s.laneOrPf0 m) (pwmOff n 0x18) fun t =>
    t.pwmCommitOne n (bitsOf w 0 16))

/-- PWM_GROUP_COMMIT (05 R135). -/
def execPwmGroupCommit (m : Master) (w : Word) (s : State) : Host.Outcome State Fault Refusal :=
  s.live fun s => (s.guardedWrite m s.pwr.controlReady true (s.laneOrPf0 m) 0x21C0C fun t =>
    t.pwmGroup t.pwm.groupMask (bitsOf w 0 16))

/-- PWM_START (05 R137; 11 R274). -/
def execPwmStart (m : Master) (w : Word) (s : State) : Host.Outcome State Fault Refusal :=
  s.live fun s => (s.guardedWrite m s.pwr.controlReady true (s.laneOrPf0 m) 0x21C00 fun t =>
    if m = .lane then t.gatedStart (bitsOf w 0 24) else t.pwmStartMask (bitsOf w 0 24))

/-- PWM_CTRL_WRITE (05 R137, R139, R145). -/
def execPwmCtrlWrite (m : Master) (n : Phase) (w : Word) (s : State) : Host.Outcome State Fault Refusal :=
  s.live fun s => (s.guardedWrite m s.pwr.controlReady (s.hasPhase n) (s.laneOrPf0 m) (pwmOff n 0) fun t =>
    let t1 := t.modCh n fun c =>
      { c with en := w.getLsbD 0, polH := w.getLsbD 1, polL := w.getLsbD 2, cmode := w.getLsbD 3, swFault := w.getLsbD 4 }
    ((if w.getLsbD 0 then t1 else t1.pwmDisable n).applyMasks n).restMasks n)

/-- PWM_DT_MIN_WRITE: RW-L; a value below 24 is taken as 24 (05 R130, R145; 00 R9). -/
def execPwmDtMinWrite (m : Master) (w : Word) (s : State) : Host.Outcome State Fault Refusal :=
  s.live fun s => (s.guardedWrite m s.pwr.controlReady true (s.laneOrPf0 m && !s.lcs.lock) 0x21C04 fun t =>
    t.modPwm fun p => { p with dtMin := BitVec.ofNat 12 (max 24 (bitsOf w 0 12).toNat) })

/-- The checks of an auxiliary commit: EN and the period's range (05 R142); an uncovered period or duty follows R133 with
the duty in place of both compares. -/
def auxResult (c : AuxCh) : BitVec 3 :=
  if !c.en then 6
  else if c.shadow.period.toNat < 2 then 2
  else if c.written.getLsbD 0 && !c.written.getLsbD 1 && decide (c.shadow.period.toNat ≤ c.shadow.duty.toNat) then 1
  else 0

/-- A commit of an auxiliary channel: it waits for the boundary; a channel that is not running starts 8 CLK_PWM cycles later, which is
its first boundary. Before that boundary a further commit takes the earlier one's place, and its start. DEDUCED (05 R132, R134, R142;
log entry 162). -/
def State.auxCommit (a : Aux) (tag : Half) (s : State) : State :=
  let res := auxResult (s.pwm.aux.get a)
  s.modAux a fun c =>
    if res ≠ 0 then { c with lastResult := res }
    else
      let c := { c with pend := some ⟨c.shadow, tag, s.taps⟩, accepted := c.shadow, written := 0, lastResult := 0 }
      if c.running && c.begun then c
      else { c with running := true, begun := false, heldFs := c.heldFs && s.clockFault, bound := ceilDiv s.taps 16 * 16 + cutoffTaps }

/-- PWM_AUX_COMMIT (05 R142). -/
def execPwmAuxCommit (m : Master) (a : Aux) (w : Word) (s : State) : Host.Outcome State Fault Refusal :=
  s.live fun s => (s.guardedWrite m s.pwr.controlReady true (s.laneOrPf0 m) (auxOff a 0x10) fun t => t.auxCommit a (bitsOf w 0 16))

/-- PWM_AUX_CTRL_WRITE: clearing EN stops a running channel at once and leaves the committed set in place; one that is enabled under a
clock-monitor fault is held (05 R142, R143). -/
def execPwmAuxCtrlWrite (m : Master) (a : Aux) (w : Word) (s : State) : Host.Outcome State Fault Refusal :=
  s.live fun s => (s.guardedWrite m s.pwr.controlReady true (s.laneOrPf0 m) (auxOff a 0) fun t =>
    t.modAux a fun c =>
      let held := if c.en then c.heldFs else t.clockFault
      let c := { c with en := w.getLsbD 0, pol := w.getLsbD 1, fsLevel := w.getLsbD 2, heldFs := held }
      if c.en then c else { c with running := false, begun := false, inFailsafe := false, heldFs := false })

/-- The level of an auxiliary output a number of counts into a period, before `POL` (05 R142). -/
def AuxCh.level (c : AuxCh) (count : Nat) : Bool :=
  c.running && c.begun && decide (count < (if c.inFailsafe then c.failsafe else c.active.duty).toNat)

/-- The level of an auxiliary pin: held at `FS_LEVEL` on a clock-monitor fault, and on a running channel until the boundary that ends
it; the output and `POL` (05 R142, R143). -/
def State.auxBall (s : State) (a : Aux) : Bool :=
  let c := s.pwm.aux.get a
  let out := if c.heldFs && (c.running || s.clockFault) then c.fsLevel else c.level ((s.taps + 16 * c.active.period.toNat - c.bound) / 16)
  out ^^ c.pol

/-- A pending auxiliary set comes into force (05 R134, R142). -/
def AuxCh.transfer (c : AuxCh) : AuxCh :=
  match c.pend with
  | none => c
  | some p => { c with active := p.set, tag := p.tag, pend := none }

/-- PENDING_TRANSFER on phase channel c, or on auxiliary channel c - 24, that is not running (05 R134, R142). -/
def execPendingTransfer (c : Fin 32) (s : State) : Host.Outcome State Fault Refusal :=
  s.live fun s =>
    if h : c.val < 24 then
      match (s.pwm.ch.get ⟨c.val, h⟩).running, (s.pwm.ch.get ⟨c.val, h⟩).pend with
      | false, some p => (s.runTo (cycleOfTaps (p.since + cutoffTaps))).modCh ⟨c.val, h⟩ PwmCh.transfer
      | _, _ => s
    else
      match (s.pwm.aux.get ⟨c.val - 24, by omega⟩).running, (s.pwm.aux.get ⟨c.val - 24, by omega⟩).pend with
      | false, some p => (s.runTo (cycleOfTaps (p.since + cutoffTaps))).modAux ⟨c.val - 24, by omega⟩ AuxCh.transfer
      | _, _ => s

/-- The period boundary of a phase channel: a pending set committed at least 8 cycles before comes into force; the ideal level follows the
compare at 0, where there is one (the fall wins), and is L0 otherwise, unless it must stay low (05 R127, R128, R134; 06 R150). -/
def PwmCh.boundary (holds : Bool) (c : PwmCh) : PwmCh :=
  let c := match c.pend with
    | some p => if p.since + cutoffTaps ≤ c.bound then c.transfer else c
    | none => c
  let rises := tapsOf c.active.rise == 0 && tapsOf c.active.fall != 0
  let lvl := !holds && (rises || (levelAtBoundary c.active && tapsOf c.active.fall != 0 && !c.blocked))
  { c with begun := true, off := 1, ideal := lvl, since := if c.begun && c.ideal = lvl then c.since else c.bound,
           blocked := c.blocked && !rises, bound := c.bound + tapsOf c.active.period }

/-- A period boundary of a running phase channel: the rest of the samples of the period that ends enter the tick's mean and the runs
of 06 R164 and R165, the channel takes the boundary, a pulse that this ends counts, the next period begins, and masks whose condition has gone are
released (05 R125, R127, R134, R139; 06 R154). A pulse that L0 ends counts as untripped. DEDUCED (log entry 162). -/
def State.phaseBoundary (n : Phase) (samples : Vector Int 8) (s : State) : State :=
  let c := s.pwm.ch.get n
  if !c.running then s
  else
    let s1 := s.runTo (cycleOfTaps c.bound)
    let holds := (s.reg.ch.get n).holdsLow
    let s2 := if c.begun then (s1.modRegCh n fun r => (r.sample c.bound samples).closePeriod).detect n else s1
    let s3 := s2.turnCh n c.bound (PwmCh.boundary holds)
    let d := s3.pwm.ch.get n
    let s4 := s3.modRegCh n fun r =>
      (if c.ideal && !d.ideal && !holds then r.endPulse false c.since c.bound else r).openPeriod c.bound (tapsOf d.active.period)
    s4.releaseMasks n c.bound

/-- No lane drives the auxiliary channels (05 R143). -/
def State.noLane (s : State) : Bool := !s.pwr.controlReady || s.lne.tokenStopped

/-- A boundary of an auxiliary channel: the pending set, or the failsafe duty while no lane drives (05 R142, R143). -/
def State.auxBoundary (a : Aux) (s : State) : State :=
  let c := s.pwm.aux.get a
  if !c.running then s
  else
    let s1 := s.runTo (cycleOfTaps c.bound)
    let fs := s1.noLane
    s1.modAux a fun c =>
      let c := match c.pend with
        | some p => if p.since + cutoffTaps ≤ c.bound then c.transfer else c
        | none => c
      { c with begun := true, inFailsafe := fs, heldFs := c.heldFs && s1.clockFault, bound := c.bound + 16 * c.active.period.toNat }

/-- PERIOD_BOUNDARY of phase channel c, with the eight codes of its sense sampler in the period that ends, or of auxiliary channel c - 24
(05 R134, R142; 06 R154). -/
def execPeriodBoundary (c : Fin 32) (samples : Vector Int 8) (s : State) : Host.Outcome State Fault Refusal :=
  s.live fun s => (if h : c.val < 24 then s.phaseBoundary ⟨c.val, h⟩ samples
    else s.auxBoundary ⟨c.val - 24, by omega⟩)

/-- The next compare of the period in progress: its offset and whether it falls; with equal compares the fall wins
(05 R127). -/
def nextCompare (c : PwmCh) : Option (Nat × Bool) :=
  let p := tapsOf c.active.period
  let r := tapsOf c.active.rise
  let f := tapsOf c.active.fall
  let rOk := decide (r < p) && decide (c.off ≤ r) && decide (r ≠ f)
  let fOk := decide (f < p) && decide (c.off ≤ f)
  if rOk && (!fOk || decide (r < f)) then some (r, false)
  else if fOk then some (f, true)
  else none

/-- The start of the period in progress, in taps. -/
def PwmCh.periodStart (c : PwmCh) : Nat := c.bound - tapsOf c.active.period

/-- COMPARE_EVENT: the ideal level rises or falls at the next compare instant (05 R127; 06 R150). -/
def execCompareEvent (n : Phase) (s : State) : Host.Outcome State Fault Refusal :=
  s.live fun s => (
    let c := s.pwm.ch.get n
    if !c.running || !c.begun then s
    else match nextCompare c with
      | none => s
      | some (x, falls) =>
        let t := c.periodStart + x
        let s1 := s.runTo (cycleOfTaps t)
        let up := !falls && !(s1.reg.ch.get n).holdsLow
        let s2 := s1.turnCh n t fun c =>
          { c with ideal := up, since := if c.ideal = up then c.since else t, blocked := c.blocked && falls, off := x + 1 }
        if falls && c.ideal then s2.modRegCh n (·.endPulse false c.since t) else s2)

/-- The end that the maximum duty sets to the pulse in progress, in taps (06 R152). -/
def PwmCh.dutyEnd (c : PwmCh) (dmax : BitVec 14) : Nat := c.since + dmax.toNat * tapsOf c.active.period / 10000

/-- The latest end of the pulse in progress: the maximum duty, or the falling compare of this period (05 R128; 06 R152). -/
def PwmCh.latestEnd (c : PwmCh) (dmax : BitVec 14) : Nat :=
  match nextCompare c with
  | some (x, true) => min (c.dutyEnd dmax) (c.periodStart + x)
  | _ => c.dutyEnd dmax

/-- A time lies in the blanking interval of a pulse whose ideal level rose at a time: the interval starts at the rise of PWMH at the pin
(06 R151); a PWMH that a mask holds low does not rise. -/
def PwmCh.blanked (c : PwmCh) (blank : BitVec 7) (rise tm : Nat) : Bool :=
  let within := fun (rise : Nat) => decide (rise ≤ tm) && decide (tm < rise + 16 * blank.toNat)
  match c.forced.1 with
  | none => within (max rise c.released + c.active.dt.toNat)
  | some true => within (c.fellL + c.active.dt.toNat)
  | some false => false

/-- The sensed current, in units of I_fs / (256 × 4,095), reaches the threshold c - ramp(t) at a time from the rise of the ideal level, in
taps: 4,800 to the µs; the threshold never falls below 0 (06 R148, R149). -/
def RegCh.reaches (c : RegCh) (since : Nat) (sense : Int) : Bool :=
  let i := c.signed sense
  decide (0 ≤ i) && decide ((c.effective.toNat * 256 * 4800 : Nat) ≤ i * 4800 + (c.slope.toNat * since : Nat))

/-- COMPARATOR_TRIP: the sensed current, positive from the DC link to the outlet, at a time in taps. Where it reaches the threshold outside
blanking it ends the high ideal level of a channel with CMODE; in the CLK_PWM cycle in which the maximum duty or the falling compare has
just ended the pulse, the pulse counts as tripped (05 R128; 06 R148, R151, R152). -/
def execComparatorTrip (n : Phase) (tm : Nat) (sense : Int) (s : State) : Host.Outcome State Fault Refusal :=
  s.live fun s => (
    let c := s.pwm.ch.get n
    let r := s.reg.ch.get n
    let trips := fun (rise : Nat) => decide (rise ≤ tm) && r.reaches (tm - rise) sense && !c.blanked r.blank rise tm
    if !(c.running && c.begun && c.cmode && r.en) then s
    else if c.ideal then
      if trips c.since && decide (tm / 16 ≤ c.latestEnd r.dmax / 16) then
        let t := min tm (c.latestEnd r.dmax)
        ((s.runTo (cycleOfTaps t)).turnCh n t fun c => { c with ideal := false, since := t, blocked := true }).modRegCh n
          (·.endPulse true c.since t)
      else s
    else match r.lastEnd with
      | some e =>
        if trips e.rise && tm / 16 = e.ended / 16 then
          ((s.runTo (cycleOfTaps tm)).modCh n fun c => { c with blocked := true }).modRegCh n (·.retrip e)
        else s
      | none => s)

/-- DMAX_LIMIT: a pulse whose high level has lasted ⌊DMAX × P / 10,000⌋ taps ends as an untripped pulse (06 R152). -/
def execDmaxLimit (n : Phase) (s : State) : Host.Outcome State Fault Refusal :=
  s.live fun s => (
    let c := s.pwm.ch.get n
    let t := c.dutyEnd (s.reg.ch.get n).dmax
    if !(c.running && c.ideal) then s
    else ((s.runTo (cycleOfTaps t)).turnCh n t fun c => { c with ideal := false, since := t, blocked := true }).modRegCh n
      (·.endPulse false c.since t))

end Sys2Proof.Machine
end

