-- ==== Sys2Proof/Machine/OutletOps.lean ====
section
/-! DEFINITION. What the outlet machines share: state entries, session ends, stage-group operations, the start-up machine,
retirement, grant records (06 R155-R166; 07 R182-R187; 01 R28, R526). -/
namespace Sys2Proof.Machine

/-- Codes of `STATE` (07 R198). -/
def OutState.code : OutState → Nat
  | .off => 0 | .idle => 1 | .plugged => 2 | .cableCheck => 3 | .precharge => 4 | .closing => 5 | .energy => 6
  | .stopping => 7 | .opening => 8 | .weldCheck => 9 | .released => 10 | .fault => 11

/-- CABLE_CHECK to WELD_CHECK: the outlet holds a session (04 R117; 07 R180). -/
def OutState.inSession (x : OutState) : Bool := decide (3 ≤ x.code) && decide (x.code ≤ 9)

/-- CABLE_CHECK to ENERGY (07 R195). -/
def OutState.stoppable (x : OutState) : Bool := decide (3 ≤ x.code) && decide (x.code ≤ 6)

/-- States that the event journal records on entry (07 R187). -/
def OutState.recorded : OutState → Bool
  | .cableCheck | .energy | .released | .fault => true
  | _ => false

/-- The control pilot of kind 0 carries 1 kHz in every state but OFF, FAULT and IDLE (07 R176). -/
def OutState.pilotPwm : OutState → Bool
  | .off | .fault | .idle => false
  | _ => true

/-- Result of a session command: machine state in [7:0], end reason in [15:8] (07 R195). -/
def OutSt.result (x : OutSt) : Word := natAt x.st.code 8 0 ||| fieldAt x.reason 8

/-- Complete the descriptors of a list with the outlet's result. -/
def State.completeAll (ws : List (Ring × DWord)) (o : Outlet) (s : State) : State :=
  ws.foldl (fun t w => t.complete w.1 w.2 0 (t.out.get o).result) s

/-- Waiting stops complete at entry into STOPPING or RELEASED, waiting disables at entry into STOPPING or OFF (07 R195).
An entry into FAULT ends the session too and completes the stops. DEDUCED (log entry 10). -/
def State.settleWaits (o : Outlet) (s : State) : State :=
  let x := s.out.get o
  let s1 := if x.st = .stopping || x.st = .released || x.st = .fault then
      (s.completeAll x.stopWait o).modOut o fun x => { x with stopWait := [], stopNow := false } else s
  if x.st = .stopping || x.st = .off then
    (s1.completeAll x.disWait o).modOut o fun x => { x with disWait := [] } else s1

/-- Entry into a state of the session machine (07 R184, R187). -/
def State.enter (o : Outlet) (st : OutState) (s : State) : State :=
  let s1 := s.modOut o fun x =>
    { x with st := st, since := s.clk.cycle,
             drivingPwm := st.pilotPwm && (match s.outCfg o with | some c => c.kind == 0 | none => false) }
  let x := s1.out.get o
  let s2 := if st.recorded then
      s1.journal 11 0x40 o.val x.session.toNat (st.code + 256 * x.endReason.toNat) 0 else s1
  s2.settleWaits o

/-- The end reason is written with the state at the end (07 R184, R198). -/
def State.writeEnd (o : Outlet) (reason : Nat) (s : State) : State :=
  s.modOut o fun x =>
    let keep := x.st = .opening || x.st = .weldCheck
    { x with reason := BitVec.ofNat 8 reason, endReason := BitVec.ofNat 8 reason, endState := BitVec.ofNat 4 x.st.code,
             weldUnverified := keep && x.weldUnverified, openUnderLoad := keep && x.openUnderLoad }

/-- The fleet time of an event of a control tick: the tick's start, which the cycle in progress may lie up to 3 ns behind; the time in
progress otherwise (11 R272; 01 R29). -/
def State.eventTime (s : State) : Nat :=
  let t := s.now / Config.tickNs * Config.tickNs
  if s.now < t + 3 then t else s.now

/-- A session event is signalled to the legal domain (12 R304). -/
def State.signalMet (o : Outlet) (start : Bool) (id : Word) (reason : Byte) (s : State) : State :=
  s.modMet fun m => { m with signals := m.signals ++ [(o, start, id, s.eventTime, reason)] }

/-- The exchange on a vehicle link is over with the end of its session: the protocol is no longer in force (08 R204). -/
def VclSt.ended (v : VclSt) : VclSt :=
  { v with link := 5, proto := 0, tls := false, bpt := false, authGranted := false, authReq := 0, authSince := none,
           session := 0, stopReq := false, evReady := false, policy := none, items := [], schedule := none }

/-- The end of a session that reached ENERGY is a session end event (07 R187). -/
def State.endEvent (o : Outlet) (s : State) : State :=
  let x := s.out.get o
  if decide (6 ≤ x.st.code) && decide (x.st.code ≤ 9) then (s.raise (.out o) 3).signalMet o false x.session x.reason else s

/-- The session of the outlet is over: its ID is the last ended one, and the host's cap lapses (07 R181, R184). -/
def State.endSession (o : Outlet) (s : State) : State :=
  let x := s.out.get o
  (s.modOut o fun x =>
    { x with lastEnded := if x.session = 0 then x.lastEnded else x.session, session := 0, hostCap := BitVec.allOnes 32,
             rev := false, unplugAt := none }).modVclCh o fun v =>
      if v.session ≠ 0 && v.session = x.session then v.ended else v

/-! ### Stage groups -/

/-- Effective codes 0 of the group at once: peak command and clamp in force 0 (07 R184). -/
def State.zeroCodes (o : Outlet) (s : State) : State :=
  s.forAll fun (n : Phase) t =>
    if s.holder n = some o then
      t.modCode n fun c => { c with peak := 0, inForce := 0, shadowSet := false }
    else t

/-- Clear EN of the group's channels. -/
def State.disableGroup (o : Outlet) (s : State) : State :=
  s.forAll fun (n : Phase) t =>
    if s.holder n = some o then (t.pwmDisable n).modRegCh n fun c => { c with en := false } else t

/-- The sets of an interleaved group: phase k of m rises at round(k P / m) and falls DMAX later, modulo P (06 R158). -/
def interleaveSet (period dead dmax k m : Nat) (x : PwmSet) : PwmSet :=
  let r := roundDiv (k * period) m % max 1 period
  { x with period := ofTaps period, rise := ofTaps r, fall := ofTaps ((r + dmax * period / 10000) % max 1 period), dt := BitVec.ofNat 12 dead }

/-- The driving lane writes the offsets of a group and commits them with one group commit (06 R158; 07 R190). -/
def State.interleave (o : Outlet) (s : State) : State :=
  let g := s.group o
  let h := s.cfg.active.hdr
  let s1 := (g.zip (List.range g.length)).foldl (fun t nk =>
    t.modCh nk.1 fun c =>
      { c with shadow := interleaveSet h.period h.deadTime (t.reg.ch.get nk.1).dmax.toNat nk.2 g.length c.shadow,
               written := c.written ||| 0b01111 }) s
  let mask := phaseBits fun n => g.contains n
  (s1.modPwm fun p => { p with groupMask := mask }).pwmGroup mask (match g with | n :: _ => (s.pwm.ch.get n).tag + 1 | [] => 0)

/-- Blanking and maximum duty of a phase from the phases section: whole counts, nearest limits (06 R151, R152, R172). -/
def State.phaseSetting (n : Phase) (s : State) : State :=
  match s.phaseCfg n with
  | none => s
  | some pc =>
    s.modRegCh n fun c =>
      { c with blank := BitVec.ofNat 7 (max 12 (min 120 (ceilDiv (pc.blankNs * 3) 10))),
               dmax := BitVec.ofNat 14 (max 1000 (min 9500 pc.dmax)) }

/-- `EN` of `REG[n]_CTRL` is set. -/
def State.passRegEn (n : Phase) (s : State) : State := (s.modRegCh n fun c => { c with en := true }).holdLow n

/-- The driving lane sets it: the output port holds the write where it was clear, but lets it pass with `COX_DEAD` (11 R274, R283). -/
def State.gatedRegEn (n : Phase) (s : State) : State :=
  if (s.reg.ch.get n).en then s else if s.lne.coxDead then s.passRegEn n else s.holdWrite (.regEn n)

/-- A fitted phase of a group is enabled in current mode, its regulator set from the phases section (06 R158, R161). -/
def State.enablePhase (n : Phase) (s : State) : State :=
  if (s.phaseCfg n).isNone then s
  else ((s.modCh n fun c => { c with en := true, cmode := true }).phaseSetting n).gatedRegEn n

/-- The settings of a newly adopted phases section: blanking and maximum duty of the fitted phases, period and dead time of every group
that runs, by a group commit (01 R20; 06 R146, R147, R158). -/
def State.phaseSettings (s : State) : State :=
  (s.forAll fun (n : Phase) t => t.phaseSetting n).forAll fun (o : Outlet) t =>
    if (t.group o).any fun n => (t.pwm.ch.get n).running then t.interleave o else t

/-- The group is started: its channels are enabled in current mode, their sets committed and in force, their regulators set
from the phases section, and started with one start instant (06 R158, R161). The channels are stopped at that time, so the
sets are in force 8 CLK_PWM cycles after the commit (05 R134), which passes here. -/
def State.startGroup (o : Outlet) (s : State) : State :=
  let g := s.group o
  let s1 := g.foldl (fun t n => t.enablePhase n) s
  let s2 := (s1.interleave o).runTo (cycleOfTaps (s1.taps + cutoffTaps))
  let s3 := g.foldl (fun t n => if (t.pwm.ch.get n).running then t else t.modCh n PwmCh.transfer) s2
  s3.gatedStart (phaseBits fun n => g.contains n)

/-! ### The start-up machine (06 R161-R163) -/

/-- Codes of `REG_START` (06 R172). -/
def StartState.code : StartState → Nat
  | .off => 0 | .ramp => 1 | .pause => 2 | .track => 3 | .matched => 4 | .run => 5 | .fault => 6

/-- The start-up clamp, written directly into force (06 R161). -/
def State.startClamps (o : Outlet) (s : State) : State :=
  let m := s.mOf o
  (s.group o).foldl (fun t n =>
    t.modCode n fun c => { c with inForce := s.codeFor o n s.cfg.active.hdr.prechargeI m }) s

/-- Entry into RAMP: the attempt, the clamps with pending shadows discarded, the group started (06 R161). -/
def State.enterRamp (o : Outlet) (attempt : Nat) (s : State) : State :=
  let s1 := s.modStart o fun x => { x with st := .ramp, attempt := attempt, since := s.clk.cycle, ref := 0 }
  let s2 := (s.group o).foldl (fun t n => t.modRegCh n fun c => { c with shadowSet := false }) s1
  (s2.startClamps o).startGroup o

/-- START (mode, target) (06 R161). -/
def State.startUp (o : Outlet) (ratiometric : Bool) (target : Nat) (s : State) : State :=
  if (s.reg.start.get o).st ≠ .off then s
  else if s.mOf o = 0 then s.modStart o fun x => { x with st := .fault, since := s.clk.cycle }
  else
    (s.modStart o fun x =>
      { x with ratiometric := ratiometric, trackError := false, target := target, matchRun := 0, errSince := none }).enterRamp o 1

/-- STOP. In the tick in which a RAMP abort falls due STOP wins (06 R161, R170). -/
def State.stopUp (o : Outlet) (s : State) : State :=
  let x := s.reg.start.get o
  if x.st = .off || (x.st = .fault && decide (x.since < s.clk.cycle)) then s
  else ((s.zeroCodes o).disableGroup o).modStart o fun x => { x with st := .off, attempt := 0, since := s.clk.cycle, errSince := none }

/-- The FAULT report that the frame of this tick carries: one reached before it (06 R161). -/
def State.startFaulted (s : State) (o : Outlet) : Bool :=
  (s.reg.start.get o).st = .fault && decide ((s.reg.start.get o).since < s.clk.cycle)

/-- CLEAR (06 R161). -/
def State.clearUp (o : Outlet) (s : State) : State :=
  match (s.reg.start.get o).st with
  | .fault => s.modStart o fun x => { x with st := .off, attempt := 0, since := s.clk.cycle }
  | _ => s

/-- The record that a session runs on, after the replacements of 07 R174 (band cap, export flags) and R181 (host cap). -/
def State.effRecord (s : State) (o : Outlet) : Demand :=
  let r := (s.jn.get o).good.getD .zero
  let band : BandCfg := match s.cfg.active.bands with
    | some b => if h : r.band.toNat < 16 then b.get ⟨r.band.toNat, h⟩ else ⟨0, false, false⟩
    | none => ⟨BitVec.allOnes 32, true, true⟩
  let expOk := band.exportOk && (match s.outCfg o with | some c => c.exportOk | none => false)
  let cap := (s.out.get o).hostCap
  let least := fun (x : Word) => if x.toNat ≤ cap.toNat then x else cap
  { r with gmin := if !band.gminOk then 0 else if r.gmin.toNat ≤ band.cap.toNat then r.gmin else band.cap,
           maxExpI := if expOk then r.maxExpI else 0,
           maxExpP := least (if expOk then r.maxExpP else 0),
           maxImpP := least r.maxImpP }

/-- The coincident target: the vehicle-side channel at 50 V or more, otherwise the record's target voltage, 0.1 V
(06 R162). -/
def State.vTarget (s : State) (o : Outlet) : Nat :=
  let x := s.out.get o
  if 500 ≤ x.vv then x.vv.toNat else (s.effRecord o).targetV.toNat

/-- The ratiometric reference at a cycle, as a number of 0.1 V and the divisor that it is over (06 R163). -/
def ratioRef (vcc rampMs t0 now : Nat) : Nat × Nat :=
  if ms rampMs = 0 then (vcc, 1) else (200 * ms rampMs + (vcc - 200) * min (ms rampMs) (now - t0), ms rampMs)

/-- The error counted in R161: |v - r(t)| above 0.05 V_cc. -/
def ratioError (v : Int) (vcc rampMs t0 now : Nat) : Bool :=
  let (r, d) := ratioRef vcc rampMs t0 now
  decide (vcc * d < (v * d - r).natAbs * 20)

/-- The reference of the output-voltage loop, mV: the probe's 10 V per ms in RAMP, the precharge ramp from 20 V toward v_b in coincident
tracking, r(t) in ratiometric tracking (06 R161-R163). -/
def State.startRef (s : State) (o : Outlet) : Nat :=
  let x := s.reg.start.get o
  let h := s.cfg.active.hdr
  match x.st with
  | .ramp => 10000 * (s.clk.cycle - x.since) / ms 1
  | .track | .matched =>
    if x.ratiometric then let (r, d) := ratioRef x.target h.checkRampMs x.t0 s.clk.cycle; r * 100 / d
    else min (s.vTarget o * 100) (20000 + h.prechargeRamp * 1000 * (s.clk.cycle - x.t0) / ms 1)
  | _ => x.ref

/-- Whether the ratiometric error has been held for 10 ms (06 R161). -/
def StartM.errDue (x : StartM) (cycle : Nat) : Bool :=
  x.st = .track && x.ratiometric && (match x.errSince with | some t => decide (t + ms 10 ≤ cycle) | none => false)

/-- The ratiometric error at this instant, and `TRACK_ERROR` once it has been held for 10 ms (06 R161, R163). -/
def State.trackError (o : Outlet) (s : State) : State :=
  let err := ratioError (s.out.get o).vs (s.reg.start.get o).target s.cfg.active.hdr.checkRampMs (s.reg.start.get o).t0 s.clk.cycle
  s.modStart o fun x =>
    let y := { x with errSince := if err then x.errSince <|> some s.clk.cycle else none }
    { y with trackError := y.trackError || y.errDue s.clk.cycle }

/-- The machine fails: codes 0, EN cleared (06 R161). -/
def State.startFault (o : Outlet) (s : State) : State :=
  ((s.zeroCodes o).disableGroup o).modStart o fun x => { x with st := .fault, attempt := 0, since := s.clk.cycle }

/-- In RAMP, TRACK and MATCHED the start-up clamp is written and the peak command comes from the control image, whose law is open: a free value
(log entry 4); after an unplug the codes stay 0 (06 R161; 07 R184). -/
def State.steer (o : Outlet) (s : State) : State :=
  let s := s.modStart o fun x => { x with ref := s.startRef o }
  if (s.out.get o).unplugAt.isSome then s
  else
    ((s.group o).foldl (fun u n =>
      u.modCode n fun c => { c with peak := BitVec.ofNat 12 (Config.freeNat s.free) }) (s.startClamps o)).useFree

/-- The start-up machine at a tick (06 R161), evaluated after the session machine. -/
def State.startTick (o : Outlet) (s : State) : State :=
  let x := s.reg.start.get o
  let v := (s.out.get o).vs
  let vb : Int := s.vTarget o
  let good := decide ((v - vb).natAbs * 50 ≤ vb.toNat)
  match x.st with
  | .off | .fault => s
  | _ =>
    if s.mOf o = 0 then s.startFault o
    else match x.st with
    | .ramp =>
      (if 100 ≤ v then s.modStart o fun x => { x with st := .track, since := s.clk.cycle, t0 := s.clk.cycle, matchRun := 0, errSince := none }
       else s).steer o
    | .track =>
      if x.ratiometric then (s.trackError o).steer o
      else
        let run := if good then x.matchRun + 1 else 0
        (s.modStart o fun x =>
          { x with matchRun := run, st := if 5 ≤ run then .matched else .track, since := if 5 ≤ run then s.clk.cycle else x.since }).steer o
    | .matched =>
      (if good then s else s.modStart o fun x => { x with st := .track, matchRun := 0, since := s.clk.cycle }).steer o
    | _ => s

/-! ### Grant records (01 R28, R526) -/

/-- Fallback share in force: RAMP, FALLBACK or DIVERGENT (03 R88). -/
def State.fallbackInForce (s : State) : Bool := s.alc.st == .ramp || s.alc.st == .fallback || s.alc.st == .divergent

/-- The direction of a grant record's limits (01 R526). The manual gives none for mode 0 outside ENERGY and STOPPING: import,
DESIGN CHOICE (log entry 138); both limits of an admitted record are then those of import. -/
def State.grantExport (s : State) (o : Outlet) : Bool :=
  let x := s.out.get o
  if x.st = .energy || x.st = .stopping then x.exporting else ((s.jn.get o).latched.getD .zero).mode == 2

/-- The current limit of 01 R526 and 07 R182 without the record's own current. -/
def State.grantCurrent (s : State) (o : Outlet) (exporting : Bool) : Nat :=
  let p := if exporting then s.alc.expGrant.get o else s.alc.impGrant.get o
  min (p * 10000 / s.vStage o) (min (s.maxCurrent o exporting) (min (s.rated o) (s.featherCurrent o exporting)))

/-- i_lim of 07 R182. -/
def State.limitOf (s : State) (o : Outlet) : Nat :=
  let x := s.out.get o
  let r := s.effRecord o
  min (s.grantCurrent o x.exporting) (if x.exporting then r.maxExpI.toNat else r.maxImpI.toNat)

/-- CLOSED: hand over to the outlet current loop; i_lim is formed, and each clamp of the group is written directly with it (06 R161;
07 R182). -/
def State.closedUp (o : Outlet) (s : State) : State :=
  match (s.reg.start.get o).st with
  | .matched =>
    let s1 := (s.modStart o fun x => { x with st := .run, since := s.clk.cycle }).modOut o fun x => { x with ilim := s.limitOf o }
    (s.group o).foldl (fun t n => t.modCode n fun c => { c with inForce := s.clampFor o n (s.limitOf o) (s.mOf o) }) s1
  | _ => s

/-- The grant record (01 R28, R526). -/
def State.grantRecord (s : State) (o : Outlet) : Grant :=
  let x := s.out.get o
  let r := (s.jn.get o).latched.getD .zero
  let dir := s.grantExport o
  let zero := x.grantStatus != 0 || r.session == 0
  let cur := let c := s.grantCurrent o dir; if x.st = .stopping then min c x.ilim else c
  let volt := match s.outCfg o with | some c => min r.maxV.toNat c.maxV | none => 0
  { seq := r.seq, session := r.session, round := BitVec.ofNat 64 s.alc.round,
    impP := clampU 32 (s.alc.impGrant.get o), expP := clampU 32 (s.alc.expGrant.get o),
    curLimit := if zero then 0 else clampU 16 cur, voltLimit := if zero then 0 else clampU 16 volt,
    status := x.grantStatus.setWidth 8, phases := BitVec.ofNat 8 (s.groupSize o),
    flags := (if s.fallbackInForce then 1 else 0) ||| (if (s.thm.phi.get o).toNat < 1000 then 2 else 0) }

def State.writeGrant (o : Outlet) (s : State) : State := s.modJn o fun j => { j with grant := s.grantRecord o }

/-! ### Retirement (06 R166) -/

/-- The start-up machine holds the clamps of its outlet's group (06 R161). -/
def StartM.clamping (x : StartM) : Bool := x.st = .ramp || x.st = .track || x.st = .matched

/-- The limits of an outlet whose m has changed: i_lim, the clamps in force, written directly, and the interleave (06 R158,
R161, R166; 07 R190). A pending clamp becomes the lesser of itself and the new one (06 R170). -/
def State.relimit (o : Outlet) (s : State) : State :=
  let s1 := s.modOut o fun x => { x with ilim := min x.ilim (s.rated o) }
  let il := (s1.out.get o).ilim
  let s2 := if (s1.reg.start.get o).clamping then s1.startClamps o
    else (s1.group o).foldl (fun t n =>
      t.modCode n fun c =>
        let k := s1.clampFor o n il (s1.mOf o)
        { c with inForce := k, shadow := if c.shadowSet && decide (k.toNat < c.shadow.toNat) then k else c.shadow }) s1
  s2.interleave o

/-- The group of an outlet runs, apart from a phase. -/
def State.groupRuns (s : State) (o : Outlet) (n : Phase) : Bool := (s.group o).any fun k => k != n && (s.pwm.ch.get k).running

/-- A phase that comes to count in a running group is enabled in the group's direction, the limits and the interleave follow, and its channel is
started (06 R158; 07 R190 step 5). DEDUCED (log entry 163): the group commit of R135 wants EN set on every channel that it names, and a channel
that does not run carries nothing; its start instant is its own, since the group's runs on. -/
def State.joinGroup (o : Outlet) (n : Phase) (s : State) : State :=
  if !s.groupRuns o n then s.relimit o
  else
    let dir := (s.out.get o).exporting
    let s1 := if (s.reg.ch.get n).dir != dir then (s.pwmDisable n).modRegCh n fun c => { c with dir := dir } else s
    let s2 := (s1.enablePhase n).relimit o
    if (s2.pwm.ch.get n).running then s2
    else ((s2.runTo (cycleOfTaps (s2.taps + cutoffTaps))).modCh n PwmCh.transfer).gatedStart (bit 24 n.val)

/-- The outlet of a retired phase, of which it counted m before, loses it: limits, both grants, grant record (06 R166, R170). -/
def State.afterLoss (o : Outlet) (m : Nat) (s : State) : State :=
  let pr := s.cfg.active.phaseRating
  let k := s.lne.tick
  let s := s.modOut o fun x => { x with loss := match x.loss with | some (j, n) => if j = k then some (j, n) else some (k, m) | none => some (k, m) }
  ((s.modAlc fun a => { a with impGrant := vmod a.impGrant o (· - pr), expGrant := vmod a.expGrant o (· - pr) }).relimit o).writeGrant o

/-- The matrix hardware blocks every change of a drive of a phase whose PWM channel is running and not commutation-masked (07 R191). DEDUCED
(log entry 165): it blocks the change of a drive, so that no matrix contact is switched with current flowing. -/
def State.matrixBlocked (s : State) (n : Phase) : Bool := (s.pwm.ch.get n).running && !(s.pwm.ch.get n).commMasked

/-- A phase in transit that is retired: the move ends, its contactor that is driven closed is opened (07 R194). -/
def State.endMove (n : Phase) (s : State) : State :=
  match s.mtx.move.get n with
  | none => s
  | some _ =>
    let mask := (s.cfg.active.matrix.zip (List.range 64)).foldl
      (fun w ek => if ek.1.phase = n then w ||| bit 64 ek.2 else w) (0 : BitVec 64)
    s.modMtx fun m =>
      { m with move := vmod m.move n fun _ => none, assigned := vmod m.assigned n fun _ => none,
               drv := if s.matrixBlocked n then m.drv else m.drv &&& ~~~ mask }

/-- Retire a phase: cause 1 open, 2 sense, 3 overcurrent, 4 heat-sink (06 R166; 21 R487 code 0x45); 5 is a matrix weld
(07 R190), for which the record's cause is not given: a free value (log entry 4). A heat-sink shutdown counts the phase out
without the retired bit (06 R168). Only a phase that still counted is lost to its outlet. -/
def State.retire (n : Phase) (cause : Nat) (s : State) : State :=
  let h := s.holder n
  let c := s.reg.ch.get n
  let s1 := ((s.modCode n fun c =>
    { c with retired := c.retired || cause != 4, shutCounted := c.shutCounted || cause == 4, inForce := 0,
             shadowSet := false, detOpen := false, detSense := false }).endMove n)
  let s2 := match cause with
    | 1 => s1.raise (.reg n) 0
    | 2 => s1.raise (.reg n) 1
    | 3 => s1.raise (.reg n) 7
    | _ => s1
  let s3 := s2.journal 10 0x45 n.val (if cause = 5 then Config.freeNat s.free else cause)
    (match h with | some o => o.val | none => 255) 0
  let s4 := ((if cause = 5 then s3.useFree else s3).applyMasks n).dropGates
  match h with
  | some o => if c.retired || c.shutCounted then s4 else s4.afterLoss o (s.mOf o)
  | none => s4

/-! ### Readiness (20 R473, R474) -/

/-- The home contactors have settled: no closing of a home contactor is in progress once the control plane is ready
(07 R175; 20 R474). -/
def State.homeSettled (s : State) : Bool :=
  s.pwr.controlReady && (List.finRange 24).all fun n => match s.mtx.move.get n with | some v => !v.homing | none => true

/-- `HOME` and `READY` are set once their conditions hold (20 R474, R483). -/
def State.checkReady (s : State) : State :=
  let s1 := if s.homeSettled then s.modPwr fun p => { p with home := true } else s
  let p := s1.pwr
  if p.home && p.legalReady && p.controlReady && p.dataReady && !p.ready then
    (s1.modPwr fun p =>
      { p with ready := true, readyMs := clampU 16 ((s.clk.cycle - p.resetAt) / ms 1) }).raise .pwr 3
  else s1

end Sys2Proof.Machine
end

