-- ==== Sys2Proof/Machine/Regulation.lean ====
section
/-! DEFINITION. Phase regulation: the clamp transfer, direction, restoring a phase, overcurrent, the timers of the start-up
machine (06; 10 R247). -/
namespace Sys2Proof.Machine

/-- REG block offsets (06 R172). -/
def regOff (n : Phase) (reg : Nat) : Nat := 0x24000 + n.val * 0x40 + reg

/-- The number of the next control tick (11 R272; 01 R25): the first tick start at or after now that has not been latched. -/
def State.nextTick (s : State) : Nat :=
  max (ceilDiv s.now Config.tickNs) (if s.lne.ticked then s.lne.tick + 1 else 0)

/-- Every phase whose shadow was written since the last transfer moves it into force in one cycle (06 R155); `late` sets
`LATE_APPLY` at each of them. -/
def State.transferClamps (late : Bool) (s : State) : State :=
  (s.forAll fun (n : Phase) t =>
    if !(t.reg.ch.get n).shadowSet then t
    else
      let t1 := t.modCode n fun c => { c with inForce := c.shadow, shadowSet := false }
      if late then t1.raise (.reg n) 5 else t1).modReg fun r => { r with armed := false }

/-- CLAMP_TRANSFER (06 R155). -/
def execClampTransfer (s : State) : Host.Outcome State Fault Refusal :=
  s.live fun s => (if s.reg.armed then (s.runToFleet s.reg.applyTime.toNat).transferClamps false else s)

/-- REG_APPLY_ARM: the write of `REG_APPLY_TIME_HI` arms, or transfers at once where the time has passed (06 R155). -/
def execRegApplyArm (m : Master) (w : Word) (s : State) : Host.Outcome State Fault Refusal :=
  s.live fun s => (s.guardedWrite m s.pwr.controlReady true (s.laneOrPf0 m) 0x24804 fun t =>
    let t1 := t.modReg fun r => { r with applyTime := setHi r.applyTime w, armed := true }
    if t1.reg.applyTime.toNat ≤ t1.now then t1.transferClamps true else t1)

/-- The effect of a write to `REG[n]_CTRL` (06 R148, R153): `DIR` changes only while the PWM channel is not running. The driving lane's
(`lane`) setting of `EN` is gated (11 R274). -/
def State.regCtrl (lane : Bool) (n : Phase) (w : Word) (s : State) : State :=
  let gate := lane && w.getLsbD 0 && !(s.reg.ch.get n).en
  let s1 := (s.modRegCh n fun c => { c with en := w.getLsbD 0 && !gate, slopeAuto := w.getLsbD 2 }).cond gate (·.gatedRegEn n)
  let s2 := if w.getLsbD 1 = (s1.reg.ch.get n).dir then s1
    else if (s1.pwm.ch.get n).running then s1.raise (.reg n) 4
    else s1.modRegCh n fun c => { c with dir := w.getLsbD 1 }
  s2.holdLow n

/-- REG_CTRL_WRITE (06 R153, R171). -/
def execRegCtrlWrite (m : Master) (n : Phase) (w : Word) (s : State) : Host.Outcome State Fault Refusal :=
  s.live fun s => (s.guardedWrite m s.pwr.controlReady (s.hasPhase n) (s.laneOrPf0 m) (regOff n 0) (·.regCtrl (m == .lane) n w))

/-- Phase number of a descriptor's target, where it is one. -/
def phaseOf (t : Word) : Option Phase := if h : t.toNat < 24 then some ⟨t.toNat, h⟩ else none

/-- REG_PHASE_RESTORE is refused where the phase is not retired, or belongs to the stage group of an outlet with a session
(06 R167). -/
def State.refPhaseRestore (s : State) (n : Phase) : Bool :=
  !(s.reg.ch.get n).retired ||
  (match s.mtx.assigned.get n with | some o => (s.out.get o).st.inSession | none => false)

/-- A phase counts in its group again: the limits and the interleave of its outlet follow (06 R158, R167, R168); a mask whose condition
has gone is released at once on a channel that does not run (05 R139). -/
def State.phaseBack (n : Phase) (s : State) : State :=
  let t := s.restMasks n
  match t.holder n with | some o => t.joinGroup o n | none => t

/-- The phase returns at the next control tick (06 R167; 10 R247). -/
def State.restorePhase (n : Phase) (s : State) : State :=
  (((s.runToFleet (s.nextTick * Config.tickNs)).modRegCh n fun c =>
    { c with retired := false, detOpen := false, detSense := false, runMeans := [], tripMeans := [] }).modSaf fun f =>
      { f with overcurrent := f.overcurrent &&& ~~~ bit 24 n.val }).phaseBack n

/-- REG_PHASE_RESTORE (06 R167). -/
def execRegPhaseRestore (r : Ring) (d : Desc) (s : State) : Host.Outcome State Fault Refusal :=
  .next (s.work r d fun t =>
    match phaseOf d.target with
    | some n => (t.restorePhase n).complete r d.seq 0 0
    | none => t.complete r d.seq 0 0)

/-- A code at an end of the sense sampler's range (06 R154, 10 R247). -/
def saturated (x : Int) : Bool := decide (x.natAbs = 2047)

/-- OVERCURRENT: `a` and `b` are two consecutive codes of the sense sampler; when both are at an end of its range, GATE_EN goes low, the
bit in `SAF_OVERCURRENT` is set, the phase is retired (10 R247). The sampler reads only while the channel runs (06 R154). -/
def execOvercurrent (n : Phase) (a b : Int) (s : State) : Host.Outcome State Fault Refusal :=
  s.live fun s => (
    if !(saturated a && saturated b) || !s.hasPhase n || !(s.pwm.ch.get n).running || s.saf.overcurrent.getLsbD n.val then s
    else
      let s1 := ((s.modSaf fun f =>
        { f with overcurrent := f.overcurrent ||| bit 24 n.val }).dropGates).raiseAt .saf 11 n.val 0 0
      if (s1.reg.ch.get n).retired then s1.raise (.reg n) 7 else s1.retire n 3)

/-! ### Timers of the start-up machine (06 R161, R163) -/

/-- TRACK_ERROR: 10 ms after the onset of the error of 06 R163 it is evaluated, and has then been held that long. -/
def execTrackError (o : Outlet) (s : State) : Host.Outcome State Fault Refusal :=
  s.live fun s =>
    let x := s.reg.start.get o
    match x.errSince with
    | some t => if x.st = .track && x.ratiometric then (s.runTo (t + ms 10)).trackError o else s
    | none => s

/-- RAMP below 10 V for 2 ms: PAUSE, or FAULT at the fourth attempt (06 R161). -/
def State.rampAbort (o : Outlet) (s : State) : State :=
  let x := s.reg.start.get o
  if x.st = .ramp && decide (x.since + ms 2 ≤ s.clk.cycle) && decide ((s.out.get o).vs < 100) then
    ((s.zeroCodes o).disableGroup o).modStart o fun x =>
      { x with st := if x.attempt < 4 then .pause else .fault, since := s.clk.cycle }
  else s

/-- RAMP_TIMEOUT. -/
def execRampTimeout (o : Outlet) (s : State) : Host.Outcome State Fault Refusal :=
  s.live fun s => (if (s.reg.start.get o).st = .ramp then (s.runTo ((s.reg.start.get o).since + ms 2)).rampAbort o else s)

/-- PAUSE for 500 ms: RAMP again (06 R161). -/
def State.pauseEnd (o : Outlet) (s : State) : State :=
  let x := s.reg.start.get o
  if x.st = .pause && decide (x.since + ms 500 ≤ s.clk.cycle) && decide (0 < s.mOf o) then
    s.enterRamp o (x.attempt + 1)
  else s

/-- PAUSE_TIMEOUT. -/
def execPauseTimeout (o : Outlet) (s : State) : Host.Outcome State Fault Refusal :=
  s.live fun s => (if (s.reg.start.get o).st = .pause then (s.runTo ((s.reg.start.get o).since + ms 500)).pauseEnd o else s)

end Sys2Proof.Machine
end

