-- ==== Sys2Proof/Machine/Outlets.lean ====
section
/-! DEFINITION. Outlets: the pilot, the session machine, admission, stage-group moves, reversals and the session commands
(07; 01 R23-R27). -/
namespace Sys2Proof.Machine

/-! ### Pilot classes (07 R179) -/

def plugDetected (kind : BitVec 2) (cls : BitVec 3) : Bool :=
  if kind = 0 then cls == 1 || cls == 2 || cls == 3 else if kind = 1 then cls == 1 || cls == 2 else cls == 1
def allowsEnergy (kind : BitVec 2) (cls : BitVec 3) : Bool :=
  if kind = 0 then cls == 2 || cls == 3 else if kind = 1 then cls == 2 else cls == 1
def pilotError (kind : BitVec 2) (cls : BitVec 3) : Bool :=
  if kind = 0 then cls == 4 || cls == 5 || cls == 6 else if kind = 1 then cls == 3 else false
/-- The classes that a kind has (07 R198). -/
def classExists (kind : BitVec 2) (cls : BitVec 3) : Bool :=
  if kind = 0 then cls != 7 else if kind = 1 then decide (cls.toNat ≤ 3) else decide (cls.toNat ≤ 1)

def State.plugged (s : State) (o : Outlet) : Bool :=
  match s.outCfg o with | some c => plugDetected c.kind (s.out.get o).cls | none => false
def State.allows (s : State) (o : Outlet) : Bool :=
  match s.outCfg o with | some c => allowsEnergy c.kind (s.out.get o).cls | none => false
/-- End reason of an unplug or pilot error, 0 while neither holds (07 R179, R184). -/
def State.unplugReason (s : State) (o : Outlet) : Nat :=
  match s.outCfg o with
  | some c => if pilotError c.kind (s.out.get o).cls then 15 else if (s.out.get o).cls = 0 then 4 else 0
  | none => 0

/-! ### Transitions of the session machine (07 R184, R187) -/

/-- A transition with its grant record (07 R196; 01 R28). -/
def State.go (o : Outlet) (st : OutState) (s : State) : State := (s.enter o st).writeGrant o

/-- The session ends: end reason, session end event, next state with the journal record of the session, then its ID is gone (07 R184, R187). -/
def State.finish (o : Outlet) (st : OutState) (reason : Nat) (s : State) : State :=
  (((((s.writeEnd o reason).endEvent o).enter o st).endSession o).writeGrant o)

/-- Entry into FAULT with its reason: effective codes 0, contactors commanded open, start-up stopped (07 R184). -/
def State.toFault (o : Outlet) (reason : Nat) (s : State) : State :=
  ((((((s.zeroCodes o).stopUp o).laneOpen o).modOut o fun x => { x with cntFault := satInc x.cntFault }).raise (.out o) 4).finish o .fault reason)

/-- Entry into STOPPING (07 R182, R184); after an unplug the effective codes are 0 at once. -/
def State.toStopping (o : Outlet) (reason : Nat) (s : State) : State :=
  let un := reason == 4 || reason == 15
  let s1 := s.modOut o fun x =>
    { x with reason := BitVec.ofNat 8 reason, rampFrom := x.ilim, unplugAt := if un then some s.clk.cycle else none, rev := false }
  (if un then s1.zeroCodes o else s1).go o .stopping

/-- Entry into OFF. -/
def State.toOff (o : Outlet) (s : State) : State :=
  (s.modOut o fun x => { x with disNow := false, disablePending := false, rampLimit := none }).go o .off

/-- The group's direction is written while its channels are stopped, and the group is started again (07 R193 steps 2-4). -/
def State.redirect (o : Outlet) (exporting : Bool) (s : State) : State :=
  let s1 := s.disableGroup o
  let s2 := s1.forAll fun (n : Phase) t =>
    if s1.holder n = some o then t.modRegCh n fun c => { c with dir := exporting } else t
  s2.startGroup o

/-- Both feedbacks closed in CLOSING: ENERGY, a session start event (07 R184, R187). A mode 2 session starts in export
(07 R193). -/
def State.toEnergy (o : Outlet) (s : State) : State :=
  let s1 := (s.closedUp o).modOut o fun x => { x with cntSessions := satInc x.cntSessions, oppositeRun := 0, rev := false, revAt := none }
  let s2 := if (s1.out.get o).exporting then s1.redirect o true else s1
  ((s2.raise (.out o) 2).signalMet o true (s2.out.get o).session 0).go o .energy

/-- The orderly stop ramp: the configured value or the bound in force (07 R173; 09 R229; 20 R476). -/
def State.stopRamp (s : State) (o : Outlet) : Nat :=
  let c := match s.outCfg o with | some c => c.stopMs | none => 0
  match (s.out.get o).rampLimit with | some k => min c k | none => c

/-- Every fitted outlet not in OFF receives the effect of `OUT_DISABLE` 'now' with a bound in ms on its stop ramp
(09 R229; 11 R282; 20 R476). -/
def State.stopAllOutlets (limit : Nat) (s : State) : State :=
  s.forAll fun (o : Outlet) t =>
    if (t.outCfg o).isSome && (t.out.get o).st != .off then
      t.modOut o fun x =>
        { x with disNow := true, rampLimit := some (match x.rampLimit with | some k => min k limit | none => limit) }
    else t

/-- Every fitted outlet is in OFF or FAULT. -/
def State.allStopped (s : State) : Bool :=
  (List.finRange 8).all fun o => (s.outCfg o).isNone || (s.out.get o).st == .off || (s.out.get o).st == .fault

/-- `EN` of every phase channel is cleared (09 R229; 11 R282). -/
def State.clearAllEn (s : State) : State :=
  s.forAll fun (n : Phase) t => if (t.pwm.ch.get n).en then t.pwmDisable n else t

/-! ### Single rows of the session machine -/

/-- STOPPING ends: start-up stopped, contactors driven open (07 R184). -/
def State.stopDue (s : State) (o : Outlet) : Nat :=
  let x := s.out.get o
  let d := x.since + ms (s.stopRamp o + 20)
  match x.unplugAt with | some t => min d (t + ms 10) | none => d

def State.stopEnd (o : Outlet) (s : State) : State :=
  let x := s.out.get o
  if x.st = .stopping && (decide (x.cur.natAbs ≤ 50) || decide (s.stopDue o ≤ s.clk.cycle)) then
    (((s.stopUp o).laneOpen o).modOut o fun x =>
      { x with openUnderLoad := decide (50 < x.cur.natAbs), weldUnverified := false, weldSince := none, vvSeen := false, ilim := 0 }).go o .opening
  else s

/-- STOP_RAMP_END (07 R184). -/
def execStopRampEnd (o : Outlet) (s : State) : Host.Outcome State Fault Refusal :=
  s.live fun s => (
    if (s.out.get o).st = .stopping then
      (if (s.out.get o).cur.natAbs ≤ 50 then s else s.runTo (s.stopDue o)).stopEnd o
    else s)

/-- Feedbacks both closed in CLOSING, both open in OPENING (07 R184). -/
def State.feedbackAct (o : Outlet) (s : State) : State :=
  match (s.out.get o).st with
  | .closing => if s.bothClosed o then s.toEnergy o else s
  | .opening => if s.bothOpen o then s.go o .weldCheck else s
  | _ => s

/-- CONTACTOR_FEEDBACK: the levels of the force-guided feedbacks change. -/
def execContactorFeedback (o : Outlet) (plus minus : Bool) (s : State) : Host.Outcome State Fault Refusal :=
  s.live fun s => (
    if !s.hasOutlet o then s
    else (s.modSaf fun f =>
      { f with fbp := if plus then f.fbp ||| bit 8 o.val else f.fbp &&& ~~~ bit 8 o.val,
               fbm := if minus then f.fbm ||| bit 8 o.val else f.fbm &&& ~~~ bit 8 o.val }).feedbackAct o)

/-- The feedback path: close-failure source, both drives low (10 R245). -/
def State.closeFail (o : Outlet) (s : State) : State :=
  (((s.modSaf fun f => { f with fbFaults := f.fbFaults ||| bit 8 o.val }).raiseAt .saf 16 o.val 0 0).raiseOut o 3).setDrives o false

/-- The contactor deadline in CLOSING or OPENING (07 R184). -/
def State.deadlineAct (o : Outlet) (s : State) : State :=
  match s.outCfg o with
  | none => s
  | some c =>
    let x := s.out.get o
    if s.clk.cycle < x.since + ms c.deadlineMs then s
    else match x.st with
      | .closing => (s.toFault o 9).closeFail o
      | .opening => (s.toFault o 10).weldPath o
      | _ => s

/-- CONTACTOR_DEADLINE. -/
def execContactorDeadline (o : Outlet) (s : State) : Host.Outcome State Fault Refusal :=
  s.live fun s => (
    let x := s.out.get o
    match s.outCfg o with
    | some c => if x.st = .closing || x.st = .opening then (s.runTo (x.since + ms c.deadlineMs)).deadlineAct o else s
    | none => s)

/-- The outcomes of the weld check that the present voltages give (07 R186); voltages in 0.1 V. -/
def State.weldPass (s : State) (o : Outlet) : Bool :=
  let x := s.out.get o
  decide (x.vs < 600) && (decide (600 ≤ x.vv) || !x.vvSeen)
def State.weldLike (s : State) (o : Outlet) : Bool :=
  let x := s.out.get o
  decide (600 ≤ x.vv) && decide ((x.vs - x.vv).natAbs * 50 ≤ x.vv.toNat)

/-- The weld check passes, finds a weld or times out (07 R184, R186). -/
def State.weldAct (o : Outlet) (s : State) : State :=
  let x := s.out.get o
  if x.st ≠ .weldCheck then s
  else if s.weldPass o then
    let s1 := s.modOut o fun x => { x with weldUnverified := decide (x.vv < 600) }
    if x.reason = 8 then s1.toFault o 8 else s1.finish o .released x.reason.toNat
  else if (match x.weldSince with | some t => decide (t + ms 100 ≤ s.clk.cycle) | none => false) then
    (s.toFault o 10).weldPath o
  else if x.since + ms 2000 ≤ s.clk.cycle then (s.toFault o 14).weldPath o
  else s

/-- What a tick of the weld check notes of its voltages. -/
def State.weldNote (o : Outlet) (s : State) : State :=
  if (s.out.get o).st ≠ .weldCheck then s
  else
    let like := s.weldLike o
    s.modOut o fun x =>
      { x with vvSeen := x.vvSeen || decide (600 ≤ x.vv),
               weldSince := if like then x.weldSince <|> some s.clk.cycle else none }

/-- WELD_CHECK: a pass at once, or a weld once the voltages have agreed for 100 ms. -/
def execWeldCheck (o : Outlet) (s : State) : Host.Outcome State Fault Refusal :=
  s.live fun s => (
    let s := s.weldNote o
    if !s.pwr.controlReady then s
    else if s.weldPass o then s.weldAct o
    else match (s.out.get o).weldSince with
      | some t => (s.runTo (t + ms 100)).weldAct o
      | none => s)

/-- WELD_CHECK_TIMEOUT. -/
def execWeldCheckTimeout (o : Outlet) (s : State) : Host.Outcome State Fault Refusal :=
  s.live fun s => (if s.pwr.controlReady && (s.out.get o).st = .weldCheck then (s.runTo ((s.out.get o).since + ms 2000)).weldAct o else s)

/-! ### Cable check and precharge (07 R184, R185) -/

/-- Results of the insulation check at a tick. -/
inductive IsoResult where
  | pass | fail | between
deriving DecidableEq, Repr

/-- Insulation limits, Ω/V, with their defaults (07 R173). -/
def passLimit (c : OutletCfg) : Nat := if c.isoPass = 0 then 500 else c.isoPass
def faultLimit (c : OutletCfg) : Nat := if c.isoFault = 0 then 100 else c.isoFault

/-- The insulation reading in kΩ. -/
def State.isoReading (s : State) (o : Outlet) : Option Int :=
  match s.outCfg o with | some c => c.isoChan.bind s.hkVal | none => none

def State.isoResult (s : State) (o : Outlet) (c : OutletCfg) : IsoResult :=
  let x := s.out.get o
  if !x.imdLevel then .fail
  else match c.isoChan with
    | none => .pass
    | some _ => match s.isoReading o with
      | none => .between
      | some r =>
        if (passLimit c * x.vcc : Nat) ≤ r * 10000 then .pass
        else if r * 10000 < (faultLimit c * x.vcc : Nat) then .fail else .between

/-- A tick of the cable check hold: the hold starts at the first tick at or after t₀ + t_r; within it the insulation decides
(06 R163; 07 R185). -/
def State.cableTick (o : Outlet) (s : State) : State :=
  match s.outCfg o with
  | none => s
  | some c =>
    let m := s.reg.start.get o
    let s1 := if m.st = .track && (s.out.get o).holdAt.isNone && decide (m.t0 + ms s.cfg.active.hdr.checkRampMs ≤ s.clk.cycle)
      then s.modOut o fun x => { x with holdAt := some s.clk.cycle } else s
    match (s1.out.get o).holdAt with
    | none => s1
    | some h =>
      if h + ms c.holdMs ≤ s1.clk.cycle then s1
      else match s1.isoResult o c with
        | .fail => s1.toFault o 5
        | r =>
          let warn := r = .between && s1.isoReading o != none && !(s1.out.get o).isoWarn
          let s2 := if warn then (s1.modOut o fun x => { x with isoWarn := true }).raise (.out o) 5 else s1
          if r = .between && decide (h + ms c.holdMs ≤ s2.clk.cycle + ms c.holdMs / 5) then
            s2.modOut o fun x => { x with isoGood := false } else s2

/-- The end of the hold decides the cable check; no outcome leaves it to its timeout (07 R184, R185). -/
def State.cableDone (o : Outlet) (s : State) : State :=
  match s.outCfg o, (s.out.get o).holdAt with
  | some c, some h =>
    if (s.out.get o).st ≠ .cableCheck || decide (s.clk.cycle < h + ms c.holdMs) then s
    else if (s.reg.start.get o).trackError then s.toFault o 6
    else if (s.out.get o).isoGood then (s.stopUp o).go o .precharge
    else s
  | _, _ => s

/-- CABLE_CHECK_DONE. -/
def execCableCheckDone (o : Outlet) (s : State) : Host.Outcome State Fault Refusal :=
  s.live fun s => (match s.outCfg o, (s.out.get o).holdAt with
    | some c, some h => if (s.out.get o).st = .cableCheck then (s.runTo (h + ms c.holdMs)).cableDone o else s
    | _, _ => s)

/-- Ramp, hold and 2 s have elapsed in CABLE_CHECK (07 R184). -/
def State.cableLimit (s : State) (o : Outlet) (c : OutletCfg) : Nat :=
  (s.out.get o).since + ms (s.cfg.active.hdr.checkRampMs + c.holdMs + 2000)

def State.cableTimeout (o : Outlet) (s : State) : State :=
  match s.outCfg o with
  | some c =>
    if (s.out.get o).st = .cableCheck && decide (s.cableLimit o c ≤ s.clk.cycle) then s.toFault o 6 else s
  | none => s

/-- CABLE_CHECK_TIMEOUT. -/
def execCableCheckTimeout (o : Outlet) (s : State) : Host.Outcome State Fault Refusal :=
  s.live fun s => (match s.outCfg o with
    | some c => if (s.out.get o).st = .cableCheck then (s.runTo (s.cableLimit o c)).cableTimeout o else s
    | none => s)

/-- The precharge timeout (07 R184). -/
def State.prechargeEnd (o : Outlet) (s : State) : State :=
  match s.outCfg o with
  | some c =>
    if (s.out.get o).st = .precharge && decide ((s.out.get o).since + ms c.prechargeMs ≤ s.clk.cycle) then
      (s.stopUp o).finish o .released 7 else s
  | none => s

/-- PRECHARGE_TIMEOUT. -/
def execPrechargeTimeout (o : Outlet) (s : State) : Host.Outcome State Fault Refusal :=
  s.live fun s => (match s.outCfg o with
    | some c => if (s.out.get o).st = .precharge then (s.runTo ((s.out.get o).since + ms c.prechargeMs)).prechargeEnd o else s
    | none => s)

/-- PRECHARGE: START coincident once the output lies below 60 V, CLOSING on MATCHED (07 R184). -/
def State.prechargeTick (o : Outlet) (s : State) : State :=
  let m := (s.reg.start.get o).st
  if m = .matched && s.allows o then (s.laneClose o).go o .closing
  else if m = .off && decide ((s.out.get o).vs < 600) && decide (500 ≤ s.vTarget o) then s.startUp o false (s.vTarget o)
  else s

/-! ### Admission (01 R24-R27; 07 R180, R184) -/

/-- Order 2 of 07 R180: the record is malformed for this outlet. -/
def State.malformed (s : State) (o : Outlet) (r : Demand) : Bool :=
  match s.outCfg o with
  | none => false
  | some c =>
    let x := s.out.get o
    r.session != 0 && r.mode != 0 &&
    (decide (3 < r.mode.toNat) || decide (15 < r.band.toNat) || decide (r.maxV.toNat < r.targetV.toNat) ||
      decide (c.maxV < r.maxV.toNat) || ((r.mode == 2 || r.mode == 3) && !c.exportOk) ||
      (x.st.inSession && r.session != x.session))

/-- The record has expired: no record that order 2 does not refuse has been latched for 500 ms (01 R27; 07 R180). -/
def State.recordOld (s : State) (o : Outlet) : Bool :=
  match (s.jn.get o).validAt with | some t => decide (t + 500000000 ≤ s.now) | none => false

/-- The grant status of 07 R180 for the latched record; 2 for an outlet that is not fitted (07 R173), and for every outlet while
`LEGAL_UP` is clear or a RETURN is pending (13 R341; 19 R449). -/
def State.statusOf (s : State) (o : Outlet) : BitVec 3 :=
  let x := s.out.get o
  match s.outCfg o, (s.jn.get o).latched with
  | none, _ => 2
  | some _, none => if !s.bil.legalUp || s.lcs.returnPending then 2 else x.grantStatus
  | some _, some r =>
    if !s.bil.legalUp || s.lcs.returnPending then 2
    else if s.recordOld o then 3
    else if r.session == 0 || r.mode == 0 then 0
    else if s.malformed o r then 4
    else if x.st = .off || x.st = .idle || x.st = .fault then 2
    else if s.alc.st = .divergent && x.fixedSession != some r.session then 1
    else 0

/-- The record that a latch in this cycle takes: the slot's, or, where its beat came in this very cycle, the one that it displaced
(01 R25). -/
def JnSt.taken (j : JnSt) (cycle : Nat) : Option Demand :=
  if !j.fresh then none else if j.arrived < cycle then some j.slot else j.displaced

/-- A record is latched: the session runs on it, and its validity is renewed, unless order 2 of 07 R180 refuses it; then it is counted
(01 R25, R27). -/
def State.latchRecord (o : Outlet) (d : Demand) (s : State) : State :=
  let bad := s.malformed o d
  let t := s.modJn o fun j =>
    { j with fresh := decide (s.clk.cycle ≤ j.arrived), displaced := none, latched := some d,
             good := if bad then j.good else some d, validAt := if bad then j.validAt else some s.now,
             expired := if bad then j.expired else false }
  if bad then (t.modOut o fun x => { x with cntMalformed := satInc x.cntMalformed }).raise (.out o) 9 else t

/-- The grant status of 07 R180 takes hold; a change of it writes the grant record (01 R28). -/
def State.setStatus (o : Outlet) (s : State) : State :=
  let st := s.statusOf o
  if st = (s.out.get o).grantStatus then s
  else (s.modOut o fun x => { x with grantStatus := st }).writeGrant o

/-- The tick latch of a demand slot and the grant status it gives (01 R25-R28; 07 R180). -/
def State.latchSlot (o : Outlet) (s : State) : State :=
  (match (s.jn.get o).taken s.clk.cycle with | none => s | some d => s.latchRecord o d).setStatus o

/-- RECORD_EXPIRED: 500 ms after the last record not refused under order 2 was latched (01 R27). -/
def execRecordExpired (o : Outlet) (s : State) : Host.Outcome State Fault Refusal :=
  s.live fun s => (match (s.jn.get o).validAt with
    | none => s
    | some t =>
      if s.pwr.controlReady && (s.outCfg o).isSome then
        ((s.runToFleet (t + 500000000)).modJn o fun j => { j with expired := true }).setStatus o
      else s)

/-- The beat of a demand record reaches the slot (01 R23, R25). -/
def State.demandBeat (o : Outlet) (d : Demand) (s : State) : State :=
  s.modJn o fun j =>
    { j with slot := d, fresh := true, arrived := s.clk.cycle,
             displaced := if j.fresh && decide (j.arrived < s.clk.cycle) then some j.slot else if j.fresh then j.displaced else none }

/-- DEMAND_WRITE: one aligned 32-byte write of one beat, otherwise discarded and counted; nothing is written while the data plane is
down, and the firewall drops and records a write of any other master (01 R14, R23, R32). -/
def execDemandWrite (m : Master) (o : Outlet) (len offset : Nat) (d : Demand) (s : State) : Host.Outcome State Fault Refusal :=
  s.live fun s => (s.transact m fun t =>
    if !t.hasOutlet o || !t.pwr.dataReady then t
    else if !m.demands then t.firewallDrop m (32 * o.val + offset) 0
    else if len = 32 && offset % 32 = 0 then t.demandBeat o d
    else t.modOut o fun x => { x with cntMalformed := satInc x.cntMalformed })

/-- The conditions under which a session is admitted in PLUGGED or RELEASED (07 R184). -/
def State.admits (s : State) (o : Outlet) : Bool :=
  let r := s.effRecord o
  let x := s.out.get o
  x.grantStatus == 0 && r.session != 0 && (r.mode == 1 || r.mode == 2 || r.mode == 3) && r.ready && !r.stop && r.session != x.lastEnded

/-- A session begins: CABLE_CHECK, ratiometric start-up to V_cc (07 R184). -/
def State.intoSession (o : Outlet) (s : State) : State :=
  match s.outCfg o with
  | none => s
  | some c =>
    let r := s.effRecord o
    let vcc := max 500 (min r.maxV.toNat c.maxV)
    ((s.modOut o fun x =>
      { x with session := r.session, vcc := vcc, holdAt := none, isoGood := true, isoWarn := false, exporting := r.mode == 2,
               unplugAt := none, stopNow := false, ilim := 0 }).go o .cableCheck).startUp o true vcc

/-- The first end cause of a running session, 0 when there is none (07 R184, R185). -/
def State.endCause (s : State) (o : Outlet) (energy : Bool) : Nat :=
  let x := s.out.get o
  if (s.effRecord o).stop then 1
  else if x.stopNow then 2
  else if x.grantStatus = 2 then 16
  else if x.grantStatus = 3 then 3
  else if energy && !s.allows o then 1
  else if x.disNow then 12
  else if energy && !x.imdLevel then 5
  else 0

/-! ### The outlet current limit (07 R182, R193) -/

/-- A ramp from a value to 0 over a time (07 R182, R193). -/
def rampDown (start len elapsed : Nat) : Nat := if len = 0 then 0 else start * (len - elapsed) / len

/-- i_lim at a tick. -/
def State.limitTick (o : Outlet) (s : State) : State :=
  let x := s.out.get o
  match x.st with
  | .energy =>
    let i := s.limitOf o
    let i := if x.rev then min i (rampDown x.rampFrom (ms 5) (s.clk.cycle - x.revSince)) else i
    s.modOut o fun x => { x with ilim := i }
  | .stopping =>
    s.modOut o fun x => { x with ilim := min x.ilim (rampDown x.rampFrom (ms (s.stopRamp o)) (s.clk.cycle - x.since)) }
  | _ => s

/-- The outer loop in ENERGY and STOPPING: i_cmd comes from the control image, whose law is open, a free value
(06 R528; log entry 4); each phase's peak command follows from it (06 R157). -/
def State.outerLoop (o : Outlet) (s : State) : State :=
  let x := s.out.get o
  if (x.st = .energy || x.st = .stopping) && (s.reg.start.get o).st = .run && x.unplugAt.isNone then
    let i := Config.freeNat s.free
    let m := s.mOf o
    ((s.group o).foldl (fun t n => t.modCode n fun c => { c with peak := s.codeFor o n i m })
      (s.modOut o fun x => { x with icmd := i })).useFree
  else s

/-! ### The machine at a tick (07 R184, R194) -/

def State.sessionTick (o : Outlet) (s : State) : State :=
  if (s.outCfg o).isNone then s
  else
    let x := s.out.get o
    let dis := x.disNow || x.disablePending
    let un := s.unplugReason o
    if x.st ≠ .off && x.st ≠ .fault && s.seoOut o then s.toFault o 11
    else match x.st with
    | .off | .fault => s
    | .idle => if dis then s.toOff o else if s.plugged o then s.go o .plugged else s
    | .plugged | .released =>
      if dis then s.toOff o else if un ≠ 0 then s.go o .idle else if s.admits o then s.intoSession o else s
    | .cableCheck | .precharge =>
      let c := s.endCause o false
      if un ≠ 0 then (s.stopUp o).finish o .idle un
      else if s.startFaulted o then s.toFault o 8
      else if c ≠ 0 then (s.stopUp o).finish o .released c
      else if x.st = .precharge then (s.prechargeTick o).prechargeEnd o
      else ((s.cableTick o).cableDone o).cableTimeout o
    | .closing =>
      if un ≠ 0 then s.toStopping o un
      else if !s.allows o then s.toStopping o 1
      else (s.feedbackAct o).deadlineAct o
    | .energy =>
      let c := s.endCause o true
      if un ≠ 0 then s.toStopping o un
      else if s.startFaulted o then
        ((s.modOut o fun x =>
          { x with reason := 8, openUnderLoad := false, weldUnverified := false, weldSince := none, vvSeen := false, ilim := 0, rev := false }).laneOpen o).go o .opening
      else if c ≠ 0 then s.toStopping o c
      else s
    | .stopping => s.stopEnd o
    | .opening => (s.feedbackAct o).deadlineAct o
    | .weldCheck => (s.weldNote o).weldAct o

/-- A pilot classification becomes the pilot state (07 R176-R179, R184, R194; 10 R242 permit). -/
def State.pilotTo (o : Outlet) (cls : BitVec 3) (s : State) : State :=
  match s.outCfg o with
  | none => s
  | some c =>
    let old := (s.out.get o).cls
    if !classExists c.kind cls || cls = old then s
    else
      let allow := allowsEnergy c.kind cls
      let gone := fun k => k == 0 || pilotError c.kind k
      let s1 := (s.modOut o fun x => { x with cls := cls }).modSaf fun f =>
        { f with permit := vmod f.permit o fun _ => allow,
                 permitSince := vmod f.permitSince o fun p => if allow then none else p <|> some s.clk.cycle }
      let s2 := if plugDetected c.kind cls && !plugDetected c.kind old then s1.raise (.out o) 0 else s1
      let s3 := if gone cls && !gone old then s2.raise (.out o) 1 else s2
      let un := s3.unplugReason o
      if !s3.pwr.controlReady then s3
      else match (s3.out.get o).st with
      | .idle => if plugDetected c.kind cls then s3.go o .plugged else s3
      | .plugged | .released => if un ≠ 0 then s3.go o .idle else s3
      | .cableCheck | .precharge => if un ≠ 0 then (s3.stopUp o).finish o .idle un else s3
      | .closing | .energy => if un ≠ 0 then s3.toStopping o un else if !allow then s3.toStopping o 1 else s3
      | _ => s3

/-- The class of a control-pilot voltage in mV under the ranges of IEC 61851-1: A, B, C, D, E at 12, 9, 6, 3, 0 V and F at -12 V, each ±1 V.
PRESUMED (log entry 164); between them the class is free. -/
def cpClass (v : Int) : Nat :=
  match ([(12000, 0), (9000, 1), (6000, 2), (3000, 3), (0, 4), (-12000, 5)] : List (Int × Nat)).find? fun r => decide ((v - r.1).natAbs ≤ 1000) with
  | some r => r.2
  | none => Config.cpBetween v % 6

/-- The control-pilot voltage that a reading of CP_SNS shows, both in mV: 1.50 V + v / 10 (23 R518). -/
def cpVolts (sns : Int) : Int := (sns - 1500) * 10

/-- The class of a measurement: of kind 0 by the high plateau, or the diode fault where 1 kHz is driven and the low plateau lies outside
-12 V ±1 V (07 R176); of kind 1 at the levels of SAE J3271 (R177); of kind 2 the level (R178). None for another kind's measurement. -/
def pilotClass (kind : BitVec 2) (pwm : Bool) : PilotSample → Option (BitVec 3)
  | .cp high low =>
    if kind ≠ 0 then none
    else if pwm && decide (1000 < (cpVolts low + 12000).natAbs) then some 6 else some (BitVec.ofNat 3 (cpClass (cpVolts high)))
  | .mcs loop id => if kind = 1 then some (BitVec.ofNat 3 (Config.mcsClass loop id % 4)) else none
  | .pltIn level => if kind = 2 then some (if level then 1 else 0) else none

/-- The outlet to which a pilot interface is wired, with its entry (07 R173). -/
def State.pilotOutlet (s : State) (i : Fin 8) : Option (Outlet × OutletCfg) :=
  (List.finRange 8).findSome? fun o => (s.outCfg o).bind fun c => if c.pilot = i then some (o, c) else none

/-- A classification; it becomes the pilot state after 3 consecutive equal results (07 R179). -/
def State.classify (o : Outlet) (x : PilotSample) (s : State) : State :=
  match s.outCfg o with
  | none => s
  | some c =>
    match pilotClass c.kind (s.out.get o).drivingPwm x with
    | none => s
    | some k =>
      let run := if (s.out.get o).pilotSeen = k then min 3 ((s.out.get o).pilotRun + 1) else 1
      let t := s.modOut o fun y => { y with pilotSeen := k, pilotRun := run }
      if run = 3 then t.pilotTo o k else t

/-- IMD_ALARM: the input goes low; in ENERGY the session ends with reason 5 (07 R185). -/
def execImdAlarm (o : Outlet) (s : State) : Host.Outcome State Fault Refusal :=
  s.live fun s => (
    if !s.hasOutlet o then s
    else
      let s1 := s.modOut o fun x => { x with imdLevel := false }
      if s1.pwr.controlReady && (s1.out.get o).st = .energy then s1.toStopping o 5 else s1)

/-! ### Reversal (07 R193) -/

/-- REVERSAL_CURRENT_ZERO: the group is stopped, its direction written, and started again. -/
def execReversalCurrentZero (o : Outlet) (s : State) : Host.Outcome State Fault Refusal :=
  s.live fun s => (
    let x := s.out.get o
    if x.st = .energy && x.rev && decide (x.cur.natAbs ≤ 50) then
      ((s.redirect o (!x.exporting)).modOut o fun x =>
        { x with exporting := !x.exporting, rev := false, revAt := some s.clk.cycle, oppositeRun := 0 }).raise (.out o) 8
    else s)

/-! ### Session commands (07 R195) -/

/-- Outlet of a descriptor's target, where it names one. -/
def outletOf (t : Word) : Option Outlet := if h : t.toNat < 8 then some ⟨t.toNat, h⟩ else none

/-- OUT_ENABLE is refused unless the outlet is in OFF (07 R195), before `READY` (20 R474), in IDLE (20 R475) and while an
orderly stop is in force (09 R229). -/
def State.refOutEnable (s : State) (o : Outlet) : Bool :=
  (s.out.get o).st != .off || !s.pwr.ready || s.pwr.mode != .run || s.thm.dieStop

/-- OUT_STOP and OUT_SESSION_CAP name a session in CABLE_CHECK to ENERGY (07 R195). -/
def State.refSession (s : State) (o : Outlet) (id : Word) : Bool :=
  !((s.out.get o).st.stoppable && (s.out.get o).session == id && id != 0)

/-- OUT_FAULT_CLEAR (07 R184, R195). -/
def State.refFaultClear (s : State) (o : Outlet) : Bool :=
  (s.out.get o).st != .fault || s.seoOut o || !s.bothOpen o

/-- Complete a session command with the machine's state and end reason (07 R195). -/
def State.outDone (r : Ring) (seq : DWord) (o : Outlet) (s : State) : State := s.complete r seq 0 (s.out.get o).result

/-- OUT_ENABLE. -/
def execOutEnable (r : Ring) (d : Desc) (s : State) : Host.Outcome State Fault Refusal :=
  .next (s.work r d fun t =>
    match outletOf d.target with
    | none => t.complete r d.seq 0 0
    | some o =>
      let t := if (t.out.get o).st = .off && (t.outCfg o).isSome && t.bil.legalUp then t.go o .idle else t
      t.outDone r d.seq o)

/-- OUT_DISABLE: after the session, or now; it completes at entry into STOPPING or OFF. -/
def execOutDisable (r : Ring) (d : Desc) (s : State) : Host.Outcome State Fault Refusal :=
  .next (s.work r d fun t =>
    match outletOf d.target with
    | none => t.complete r d.seq 0 0
    | some o =>
      if (t.out.get o).st = .off then t.outDone r d.seq o
      else t.modOut o fun x =>
        { x with disNow := x.disNow || d.b 24 == 1, disablePending := x.disablePending || d.b 24 == 0,
                 disWait := x.disWait ++ [(r, d.seq)] })

/-- OUT_STOP: completes at entry into STOPPING or RELEASED. -/
def execOutStop (r : Ring) (d : Desc) (s : State) : Host.Outcome State Fault Refusal :=
  .next (s.work r d fun t =>
    match outletOf d.target with
    | none => t.complete r d.seq 0 0
    | some o =>
      if t.refSession o (d.w 24) then t.outDone r d.seq o
      else t.modOut o fun x => { x with stopNow := true, stopWait := x.stopWait ++ [(r, d.seq)] })

/-- OUT_FAULT_CLEAR. -/
def execOutFaultClear (r : Ring) (d : Desc) (s : State) : Host.Outcome State Fault Refusal :=
  .next (s.work r d fun t =>
    match outletOf d.target with
    | none => t.complete r d.seq 0 0
    | some o =>
      let t := if t.refFaultClear o then t
        else (t.clearUp o).go o (if t.plugged o then .plugged else .idle)
      t.outDone r d.seq o)

/-- OUT_SESSION_CAP: the cap enters from the next tick latch; it completes at the apply instant of the first round computed
with it (03 R87). -/
def execOutSessionCap (r : Ring) (d : Desc) (s : State) : Host.Outcome State Fault Refusal :=
  .next (s.work r d fun t =>
    match outletOf d.target with
    | none => t.complete r d.seq 0 0
    | some o =>
      if t.refSession o (d.w 24) then t.outDone r d.seq o
      else (t.modOut o fun x => { x with hostCap := d.w 28 }).modAlc fun a =>
        { a with capWait := a.capWait ++ [⟨r, d.seq, t.round, some o, none, false⟩] })

end Sys2Proof.Machine
end

