-- ==== Sys2Proof/Machine/VehicleLinks.lean ====
section
/-! DEFINITION. Vehicle links: carriers and protocol selection, SLAC, vehicle messages and the demand record, answers,
authorisation, loops, and the host's descriptors (08). -/
namespace Sys2Proof.Machine

def State.vclSay (m : VclOut) (s : State) : State := s.modVcl fun v => { v with out := v.out ++ [m] }

/-! ### `VCL[o]_CTRL` fields (08 R219) -/

def VclSt.din (v : VclSt) : Bool := v.ctrl.getLsbD 0
def VclSt.iso2 (v : VclSt) : Bool := v.ctrl.getLsbD 1
def VclSt.iso20 (v : VclSt) : Bool := v.ctrl.getLsbD 2
def VclSt.chademo (v : VclSt) : Bool := v.ctrl.getLsbD 3
def VclSt.gbt2015 (v : VclSt) : Bool := v.ctrl.getLsbD 4
def VclSt.gbt2023 (v : VclSt) : Bool := v.ctrl.getLsbD 5
def VclSt.bptOk (v : VclSt) : Bool := v.ctrl.getLsbD 6
def VclSt.tlsRequired (v : VclSt) : Bool := v.ctrl.getLsbD 7
def VclSt.cbcOk (v : VclSt) : Bool := v.ctrl.getLsbD 8
def VclSt.autoAuth (v : VclSt) : Bool := v.ctrl.getLsbD 9

/-- CHAdeMO, GB/T 27930 and the CAN protocols in general, by `PROTO`. -/
def VclSt.isChademo (v : VclSt) : Bool := v.proto == 5
def VclSt.isGbt (v : VclSt) : Bool := v.proto == 6 || v.proto == 7
def VclSt.isCan (v : VclSt) : Bool := v.isChademo || v.isGbt

/-- Ready for use: the outlet is fitted, the data plane in service, the link blocks powered (20 R475). -/
def State.vclUp (s : State) (o : Outlet) : Bool := s.pwr.dataReady && s.pwr.mode != .idle && (s.outCfg o).isSome

/-! ### Demand records (08 R206-R208) -/

/-- A new session ID: the counter's value, which then advances and never comes to 0 (R206). -/
def State.takeSessionId (s : State) : Word × State :=
  let n := s.vcl.sessionNext
  (n, s.modVcl fun v => { v with sessionNext := if n + 1 = 0 then 1 else n + 1 })

/-- Vehicle ready may be shown: authorisation has been granted, or is not awaited (R207, R210). -/
def VclSt.authorised (v : VclSt) : Bool := v.authGranted || v.autoAuth

/-- The record that the vehicle's values make (R205, R207); no session gives a record of zeros. -/
def VclSt.recordOf (v : VclSt) : Demand :=
  if v.session = 0 then { Demand.zero with seq := v.record.seq }
  else
    let e := v.ev
    let cur := if v.isGbt && e.constV then e.maxI else if v.isCan then e.targetI else min e.targetI e.maxI
    let pow := match v.isCan, e.maxP with
      | false, some p => p
      | false, none => e.maxV * e.maxI / 10000
      | true, _ => e.maxV * e.targetI / 10000
    let ready := v.evReady && v.authorised && (!v.isChademo || v.permit)
    { seq := v.record.seq, session := v.session, maxV := clampU 16 e.maxV, targetV := clampU 16 e.targetV,
      maxImpI := clampU 16 cur, maxExpI := if v.bpt then clampU 16 e.disI else 0,
      maxImpP := clampU 32 pow, maxExpP := if v.bpt then clampU 32 e.disP else 0,
      gmin := match v.policy with | some p => p.gmin | none => 0,
      band := (match v.policy with | some p => p.band | none => v.defaultBand).setWidth 8,
      mode := if v.bpt then 3 else 1, flags := (if ready then 1 else 0) ||| (if v.stopReq then 2 else 0) }

/-- A record is written to the demand slot with the sequence advanced (R208; 01 R23-R25). -/
def State.vclWrite (o : Outlet) (s : State) : State :=
  let v := s.vcl.ch.get o
  let r := { v.recordOf with seq := v.record.seq + 1 }
  (s.modVclCh o fun v => { v with record := r, lastWrite := s.clk.cycle }).demandBeat o r

/-- A record is written where a field has changed (R208). -/
def State.vclUpdate (o : Outlet) (s : State) : State :=
  let v := s.vcl.ch.get o
  if v.recordOf = v.record then s else s.vclWrite o

/-- Stop requested, which stays set for the rest of the session (R207). -/
def State.vclStop (o : Outlet) (byVehicle : Bool) (s : State) : State :=
  let v := s.vcl.ch.get o
  if v.session = 0 || v.stopReq then s
  else
    let s1 := s.modVclCh o fun v => { v with stopReq := true }
    s1.cond byVehicle (·.raise (.vcl o) 8)

/-! ### Answers (08 R209) -/

/-- The answer built from the newest grant record, the outlet's voltage and the live record. -/
def State.vclAnswer (s : State) (o : Outlet) : VclAnswer :=
  let x := s.out.get o
  let g := (s.jn.get o).grant
  let dir := s.grantExport o
  let maxI := min g.curLimit.toNat (s.maxCurrent o dir)
  let maxP := (if dir then g.expP else g.impP).toNat
  let want := (s.vcl.ch.get o).ev.targetI
  { presentV := x.vs, presentI := (s.met.live.get ⟨4 + o.val, by omega⟩).toInt, maxI := maxI, maxP := maxP,
    currentLimit := decide (maxI ≤ want), powerLimit := decide (maxP * 10000 ≤ want * x.vs.toNat),
    iso := if x.endReason = 5 && !x.st.inSession then .fault else if x.isoWarn then .warning
      else if decide (4 ≤ x.st.code) && x.st.inSession then .valid else .invalid,
    ongoing := decide (x.st.code ≤ 3) || (x.st == .precharge && (s.reg.start.get o).st != .matched),
    notReady := g.status == 1 || g.status == 2 || g.status == 4,
    stopping := (x.st == .stopping || x.st == .opening || x.st == .weldCheck) && x.reason != 1 }

/-- The answer is sent; grant status 1, 2 or 4 of the session brings a requested stop (R209). -/
def State.vclReply (o : Outlet) (s : State) : State :=
  let a := s.vclAnswer o
  let s1 := s.vclSay (.answer o a)
  if a.notReady && (s.jn.get o).grant.session = (s.vcl.ch.get o).session then (s1.vclStop o false).vclUpdate o else s1

/-! ### Carriers and selection (08 R199, R204) -/

/-- The carrier that a pilot kind requires, by its bit of the carriers field: Green PHY, CAN FD or 10BASE-T1S (R199; 07 R173). -/
def carrierFor (kind : BitVec 2) : Nat := if kind = 0 then 0 else if kind = 1 then 2 else 1

/-- A carrier of an outlet is powered: it is fitted and the pilot kind requires it; the others are held powered down (R199), and so are all of
them in IDLE (20 R475). -/
def State.carrierOn (s : State) (o : Outlet) (k : Nat) : Bool :=
  match s.outCfg o with
  | some c => s.pwr.mode != .idle && k == carrierFor c.kind && c.carriers.getLsbD k
  | none => false

/-- The pilot kind's carrier is powered and, for CAN, exactly one family of protocols enabled (R199, R204). -/
def State.carrierOk (s : State) (o : Outlet) : Bool :=
  match s.outCfg o with
  | none => false
  | some c =>
    let v := s.vcl.ch.get o
    s.carrierOn o (carrierFor c.kind) && (decide (carrierFor c.kind ≠ 1) || (v.chademo ^^ (v.gbt2015 || v.gbt2023)))

/-- A protocol is in force and shown in `PROTO`. -/
def State.selectProto (o : Outlet) (p : BitVec 4) (s : State) : State :=
  (s.modVclCh o fun v => { v with proto := p, link := 4 }).raise (.vcl o) 2

/-- The data plane at plug detected: carrier check, SLAC on kind 0, the enabled CAN protocol on kind 2 (R199, R204). -/
def State.linkPlugged (o : Outlet) (s : State) : State :=
  let ok := s.carrierOk o
  let s1 := s.modVclCh o fun v =>
    { v with carrierMissing := !ok, link := 0, proto := 0, tls := false, bpt := false, slacRetries := 0 }
  match s1.outCfg o with
  | none => s1
  | some c =>
    if !ok then s1
    else if c.kind = 0 then s1.modVclCh o fun v => { v with link := 1 }
    else if c.kind = 2 && (s1.vcl.ch.get o).chademo then s1.selectProto o 5
    else s1

/-- The link at an unplug: SLAC, handshake, TLS and the exchange are abandoned, and no record is written (R204, R217). -/
def VclSt.unplugged (v : VclSt) : VclSt := { v.ended with link := 0 }

/-- A classification with what a change of the pilot state brings to the link (07 R179; 08 R199, R203, R204, R217). -/
def State.pilotSample (o : Outlet) (x : PilotSample) (s : State) : State :=
  let t := s.classify o x
  if !t.vclUp o then t
  else if !s.plugged o && t.plugged o then t.linkPlugged o
  else if s.plugged o && !t.plugged o then t.modVclCh o VclSt.unplugged
  else t

/-- PILOT_CHANGE: the measurements of a pilot interface, each a classification, at the outlet that it is wired to: the pilot state, the session
machine and the link (07 R173, R176-R179, R184). -/
def execPilotChange (i : Fin 8) (samples : List PilotSample) (s : State) : Host.Outcome State Fault Refusal :=
  s.live fun s =>
    match s.pilotOutlet i with
    | some (o, _) => samples.foldl (fun t x => t.pilotSample o x) s
    | none => s

/-- The protocol that the vehicle's offer gives, in the order of R204; bit k of the offer is protocol k of `PROTO`. -/
def VclSt.choose (v : VclSt) (kind : BitVec 2) (offered : Byte) : BitVec 4 :=
  let has := fun (k : Nat) (en : Bool) => offered.getLsbD k && en
  if kind = 0 then
    if has 3 v.iso20 then 3 else if has 2 v.iso2 then 2 else if has 1 v.din then 1 else 0
  else if kind = 1 then (if has 4 v.iso20 then 4 else 0)
  else if has 5 v.chademo then 5 else if has 7 v.gbt2023 then 7 else if has 6 v.gbt2015 then 6 else 0

/-- No protocol agreed, or SLAC failed: the event and its count (R204, R211, R219). -/
def State.slacFailed (o : Outlet) (s : State) : State :=
  (s.modVclCh o fun v => { v with cntSlacFail := satInc v.cntSlacFail }).raise (.vcl o) 1

/-- PROTO_SELECTED: once per plug-in (R204). -/
def execProtoSelected (o : Outlet) (offered : Byte) (s : State) : Host.Outcome State Fault Refusal :=
  s.live fun s => (
    let v := s.vcl.ch.get o
    match s.outCfg o with
    | none => s
    | some c =>
      if !s.vclUp o || !s.plugged o || v.carrierMissing || v.proto != 0 then s
      else if c.kind = 0 && !(v.link == 2 || v.link == 3) then s
      else
        let p := v.choose c.kind offered
        if p = 0 then (s.slacFailed o).vclSay (.failure o) else s.selectProto o p)

/-! ### SLAC and TLS (08 R211, R213) -/

/-- A failed SLAC: tried again up to the count of ISO 15118-3, failed after it (R211). -/
def State.slacRetry (o : Outlet) (s : State) : State :=
  (s.slacFailed o).modVclCh o fun v =>
    { v with slacRetries := v.slacRetries + 1, link := if Config.slacRetries ≤ v.slacRetries then 6 else 1 }

/-- SLAC_MATCH: accepted when the mean attenuation is no greater than the threshold, with a fresh membership key from the
caddy's random source, a free value (R211; log entry 4). -/
def execSlacMatch (o : Outlet) (mean : Byte) (s : State) : Host.Outcome State Fault Refusal :=
  s.live fun s => (
    if !s.vclUp o || (s.vcl.ch.get o).link != 1 then s
    else
      let s1 := s.modVclCh o fun v => { v with slacMean := mean }
      if mean.toNat ≤ (s1.vcl.ch.get o).slacThreshold.toNat then
        (((s1.modVclCh o fun v => { v with link := 2 }).vclSay (.slacKey o (Config.freeNat s.free))).useFree).raise (.vcl o) 0
      else s1.slacRetry o)

/-- SLAC_FAIL. -/
def execSlacFail (o : Outlet) (s : State) : Host.Outcome State Fault Refusal :=
  s.live fun s => (if !s.vclUp o || (s.vcl.ch.get o).link != 1 then s else s.slacRetry o)

def State.tlsFailed (o : Outlet) (s : State) : State :=
  (s.modVclCh o fun v => { v with tls := false, cntTlsFail := satInc v.cntTlsFail }).raise (.vcl o) 7

/-- TLS_FAIL. -/
def execTlsFail (o : Outlet) (s : State) : Host.Outcome State Fault Refusal :=
  s.live fun s => (if s.vclUp o then s.tlsFailed o else s)

/-! ### Authorisation (08 R210) -/

/-- No authorisation: `AUTH_TIMEOUT`, an answer of failure, and stop requested (R210). -/
def State.authFail (o : Outlet) (s : State) : State :=
  ((((((s.modVclCh o fun v =>
    { v with authSince := none, authFailed := true, authReq := 0, authGranted := false,
             cntTimeout := satInc v.cntTimeout }).raise (.vcl o) 4).vclSay (.failure o)).vclStop o false)).vclUpdate o)

/-- The vehicle needs authorisation (R210). -/
def State.authAsk (o : Outlet) (kind : BitVec 3) (s : State) : State :=
  let v := s.vcl.ch.get o
  if v.session = 0 || v.authorised then s.vclReply o
  else if v.authFailed then s.vclSay (.failure o)
  else if v.authSince.isSome then s.vclSay (.authOngoing o)
  else
    ((s.modVclCh o fun v => { v with authReq := kind, authSession := v.session, authSince := some s.clk.cycle }).raise
      (.vcl o) 3).vclSay (.authOngoing o)

/-- AUTH_TIMEOUT: `VCL_HOST_WAIT` has passed without an accepted `VCL_AUTH` (R210). -/
def execAuthTimeout (o : Outlet) (s : State) : Host.Outcome State Fault Refusal :=
  s.live fun s => (match (s.vcl.ch.get o).authSince with
    | some t => if s.vclUp o then (s.runTo (t + sec s.vcl.hostWait.toNat)).authFail o else s
    | none => s)

/-! ### Vehicle messages (08 R205-R215) -/

/-- Export is permitted by `BPT_OK` and the flags of 07 R173 and R174 (R205). -/
def State.bptOffered (s : State) (o : Outlet) : Bool :=
  let v := s.vcl.ch.get o
  let band := match v.policy with | some p => p.band | none => v.defaultBand
  let bandOk := match s.cfg.active.bands with | some b => (b.get ⟨band.toNat, band.isLt⟩).exportOk | none => true
  v.bptOk && bandOk && (match s.outCfg o with | some c => c.exportOk | none => false)

/-- A session begins on the link: a new ID and a new record (R206). -/
def State.vclSetup (o : Outlet) (s : State) : State :=
  let (id, s1) := s.takeSessionId
  (s1.modVclCh o fun v =>
    { v with session := id, policy := none, ev := .zero, evReady := false, stopReq := false, authGranted := false,
             authReq := 0, authSince := none, authFailed := false, items := [], schedule := none, bpt := false,
             lastDemand := s.clk.cycle }).vclUpdate o

/-- The values of a limits or demand message. A limits message keeps the targets; PreCharge gives the target voltage. -/
def VclSt.setLimits (v : VclSt) (e : EvVals) : VclSt :=
  { v with ev := { e with targetV := v.ev.targetV, targetI := v.ev.targetI } }
def VclSt.setDemand (v : VclSt) (e : EvVals) (now : Nat) : VclSt :=
  { v with ev := e, lastDemand := now, evTarget := clampU 16 e.targetI ++ clampU 16 e.targetV }

/-- The highest power of an outlet in 100 W: its maximum voltage times its maximum import current. -/
def maxPower (c : OutletCfg) : Nat := c.maxV * c.maxImpI / 10000

/-- What a message does on an outlet whose data plane is in service. -/
def State.vehicleSays (o : Outlet) (m : VehMsg) (s : State) : State :=
  let v := s.vcl.ch.get o
  match m with
  | .exiError =>
    ((s.modVclCh o fun v => { v with cntExiErr := satInc v.cntExiErr }).raise (.vcl o) 6).vclSay (.failure o)
  | .unsupported => s.vclSay (.notSupported o)
  | .fdFrame => s.modVclCh o fun v => { v with errFrames := v.errFrames + 1 }
  | .ipUp => if v.link = 2 || v.link = 0 then s.modVclCh o fun v => { v with link := 3 } else s
  | .tlsUp cbc => if cbc && !v.cbcOk then s.tlsFailed o else s.modVclCh o fun v => { v with tls := true }
  | .setup =>
    if v.proto = 0 then s
    else if v.proto = 2 && v.tlsRequired && !v.tls then s.vclSay (.failure o)
    else (s.vclSetup o).vclReply o
  | .service bpt =>
    ((s.modVclCh o fun v => { v with bpt := bpt && s.bptOffered o && (v.proto == 3 || v.proto == 4) }).vclUpdate o).vclReply o
  | .authorise k => s.authAsk o k
  | .item k bs => (s.modVclCh o fun v => { v with items := (k, bs) :: v.items.filter (fun x => x.1 != k) }).vclReply o
  | .scheduleRequest =>
    match v.schedule, s.outCfg o with
    | some bs, _ => s.vclSay (.schedule o bs)
    | none, some c => s.vclSay (.defaultSchedule o (maxPower c))
    | none, none => s
  | .limits e => ((s.modVclCh o (·.setLimits e)).vclUpdate o).vclReply o
  | .cableCheck => ((s.modVclCh o fun v => { v with evReady := v.evReady || v.session != 0 }).vclUpdate o).vclReply o
  | .ready on => ((s.modVclCh o fun v => { v with evReady := (if v.isChademo then on else v.evReady || on) && v.session != 0 }).vclUpdate o).vclReply o
  | .precharge t =>
    ((s.modVclCh o fun v => { v with ev := { v.ev with targetV := t }, evTarget := (v.evTarget &&& 0xFFFF0000) ||| (clampU 16 t).setWidth 32 }).vclUpdate o).vclReply o
  | .demand e => ((s.modVclCh o (·.setDemand e s.clk.cycle)).vclUpdate o).vclReply o
  | .stop => ((s.vclStop o true).vclUpdate o).vclReply o
  | .welding => s.vclReply o
  | .sessionStop => (((s.vclStop o true).vclUpdate o).vclReply o).modVclCh o fun v => { v with link := 5 }

/-- VEHICLE_MESSAGE: the record is written and the answer built (R207-R209). The data plane starts no protocol while the
carrier is missing (R199). -/
def execVehicleMessage (o : Outlet) (m : VehMsg) (s : State) : Host.Outcome State Fault Refusal :=
  s.live fun s => (if !s.vclUp o || !s.plugged o || (s.vcl.ch.get o).carrierMissing then s else s.vehicleSays o m)

/-- PERMIT_CHANGE: the vehicle charge-permission contact of a kind 2 outlet, which GB/T does not read (R203, R207). -/
def execPermitChange (o : Outlet) (closed : Bool) (s : State) : Host.Outcome State Fault Refusal :=
  s.live fun s => (
    let v := s.vcl.ch.get o
    match s.outCfg o with
    | none => s
    | some c =>
      if c.kind ≠ 2 || !s.vclUp o || v.isGbt then s
      else
        let s1 := s.modVclCh o fun v => { v with permit := closed }
        if !v.isChademo then s1
        else (s1.cond (v.permit && !closed) (·.vclStop o true)).vclUpdate o)

/-- Whether the machine is in PLUGGED to WELD_CHECK (R208). -/
def OutState.refreshed (x : OutState) : Bool := decide (2 ≤ x.code) && decide (x.code ≤ 9)

/-- RECORD_REFRESH: a record at least every 100 ms (R208). -/
def execRecordRefresh (o : Outlet) (s : State) : Host.Outcome State Fault Refusal :=
  s.live fun s => (
    if s.vclUp o && (s.out.get o).st.refreshed then
      (s.runTo ((s.vcl.ch.get o).lastWrite + ms 100)).vclWrite o
    else s)

/-- LOOP_TIMEOUT: 1 s without a current-demand message in ENERGY; a stop already requested governs (R215, R217). -/
def execLoopTimeout (o : Outlet) (s : State) : Host.Outcome State Fault Refusal :=
  s.live fun s => (
    let v := s.vcl.ch.get o
    let x := s.out.get o
    if s.vclUp o && x.st = .energy && v.session != 0 && !v.stopReq then
      (((((s.runTo (max v.lastDemand x.since + sec 1)).modVclCh o fun v => { v with cntTimeout := satInc v.cntTimeout }).raise
        (.vcl o) 5).vclStop o false).vclUpdate o)
    else s)

/-- CHARGER_FRAME_SEND: every 100 ms on CHAdeMO, every 50 ms on GB/T (R215). -/
def execChargerFrameSend (o : Outlet) (s : State) : Host.Outcome State Fault Refusal :=
  s.live fun s => (
    let v := s.vcl.ch.get o
    if s.vclUp o && v.isCan then
      let s1 := s.runTo (v.lastFrame + ms (if v.isChademo then 100 else 50))
      (s1.modVclCh o fun v => { v with lastFrame := s1.clk.cycle }).vclSay (.chargerFrame o (s1.vclAnswer o))
    else s)

/-- VCL_SESSION_NEXT_READ: a read takes the value, by any master whose view shows the block (R206, R218; 22 R496, R498). -/
def execVclSessionNextRead (m : Master) (s : State) : Host.Outcome State Fault Refusal :=
  s.live fun s => (s.transact m fun t =>
    if t.pwr.dataReady && (match m with | .lane | .cox | .legal | .caddy | .port => false | _ => true) then t.takeSessionId.2 else t)

/-! ### Descriptors of the host (08 R214) -/

/-- A session ID that is not the outlet's session in force (R214). -/
def State.refVclSession (s : State) (d : Desc) : Bool :=
  match outletOf d.target with | some o => (s.vcl.ch.get o).session != d.w 24 || d.w 24 == 0 | none => true

/-- Refusals of single descriptors (R210, R214). -/
def State.refVclAuth (s : State) (d : Desc) : Bool :=
  s.refVclSession d || (match outletOf d.target with | some o => (s.vcl.ch.get o).authFailed | none => true)

def State.vclItem (s : State) (d : Desc) : Option (List Byte) :=
  match outletOf d.target with
  | some o => ((s.vcl.ch.get o).items.find? fun x => x.1 == d.b 28).map (·.2)
  | none => none

def State.refVclFetch (s : State) (d : Desc) : Bool := s.refVclSession d || (s.vclItem d).isNone

/-- Work on the session that a descriptor names; without effect where that session has ended meanwhile. -/
def State.vclWork (r : Ring) (d : Desc) (f : Outlet → State → State) (s : State) : State :=
  match outletOf d.target with
  | none => s.complete r d.seq 0 0
  | some o => if s.refVclSession d then s.complete r d.seq 0 0 else (f o s).complete r d.seq 0 0

/-- VCL_SESSION_POLICY: band and guaranteed minimum enter the next record. -/
def execVclSessionPolicy (r : Ring) (d : Desc) (s : State) : Host.Outcome State Fault Refusal :=
  .next (s.work r d fun t => t.vclWork r d fun o u =>
    u.modVclCh o fun v => { v with policy := some ⟨bitsOf (d.b 28) 0 4, d.w 32⟩ })

/-- VCL_AUTH: granted or refused; a refusal has the effect of the timeout (R210). -/
def execVclAuth (r : Ring) (d : Desc) (s : State) : Host.Outcome State Fault Refusal :=
  .next (s.work r d fun t => t.vclWork r d fun o u =>
    if (u.vcl.ch.get o).authFailed then u
    else if d.b 28 = 0 then
      (u.modVclCh o fun v => { v with authGranted := true, authReq := 0, authSince := none }).vclUpdate o
    else u.authFail o)

/-- VCL_FETCH: the item is written into the page; the result is its length. -/
def execVclFetch (r : Ring) (d : Desc) (s : State) : Host.Outcome State Fault Refusal :=
  .next (s.work r d fun t =>
    match t.vclItem d with
    | some bs => if t.refVclSession d then t.complete r d.seq 0 0
      else (t.writePages [d.w 32] bs).complete r d.seq 0 (BitVec.ofNat 32 bs.length)
    | none => t.complete r d.seq 0 0)

/-- The bytes of a page that a descriptor names, up to a length. -/
def State.pageBytes (s : State) (ref : Word) (len : Nat) : List Byte := s.memReadList ((pageOf ref).val * 4096) (min len 4096)

/-- VCL_CERT_RESPONSE: the backend's response body goes to the vehicle. -/
def execVclCertResponse (r : Ring) (d : Desc) (s : State) : Host.Outcome State Fault Refusal :=
  .next (s.work r d fun t => t.vclWork r d fun o u => u.vclSay (.certResponse o (u.pageBytes (d.w 32) (d.w 28).toNat)))

/-- VCL_SCHEDULE: the schedule tuples of the session. -/
def execVclSchedule (r : Ring) (d : Desc) (s : State) : Host.Outcome State Fault Refusal :=
  .next (s.work r d fun t => t.vclWork r d fun o u =>
    u.modVclCh o fun v => { v with schedule := some (u.pageBytes (d.w 32) (d.w 28).toNat) })

/-- VCL_STATION_CHAIN: the station certificate chain of every outlet's next handshake. -/
def execVclStationChain (r : Ring) (d : Desc) (s : State) : Host.Outcome State Fault Refusal :=
  .next (s.work r d fun t =>
    (t.modVcl fun v => { v with stationChain := t.pageBytes (d.w 28) (d.w 24).toNat }).complete r d.seq 0 0)

end Sys2Proof.Machine
end

