-- ==== Sys2Proof/Machine/Wall.lean ====
section
/-! DEFINITION. Wall time: TAI, UTC and local time of a configuration (04 R108), calendar dates, and the demand-interval boundaries and
switch instants that follow from them (13 R318, R320, R323). Times in ns since 2000-01-01 00:00:00. -/
namespace Sys2Proof.Machine

/-- TAI − UTC in seconds: the last leap entry at or before an instant, before the first the first entry's. -/
def leapAt (c : CfgImage) (tai : Int) : Int :=
  match (c.leaps.filter fun e => decide ((e.instant : Int) ≤ tai)).getLast? with
  | some e => e.diff
  | none => match c.leaps with | e :: _ => e.diff | [] => 0

/-- Local offset from UTC in seconds. -/
def offAt (c : CfgImage) (tai : Int) : Int :=
  match (c.locals.filter fun e => decide ((e.instant : Int) ≤ tai)).getLast? with | some e => e.off | none => 0

def sNs : Int := 1000000000
def minNs : Int := 60 * sNs
def dayNs : Int := 86400 * sNs

/-- UTC and local time of a fleet time under a TAI correction. -/
def utcOf (c : CfgImage) (corr : Int) (fleet : Nat) : Int := let t := (fleet : Int) + corr; t - sNs * leapAt c t
def localOf (c : CfgImage) (corr : Int) (fleet : Nat) : Int :=
  let t := (fleet : Int) + corr; t - sNs * leapAt c t + sNs * offAt c t

/-- Wall time of the legal domain: UTC under its own time section (13 R320). -/
def State.wall (s : State) : Int := utcOf s.cfg.legal s.rgt.taiCorr s.now
def State.localTime (s : State) : Int := localOf s.cfg.legal s.rgt.taiCorr s.now

/-- The first fleet time at which UTC reads a value: the least over the leap differences that give it back, and the leap instants that jump
past it. -/
def fleetOfUtc (c : CfgImage) (corr : Int) (utc : Int) : Nat :=
  let diffs := (c.leaps.map (·.diff)).eraseDups
  let exact := (diffs.map fun d => utc + sNs * d).filter fun t => decide (t - sNs * leapAt c t = utc)
  let jumps := (c.leaps.map fun e => (e.instant : Int)).filter fun t => decide (utc ≤ t - sNs * leapAt c t)
  match (exact ++ jumps) with
  | [] => 0
  | t :: r => ((r.foldl min t) - corr).toNat

/-- The first UTC at which local time reads a value, or the offset change that jumps past it (13 R318). -/
def utcOfLocal (c : CfgImage) (loc : Int) : Int :=
  let offs := (0 :: c.locals.map (·.off)).eraseDups
  let tai := fun (u : Int) => (fleetOfUtc c 0 u : Int)
  let exact := (offs.map fun o => loc - sNs * o).filter fun u => decide (u + sNs * offAt c (tai u) = loc)
  let jumps := (c.locals.map fun e => let t : Int := e.instant; t - sNs * leapAt c t).filter
    fun u => decide (loc ≤ u + sNs * offAt c (tai u))
  match (exact ++ jumps) with
  | [] => loc
  | u :: r => r.foldl min u

/-- A change of wall time: a clock step when it comes from the TAI correction (source 1), or exceeds CLOCK_STEP_LIMIT (13 R324). -/
def State.noteStep (src : BitVec 2) (old : Int) (limit : Int) (s : State) : State :=
  if s.bil.legalUp && s.wall != old && (src == 1 || decide (limit < (s.wall - old).natAbs)) then
    s.modBil fun b => { b with stepPend := b.stepPend ++ [⟨old, s.wall, src⟩] }
  else s

/-! ### Calendar -/

/-- Days since 2000-01-01 and the ns of the day of a local time. -/
def dayOf (loc : Int) : Int := loc.fdiv dayNs
def nsOfDay (loc : Int) : Int := loc.fmod dayNs

/-- Weekday 0 Monday to 6 Sunday; 2000-01-01 was a Saturday. -/
def weekday (day : Int) : Nat := ((day + 5).fmod 7).toNat

/-- Year, month and day of a day number, by the proleptic Gregorian calendar (eras of 400 years from 1 March). -/
def civil (day : Int) : Int × Nat × Nat :=
  let z := day + 730425
  let era := z.fdiv 146097
  let doe := z - era * 146097
  let yoe := (doe - doe / 1460 + doe / 36524 - doe / 146096) / 365
  let doy := doe - (365 * yoe + yoe / 4 - yoe / 100)
  let mp := (5 * doy + 2) / 153
  let d := doy - (153 * mp + 2) / 5 + 1
  let m := if mp < 10 then mp + 3 else mp - 9
  (yoe + era * 400 + (if m ≤ 2 then 1 else 0), m.toNat, d.toNat)

/-! ### The tariff schedule (13 R317-R323) -/

/-- The schedule without a section: one tariff, 15 min, block mode, 2 s, no cycles. -/
def defaultTariff : TariffCfg :=
  { count := 1, len := 15, sliding := false, sub := 0, stepLimit := 20, cycleDay := 0, dynamicOk := false,
    dayTypes := [[⟨0, 1⟩]], week := [1, 1, 1, 1, 1, 1, 1], special := [] }

def tariffCfg (c : CfgImage) : TariffCfg := c.tariff.getD defaultTariff

/-- CLOCK_STEP_LIMIT in ns; 0 means 20. -/
def stepLimitNs (t : TariffCfg) : Int := (if t.stepLimit = 0 then 20 else t.stepLimit : Nat) * 100000000

/-- Spacing of the boundaries: L, in sliding mode S (R320). -/
def spacing (t : TariffCfg) : Int := (max 1 (if t.sliding then t.sub else t.len) : Nat) * minNs

/-- The first boundary after a wall time, and the latest at or before one. -/
def boundaryAfter (t : TariffCfg) (w : Int) : Int := (w.fdiv (spacing t) + 1) * spacing t
def boundaryAt (t : TariffCfg) (w : Int) : Int := w.fdiv (spacing t) * spacing t

/-- Day type of a local day: its special entry, otherwise the week table (R318). -/
def dayType (t : TariffCfg) (day : Int) : Nat :=
  let (y, m, d) := civil day
  match t.special.find? fun e => decide ((e.year : Int) = y) && e.month == m && e.day == d with
  | some e => e.dayType
  | none => nth t.week (weekday day) 1

/-- Switches of a local day with their UTC instants, in order. -/
def switchesOf (c : CfgImage) (t : TariffCfg) (day : Int) : List (Int × Nat) :=
  (nth t.dayTypes (dayType t day - 1) []).map fun x => (utcOfLocal c (day * dayNs + (x.minute : Int) * minNs), x.tariff)

/-- The last switch whose instant lies at or before a wall time: of the local day, of the day before, or of the day after. -/
def scheduled (c : CfgImage) (w : Int) : Int × Nat :=
  let t := tariffCfg c
  let day := dayOf (w + sNs * offAt c (fleetOfUtc c 0 w))
  let all := switchesOf c t (day - 1) ++ switchesOf c t day ++ switchesOf c t (day + 1)
  ((all.filter fun x => decide (x.1 ≤ w)).foldl (fun a x => if a.1 ≤ x.1 then x else a) (w - dayNs * 3, 1))

/-- A scheduled switch lies in (a, b] (R318, R319). -/
def switchedIn (c : CfgImage) (a b : Int) : Bool := decide (a < (scheduled c b).1)

/-- A local 00:00 of the cycle day lies in (a, b], for spans of up to a day (R323). -/
def cycleIn (c : CfgImage) (a b : Int) : Bool :=
  let t := tariffCfg c
  let day := dayOf (b + sNs * offAt c (fleetOfUtc c 0 b))
  t.cycleDay != 0 && [day - 1, day, day + 1].any fun d =>
    (civil d).2.2 == t.cycleDay && (let u := utcOfLocal c (d * dayNs); decide (a < u) && decide (u ≤ b))

/-- A cycle day's start lies in (a, b], however long the span: a cycle day comes every 31 days at the most (R326). -/
def cyclesIn (c : CfgImage) (a b : Int) : Bool :=
  (tariffCfg c).cycleDay != 0 && (decide (a + 32 * dayNs ≤ b) ||
    (List.range 33).any fun k => decide (a + k * dayNs < b) && cycleIn c (a + k * dayNs) (min b (a + (k + 1) * dayNs)))

end Sys2Proof.Machine
end

