-- ==== Sys2Proof/WellFormed.lean ====
section
/-! DEFINITION. The check that a command's operands are ones a sender can form: register offsets lie in BAR0,
window accesses lie in BAR2, a demand write has a length, frame segments have counts of their layout. -/
namespace Sys2Proof

/-- A BAR0 register access: inside the 1 MiB window (15 R366); one that is not aligned can be made and is counted. -/
def regOffsetOk (off : Nat) : Bool := off < 0x100000

/-- A CFG segment's index and count (02 R56: at most 64 segments). -/
def cfgSegmentOk (index count : Nat) (bytes : List Byte) : Bool :=
  1 ≤ count && count ≤ 64 && index < count && bytes.length ≤ 1996

/-- A TUNNEL segment (15 R387: 1 to 33 segments of up to 1,992 bytes, a message of 1 to 65,536 bytes). -/
def tunnelSegmentOk (index count : Nat) (length : Word) (bytes : List Byte) : Bool :=
  1 ≤ count && count ≤ 33 && index < count && bytes.length ≤ 1992 && 1 ≤ length.toNat && length.toNat ≤ 65536

/-- A window access: its bytes lie within one page of BAR2 (16 R394). -/
def windowOk (addr : Nat) (bytes : List Byte) : Bool :=
  addr < 0x1000000 && 1 ≤ bytes.length && addr % 4096 + bytes.length ≤ 4096

/-- Well-formed commands. -/
def WellFormed : Instr → Bool
  | .registerWrite _ off _ => regOffsetOk off
  | .loWordRead _ off => regOffsetOk off
  | .unmappedAccess _ off _ => regOffsetOk off
  | .windowAccess _ _ _ addr bytes => windowOk addr bytes
  | .demandWrite _ _ len _ _ => decide (1 ≤ len)
  | .cfgSegmentReceive _ _ _ _ index count bytes => cfgSegmentOk index count bytes
  | .tunnelReceive _ _ _ _ index count length bytes => tunnelSegmentOk index count length bytes
  | _ => true

end Sys2Proof
end

