-- ==== Sys2Proof/Machine/Regatta.lean ====
section
/-! DEFINITION. The Regatta link and fleet time: received frames, ports and their roles, the trees, joining and leaving, the
time servo, external sources (02). -/
namespace Sys2Proof.Machine

/-! ### Frames received (02 R38-R44, R50) -/

/-- Invalid code groups are counted (21 R488). -/
def State.codeErrors (p : Port) (k : Nat) (s : State) : State :=
  s.modDia fun d => { d with codeErr := vmod d.codeErr p fun w => satAdd w k }

/-- A frame arrives on a port: an aborted, corrupted, over-travelled or wrongly framed one is discarded and counted (02 R38-R41); a valid
one renews the port's silence bound and its echo times (02 R38, R49). -/
def State.rx (p : Port) (h : Hdr) (f : State → State) (s : State) : State :=
  let s := s.codeErrors p h.codeErrs
  let t := s.rgt.port.get p
  if t.st != .hello && t.st != .active then s
  else if h.aborted then s.modPort p fun t => { t with cntAbort := satInc t.cntAbort }
  else if !h.crcOk then s.modPort p fun t => { t with cntCrc := satInc t.cntCrc }
  else if h.hops = h.hopLimit || !h.framed then s.modPort p fun t => { t with cntDrop := satInc t.cntDrop }
  else f (s.modPort p fun t => { t with lastValid := s.clk.cycle, echoTx := h.txTime, echoRx := s.now })

/-- As `rx`, for a class that the port's role must carry. -/
def State.rxClass (c : RgtClass) (p : Port) (h : Hdr) (f : State → State) (s : State) : State :=
  s.rx p h fun t => if (t.rgt.port.get p).carries c then f t else t

/-- The frame is addressed to this controller, or to all. -/
def State.forMe (s : State) (h : Hdr) : Bool :=
  match h.dest with | some d => d.1 == s.rgt.id && d.2 == s.rgt.crew | none => true

/-! ### The trees and the roles of ports (02 R50-R53) -/

/-- This controller is an admitted member. -/
def State.admitted (s : State) : Bool := s.rgt.role != .notAdmitted

/-- The neighbour of an ACTIVE port, where it is an admitted member of this crew. -/
def State.peer (s : State) (p : Port) : Option Probe :=
  let t := s.rgt.port.get p
  if t.st = .active then t.probe.bind fun b => if b.crew = s.rgt.crew && b.admitted then some b else none else none

/-- The neighbour's path delay with the port's own delay reaches beyond 20,000 ns (02 R51). -/
def State.tooFar (s : State) (p : Port) (b : Probe) : Bool := decide (20000 < b.pathDelay.toNat + (s.rgt.port.get p).delay.toNat)

/-- Candidates for a parent by a distance; the Bow tree makes no path-delay test (02 R51). -/
def State.candidate (s : State) (bowTree : Bool) (p : Port) : Option (Nat × Nat) :=
  match s.peer p with
  | none => none
  | some b =>
    let d := if bowTree then b.bowDist.toNat else b.strokeDist.toNat
    if d ≤ 11 && (bowTree || !s.tooFar p b) && (s.rgt.port.get p).allocOk then some (d, b.id.toNat) else none

/-- The candidate of least distance, then least neighbour ID, then least port number. -/
def State.bestParent (s : State) (bowTree : Bool) : Option Port :=
  (List.finRange 4).foldl (fun best p =>
    match s.candidate bowTree p, best.bind fun q => (s.candidate bowTree q) with
    | some a, some b => if a.1 < b.1 || (a.1 = b.1 && a.2 < b.2) then some p else best
    | some _, none => some p
    | none, _ => best) none

/-- The parent by the rule of 02 R51: the present one is kept while it is a candidate. -/
def State.chooseParent (s : State) (bowTree : Bool) (cur : Option Port) : Option Port :=
  match cur with
  | some p => if (s.candidate bowTree p).isSome then some p else s.bestParent bowTree
  | none => s.bestParent bowTree

/-- The ACTIVE port whose neighbour is a controller. -/
def State.portTo (s : State) (c : CtrlId) : Option Port :=
  (List.finRange 4).find? fun p => match s.peer p with | some b => b.id == c | none => false

/-- The distance that a parent gives. -/
def State.distBy (s : State) (bowTree : Bool) (parent : Option Port) : Nat :=
  match parent.bind fun p => s.peer p with
  | some b => (if bowTree then b.bowDist.toNat else b.strokeDist.toNat) + 1
  | none => 255

/-- The role of a port (02 R50, R51); in a drill round with the Bow as root (02 R53). The table gives no role to a port whose neighbour is a
controller of another crew that is not admitted, nor to a port of a controller that is not admitted itself to an admitted neighbour of its
crew: the model lets such a port carry PROBE and CFG alone, as the neighbour's GUEST port does. DESIGN CHOICE (log entry 143). -/
def State.roleOf (s : State) (p : Port) : PortRole :=
  let t := s.rgt.port.get p
  match t.st, t.probe with
  | .active, some b =>
    if b.crew != s.rgt.crew then (if b.admitted then .foreign else .outside)
    else if !b.admitted then .guest
    else if !s.admitted then .outside
    else
      let g := s.rgt
      let sw := g.swapped
      if (if sw then g.bowParentPort else g.parent) = some p then .parent
      else if (if sw then b.bowParent else b.strokeParent) = some g.id then .child
      else match s.candidate sw p with
        | some (d, _) =>
          if g.role != (if sw then .bow else .stroke) && d ≤ (if sw then g.bowDist else g.strokeDist) then .alternate else .none
        | none => .none
  | _, _ => .none

/-- Parents and distances: 0 at the Stroke and at the Bow in their trees; the Bow takes the Stroke as its parent whenever a
port to it is ACTIVE (02 R51, R52). -/
def State.chooseTrees (s : State) : State :=
  let g := s.rgt
  let par := if g.role = .stroke || s.alc.ceded || !s.admitted then none
    else match (if g.role = .bow then s.portTo s.alc.stroke else none) with
      | some p => some p
      | none => s.chooseParent false g.parent
  let bpar := if g.role = .bow || !s.admitted then none else s.chooseParent true g.bowParentPort
  let sd := if g.role = .stroke || s.alc.ceded then 0 else s.distBy false par
  let bd := if g.role = .bow then 0 else s.distBy true bpar
  let pd := match par.bind fun p => (s.peer p).map fun b => b.pathDelay.toNat + (g.port.get p).delay.toNat with
    | some d => d | none => 0
  s.modRgt fun g =>
    { g with parent := par, bowParentPort := bpar, strokeDist := sd, bowDist := bd, pathDelay := pd,
             bowDetached := g.role == .bow && (s.portTo s.alc.stroke).isNone }

/-- The ID of the neighbour on a port. -/
def State.neighbourId (s : State) (p : Option Port) : Option CtrlId := p.bind fun q => (s.rgt.port.get q).probe.map (·.id)

/-- What this controller's PROBE frames say (02 R48, R64). -/
def State.ownProbe (s : State) : Probe :=
  let g := s.rgt
  let (corr, at') := match g.pendCorr with | some x => x | none => (g.taiCorr, g.corrRound)
  { id := g.id, crew := g.crew, strokeDist := BitVec.ofNat 8 g.strokeDist, bowDist := BitVec.ofNat 8 g.bowDist,
    strokeParent := s.neighbourId g.parent, bowParent := s.neighbourId g.bowParentPort,
    pathDelay := clampU 32 g.pathDelay, epoch := s.ownPair.epoch, taiCorr := corr, corrRound := BitVec.ofNat 32 at',
    admitted := s.admitted, inTime := !g.outOfTime }

/-- A PROBE on one port that is in HELLO or ACTIVE, and on every one. -/
def State.sendProbe (p : Port) (triggered : Bool) (s : State) : State :=
  let st := (s.rgt.port.get p).st
  if st = .hello || st = .active then s.sendFrame p none 1 true (.probe s.ownProbe triggered) else s

def State.sendProbes (triggered : Bool) (s : State) : State :=
  (s.forAll fun (p : Port) t => t.sendProbe p triggered).modRgt fun g =>
    { g with probeShown := (g.strokeDist, g.bowDist, g.role != .notAdmitted) }

/-- A triggered PROBE after a change of own distance or admission (02 R48). -/
def State.triggerProbe (s : State) : State :=
  if s.rgt.probeShown = (s.rgt.strokeDist, s.rgt.bowDist, s.admitted) then s else s.sendProbes true

/-- The roles of the ports are computed anew; a neighbour that is no guest any more leaves the list of guests (02 R50, R57). -/
def State.assignRoles (s : State) : State :=
  ((s.forAll fun (p : Port) u =>
    let r := u.roleOf p
    let far := match u.peer p with | some b => u.tooFar p b | none => false
    u.modPort p fun x => { x with role := r, bowParent := u.rgt.bowParentPort == some p, tooFar := x.tooFar || far }).modRgt fun g =>
      { g with guests := g.guests.filter fun x =>
          (g.port.get x.2).role == .guest && (match (g.port.get x.2).probe with | some b => b.id == x.1 | none => false) }).triggerProbe

/-- Parents, distances and roles are computed anew; a controller that takes another parent owes a notice (02 R50, R54;
03 R78). -/
def State.recompute (s : State) : State :=
  let old := s.neighbourId s.rgt.parent
  let t := s.chooseTrees
  let new := t.neighbourId t.rgt.parent
  let t1 := match old, new with
    | some a, some b => if a = b then t else t.modAlc fun x => { x with notices := (a, s.rgt.id) :: x.notices.filter (· != (a, s.rgt.id)) }
    | _, _ => t
  t1.assignRoles

/-! ### Port state machine (02 R49, R54) -/

/-- A controller that has taken an alternate as parent sends a triggered PROBE on its CHILD ports, its distance unchanged or not
(02 R54); a changed distance has sent one on every port already. -/
def State.reparentProbe (p : Port) (before : State) (s : State) : State :=
  if before.rgt.parent = some p && s.rgt.parent.isSome && s.rgt.probeShown == before.rgt.probeShown then
    s.forAll fun (q : Port) t => if (t.rgt.port.get q).role = .child then t.sendProbe q true else t
  else s

/-- A port goes to DOWN. -/
def State.portDown (p : Port) (s : State) : State :=
  let st := (s.rgt.port.get p).st
  if st = .hello || st = .active then
    (((s.modPort p fun t =>
      { t with st := .down, wentDown := true, cntDown := satInc t.cntDown, probeRounds := 0 }).modLine p LineSt.stop).recompute).reparentProbe p s
  else s

/-- PORT_EN_WRITE: a write of `RGT[p]_CTRL` (02 R49, R67). -/
def execPortEnWrite (m : Master) (p : Port) (w : Word) (s : State) : Host.Outcome State Fault Refusal :=
  s.live fun s => (s.guardedWrite m s.pwr.controlReady true (m.isMgmt && !s.lcs.lock) (0x10400 + p.val * 0x100) fun t =>
    let en := w.getLsbD 0
    let was := (t.rgt.port.get p).en
    let t1 := t.modPort p fun x => { x with en := en, media := w.getLsbD 1, allocOk := w.getLsbD 2 }
    if en && !was then t1.modPort p fun x => { x with st := .acquire }
    else if !en && was then ((t1.modPort p fun x => { x with st := .off, probeRounds := 0 }).modLine p LineSt.stop).recompute
    else t1.recompute)

/-- SYNC_ACQUIRED: HELLO, with a PROBE on the port, once 1,024 code groups in succession were valid that started with a comma-aligned IDLE
(02 R37, R49). -/
def execSyncAcquired (p : Port) (aligned : Bool) (groups : Nat) (s : State) : Host.Outcome State Fault Refusal :=
  s.live fun s => (
    let st := (s.rgt.port.get p).st
    if (st = .acquire || st = .down) && aligned && decide (1024 ≤ groups) then
      ((s.modPort p fun t => { t with st := .hello, los := false, probeRounds := 0, lastValid := s.clk.cycle }).recompute).sendProbe p true
    else s)

/-- SYNC_LOST: 16 invalid code groups within 1,024, or loss of signal; fewer of them are only counted (02 R37, R49; 21 R488). -/
def execSyncLost (p : Port) (los : Bool) (codeErrs : Nat) (s : State) : Host.Outcome State Fault Refusal :=
  s.live fun s => (
    if (s.rgt.port.get p).st = .off then s
    else
      let t := (s.codeErrors p codeErrs).modPort p fun t => { t with los := t.los || los }
      if los || decide (16 ≤ codeErrs) then t.portDown p else t)

/-- NEIGHBOUR_SILENT: 260 µs without a valid frame (02 R49). -/
def execNeighbourSilent (p : Port) (s : State) : Host.Outcome State Fault Refusal :=
  s.live fun s => (
    let t := s.rgt.port.get p
    if t.st = .hello || t.st = .active then (s.runTo (t.lastValid + us 260)).portDown p else s)

/-- PORT_ACTIVE: the eighth consecutive round with a valid PROBE (02 R49). -/
def execPortActive (p : Port) (s : State) : Host.Outcome State Fault Refusal :=
  s.live fun s => (
    let t := s.rgt.port.get p
    if t.st = .hello && decide (8 ≤ t.probeRounds) then (s.modPort p fun t => { t with st := .active }).recompute else s)

/-- PROBE_SEND: at R + 200 µs, or at once for a triggered one (02 R48). -/
def execProbeSend (triggered : Bool) (s : State) : Host.Outcome State Fault Refusal :=
  s.live fun s => (if triggered then s.triggerProbe else (s.runToOffset 200000).sendProbes false)

/-- The round that a low word names, nearest to the round in progress. -/
def State.roundOf (s : State) (w : Word) : Nat := ((s.round : Int) + (w - BitVec.ofNat 32 s.round).toInt).toNat

/-- A TAI correction comes into force; its change is a clock step (02 R64; 13 R324). -/
def State.setCorr (c : Int) (r : Nat) (s : State) : State :=
  (s.modRgt fun g => { g with taiCorr := c, corrRound := r, corrChanged := true, pendCorr := none }).noteStep 1 s.wall 0

/-- The TAI correction that the parent's PROBE announces (02 R64): applied at the start of its round, or at once where that round
has started. -/
def State.takeCorr (b : Probe) (s : State) : State :=
  if b.taiCorr = s.rgt.taiCorr then s
  else
    let r := s.roundOf b.corrRound
    if s.round < r then s.modRgt fun g => { g with pendCorr := some (b.taiCorr, r) }
    else s.setCorr b.taiCorr r

/-- The port of the time parent: the Stroke-tree parent, or before admission the lowest port to an admitted crew neighbour
(02, "Fleet time"). -/
def State.timeParent (s : State) : Option Port :=
  if s.admitted then s.rgt.parent else (List.finRange 4).find? fun p => (s.peer p).isSome

/-- A triggered PROBE with a changed distance is answered by an own triggered one, on every port, where no change of this controller has
sent one already (02 R54). -/
def State.passTrigger (h : Hdr) (old : Option Probe) (b : Probe) (before : State) (s : State) : State :=
  let changed := match old with | some x => x.strokeDist != b.strokeDist || x.bowDist != b.bowDist | none => true
  if h.triggered && changed && s.rgt.probeShown == before.rgt.probeShown then s.sendProbes true else s

/-- PROBE_RECEIVE (02 R48-R51, R54). -/
def execProbeReceive (p : Port) (h : Hdr) (b : Probe) (s : State) : Host.Outcome State Fault Refusal :=
  s.live fun s => (s.rx p h fun t =>
    let r := t.round
    let t1 := t.modPort p fun x =>
      { x with probe := some b, probeRound := r,
               probeRounds := if x.probeRound + 1 = r then x.probeRounds + 1 else if x.probeRound = r && x.probeRounds != 0 then x.probeRounds else 1 }
    let t2 := (t1.recompute).passTrigger h (t.rgt.port.get p).probe b t
    let t3 := if (t2.rgt.port.get p).role = .guest then
        t2.modRgt fun g => { g with guests := (b.id, p) :: g.guests.filter fun x => x.1 != b.id } else t2
    let t4 := match b.strokeParent with
      | some x =>
        if x ≠ t3.rgt.id && (t3.alc.child.get p).has && (t3.rgt.port.get p).st = .active then
          t3.modChild p fun y => { y with endRound := y.endRound <|> some (r + 1) }
        else t3
      | none => t3
    if t4.timeParent = some p then t4.takeCorr b else t4)

/-- A PROBE as its sender will send it once the trees have switched: the distances and parents of the Bow tree take the place of those of
the Stroke tree, and there is no Bow tree (02 R53; 03 R94). -/
def switchedProbe (b : Probe) : Probe := { b with strokeDist := b.bowDist, strokeParent := b.bowParent, bowDist := 255, bowParent := none }

/-- The Bow-tree parent becomes the parent, with the Bow as root; every neighbour of the crew switches at the same round start
(02 R53). From then on the Bow is followed in the Stroke role, and there is no Bow (03 R94). -/
def State.switchTrees (s : State) : State :=
  (s.modRgt fun g =>
    { g with parent := g.bowParentPort, bowParentPort := none, strokeDist := g.bowDist, bowDist := 255,
             port := g.port.map fun x => { x with probe := x.probe.map fun b => if b.crew = g.crew then switchedProbe b else b } }).modAlc fun a =>
    { a with stroke := a.bow.getD a.stroke, bow := none, strokeByBow := true, ceded := false }

/-- A controller that takes the Stroke role slews no faster than 500 ppm (02 R63). -/
def strokeRate (r : Nat) : Nat :=
  let k := Config.nominalRate * 500 / 1000000
  max (Config.nominalRate - k) (min (Config.nominalRate + k) r)

/-- The role of the Bow after the switch: the Bow is in the Stroke role, and counts the Stroke that it relieves as a member still
(03 R94; log entry 148). -/
def State.takeStroke (old : CtrlId) (s : State) : State :=
  (s.modRgt fun g =>
    { g with role := .stroke,
             members := if g.members.any fun m => m.id == old then g.members else g.members ++ [⟨old, s.round, none, s.round⟩] }).modClk fun c =>
    { c with rate := strokeRate c.rate }

/-- The switch, once its round has started. The parents stay those that the switch has given until PROBE frames give cause to choose others. -/
def State.treeSync (s : State) : State :=
  match s.rgt.switchAt with
  | none => s
  | some k =>
    if s.round < k then s
    else
      let t := s.switchTrees.modRgt fun g => { g with switchAt := none }
      (if s.alc.bow = some s.rgt.id && s.rgt.role = .bow then t.takeStroke s.alc.stroke
        else t.modRgt fun g => { g with role := if g.role = .stroke then .member else g.role }).assignRoles

/-- TREE_SWITCH: at the next round start (02 R53). -/
def execTreeSwitch (s : State) : Host.Outcome State Fault Refusal :=
  s.live fun s => (match s.rgt.switchAt with | some k => (s.runToFleet (k * Config.roundNs)).treeSync | none => s)

/-- FRAME_FORWARD: a stored CFG or DATA frame for another controller leaves by its route, or toward the guest that was seen on a
GUEST port, DATA only at an admitted member; a corrupted one is discarded before its forwarding has begun (02 R39, R43, R45, R57). A frame
of an undefined type is dropped and counted (R41). -/
def execFrameForward (p : Port) (h : Hdr) (body : Payload) (s : State) : Host.Outcome State Fault Refusal :=
  s.live fun s => (
    if !body.defined then s.rx p h fun t => t.modPort p fun x => { x with cntDrop := satInc x.cntDrop }
    else if body.cls = .alloc || body.cls = .safe || s.forMe h then s
    else s.rxClass body.cls p h fun t =>
      match h.dest with
      | none => t
      | some d =>
        match (if body.cls = .cfg then t.cfgPort d.1 else t.routeTo d.1) with
        | some q =>
          if (t.rgt.port.get q).carries body.cls && (body.cls = .cfg || t.admitted) then
            t.handOver q ⟨h.src, h.crew, h.dest, h.seq, h.hops + 1, h.hopLimit, h.hopLocal, body, false⟩
          else t
        | none => t)

/-! ### CFG messages (02 R56) -/

/-- Messages whose segments have not all arrived within 100 ms of the first are discarded. -/
def State.dropStale (s : State) : State :=
  s.modRgt fun g => { g with asm := g.asm.filter fun a => decide (s.clk.cycle < a.since + ms 100) }

/-- CFG_SEGMENT_RECEIVE. -/
def execCfgSegmentReceive (p : Port) (h : Hdr) (kind : Half) (msgId : Word) (index count : Nat) (bytes : List Byte)
    (s : State) : Host.Outcome State Fault Refusal :=
  s.live fun s => (s.rxClass .cfg p h fun t =>
    if !t.forMe h || !cfgSegmentOk index count bytes then t
    else
      let t := t.dropStale
      let same : CfgAsm → Bool := fun a => a.src == h.src && a.msgId == msgId
      let old := (t.rgt.asm.find? same).getD ⟨h.src, msgId, kind, count, [], t.clk.cycle⟩
      let got := (index, bytes) :: old.got.filter fun x => x.1 != index
      if got.length = old.count then
        t.modRgt fun g =>
          { g with asm := g.asm.filter (fun a => !same a),
                   inbox := g.inbox ++ [⟨h.src, msgId, old.kind,
                     ((List.range old.count).map fun i => ((got.find? fun x => x.1 == i).map (·.2)).getD []).flatten⟩] }
      else t.modRgt fun g => { g with asm := { old with got := got } :: g.asm.filter fun a => !same a })

/-- CFG_MESSAGE_TIMEOUT: the oldest message in assembly. -/
def execCfgMessageTimeout (s : State) : Host.Outcome State Fault Refusal :=
  s.live fun s => (match s.rgt.asm with
    | [] => s
    | a :: l => (s.runTo (l.foldl (fun m x => min m x.since) a.since + ms 100)).dropStale)

/-- An assembled message that is processed leaves the inbox. -/
def State.takeMsg (kind : Half) (s : State) : State :=
  s.modRgt fun g =>
    match g.inbox.findIdx? fun m => m.kind == kind with
    | some i => { g with inbox := g.inbox.eraseIdx i }
    | none => g

/-! ### Joining and leaving (02 R57-R59) -/

/-- Message to the Stroke through a crew neighbour. -/
def State.toStroke (p : Port) (body : CfgBody) (s : State) : State :=
  s.sendMessage p (some (s.alc.stroke, s.rgt.crew)) body

/-- The JOIN of a controller that is not admitted and has a crew neighbour. -/
def State.sendJoin (identity : Digest) (s : State) : State :=
  match (if s.admitted then none else (List.finRange 4).find? fun p => (s.peer p).isSome) with
  | none => s
  | some p =>
    (s.toStroke p (.join ⟨s.rgt.id, s.rgt.crew, s.ownPair, s.now, identity, true⟩)).modRgt fun g =>
      { g with joining := true, lastJoin := some s.clk.cycle }

/-- JOIN. -/
def execJoin (identity : Digest) (s : State) : Host.Outcome State Fault Refusal := s.live fun s => (s.sendJoin identity)

/-- JOIN_REPEAT: a refused controller repeats its JOIN once per second. -/
def execJoinRepeat (identity : Digest) (s : State) : Host.Outcome State Fault Refusal :=
  s.live fun s => (match s.rgt.joining && s.rgt.lastRefuse != 0, s.rgt.lastJoin with
    | true, some t => (s.runTo (t + sec 1)).sendJoin identity
    | _, _ => s)

/-- The reason for which the Stroke refuses a JOIN, 0 when it does not (02 R58). -/
def State.joinReason (s : State) (b : JoinBody) : Nat :=
  if !b.sigOk then 1
  else if !s.cfg.active.lists b.id b.identity then 2
  else if s.rgt.members.any fun m => m.id == b.id then 3
  else if b.crew != s.rgt.crew then 4
  else if decide (1000000000 < ((b.signTime : Int) - s.now).natAbs) then 5
  else 0

/-- Copies of an ACK go to the Bow and to a controller Umpire (02 R59). -/
def State.copyAck (body : CfgBody) (s : State) : State :=
  let s1 := match s.alc.bow with | some b => if b = s.rgt.id then s else s.sendCfg (b, s.rgt.crew) body | none => s
  match s.cfg.active.umpire with
  | .ctrl u => if u = s.rgt.id then s1 else s1.sendCfg (u, s.rgt.crew) body
  | _ => s1

/-- JOIN_RECEIVE at the Stroke: JOIN_REFUSE with a reason and a record, or JOIN_ACK with an admission round at least 2 rounds
ahead; which one is open, a free value (log entry 4). -/
def execJoinReceive (p : Port) (h : Hdr) (b : JoinBody) (s : State) : Host.Outcome State Fault Refusal :=
  s.live fun s => (s.rxClass .cfg p h fun t =>
    if t.rgt.role != .stroke || !t.forMe h then t
    else
      let t := t.takeMsg 1
      let t := if (t.rgt.port.get p).role = .guest then
          t.modRgt fun g => { g with guests := (b.id, p) :: g.guests.filter fun x => x.1 != b.id } else t
      let why := t.joinReason b
      if why ≠ 0 then
        (t.sendCfg (b.id, b.crew) (.joinRefuse b.id (BitVec.ofNat 8 why))).journal 6 0x43 b.id.toNat why b.crew.toNat 0
      else
        let r := t.round + 2 + Config.freeNat t.free
        let ack := CfgBody.joinAck b.id r
        (((t.useFree.modRgt fun g => { g with members := g.members ++ [⟨b.id, r, none, r⟩] }).sendCfg (b.id, b.crew) ack).copyAck ack))

/-- JOIN_ACK: the controller named takes its admission round; the Bow and a controller Umpire note the member. -/
def execJoinAck (id : CtrlId) (round : Nat) (s : State) : Host.Outcome State Fault Refusal :=
  s.live fun s => (
    let s := s.takeMsg 2
    if id = s.rgt.id then
      if s.rgt.joining then s.modRgt fun g => { g with admitRound := some round, joining := false, lastRefuse := 0 } else s
    else if s.rgt.role = .bow || s.cfg.active.umpire = .ctrl s.rgt.id then
      s.modRgt fun g => { g with members := ⟨id, round, none, round⟩ :: g.members.filter fun m => m.id != id }
    else s)

/-- JOIN_REFUSE. -/
def execJoinRefuse (id : CtrlId) (reason : Byte) (s : State) : Host.Outcome State Fault Refusal :=
  s.live fun s => (
    let s := s.takeMsg 3
    if id = s.rgt.id && s.rgt.joining then s.modRgt fun g => { g with lastRefuse := reason } else s)

/-- The role of an admitted controller by the crew's image (03 R91). -/
def State.memberRole (s : State) : RgtRole :=
  if s.alc.bow = some s.rgt.id then .bow else .member

/-- ADMISSION_ROUND: from the round that JOIN_ACK names, the controller is an admitted member. -/
def execAdmissionRound (s : State) : Host.Outcome State Fault Refusal :=
  s.live fun s => (match s.rgt.admitRound with
    | none => s
    | some r =>
      let t := s.runToFleet (r * Config.roundNs)
      (t.modRgt fun g => { g with role := t.memberRole, admitRound := none, fromRound := r }).recompute)

/-- LEAVE at the Stroke, checked as a JOIN is but for its third reason; LEAVE_ACK names the round of the removal, which the
manual leaves open: a free value (log entry 4). A LEAVE that fails its check gets no answer and no record: 02 names no refusal of it.
DESIGN CHOICE (log entry 147). -/
def execLeave (p : Port) (h : Hdr) (b : JoinBody) (s : State) : Host.Outcome State Fault Refusal :=
  s.live fun s => (s.rxClass .cfg p h fun t =>
    let why := t.joinReason b
    if t.rgt.role != .stroke || !t.forMe h || why ≠ 3 || b.crew != t.rgt.crew || decide (1000000000 < ((b.signTime : Int) - t.now).natAbs) then t
    else
      let t := t.takeMsg 4
      let r := t.round + 1 + Config.freeNat t.free
      let ack := CfgBody.leaveAck b.id r
      (((t.useFree.modRgt fun g =>
        { g with members := g.members.map fun m => if m.id = b.id then { m with removal := some r } else m }).sendCfg (b.id, b.crew) ack).copyAck ack))

/-- LEAVE_ACK. -/
def execLeaveAck (id : CtrlId) (round : Nat) (s : State) : Host.Outcome State Fault Refusal :=
  s.live fun s => (
    let s := s.takeMsg 5
    if id = s.rgt.id then s.modRgt fun g => { g with removeRound := some round }
    else s.modRgt fun g =>
      { g with members := g.members.map fun m => if m.id = id then { m with removal := some round } else m })

/-- Removals whose round has come. -/
def State.removals (s : State) : State :=
  let r := s.round
  let s1 := s.modRgt fun g =>
    { g with members := g.members.filter fun m => match m.removal with | some k => decide (r < k) | none => true }
  match s1.rgt.removeRound with
  | some k =>
    if k ≤ r then (s1.modRgt fun g => { g with role := .notAdmitted, removeRound := none }).recompute else s1
  | none => s1

/-- REMOVAL_ROUND: the earliest removal named. -/
def execRemovalRound (s : State) : Host.Outcome State Fault Refusal :=
  s.live fun s => (
    let rs := s.rgt.removeRound.toList ++ s.rgt.members.filterMap (·.removal)
    match rs with
    | [] => s
    | r :: l => (s.runToFleet (l.foldl min r * Config.roundNs)).removals)

/-- MEMBER_REMOVED: no UP of the member has reached the tally for 4,000 consecutive rounds (02 R59). The Stroke counts them from the last
one that it knows of, or from the admission (log entry 149); the member itself from the last UP that it sent, and it must join again. -/
def execMemberRemoved (id : CtrlId) (s : State) : Host.Outcome State Fault Refusal :=
  s.live fun s => (
    if id = s.rgt.id then
      if !s.admitted || s.rgt.role = .stroke then s
      else
        let t := s.runToFleet ((s.alc.upSentRound.getD s.rgt.fromRound + 4001) * Config.roundNs)
        (t.modRgt fun g => { g with role := .notAdmitted, removeRound := none }).recompute
    else match s.rgt.members.find? fun m => m.id == id with
      | some m =>
        (s.runToFleet ((m.heard + 4001) * Config.roundNs)).modRgt fun g => { g with members := g.members.filter fun m => m.id != id }
      | none => s)

/-! ### Fleet time (02 R60-R62) -/

/-- Fleet time is set; the ticks and housekeeping rounds are those of the new time. A step beyond CLOCK_STEP_LIMIT is a clock step
(13 R324). -/
def State.setFleet (fix : Nat) (s : State) : State :=
  (((s.modClk fun c => { c with fleetFix := fix }).modLne fun l => { l with ticked := false }).modThm fun t => { t with hkEnd := 0 }).noteStep
    2 s.wall (stepLimitNs (tariffCfg s.cfg.legal))

/-- Fleet time has been set from a crew or an external source: `NO_TIME` clears (13 R348). -/
def State.timeKnown (s : State) : State := s.modBil fun b => { b with errNoTime := false }

/-- Fleet time is stepped by a signed number of ns. -/
def State.stepFleet (d : Int) (s : State) : State := s.setFleet ((s.clk.fleetFix : Int) + d * 2 ^ 32).toNat

/-- The rate word that removes an offset over a time, both in ns, within a bound in ppm of the nominal rate. -/
def rateFor (o : Int) (above ppm : Nat) : Nat :=
  let lim : Int := above * ppm / 1000000
  let k := max (-lim) (min lim o)
  ((Config.nominalRate : Int) - (Config.nominalRate : Int) * k / (above : Int)).toNat

/-- Rounds in succession with |o| ≤ 1 µs (02 R62). -/
def State.noteOffset (o : Int) (s : State) : State :=
  let r := s.round
  let ok := decide (o.natAbs ≤ 1000)
  let n := if !ok then 0 else if s.rgt.offRound = r then s.rgt.inTimeRounds
    else if s.rgt.offRound + 1 = r then s.rgt.inTimeRounds + 1 else 1
  s.modRgt fun g => { g with offRound := r, inTimeRounds := n, outOfTime := g.outOfTime && decide (n < 8) }

/-- TIME_OFFSET_UPDATE: offset and delay of a frame; the time parent's steers the clock (02 R60, R62). -/
def execTimeOffsetUpdate (p : Port) (t1 t2 t3 t4 : Nat) (s : State) : Host.Outcome State Fault Refusal :=
  s.live fun s => (
    let x := s.rgt.port.get p
    if x.st != .hello && x.st != .active then s
    else
      let rx : Int := (t2 : Int) - t1
      let tx : Int := (t4 : Int) - t3
      let o := (rx - tx - x.asym.toInt) / 2
      let d := (rx + tx) / 2
      let s1 := s.modPort p fun x =>
        { x with delay := clampU 32 d.toNat, offset := clampS 32 o, echoTx := t1, echoRx := t2 }
      if s1.timeParent ≠ some p || s1.rgt.role = .stroke then s1
      else
        let s2 := ((s1.noteOffset o).modRgt fun g => { g with sync := 1, offsetAbs := clampU 16 o.natAbs }).timeKnown
        if s2.admitted && decide (5000 < o.natAbs) then
          (s2.modRgt fun g => { g with outOfTime := true, stepped := true, inTimeRounds := 0 }).stepFleet (-o)
        else s2.modClk fun c => { c with rate := rateFor o Config.roundNs 1000 })

/-- TIME_HOLDOVER: no frame of the time parent for 3 rounds (02 R62). -/
def execTimeHoldover (s : State) : Host.Outcome State Fault Refusal :=
  s.live fun s => (
    if s.rgt.role = .stroke || s.rgt.sync != 1 then s
    else (s.runToFleet ((s.rgt.offRound + 4) * Config.roundNs)).modRgt fun g => { g with sync := 3 })

/-! ### External sources and the TAI correction (02 R63-R65) -/

/-- An external source is configured. -/
def State.srcConfigured (s : State) : Bool := s.rgt.srcSel == 1 || s.rgt.srcSel == 2 || s.rgt.ppsEn

/-- Source TAI now, from its last message or edge. -/
def State.srcNow (s : State) : Option Int :=
  match s.rgt.srcTai with | some (t, f) => if s.srcConfigured then some (t + ((s.now : Int) - f)) else none | none => none

/-- CREW_FORM: at the first round after the named Stroke starts with no admitted members (03 R91), fleet time is set from the external source,
or from the real-time clock (02 R63). -/
def execCrewForm (s : State) : Host.Outcome State Fault Refusal :=
  s.live fun s => (
    if s.rgt.role = .stroke && s.rgt.id = s.cfg.active.stroke && !s.rgt.formed && s.rgt.members.isEmpty then
      let t := s.runToOffset 0
      match t.srcNow with
      | some x => (t.timeKnown.stepFleet (x - t.rgt.taiCorr - t.now)).modRgt fun g => { g with formed := true, sync := 2, srcTai := some (x, x - g.taiCorr) }
      | none => (t.useFree.setFleet t.rtcReading).modRgt fun g => { g with formed := true }
    else s)

/-- CLOCK_STEP_LIMIT in ns (13 R317). -/
def State.clockStepLimit (s : State) : Nat :=
  match s.cfg.active.tariff with
  | some t => (if t.stepLimit = 0 then 20 else t.stepLimit) * 100000000
  | none => 2000000000

/-- TAI_CHECK: once per second the Stroke slews by e, or announces a new correction 16 rounds ahead (02 R64). -/
def execTaiCheck (s : State) : Host.Outcome State Fault Refusal :=
  s.live fun s => (
    if s.rgt.role != .stroke then s
    else
      let t := (s.runTo (s.rgt.lastTaiCheck + sec 1)).modRgt fun g => { g with lastTaiCheck := max s.clk.cycle (g.lastTaiCheck + sec 1) }
      match t.srcNow with
      | none => t
      | some x =>
        let t := t.timeKnown
        let e := x - ((t.now : Int) + t.rgt.taiCorr)
        if e.natAbs ≤ t.clockStepLimit then t.modClk fun c => { c with rate := rateFor (-e) Config.secondNs 500 }
        else if t.rgt.pendCorr.isNone then
          t.modRgt fun g => { g with pendCorr := some (g.taiCorr + e, t.round + 16) }
        else t)

/-- TAI_CORRECTION_APPLY: at the start of the correction round (02 R64). -/
def execTaiCorrectionApply (s : State) : Host.Outcome State Fault Refusal :=
  s.live fun s => (match s.rgt.pendCorr with
    | none => s
    | some (c, r) => (s.runToFleet (r * Config.roundNs)).setCorr c r)

/-- A master's time that has reached this controller: with the delay of the path it gives PTP's TAI at its reception. The PPS edge gives the
instants where it is enabled, PTP then only their count (02 R65). -/
def State.ptpSync (t1 rx : Int) (s : State) : State :=
  match s.rgt.ptpDelay with
  | none => s
  | some d => s.modRgt fun g =>
    { g with ptpTai := some (t1 + d, rx), srcTai := if g.ppsEn then g.srcTai else some (t1 + d, rx), sync := if g.ppsEn then g.sync else 2 }

/-- What a PTP message says to a slave-only ordinary clock, with one-step and two-step masters, and with the delay mechanism that
`RGT_EXT_SRC` sets (02 R65). -/
def State.ptp (m : PtpMsg) (s : State) : State :=
  let g := s.rgt
  match m with
  | .sync _ (some t1) => (s.modRgt fun g => { g with ptpSync := some (t1, s.now) }).ptpSync t1 s.now
  | .sync n none => s.modRgt fun g => { g with ptpWait := some (n, s.now) }
  | .followUp n t1 =>
    match g.ptpWait with
    | some (k, rx) => if k = n then (s.modRgt fun g => { g with ptpWait := none, ptpSync := some (t1, rx) }).ptpSync t1 rx else s
    | none => s
  | .delayResp t3 t4 =>
    match g.ptpSync with
    | some (t1, t2) => if g.p2p then s else s.modRgt fun g => { g with ptpDelay := some (((t2 : Int) - t1 + (t4 - t3)) / 2) }
    | none => s
  | .peerDelay t1 t2 t3 t4 => if g.p2p then s.modRgt fun g => { g with ptpDelay := some ((t4 - t1 - (t3 - t2)) / 2) } else s

/-- PTP_MESSAGE of the configured port and domain (02 R65). -/
def execPtpMessage (mgmtPort : Fin 2) (domain : Byte) (m : PtpMsg) (s : State) : Host.Outcome State Fault Refusal :=
  s.live fun s => (
    if s.rgt.role = .stroke && s.rgt.srcSel.toNat = mgmtPort.val + 1 && domain = s.rgt.ptpDomain then s.ptp m else s)

/-- The whole second that the edge marks: by PTP where it is configured, otherwise by the time of day (02 R65). -/
def State.edgeSecond (s : State) : Option Int :=
  if s.rgt.srcSel = 0 then s.rgt.ppsTod.map Int.ofNat
  else s.rgt.ptpTai.map fun x => roundDivI (x.1 + ((s.now : Int) - x.2)) Config.secondNs

/-- PPS_EDGE: a whole TAI second at the Stroke, whose count comes from PTP or from `RGT_TIME_OF_DAY`, which completes at
the first edge at least 10 ms after its acceptance (02 R65; 15 R386). -/
def execPpsEdge (s : State) : Host.Outcome State Fault Refusal :=
  s.live fun s => (
    let old := fun (x : Ring × DWord × DWord × Nat) => decide (x.2.2.2 + 10000000 ≤ s.now)
    let s1 := (s.tun.tod.filter old).foldl (fun t x => (t.complete x.1 x.2.1 0 0).modRgt fun g => { g with ppsTod := some x.2.2.1.toNat })
      (s.modTun fun t => { t with tod := t.tod.filter fun x => !old x })
    if s1.rgt.role != .stroke || !s1.rgt.ppsEn then s1
    else
      match s1.edgeSecond with
      | some n => s1.modRgt fun g => { g with srcTai := some (n * Config.secondNs, s1.now), ppsTod := some (n + 1).toNat, sync := 2 }
      | none => s1)

/-- EXT_SOURCE_LOST: the rate word stays, holdover is reported (02 R65). -/
def execExtSourceLost (s : State) : Host.Outcome State Fault Refusal :=
  s.live fun s => (
    if s.rgt.role = .stroke && s.rgt.srcTai.isSome then
      s.modRgt fun g => { g with srcTai := none, ptpTai := none, srcLost := true, sync := 3 } else s)

end Sys2Proof.Machine
end

