-- ==== Sys2Proof/Machine/Rings.lean ====
section
/-! DEFINITION. Host rings: doorbells, the states of a ring, the writing of completions and replays, ring-level opcodes, interrupts,
tunnelled messages, function-level reset (15; 17 R416, R417). -/
namespace Sys2Proof.Machine

/-! ### Indices (15 R369) -/

/-- N: the number of entries. -/
def RingSt.entries (q : RingSt) : Nat := 2 ^ (max 4 (min 10 q.size.toNat))

/-- A difference of indices modulo 2^32. -/
def idxDiff (a b : Word) : Nat := (a - b).toNat

/-- The CQ has room (R369). -/
def RingSt.room (q : RingSt) : Bool := decide (idxDiff q.q q.c < q.entries)

/-- Completions of a ring can be written: not DISABLED, FROZEN or HELD (15 R372, R530; 16 R403). -/
def RingSt.writing (q : RingSt) : Bool := q.st == .running || q.st == .draining

/-- The state changes; the shadow record follows (15 R371). -/
def State.ringGo (r : Ring) (st : RingState) (s : State) : State :=
  if (s.ring.get r).st = st then s else (s.modRing r fun q => { q with st := st }).writeShadow r

/-! ### Completions (15 R384, R385; 16 R398; 17 R417) -/

/-- A completion enters slot Q: `PHASE`, Q, the shadow record, the ring's vector (15 R371, R384, R388). -/
def State.cqWrite (r : Ring) (c : Comp) (what : CqEntry) (now : Bool) (s : State) : State :=
  let q := s.ring.get r
  let phase := q.q.toNat / q.entries % 2 == 0
  let s1 := (s.modHost fun h => { h with writes := h.writes ++ [.completion r q.q phase c] }).modRing r fun q =>
    { q with q := q.q + 1, cqLog := q.cqLog ++ [what] }
  (s1.writeShadow r).irqItem (Fin.ofNat 128 q.vector.toNat) now

/-- What a ring would write next: a refusal, a replay whose original stands, or the next completion in sequence order whose slot is
completed (15 R381, R382, R385). -/
inductive NextComp where
  | none
  | refusal (c : Comp) (now : Bool)
  | replay (seq : DWord) (c : Comp) (now : Bool)
  | original (j : JSlot) (c : Comp)
deriving DecidableEq, Repr

def State.nextComp (s : State) (r : Ring) : NextComp :=
  let q := s.ring.get r
  match q.refusals with
  | (c, now) :: _ => .refusal c now
  | [] =>
    let rep := q.replays.findSome? fun x =>
      (s.slot? r x.1).bind fun j => if j.everWritten && (j.written || j.st == .consumed) then j.comp.map fun c => (x.1, c, x.2) else none
    match rep with
    | some (sq, c, now) => .replay sq c now
    | none =>
      match (s.dlv.slots.get r).find? fun j => !j.written && j.st != .consumed with
      | some j => match j.comp with
        | some c => if j.st = .completed then .original j c else .none
        | none => .none
      | none => .none

/-- The next completion is written where the ring can and there is room; without room it is held (15 R385). -/
def State.writeComp (r : Ring) (s : State) : State :=
  let q := s.ring.get r
  match s.nextComp r with
  | .none => s
  | n =>
    if !q.writing then s
    else if !q.room then
      if q.cqFull then s else (s.modRing r fun q => { q with cqFull := true }).raise (.ring (ringFn r)) 3
    else
      let s0 := s.modRing r fun q => { q with cqFull := false }
      match n with
      | .none => s
      | .refusal c now => (s0.modRing r fun q => { q with refusals := q.refusals.drop 1 }).cqWrite r c (.refusal c.seq) now
      | .replay sq c now =>
        ((((s0.modRing r fun q => { q with replays := q.replays.eraseP fun x => x.1 == sq }).modRingF (ringFn r) fun f =>
          { f with cntReplay := satInc f.cntReplay }).cqWrite r { c with replay := true } (.replay sq) now)).raise (.ring (ringFn r)) 1
      | .original j c =>
        ((s0.passPages .host 0 j.pages).modSlot r j.seq fun x => { x with written := true, everWritten := true, pages := [] }).cqWrite r
          { c with replay := j.everWritten } (.original j.seq) j.desc.irqNow

/-- A completion that waited for journal writes becomes COMPLETED once they are allowed (09 R232; 17 R410). -/
def State.commitComps (r : Ring) (s : State) : State :=
  if s.journalClosed then s
  else s.modDlv fun v => { v with slots := vmod v.slots r fun l => l.map fun j =>
    if j.comp.isSome && (j.st == .handed || j.st == .accepted) then { j with st := .completed } else j }

/-- COMPLETION_WRITE: time runs to the fleet time of effect where it lies ahead. -/
def execCompletionWrite (r : Ring) (s : State) : Host.Outcome State Fault Refusal :=
  s.live fun s => (
    let s := s.commitComps r
    let s := match s.nextComp r with | .original _ c => s.runToFleet c.effect.toNat | _ => s
    s.writeComp r)

/-! ### Running (17 R417) -/

/-- Every completion that stands is written, as room allows. -/
def State.writeAll (r : Ring) : Nat → State → State
  | 0, s => s
  | fuel + 1, s =>
    if (s.ring.get r).room && s.nextComp r != .none then writeAll r fuel (s.writeComp r) else s

/-- A value of P or C that is taken (15 R370). -/
def RingSt.okP (q : RingSt) (p : Word) : Bool := decide (idxDiff p q.a ≤ q.entries)
def RingSt.okC (q : RingSt) (c : Word) : Bool := decide (idxDiff q.q c ≤ q.entries) && decide (idxDiff c q.c ≤ idxDiff q.q q.c)

/-- Slots whose completions C passes are CONSUMED and no longer outstanding (15 R370; 17 R410). -/
def State.consume (r : Ring) (c : Word) (s : State) : State :=
  let q := s.ring.get r
  let done := q.cqLog.take (idxDiff c q.c)
  let s1 := done.foldl (fun t e => match e with
    | .original sq =>
      (t.modSlot r sq fun j => { j with st := .consumed }).modRing r fun q => { q with outstanding := q.outstanding - 1 }
    | _ => t) s
  s1.modRing r fun q => { q with c := c, cqLog := q.cqLog.drop done.length }

def State.takeP (r : Ring) (p : Word) (s : State) : State :=
  if (s.ring.get r).okP p then s.modRing r fun q => { q with p := p, waitDb := false } else s.raise (.ring (ringFn r)) 2

def State.takeC (r : Ring) (c : Word) (s : State) : State :=
  if (s.ring.get r).okC c then s.consume r c else s.raise (.ring (ringFn r)) 2

/-- The passage to RUNNING: P, A, Q and C are 0; completions that C had not passed are written from slot 0, marked `REPLAY` where a CQ held
them before; doorbells kept are taken (15 R370; 17 R417). -/
def State.ringRun (r : Ring) (s : State) : State :=
  let keptP := (s.ring.get r).keptSq
  let keptC := (s.ring.get r).keptCq
  let s1 := (s.modRing r fun q =>
    { q with st := .running, p := 0, fetch := 0, q := 0, c := 0, waitDb := false, keptSq := none, keptCq := none, refusals := [], replays := [], cqLog := [],
             cqFull := false, committing := q.committing.map fun x => { x with slot := 0 } }).modDlv fun v =>
      { v with slots := vmod v.slots r fun l => l.map fun j => { j with written := false } }
  let s2 := ((s1.writeShadow r).commitComps r).writeAll r 1024
  let s3 := match keptP with | some p => s2.takeP r p | none => s2
  match keptC with | some c => s3.takeC r c | none => s3

/-! ### Doorbells (15 R370) -/

/-- A doorbell write: a breach on a ring of another function; kept while the ring is DISABLED or HELD; ignored while the function is frozen.
Masters other than the functions have no doorbells (01 R14). -/
def State.doorbell (m : Master) (r : Ring) (off : Nat) (v : Word) (keep : State → State) (take : State → State) (s : State) : State :=
  match m with
  | .pf f =>
    s.transact m fun t =>
      if ringFn r ≠ f then t.freeze m 3 (BitVec.ofNat 32 (r.val * 0x400 + off))
      else match (t.ring.get r).st with
        | .disabled | .held => keep t
        | .frozen => t
        | _ => take t
  | _ => s.transact m fun t => t.firewallDrop m (r.val * 0x400 + off) v.toNat

/-- RING_DB_SQ. -/
def execRingDbSq (m : Master) (r : Ring) (p : Word) (s : State) : Host.Outcome State Fault Refusal :=
  s.live fun s => (s.doorbell m r 0 p (fun t => t.modRing r fun q => { q with keptSq := some p }) (·.takeP r p))

/-- RING_DB_CQ. -/
def execRingDbCq (m : Master) (r : Ring) (c : Word) (s : State) : Host.Outcome State Fault Refusal :=
  s.live fun s => (s.doorbell m r 4 c (fun t => t.modRing r fun q => { q with keptCq := some c }) (·.takeC r c))

/-! ### The states of a ring (15 R372, R530) -/

/-- `EN` is written 1 or 0. A pair that R530 does not list changes no state (00 R12): EN set while DRAINING is kept in the register and
acts no more (log entry 18). -/
def State.ringEnable (r : Ring) (on : Bool) (s : State) : State :=
  let st := (s.ring.get r).st
  let bme := (s.ringF.get (ringFn r)).busMaster
  let s1 := s.modRing r fun q => { q with en := on }
  match on, st with
  | true, .disabled => if bme then s1.ringRun r else s1.ringGo r .held
  | true, .held => if bme then s1.ringRun r else s1
  | false, .running => s1.ringGo r .draining
  | false, .held => s1.ringGo r .disabled
  | _, _ => s1

/-- A function writes the setup registers of its own rings (15 R392). -/
def ownsRing (m : Master) (r : Ring) : Bool := match m with | .pf f => ringFn r == f | _ => false

/-- `VECTOR`: a value outside the function's completion vectors is its first one (15 R393). -/
def vectorOf (f : Fn) (v : BitVec 7) : BitVec 7 :=
  let lo := (firstVector f).toNat
  let hi := if f = 0 then 31 else if f = 1 then 95 else 127
  if lo ≤ v.toNat && v.toNat ≤ hi then v else firstVector f

/-- RING_CTRL_WRITE. -/
def execRingCtrlWrite (m : Master) (r : Ring) (w : Word) (s : State) : Host.Outcome State Fault Refusal :=
  s.live fun s => (s.guardedWrite m true true (ownsRing m r) (0x401C + r.val * 0x40) fun t =>
    (t.modRing r fun q => { q with classes := bitsOf w 1 5, vector := vectorOf (ringFn r) (bitsOf w 8 7) }).ringEnable r (w.getLsbD 0))

/-- BUS_MASTER_ENABLE. -/
def execBusMasterEnable (f : Fn) (on : Bool) (s : State) : Host.Outcome State Fault Refusal :=
  s.live fun s => (
    let s1 := s.modRingF f fun x => { x with busMaster := on }
    s1.forAll fun (r : Ring) t =>
      let q := t.ring.get r
      if ringFn r ≠ f then t
      else match on, q.st with
        | false, .running | false, .draining => t.ringGo r .held
        | true, .held => if q.en then t.ringRun r else t
        | _, _ => t)

/-- DRAIN_DONE. -/
def execDrainDone (r : Ring) (s : State) : Host.Outcome State Fault Refusal :=
  s.live fun s => (
    let q := s.ring.get r
    if q.st = .draining && q.outstanding = 0 && q.committing.isEmpty && q.refusals.isEmpty then s.ringGo r .disabled else s)

/-- Registers of a ring at their cold values; what the journal and the commits in progress hold stays (15 R372, R393). -/
def RingSt.clear (r : Ring) (q : RingSt) : RingSt :=
  { RingSt.cold r with
    exp := q.exp, outstanding := q.outstanding, committing := q.committing.map fun x => { x with slot := 0 }, buckets := q.buckets,
    updates := q.updates, st := if q.st = .frozen then .frozen else .disabled }

/-- Function-level reset of a function (15 R372, R393, R530; 17 R416; 22 R500). Bus Master Enable is cleared and the MSI-X table entries are masked, as
the PCI Express Base Specification has it. PRESUMED (log entry 6). -/
def State.fnReset (f : Fn) (cause : BitVec 3) (s : State) : State :=
  let s1 := s.forAll fun (r : Ring) t => if ringFn r = f then t.modRing r (RingSt.clear r) else t
  let s2 := s1.forAll fun (v : IrqVec) t =>
    if (if v.val < 32 then f = 0 else if v.val < 96 then f = 1 else f = 2) then t.modIrq v fun _ => .cold else t
  ((s2.evSet (.ring f) .zero).modRingF f fun x => { RingFn.cold with recovering := x.recovering, lastReset := cause }).modGlb fun g =>
    { g with bank := vmod g.bank (Master.pf f).bank fun b => { b with latches := [] } }

/-- FUNCTION_LEVEL_RESET. -/
def execFunctionLevelReset (f : Fn) (s : State) : Host.Outcome State Fault Refusal := s.live fun s => (s.fnReset f 4)

/-! ### Ring-level opcodes (15 R375) -/

/-- RING_NOP. -/
def execRingNop (r : Ring) (d : Desc) (s : State) : Host.Outcome State Fault Refusal :=
  .next (s.work r d fun t => t.complete r d.seq 0 0)

/-- The ring and the sequence that a fence names. -/
def fenceRing (d : Desc) : Ring := Fin.ofNat 64 (d.b 24).toNat
def fenceSeq (d : Desc) : DWord := d.q 32

/-- What a fence names has taken up, or is no longer held. -/
def State.fenceFree (s : State) (d : Desc) : Bool :=
  match s.slot? (fenceRing d) (fenceSeq d) with | some j => j.tookUp || j.comp.isSome | none => true

/-- RING_FENCE. -/
def execRingFence (r : Ring) (d : Desc) (s : State) : Host.Outcome State Fault Refusal :=
  .next (if s.fenceFree d then s.work r d fun t => t.complete r d.seq 0 0 else s)

/-! ### Interrupts (15 R389) -/

/-- IRQ_MODERATION_TIMER. -/
def execIrqModerationTimer (v : IrqVec) (s : State) : Host.Outcome State Fault Refusal :=
  s.live fun s => (match (s.irq.get v).timer with
    | some c => (s.runTo (c + us (s.irq.get v).time.toNat)).sendMsi v
    | none => s)

/-! ### Regatta descriptors (15 R386, R387) -/

/-- RGT_TIME_OF_DAY is refused: not the Stroke, PPS not enabled, PTP configured. -/
def State.refTimeOfDay (s : State) : Bool := s.rgt.role != .stroke || !s.rgt.ppsEn || s.rgt.srcSel != 0

/-- RGT_TIME_OF_DAY: it waits for the PPS edge. -/
def execRgtTimeOfDay (r : Ring) (d : Desc) (s : State) : Host.Outcome State Fault Refusal :=
  .next (s.work r d fun t => t.modTun fun x => { x with tod := x.tod ++ [(r, d.seq, d.q 24, t.acceptedAt r d.seq)] })

/-- RGT_TUNNEL_SEND is refused without a valid route. -/
def State.refTunnelSend (s : State) (d : Desc) : Bool := (s.routeTo (bitsOf (d.h 24) 0 12)).isNone

/-- RGT_TUNNEL_SEND: the message in segments of up to 1,992 bytes, handed to the port of the route where that carries DATA and this controller is
an admitted member (02 R43, R50). -/
def execRgtTunnelSend (r : Ring) (d : Desc) (s : State) : Host.Outcome State Fault Refusal :=
  .next (s.work r d fun t =>
    let len := (d.w 32).toNat
    let bytes := (t.readPages (t.listRefs (d.w 28) (ceilDiv len 4096))).take len
    let count := ceilDiv len 1992
    let dest : CtrlId × BitVec 4 := (bitsOf (d.h 24) 0 12, bitsOf (d.h 24) 12 4)
    match t.routeTo dest.1 with
    | none => t.complete r d.seq 0 0
    | some p =>
      let t1 := (List.range count).foldl (fun u i =>
        if !u.admitted || !(u.rgt.port.get p).carries .data then u
        else u.sendFrame p (some dest) 32 false
          (.tunnel (bitsOf (d.b 26) 0 4) t.tun.nextId i count (d.w 32) ((bytes.drop (1992 * i)).take 1992))) t
      (t1.modTun fun x => { x with nextId := x.nextId + 1 }).complete r d.seq 0 (BitVec.ofNat 32 count))

/-- RGT_TUNNEL_RECV: it waits for a message of its channel. -/
def execRgtTunnelRecv (r : Ring) (d : Desc) (s : State) : Host.Outcome State Fault Refusal :=
  .next (s.work r d fun t =>
    t.modTun fun x => { x with recv := x.recv ++ [⟨r, d.seq, bitsOf (d.b 24) 0 4, (d.w 32).toNat, d.w 28, t.clk.cycle⟩] })

/-- An assembled message goes to the oldest pending `RGT_TUNNEL_RECV` of its channel that has enough pages, or is dropped and counted. -/
def State.tunnelDeliver (source : BitVec 16) (channel : BitVec 4) (bytes : List Byte) (s : State) : State :=
  match s.tun.recv.find? fun w => w.channel == channel && decide (bytes.length ≤ w.pages * 4096) with
  | some w =>
    (((s.modTun fun x => { x with recv := x.recv.filter (· != w) }).writePages (s.listRefs w.list w.pages) bytes)).complete w.ring w.seq source
      (BitVec.ofNat 32 bytes.length)
  | none => (s.modRingF 1 fun f => { f with cntTunnelDrop := satInc f.cntTunnelDrop }).raise (.ring 1) 4

/-- Messages in assembly for 100 ms are discarded (R387). -/
def State.tunnelStale (s : State) : State :=
  s.modTun fun x => { x with parts := x.parts.filter fun a => decide (s.clk.cycle < a.since + ms 100) }

/-- TUNNEL_RECEIVE. -/
def execTunnelReceive (p : Port) (h : Hdr) (channel : BitVec 4) (msgId : Word) (index count : Nat) (length : Word) (bytes : List Byte)
    (s : State) : Host.Outcome State Fault Refusal :=
  s.live fun s => (s.rxClass .data p h fun t =>
    if !t.forMe h || !t.admitted || !(decide (index < count) && decide (count ≤ 33) && decide (bytes.length ≤ 1992)) then t
    else
      let t := t.tunnelStale
      let source : BitVec 16 := h.crew ++ h.src
      let same : TunnelPart → Bool := fun a => a.source == source && a.channel == channel && a.msgId == msgId
      let old := (t.tun.parts.find? same).getD ⟨source, channel, msgId, length, count, [], t.clk.cycle⟩
      let got := (index, bytes) :: old.got.filter fun x => x.1 != index
      if got.length = old.count then
        (t.modTun fun x => { x with parts := x.parts.filter fun a => !same a }).tunnelDeliver source channel
          ((((List.range old.count).map fun i => ((got.find? fun x => x.1 == i).map (·.2)).getD []).flatten).take old.length.toNat)
      else t.modTun fun x => { x with parts := { old with got := got } :: x.parts.filter fun a => !same a })

/-- TUNNEL_TIMEOUT: the oldest message in assembly. -/
def execTunnelTimeout (s : State) : Host.Outcome State Fault Refusal :=
  s.live fun s => (match s.tun.parts with
    | [] => s
    | a :: l => (s.runTo (l.foldl (fun m x => min m x.since) a.since + ms 100)).tunnelStale)

/-- TUNNEL_RECV_TIMEOUT: the oldest pending one completes after 2 s with result 0. -/
def execTunnelRecvTimeout (s : State) : Host.Outcome State Fault Refusal :=
  s.live fun s => (match s.tun.recv with
    | [] => s
    | w :: l => ((s.runTo (w.since + sec 2)).modTun fun x => { x with recv := l }).complete w.ring w.seq 0 0)

end Sys2Proof.Machine
end

