-- ==== Sys2Proof/Machine/Window.lean ====
section
/-! DEFINITION. The shared window: accesses, claims, its partition; release of freezes (16). -/
namespace Sys2Proof.Machine

/-- A write to the shared window lands up to the first byte that its master may not write: that is a breach, or, of a master that cannot
be frozen, dropped and recorded (R395, R402; 01 R14). -/
def State.windowWrite (m : Master) (addr : Nat) (bytes : List Byte) (t : State) : State :=
  let good := (List.range bytes.length).takeWhile fun i => t.mayAccess m ((addr + i) / 4096)
  let t1 := t.memWriteList addr (bytes.take good.length)
  if good.length = bytes.length then t1
  else match m.code with
    | some _ => t1.freeze m 1 (BitVec.ofNat 32 (addr + good.length))
    | none => t1.firewallDrop m (addr + good.length) 0

/-- A write to another region of 01 R14: by a master that its Writer column does not name it is dropped and recorded. The bytes of
private SRAM are kept; those of the MRAM regions stand in the state as the records that they hold, which the commands of their
owners write (log entry 137). -/
def State.regionWrite (g : Region) (m : Master) (addr : Nat) (bytes : List Byte) (t : State) : State :=
  if !g.writer m then t.firewallDrop m addr 0
  else match g with
    | .priv c => t.sramWrite c addr bytes
    | _ => t

/-- WINDOW_ACCESS: an access of a master to the shared window or to another region of 01 R14, a beat for each 32 bytes (01 R16). A read
outside a master's rights returns zero and changes nothing (R395). -/
def execWindowAccess (m : Master) (g : Region) (write : Bool) (addr : Nat) (bytes : List Byte) (s : State) : Host.Outcome State Fault Refusal :=
  s.live fun s => (s.transact m fun t =>
    let t := t.beats (beatsOf addr bytes.length - 1) m
    if !write || decide (g.size < addr + bytes.length) then t
    else if g = .window then t.windowWrite m addr bytes
    else t.regionWrite g m addr bytes)

/-! ### Claims (16 R399) -/

/-- The run of pages that a WIN_CLAIM or WIN_RELEASE names. -/
def runOf (d : Desc) : List Nat := (List.range (d.h 26).toNat).map fun i => (d.h 24).toNat + i

/-- WIN_CLAIM is refused while a page of the run is not FREE. -/
def State.refClaim (s : State) (d : Desc) : Bool := (runOf d).any fun p => (s.page p).owner != .free

/-- The pages of a run that are still as the descriptor needs them move; the result is their number. -/
def State.moveRun (r : Ring) (d : Desc) (src dst : PageOwner) (s : State) : State :=
  let go := (runOf d).filter fun p => (s.page p).owner == src && s.win.rangeOf p == ringFn r
  (go.foldl (fun t p => t.passPage dst 0 p) s).complete r d.seq (if go.length < (d.h 26).toNat then 1 else 0) (BitVec.ofNat 32 go.length)

/-- WIN_CLAIM. -/
def execWinClaim (r : Ring) (d : Desc) (s : State) : Host.Outcome State Fault Refusal :=
  .next (s.work r d fun t => t.moveRun r d .free .host)

/-- WIN_RELEASE. -/
def execWinRelease (r : Ring) (d : Desc) (s : State) : Host.Outcome State Fault Refusal :=
  .next (s.work r d fun t => t.moveRun r d .host .free)

/-! ### Partition and ownership (16 R394, R407, R408) -/

/-- A partition leaves each function at least 16 pages, and every page whose range it changes is FREE. -/
def State.partOk (s : State) (a b : BitVec 12) : Bool :=
  let new := { s.win with pf1First := a, pf2First := b }
  decide (16 ≤ a.toNat) && decide (a.toNat + 16 ≤ b.toNat) && decide (b.toNat + 16 ≤ 4096) &&
  s.win.pages.all fun x => x.2.owner == .free || s.win.rangeOf x.1 == new.rangeOf x.1

/-- WIN_PART_WRITE: PF2, before configuration lock. -/
def execWinPartWrite (m : Master) (w : Word) (s : State) : Host.Outcome State Fault Refusal :=
  s.live fun s => (s.guardedWrite m true true (m == .pf 2 && !s.lcs.lock) 0x6000 fun t =>
    let a := bitsOf w 0 12
    let b := bitsOf w 16 12
    if t.partOk a b then t.modWin fun x => { x with pf1First := a, pf2First := b } else t.raise .frz 3)

/-- WIN_OWN_READ: the selection advances. -/
def execWinOwnRead (f : Fn) (s : State) : Host.Outcome State Fault Refusal :=
  s.live fun s => (s.transact (.pf f) fun t => t.modWin fun w => { w with ownSel := vmod w.ownSel f (· + 1) })

/-! ### Release of a freeze (16 R404, R407) -/

/-- The function that a master code names. -/
def fnOfCode (c : Fin 24) : Option Fn := if h : c.val < 3 then some ⟨c.val, h⟩ else none

/-- A ring takes the state that its EN gives; its shadow record is written; fetching waits for a doorbell. -/
def State.unfreezeRing (r : Ring) (s : State) : State :=
  let q := s.ring.get r
  let bme := (s.ringF.get (ringFn r)).busMaster
  if q.st ≠ .frozen then s
  else (s.modRing r fun q => { q with waitDb := true }).ringGo r
    (if q.en then (if bme then .running else .held) else if q.outstanding = 0 then .disabled else .draining)

/-- The master that holds a token is released. -/
def State.releaseFreeze (token : Word) (s : State) : State :=
  match (List.finRange 24).find? fun c => (s.frz.m.get c).frozen && (s.frz.m.get c).token == token with
  | none => s.raise .frz 2
  | some c =>
    let s1 := (s.modFrz fun z => { z with m := vmod z.m c fun x => { x with frozen := false, token := 0 } }).raise .frz 1
    match fnOfCode c with
    | some f => s1.forAll fun (r : Ring) t => if ringFn r = f then t.unfreezeRing r else t
    | none => s1

/-- The management core acts under a policy with a permission (19 R459). -/
def State.permitted (s : State) (b : Nat) : Bool := match s.lcs.policy with | some p => p.getLsbD b | none => false

/-- FRZ_RELEASE_WRITE. -/
def execFrzReleaseWrite (m : Master) (w : Word) (s : State) : Host.Outcome State Fault Refusal :=
  s.live fun s => (
    if m = .mgmt && !s.permitted 0 then s.firewallDrop m 0x8004 w.toNat
    else s.guardedWrite m true true (m == .pf 2 || m == .mgmt) 0x8004 (·.releaseFreeze w))

end Sys2Proof.Machine
end

