-- ==== Sys2Proof/Machine/Delivery.lean ====
section
/-! DEFINITION. Acceptance, the journal and its recovery after a reset (15 R376-R381; 17). -/
namespace Sys2Proof.Machine

/-! ### Classes, deadlines, buckets (15 R376-R378) -/

/-- Take-up promise of a class in ns. -/
def promise (cls : Byte) : Nat :=
  if cls = 1 then 2000000 else if cls = 2 then 50000000 else if cls = 4 then 2000000000 else 250000

/-- The deadline of a descriptor from an instant: of the descriptor a fence names while that has not taken up (R378). -/
def State.deadlineOf (s : State) (d : Desc) (now : Nat) : Nat :=
  let own := max now d.notBefore.toNat + promise d.cls
  if d.opcode = 0x0F02 then
    match s.slot? (fenceRing d) (fenceSeq d) with
    | some j => if j.tookUp || j.comp.isSome then own else j.deadline
    | none => own
  else own

/-- A bucket's level now (R376). -/
def Bucket.fill (rate : Nat × Nat) (now : Nat) (b : Bucket) : Bucket :=
  ⟨min (b.level + (now - b.since) * rate.1) (rate.2 * tokenUnit), now⟩

def Bucket.has (b : Bucket) : Bool := decide (tokenUnit ≤ b.level)
def Bucket.take (b : Bucket) : Bucket := { b with level := b.level - tokenUnit }
def Bucket.giveBack (rate : Nat × Nat) (b : Bucket) : Bucket := { b with level := min (b.level + tokenUnit) (rate.2 * tokenUnit) }

/-- The class of a descriptor as a bucket's index. -/
def clsIx (c : Byte) : Fin 5 := Fin.ofNat 5 c.toNat

/-- Every bucket of a ring and of the device filled up to now. -/
def State.fillBuckets (r : Ring) (s : State) : State :=
  let now := s.clk.cycle
  (s.modRing r fun q => { q with buckets := vmapIdx q.buckets fun c b => b.fill (ringRate c) now }).modDlv fun v =>
    { v with devBuckets := vmapIdx v.devBuckets fun c b => b.fill (devRate c) now }

/-! ### Refusals and commits (15 R380, R381) -/

/-- A refusal's completion waits to be written (R381, R384). -/
def State.refuseComp (r : Ring) (d : Desc) (st : CStatus) (detail : Half) (result : Word) (s : State) : State :=
  (((s.modRing r fun q =>
    { q with refusals := q.refusals ++ [(⟨d.seq, st, false, detail, result, BitVec.ofNat 64 s.now, 0⟩, d.irqNow)] }).modRingF (ringFn r) fun f =>
      { f with cntRefused := satInc f.cntRefused })).raise (.ring (ringFn r)) 0

/-- A decision to accept is taken back: tokens, outstanding count, pages (R380; 16 R398). -/
def State.undecide (r : Ring) (x : Committing) (s : State) : State :=
  let c := clsIx x.desc.cls
  (((s.fillBuckets r).modRing r fun q =>
    { q with outstanding := q.outstanding - 1, buckets := vmod q.buckets c (·.giveBack (ringRate c)) }).modDlv fun v =>
      { v with devBuckets := vmod v.devBuckets c (·.giveBack (devRate c)) }).passPages .host 0 x.pages

/-- The shadow record of a change of A; nothing reaches host memory for a ring DISABLED after a function-level reset (R530). -/
def State.shadowA (r : Ring) (s : State) : State := if (s.ring.get r).st = .disabled then s else s.writeShadow r

/-- The work of a slot may be handed over: its carrier is ready, and for DC3 the not-before time has come (17 R410, R418). -/
def State.mayHand (s : State) (r : Ring) (d : Desc) : Bool :=
  s.carrierReady r d && (d.cls != 3 || decide (d.notBefore.toNat ≤ s.now))

/-- The acceptance record is committed: the descriptor is accepted, with the next journal position, and the work is handed over where it may
be. The journal holds the last 320 sequences of a ring (17 R410-R412). -/
def State.accept (r : Ring) (x : Committing) (s : State) : State :=
  let d := x.desc
  let slot : JSlot :=
    { seq := d.seq, desc := d, st := if s.mayHand r d then .handed else .accepted, comp := none, tookUp := false, jpos := s.dlv.jpos + 1,
      accepted := s.now, lost := false, deadline := s.deadlineOf d s.now, pages := x.pages, written := false, everWritten := false }
  let e := (s.ring.get r).exp.toNat
  (s.modDlv fun v =>
    { v with jpos := v.jpos + 1, first := if (v.slots.get r).isEmpty then vmod v.first r fun _ => d.seq else v.first,
             slots := vmod v.slots r fun l => l.filter (fun j => decide (e ≤ j.seq.toNat + 320)) ++ [slot] }).modRingF (ringFn r) fun f =>
    { f with cntAccept := satInc f.cntAccept }

/-- ACCEPTANCE_COMMIT: the oldest commit of the ring. One that fails verification undoes the decision and those behind it (15 R380; 17 R413). -/
def execAcceptanceCommit (r : Ring) (verified : Bool) (s : State) : Host.Outcome State Fault Refusal :=
  s.live fun s => (match (s.ring.get r).committing with
    | [] => s
    | x :: rest =>
      if verified then (((s.modRing r fun q => { q with committing := rest }).accept r x)).shadowA r
      else
        let s1 := (s.modRing r fun q => { q with committing := [], exp := x.desc.seq }).modDlv fun v =>
          { v with fault := true, lastRetry := s.clk.cycle }
        let s2 := (s1.undecide r x).refuseComp r x.desc .state 5 0
        (rest.foldl (fun t y => (t.undecide r y).refuseComp r y.desc .state 2 0) s2).shadowA r)

/-- The ring engine stops: the commit in progress of each ring completes, those behind it are not made, and their descriptors are fetched
again; what the commit accepts is not handed over (17 R413, R422, R423). Their pages return with the generation increased by 1. DESIGN CHOICE (log entry 19). -/
def State.stopEngine (s : State) : State :=
  s.forAll fun (r : Ring) t =>
    match (t.ring.get r).committing with
    | [] => t
    | x :: rest =>
      let t1 := ((t.modRing r fun q => { q with committing := [] }).accept r x).modSlot r x.desc.seq fun j => { j with st := .accepted }
      match rest with
      | [] => t1.shadowA r
      | y :: _ => (((rest.foldl (fun u z => u.undecide r z) t1).modRing r fun q => { q with exp := y.desc.seq, fetch := y.slot })).shadowA r

/-- JOURNAL_RETRY (17 R413). -/
def execJournalRetry (verified : Bool) (s : State) : Host.Outcome State Fault Refusal :=
  s.live fun s => (
    if !s.dlv.fault then s
    else
      let s := s.runTo (s.dlv.lastRetry + ms 10)
      s.modDlv fun v => { v with fault := !verified, lastRetry := s.clk.cycle })

/-- NOT_BEFORE_REACHED: the work of a DC3 descriptor is handed over (15 R377; 17 R410). -/
def execNotBeforeReached (r : Ring) (seq : DWord) (s : State) : Host.Outcome State Fault Refusal :=
  s.live fun s => (match s.slot? r seq with
    | some j =>
      if j.st = .accepted && j.desc.cls = 3 then
        let s := s.runToFleet j.desc.notBefore.toNat
        if s.carrierReady r j.desc then s.modSlot r seq fun x => { x with st := .handed } else s
      else s
    | none => s)

/-! ### DLV_RING_FORGET (17 R423) -/

def forgetRing (d : Desc) : Ring := Fin.ofNat 64 d.target.toNat

def State.refForget (s : State) (d : Desc) : Bool :=
  (s.ring.get (forgetRing d)).st != .disabled || (s.dlv.slots.get (forgetRing d)).any fun j => j.st != .consumed

/-- DLV_RING_FORGET. A ring that has been set up again meanwhile keeps its records: its result is 0. -/
def execDlvRingForget (r : Ring) (d : Desc) (s : State) : Host.Outcome State Fault Refusal :=
  .next (s.work r d fun t =>
    let q := forgetRing d
    if t.refForget d then t.complete r d.seq 0 0
    else
      let n := (t.dlv.slots.get q).length
      ((t.modDlv fun v => { v with slots := vmod v.slots q fun _ => [], first := vmod v.first q fun _ => 0 }).modRing q fun x =>
        { x with exp := 0 }).complete r d.seq 0 (BitVec.ofNat 32 n))

/-! ### Recovery (17 R418, R419) -/

/-- Carriers of work: control, data, management plane, legal domain. -/
def carrierOf (r : Ring) (d : Desc) : Fin 4 := if d.isLegal then 3 else if ringFn r = 0 then 0 else if ringFn r = 1 then 1 else 2

def State.carrierUp (s : State) (k : Fin 4) : Bool :=
  match k with | 0 => s.pwr.controlReady | 1 => s.pwr.dataReady | 2 => s.pwr.mgmtReady | 3 => s.bil.legalUp

/-- A reset has removed the session that a descriptor acts on. -/
def State.objectGone (s : State) (d : Desc) : Bool :=
  (match outletOf d.target with
   | some o => (d.opcode == 0x0703 || d.opcode == 0x0705) && s.refSession o (d.w 24)
   | none => false) ||
  (decide (0x0801 ≤ d.opcode.toNat) && decide (d.opcode.toNat ≤ 0x0805) && s.refVclSession d)

/-- Code of a life-cycle state (19 R445). -/
def LcState.code : LcState → Nat | .maker => 0 | .integr => 1 | .service => 2 | .ret => 3 | .scrap => 4

/-- The result that the opcode's table gives for the state at the ready instant: of an outlet command, CFG_STAGE, LNE_SWAP_DRILL, LCS_TRANSITION,
LCS_IMAGE_CONFIRM, LCS_IMAGE_WRITE, KEY_OTP_WRITE, KEY_ANCHOR_SET, KEY_CERT_FETCH of a certificate, and where the table gives one number
KEY_QUOTE, LCS_CHALLENGE and DIA_HEALTH. -/
def State.resultNow (s : State) (d : Desc) : Word :=
  if bitsOf d.opcode 8 8 = 0x07 then (match outletOf d.target with | some o => (s.out.get o).result | none => 0)
  else if d.opcode = 0x0301 then s.cfg.stagedStatus.setWidth 32
  else if d.opcode = 0x0B01 then (if s.lne.driving then 1 else 0)
  else if d.opcode = 0x1302 then BitVec.ofNat 32 s.lcs.st.code
  else if d.opcode = 0x1307 then (s.lcs.img.get (Fin.ofNat 6 (d.b 24).toNat)).rollback.setWidth 32
  else if d.opcode = 0x1305 then
    let g := s.lcs.img.get (Fin.ofNat 6 (d.b 24).toNat)
    if (if d.b 25 = 1 then g.b else g.a).valid then 0 else 1
  else if d.opcode = 0x1203 then (if (s.key.otp.get (Fin.ofNat 16 (d.b 24).toNat)).void then 1 else 0)
  else if d.opcode = 0x1204 then
    (match s.key.anchors.get (Fin.ofNat 4 ((d.b 24).toNat - 1)) with | some a => BitVec.ofNat 32 a.slot | none => 0)
  else if d.opcode = 0x1207 then
    (if d.b 24 = 0 then (if s.key.birthCert then 6647 else 0) else if d.b 24 = 1 && s.key.cert.isSome then 5369 else 0)
  else if d.opcode = 0x1206 then 3537
  else if d.opcode = 0x1301 then 64
  else if d.opcode = 0x1502 then 1024
  else 0

/-- A slot after a reset that began at a fleet time (R418). Work whose pages are lost did not finish, handed over or not (R419). -/
def State.recoverSlot (r : Ring) (start : Nat) (j : JSlot) (s : State) : State :=
  if j.comp.isSome then s
  else if j.lost || (j.st == .accepted && s.objectGone j.desc) then
    (s.completeAt r j.seq 0xFFFE 0 s.now).modRingF (ringFn r) fun f => { f with interrupted := true }
  else match j.st with
    | .handed =>
      (s.completeAt r j.seq 0xFFFD (s.resultNow j.desc) start).modRingF (ringFn r) fun f => { f with interrupted := true }
    | .accepted =>
      s.modSlot r j.seq fun x =>
        { x with st := if s.mayHand r j.desc then .handed else .accepted, deadline := s.deadlineOf j.desc s.now }
    | _ => s

/-- The records of a carrier are recovered at its ready instant, once the journal has been read. -/
def State.recoverCarrier (k : Fin 4) (s : State) : State :=
  match s.dlv.resetStart.get k with
  | none => s
  | some start =>
    if !s.carrierUp k || (List.finRange 3).any fun f => (s.ringF.get f).recovering && (k.val = 3 || k.val = f.val) then s
    else
      (s.modDlv fun v => { v with resetStart := vmod v.resetStart k fun _ => none }).forAll fun (r : Ring) t =>
        (t.dlv.slots.get r).foldl (fun u j => if carrierOf r j.desc = k then u.recoverSlot r start j else u) t

def State.recoverAll (s : State) : State := s.forAll fun (k : Fin 4) t => t.recoverCarrier k

/-- JOURNAL_RECOVERY: the journal has been read; a plane's records wait for its ready instant. -/
def execJournalRecovery (s : State) : Host.Outcome State Fault Refusal :=
  s.live fun s => ((s.forAll fun (f : Fn) t =>
    if (t.ringF.get f).recovering then t.modRingF f fun x => { x with recovering := false, recovered := true } else t).recoverAll)

/-- The journal at the start of a reset of carriers: their recovery is due. A completion that the journal does not hold is lost with the
reset that the ring engine shares (17 R418). -/
def State.noteReset (ks : List (Fin 4)) (engine : Bool) (s : State) : State :=
  let s1 := s.modDlv fun v => { v with resetStart := ks.foldl (fun w k => vmod w k fun x => x <|> some s.now) v.resetStart }
  if !engine then s1
  else s1.forAll fun (r : Ring) t => t.modDlv fun v => { v with slots := vmod v.slots r fun l => l.map fun j =>
    if j.comp.isSome && (j.st == .handed || j.st == .accepted) then { j with comp := none, st := .handed } else j }

end Sys2Proof.Machine
end

