-- ==== Sys2Proof/Machine/Battery.lean ====
section
/-! DEFINITION. The buffer battery: counting, references, impedance, ends, curves, held steps, history; the backup cell's estimate
(14). Integer divisions of signed values are truncated toward zero (log entry 30). -/
namespace Sys2Proof.Machine

/-! ### Tables (14 R349) -/

/-- Piecewise linear lookup over rising points, clamped at the ends. -/
def lookup (x : Int) : List (Int × Int) → Int
  | [] => 0
  | [(_, y)] => y
  | (x0, y0) :: (x1, y1) :: t => if x ≤ x0 then y0 else if x ≤ x1 then interp x x0 y0 x1 y1 else lookup x ((x1, y1) :: t)

/-- A row of a table at a temperature: each column is looked up in temperature. -/
def rowAt (temps : List Int) (rows : List (List Int)) (t : Int) (n : Nat) : List Int :=
  (List.range n).map fun k => lookup t (temps.zip (rows.map fun r => nth r k 0))

/-- The learned impedance table R(T, s) in µΩ (14 R353), s in 0.01 %. -/
def State.batZ (s : State) (b : BatCfg) (t : Int) (soc : Nat) : Int :=
  let rows := s.bat.z.toList.map fun r => r.toList.map fun w => (w.toNat : Int)
  let row := rowAt b.temps rows t 10
  lookup soc ((List.range 10).map fun k => ((500 + 1000 * k : Nat) : Int) |> fun x => (x, nth row k 0))

/-- The inverse of the OCV table at a temperature, 0.01 %: clamped, the lowest state of charge of a flat run. -/
def ocvInverse (b : BatCfg) (t v : Int) : Nat :=
  let row := rowAt b.temps (b.ocv.map fun r => r.map Int.ofNat) t 11
  let pts := (List.range 11).map fun k => (nth row k 0, ((1000 * k : Nat) : Int))
  (lookup v pts).toNat

/-- Valid cell-group readings, 0.01 °C. -/
def State.cellTemps (s : State) (b : BatCfg) : List Int := b.chans.filterMap s.hkVal

/-- T_b: the mean of the valid readings; 0 where none is valid, when both curves are 0 (14 R349, R355). -/
def State.batTemp (s : State) (b : BatCfg) : Int :=
  let l := s.cellTemps b
  if l.isEmpty then 0 else (l.foldl (· + ·) 0).tdiv l.length

/-! ### References (14 R351, R352) -/

/-- t_r in hours. -/
def State.batAge (s : State) : Nat := (s.now - s.bat.trueRef) / 3600000000000

/-- s_v at the means of the last round. -/
def State.socV (s : State) (b : BatCfg) : Nat :=
  let t := s.batTemp b
  ocvInverse b t (s.bat.volt - (s.bat.curr * s.batZ b t s.bat.soc).tdiv 1000000)

/-- The history record of the present values. -/
def Bat.record (x : Bat) : BatRec := ⟨x.c, x.soc, x.ur, x.trueRef, x.capacity, x.cycles, x.overdraw, x.relearn, x.z⟩

/-- Write the history, or let the write wait while MRAM writes are forbidden (14 R359; 09 R232). -/
def State.batStore (s : State) : State :=
  if s.thm.mramBlocked then s.modBat fun x => { x with histWait := true }
  else s.modBat fun x => { x with hist := (x.record :: x.hist).take 2, histWait := false }

/-- A reference sets soc and the count. -/
def State.setSoc (soc : Nat) (s : State) : State :=
  s.modBat fun x => { x with soc := soc, c := soc * x.capacity / 10000 }

/-- A true reference. -/
def State.trueRefTaken (soc ur : Nat) (s : State) : State :=
  (((s.setSoc soc).modBat fun x => { x with ur := ur, u := ur, trueRef := s.now, degraded := false }).raise .bat 6).batStore

/-- A capacity measurement at a full reference (14 R354). -/
def State.measureCapacity (b : BatCfg) (s : State) : State :=
  match s.bat.emptyAt with
  | some t =>
    if s.now - t < 7 * 86400 * 1000000000 then
      s.modBat fun x =>
        let c := (x.capacity : Int) + (x.sinceEmpty - x.capacity).tdiv 4
        { x with capacity := (max (b.capacity / 2 : Int) (min (b.capacity * 11 / 10 : Int) c)).toNat, relearn := false, overdraw := 0 }
    else s
  | none => s

/-! ### Ends of charge and discharge (14 R354) -/

def State.endDischarge (b : BatCfg) (s : State) : State :=
  ((s.modBat fun x => { x with eod := true }).trueRefTaken (s.socV b) 50).modBat fun x =>
    { x with sinceEmpty := 0, emptyAt := some s.now }

def State.batEnds (b : BatCfg) (s : State) : State :=
  let held := fun (t : Option Nat) => match t with | some k => decide (k + sec 1 ≤ s.clk.cycle) | none => false
  let s1 := if held s.bat.eodSince && !s.bat.eod then s.endDischarge b else s
  if held s.bat.eocSince then s1.modBat fun x => { x with eoc := true } else s1

/-- What a round notes of its voltage. -/
def State.endNote (b : BatCfg) (s : State) : State :=
  let v := s.bat.volt
  s.modBat fun x =>
    { x with eodSince := if v ≤ b.vEod then x.eodSince <|> some s.clk.cycle else none,
             eocSince := if (b.vEoc : Int) ≤ v then x.eocSince <|> some s.clk.cycle else none,
             eod := x.eod && decide (v * 100 < 101 * b.vEod), eoc := x.eoc && decide ((99 * b.vEoc : Int) < v * 100) }

/-! ### Held steps (14 R357) -/

/-- The held step ends; the descriptors that asked complete with the start of the step as its time of effect. -/
def State.heldEnd (detail : Half) (s : State) : State :=
  match s.bat.heldRun with
  | none => s
  | some h =>
    h.ring.foldl (fun t w => t.completeAt w.1 w.2 detail 0 h.start) (s.modBat fun x => { x with heldRun := none })

def State.heldAbort (s : State) : State := if s.bat.heldRun.isSome then (s.heldEnd 1).raise .bat 9 else s

/-- The conditions that abandon a held step at any time. -/
def State.heldBroken (s : State) : Bool :=
  s.alc.st != .normal || s.thm.batBlocked || s.bat.eod || s.bat.eoc || s.bat.eodLevel == 3 || s.bat.eocLevel == 3

def State.heldCheck (s : State) : State := if s.heldBroken then s.heldAbort else s

/-- A held step starts at an apply instant at least 20 µs after its request in NORMAL. -/
def State.heldStart (s : State) : State :=
  match s.bat.heldReq with
  | some (who, t) =>
    if s.bat.heldRun.isNone && s.alc.st = .normal && decide (t + 20000 ≤ s.now) then
      s.modBat fun x => { x with heldReq := none, heldRun := some ⟨who, s.now, x.tickMean⟩ }
    else s
  | none => s

/-- The device asks for a held step while `DEGRADED` and `HELD_EN` are set, at most once per hour. -/
def State.heldAsk (b : BatCfg) (s : State) : State :=
  let due := match s.bat.lastHeldReq with | some t => decide (t + 3600000000000 ≤ s.now) | none => true
  if s.bat.degraded && b.heldEn && due && s.bat.heldReq.isNone && s.bat.heldRun.isNone then
    s.modBat fun x => { x with heldReq := some ([], s.now), lastHeldReq := some s.now }
  else s

/-- HELD_STEP_START. -/
def execHeldStepStart (s : State) : Host.Outcome State Fault Refusal :=
  s.live fun s => (match s.bat.heldReq with
    | some (_, t) => if s.alc.st = .normal then ((s.runToFleet (t + 20000)).runToOffset 150000).heldStart else s
    | none => s)

/-- HELD_DONE: after 120,000 rounds a held-step reference is taken. -/
def execHeldDone (s : State) : Host.Outcome State Fault Refusal :=
  s.live fun s => (match s.bat.heldRun, s.cfg.active.battery with
    | some h, some b =>
      let t := s.runToFleet (h.start + 120000 * Config.roundNs)
      (((t.trueRefTaken (t.socV b) 150).modBat fun x => { x with cntHeld := satInc x.cntHeld }).raise .bat 8).heldEnd 0
    | _, _ => s)

/-! ### Warnings (14 R358) -/

/-- A warning level: the number of its three thresholds in force, each with 1 % of hysteresis. -/
def warnLevel (old : Nat) (hit clear : Nat → Bool) : Nat :=
  ((List.range 3).filter fun k => hit k || (decide (k < old) && !clear k)).length

/-- The bits raised between two levels. -/
def State.raiseLevels (base old new : Nat) (s : State) : State :=
  (List.range 3).foldl (fun t k => if old ≤ k && k < new then t.raise .bat (base + k) else t) s

def State.batWarn (b : BatCfg) (s : State) : State :=
  let d := [b.d1, b.d2, b.d3]
  let c := [b.c1, b.c2, b.c3]
  let x := s.bat
  let nd := warnLevel x.eodLevel.toNat (fun k => decide (x.soc ≤ nth d k 0)) fun k => decide (nth d k 0 + 100 ≤ x.soc)
  let nc := warnLevel x.eocLevel.toNat (fun k => decide (nth c k 0 ≤ x.soc)) fun k => decide (x.soc + 100 ≤ nth c k 0)
  (((s.modBat fun x => { x with eodLevel := BitVec.ofNat 2 nd, eocLevel := BitVec.ofNat 2 nc }).raiseLevels 0 x.eodLevel.toNat nd).raiseLevels
    3 x.eocLevel.toNat nc)

/-! ### The housekeeping round (14 R350-R359) -/

/-- A legal sample of lanes 22 (mV) and 23 (mA). -/
def State.batSample (v i : Int) (s : State) : State :=
  s.modBat fun x =>
    { x with acc := x.acc + i, vSum := x.vSum + v, iSum := x.iSum + i, sumN := x.sumN + 1, tickSum := x.tickSum + i, tickN := x.tickN + 1 }

/-- The mean of lane 23 over the tick that ends. -/
def State.batTick (s : State) : State :=
  s.modBat fun x =>
    { x with tickMean := if x.tickN = 0 then x.tickMean else x.tickSum.tdiv x.tickN, tickSum := 0, tickN := 0 }

/-- K_q of 14 R350. -/
def kq : Int := 281250000

/-- Counting (14 R350, R354). -/
def State.batCount (b : BatCfg) (s : State) : State :=
  let x := s.bat
  let dq0 := x.acc.tdiv kq
  let dq := if 0 < dq0 then (dq0 * b.eff).tdiv 10000 else dq0
  let c := (x.c : Int) + dq
  let under := decide (c < 0)
  let dis := x.disRem + (-dq0).toNat
  let cap := max 1 x.capacity
  let s1 := s.modBat fun x =>
    { x with acc := x.acc - dq0 * kq, c := min x.capacity c.toNat, overdraw := if under then x.overdraw + (-c).toNat else x.overdraw,
             sinceEmpty := x.sinceEmpty + dq, cycles := x.cycles + BitVec.ofNat 32 (dis / cap), disRem := dis % cap,
             soc := min x.capacity c.toNat * 10000 / cap,
             relearn := x.relearn || (decide (c ≤ 0) && decide (dq < 0) && decide ((b.vEod : Int) < x.volt)) }
  if under then s1.raise .bat 10 else s1

/-- Timers of the rest and full references, and the run of quasi-rest rounds; `old` is the mean current of the round before. -/
def State.refNote (b : BatCfg) (old : Int) (s : State) : State :=
  s.modBat fun x =>
    { x with restSince := if x.curr.natAbs ≤ b.restI then x.restSince <|> some s.clk.cycle else none,
             fullSince := if decide ((995 * b.vEoc : Int) ≤ x.volt * 1000) && decide (0 < x.curr) && decide (x.curr ≤ b.taperI) then
                 x.fullSince <|> some s.clk.cycle else none,
             quasiRun := if (x.curr - old).natAbs * 100 ≤ b.quasi then x.quasiRun + 1 else 1 }

/-- References of a round; a true one outranks a quasi-rest point (14 R351, R363). -/
def State.batRefs (b : BatCfg) (s : State) : State :=
  let held := fun (t : Option Nat) (n : Nat) => match t with | some k => decide (k + sec n ≤ s.clk.cycle) | none => false
  if held s.bat.fullSince 60 then
    (((s.measureCapacity b).trueRefTaken 10000 50).modBat fun x => { x with fullSince := some s.clk.cycle })
  else if held s.bat.restSince b.restS then
    (s.trueRefTaken (s.socV b) 50).modBat fun x => { x with restSince := some s.clk.cycle }
  else if 200 ≤ s.bat.quasiRun then
    let u := s.bat.u
    let soc := (s.bat.soc : Int) + roundDivI (((s.socV b : Int) - s.bat.soc) * (u * u : Nat)) (u * u + 90000)
    (s.setSoc soc.toNat).modBat fun x => { x with quasiRun := 0 }
  else s

/-- The estimator starts after a reset or with new tables: from the newer record, or afresh (14 R359). -/
def State.batRestart (b : BatCfg) (s : State) : State :=
  match s.bat.hist with
  | h :: _ =>
    s.modBat fun x =>
      { x with present := true, c := h.c, soc := h.soc, ur := h.ur, u := h.ur, trueRef := h.trueRef, capacity := h.capacity, cycles := h.cycles,
               overdraw := h.overdraw, relearn := h.relearn, z := h.z, fresh := false }
  | [] =>
    (s.modBat fun x =>
      { x with present := true, capacity := b.capacity, fresh := true, degraded := true,
               z := vmapIdx (.replicate 8 (.replicate 10 0)) fun t r => vmapIdx r fun k _ =>
                 BitVec.ofNat 32 (nth (nth b.z t.val []) k.val 0) }).raise .bat 7

/-- What a housekeeping round does for the battery. -/
def State.batRound (s : State) : State :=
  match s.cfg.active.battery with
  | none => s.modBat fun x => { x with present := false, vSum := 0, iSum := 0, sumN := 0 }
  | some b =>
    let s0 := if s.bat.present then s else s.batRestart b
    let old := s0.bat.curr
    let l := s0.cellTemps b
    let s1 := s0.modBat fun x =>
      { x with volt := if x.sumN = 0 then x.volt else x.vSum.tdiv x.sumN, curr := if x.sumN = 0 then x.curr else x.iSum.tdiv x.sumN,
               vSum := 0, iSum := 0, sumN := 0,
               tLo := match l with | [] => x.tLo | a :: t => t.foldl min a, tHi := match l with | [] => x.tHi | a :: t => t.foldl max a }
    let s2 := if s1.bat.fresh then (s1.setSoc (s1.socV b)).modBat fun x => { x with fresh := false } else s1.batCount b
    let age := s2.batAge
    let s3 := s2.modBat fun x => { x with u := x.ur + b.growth * age }
    let s4 := (((s3.refNote b old).endNote b).batEnds b).batRefs b
    let s5 := if decide ((if b.degradedH = 0 then 24 else b.degradedH) ≤ s4.batAge) && !s4.bat.degraded then
        (s4.modBat fun x => { x with degraded := true }).raise .bat 7 else s4
    let s6 := ((s5.batWarn b).heldCheck).heldAsk b
    if s6.bat.histWait && !s6.thm.mramBlocked then s6.batStore else s6

/-- BATTERY_END: the voltage has stood beyond an end for 1 s. -/
def execBatteryEnd (s : State) : Host.Outcome State Fault Refusal :=
  s.live fun s => (match s.cfg.active.battery, s.bat.eodSince <|> s.bat.eocSince with
    | some b, some t => ((s.runTo (t + sec 1)).batEnds b).heldCheck
    | _, _ => s)

/-- BATTERY_HISTORY_WRITE: every 60 s (14 R359). -/
def execBatteryHistoryWrite (s : State) : Host.Outcome State Fault Refusal :=
  s.live fun s => (if s.bat.present then
      let t := s.runTo (s.bat.lastHistory + sec 60)
      (t.batStore).modBat fun x => { x with lastHistory := t.clk.cycle }
    else s)

/-! ### Impedance (14 R353) -/

/-- Index of the nearest entry of a list. -/
def nearest (x : Int) (l : List Int) : Nat :=
  ((l.zip (List.range l.length)).foldl (fun (best : Int × Nat) yk =>
    if (yk.1 - x).natAbs < (best.1 - x).natAbs then yk else best) (l.headD 0, 0)).2

/-- STEP_MEASUREMENT: the means of lanes 22 and 23 before and after the apply instant, and the variation of lane 23 across the
second window. -/
def execStepMeasurement (v1 i1 v2 i2 : Int) (spread : Nat) (s : State) : Host.Outcome State Fault Refusal :=
  s.live fun s => (match s.bat.meas, s.cfg.active.battery with
    | some t, some b =>
      let s1 := (s.runTo (t + ms 5)).modBat fun x => { x with meas := none }
      let ti : Fin 8 := Fin.ofNat 8 (nearest (s1.batTemp b) b.temps)
      let si : Fin 10 := Fin.ofNat 10 (min 9 (s1.bat.soc / 1000))
      let cell : Int := ((s1.bat.z.get ti).get si).toNat
      let di := i2 - i1
      let lim := if 0 < i2 then b.chgI else b.disI
      let r := ((v2 - v1) * 1000000).tdiv di
      if di ≠ 0 && decide (lim ≤ di.natAbs * 20) && decide (spread * 100 ≤ i2.natAbs) && decide (cell ≤ 4 * r) && decide (r ≤ 4 * cell) then
        s1.modBat fun x =>
          { x with z := vmod x.z ti fun row => vmod row si fun _ => clampU 32 (cell + (r - cell).tdiv 8).toNat,
                   rLast := clampU 32 r.toNat, cntSteps := satInc x.cntSteps }
      else s1.modBat fun x => { x with cntReject := satInc x.cntReject }
    | _, _ => s)

/-! ### Curves and grants (14 R355, R356) -/

/-- The usable window (14 R352). -/
def State.batWindow (s : State) (b : BatCfg) : Int × Int :=
  if s.bat.degraded then ((b.lo : Int) + s.bat.u, (b.hi : Int) - s.bat.u) else (b.lo, b.hi)

/-- Quarters kept at a level by a band (03 R70; 14 R355). -/
def quarters (lam band : Nat) : Nat := min 4 (4 + 4 * (15 - band) - lam)

/-- The battery curves at a latch: charging and discharge, 100 W. -/
def State.batCurves (s : State) : Vector Nat 64 × Vector Nat 64 :=
  let zero : Vector Nat 64 := .replicate 64 0
  match s.cfg.active.battery with
  | none => (zero, zero)
  | some b =>
    let x := s.bat
    let v := x.volt.toNat
    match x.heldRun with
    | some h =>
      let p := h.current.natAbs * v / 100000000
      (if 0 < h.current then .replicate 64 p else zero, if h.current < 0 then .replicate 64 p else zero)
    | none =>
      let (lo, hi) := s.batWindow b
      let none' := (s.cellTemps b).isEmpty || decide (hi ≤ lo)
      let pc := if none' || s.thm.batBlocked || x.eoc || decide (hi ≤ x.soc) then 0 else min b.chgP (b.chgI * v / 100000000)
      let ps := if none' || x.eod || decide ((x.soc : Int) ≤ lo) then 0 else min b.disP (b.disI * v / 100000000)
      (vmapIdx zero fun lam _ => pc * quarters lam.val b.bc / 4, vmapIdx zero fun lam _ => ps * (4 - quarters lam.val b.bs) / 4)

/-- The latch sets `TEMP_FAIL` while no cell-group channel is valid (14 R355). -/
def State.batLatch (s : State) : State :=
  match s.cfg.active.battery with
  | some b => s.modBat fun x => { x with tempFail := (s.cellTemps b).isEmpty }
  | none => s

/-- The battery's grant and its current limit at an apply instant (14 R356, R357); a change opens a step measurement outside held
steps (14 R353, R363). At a voltage of 0 the manual gives no limit: a free value (log entry 4). -/
def State.batGrantSet (g : Int) (s : State) : State :=
  let v := s.bat.volt.toNat
  let lim := match s.bat.heldRun with
    | some h => h.current.natAbs
    | none => if v = 0 then Config.freeNat s.free else g.natAbs * 100000000 / v
  let changed := g != s.bat.grant
  let s1 := if s.bat.heldRun.isNone && v = 0 then s.useFree else s
  s1.modBat fun x =>
    { x with grant := g, grantIlim := lim,
             meas := if changed then (if x.heldRun.isSome then none else some s.clk.cycle) else x.meas }

/-! ### Backup cell and ship mode (14 R360-R362) -/

/-- The estimate of 14 R360 from VBAK in mV. -/
def bakEstimate (v : Nat) : Nat := (lookup v [(1800, 0), (2200, 10), (2350, 50), (2500, 90), (2700, 100)]).toNat

/-- BAK_ESTIMATE: once per minute in RUN, from VBAK as `THM_SUPPLY[5]` holds it. -/
def execBakEstimate (s : State) : Host.Outcome State Fault Refusal :=
  s.live fun s => (if s.pwr.mode != .run then s
    else
      let t := s.runTo (s.bat.lastEstimate + sec 60)
      let vbak : Half := BitVec.ofNat 16 (t.thm.supply.get 5)
      let e := bakEstimate vbak.toNat
      let t1 := t.modBat fun x =>
        { x with vbak := vbak, bakEst := BitVec.ofNat 8 e, bakLow := decide (e < 20), bakCrit := decide (e < 5), lastEstimate := t.clk.cycle }
      if decide (e < 20) && !s.bat.bakLow then t1.raise .bat 11 else t1)

/-- BAT_HELD_STEP is refused without battery tables and while a held step is running; BAT_SHIP on the A8T and while MRAM writes are
forbidden (14 R361, R362). -/
def State.refHeldStep (s : State) : Bool := s.cfg.active.battery.isNone || s.bat.heldRun.isSome
def State.refShip (s : State) : Bool := s.glb.variant == .a8t || s.thm.mramBlocked

/-- BAT_HELD_STEP: the request; it completes with the step. -/
def execBatHeldStep (r : Ring) (d : Desc) (s : State) : Host.Outcome State Fault Refusal :=
  .next (s.work r d fun t => 
    let old := t.bat.heldReq.getD ([], t.now)
    t.modBat fun x => { x with heldReq := some (old.1 ++ [(r, d.seq)], old.2), lastHeldReq := some t.now })

/-- BAT_SHIP: arm ship mode, or cancel it. -/
def execBatShip (r : Ring) (d : Desc) (s : State) : Host.Outcome State Fault Refusal :=
  .next (s.work r d fun t =>
    (t.modBat fun x => { x with shipArmed := !(d.b 24).getLsbD 0 }).complete r d.seq 0 0)

end Sys2Proof.Machine
end

