-- ==== Sys2Proof/Machine/Matrix.lean ====
section
/-! DEFINITION. The contactor matrix: requirements, moves of phases between stage groups, matrix feedback (07 R175,
R189-R194). -/
namespace Sys2Proof.Machine

/-! ### Entries and drives -/

/-- The contactor that joins a phase and an outlet, with its entry (07 R175). -/
def State.mtxFind (s : State) (n : Phase) (o : Outlet) : Option (Nat × MtxEntry) :=
  ((List.range 64).zip s.cfg.active.matrix).find? fun ke => ke.2.phase == n && ke.2.outlet == o

/-- The phase's home outlet (07 R175). -/
def State.homeOf (s : State) (n : Phase) : Option Outlet :=
  (s.cfg.active.matrix.find? fun e => e.phase == n && e.home).map (·.outlet)

/-- The matrix hardware lets a drive of a phase's contactor be asserted: no other contactor of the phase is driven or shows
closed, and the phase's channel does not run unmasked (07 R191). -/
def State.driveAllowed (s : State) (k : Nat) (n : Phase) : Bool :=
  (((List.range 64).zip s.cfg.active.matrix).all fun je =>
    je.2.phase != n || je.1 == k || (!s.mtx.drv.getLsbD je.1 && !s.mtx.fb.getLsbD je.1)) && !s.matrixBlocked n

/-- Drive a contactor closed, which the output port holds, and discards with `COX_DEAD` (11 R274, R283). -/
def State.mtxClose (k : Nat) (n : Phase) (s : State) : State := if s.lne.coxDead then s else s.holdWrite (.matrix k n)

/-- The phase's move or assignment still wants the contactor closed. -/
def State.wantsClosed (s : State) (k : Nat) (n : Phase) : Bool :=
  let at_ := fun (o : Outlet) => (s.mtxFind n o).map (·.1) == some k
  match s.mtx.move.get n with
  | some v => v.step == 4 && at_ v.dst
  | none => match s.mtx.assigned.get n with | some o => at_ o | none => false

/-- The close lands where the hardware lets it (07 R191) and the lane has not taken it back (log entry 65); drive a contactor open. -/
def State.passMtx (k : Nat) (n : Phase) (s : State) : State :=
  if s.driveAllowed k n && s.wantsClosed k n then s.modMtx fun m => { m with drv := m.drv ||| bit 64 k } else s
def State.mtxOpen (k : Nat) (n : Phase) (s : State) : State :=
  if s.matrixBlocked n then s else s.modMtx fun m => { m with drv := m.drv &&& ~~~ bit 64 k }

def State.setMove (n : Phase) (v : Option MoveSt) (s : State) : State :=
  s.modMtx fun m => { m with move := vmod m.move n fun _ => v }
def State.assign (n : Phase) (o : Option Outlet) (s : State) : State :=
  s.modMtx fun m => { m with assigned := vmod m.assigned n fun _ => o }

/-! ### Steps of a move (07 R190) -/

/-- Step 4: drive the contactor of the destination closed. -/
def State.moveClose (n : Phase) (src : Option Outlet) (dst : Outlet) (homing : Bool) (s : State) : State :=
  match s.mtxFind n dst with
  | none => s
  | some (k, _) => (s.setMove n (some ⟨src, dst, 4, s.clk.cycle, homing⟩)).mtxClose k n

/-- A move begins: an unassigned phase at step 4, another at step 1, which leaves its group, asserts the commutation signal and
re-interleaves the group left. -/
def State.moveStart (n : Phase) (dst : Outlet) (s : State) : State :=
  match s.mtx.assigned.get n with
  | none => s.moveClose n none dst false
  | some a => ((s.setMove n (some ⟨some a, dst, 2, s.clk.cycle, false⟩)).applyMasks n).relimit a

/-- Step 5: the commutation signal is deasserted; a stopped channel loses the mask at once (05 R139). The phase counts in its new group from the
next tick. -/
def State.moveJoin (n : Phase) (v : MoveSt) (s : State) : State :=
  (s.setMove n (some { v with step := 5, since := s.clk.cycle })).restMasks n

/-- At the tick after step 5 the phase counts in its new group, which is re-interleaved (07 R190). -/
def State.moveCount (n : Phase) (s : State) : State :=
  match s.mtx.move.get n with
  | some v => if v.step = 5 then (((s.setMove n none).assign n (some v.dst)).joinGroup v.dst n).checkReady else s
  | none => s

/-- A step 2 that misses its bound: the phase rejoins the group it left. -/
def State.moveAbandon (n : Phase) (src dst : Outlet) (s : State) : State :=
  (((s.setMove n none).restMasks n).relimit src).raise (.out dst) 6

/-- A matrix weld: the phase is retired, its entries are disabled (07 R190). -/
def State.matrixWeld (n : Phase) (o : Outlet) (s : State) : State :=
  let mask := ((List.range 64).zip s.cfg.active.matrix).foldl
    (fun w ke => if ke.2.phase = n then w ||| bit 64 ke.1 else w) (0 : BitVec 64)
  (((s.modMtx fun m => { m with disabled := m.disabled ||| mask }).retire n 5).raise (.out o) 7).checkReady

/-- A step 4 whose feedback does not show closed: open again, the phase stays unassigned. -/
def State.moveFail (n : Phase) (dst : Outlet) (s : State) : State :=
  let s1 := match s.mtxFind n dst with | some (k, _) => s.mtxOpen k n | none => s
  (((((s1.setMove n none).assign n none).restMasks n).raise (.out dst) 6)).checkReady

/-- The bound of the step in force, in cycles from its start (07 R175, R192). -/
def State.moveBound (s : State) (n : Phase) (v : MoveSt) : Nat :=
  if v.step = 2 then ms 1
  else if v.step = 3 then
    match v.src.bind (s.mtxFind n) with | some (_, e) => ms (e.relMs + 5) | none => 0
  else match s.mtxFind n v.dst with | some (_, e) => ms (e.opMs + 5) | none => 0

/-- What a missed bound brings (07 R190). -/
def State.moveMiss (n : Phase) (s : State) : State :=
  match s.mtx.move.get n with
  | none => s
  | some v =>
    if s.clk.cycle < v.since + s.moveBound n v || v.step = 5 then s
    else match v.step, v.src with
      | 2, some a => s.moveAbandon n a v.dst
      | 3, some a => s.matrixWeld n a
      | _, _ => s.moveFail n v.dst

/-- MOVE_TIMEOUT. -/
def execMoveTimeout (n : Phase) (s : State) : Host.Outcome State Fault Refusal :=
  s.live fun s => (match s.mtx.move.get n with
    | none => s
    | some v =>
      if v.step = 5 then s else (s.runTo (v.since + s.moveBound n v)).moveMiss n)

/-- The current condition of step 2 over one complete tick (07 R190; 06 R154). -/
def State.currentZero (s : State) (n : Phase) : Bool :=
  (s.reg.ch.get n).tickSampled && decide ((s.reg.ch.get n).senseAvg.toInt.natAbs ≤ 41)

/-- MOVE_CURRENT_ZERO: the contactor of the group left is driven open (07 R190 step 3). -/
def State.moveOpen (n : Phase) (s : State) : State :=
  match s.mtx.move.get n with
  | some v =>
    match v.step, v.src with
    | 2, some a =>
      if s.currentZero n then
        let s1 := s.setMove n (some { v with step := 3, since := s.clk.cycle })
        match s1.mtxFind n a with | some (k, _) => s1.mtxOpen k n | none => s1
      else s
    | _, _ => s
  | none => s

def execMoveCurrentZero (n : Phase) (s : State) : Host.Outcome State Fault Refusal := s.live fun s => (s.moveOpen n)

/-- MATRIX_FEEDBACK: the level of a matrix feedback; the step that waits for it goes on, and a feedback that shows closed while
its drive is low is a matrix weld, except while step 3 waits for it to open (07 R175, R190). -/
def execMatrixFeedback (k : HkChan) (closed : Bool) (s : State) : Host.Outcome State Fault Refusal :=
  s.live fun s => (
    let s1 := s.modMtx fun m => { m with fb := if closed then m.fb ||| bit 64 k.val else m.fb &&& ~~~ bit 64 k.val }
    match s1.cfg.active.matrix[k.val]? with
    | none => s1
    | some e =>
      let n := e.phase
      match s1.mtx.move.get n with
      | some v =>
        if v.step = 3 && v.src == some e.outlet then
          if closed then s1 else s1.moveClose n v.src v.dst v.homing
        else if v.step = 4 && v.dst = e.outlet && s1.mtx.drv.getLsbD k.val then
          if closed then s1.moveJoin n v else s1
        else if closed && !s1.mtx.drv.getLsbD k.val then s1.matrixWeld n e.outlet
        else s1
      | none => if closed && !s1.mtx.drv.getLsbD k.val && !s1.mtx.disabled.getLsbD k.val then s1.matrixWeld n e.outlet else s1)

/-! ### Requirements (07 R189) -/

/-- The phase is in the outlet's group or moving into it. -/
def State.present (s : State) (o : Outlet) (n : Phase) : Bool :=
  match s.mtx.move.get n with
  | some v => v.dst == o
  | none => s.mtx.assigned.get n == some o

/-- The outlet's demanded current i_dem; 0 for an outlet not in a session. -/
def State.iDem (s : State) (o : Outlet) : Nat :=
  let x := s.out.get o
  if x.st = .energy then
    let r := s.effRecord o
    let v := s.vStage o
    if x.exporting then min r.maxExpI.toNat (min (s.maxCurrent o true) (r.maxExpP.toNat * 10000 / v))
    else min r.maxImpI.toNat (min (s.maxCurrent o false) (r.maxImpP.toNat * 10000 / v))
  else 0

/-- The sum of the current ratings of a set of phases; one that is retired or shut down carries nothing. -/
def State.ratingOf (s : State) (p : Phase → Bool) : Nat :=
  sumFin 24 fun n =>
    if p n && !(s.reg.ch.get n).retired && !(s.reg.ch.get n).shutCounted then
      (match s.phaseCfg n with | some c => c.rating | none => 0) else 0

/-- A set of phases meets the outlet's requirement: it holds the home set and its ratings reach i_dem. -/
def State.meets (s : State) (o : Outlet) (p : Phase → Bool) : Bool :=
  ((List.finRange 24).all fun n => s.homeOf n != some o || p n) && decide (s.iDem o ≤ s.ratingOf p)

/-- A phase brings the outlet nearer to its requirement, the smallest group that holds the home set and reaches i_dem: a home phase that it
lacks, or a further phase while the ratings do not reach i_dem. -/
def State.wants (s : State) (o : Outlet) (n : Phase) : Bool :=
  !s.present o n && (s.homeOf n == some o || decide (s.ratingOf (s.present o) < s.iDem o))

/-- The phase can move to the outlet: it is fitted, not in transit, not retired or shut down, and has an entry that is not
disabled. -/
def State.movable (s : State) (n : Phase) (o : Outlet) : Bool :=
  (s.phaseCfg n).isSome && (s.mtx.move.get n).isNone && !(s.reg.ch.get n).retired && !(s.reg.ch.get n).shutCounted &&
  (match s.mtxFind n o with | some (k, _) => !s.mtx.disabled.getLsbD k | none => false)

/-- The phase is surplus where it is, and its outlet lets it go. -/
def State.surplus (s : State) (n : Phase) (o : Outlet) : Bool :=
  match s.mtx.assigned.get n with
  | none => false
  | some a =>
    a != o && s.homeOf n != some a &&
    ((s.out.get a).st == .energy || !(s.out.get a).st.inSession) &&
    s.meets a fun k => s.present a k && k != n

/-- An outlet gains phases: in ENERGY towards i_dem, or its home set while it has no session; none while its start-up machine is in FAULT
(07 R194). -/
def State.mayGain (s : State) (o : Outlet) : Bool :=
  (s.outCfg o).isSome && (s.reg.start.get o).st != .fault &&
  ((s.out.get o).st == .energy || !(s.out.get o).st.inSession)

/-- One outlet takes phases, unassigned ones first, then surplus ones, lowest first, until its requirement is met. -/
def State.serve (o : Outlet) (s : State) : State :=
  if !s.mayGain o then s
  else
    let take (ok : State → Phase → Bool) (t : State) : State :=
      t.forAll fun (n : Phase) u =>
        if u.wants o n && u.movable n o && ok u n then u.moveStart n o else u
    take (fun u n => u.surplus n o) (take (fun u n => (u.mtx.assigned.get n).isNone) s)

/-- Outlets short of their requirement, in ascending band, then ascending number; an outlet without a session has no band and
comes last (07 R189). -/
def State.moveDecide (s : State) : State :=
  let key : Outlet → Nat := fun o => if (s.out.get o).st = .energy then (s.effRecord o).band.toNat else 256
  (List.range 257).foldl (fun t b =>
    if (List.finRange 8).any fun o => key o == b then
      t.forAll fun (o : Outlet) u => if key o = b then u.serve o else u
    else t) s

/-- Safe energy off ends a move before step 4 with the phase unassigned, and moves into an outlet whose start-up machine is in
FAULT stop (07 R194). -/
def State.moveStops (s : State) : State :=
  s.forAll fun (n : Phase) t =>
    match t.mtx.move.get n with
    | none => t
    | some v =>
      if (v.step < 4 && t.blockedPhase n) || (t.reg.start.get v.dst).st = .fault then ((t.endMove n).restMasks n).checkReady else t

/-- Home contactors are driven closed as step 4 once the control plane is ready (07 R175; 20 R473). -/
def State.homeStart (s : State) : State :=
  (s.forAll fun (n : Phase) t =>
    match t.homeOf n with
    | some o => if (t.mtx.assigned.get n).isNone && t.movable n o then t.moveClose n none o true else t
    | none => t).checkReady

end Sys2Proof.Machine
end

