-- ==== Sys2Proof/Machine/Thermal.lean ====
section
/-! DEFINITION. Cooling and thermal management: conversion of the housekeeping channels, feathering, hard limits, pumps and fans, the
cooling bus, die temperature, temperature windows, heat-sinks (09; 06 R168; 04 R118). -/
namespace Sys2Proof.Machine

/-! ### Calibration (04 R118) -/

/-- The temperature term k, 0.1 ppm, from a gain table at a source temperature. -/
def calK (g : List Int) (t : Int) : Int :=
  let i := (min ((max (t + 4000) 0) / 1000) 15).toNat
  let w := min (max (t + 4000 - 1000 * i) 0) 1000
  nth g i 0 + ((nth g (i + 1) 0 - nth g i 0) * w).tdiv 1000

/-- The effective value of a raw sample: factory layer, then user layer. -/
def calValue (raw offF gainF offU gainU k : Int) : Int :=
  let x := ((raw - offF) * gainF).tdiv (2 ^ 30)
  ((((x - offU) * gainU).tdiv (2 ^ 30)) * (10000000 + k)).tdiv 10000000

/-! ### Conversion (09 R221) -/

/-- The Callendar-Van Dusen resistance at t (0.01 °C) in units of 10^-20 Ω, nominal 1,000 Ω: A = 3.9083e-3, B = -5.775e-7,
C = -4.183e-12 below 0 °C. -/
def cvdOhm (t : Int) : Int :=
  10 ^ 23 + 390830000000000000 * 10 * t - 5775000000000 * t * t - (if t < 0 then 4183 * (t - 10000) * t * t * t else 0)

/-- The greatest t in [lo, lo + 2^n) with f(t) ≤ y, by bisection; lo where there is none. -/
def bisect (f : Int → Int) (y : Int) : Nat → Int → Int
  | 0, lo => lo
  | n + 1, lo => if f (lo + 2 ^ n) ≤ y then bisect f y n (lo + 2 ^ n) else bisect f y n lo

/-- Temperature of a PT1000 reading in 0.01 Ω, rounded to the nearest 0.01 °C. -/
def ptTemp (r : Int) : Int := bisect (fun t => cvdOhm t + cvdOhm (t - 1)) (2 * (r * 10 ^ 18)) 16 (-6000)

/-- Halvings that bring x / y into [1, 2), at most 64. -/
def octaves : Nat → Nat → Nat → Nat
  | 0, _, _ => 0
  | n + 1, x, y => if 2 * y ≤ x then octaves n x (2 * y) + 1 else 0

/-- ln(x / y) in units of 2^-48 for x ≥ y > 0: octaves by ln 2, the rest by 2 artanh((x - y) / (x + y)). -/
def lnRatio (x y : Nat) : Int :=
  let k := octaves 64 x y
  let yk := y * 2 ^ k
  let z : Int := (((x : Int) - yk) * 2 ^ 48) / ((x : Int) + yk)
  let terms := (List.range 20).foldl (fun (acc : Int × Int) (j : Nat) => (acc.1 + acc.2 / (2 * (j : Int) + 1), acc.2 * z / 2 ^ 48 * z / 2 ^ 48)) (0, z)
  2 * terms.1 + 195103586505167 * k

/-- Temperature of a heat-sink reading in Ω, 0.01 °C, rounded to the nearest; none without a finite one. -/
def ntcTemp (beta rn : Nat) (r : Int) : Option Int :=
  if r ≤ 0 || rn = 0 then none
  else
    let l : Int := if (rn : Int) ≤ r then lnRatio r.toNat rn else - lnRatio rn r.toNat
    let den : Int := 100 * beta * 2 ^ 48 + 29815 * l
    if den ≤ 0 then none else some (roundDivI (100 * 29815 * beta * 2 ^ 48) den.toNat - 27315)

/-- The conversion that a channel's role asks for. -/
inductive HkRole where
  | pt | ntc | flow | plain
deriving DecidableEq, Repr

def hkRole (c : CfgImage) (n : HkChan) : HkRole :=
  let outs := c.thermal.outlets.toList.filterMap id
  let loops := c.thermal.loops.toList.filterMap id
  if outs.any (fun o => o.sensA == n || o.sensB == some n) || loops.any (fun l => l.temp == .chan n) then .pt
  else if (c.phases.toList.filterMap id).any (fun p => p.hsChan == n) || c.thermal.bakChan == some n ||
      (match c.battery with | some b => b.chans.contains n | none => false) then .ntc
  else if loops.any (fun l => l.flow == .chan n) then .flow
  else .plain

/-- A value within a range. -/
def inRange (lo hi : Int) (v : Int) : Option Int := if lo ≤ v && v ≤ hi then some v else none

/-- The converted value of an effective value. -/
def hkConvert (c : CfgImage) (n : HkChan) (y : Int) : Option Int :=
  match hkRole c n with
  | .pt => inRange (-5000) 20000 (ptTemp y)
  | .ntc => (ntcTemp c.thermal.beta c.thermal.rn y).bind (inRange (-5000) 20000)
  | .flow => inRange 0 65535 y
  | .plain => some y

/-- The term k of a channel: from the last value of its source; kept while the source is invalid; 0 without a source (04 R118). -/
def State.hkTerm (s : State) (n : HkChan) : Int :=
  match s.cfg.active.hkCal.get n with
  | some e =>
    match e.src with
    | some c => match s.hkVal c with | some t => calK e.gTable t | none => s.thm.hkK.get n
    | none => 0
  | none => 0

/-- A channel's converted value from its raw reading. -/
def State.hkValue (s : State) (n : HkChan) (raw : Option Int) : Option Int :=
  raw.bind fun x =>
    let (g, o) := match s.cfg.active.hkCal.get n with | some e => (e.gain, e.offset) | none => ((2 ^ 30 : Int), (0 : Int))
    hkConvert s.cfg.active n (calValue x (Config.factoryOffset (64 + n.val)) (Config.factoryGain (64 + n.val)) o g (s.hkTerm n))

/-- A channel that the configuration gives a role. -/
def State.hkUsed (s : State) (n : HkChan) : Bool :=
  hkRole s.cfg.active n != .plain || s.cfg.active.hdr.dcChan == n ||
  (s.cfg.active.outlets.toList.filterMap id).any fun o => o.vehChan == n || o.isoChan == some n

/-- A source whose drive has a `DRIVE_FAULT`, so that its value is invalid (09 R221, R224). -/
def State.refBad (s : State) : ThmRef → Bool
  | .drive d => (s.thm.drive.get d).fault
  | _ => false

/-- A cooling loop takes its temperature or its flow from such a drive. -/
def State.loopBad (s : State) : Bool :=
  (s.cfg.active.thermal.loops.toList.filterMap id).any fun l => s.refBad l.temp || s.refBad l.flow

/-- The values of a housekeeping round become readable; `SENSOR_FAIL` where one is invalid (09 R220, R221). -/
def State.hkLoad (inp : HkIn) (s : State) : State :=
  let k := vmapIdx s.thm.hkK fun n _ => s.hkTerm n
  let v := vmapIdx s.thm.hk fun n _ => s.hkValue n (inp.raw.get n)
  let t := s.modThm fun x =>
    { x with hk := v, hkK := k, die := inp.die, supply := inp.supply, dcLast := (v.get s.cfg.active.hdr.dcChan).getD x.dcLast }
  if t.loopBad || (List.finRange 64).any (fun n => t.hkUsed n && (v.get n).isNone) then t.raise .thm 2 else t

/-! ### Sources and cooling loops (09 R223-R225) -/

/-- Temperature and flow of a source. -/
def State.refTemp (s : State) : ThmRef → Option Int
  | .chan c => s.hkVal c
  | .drive d => if (s.thm.drive.get d).fault then none else (s.thm.drive.get d).temp.bind (inRange (-5000) 20000)
  | _ => none
def State.refFlow (s : State) : ThmRef → Option Int
  | .chan c => s.hkVal c
  | .drive d => if (s.thm.drive.get d).fault then none else (s.thm.drive.get d).flow.bind fun n => inRange 0 65535 n
  | _ => none

/-- A condition held for 2 s. -/
def held2s (since : Option Nat) (now : Nat) : Bool := match since with | some t => decide (t + sec 2 ≤ now) | none => false

/-- `FLOW_FAULT` of a loop (09 R225); a loop without a flow source has none. -/
def State.loopFlow (l : Fin 4) (s : State) : State :=
  match s.cfg.active.thermal.loops.get l with
  | none => s
  | some c =>
    if c.flow = .none then s
    else
      let x := s.thm.loop.get l
      let v := s.refFlow c.flow
      let low := match v with | some f => decide (20 ≤ x.duty.toNat) && decide (f < c.minFlow) | none => false
      let good := match v with | some f => decide ((c.minFlow : Int) ≤ f) | none => false
      let below := if low then x.belowSince <|> some s.clk.cycle else none
      let above := if good then x.goodSince <|> some s.clk.cycle else none
      let fault := v.isNone || held2s below s.clk.cycle || (x.fault && !held2s above s.clk.cycle)
      let t := s.modThm fun z =>
        { z with loop := vmod z.loop l fun x =>
            { x with flow := clampU 16 (v.getD 0).toNat, belowSince := below, goodSince := above, fault := fault } }
      if fault && !x.fault then t.raise .thm 3 else t

/-- FLOW_FAULT: the flow has been below the minimum for 2 s. -/
def execFlowFault (l : Fin 4) (s : State) : Host.Outcome State Fault Refusal :=
  s.live fun s => (match (s.thm.loop.get l).belowSince with
    | some t => (s.runTo (t + sec 2)).loopFlow l
    | none => s.loopFlow l)

/-- A duty of a table at a temperature, linearly interpolated (09 R223). -/
def dutyAt (temps : List Int) (duties : List Nat) (t : Int) : Nat := (lookup t (temps.zip (duties.map Int.ofNat))).toNat

/-- The greatest of some values. -/
def maxOf : List Int → Option Int
  | [] => none
  | a :: l => some (l.foldl max a)

/-- Outlets that a loop cools. -/
def State.cooledBy (s : State) (l : Fin 4) : List (Outlet × ThmOutlet) :=
  (List.finRange 8).filterMap fun o =>
    match s.outCfg o, s.cfg.active.thermal.outlets.get o with
    | some _, some e => if e.loop = some l then some (o, e) else none
    | _, _ => none

/-- The duty of a loop's pump. With no valid temperature the manual gives none: a free value (log entry 4). -/
def State.loopDuty (s : State) (l : Fin 4) (c : ThmLoop) : Nat :=
  let outs := s.cooledBy l
  if s.thm.dieStop || outs.any (fun x => match s.thm.tf.get x.1 with | some t => decide (x.2.start ≤ t) | none => true) then 100
  else
    match maxOf ((s.refTemp c.temp).toList ++ outs.filterMap fun x => s.thm.tf.get x.1) with
    | some t => dutyAt c.temps c.duties t
    | none => Config.freeNat s.free % 101

/-- The duty of a fan, from the highest heat-sink temperature of the fitted phases. -/
def State.fanDuty (s : State) (c : ThmFan) : Nat :=
  if s.thm.dieStop || (List.finRange 24).any fun n => (s.reg.ch.get n).hsWarn then 100
  else
    match maxOf ((List.finRange 24).filterMap fun n => (s.phaseCfg n).bind fun p => s.hkVal p.hsChan) with
    | some t => dutyAt c.temps c.duties t
    | none => Config.freeNat s.free % 101

/-- An auxiliary duty is written and committed (05 R142). -/
def State.setAux (a : Aux) (period duty : Nat) (s : State) : State :=
  (s.modAux a fun c =>
    { c with shadow := ⟨BitVec.ofNat 16 period, clampU 16 (roundDiv (period * duty) 100)⟩, written := 0b11 }).auxCommit a
    ((s.pwm.aux.get a).tag + 1)

/-- Pumps and fans (09 R223). -/
def State.setDuties (s : State) : State :=
  let s1 := s.forAll fun (l : Fin 4) t =>
    match t.cfg.active.thermal.loops.get l with
    | none => t
    | some c =>
      let d := t.loopDuty l c
      let t1 := (t.useFree).modThm fun z => { z with loop := vmod z.loop l fun x => { x with duty := BitVec.ofNat 7 d } }
      match c.pump with
      | .aux a => t1.setAux a c.period d
      | .drive n => t1.modThm fun z => { z with drive := vmod z.drive n fun x => { x with speed := d * 100 } }
      | _ => t1
  s1.forAll fun (f : Fin 4) t =>
    match t.cfg.active.thermal.fans.get f with
    | none => t
    | some c =>
      let d := t.fanDuty c
      ((t.useFree).modThm fun z => { z with fan := vmod z.fan f fun _ => BitVec.ofNat 7 d }).setAux c.aux c.period d

/-- At an adoption the failsafe duties are written (09 R223). -/
def State.writeFailsafe (s : State) : State :=
  let s1 := s.forAll fun (l : Fin 4) t =>
    match t.cfg.active.thermal.loops.get l with
    | some c => match c.pump with
      | .aux a => t.modAux a fun x => { x with failsafe := clampU 16 (roundDiv (c.period * c.failsafe) 100) }
      | _ => t
    | none => t
  s1.forAll fun (f : Fin 4) t =>
    match t.cfg.active.thermal.fans.get f with
    | some c => t.modAux c.aux fun x => { x with failsafe := clampU 16 (roundDiv (c.period * c.failsafe) 100) }
    | none => t

/-! ### The cooling bus (09 R224) -/

/-- DRIVE_POLL: once every 100 ms; the speed is written where it has changed, the flow and temperature registers are read. -/
def execDrivePoll (n : Fin 8) (s : State) : Host.Outcome State Fault Refusal :=
  s.live fun s => (match s.cfg.active.thermal.drives.get n with
    | none => s
    | some c =>
      if !s.pwr.controlReady then s
      else
        let t := s.runTo ((s.thm.drive.get n).lastPoll + ms 100)
        let x := t.thm.drive.get n
        let reqs := (if x.sent = some x.speed then [] else [(n, 6, c.speedReg, x.speed)]) ++
          c.flowReg.toList.map (fun r => (n, 3, r, 1)) ++ c.tempReg.toList.map fun r => (n, 3, r, 1)
        t.modThm fun z =>
          { z with busOut := z.busOut ++ reqs,
                   drive := vmod z.drive n fun x => { x with polled := some t.clk.cycle, lastPoll := t.clk.cycle, sent := some x.speed } })

/-- DRIVE_RESPONSE: a valid response within 20 ms of the poll. -/
def execDriveResponse (n : Fin 8) (flow : Option Nat) (temp : Option Int) (s : State) : Host.Outcome State Fault Refusal :=
  s.live fun s => (match (s.thm.drive.get n).polled with
    | some k =>
      if k + ms 20 ≤ s.clk.cycle then s
      else s.modThm fun z =>
        { z with drive := vmod z.drive n fun x => { x with fault := false, misses := 0, polled := none, flow := flow, temp := temp } }
    | none => s)

/-- DRIVE_RESPONSE_TIMEOUT: 20 ms without a response; at the third poll in succession `DRIVE_FAULT`, and `FLOW_FAULT` at once of a
loop whose flow comes from the drive (09 R224, R225, R234). -/
def execDriveResponseTimeout (n : Fin 8) (s : State) : Host.Outcome State Fault Refusal :=
  s.live fun s => (match (s.thm.drive.get n).polled with
    | none => s
    | some k =>
      let t := s.runTo (k + ms 20)
      let x := t.thm.drive.get n
      let fault := x.fault || decide (2 ≤ x.misses)
      let t1 := t.modThm fun z =>
        { z with cntBusErr := satInc z.cntBusErr,
                 drive := vmod z.drive n fun x => { x with misses := x.misses + 1, polled := none, fault := fault } }
      let t2 := if fault && !x.fault then t1.raise .thm 4 else t1
      if fault then t2.forAll fun (l : Fin 4) u =>
        match u.cfg.active.thermal.loops.get l with
        | some c => if c.flow = .drive n then u.loopFlow l else u
        | none => u
      else t2)

/-! ### Feathering and hard limits (09 R226, R227) -/

/-- t_f: the highest valid connector reading. -/
def State.connTemp (s : State) (e : ThmOutlet) : Option Int :=
  maxOf ((s.hkVal e.sensA).toList ++ (e.sensB.bind s.hkVal).toList)

/-- A sensor of the outlet is invalid. -/
def State.sensorBad (s : State) (e : ThmOutlet) : Bool :=
  (s.hkVal e.sensA).isNone || (match e.sensB with | some c => (s.hkVal c).isNone | none => false)

/-- The no-flow cap applies. -/
def State.noFlow (s : State) (e : ThmOutlet) : Bool := match e.loop with | some l => (s.thm.loop.get l).fault | none => false

/-- The feather fraction of a round (09 R226). A fitted outlet without an entry in the thermal tables has the die term alone. -/
def State.featherNext (s : State) (o : Outlet) (c : OutletCfg) : Nat :=
  let die := 125 * s.thm.dieK.toNat
  let want : Nat := match s.cfg.active.thermal.outlets.get o with
    | none => min 1000 die
    | some e =>
      let tf := (s.connTemp e).getD e.hard
      let base := (1000 * max 0 (min (e.hard - tf) (e.hard - e.start)) / (e.hard - e.start)).toNat
      let flow := if s.noFlow e && c.maxImpI != 0 then min base (1000 * e.noFlow / c.maxImpI) else base
      min flow die
  min want ((s.thm.phi.get o).toNat + 20)

/-- Feathering of an outlet: only a driving lane computes it. -/
def State.feather (o : Outlet) (s : State) : State :=
  match s.outCfg o with
  | none => s
  | some c =>
    let tf := match s.cfg.active.thermal.outlets.get o with | some e => some ((s.connTemp e).getD e.hard) | none => none
    let old := (s.thm.phi.get o).toNat
    let new := s.featherNext o c
    let t := s.modThm fun x => { x with phi := vmod x.phi o fun _ => BitVec.ofNat 10 new, tf := vmod x.tf o fun _ => tf }
    if old = 1000 && new < 1000 then t.raise .thm 0 else t

/-- The hard limit of an outlet (09 R227). -/
def State.hardLimit (o : Outlet) (s : State) : State :=
  match s.outCfg o, s.cfg.active.thermal.outlets.get o with
  | some _, some e =>
    let tf := s.connTemp e
    let above := match tf with | some t => decide (e.hard ≤ t) | none => true
    let free := match tf with | some t => decide (t < e.start) | none => false
    if above then
      let t := s.modThm fun x => { x with hard := vmod x.hard o fun _ => true }
      (if s.thm.hard.get o then t else t.raise .thm 1).raiseOut o 2
    else if s.thm.hard.get o && free then (s.modThm fun x => { x with hard := vmod x.hard o fun _ => false }).clearOut o 2
    else s
  | _, _ => s

/-! ### Die temperature (09 R228-R230) -/

/-- T_d: the highest valid reading, the last one while none is valid. -/
def State.dieMax (s : State) : Int := (maxOf (s.thm.die.toList.filterMap id)).getD s.thm.dieTemp

/-- The die step and the orderly stop of a round. -/
def State.dieRound (s : State) : State :=
  let td := s.dieMax
  let k := s.thm.dieK.toNat
  let stop := s.thm.dieStop
  let s0 := s.modThm fun x => { x with dieTemp := td, coolRounds := if td ≤ 11000 then x.coolRounds + 1 else 0 }
  let s1 :=
    if 12500 ≤ td then
      let t := s0.modThm fun x => { x with dieK := 0, dieStop := true }
      if stop then t else (t.stopAllOutlets 10).raise .thm 6
    else if 11500 < td && 0 < k then (s0.modThm fun x => { x with dieK := x.dieK - 1 }).raise .thm 5
    else if td ≤ 11000 && k < 8 && !stop then s0.modThm fun x => { x with dieK := x.dieK + 1 }
    else s0
  let s2 := if stop && 10 ≤ s1.thm.coolRounds then s1.modThm fun x => { x with dieStop := false, dieDone := false } else s1
  if s2.thm.dieTripped && 10 ≤ s2.thm.coolRounds && !(s2.evGet .thm).flags.getLsbD 7 then
    (s2.modThm fun x => { x with dieTripped := false, dieStop := true, dieK := 0 }).clearGlb 3
  else s2

/-- Once every outlet has stopped, `EN` of every phase channel is cleared and the die state is 2 (09 R229). -/
def State.dieSettle (s : State) : State :=
  if s.thm.dieStop && !s.thm.dieDone && s.allStopped then s.clearAllEn.modThm fun x => { x with dieDone := true } else s

/-- The comparator's level in 0.01 °C: 135.00 °C ±2 °C, where in that band is free (09 R230; log entry 168). -/
def dieTripAt : Int := 13300 + ((Config.dieTripBand % 401 : Nat) : Int)

/-- DIE_TRIP: the hardware comparator, at a die temperature in 0.01 °C (09 R230). -/
def execDieTrip (temp : Int) (s : State) : Host.Outcome State Fault Refusal :=
  s.live fun s => (if temp < dieTripAt then s else ((s.modThm fun x => { x with dieTripped := true, coolRounds := 0 }).raise .thm 7).raiseGlb 3)

/-! ### Temperature windows (09 R231, R232) -/

/-- A window has been left, or not been entered again. -/
def windowOut (blocked : Bool) (lo hi relo rehi lowest highest : Int) : Bool :=
  if blocked then !(decide (relo ≤ lowest) && decide (highest ≤ rehi)) else !(decide (lo ≤ lowest) && decide (highest ≤ hi))

/-- Journal records, completions and other writes that waited are made once they are allowed (09 R232). -/
def State.flushWaiting (s : State) : State :=
  let w := s.dia.waiting
  let t := w.foldl (fun t r => t.storeRec r) (s.modDia fun d => { d with waiting := [] })
  if t.journalClosed then t
  else t.modDlv fun v =>
    { v with slots := v.slots.map fun l => l.map fun j => if j.comp.isSome && j.st == .handed then { j with st := .completed } else j }

/-- The MRAM window. -/
def State.mramWindow (s : State) : State :=
  let out := windowOut s.thm.mramBlocked (-4000) 11500 (-3800) 11300 s.thm.dieTemp s.thm.dieTemp
  let t := s.modThm fun x => { x with mramBlocked := out }
  if out && !s.thm.mramBlocked then t.raise .thm 8
  else if !out && s.thm.mramBlocked then t.flushWaiting
  else t

/-- The buffer battery's charging window; nothing changes while no cell-group reading is valid. -/
def State.batWindowEval (s : State) : State :=
  match s.cfg.active.battery with
  | none => s
  | some b =>
    let l := s.cellTemps b
    let c := s.cfg.active.thermal
    match l with
    | [] => s
    | a :: r =>
      let out := windowOut s.thm.batBlocked (c.batLo * 100) (c.batHi * 100) (c.batLo * 100 + 100) (c.batHi * 100 - 100) (r.foldl min a) (r.foldl max a)
      let t := s.modThm fun x => { x with batBlocked := out }
      if out && !s.thm.batBlocked then t.raise .thm 9 else t

/-- The backup cell's charging window; the charger is off outside it (20 R479). -/
def State.bakWindow (s : State) : State :=
  let v := match s.cfg.active.thermal.bakChan with | some c => s.hkVal c | none => some s.thm.dieTemp
  match v with
  | none => s
  | some t0 =>
    let out := windowOut s.thm.bakBlocked 0 4500 100 4400 t0 t0
    let t := (s.modThm fun x => { x with bakBlocked := out }).modPwr fun p => if out then { p with bakMode := .off } else p
    if out && !s.thm.bakBlocked then t.raise .thm 10 else t

/-! ### Heat-sinks (06 R168) -/

/-- A fitted phase's heat-sink against its levels; an invalid reading changes nothing. -/
def State.heatSink (n : Phase) (s : State) : State :=
  match s.phaseCfg n with
  | none => s
  | some c =>
    match s.hkVal c.hsChan with
    | none => s
    | some t =>
      let x := s.reg.ch.get n
      let warn := decide (c.hsWarn ≤ t) || (x.hsWarn && !decide (t < c.hsReturn))
      let shut := decide (c.hsShut ≤ t) || (x.hsShut && !decide (t < c.hsReturn))
      let s1 := s.modRegCh n fun r => { r with hsTemp := clampS 16 t, hsWarn := warn, hsShut := shut }
      let s2 := if warn && !x.hsWarn then s1.raise (.reg n) 2 else s1
      if shut && !x.hsShut then s2.raise (.reg n) 3 else s2

/-- From the next control tick a shutdown, or a return, acts (06 R168). -/
def State.heatSinkTick (n : Phase) (s : State) : State :=
  let x := s.reg.ch.get n
  if x.hsShut && !x.shutCounted then s.retire n 4
  else if !x.hsShut && x.shutCounted then (s.modRegCh n fun r => { r with shutCounted := false }).phaseBack n
  else s

/-- What the end of a housekeeping round does here; pumps, fans and feathering need a driving lane. -/
def State.thermalRound (inp : HkIn) (s : State) : State :=
  let s1 := (s.hkLoad inp).forAll fun (n : Phase) t => t.heatSink n
  let s2 := (s1.dieRound).forAll fun (l : Fin 4) t => t.loopFlow l
  let s3 := if s2.noLane then s2 else (s2.forAll fun (o : Outlet) t => t.feather o)
  let s4 := s3.forAll fun (o : Outlet) t => t.hardLimit o
  let s5 := if s4.noLane then s4 else s4.setDuties
  ((s5.mramWindow).batWindowEval).bakWindow

end Sys2Proof.Machine
end

