-- ==== Sys2Proof/Machine/Metrology.lean ====
section
/-! DEFINITION. Metrology: calibration of the legal lanes, lane faults, accumulators and nets, grid windows, reversed sensors, dark charge,
the snapshot and the live record, capture (12). Integer divisions of signed values are truncated toward zero. -/
namespace Sys2Proof.Machine

/-! ### Calibration of the lanes (04 R118-R120; 12 R293-R296; 01 R22) -/

/-- The user layer of a lane: the seal's for a legal channel once frozen, the legal domain's own for a legal channel before that, the active
epoch's for lanes 22 and 23. -/
def State.laneCal (s : State) (n : MLane) : Option CalEntry :=
  if 22 ≤ n.val then s.cfg.active.laneCal.get n
  else if s.cfg.calFrozen then s.cfg.calSeal.get n else s.cfg.legal.laneCal.get n

/-- The effective value of a code after the factory layer, under a term k. -/
def State.laneUser (s : State) (n : MLane) (k : Int) (code : Int) : Int :=
  let (g, o) := match s.laneCal n with | some e => (e.gain, e.offset) | none => ((2 ^ 30 : Int), (0 : Int))
  calValue code 0 (2 ^ 30) o g k

/-- The effective value of a raw code. -/
def State.laneCode (s : State) (n : MLane) (k : Int) (raw : Int) : Int :=
  let (g, o) := match s.laneCal n with | some e => (e.gain, e.offset) | none => ((2 ^ 30 : Int), (0 : Int))
  calValue raw (Config.factoryOffset n.val) (Config.factoryGain n.val) o g k

/-- The effective value of a raw output of a regulation filter: the factory layer and the user layer of the active epoch (12 R292). -/
def State.regCode (s : State) (n : MLane) (raw : Int) : Int :=
  let (g, o) := match s.cfg.active.laneCal.get n with | some e => (e.gain, e.offset) | none => ((2 ^ 30 : Int), (0 : Int))
  calValue raw (Config.factoryOffset n.val) (Config.factoryGain n.val) o g (s.met.regK.get n)

/-- The tick mean of a lane, from mV or mA to 0.1 V or 0.1 A, truncated once (12 R292, R293; log entry 161). -/
def State.tickMean (s : State) (n : MLane) (raw : Vector Int 10) : Int := (raw.toList.map (s.regCode n)).sum.tdiv 1000

/-- A legal sample: 0 while its legal lane is faulty (12 R297). -/
def State.laneValue (s : State) (n : MLane) (raw : Int) : Int :=
  if decide (n.val < 22) && s.met.laneFault.getLsbD n.val then 0 else s.laneCode n (s.met.k.get n) raw

/-- Calibrated full scale (12 R293). -/
def State.fullScale (s : State) (n : MLane) : Int := s.laneUser n (s.met.k.get n) 8388607

/-- The frequency that shifts refer to, mHz (12 R295). -/
def State.shiftFreq (s : State) : Nat :=
  if s.met.noVoltage || s.met.freq = 0 then (if s.met.nominal60 then 60000 else 50000) else s.met.freq

/-- s of 12 R295 in ns: the V-to-I delay and the phase term, 2π as 6.283185307179586. -/
def State.laneShift (s : State) (n : MLane) : Int :=
  let d := match s.laneCal n with | some e => e.delay | none => 0
  d + roundDivI (s.met.phi.get n * 100000 * 10 ^ 15) (6283185307179586 * s.shiftFreq)

def State.setShifts (s : State) : State := s.modMet fun m => { m with shift := vmapIdx m.shift fun n _ => s.laneShift n }

/-- The temperature source of a lane reads invalid (12 R296). -/
def State.srcInvalid (s : State) (n : MLane) : Bool :=
  match s.laneCal n with | some e => (match e.src with | some c => (s.hkVal c).isNone | none => false) | none => false

/-- A term of a calibration entry from the last readable value of its temperature source; the last valid one while that is invalid, 0
without a source (04 R118; 12 R296). -/
def State.calTerm (s : State) (e : Option CalEntry) (tab : CalEntry → List Int) (old : Int) : Int :=
  match e with
  | none => 0
  | some e => match e.src with
    | none => 0
    | some c => match s.hkVal c with | some t => calK (tab e) t | none => old

/-- Terms from a housekeeping round: k and φ of each lane, k of each regulation filter; `TEMP_SRC_LOST` (12 R296). -/
def State.laneTerms (s : State) : State :=
  let term := fun (n : MLane) (tab : CalEntry → List Int) (old : Int) => s.calTerm (s.laneCal n) tab old
  let lost := (List.finRange 24).any fun n => s.hasLane n && s.srcInvalid n
  let s1 := (s.modMet fun m =>
    { m with k := vmapIdx m.k fun n x => term n (·.gTable) x,
             regK := vmapIdx m.regK fun n x => s.calTerm (s.cfg.active.laneCal.get n) (·.gTable) x,
             phi := vmapIdx m.phi fun n x => if decide (16 ≤ n.val) && decide (n.val < 22) then term n (·.phTable) x else 0,
             tempSrcLost := lost }).setShifts
  s1.cond (lost && !s.met.tempSrcLost) (·.raise .met 3)

/-! ### The meter error state (13 R348; 12 R297) -/

/-- `BIL_ERROR`. -/
def State.bilError (s : State) : Word :=
  flagAt (bitsOf s.met.laneFault 0 22 != 0) 0 ||| flagAt s.bil.errStore 1 ||| flagAt s.bil.errCommitLost 2 |||
  flagAt (s.bil.dispFaulty != 0) 3 ||| flagAt s.bil.errSign 4 ||| flagAt s.bil.errNoTime 5

/-- A change that may make `BIL_ERROR` non-zero. -/
def State.withErr (f : State → State) (s : State) : State :=
  let t := f s
  t.cond (s.bilError == 0 && t.bilError != 0) (·.raise .bil 9)

/-! ### Lane faults (12 R297) -/

/-- The net that a legal lane enters: outlet 0-7, grid 8. -/
def netOf (n : MLane) : Option (Fin 9) :=
  if h : n.val < 16 then some ⟨n.val / 2, by omega⟩ else if n.val < 22 then some 8 else none

/-- 10 µs of a bitstream, 200 bits at 20 MHz, with a ones-density below 2 % or above 98 %; a data input without a transition is among
them. -/
def streamFaulty (bits : List Bool) : Bool :=
  bits.length == 200 && (decide (bits.count true < 4) || decide (196 < bits.count true))

/-- A faulty window of a lane has ended. -/
def State.laneBad (n : MLane) (s : State) : State := s.modMet fun m => { m with laneBadAt := vmod m.laneBadAt n fun _ => s.clk.cycle }

/-- LANE_FAULT: `bits` are the lane's last 10 µs. -/
def execLaneFault (n : MLane) (bits : List Bool) (s : State) : Host.Outcome State Fault Refusal :=
  s.live fun s => (
    if !s.hasLane n || !streamFaulty bits then s
    else if s.met.laneFault.getLsbD n.val then s.laneBad n
    else (((s.laneBad n).modDia fun d => { d with laneFaults := vmod d.laneFaults n fun k => clampU 8 (k.toNat + 1) }).withErr fun t => t.modMet fun m =>
      { m with laneFault := m.laneFault ||| bit 24 n.val,
               netFault := match netOf n with | some k => m.netFault ||| bit 9 k.val | none => m.netFault }).raiseAt .met 0 n.val 0 0)

/-- LANE_CLEAR: 10 ms without either condition have passed since the last faulty window. -/
def execLaneClear (n : MLane) (s : State) : Host.Outcome State Fault Refusal :=
  s.live fun s => (
    if s.met.laneFault.getLsbD n.val then
      ((s.runTo (s.met.laneBadAt.get n + ms 10)).modMet fun m => { m with laneFault := m.laneFault &&& ~~~ bit 24 n.val }).raiseAt .met 1 n.val 0 0
    else s)

/-- A net contains a replaced sample: a fault was in it, or is in force. -/
def State.netFlagged (s : State) (k : Fin 9) : Bool :=
  s.met.netFault.getLsbD k.val || (List.finRange 24).any fun n => netOf n == some k && s.met.laneFault.getLsbD n.val

/-! ### Legal samples (12 R294, R298, R299; 14 R350) -/

/-- Lanes of an outlet. -/
def laneV (o : Outlet) : MLane := ⟨2 * o.val, by have := o.isLt; omega⟩
def laneI (o : Outlet) : MLane := ⟨2 * o.val + 1, by have := o.isLt; omega⟩

/-- Bytes of a capture at its place in its pages (12 R311). -/
def State.capturePut (b : Byte) (s : State) : State :=
  match s.met.capture with
  | none => s
  | some c =>
    if c.bytes < c.refs.length * 4096 then
      (s.memWrite ((pageOf (nth c.refs (c.bytes / 4096) 0)).val * 4096 + c.bytes % 4096) b).modMet fun m =>
        { m with capture := some { c with bytes := c.bytes + 1 } }
    else s

/-- What a sample gives a capture: interleaved words of the lanes, in ascending lane order. -/
def captureBytes (c : CaptureRun) (v : Vector Int 24) (x : LegalIn) : List Byte :=
  let lanes := (List.finRange 24).filter fun n => c.mask.getLsbD n.val
  if c.decimated then lanes.flatMap fun n => leBytes 4 (BitVec.ofInt 32 (v.get n)).toNat
  else (List.finRange 8).flatMap fun k => lanes.flatMap fun n => leBytes 4 ((x.bits.get n).get k).toNat

def State.captureFeed (v : Vector Int 24) (x : LegalIn) (s : State) : State :=
  match s.met.capture with
  | none => s
  | some c =>
    (captureBytes c v x).foldl (fun t b => t.capturePut b)
      (s.modMet fun m => { m with capture := some { c with first := c.first <|> some s.now } })

/-- CLK_SYS cycles between legal samples: 12.8 µs. -/
def sampleCycles : Nat := 4800

/-- LEGAL_SAMPLE: time runs to the next decimator output, and its products enter the accumulators. -/
def execLegalSample (x : LegalIn) (s : State) : Host.Outcome State Fault Refusal :=
  s.live fun s => (
    let s := s.runTo ((s.clk.cycle / sampleCycles + 1) * sampleCycles)
    let v : Vector Int 24 := Vector.ofFn fun n => s.laneValue n (x.code.get n)
    let on := fun (o : Outlet) => s.hasOutlet o
    let pw := fun (o : Outlet) => v.get (laneV o) * v.get (laneI o)
    let s1 := s.modMet fun m =>
      { m with accOut := vmapIdx m.accOut fun o a => if on o then a + pw o else a,
               accP := m.accP + v.get 16 * v.get 19 + v.get 17 * v.get 20 + v.get 18 * v.get 21,
               sums := vmapIdx m.sums fun o q =>
                 if on o then { q with v := q.v + v.get (laneV o), i := q.i + v.get (laneI o), p := q.p + pw o, n := q.n + 1 } else q,
               tickSum := vmapIdx m.tickSum fun o a => if on o then a + v.get (laneI o) else a, tickN := m.tickN + 1 }
    ((s1.batSample (v.get 22) (v.get 23)).captureFeed v x))

/-- The live record of a tick: means of the samples of the tick that ends (12 R310). -/
def State.liveRecord (tick : Nat) (s : State) : State :=
  s.modMet fun m =>
    { m with tickSum := .replicate 8 0, tickN := 0,
             live := Vector.ofFn fun (i : Fin 16) =>
               if i = 0 || i = 15 then BitVec.ofNat 32 tick
               else if i = 2 then BitVec.ofNat 32 (tick - 1)
               else if i = 3 then BitVec.ofNat 32 ((tick - 1) / 2 ^ 32)
               else if h : 4 ≤ i.val ∧ i.val < 12 then
                 (let o : Outlet := ⟨i.val - 4, by omega⟩
                  if s.hasOutlet o && m.tickN != 0 then BitVec.ofInt 32 ((m.tickSum.get o).tdiv m.tickN) else 0)
               else 0 }

/-! ### One-second netting (12 R303) -/

/-- K: µW-samples in a mWh (12 R298). -/
def kWh : Int := 281250000000

/-- Close of a net: the whole mWh and the remainder that is carried. -/
def closeNet (acc rem : Int) : Int × Int := let e := (acc + rem).tdiv kWh; (e, acc + rem - e * kWh)

/-- Index of the tariff in force. -/
def State.tariffIx (s : State) : Fin 8 := Fin.ofNat 8 (s.bil.core.tariff - 1)

def State.modCore (f : BilCore → BilCore) (s : State) : State := s.modBil fun b => { b with core := f b.core }

/-- What a net's close notes beside its energy: the flag, the sign, and that a net has been posted (12 R297; 13 R321, R338, R344). -/
def State.netNote (k : Fin 9) (e : Int) (negative : Bool) (s : State) : State :=
  let f := s.netFlagged k
  let s1 := s.modMet fun m =>
    { m with netFault := m.netFault &&& ~~~ bit 9 k.val,
             lastNeg := if negative then m.lastNeg ||| bit 9 k.val else m.lastNeg &&& ~~~ bit 9 k.val,
             cntFaultSeconds := if f then satInc m.cntFaultSeconds else m.cntFaultSeconds }
  let s2 := s1.cond f (·.modCore fun c => { c with openFlags := c.openFlags ||| 8 })
  s2.cond (e != 0) (·.modBil fun b => { b with exported := none })

/-- The net of an outlet is closed and posted to the tariff in force (12 R303, R304; 13 R316). -/
def State.closeOutlet (o : Outlet) (s : State) : State :=
  if !s.hasOutlet o then s
  else
    let (e, rem) := closeNet (s.met.accOut.get o) (s.bil.core.remOut.get o)
    let t := s.tariffIx
    let k : Fin 9 := ⟨o.val, by omega⟩
    let f := s.netFlagged k
    let s1 := s.netNote k e (decide (s.met.accOut.get o + s.bil.core.remOut.get o < 0))
    (s1.modCore fun c =>
      { c with remOut := vmod c.remOut o fun _ => rem,
               outlets := vmod c.outlets o fun v => vmod v t fun p => { imp := p.imp + e.toNat, exp := p.exp + (-e).toNat } }).modMet fun m =>
        { m with accOut := vmod m.accOut o fun _ => 0,
                 sums := vmod m.sums o fun q => { q with fault := q.fault || f },
                 session := vmod m.session o fun x =>
                   if x.running then
                     { x with imp := x.imp + e.toNat, exp := x.exp + (-e).toNat, impT := vmod x.impT t (· + e.toNat),
                              expT := vmod x.expT t (· + (-e).toNat), flags := if f then x.flags ||| 1 else x.flags }
                   else x }

/-- The grid nets (12 R303). -/
def State.closeGrid (s : State) : State :=
  let c := s.bil.core
  let (ea, rp) := closeNet s.met.accP c.remP
  let (eq, rq) := closeNet s.met.accQ c.remQ
  let a := s.met.accP + c.remP
  let quad : Fin 4 := if 0 ≤ a then (if 0 ≤ eq then 0 else 3) else if 0 ≤ eq then 1 else 2
  let t := s.tariffIx
  let s1 := s.netNote 8 (if ea = 0 then eq else ea) (decide (a < 0))
  (s1.modCore fun c =>
    { c with remP := rp, remQ := rq, openImp := c.openImp + ea.toNat, openExp := c.openExp + (-ea).toNat,
             grid := vmod c.grid t fun g =>
               { imp := g.imp + ea.toNat, exp := g.exp + (-ea).toNat, q := vmod g.q quad (· + eq.natAbs) } }).modMet fun m =>
    { m with accP := 0, accQ := 0 }

/-- Every open net is closed, in ascending outlet order and then the grid; an interval that sees MRAM writes held is flagged (13 R321). -/
def State.closeNets (s : State) : State :=
  let s1 := (s.forAll fun (o : Outlet) t => t.closeOutlet o).closeGrid
  s1.cond s1.thm.mramBlocked (·.modCore fun c => { c with openFlags := c.openFlags ||| 16 })

/-- Totals over the tariffs (13 R315). -/
def State.outImp (s : State) (o : Outlet) : Nat := sumFin 8 fun t => ((s.bil.core.outlets.get o).get t).imp
def State.outExp (s : State) (o : Outlet) : Nat := sumFin 8 fun t => ((s.bil.core.outlets.get o).get t).exp
def State.gridImp (s : State) : Nat := sumFin 8 fun t => (s.bil.core.grid.get t).imp
def State.gridExp (s : State) : Nat := sumFin 8 fun t => (s.bil.core.grid.get t).exp
def State.gridQ (s : State) (q : Fin 4) : Nat := sumFin 8 fun t => (s.bil.core.grid.get t).q.get q

/-! ### The snapshot (12 R309; 01 R29, R30) -/

/-- The slot of an image kind that runs (19 R454). -/
def ImgKind.running (k : ImgKind) : ImgSlot := if k.runningB then k.b else k.a

/-- Words of an outlet's entry. -/
def State.snapOutlet (s : State) (o : Outlet) (k : Nat) : Word :=
  let x := s.met.session.get o
  let q := s.met.lastSec.get o
  let mean := fun (a : Int) (d : Int) => if q.n = 0 then (0 : Word) else BitVec.ofInt 32 (a.tdiv (q.n * d))
  let w64 := fun (n : Nat) (hi : Bool) => BitVec.ofNat 32 (if hi then n / 2 ^ 32 else n)
  if !s.hasOutlet o then 0
  else match k with
  | 0 => w64 (s.outImp o) false | 1 => w64 (s.outImp o) true
  | 2 => w64 (s.outExp o) false | 3 => w64 (s.outExp o) true
  | 4 => x.id
  | 5 => flagAt x.running 0 ||| flagAt q.fault 1 ||| flagAt (s.met.reversed.getLsbD o.val) 2
  | 6 => w64 x.imp false | 7 => w64 x.imp true
  | 8 => w64 x.exp false | 9 => w64 x.exp true
  | 10 => mean q.v 1 | 11 => mean q.i 1 | 12 => mean q.p 1000000
  | 13 => BitVec.ofNat 32 (s.met.dark.get o)
  | _ => 0

/-- Words of a grid phase's entry. -/
def GridQty.word (g : GridQty) (k : Nat) : Word :=
  match k with
  | 0 => BitVec.ofNat 32 g.vrms | 1 => BitVec.ofNat 32 g.irms | 2 => BitVec.ofInt 32 g.p | 3 => BitVec.ofInt 32 g.q
  | 4 => BitVec.ofNat 32 g.s
  | 5 => (BitVec.ofInt 16 g.pf).setWidth 32 ||| natAt g.thdV 16 16
  | 6 => natAt g.thdI 16 0
  | _ => 0

/-- Word i of a snapshot with a cause and an instant. -/
def State.snapWord (s : State) (cause : Word) (instant : Nat) (i : Fin 256) : Word :=
  let w64 := fun (n : Nat) (hi : Bool) => BitVec.ofNat 32 (if hi then n / 2 ^ 32 else n)
  if h : 16 ≤ i.val ∧ i.val < 144 then s.snapOutlet ⟨(i.val - 16) / 16, by omega⟩ ((i.val - 16) % 16)
  else if h : 144 ≤ i.val ∧ i.val < 168 then (s.met.grid.get ⟨(i.val - 144) / 8, by omega⟩).word ((i.val - 144) % 8)
  else if h : 174 ≤ i.val ∧ i.val < 182 then w64 (s.gridQ ⟨(i.val - 174) / 2, by omega⟩) ((i.val - 174) % 2 == 1)
  else match i.val with
  | 0 => s.met.pubSeq | 255 => s.met.pubSeq
  | 1 => cause
  | 2 => w64 instant false | 3 => w64 instant true
  | 4 => w64 s.met.second false | 5 => w64 s.met.second true
  | 6 => s.cfg.legalEpoch
  | 7 => (s.lcs.img.get 4).running.version
  | 8 => flagAt (s.bilError != 0) 0 ||| flagAt s.thm.mramBlocked 1 ||| flagAt s.cfg.calFrozen 2 ||| flagAt s.met.noVoltage 3 |||
         flagAt s.met.nominal60 4 ||| flagAt s.met.tempSrcLost 5
  | 9 => natAt s.bil.core.tariff 8 0
  | 10 => w64 s.bil.core.seq false | 11 => w64 s.bil.core.seq true
  | 168 => BitVec.ofNat 32 s.met.freq
  | 170 => w64 s.gridImp false | 171 => w64 s.gridImp true
  | 172 => w64 s.gridExp false | 173 => w64 s.gridExp true
  | _ => 0

/-- A snapshot is written into the buffer that does not hold the newest one, which it then becomes. -/
def State.publish (cause : Word) (instant : Nat) (s : State) : State :=
  let s1 := s.modMet fun m => { m with pubSeq := m.pubSeq + 1 }
  let b : Fin 2 := if s1.met.newest then 0 else 1
  s1.modMet fun m => { m with snap := vmod m.snap b fun _ => Vector.ofFn fun i => s1.snapWord cause instant i, newest := !m.newest }

/-! ### Grid windows (12 R299-R302) -/

/-- Square root rounded down, up to 2^32. -/
def isqrt (n : Nat) : Nat := (bisect (fun t => t * t) n 32 0).toNat

/-- THD in 0.01 % of magnitudes G_1, G_2, …; 0 where G_1 is 0. -/
def thd (g : List Nat) : Nat :=
  match g with
  | [] => 0
  | g1 :: r => if g1 = 0 then 0 else min 65535 (isqrt ((r.map fun x => x * x).foldl (· + ·) 0 * 10 ^ 8 / (g1 * g1)))

/-- The harmonic words of a lane in a window (12 R314 `MET_HARM`). -/
def harmWords (seq : Word) (g : List Nat) (a : List Int) : Vector Word 64 :=
  let g1 := nth g 0 0
  Vector.ofFn fun h =>
    if h = 0 then seq
    else if h = 1 then BitVec.ofNat 32 g1
    else (BitVec.ofInt 16 (nth a (h.val - 1) 0)) ++ (if g1 = 0 then (0 : Half) else clampU 16 (roundDiv (10000 * nth g (h.val - 1) 0) g1))

/-- The window values of a phase: apparent power, power factor, THD (12 R301). -/
def gridQty (g : GridIn) (p : Fin 3) (live : Bool) : GridQty :=
  let v := g.vrms.get p
  let i := g.irms.get p
  let s := v * i / 1000000
  { vrms := v, irms := i, p := g.p.get p, q := g.q.get p, s := s,
    pf := if s = 0 then 0 else (g.p.get p * 10 ^ 10).tdiv (v * i),
    thdV := if live then thd (g.mag.get ⟨2 * p.val, by omega⟩) else 0,
    thdI := if live then thd (g.mag.get ⟨2 * p.val + 1, by omega⟩) else 0 }

/-- The legal domain acts: in service, no warning or clock fault since its commit, not in HOLD (13 R329; 20 R469, R475). -/
def State.legalOn (s : State) : Bool :=
  s.bil.legalUp && !s.pwr.pfw && s.clk.faultSince.isNone && (s.pwr.mode == .run || s.pwr.mode == .idle)

/-- The part of a window of a length in ns that lies before the newest second boundary (12 R302). -/
def State.windowLate (length : Nat) (s : State) : Nat :=
  let b := s.met.second * Config.secondNs
  if s.now < b then 0 else length - (s.now - b)

/-- Reactive energy of a time in ns at the window's q, in the units of the net accumulators (12 R302). -/
def reactiveUnits (g : GridIn) (ns : Nat) : Int := ((g.q.get 0 + g.q.get 1 + g.q.get 2) * 1000000 * ns).tdiv 12800

/-- The reactive energy of a window that belongs to the second already closed: it is closed as a net of that second, in the quadrant that the
second's active net gives (12 R302, R303; log entry 16). -/
def State.closeLate (n : Int) (s : State) : State :=
  let (e, rem) := closeNet n s.bil.core.remQ
  let quad : Fin 4 := if s.met.lastNeg.getLsbD 8 then (if 0 ≤ e then 1 else 2) else if 0 ≤ e then 0 else 3
  let t := s.tariffIx
  (s.modCore fun c => { c with remQ := rem, grid := vmod c.grid t fun g => { g with q := vmod g.q quad (· + e.natAbs) } }).cond (e != 0)
    (·.modBil fun b => { b with exported := none })

/-- GRID_WINDOW_END: the window values, the nominal frequency, `NO_VOLTAGE`, and the reactive energy, divided at the second boundary that the
window spans (12 R299-R302). -/
def execGridWindowEnd (g : GridIn) (s : State) : Host.Outcome State Fault Refusal :=
  s.live fun s => (
    let live := g.ref.isSome
    let f := if live then g.freq else 0
    let choose := live && !s.met.nominalKnown
    let seq := s.met.window + 1
    let late := s.windowLate g.length
    let s0 := s.cond (s.legalOn && late != 0) (·.closeLate (reactiveUnits g late))
    let s1 := s0.modMet fun m =>
      { m with freq := f, window := seq, noVoltage := !live,
               nominalKnown := live && (m.nominalKnown || (decide (45000 ≤ f) && decide (f < 65000))),
               nominal60 := if choose && decide (55000 ≤ f) && decide (f < 65000) then true
                 else if choose && decide (45000 ≤ f) && decide (f < 55000) then false else m.nominal60,
               grid := Vector.ofFn fun p => gridQty g p live,
               harm := Vector.ofFn fun b => harmWords seq (if live then g.mag.get b else []) (if live then g.ang.get b else []),
               accQ := m.accQ + (reactiveUnits g g.length - if s.legalOn then reactiveUnits g late else 0) }
    (s1.cond (!live && !s.met.noVoltage) (·.raise .met 2)).setShifts)

/-! ### Tamper records (13 R339, R340) -/

def State.tamperPost (y : Fin 9) (t : Nat) (s : State) : State :=
  (s.modBil fun b =>
    { b with tamper := vmod b.tamper y fun c => { count := satInc c.count, first := if c.count = 0 then t else c.first, last := t } }).raiseAt
    .bil 8 y.val 0 0

/-- A tamper event: recorded, or held while the legal core does not run or MRAM writes are forbidden. -/
def State.tamperEvent (y : Fin 9) (t : Nat) (s : State) : State :=
  if s.bil.legalUp && !s.thm.mramBlocked && s.pwr.mode != .hold then s.tamperPost y t
  else s.modBil fun b => { b with tamperHeld := b.tamperHeld ++ [(y, t)] }

/-- Held tamper events are posted once writes are allowed, with their own times. -/
def State.tamperFlush (s : State) : State :=
  if s.bil.legalUp && !s.thm.mramBlocked && s.pwr.mode != .hold then
    s.bil.tamperHeld.foldl (fun t x => t.tamperPost x.1 x.2) (s.modBil fun b => { b with tamperHeld := [] })
  else s

/-! ### Reversed sensors (12 R305) -/

/-- The condition holds over the second that has just closed. -/
def State.revNow (s : State) (k : Fin 9) : Bool :=
  if h : k.val < 8 then
    let o : Outlet := ⟨k.val, h⟩
    let q := s.met.lastSec.get o
    s.hasOutlet o && q.n != 0 && decide (20 * q.v < -(s.fullScale (laneV o)) * q.n)
  else
    let p := fun (i : Fin 3) => (s.met.grid.get i).p
    let big := fun (i : Fin 3) =>
      decide (s.fullScale ⟨16 + i.val, by omega⟩ * s.fullScale ⟨19 + i.val, by omega⟩ < (p i).natAbs * 100 * 1000000)
    let odd := fun (i j l : Fin 3) => decide (0 < p j * p l) && decide (p i * p j < 0)
    big 0 && big 1 && big 2 && (odd 0 1 2 || odd 1 0 2 || odd 2 0 1)

/-- A reversed sensor is declared once its condition has held for 10 s, on the grid for 60 s. -/
def State.revDeclare (k : Fin 9) (s : State) : State :=
  if !s.met.reversed.getLsbD k.val && decide ((if k.val < 8 then 10 else 60) ≤ s.met.revRun.get k) then
    (((s.modMet fun m =>
      { m with reversed := m.reversed ||| bit 9 k.val,
               session := vmapIdx m.session fun o x => if o.val = k.val && x.running then { x with flags := x.flags ||| 16 } else x }).raiseAt
        .met 4 k.val 0 0).tamperEvent 6 s.now)
  else s

/-- The conditions at a closed second; a declaration lapses when its condition has been absent for 60 s. -/
def State.revSecond (s : State) : State :=
  s.forAll fun (k : Fin 9) t =>
    let now := t.revNow k
    (t.modMet fun m =>
      let last := if now then some t.now else m.revLast.get k
      let gone := match last with | some x => decide (x + 60000000000 ≤ t.now) | none => true
      { m with revRun := vmod m.revRun k fun n => if now then n + 1 else 0, revLast := vmod m.revLast k fun _ => last,
               reversed := if gone then m.reversed &&& ~~~ bit 9 k.val else m.reversed }).revDeclare k

/-- REVERSED_SENSOR. -/
def execReversedSensor (i : Fin 9) (s : State) : Host.Outcome State Fault Refusal := s.live fun s => (s.revDeclare i)

/-! ### Dark charge (12 R307, R308) -/

/-- The next step of a burst, after the time that the step in progress takes (R307; 23 R519). -/
def State.burstStep (b : Burst) (k : Nat) (s : State) : State := (s.runCycles k).modPwr fun p => { p with burst := b }

/-- The burst's mean current of an outlet, mA: each of its 32 samples is calibrated with the factory and the sealed user layer, with k = 0
(R307). -/
def State.burstMean (s : State) (o : Outlet) (samples : Vector Int 32) : Int :=
  (sumFinI 32 fun i => s.laneCode (laneI o) 0 (samples.get i)).tdiv 32

/-- The dark current of an outlet in the second that starts at a fleet time (R308). -/
def State.darkSecond (sec : Nat) (o : Outlet) (samples : Vector Int 32) (t : State) : State :=
  let i := (t.burstMean o samples).natAbs
  if t.hasOutlet o && decide (t.laneUser (laneI o) 0 8388607 < 200 * i) then
    t.modMet fun m =>
      let n := m.darkRem.get o + 10 * i
      { m with dark := vmod m.dark o (· + n / 36), darkRem := vmod m.darkRem o fun _ => n % 36, darkPending := true,
               darkFirst := vmod m.darkFirst o fun x => x <|> some sec, darkLast := vmod m.darkLast o fun _ => sec }
  else t

/-- DARK_BURST: in HOLD, at the next whole second of the real-time clock. AUXPWR goes on, after 500 µs MOD_CLK runs for 1 ms, the last 32
samples of each current lane are taken, and both go off (R307, R308; 23 R519). -/
def execDarkBurst (samples : Vector (Vector Int 32) 8) (s : State) : Host.Outcome State Fault Refusal :=
  .next (
    if s.pwr.mode ≠ .hold then s
    else
      let second := (s.now / Config.secondNs + 1) * Config.secondNs
      let s1 := ((s.runToFleet second).burstStep .powered 0).burstStep .clocked (us 500)
      (s1.forAll fun (o : Outlet) t => t.darkSecond second o (samples.get o)).burstStep .off (ms 1))

/-- At the first restore with MRAM writes allowed: one DARK_CURRENT tamper event for each outlet concerned. -/
def State.darkRestore (s : State) : State :=
  if !s.met.darkPending || s.thm.mramBlocked || !s.bil.legalUp then s
  else
    let s1 := s.forAll fun (o : Outlet) t =>
      match t.met.darkFirst.get o with
      | some f => ((t.tamperPost 5 (t.met.darkLast.get o)).raiseAt .met 5 o.val (f / Config.secondNs)
          (t.met.darkLast.get o / Config.secondNs)).modMet fun m => { m with darkFirst := vmod m.darkFirst o fun _ => none }
      | none => t
    s1.modMet fun m => { m with darkPending := false }

/-! ### Capture (12 R311) -/

def State.refCapture (s : State) : Bool := s.met.capture.isSome

/-- MET_CAPTURE: the capture starts with the next legal sample; it completes when its pages are full. -/
def execMetCapture (r : Ring) (d : Desc) (s : State) : Host.Outcome State Fault Refusal :=
  .next (s.work r d fun t =>
    t.modMet fun m =>
      { m with capture := some ⟨r, d.seq, (bitsOf (d.w 24) 0 24), d.b 27 == 1, t.listRefs (d.w 28) (d.w 32).toNat, 0, none⟩ })

/-- CAPTURE_DONE: the pages are full. -/
def execCaptureDone (s : State) : Host.Outcome State Fault Refusal :=
  s.live fun s => (match s.met.capture with
    | none => s
    | some c =>
      if c.bytes = c.refs.length * 4096 then
        ((s.modMet fun m => { m with capture := none }).raise .met 6).completeAt c.ring c.seq 0 (BitVec.ofNat 32 c.bytes)
          (c.first.getD s.now)
      else s)

end Sys2Proof.Machine
end

