-- ==== Sys2Proof/Machine/Keys.lean ====
section
/-! DEFINITION. The caddy: requests, slots, anchors, station keys, quotes and certificates, tamper (18). The effect of a command gives the
state, the detail and the result of its completion, so that the management core can ask for it too (19 R459). -/
namespace Sys2Proof.Machine

/-- What a command's effect is: state, detail, result. -/
abbrev Effect := State × Half × Word

/-- A command's effect completes its descriptor. -/
def State.effect (r : Ring) (d : Desc) (f : State → Effect) (s : State) : State :=
  let (t, detail, result) := f s
  t.complete r d.seq detail result

/-! ### Slots (18 R433, R437) -/

/-- An MRAM slot that the caddy does not treat as empty. -/
def State.mramSlot (s : State) (i : Nat) : Option KeySlot :=
  match s.key.slots.find? fun x => x.1 == i with
  | some (_, k) => if k.state = s.lcs.st.code && k.nt = s.lcs.nt then some k else none
  | none => none

/-- The content and attributes in use under a slot number: the MRAM slot, or the OTP slot of the same index where that is empty. -/
def State.slotInUse (s : State) (i : Nat) : Option KeySlot :=
  match s.mramSlot i with
  | some k => some k
  | none =>
    if h : i < 16 then
      let o := s.key.otp.get ⟨i, h⟩
      if o.programmed && !o.void then some ⟨o.kind, o.usage, o.role, s.lcs.st.code, s.lcs.nt, o.data⟩ else none
    else none

/-- Set an MRAM slot, or empty it. -/
def State.putSlot (i : Nat) (k : Option KeySlot) (s : State) : State :=
  s.modKey fun x =>
    let rest := x.slots.filter fun y => y.1 != i
    { x with slots := match k with
        | some v => rest.filter (fun y => decide (y.1 < i)) ++ [(i, v)] ++ rest.filter (fun y => decide (i < y.1))
        | none => rest }

/-- Bytes that a kind does not use are zero (R433). -/
def slotData (bytes : List Byte) : List Byte := bytes.take 32 ++ List.replicate 32 0

/-- The base root serves: neither `ROOT_FAIL` nor `ZEROIZED` (R427, R440). -/
def State.rootServes (s : State) : Bool := !s.key.rootFail && !s.key.zeroized

/-- Key commands are refused in SCRAP and without a base root (R440). -/
def State.refKey (s : State) : Bool := s.lcs.st == .scrap || !s.rootServes

/-- KEY_SLOT_WRITE. -/
def State.slotWrite (d : Desc) (s : State) : Effect :=
  (s.putSlot (d.b 24).toNat (some ⟨bitsOf (d.b 25) 0 4, bitsOf (d.b 26) 0 4, if d.b 25 = 6 then bitsOf (d.b 27) 0 4 else 0, s.lcs.st.code, s.lcs.nt,
    slotData (s.pageBytes (d.w 28) 64)⟩), 0, 0)

def execKeySlotWrite (r : Ring) (d : Desc) (s : State) : Host.Outcome State Fault Refusal := .next (s.work r d (·.effect r d (·.slotWrite d)))

/-- KEY_SLOT_ERASE is refused on an empty slot. -/
def State.refSlotErase (s : State) (d : Desc) : Bool := (s.mramSlot (d.b 24).toNat).isNone

def State.slotErase (d : Desc) (s : State) : Effect := (s.putSlot (d.b 24).toNat none, 0, 0)

/-- KEY_SLOT_ERASE. -/
def execKeySlotErase (r : Ring) (d : Desc) (s : State) : Host.Outcome State Fault Refusal := .next (s.work r d (·.effect r d (·.slotErase d)))

def otpIx (d : Desc) : Fin 16 := Fin.ofNat 16 (d.b 24).toNat

/-- KEY_OTP_WRITE is refused on a programmed slot. -/
def State.refOtp (s : State) (d : Desc) : Bool := (s.key.otp.get (otpIx d)).programmed

/-- KEY_OTP_WRITE; `verified` is the read-back. The payload names no role or curve: a free value (log entry 4). -/
def State.otpWrite (d : Desc) (verified : Bool) (s : State) : Effect :=
  let slot : OtpSlot := ⟨bitsOf (d.b 25) 0 4, bitsOf (d.b 26) 0 4, BitVec.ofNat 4 (Config.freeNat s.free), bitsOf (d.b 27) 0 5, !verified, true,
    slotData (s.pageBytes (d.w 28) 64)⟩
  let t := (s.useFree).modKey fun k => { k with otp := vmod k.otp (otpIx d) fun o => if o.programmed then o else slot }
  (t.cond (!verified) (·.raise .key 5), 0, if verified then 0 else 1)

def execKeyOtpWrite (r : Ring) (d : Desc) (verified : Bool) (s : State) : Host.Outcome State Fault Refusal :=
  .next (s.work r d (·.effect r d (·.otpWrite d verified)))

/-! ### Anchors (18 R434, R435) -/

/-- Digest held in bytes 0-31 of a slot's content. -/
def holdsDigest (data : List Byte) (g : Digest) : Bool := data.take 32 == leBytes 32 g.toNat

/-- The anchor of a role 1 to 4 as the caddy uses it: the stored key's digest equals its slot's content. -/
def State.anchor (s : State) (role : Nat) : Option Anchor :=
  if h : 1 ≤ role ∧ role ≤ 4 then
    match s.key.anchors.get ⟨role - 1, by omega⟩ with
    | some a => match s.slotInUse a.slot with
      | some k => if k.kind = 4 && holdsDigest k.data a.digest then some a else none
      | none => none
    | none => none
  else none

/-- Length of an ML-DSA public key. -/
def keyLength (param : Nat) : Nat := if param = 44 then 1312 else if param = 65 then 1952 else 2592

/-- KEY_ANCHOR_SET is refused when its role is held, unless the page carries a signature by the anchor in force (R435). -/
def State.refAnchor (s : State) (d : Desc) (sigOk : Bool) : Bool :=
  (s.key.anchors.get (Fin.ofNat 4 ((d.b 24).toNat - 1))).isSome && !((s.anchor (d.b 24).toNat).isSome && sigOk)

/-- The slot of a new anchor: that of the one it replaces, or one of the empty MRAM slots, which of them is left open: a free value (log
entry 4). -/
def State.anchorSlot (s : State) (i : Fin 4) : Nat :=
  match s.key.anchors.get i with
  | some a => a.slot
  | none =>
    let free := (List.range 256).filter fun k => (s.slotInUse k).isNone
    if free.isEmpty then Config.freeNat s.free % 256 else nth free (Config.freeNat s.free % free.length) 0

/-- KEY_ANCHOR_SET. -/
def State.anchorSet (d : Desc) (s : State) : Effect :=
  let i : Fin 4 := Fin.ofNat 4 ((d.b 24).toNat - 1)
  let key := s.pageBytes (d.w 28) (keyLength (d.b 25).toNat)
  let g := Config.sha3 key
  let n := s.anchorSlot i
  ((s.putSlot n (some ⟨4, 0, BitVec.ofNat 4 (i.val + 1), s.lcs.st.code, s.lcs.nt, slotData (leBytes 32 g.toNat)⟩)).useFree.modKey fun k =>
    { k with anchors := vmod k.anchors i fun _ => some ⟨d.b 25, key, g, n⟩ }, 0, BitVec.ofNat 32 n)

def execKeyAnchorSet (r : Ring) (d : Desc) (s : State) : Host.Outcome State Fault Refusal := .next (s.work r d (·.effect r d (·.anchorSet d)))

/-! ### Station keys (18 R436) -/

/-- KEY_LEGACY_SET is refused while the register holds a key. -/
def State.refLegacy (s : State) : Bool := s.key.legacy != 0

def State.legacySet (d : Desc) (s : State) : Effect :=
  (s.modKey fun k => { k with legacy := bitsOf (d.b 24) 0 2, legacyKey := s.pageBytes (d.w 28) 66 }, 0, 0)

/-- KEY_LEGACY_SET. -/
def execKeyLegacySet (r : Ring) (d : Desc) (s : State) : Host.Outcome State Fault Refusal := .next (s.work r d (·.effect r d (·.legacySet d)))

/-- The station key of a curve: the legacy register's, or the lowest slot of kind 6 for it. -/
def State.stationKey (s : State) (curve : Nat) : Option (List Byte) :=
  if curve ≠ 0 && s.key.legacy.toNat = curve then some s.key.legacyKey
  else (List.range 256).findSome? fun i => (s.slotInUse i).bind fun k => if k.kind = 6 && k.role.toNat = curve then some k.data else none

/-! ### Certificates and quotes (18 R438, R439) -/

/-- Variant bits as in 04 R102. -/
def State.variantBits (s : State) : Nat := match s.glb.variant with | .a2 => 1 | .a4 => 2 | .a8t => 4

/-- The birth certificate of 6,647 bytes. -/
def State.birthCertBytes (s : State) : List Byte :=
  leBytes 4 0x424C4843 ++ leBytes 2 1 ++ leBytes 2 s.variantBits ++ leBytes 16 Config.serial.toNat ++
  ((List.range 40).map fun i => Config.birthField s.key.root (24 + i)) ++ ((List.range 1952).map (Config.keyByte s.key.birthDigest)) ++
  leBytes 4 4627 ++ ((List.range 4627).map fun i => Config.birthField s.key.root (2020 + i))

/-- A signature by a key over a message's digest. -/
def signature (key : Digest) (m : List Byte) (n : Nat) : List Byte := (List.range n).map (Config.sigByte key (leBytes 32 (Config.sha3 m).toNat))

/-- The state certificate of 5,369 bytes. -/
def State.stateCertBytes (s : State) (code nt issue : Nat) : List Byte :=
  let m := leBytes 4 0x534C4843 ++ leBytes 2 1 ++ leBytes 1 code ++ leBytes 1 0 ++ leBytes 4 nt ++ leBytes 4 0 ++ leBytes 16 Config.serial.toNat ++
    leBytes 8 issue ++ leBytes 32 s.key.birthDigest.toNat ++ leBytes 32 s.key.stateDigest.toNat ++
    ((List.range 1952).map (Config.keyByte s.key.stateDigest))
  m ++ leBytes 4 3309 ++ signature s.key.birthDigest m 3309

/-- `STATE_CERT`: the certificate held is valid for the state in force. -/
def State.certValid (s : State) : Bool :=
  match s.key.cert with | some (c, n, _) => c == s.lcs.st.code && n == s.lcs.nt | none => false

/-- The item of a KEY_CERT_FETCH. The form of a station key's public key is left open: a free length (log entry 4). -/
def State.certItem (s : State) (d : Desc) : Option (List Byte) :=
  if d.b 24 = 0 then (if s.key.birthCert then some s.birthCertBytes else none)
  else if d.b 24 = 1 then (match s.key.cert with | some (c, n, t) => some (s.stateCertBytes c n t) | none => none)
  else (s.stationKey (d.b 25).toNat).map fun k => (List.range (Config.freeNat s.free % 4097)).map (Config.keyByte (Config.sha3 k))

/-- KEY_CERT_FETCH: refused in SCRAP and without a base root, but for the birth certificate (R440), and when the item is absent. -/
def State.refCertFetch (s : State) (d : Desc) : Bool := (s.refKey && d.b 24 != 0) || (s.certItem d).isNone

/-- An item is written into the page; what a page of 4 KiB does not take is not written (log entry 20). -/
def State.certFetch (d : Desc) (s : State) : Effect :=
  match s.certItem d with
  | some b => ((s.writePages [d.w 28] b).useFree, 0, BitVec.ofNat 32 b.length)
  | none => (s, 0, 0)

def execKeyCertFetch (r : Ring) (d : Desc) (s : State) : Host.Outcome State Fault Refusal := .next (s.work r d (·.effect r d (·.certFetch d)))

/-- The quote of 3,537 bytes. -/
def State.quoteBytes (s : State) (nonce : List Byte) : List Byte :=
  let flags := (if s.lcs.normalBoot then 1 else 0) + (if s.lcs.recovery then 2 else 0) + (if s.lcs.portOpen then 4 else 0) + (if s.key.mixed then 8 else 0)
  let tamper := (List.finRange 9).foldl (fun (n : Nat) y => if (s.bil.tamper.get y).count != 0 then n + 2 ^ y.val else n) 0
  let m := leBytes 4 0x514C4843 ++ leBytes 2 1 ++ leBytes 1 s.lcs.st.code ++ leBytes 1 flags ++ leBytes 16 Config.serial.toNat ++ nonce ++
    leBytes 8 s.now ++ leBytes 4 s.ownPair.epoch.toNat ++ leBytes 4 s.cfg.legalEpoch.toNat ++ leBytes 32 s.ownPair.digest.toNat ++
    leBytes 64 s.lcs.meas.toNat ++ ([1, 2, 3, 4, 5].flatMap fun k => leBytes 4 (s.lcs.img.get (Fin.ofNat 6 k)).running.version.toNat) ++
    leBytes 4 tamper ++ leBytes 32 s.key.stateDigest.toNat
  m ++ leBytes 4 3309 ++ signature s.key.stateDigest m 3309

/-- KEY_QUOTE. -/
def State.quote (d : Desc) (s : State) : Effect :=
  ((s.writePages [d.w 56] (s.quoteBytes (leBytes 32 (bitsOf d.payload 0 256).toNat))).modKey fun k => { k with cntSign := satInc k.cntSign }, 0, 3537)

def execKeyQuote (r : Ring) (d : Desc) (s : State) : Host.Outcome State Fault Refusal := .next (s.work r d (·.effect r d (·.quote d)))

/-! ### Requests (01 R18; 18 R432) -/

/-- Whether a queue may make a request (R432). Kinds: 0 verification, 1 random bytes, 2 birth identity, 3 state identity, 4 receipt key,
5 working key of the queue that `slot` names, 6 the slot key of `slot`, 7 the station key of curve `slot`. Queues: control, data, management,
legal domain. -/
def State.serves (s : State) (q : Fin 4) (x : CaddyReq) : Bool :=
  match x.kind with
  | 0 | 1 => true
  | 3 => q == 0 || q == 2
  | 4 => q == 3
  | 5 => x.slot == q.val
  | 6 => match s.slotInUse x.slot with | some k => k.usage.getLsbD q.val | none => false
  | 7 => q == 1
  | _ => false

/-- Requests that need a root-derived key. -/
def rootReq (kind : Nat) : Bool := 2 ≤ kind && kind ≤ 5

/-- A request is served. Of a verification, `slot` 0 is a signature that verifies; of random bytes, 0 a conditioned output that passes the
health test (R432). -/
def State.caddyServe (q : Fin 4) (x : CaddyReq) (s : State) : State :=
  if !s.serves q x then (s.modKey fun k => { k with cntRefused := satInc k.cntRefused }).raise .key 3
  else if rootReq x.kind && !s.rootServes then s
  else match x.kind with
    | 0 => if x.slot = 0 then s else s.modKey fun k => { k with cntVerifyFail := satInc k.cntVerifyFail }
    | 1 =>
      if x.slot ≠ 0 then (s.modKey fun k => { k with rngFail := true, rngGood := 0 }).cond (!s.key.rngFail) (·.raise .key 2)
      else if s.key.rngFail then
        s.modKey fun k => { k with rngGood := if k.rngGood + 1 = 1024 then 0 else k.rngGood + 1, rngFail := decide (k.rngGood + 1 ≠ 1024) }
      else s
    | 5 => s
    | 7 => if (s.stationKey x.slot).isSome then s.modKey fun k => { k with cntSign := satInc k.cntSign } else s
    | 6 => match s.slotInUse x.slot with
      | some k => if 1 ≤ k.kind.toNat && k.kind.toNat ≤ 3 then s.modKey fun k => { k with cntSign := satInc k.cntSign } else s
      | none => s
    | _ => s.modKey fun k => { k with cntSign := satInc k.cntSign }

/-- The first queue from a place on that holds a request. -/
def State.nextQueue (s : State) : Option (Fin 4) :=
  ((List.range 4).map fun i => (Fin.ofNat 4 (s.key.turn.val + i) : Fin 4)).find? fun q => !(s.key.queues.get q).isEmpty

/-- The next request in round-robin order is served. -/
def State.serveNext (s : State) : State :=
  match s.nextQueue with
  | none => s
  | some q => match s.key.queues.get q with
    | [] => s
    | x :: rest => (s.modKey fun k => { k with queues := vmod k.queues q fun _ => rest, turn := Fin.ofNat 4 (q.val + 1) }).caddyServe q x

/-- A request joins its queue; a full queue refuses it (01 R18). -/
def State.caddyJoin (q : Fin 4) (x : CaddyReq) (s : State) : State :=
  if 16 ≤ (s.key.queues.get q).length then s else s.modKey fun k => { k with queues := vmod k.queues q (· ++ [x]) }

/-- CADDY_REQUEST: the requests that have arrived since the last one was served join their queues in order, and the caddy serves the
next one in round-robin order. -/
def execCaddyRequest (arrivals : List (Fin 4 × CaddyReq)) (s : State) : Host.Outcome State Fault Refusal :=
  s.live fun s => (arrivals.foldl (fun t a => t.caddyJoin a.1 a.2) s).serveNext

/-! ### Tamper (18 R428) -/

/-- The causes that the detection shows: mesh, light, temperature, voltage and, when enabled, switch. -/
def State.tamperCause (s : State) (x : TamperIn) : BitVec 5 :=
  let flag (k : Nat) (c : Bool) : BitVec 5 := if c then bit 5 k else 0
  flag 0 (x.drive.get 0 != x.ret.get 0 && x.drive.get 1 != x.ret.get 1) ||| flag 1 x.light ||| flag 2 (decide (x.temp < -50) || decide (135 < x.temp)) |||
  flag 3 (decide (x.vbak < 1300) || decide (3000 < x.vbak) || (s.supplied && decide (x.core < 600))) |||
  flag 4 ((x.swLow &&& s.key.swEn) != 0 && decide (100000 ≤ x.swHeld))

/-- KEY_TAMPER: the A8T zeroes its key memory when the detection shows a cause. -/
def execKeyTamper (x : TamperIn) (s : State) : Host.Outcome State Fault Refusal :=
  .next (
    let c := s.tamperCause x
    if s.glb.variant ≠ .a8t || c = 0 || s.pwr.mode = .ship then s
    else
      let s1 := (s.modKey fun k => { k with tamper := k.tamper ||| c, zeroized := true, rootOk := false }).raiseAt .key 0 0 c.toNat 0
      s1.cond (c.getLsbD 0) (·.tamperEvent 8 s.now))

end Sys2Proof.Machine
end

