-- ==== Sys2Proof/Machine/Configuration.lean ====
section
/-! DEFINITION. Configuration epochs: staging and its verification, reports, announced activation, adoption, catch-up (04). -/
namespace Sys2Proof.Machine

/-! ### Verification (04 R110) -/

/-- The final status of a verification: the first check of R110 that fails, 2 when none does. The verdict on the signature over the crew
digest by the configuration-signing key comes from the caddy. -/
def State.stageStatus (s : State) (g : Staged) (sigOk : Bool) : StagedStatus :=
  if 524288 < g.crew.length || 131072 < g.part.length then 9
  else match framing 1 g.crew, framing 2 g.part with
    | some cs, some ps =>
      let me := (memberEntries ((bodyOf cs 1).getD [])).find? fun m => m.identity == s.key.stateDigest
      let crewId : BitVec 4 := BitVec.ofNat 4 (u16 g.crew 16 / 4096)
      let listed := match me with
        | none => false
        | some m => !s.admitted || (m.id == s.rgt.id && crewId == s.rgt.crew)
      let partOk := match me with
        | none => false
        | some m => decide (imageDigest g.part = m.part) && u16 g.part 16 % 4096 == m.id.toNat && u32 g.part 8 == u32 g.crew 8
      if (match s.anchor 1 with | some a => digestAt g.crew 32 != a.digest | none => true) then 4
      else if !sigOk then 3
      else if !listed then 7
      else if !(decide (s.ownPair.epoch.toNat < u32 g.crew 8) || s.alc.crewPair == some s.cfg.stagedPair) then 6
      else if !partOk then 8
      else if !resourcesPresent s.glb.variant g.part ps then 7
      else if (decodeImage s.glb.variant s.pwm.dtMin.toNat g.crew g.part cs ps).isNone then 5
      else 2
    | _, _ => 5

/-- What the bytes of a staging say, where header, framing and every section allow it. -/
def contentsOf (v : Variant) (crew part : List Byte) : Option CfgImage :=
  match framing 1 crew, framing 2 part with
  | some cs, some ps => decodeImage v 0 crew part cs ps
  | _, _ => none

/-! ### Reports (04 R111) -/

/-- A STAGE_REPORT to the controller in Stroke role. -/
def State.sendReport (s : State) : State :=
  if !s.admitted || s.rgt.role = .stroke then s
  else (s.sendCfg (s.alc.stroke, s.rgt.crew) (.stageReport s.rgt.id s.rgt.crew s.cfg.stagedStatus s.cfg.stagedPair)).modCfg fun c =>
    { c with lastReport := s.clk.cycle }

/-- STAGE_REPORT: every second. -/
def execStageReport (s : State) : Host.Outcome State Fault Refusal := s.live fun s => (s.runTo (s.cfg.lastReport + sec 1)).sendReport

/-- STAGE_REPORT_RECEIVE at the Stroke. -/
def execStageReportReceive (h : Hdr) (status : BitVec 4) (pair : Pair) (s : State) : Host.Outcome State Fault Refusal :=
  s.live fun s => (
    if s.rgt.role != .stroke || !s.forMe h then s
    else (s.takeMsg 0x10).modCfg fun c => { c with reports := ⟨h.src, status, pair, s.clk.cycle⟩ :: c.reports.filter fun x => x.id != h.src })

/-! ### Catch-up (04 R116) -/

/-- The conditions of a catch-up. -/
def State.catchUpHolds (s : State) : Bool :=
  s.cfg.stagedStatus == 2 &&
  ((s.alc.crewPair == some s.cfg.stagedPair && s.alc.crewPair != some s.ownPair) || !s.admitted)

/-- The check of a round: when the conditions first hold, adoption is due one round later. -/
def State.catchUpCheck (s : State) : State :=
  s.modCfg fun c => { c with catchUpRound := if s.catchUpHolds then c.catchUpRound <|> some (s.round + 1) else none }

/-! ### Staging (04 R109, R110) -/

/-- CFG_STAGE is refused while an announced activation round has not passed (01 R21). -/
def State.refStage (s : State) : Bool := s.cfg.actRound.isSome

/-- A configuration is copied into the slot that is not active and its verification starts; it replaces an earlier one, whose descriptor, if
its verification was running, completes: the manual names no final status for it, a free value (log entry 4). -/
def State.stage (crew part : List Byte) (who : Option (Ring × DWord)) (s : State) : State :=
  let s1 := match s.cfg.stageWait with
    | some w => (s.complete w.1 w.2 0 (BitVec.ofNat 32 (Config.freeNat s.free))).useFree
    | none => s
  (s1.modCfg fun c =>
    { c with staged := some ⟨!c.activeB, crew, part, contentsOf s.glb.variant crew part⟩, stagedStatus := 1,
             stagedPair := ⟨BitVec.ofNat 32 (u32 crew 8), imageDigest crew⟩, stageWait := who, catchUpRound := none }).sendReport

/-- CFG_STAGE: the pages that the list page names hold the crew image and then the part (04 R109). Where an activation has been announced
since the decision, the image staged before it stays, and the completion carries its status (01 R21; log entry 140). -/
def execCfgStage (r : Ring) (d : Desc) (s : State) : Host.Outcome State Fault Refusal :=
  .next (s.work r d fun t =>
    if t.refStage then t.complete r d.seq 0 (t.cfg.stagedStatus.setWidth 32)
    else
      let crewLen := (d.w 28).toNat
      let partLen := (d.w 32).toNat
      let n := ceilDiv crewLen 4096
      let refs := t.listRefs (d.w 24) (n + ceilDiv partLen 4096)
      t.stage ((t.readPages (refs.take n)).take crewLen) ((t.readPages (refs.drop n)).take partLen) (some (r, d.seq)))

/-- STAGE_VERIFY_DONE; staging writes wait while MRAM writes are forbidden (09 R232). -/
def execStageVerifyDone (sigOk : Bool) (s : State) : Host.Outcome State Fault Refusal :=
  s.live fun s => (match s.cfg.staged with
    | some g =>
      if s.cfg.stagedStatus ≠ 1 || s.thm.mramBlocked then s
      else
        let st := s.stageStatus g sigOk
        let s1 := s.modCfg fun x => { x with stagedStatus := st, cntStageFail := if st = 2 then x.cntStageFail else satInc x.cntStageFail, stageWait := none }
        let s2 := (s1.raise .cfg (if st = 2 then 0 else 1)).catchUpCheck
        let s3 := match s.cfg.stageWait with
          | some w => s2.complete w.1 w.2 0 (st.setWidth 32)
          | none => s2
        s3.sendReport
    | none => s)

/-- CFG_STAGE_CANCEL is refused once an activation is announced (04 R109). -/
def State.refStageCancel (s : State) : Bool := s.cfg.actRound.isSome

/-- CFG_STAGE_CANCEL: nothing is staged any more. -/
def execCfgStageCancel (r : Ring) (d : Desc) (s : State) : Host.Outcome State Fault Refusal :=
  .next (s.work r d fun t =>
    let t1 := match t.cfg.stageWait with | some w => t.complete w.1 w.2 0 0 | none => t
    let t2 := (t1.modCfg fun c => { c with staged := none, stagedStatus := 0, stagedPair := ⟨0, 0⟩, stageWait := none, catchUpRound := none }).sendReport
    t2.complete r d.seq 0 0)

/-! ### Announcements (04 R113, R115) -/

/-- An announced activation round is recorded; the event is raised once for a round. -/
def State.noteActRound (a : Nat) (s : State) : State :=
  let s1 := s.modCfg fun c => { c with actRound := some a, raisedFor := some a }
  if s.cfg.raisedFor = some a then s1 else s1.raise .cfg 2

/-- A cancellation clears the announcement. -/
def State.clearAnnouncement (s : State) : State :=
  if s.cfg.actRound.isSome || s.cfg.annPair.isSome then
    (s.modCfg fun c => { c with actRound := none, annPair := none, raisedFor := none }).raise .cfg 6
  else s

/-- A takeover cancels a waiting or announced activation (04 R115). -/
def State.cancelActivation (s : State) : State :=
  let s1 := match s.cfg.act with
    | some w => (s.modCfg fun c => { c with act := none }).complete w.ring w.seq 2 0
    | none => s
  s1.clearAnnouncement

/-- A broadcast frame, handed to every port that leads to a child. -/
def State.childFrames (seq : Word) (src : CtrlId) (hops limit : Byte) (body : Payload) (s : State) : State :=
  s.forAll fun (q : Port) t =>
    if (t.rgt.port.get q).role = .child then t.handOver q ⟨src, s.rgt.crew, none, seq, hops, limit, false, body, false⟩ else t

/-- The ANNOUNCE broadcast, handed to every port that leads to a child. -/
def State.sendAnnounce (p : Pair) (a : Nat) (s : State) : State :=
  ((s.childFrames s.nextSeq s.rgt.id 0 32 (.segment 0x11 s.rgt.nextMsg 0 1 (CfgBody.announce p a).bytes)).modRgt fun g =>
    { g with nextMsg := g.nextMsg + 1, lastSeq := s.nextSeq }).modCfg fun c => { c with lastAnnounce := some s.round }

/-- A member counts as reported (04 R112); the controller in Stroke role by its own staged status. -/
def State.reported (s : State) (p : Pair) (id : CtrlId) : Bool :=
  if id = s.rgt.id then s.cfg.stagedStatus == 2 && s.cfg.stagedPair == p
  else s.cfg.reports.any fun x => x.id == id && x.status == 2 && x.pair == p && decide (s.clk.cycle < x.since + sec 2)

/-- Admitted members, the controller in Stroke role included. -/
def State.crewMembers (s : State) : List CtrlId :=
  s.rgt.id :: (s.rgt.members.filter fun m => m.id != s.rgt.id && decide (m.fromRound ≤ s.round)).map (·.id)

/-- The check of every search: in the first round in which every member has reported, round n + 64 is announced, or d + 2 where that
falls beside a pending drill d (04 R112, R113). -/
def State.activationCheck (s : State) : State :=
  match s.cfg.act with
  | some w =>
    if w.announced.isSome || !(s.crewMembers.all fun m => s.reported w.pair m) then s
    else
      let a0 := s.round + 64
      let a := match s.alc.drillRound with
        | some d => if d ≤ a0 + 1 && a0 ≤ d + 1 then d + 2 else a0
        | none => a0
      ((s.modCfg fun c => { c with act := some { w with announced := some a }, annPair := some (w.pair, a) }).noteActRound a).sendAnnounce w.pair a
  | none => s

/-- A descriptor of an opcode has been accepted, or is being accepted, and has no completion yet. -/
def State.underWay (s : State) (op : Half) : Bool :=
  (List.finRange 64).any fun r =>
    (s.dlv.slots.get r).any (fun j => j.desc.opcode == op && j.comp.isNone) || (s.ring.get r).committing.any fun c => c.desc.opcode == op

/-- CFG_ACTIVATE: refusals of 04 R112. The crew epoch is the Stroke's own. Another activation is waiting from its acceptance on, and
announced until its round has passed. -/
def State.refActivate (s : State) (p : Pair) : Option CStatus :=
  if s.rgt.role != .stroke then some .state
  else if p.epoch ≠ s.ownPair.epoch + 1 then some .epoch
  else if s.cfg.stagedStatus == 0 || s.cfg.stagedPair != p || s.cfg.act.isSome || s.cfg.actRound.isSome ||
      s.underWay 0x0302 then some .state
  else none

/-- The pair a CFG_ACTIVATE names. -/
def activatePair (d : Desc) : Pair := ⟨d.w 24, d.payload.extractLsb' 32 256⟩

/-- CFG_ACTIVATE: the wait begins. -/
def execCfgActivate (r : Ring) (d : Desc) (s : State) : Host.Outcome State Fault Refusal :=
  .next (s.work r d fun t =>
    let n := (d.w 60).toNat
    t.modCfg fun c => { c with act := some ⟨r, d.seq, activatePair d, if n = 0 then 4000 else n, t.round, none⟩ })

/-- ACTIVATION_TIMEOUT: detail 1, and a record for every member that did not report (04 R112; 21 R487 code 0x44). -/
def execActivationTimeout (s : State) : Host.Outcome State Fault Refusal :=
  s.live fun s => (match s.cfg.act with
    | some w =>
      if w.announced.isSome then s
      else
        let t := s.runToFleet ((w.start + w.timeout) * Config.roundNs)
        let out := t.crewMembers.filter fun m => !t.reported w.pair m
        (out.foldl (fun u m => u.journal 8 0x44 m.toNat w.pair.epoch.toNat 0 0) (t.modCfg fun c => { c with act := none })).complete w.ring w.seq 1 0
    | none => s)

/-- ANNOUNCE: every 8 rounds until round a - 8. -/
def execAnnounce (s : State) : Host.Outcome State Fault Refusal :=
  s.live fun s => (match s.cfg.act, s.cfg.lastAnnounce with
    | some w, some n =>
      match w.announced with
      | some a =>
        let t := s.runToFleet ((n + 8) * Config.roundNs)
        if s.rgt.role = .stroke && t.round + 8 ≤ a then t.sendAnnounce w.pair a else s
      | none => s
    | _, _ => s)

/-- ANNOUNCE_RECEIVE at a member, which passes the broadcast on to its children (log entry 37). -/
def execAnnounceReceive (h : Hdr) (pair : Pair) (round : Nat) (s : State) : Host.Outcome State Fault Refusal :=
  s.live fun s => (
    if h.crew != s.rgt.crew || h.src != s.alc.stroke || s.rgt.role = .stroke || round < s.round then s
    else
      let id := match s.rgt.inbox.find? fun m => m.kind == 0x11 with | some m => m.msgId | none => 0
      (((s.takeMsg 0x11).modCfg fun c => { c with annPair := some (pair, round) }).noteActRound round).childFrames h.seq h.src (h.hops + 1) h.hopLimit
        (.segment 0x11 id 0 1 (CfgBody.announce pair round).bytes))

/-! ### Adoption (04 R114, R116; 01 R20) -/

/-- The staged slot becomes the active slot. Roles, identity and failsafe duties follow the new epoch; the battery estimator starts
again with new tables (14 R359); running groups take their new phase settings (01 R20). -/
def State.adopt (catchUp : Bool) (s : State) : State :=
  match s.cfg.staged.bind (·.img), s.cfg.staged with
  | some img, some g =>
    let old := s.cfg.active.battery
    let s1 := s.modCfg fun c =>
      { c with active := img, activeB := g.slotB, staged := none, stagedStatus := 0, stagedPair := ⟨0, 0⟩, catchUpRound := none,
               cntAdopt := satInc c.cntAdopt }
    let s2 := if s.alc.strokeByBow then s1 else s1.modAlc fun a => { a with stroke := img.stroke, bow := img.bow }
    let role : RgtRole :=
      if img.partId = s2.alc.stroke && (!s.admitted || !s.alc.strokeByBow) then .stroke
      else if !s.admitted then .notAdmitted
      else if s2.alc.bow = some img.partId then .bow else if s2.alc.stroke = img.partId then .stroke else .member
    let s3 := (s2.modRgt fun g => { g with id := img.partId, crew := img.crew, role := role }).writeFailsafe
    let s4 := match img.battery with
      | some b => if old = some b then s3 else s3.batRestart b
      | none => s3.modBat fun x => { x with present := false }
    ((s4.phaseSettings.raise .cfg (if catchUp then 4 else 3)).recompute).sendReport
  | _, _ => s

/-- A controller adopts in the announced round: its control plane is up, and its staged pair is that of an ANNOUNCE that names the round;
a round that passes while the control plane is down is missed (04 R114; 01 R32). The rule asks for the pair and not for the status:
contents that cannot be read cannot be adopted (log entry 141). -/
def State.adopts (s : State) (a : Nat) : Bool :=
  s.pwr.controlReady && (s.cfg.staged.bind (·.img)).isSome && s.cfg.annPair == some (s.cfg.stagedPair, a)

/-- ADOPTED: at the apply instant of the announced round a controller with the announced staged pair adopts it, any other misses it; at
the Stroke the descriptor completes with that instant as its fleet time of effect (04 R114, R115). -/
def execAdopted (s : State) : Host.Outcome State Fault Refusal :=
  s.live fun s => (match s.cfg.actRound with
    | none => s
    | some a =>
      let due := a * Config.roundNs + 150000
      let t := s.runToFleet due
      let t1 := (if t.adopts a then t.adopt false else t.raise .cfg 5).modCfg fun c => { c with actRound := none, annPair := none, raisedFor := none }
      match t1.cfg.act with
      | some w => if w.announced = some a then (t1.modCfg fun c => { c with act := none }).completeAt w.ring w.seq 0 0 due else t1
      | none => t1)

/-- CATCH_UP: adoption one round after the conditions first held, where they still hold (04 R116). -/
def execCatchUp (s : State) : Host.Outcome State Fault Refusal :=
  s.live fun s => (match s.cfg.catchUpRound with
    | none => s
    | some r =>
      let t := s.runToFleet (r * Config.roundNs + 150000)
      if t.catchUpHolds then t.adopt true else t.modCfg fun c => { c with catchUpRound := none })

end Sys2Proof.Machine
end

