-- ==== Sys2Proof/Machine/SafetyFn.lean ====
section
/-! DEFINITION. The safety block: emergency stops, the site-wide stop, safe frames, contactor release, readbacks, the insulation
monitor, the watchdogs, the safety commands (10). -/
namespace Sys2Proof.Machine

/-! ### The site-wide stop (10 R257-R260) -/

/-- A number is newer than another (10 R258). -/
def newer16 (s t : Half) : Bool := decide (s ≠ t) && decide ((s - t).toNat < 2 ^ 15)

/-- The site sources follow the stops held (10 R258). -/
def State.siteSources (s : State) : State :=
  if !s.saf.stops.isEmpty || s.saf.overflow then
    (s.raiseGlb 2).forAll fun (a : Acd) t => t.raiseSto a 2
  else (s.clearGlb 2).forAll fun (a : Acd) t => t.clearSto a 2

/-- A change of the stops held is to leave in a triggered heartbeat (10 R257). -/
def State.siteChanged (e : List StopEntry) (s : State) : State :=
  s.modSaf fun f => { f with trig := true, changed := e ++ f.changed }

/-- A 17th stop (10 R258). -/
def State.siteOverflow (s : State) : State :=
  if s.saf.overflow then s else ((s.modSaf fun f => { f with overflow := true }).raise .saf 15).siteSources

/-- Hold a stop (10 R258; 21 R487 code 0x42). -/
def State.holdStop (origin : CtrlId) (number : Half) (pairs : BitVec 4) (s : State) : State :=
  if 16 ≤ s.saf.stops.length then s.siteOverflow
  else
    ((((s.modSaf fun f => { f with stops := f.stops ++ [⟨origin, number, s.round, pairs⟩] }).raise .saf 5).journal
      14 0x42 origin.toNat number.toNat 0 5).siteChanged [⟨origin, false, number⟩]).siteSources

/-- Originate a stop (10 R258). -/
def State.originate (pairs : BitVec 4) (s : State) : State :=
  if 16 ≤ s.saf.stops.length then s.siteOverflow
  else (s.holdStop s.rgt.id s.saf.siteNext pairs).modSaf fun f => { f with siteNext := f.siteNext + 1 }

/-- Record a number as released (10 R259). -/
def State.recordRelease (origin : CtrlId) (number : Half) (s : State) : State :=
  s.modSaf fun f =>
    match f.released.find? fun x => x.1 == origin with
    | some x => if newer16 number x.2 then { f with released := (origin, number) :: f.released.filter fun y => y.1 != origin } else f
    | none => { f with released := (origin, number) :: f.released }

/-- A stop is no longer held. -/
def State.dropStop (origin : CtrlId) (number : Half) (s : State) : State :=
  ((s.modSaf fun f => { f with stops := f.stops.filter fun x => !(x.origin == origin && x.number == number) }).raise .saf 6).journal
    14 0x42 origin.toNat number.toNat 1 5

/-- A held stop is released: removed, recorded, announced for 16 rounds (10 R259). -/
def State.releaseStop (origin : CtrlId) (number : Half) (s : State) : State :=
  (((((s.dropStop origin number).recordRelease origin number).modSaf fun f =>
    { f with announcing := f.announcing ++ [⟨origin, number, s.round + 16⟩] }).siteChanged [⟨origin, true, number⟩])).siteSources

/-- Releases announced for 16 rounds are announced no longer. -/
def State.dropAnnounced (s : State) : State :=
  s.modSaf fun f => { f with announcing := f.announcing.filter fun a => decide (s.round < a.rounds) }

/-- RELEASE_ANNOUNCE_END (10 R259). -/
def execReleaseAnnounceEnd (origin : CtrlId) (s : State) : Host.Outcome State Fault Refusal :=
  s.live fun s => (match s.saf.announcing.find? fun a => a.origin == origin with
    | some a => (s.runToFleet (a.rounds * Config.roundNs)).dropAnnounced
    | none => s)

/-- The site connection is lost (10 R260; a mode of 3 is taken as 2). -/
def State.siteIsLost (s : State) : Bool :=
  s.saf.siteMode != 0 &&
  (((List.finRange 4).all fun p => (s.saf.conn.get p).got != 2) || (s.saf.siteMode != 1 && decide (8 ≤ s.alc.missCount)))

/-- The site-connection source follows its condition (10 R239, R260). -/
def State.siteEval (s : State) : State :=
  let l := s.siteIsLost
  if l && !s.saf.siteLost then ((s.modSaf fun f => { f with siteLost := true }).raise .saf 13).raiseGlb 9
  else if !l && s.saf.siteLost then (s.modSaf fun f => { f with siteLost := false }).clearGlb 9
  else s

/-! ### Safe frames (10 R252-R256) -/

/-- Connection IDs (10 R253). -/
def connRegatta (crew : BitVec 4) (producer consumer : CtrlId) : Word := 1#4 ++ crew ++ producer ++ consumer
def connAcd (kind : BitVec 4) (a : Acd) (device : CtrlId) : Word := kind ++ BitVec.ofNat 4 a.val ++ device ++ (0 : BitVec 12)

/-- The verdict on a received safe frame: 0 accepted, 1 check, 2 connection ID, 3 age, 4 sequence; the sequence is not judged on a
connection without a reference (10 R256). -/
def safeVerdict (c : SafeConn) (expected : Word) (maxAgeNs now : Nat) (f : SafeFrame) : Nat :=
  let age : Int := (now : Int) - f.time
  if !f.checkOk then 1
  else if f.conn ≠ expected then 2
  else if (maxAgeNs : Int) ≤ age || age < -50000 then 3
  else if c.ref && f.seq != c.lastSeq + 1 && (match c.rejSeq with | some r => f.seq != r + 1 | none => true) then 4
  else 0

/-- The connection after a verdict. -/
def SafeConn.after (c : SafeConn) (v : Nat) (f : SafeFrame) : SafeConn :=
  if v = 0 then
    { c with got := min 2 (c.got + 1), ref := true, lastSeq := f.seq, lastTime := f.time, expired := c.expired && decide (c.got + 1 < 2) }
  else { c with got := if c.got = 2 then 2 else 0, rejSeq := if v = 4 then some f.seq else c.rejSeq }

/-- A rejected frame is counted in the matching counter (10 R256). -/
def State.countReject (v : Nat) (s : State) : State :=
  s.modSaf fun f =>
    match v with
    | 1 => { f with cntRejCrc := satInc f.cntRejCrc }
    | 2 => { f with cntRejId := satInc f.cntRejId }
    | 3 => { f with cntRejAge := satInc f.cntRejAge }
    | 4 => { f with cntRejSeq := satInc f.cntRejSeq }
    | _ => f

/-- The neighbour of a port with which a heartbeat connection is kept (10 R257). -/
def State.heartPeer (s : State) (p : Port) : Option CtrlId :=
  if s.admitted && (s.rgt.port.get p).carries .safe then (s.peer p).map (·.id) else none

/-- The entries of a heartbeat: at most 7, the changed ones first when it is triggered, the others in rotation (10 R257). -/
def State.heartEntries (s : State) (triggered : Bool) : List StopEntry :=
  let f := s.saf
  let all := (f.stops.map fun x => (⟨x.origin, false, x.number⟩ : StopEntry)) ++
    f.announcing.map fun x => ⟨x.origin, true, x.number⟩
  let lead : List StopEntry := if triggered then f.changed else []
  let rest : List StopEntry := all.filter fun e => !lead.contains e
  let k := if rest.length = 0 then 0 else f.rotate % rest.length
  (lead ++ (if triggered then rest else rest.drop k ++ rest.take k)).take 7

/-- A heartbeat on every connection's port (10 R255, R257). -/
def State.heartbeat (triggered : Bool) (s : State) : State :=
  let es := s.heartEntries triggered
  (s.forAll fun (p : Port) t =>
    match t.heartPeer p with
    | none => t
    | some nb =>
      let q := (t.saf.conn.get p).txSeq + 1
      (t.modSaf fun f => { f with conn := vmod f.conn p fun c => { c with txSeq := q } }).sendFrame p none 1 true
        (.safe (.make (connRegatta t.rgt.crew t.rgt.id nb) q t.now (heartData (!t.saf.stops.isEmpty) es)))).modSaf fun f =>
    if triggered then { f with trig := false, changed := [] } else { f with rotate := f.rotate + 7 }

/-- A change of the stops held leaves at once (10 R257). -/
def State.flushTrig (s : State) : State := if s.saf.trig then s.heartbeat true else s

/-- HEARTBEAT_SEND: at R + 205 µs in every round, or after a change of the stops held (10 R257). -/
def execHeartbeatSend (triggered : Bool) (s : State) : Host.Outcome State Fault Refusal :=
  s.live fun s => (
    if triggered then s.flushTrig
    else ((s.runToOffset 205000).dropAnnounced).heartbeat false)

/-- A stop entry of an accepted heartbeat (10 R258, R259). -/
def State.stopEntry (e : StopEntry) (s : State) : State :=
  let held := s.saf.stops.any fun x => x.origin == e.origin && x.number == e.number
  let old := (s.saf.released.find? fun x => x.1 == e.origin).map (·.2)
  if e.release then
    if held then s.releaseStop e.origin e.number else s.recordRelease e.origin e.number
  else if held then
    s.modSaf fun f => { f with stops := f.stops.map fun x => if x.origin = e.origin && x.number = e.number then { x with lastHeard := s.round } else x }
  else if (match old with | some t => newer16 e.number t | none => true) then s.holdStop e.origin e.number 0
  else s

/-- Frames of R44 reach the safety block; any other SAFE frame is dropped and counted (02 R44). -/
def State.safeArrives (s : State) (p : Port) (h : Hdr) : Bool :=
  let t := s.rgt.port.get p
  t.carries .safe && h.hopLocal && (match s.peer p with | some b => b.id == h.src && h.crew == s.rgt.crew | none => false) &&
  (match t.lastSafe with | some l => decide (h.seq ≠ l) && decide ((h.seq - l).toNat < 2 ^ 31) | none => true)

/-- HEARTBEAT_RECEIVE (10 R256-R259). -/
def execHeartbeatReceive (p : Port) (h : Hdr) (f : SafeFrame) (s : State) : Host.Outcome State Fault Refusal :=
  s.live fun s => (s.rx p h fun t =>
    if !t.safeArrives p h then t.modPort p fun x => { x with cntDrop := satInc x.cntDrop }
    else
      let t := t.modPort p fun x => { x with lastSafe := some h.seq }
      let c := t.saf.conn.get p
      let v := safeVerdict c (connRegatta t.rgt.crew h.src t.rgt.id) (t.saf.siteMaxAge.toNat * 1000000) t.now f
      let t1 := t.modSaf fun z => { z with conn := vmod z.conn p fun c => c.after v f }
      if v ≠ 0 then t1.countReject v
      else
        let t2 := t1.siteEval
        if (t2.saf.conn.get p).got = 2 then (f.entries.foldl (fun u e => u.stopEntry e) t2).flushTrig else t2)

/-- A connection whose last accepted frame has reached its maximum age (10 R256). -/
def SafeConn.due (c : SafeConn) (maxAgeNs now : Nat) : Bool := decide (c.got ≠ 0) && decide (c.lastTime + maxAgeNs ≤ now)

/-- It delivers nothing any more; the event and the count are those of an established one. -/
def State.expireConn (got : Nat) (s : State) : State :=
  if got = 2 then (s.modSaf fun f => { f with cntExpired := satInc f.cntExpired }).raise .saf 12 else s

/-- CONN_EXPIRED: the neighbour connection of port p, or the connection of ACD p - 4 (10 R256, R250, R260). -/
def execConnExpired (p : Fin 8) (s : State) : Host.Outcome State Fault Refusal :=
  s.live fun s => (
    if h : p.val < 4 then
      let q : Port := ⟨p.val, h⟩
      let age := s.saf.siteMaxAge.toNat * 1000000
      let c := s.saf.conn.get q
      if c.got = 0 then s
      else
        let t := s.runToFleet (c.lastTime + age)
        if c.due age t.now then
          ((t.modSaf fun f => { f with conn := vmod f.conn q fun x => { x with got := 0, ref := false, expired := x.expired || c.got == 2 } }).expireConn c.got).siteEval
        else t
    else
      let a : Acd := ⟨p.val - 4, by omega⟩
      let age := (s.saf.acd.get a).maxAge.toNat * 1000000
      let c := (s.saf.acd.get a).conn
      if c.got = 0 then s
      else
        let t := s.runToFleet (c.lastTime + age)
        if c.due age t.now then
          ((t.modSaf fun f =>
            { f with acd := vmod f.acd a fun x => { x with conn := { x.conn with got := 0, ref := false, expired := x.conn.expired || c.got == 2 } } }).expireConn c.got).raiseSto a 4
        else t)

/-! ### Automated connection devices (10 R261) -/

/-- Motion permitted: no STO source, and the outlet served rests with both contactors open. -/
def State.motionOk (s : State) (a : Acd) : Bool :=
  let o := (s.saf.acd.get a).outlet
  let st := (s.out.get o).st
  s.saf.srcSto.get a == 0 && (st == .off || st == .idle || st == .plugged || st == .released || st == .fault) && s.bothOpen o

/-- ACD_FRAME_SEND: every `PERIOD`. -/
def execAcdFrameSend (a : Acd) (s : State) : Host.Outcome State Fault Refusal :=
  s.live fun s => (
    let x := s.saf.acd.get a
    if !x.en then s
    else
      let t := s.runTo (x.lastTx + ms x.period.toNat)
      let q := x.conn.txSeq + 1
      let b0 : Byte := (if t.saf.srcSto.get a != 0 then 1 else 0) ||| (if t.motionOk a then 2 else 0)
      t.modSaf fun f =>
        { f with acd := vmod f.acd a fun x => { x with lastTx := t.clk.cycle, conn := { x.conn with txSeq := q } },
                 acdOut := f.acdOut ++ [(a, .make (connAcd 2 a t.rgt.id) q t.now [b0, BitVec.ofNat 8 (t.out.get x.outlet).st.code])] })

/-- ACD_FRAME_RECEIVE: the flags of an established connection are shown, and its source is released (10 R250, R256, R261). -/
def execAcdFrameReceive (a : Acd) (f : SafeFrame) (s : State) : Host.Outcome State Fault Refusal :=
  s.live fun s => (
    let x := s.saf.acd.get a
    if !x.en then s
    else
      let v := safeVerdict x.conn (connAcd 3 a s.rgt.id) (x.maxAge.toNat * 1000000) s.now f
      let t := s.modSaf fun z => { z with acd := vmod z.acd a fun x => { x with conn := x.conn.after v f } }
      if v ≠ 0 then t.countReject v
      else if (t.saf.acd.get a).conn.got = 2 then
        (t.modSaf fun z => { z with acd := vmod z.acd a fun x => { x with flags := f.b0 } }).clearSto a 4
      else t)

/-! ### Emergency stop inputs (10 R249) -/

def State.estopOutlets (s : State) (e : Fin 4) : Byte := bitsOf (s.saf.estopMap.get e) 0 8
def State.estopAcds (s : State) (e : Fin 4) : BitVec 4 := bitsOf (s.saf.estopMap.get e) 8 4
def State.estopGlobal (s : State) (e : Fin 4) : Bool := (s.saf.estopMap.get e).getLsbD 12
def State.estopSite (s : State) (e : Fin 4) : Bool := (s.saf.estopMap.get e).getLsbD 13
def State.estopSingle (s : State) (e : Fin 4) : Bool := (s.saf.estopMap.get e).getLsbD 14
def State.estopEn (s : State) (e : Fin 4) : Bool := (s.saf.estopMap.get e).getLsbD 15

/-- The ESTOP sources follow the latches of the pairs that map them. -/
def State.estopSources (s : State) : State :=
  let any (q : Fin 4 → Bool) : Bool := (List.finRange 4).any fun e => s.saf.latched.getLsbD e.val && q e
  let s1 := if any s.estopGlobal then s.raiseGlb 1 else s.clearGlb 1
  let s2 := s1.forAll fun (o : Outlet) t =>
    if !t.hasOutlet o then t
    else if any fun e => (s.estopOutlets e).getLsbD o.val then t.raiseOut o 1 else t.clearOut o 1
  s2.forAll fun (a : Acd) t => if any fun e => (s.estopAcds e).getLsbD a.val then t.raiseSto a 1 else t.clearSto a 1

/-- A low level on either channel of an enabled pair; with `SINGLE` channel A alone counts. -/
def State.estopLow (s : State) (e : Fin 4) : Bool :=
  s.estopEn e && (s.saf.estopA.getLsbD e.val || (!s.estopSingle e && s.saf.estopB.getLsbD e.val))

/-- A pair that falls raises its demands, originates a stop where it is mapped to, and sets its latch. -/
def State.estopEval (e : Fin 4) (s : State) : State :=
  if s.estopLow e && !s.saf.latched.getLsbD e.val then
    let t := ((s.modSaf fun f => { f with latched := f.latched ||| bit 4 e.val }).raiseAt .saf 3 e.val 0 0).estopSources
    if t.estopSite e then t.originate (bit 4 e.val) else t
  else s

/-- The filtered levels of a pair; `a` and `b` are true for a high level. -/
def State.estopLevels (e : Fin 4) (a b : Bool) (s : State) : State :=
  let put (w : BitVec 4) (low : Bool) : BitVec 4 := if low then w ||| bit 4 e.val else w &&& ~~~ bit 4 e.val
  let differ := a != b && !s.estopSingle e
  s.modSaf fun f =>
    { f with estopA := put f.estopA (!a), estopB := put f.estopB (!b),
             disagree := vmod f.disagree e fun x => if differ then x <|> some s.clk.cycle else none,
             discrepancy := if differ then f.discrepancy else f.discrepancy &&& ~~~ bit 4 e.val }

/-- ESTOP: the levels at the pins of a pair, `a` and `b` true for a high one, and for how long in ns they have been stable; they pass the
filter after 2 µs. -/
def execEstop (e : Fin 4) (a b : Bool) (held : Nat) (s : State) : Host.Outcome State Fault Refusal :=
  s.live fun s => (if held < 2000 then s else ((s.estopLevels e a b).estopEval e).flushTrig)

/-- ESTOP_DISCREPANCY: the channels have disagreed for 500 ms. -/
def execEstopDiscrepancy (e : Fin 4) (s : State) : Host.Outcome State Fault Refusal :=
  s.live fun s => (match s.saf.disagree.get e with
    | none => s
    | some t =>
      if s.saf.discrepancy.getLsbD e.val then s
      else ((s.runTo (t + ms 500)).modSaf fun f => { f with discrepancy := f.discrepancy ||| bit 4 e.val }).raiseAt .saf 4 e.val 0 0)

/-- The release condition of a pair: both channels high, no discrepancy in force. -/
def State.estopFree (s : State) (e : Fin 4) : Bool :=
  !s.saf.estopA.getLsbD e.val && (s.estopSingle e || !s.saf.estopB.getLsbD e.val) && !s.saf.discrepancy.getLsbD e.val

/-! ### Contactors, readbacks, monitors -/

/-- CONTACTOR_RELEASE: 100 µs after the demand the contactor half takes both drives low (10 R242). -/
def execContactorRelease (o : Outlet) (s : State) : Host.Outcome State Fault Refusal :=
  s.live fun s => (match s.saf.seoSince.get o with
    | some t => if s.seoOut o then (s.runTo (t + us 100)).setDrives o false else s
    | none => s)

/-- PERMIT_LOST: the permit has been absent for the stop ramp and 40 ms (10 R242). -/
def execPermitLost (o : Outlet) (s : State) : Host.Outcome State Fault Refusal :=
  s.live fun s => (match s.outCfg o, s.saf.permitSince.get o with
    | some c, some t => if s.saf.permit.get o then s else (s.runTo (t + ms (c.stopMs + 40))).setDrives o false
    | _, _ => s)

/-- The readback of a GATE_EN pin, and of the STO pins of an ACD, differs from its commanded level (10 R241, R251). -/
def State.gateDiffers (s : State) (n : Phase) : Bool := s.gatePin n != s.saf.gateEn.getLsbD n.val
def State.stoDiffers (s : State) (a : Acd) : Bool :=
  s.stoPin ⟨a.val, by omega⟩ != s.saf.stoCmd.getLsbD a.val || s.stoPin ⟨a.val + 4, by omega⟩ != s.saf.stoCmd.getLsbD (a.val + 4)

/-- What holds the pad of a phase's GATE_EN pin, and the pads of an ACD's STO pins. -/
def State.setGatePad (n : Phase) (pad : Option Bool) (s : State) : State :=
  s.modSaf fun f => { f with gatePad := vmod f.gatePad n fun _ => pad }
def State.setStoPads (a : Acd) (padA padB : Option Bool) (s : State) : State :=
  s.modSaf fun f =>
    { f with stoPad := vmod (vmod f.stoPad (⟨a.val, by omega⟩ : Fin 8) fun _ => padA) (⟨a.val + 4, by omega⟩ : Fin 8) fun _ => padB }

/-- GEN_FAULT: from now on the pad of a GATE_EN pin is held at a level, or follows its command again (`none`); a readback that then differs
raises its source 2 µs later (10 R241; log entry 12). -/
def execGenFault (n : Phase) (pad : Option Bool) (s : State) : Host.Outcome State Fault Refusal :=
  s.live fun s => (
    if !s.hasPhase n then s
    else
      let t := s.setGatePad n pad
      if !t.gateDiffers n || t.saf.genFault.getLsbD n.val then t
      else (((t.runTo (t.clk.cycle + us 2)).modSaf fun f => { f with genFault := f.genFault ||| bit 24 n.val }).raiseAt .saf 9 n.val 0 0).raiseGlb 7)

/-- STO_FAULT: the same of the two STO pins of an ACD (10 R251). -/
def execStoFault (a : Acd) (padA padB : Option Bool) (s : State) : Host.Outcome State Fault Refusal :=
  s.live fun s => (
    let t := s.setStoPads a padA padB
    if !t.stoDiffers a || t.saf.stoFault.getLsbD a.val then t
    else (((t.runTo (t.clk.cycle + us 2)).modSaf fun f => { f with stoFault := f.stoFault ||| bit 4 a.val }).raiseAt .saf 10 a.val 0 0).raiseSto a 5)

/-- BRK_PULSE_END (10 R246). -/
def execBrkPulseEnd (s : State) : Host.Outcome State Fault Refusal :=
  s.live fun s => (if s.saf.brkTrip then (s.runTo s.saf.brkUntil).modSaf fun f => { f with brkTrip := false } else s)

/-- The insulation monitor shows a fault now: from CABLE_CHECK to STOPPING its channel is invalid, or IMD_ALM_N disagrees with
the reading (10 R248). -/
def State.imdBad (s : State) (o : Outlet) : Bool :=
  match s.outCfg o with
  | none => false
  | some c =>
    let x := s.out.get o
    c.isoChan.isSome && decide (3 ≤ x.st.code) && decide (x.st.code ≤ 7) &&
    (match s.isoReading o with
      | none => true
      | some r =>
        (!x.imdLevel && decide ((passLimit c * x.vcc : Nat) ≤ r * 10000)) ||
        (x.imdLevel && decide (r * 10000 < (faultLimit c * x.vcc : Nat))))

/-- A tick notes since when the monitor has shown a fault. -/
def State.imdNote (o : Outlet) (s : State) : State :=
  let bad := s.imdBad o
  s.modSaf fun f => { f with imdSince := vmod f.imdSince o fun t => if bad then t <|> some s.clk.cycle else none }

/-- A monitor that has shown a fault for 1 s raises its source. -/
def State.imdAct (o : Outlet) (s : State) : State :=
  match s.saf.imdSince.get o with
  | some t =>
    if decide (t + sec 1 ≤ s.clk.cycle) && !s.saf.imdFault.getLsbD o.val then
      ((s.modSaf fun f => { f with imdFault := f.imdFault ||| bit 8 o.val }).raiseAt .saf 14 o.val 0 0).raiseOut o 5
    else s
  | none => s

/-- IMD_FAULT. -/
def execImdFault (o : Outlet) (s : State) : Host.Outcome State Fault Refusal :=
  s.live fun s => (match s.saf.imdSince.get o with
    | some t => (s.runTo (t + sec 1)).imdAct o
    | none => s)

/-- TICK_TOKEN_LOST: at the end of the third consecutive tick without a token (10 R262). -/
def execTickTokenLost (s : State) : Host.Outcome State Fault Refusal :=
  s.live fun s => (
    if s.saf.srcGlb.getLsbD 5 then s
    else (((s.runToFleet ((s.lne.tick + 4 - s.saf.tokenMiss) * Config.tickNs)).modSaf fun f => { f with tokenMiss := 3 }).raiseGlb 5).syncControlFault)

/-- Both monitored rails are in range: the core rail from 0.74 V to 0.88 V, the I/O rail from 3.00 V (10 R262). -/
def railsInRange (x : Rails) : Bool := decide (740 ≤ x.core) && decide (x.core ≤ 880) && decide (3000 ≤ x.io)

/-- SUPPLY_FAULT: a monitored rail has been out of range for 2 µs (10 R262). -/
def execSupplyFault (x : Rails) (s : State) : Host.Outcome State Fault Refusal :=
  s.live fun s => (
    if railsInRange x || decide (x.held < 2000) then s
    else ((s.modSaf fun f => { f with supplyGood := none }).raiseGlb 6).syncControlFault)

/-- SUPPLY_RECOVERED: every rail has been in range for 10 ms (10 R239). -/
def execSupplyRecovered (x : Rails) (s : State) : Host.Outcome State Fault Refusal :=
  s.live fun s => (if s.saf.srcGlb.getLsbD 6 && railsInRange x && decide (10000000 ≤ x.held) then
      ((s.modSaf fun f => { f with supplyGood := some s.clk.cycle }).clearGlb 6).syncControlFault else s)

/-! ### Safety commands (10 R268, R529) -/

/-- The acceptance position of a descriptor. -/
def State.jposOf (s : State) (r : Ring) (seq : DWord) : Nat :=
  match s.slot? r seq with | some j => j.jpos.toNat | none => 0

/-- SAF_SEO_DEMAND. -/
def execSafSeoDemand (r : Ring) (d : Desc) (s : State) : Host.Outcome State Fault Refusal :=
  .next (s.work r d fun t =>
    let p := t.jposOf r d.seq
    (match outletOf d.target with
      | some o => (t.modSaf fun f => { f with hostOut := vmod f.hostOut o fun _ => p }).raiseOut o 0
      | none => (t.modSaf fun f => { f with hostGlb := p }).raiseGlb 0).complete r d.seq 0 0)

/-- ACD of a target, where it names one. -/
def acdOf (t : Word) : Option Acd := if h : t.toNat < 4 then some ⟨t.toNat, h⟩ else none

/-- SAF_STO_DEMAND. -/
def execSafStoDemand (r : Ring) (d : Desc) (s : State) : Host.Outcome State Fault Refusal :=
  .next (s.work r d fun t =>
    let p := t.jposOf r d.seq
    let one := fun (a : Acd) (u : State) => (u.modSaf fun f => { f with hostSto := vmod f.hostSto a fun _ => p }).raiseSto a 0
    (match acdOf d.target with
      | some a => one a t
      | none => t.forAll one).complete r d.seq 0 0)

/-- SAF_SITE_STOP is refused with 16 stops held. -/
def State.refSiteStop (s : State) : Bool := decide (16 ≤ s.saf.stops.length)

/-- SAF_SITE_STOP. -/
def execSafSiteStop (r : Ring) (d : Desc) (s : State) : Host.Outcome State Fault Refusal :=
  .next (s.work r d fun t => ((t.originate 0).flushTrig).complete r d.seq 0 0)

/-- Scope of a SAF_RESET: outlets, whether the global sources are named, ACDs, ESTOP pairs (10 R529). -/
structure ResetScope where
  outlet : Outlet → Bool
  glb : Bool
  acd : Acd → Bool

def resetScope (target : Word) : ResetScope :=
  let o := (bitsOf target 0 8 : Byte)
  let a := (bitsOf target 8 8 : Byte)
  { outlet := fun x => o == 0xFF || o.toNat == x.val, glb := o == 0xFF, acd := fun x => a == 0xFF || a.toNat == x.val }

/-- The pair's latch is in scope: a target of 0xFF, or a map that names the outlet or the ACD. -/
def State.pairNamed (s : State) (target : Word) (e : Fin 4) : Bool :=
  let z := resetScope target
  bitsOf target 0 8 == (0xFF : Byte) || bitsOf target 8 8 == (0xFF : Byte) ||
  ((List.finRange 8).any fun o => z.outlet o && (s.estopOutlets e).getLsbD o.val) ||
  ((List.finRange 4).any fun a => z.acd a && (s.estopAcds e).getLsbD a.val)

/-- Every outlet contactor feedback shows open (10 R239). -/
def State.allOpen (s : State) : Bool := s.saf.fbp == 0 && s.saf.fbm == 0

/-- The feedbacks of an outlet agree with its drives. -/
def State.feedbackAgrees (s : State) (o : Outlet) : Bool :=
  (s.saf.fbp.getLsbD o.val == s.saf.ocp.getLsbD o.val) && (s.saf.fbm.getLsbD o.val == s.saf.ocm.getLsbD o.val)

/-- The close and feedback faults of an outlet may be released, and its insulation-monitor fault (10 R239). -/
def State.contactFree (s : State) (o : Outlet) : Bool := (s.saf.srcOut.get o &&& 0b011000) == 0 || s.feedbackAgrees o
def State.imdFree (s : State) (o : Outlet) : Bool := !(s.saf.srcOut.get o).getLsbD 5 || !s.imdBad o

/-- Every readback fault named is one whose readback agrees now (10 R239, R250). -/
def State.gatesAgree (s : State) : Bool := (List.finRange 24).all fun n => !s.gateDiffers n
def readFree (s : State) (z : ResetScope) : Bool :=
  (!z.glb || !s.saf.srcGlb.getLsbD 7 || s.gatesAgree) &&
  (List.finRange 4).all fun a => !z.acd a || !(s.saf.srcSto.get a).getLsbD 5 || !s.stoDiffers a

/-- Refusal of SAF_RESET: a named release condition is not met at the decision, evaluated in ascending order of the bits, each
seeing the releases of the lower ones (10 R268, R529, R259). -/
def State.refSafReset (s : State) (d : Desc) : Bool :=
  let bits := d.b 24
  let z := resetScope d.target
  let freed : Fin 4 → Bool := fun e => bits.getLsbD 2 && s.pairNamed d.target e && s.estopFree e
  (bits.getLsbD 2 && (List.finRange 4).any fun e => s.saf.latched.getLsbD e.val && s.pairNamed d.target e && !s.estopFree e) ||
  (bits.getLsbD 3 &&
    ((z.glb && s.saf.srcGlb.getLsbD 8 && !s.allOpen) ||
     (List.finRange 8).any fun o => z.outlet o && !(s.contactFree o && s.imdFree o))) ||
  (bits.getLsbD 5 && !(readFree s z)) ||
  (bits.getLsbD 4 && s.saf.stops.any fun x =>
    x.origin == s.rgt.id && (List.finRange 4).any fun e => x.pairs.getLsbD e.val && s.saf.latched.getLsbD e.val && !freed e)

/-- Bit 0, host safe energy off: a demand accepted after the reset stays in force (10 R266). -/
def State.resetHost (target : Word) (pos : Nat) (s : State) : State × Bool :=
  let z := resetScope target
  let lateO : Outlet → Bool := fun o => z.outlet o && decide (pos < s.saf.hostOut.get o)
  let lateG := z.glb && decide (pos < s.saf.hostGlb)
  let t := s.forAll fun (o : Outlet) u => if z.outlet o && !lateO o then u.clearOut o 0 else u
  let t := if z.glb && !lateG then t.clearGlb 0 else t
  (t, !lateG && (List.finRange 8).all fun o => !lateO o)

/-- Bit 1, host STO. -/
def State.resetSto (target : Word) (pos : Nat) (s : State) : State × Bool :=
  let z := resetScope target
  let late : Acd → Bool := fun a => z.acd a && decide (pos < s.saf.hostSto.get a)
  (s.forAll fun (a : Acd) u => if z.acd a && !late a then u.clearSto a 0 else u, (List.finRange 4).all fun a => !late a)

/-- Bit 2, ESTOP latches. -/
def State.resetEstop (target : Word) (s : State) : State × Bool :=
  let t := (s.forAll fun (e : Fin 4) u =>
    if s.pairNamed target e && s.estopFree e then u.modSaf fun f => { f with latched := f.latched &&& ~~~ bit 4 e.val } else u).estopSources
  (t, (List.finRange 4).all fun e => !(s.pairNamed target e && t.saf.latched.getLsbD e.val))

/-- Bit 3, contact and outlet faults. -/
def State.resetContact (target : Word) (s : State) : State × Bool :=
  let z := resetScope target
  let t := s.forAll fun (o : Outlet) u =>
    if !z.outlet o then u
    else
      let u1 := if s.contactFree o then
          ((u.clearOut o 3).clearOut o 4).modSaf fun f => { f with fbFaults := f.fbFaults &&& ~~~ bit 8 o.val } else u
      if s.imdFree o then (u1.clearOut o 5).modSaf fun f => { f with imdFault := f.imdFault &&& ~~~ bit 8 o.val } else u1
  let weld := z.glb && s.saf.srcGlb.getLsbD 8
  let t1 := if weld && s.allOpen then (t.modSaf fun f => { f with welds := 0 }).clearGlb 8 else t
  (t1, (!weld || s.allOpen) && (List.finRange 8).all fun o => !z.outlet o || (s.contactFree o && s.imdFree o))

/-- Bit 4, the site-wide stop: own stops whose originating latch is released, and stops of others that no neighbour has announced
in the last 2 rounds (10 R259); the overflow ends once no stop is held (10 R258). -/
def State.resetSite (s : State) : State × Bool :=
  let t := s.saf.stops.foldl (fun u x =>
    if x.origin = s.rgt.id then
      if (x.pairs &&& s.saf.latched) = 0 then u.releaseStop x.origin x.number else u
    else if x.lastHeard + 2 ≤ s.round then (u.dropStop x.origin x.number).siteChanged [] else u) s
  ((t.modSaf fun f => { f with overflow := f.overflow && !f.stops.isEmpty }).siteSources, t.saf.stops.isEmpty)

/-- Bit 5, readback faults, where the readback agrees (10 R239, R250). -/
def State.resetReadback (target : Word) (s : State) : State × Bool :=
  let z := resetScope target
  let t := if z.glb && s.gatesAgree then (s.modSaf fun f => { f with genFault := 0 }).clearGlb 7 else s
  (t.forAll fun (a : Acd) u =>
    if z.acd a && !s.stoDiffers a then (u.modSaf fun f => { f with stoFault := f.stoFault &&& ~~~ bit 4 a.val }).clearSto a 5 else u,
   readFree s z)

/-- SAF_RESET at its take-up tick (10 R529). -/
def execSafReset (r : Ring) (d : Desc) (s : State) : Host.Outcome State Fault Refusal :=
  .next (s.work r d fun t =>
    let bits := d.b 24
    let pos := t.jposOf r d.seq
    let one := fun (k : Nat) (f : State → State × Bool) (u : State × Word) =>
      if !bits.getLsbD k then u
      else let (v, ok) := f u.1; (v, if ok then u.2 ||| bit 32 k else u.2)
    let t0 := (t.runToFleet (t.nextTick * Config.tickNs), (0 : Word))
    let u := one 5 (·.resetReadback d.target) (one 4 (·.resetSite) (one 3 (·.resetContact d.target)
      (one 2 (·.resetEstop d.target) (one 1 (·.resetSto d.target pos) (one 0 (·.resetHost d.target pos) t0)))))
    (u.1.flushTrig).complete r d.seq (if u.2 = (bitsOf bits 0 6 : BitVec 6).setWidth 32 then 0 else 1) u.2)

end Sys2Proof.Machine
end

