-- ==== Sys2Proof/Machine/Allocation.lean ====
section
/-! DEFINITION. Sharing the site's power: curves, the tally, the search, DOWN frames, shares and grants, the allocation states, Bow
and Umpire, takeover, drill and role restore (03; 07 R183, R193). -/
namespace Sys2Proof.Machine

/-! ### Curves (03 R69-R71) -/

/-- Curves of an outlet: demand and supply (03 R70). -/
def State.outletCurves (s : State) (o : Outlet) : Vector Nat 64 × Vector Nat 64 :=
  let zero : Vector Nat 64 := .replicate 64 0
  let x := s.out.get o
  let r := s.effRecord o
  match s.outCfg o with
  | none => (zero, zero)
  | some c =>
    if x.grantStatus != 0 || r.session == 0 || !(r.mode == 1 || r.mode == 2 || r.mode == 3) || !r.ready || r.stop then (zero, zero)
    else
      let v := x.vs.toNat
      let imax := c.maxImpI
      let feather := (s.thm.phi.get o).toNat * imax / 1000 * v / 10000
      let cap := min (s.cfg.active.outletRating.get o) (min (s.mOf o * s.cfg.active.phaseRating) feather)
      let m := if r.mode == 1 || r.mode == 3 then min r.maxImpP.toNat (min (r.maxImpI.toNat * v / 10000) cap) else 0
      let e := if r.mode == 2 || r.mode == 3 then min r.maxExpP.toNat (min (r.maxExpI.toNat * v / 10000) cap) else 0
      let g := min r.gmin.toNat m
      (vmapIdx zero fun lam _ => g + (m - g) * quarters lam.val r.band.toNat / 4,
       vmapIdx zero fun lam _ => if r.mode == 2 then e else e * (4 - quarters lam.val r.band.toNat) / 4)

/-- The curves built from a latch for a round (03 R71). -/
def State.buildCurves (round : Nat) (s : State) : State :=
  let outs : Vector (Vector Nat 64 × Vector Nat 64) 8 := Vector.ofFn fun o => s.outletCurves o
  let (bd, bs) := s.batCurves
  let d : Vector Nat 64 := Vector.ofFn fun lam =>
    min (sumFin 8 (fun o => (outs.get o).1.get lam) + bd.get lam) (min (s.cfg.active.cabImport * s.thm.dieK.toNat / 8) 1048575)
  let p : Vector Nat 64 := Vector.ofFn fun lam =>
    min (sumFin 8 (fun o => (outs.get o).2.get lam) + bs.get lam) (min s.cfg.active.cabExport 1048575)
  s.modAlc fun a =>
    { a with capWait := a.capWait.map fun w => { w with fed := true },
             built := some { round := round, d := d, s := p, outD := outs.map (·.1), outS := outs.map (·.2), batD := bd, batS := bs,
                             cap := a.cap, curtail := a.curtailLatched } }

/-- The curves for a round; built from the present state where no feeding latch has built them. -/
def State.needCurves (round : Nat) (s : State) : State :=
  match s.alc.built with
  | some b => if b.round = round then s else s.buildCurves round
  | none => s.buildCurves round

/-! ### Interpolation and search (03 R82, R85) -/

/-- A curve at a level, with its virtual point 64. -/
def curveAt (c : Vector Nat 64) (supply : Bool) (k : Nat) : Nat :=
  if h : k < 64 then c.get ⟨k, h⟩ else if supply then c.get 63 else 0

/-- interp of 03 R85, in W. -/
def interpW (c : Vector Nat 64) (supply : Bool) (lam f : Nat) (full : Bool) : Nat :=
  if full then 100 * c.get 0
  else
    let lo := curveAt c supply (lam + 1)
    let hi := curveAt c supply lam
    if lo ≤ hi then 100 * lo + 100 * f * (hi - lo) / 65536 else 100 * lo - 100 * f * (lo - hi) / 65536

/-- The least level in [lo, hi] whose successor fits, by bisection (03 R82); 7 steps suffice for 64 levels. -/
def searchLevel (fits : Nat → Bool) : Nat → Nat → Nat → Nat
  | 0, lo, _ => lo
  | n + 1, lo, hi => if hi ≤ lo then lo else
      let mid := (lo + hi) / 2
      if fits (mid + 1) then searchLevel fits n lo mid else searchLevel fits n (mid + 1) hi

/-- λ, f and FULL of a demand and a supply curve under a budget and a hold reserve (03 R82). -/
def searchR82 (d s : Vector Nat 64) (b reserve : Nat) : Nat × Nat × Bool :=
  let avail : Int := max 0 ((b : Int) - reserve)
  let n : Nat → Int := fun x => (curveAt d false x : Int) - curveAt s true x
  if n 0 ≤ avail then (0, 0, true)
  else
    let lam := searchLevel (fun x => decide (n x ≤ avail)) 7 0 63
    (lam, (((avail - n (lam + 1)) * 65536) / (n lam - n (lam + 1))).toNat, false)

/-- The crew budget (03 R80): the least of the crew rating, the crew sum's cap and the preset for its CURTAIL level. -/
def State.crewBudget (s : State) (u : Up) : Nat :=
  let base := min s.cfg.active.rating u.cap.toNat
  if u.curtail = 0 then base else min base (nth s.cfg.active.presets.toList (u.curtail.toNat - 1) base)

/-- The result of the search on a crew sum. -/
def State.resultOf (s : State) (u : Up) : AlcResult :=
  let b := s.crewBudget u
  let (lam, f, full) := searchR82 (u.d.map BitVec.toNat) (u.s.map BitVec.toNat) b u.holdReserve.toNat
  ⟨BitVec.ofNat 6 lam, BitVec.ofNat 16 f, full, clampU 32 b, u.holdReserve⟩

/-! ### The UP (03 R72, R74, R75) -/

/-- The controller that follows the root of the trees in force; the root itself forms the crew sum (03 R82, R97). -/
def State.isRoot (s : State) : Bool := s.rgt.role == (if s.rgt.swapped then .bow else .stroke)

/-- Distance to the root and parent port in the trees in force. -/
def State.rootDist (s : State) : Nat := if s.rgt.swapped then s.rgt.bowDist else s.rgt.strokeDist
def State.rootPort (s : State) : Option Port := if s.rgt.swapped then s.rgt.bowParentPort else s.rgt.parent

/-- Own UPs are holding UPs unless the state is NORMAL and the own pair is the crew pair (03 R72). -/
def State.holdingNow (s : State) : Bool := !(s.alc.st == .normal && s.alc.crewPair == some s.ownPair)

/-- max(⌈ALC_SHARE / 100⌉, ALC_FALLBACK_SHARE). -/
def State.holdBoundNow (s : State) : Nat := max (ceilDiv s.alc.share 100) s.cfg.active.fbShare

/-- The controller's own contribution. -/
def State.ownUp (s : State) (round : Nat) : Up :=
  let zero : Vector Word 64 := .replicate 64 0
  let h := s.holdingNow
  let (d, p, cap, lvl) := match s.alc.built with
    | some b => (b.d.map (clampU 32), b.s.map (clampU 32), b.cap, b.curtail)
    | none => (zero, zero, s.alc.cap, s.alc.curtailLatched)
  { round := round, pair := s.ownPair, members := 1, absent := 0, curtail := lvl, holding := h, cap := cap,
    holdReserve := if h then clampU 32 s.holdBoundNow else 0, fallback := if h then 0 else clampU 32 s.cfg.active.fbShare,
    notices := s.alc.notices.take 8, changes := [], d := if h then zero else d, s := if h then zero else p }

/-- Saturating sum of words. -/
def satWord (a b : Word) : Word := clampU 32 (a.toNat + b.toNat)

/-- A taken child UP enters the tally (03 R75). -/
def joinUp (u c : Up) : Up :=
  { u with members := min 8191 (u.members + c.members), absent := min 8191 (u.absent + c.absent),
           curtail := if u.curtail.toNat < c.curtail.toNat then c.curtail else u.curtail,
           cap := if c.cap.toNat < u.cap.toNat then c.cap else u.cap,
           holdReserve := satWord u.holdReserve c.holdReserve, fallback := satWord u.fallback c.fallback,
           notices := (u.notices ++ c.notices).take 8, changes := (u.changes ++ c.changes).take 16,
           d := Vector.ofFn fun k => satWord (u.d.get k) (c.d.get k), s := Vector.ofFn fun k => satWord (u.s.get k) (c.s.get k) }

/-- A substitution for a missing child UP (03 R76). -/
def substituteUp (u : Up) (x : ChildSt) (sub : Nat) : Up :=
  { u with absent := min 8191 (u.absent + x.lastMembers), holdReserve := clampU 32 (u.holdReserve.toNat + sub),
           curtail := if u.curtail.toNat < x.lastCurtail.toNat then x.lastCurtail else u.curtail,
           cap := if x.lastCap.toNat < u.cap.toNat then x.lastCap else u.cap }

/-- Whether a substitution applies to a port whose UP is missing: a subtree was taken there, the substitution has not ended, and the
neighbour of an ACTIVE port still is a child in the trees in force. -/
def State.substitutes (s : State) (p : Port) (round : Nat) : Bool :=
  let x := s.alc.child.get p
  let t := s.rgt.port.get p
  x.has && !(t.st == .active && t.role != .child && s.rgt.swapped) &&
  (match x.endRound with | some r => decide (round < r) | none => true)

/-- A child's change record, where its pair disagrees with its bit of the bitmap (03 R79). -/
def State.changeOf (s : State) (p : Port) (u : Up) : List (CtrlId × Bool) :=
  match s.neighbourId (some p), s.alc.crewPair with
  | some c, some crew =>
    let div := u.pair != crew
    if div == s.alc.divergent.getLsbD c.toNat then [] else [(c, div)]
  | _, _ => []

/-- The change records this controller owes: new ones of the children taken, and earlier ones that no DOWN has shown yet. -/
def State.oweChanges (round : Nat) (s : State) : State :=
  let new := ((List.finRange 4).map fun p =>
    match (s.alc.child.get p).taken with
    | some u => if u.round = round then s.changeOf p u else []
    | none => []).flatten
  let judged := (List.finRange 4).filterMap fun p =>
    match (s.alc.child.get p).taken with | some u => if u.round = round then s.neighbourId (some p) else none | none => none
  s.modAlc fun a =>
    { a with changes := new ++ a.changes.filter fun x => !judged.contains x.1 && x.2 != a.divergent.getLsbD x.1.toNat }

/-- One port's part of the tally (03 R75, R76, R78). `SUBSTITUTION` is set when a substitution begins, as the table of R100 says, and not
again in each of its rounds, as R76 can be read. DESIGN CHOICE (log entry 153). -/
def State.tallyPort (round : Nat) (p : Port) (acc : State × Up) : State × Up :=
  let (s, u) := acc
  let x := s.alc.child.get p
  match (match x.taken with | some c => if c.round = round then some c else none | none => none) with
  | some c =>
    (s.modChild p fun x =>
      { x with lastD := c.d, lastH := c.holdReserve, lastF := c.fallback, lastMembers := c.members, lastCap := c.cap, lastCurtail := c.curtail,
               has := true, k := 0, endRound := none, sub := 0 }, joinUp u c)
  | none =>
    if s.substitutes p round then
      let k := x.k + 1
      let sub := x.q + x.lastH.toNat + (if 80 ≤ k then x.lastF.toNat else 0)
      let s1 := s.modChild p fun x => { x with k := k, sub := clampU 32 sub }
      (if x.k = 0 then s1.raise .alc 6 else s1, substituteUp u x sub)
    else
      (s.modChild p fun x =>
        { x with sub := 0, k := 0, has := x.has && (match x.endRound with | some r => decide (round < r) | none => true) }, u)

/-- The tally of a round: the own contribution, then the children in port order. -/
def State.tally (round : Nat) (s : State) : State × Up :=
  let s1 := (s.needCurves round).oweChanges round
  let u := s1.ownUp round
  let s2 := s1.modAlc fun a =>
    { a with upSentRound := some round, upHolding := u.holding, holdBound := s1.holdBoundNow, curve := u.d, supplyCurve := u.s,
             capWait := a.capWait.map fun w =>
               if w.fed && (w.outlet.isNone || !u.holding) then { w with upRound := some round } else w }
  (List.finRange 4).foldl (fun acc p => State.tallyPort round p acc) (s2, { u with changes := s1.alc.changes.take 16 })

/-! ### Round bookkeeping: tree switch, drill swap (02 R53; 03 R97, R98) -/

/-- The drill is over: trees swapped back; the Stroke judges it (03 R97). -/
def State.endDrill (d : Nat) (s : State) : State :=
  let t := (s.modAlc fun a => { a with drillRound := none }).modRgt fun g => { g with swapped := false }
  let t := t.recompute
  if t.rgt.role ≠ .stroke then t
  else
    let ok := match t.alc.downValid, t.alc.ownResult with
      | some x, some (n, r) => x.round == d && x.drill && n == d && x.res == r
      | _, _ => false
    let t1 := t.raise .alc (if ok then 14 else 15)
    match t1.alc.drillWait with
    | some w => (t1.modAlc fun a => { a with drillWait := none }).complete w.1 w.2 0 0
    | none => t1

/-- A PROBE once the named Stroke has its role back: the tree of the Bow is the Bow tree again, and of the Stroke tree only its root is known
until PROBE frames build it (03 R98; log entry 151). -/
def restoredProbe (stroke : CtrlId) (b : Probe) : Probe :=
  { b with bowDist := b.strokeDist, bowParent := b.strokeParent, strokeDist := if b.id = stroke then 0 else 255, strokeParent := none }

def State.restoreTrees (s : State) : State :=
  s.modRgt fun g =>
    { g with parent := none, bowParentPort := g.parent, strokeDist := 255, bowDist := g.strokeDist,
             port := g.port.map fun x =>
               { x with probe := x.probe.map fun b => if b.crew = g.crew then restoredProbe s.cfg.active.stroke b else b } }

/-- The Stroke role is back at the named Stroke; the controller that gave it up is the Bow again (03 R98). -/
def State.restoreRoles (s : State) : State :=
  let c := s.cfg.active
  let id := s.rgt.id
  let t := (s.restoreTrees.modAlc fun a => { a with stroke := c.stroke, bow := c.bow, strokeByBow := false, drillRound := none, restore := none }).modRgt fun g =>
    { g with role := if g.role = .notAdmitted then g.role else if id = c.stroke then .stroke else if c.bow = some id then .bow else .member }
  let t := if t.rgt.role = .stroke then t.modClk fun k => { k with rate := strokeRate k.rate } else t
  let t1 := (t.recompute).raise .alc 7
  match s.alc.restore with
  | some (_, r, q) => t1.complete r q 0 0
  | none => t1

/-- A Stroke that was demoted acts as a member from its round on; its place in the trees stays until the takeover DOWN comes (03 R94). -/
def State.cede (s : State) : State :=
  match s.alc.demoteAt with
  | some k =>
    if s.round < k then s
    else ((s.modAlc fun a => { a with demoteAt := none, ceded := true }).modRgt fun g =>
      { g with role := if g.role = .stroke then .member else g.role }).raise .alc 7
  | none => s

/-- An accepted `ALC_ROLE_RESTORE` at the named Stroke itself, in role, has nothing to hand over: it completes at its round. -/
def State.restoreSelf (s : State) : State :=
  match s.alc.restore with
  | some (n, r, q) => if n ≤ s.round && !s.alc.strokeByBow then (s.modAlc fun a => { a with restore := none }).complete r q 0 0 else s
  | none => s

/-- What the start of the round in progress has brought about for the trees: a demotion, a switch after a takeover, the swap of a drill round
and its end, the restoring of the roles. -/
def State.alcSync (s : State) : State :=
  let t := s.cede.treeSync.restoreSelf
  match t.alc.drillRound with
  | none => t
  | some d =>
    if t.alc.strokeByBow then (if d ≤ t.round then t.restoreRoles else t)
    else if d < t.round then t.endDrill d
    else if d = t.round && !t.rgt.swapped && t.alc.bow.isSome then (t.modRgt fun g => { g with swapped := true }).recompute
    else t

/-- A pending drill is cancelled (03 R97). -/
def State.cancelDrill (s : State) : State :=
  let t := s.modAlc fun a => { a with drillRound := none, drillWait := none }
  match s.alc.drillWait with
  | some w => t.complete w.1 w.2 0 0
  | none => t

/-- DRILL_ROUND: the start of the drill round, or, while the trees are swapped, the round start that follows. -/
def execDrillRound (s : State) : Host.Outcome State Fault Refusal :=
  s.live fun s => (match s.alc.drillRound with
    | none => s
    | some d =>
      if s.alc.strokeByBow then s
      else (s.runToFleet ((if s.rgt.swapped then d + 1 else d) * Config.roundNs)).alcSync)

/-- ROLE_RESTORE_ROUND: round r of an accepted ALC_ROLE_RESTORE. -/
def execRoleRestoreRound (s : State) : Host.Outcome State Fault Refusal :=
  s.live fun s => (match (if s.alc.strokeByBow then s.alc.drillRound else s.alc.restore.map (·.1)) with
    | some d => (s.runToFleet (d * Config.roundNs)).alcSync
    | none => s)

/-! ### Sending and receiving UPs (03 R73, R75) -/

/-- The offset into a round at which a member sends its UP, ns (03 R73). -/
def State.upOffset (s : State) : Nat := 37600 + 3200 * (12 - s.rootDist) - s.rgt.pathDelay

/-- UP_SEND: by an admitted, attached member that is not out of time. -/
def execUpSend (s : State) : Host.Outcome State Fault Refusal :=
  s.live fun s => (
    if !s.pwr.controlReady || !s.admitted then s
    else
      let t := (s.runToOffset (s.alcSync.upOffset)).alcSync
      match (if t.isRoot || t.rgt.outOfTime || 12 < t.rootDist then none else t.rootPort) with
      | none => t
      | some p =>
        let (t1, u) := t.tally t.round
        t1.sendFrame p ((t1.neighbourId (some p)).map fun c => (c, t1.rgt.crew)) 1 false (.up u))

/-- A child's UP counted late or malformed (03 R75). -/
def State.lateChild (s : State) : State := (s.modAlc fun a => { a with cntLate := satInc a.cntLate }).raise .alc 5

/-- A curve does not rise, or does not fall. -/
def monotone (le : Nat → Nat → Bool) (v : Vector Word 64) : Bool :=
  (List.range 63).all fun k => le (nth v.toList k 0).toNat (nth v.toList (k + 1) 0).toNat

/-- UP_RECEIVE. -/
def execUpReceive (p : Port) (h : Hdr) (u : Up) (s : State) : Host.Outcome State Fault Refusal :=
  s.live fun s => (
    if !s.pwr.controlReady then s
    else
      let t := s.alcSync
      let x := t.rgt.port.get p
      if x.role ≠ .child || !x.carries .alloc then t.rx p h id
      else if h.aborted || !h.crcOk then (t.rx p h id).lateChild
      else
        t.rx p h fun t =>
          let n := t.round
          let cut := t.roundStart + (if t.isRoot then 80000 else t.upOffset - 100)
          let ok := decide (t.now ≤ cut) && u.round == n && t.neighbourId (some p) == some h.src &&
            monotone (fun a b => decide (b ≤ a)) u.d && monotone (fun a b => decide (a ≤ b)) u.s
          if ok then t.modChild p fun x => { x with taken := some u } else t.lateChild)

/-! ### DOWN frames (03 R77, R83, R84, R94, R95) -/

/-- A valid DOWN, own or received, is recorded: crew pair, bitmap, activation and drill rounds, the notices it carries. -/
def State.noteDown (d : Down) (s : State) : State :=
  let id := s.rgt.id
  let s1 := s.modAlc fun a =>
    { a with downValid := some d, crewPair := some d.pair, divergent := d.divergent, downMembers := d.members, downAbsent := d.absent,
             notices := a.notices.filter fun n => !d.notices.contains n,
             drillRound := if d.drill then a.drillRound else if d.drillRound = 0 then (if s.rgt.swapped then a.drillRound else none) else some d.drillRound }
  let s2 := s1.forAll fun (p : Port) t =>
    match t.neighbourId (some p) with
    | some c => if d.notices.contains (id, c) then t.modChild p fun x => { x with endRound := x.endRound <|> some (d.round + 1) } else t
    | none => t
  if d.actRound ≠ 0 then s2.noteActRound d.actRound
  else match s2.cfg.actRound with
    | some a => if d.round ≤ a then s2.clearAnnouncement else s2
    | none => s2

/-- The UP of the DOWN's round from a port has entered the tally. -/
def State.tookUp (s : State) (p : Port) (n : Nat) : Bool :=
  match (s.alc.child.get p).taken with | some u => u.round == n | none => false

/-- The DOWN leaves on the CHILD ports whose UP of the round entered the tally; the others are counted (03 R77). -/
def State.forwardDown (f : Frame) (d : Down) (s : State) : State :=
  s.forAll fun (p : Port) t =>
    if (t.rgt.port.get p).role ≠ .child then t
    else if t.tookUp p d.round then (t.handOver p f).modChild p fun x => { x with forwarded := true }
    else t.modAlc fun a => { a with cntWithheld := satInc a.cntWithheld }

/-- A takeover DOWN leaves on every ACTIVE port whose neighbour names this controller as its Bow-tree parent (03 R94, R95). -/
def State.spreadTakeover (f : Frame) (s : State) : State :=
  s.forAll fun (p : Port) t =>
    let x := t.rgt.port.get p
    if x.st = .active && (match x.probe with | some b => b.bowParent == some t.rgt.id | none => false) then t.handOver p f else t

/-- A frame of this controller with its next source sequence. -/
def State.newFrame (s : State) (hopLimit : Byte) (body : Payload) : Frame :=
  ⟨s.rgt.id, s.rgt.crew, none, s.nextSeq, 0, hopLimit, false, body, false⟩
def State.usedSeq (s : State) : State := s.modRgt fun g => { g with lastSeq := s.nextSeq }

/-- From now on the Bow is followed in the Stroke role; the trees switch at the next round start (03 R94, R95). -/
def State.followBow (s : State) : State :=
  ((s.modRgt fun g => { g with switchAt := g.switchAt <|> some (s.round + 1) }).cancelDrill).raise .alc 7

/-- A Stroke that is demoted: no DOWN or MIRROR from the next round; a waiting or announced activation is cancelled (03 R94; 04 R115). As a
member it switches trees after the takeover DOWN (R95). -/
def State.demote (s : State) : State :=
  if s.rgt.role ≠ .stroke || s.alc.demoteAt.isSome then s
  else ((s.modAlc fun a => { a with demoteAt := some (s.round + 1) }).cancelActivation).cancelDrill

/-- How a DOWN that arrived is taken: none where it is discarded (03 R84, R95). -/
inductive DownKind where
  | normal | takeover | drill
deriving DecidableEq, Repr

def State.downKind (s : State) (p : Port) (d : Down) : Option DownKind :=
  let r := (s.rgt.port.get p).role
  let ok := decide (d.round = s.round) && decide (s.now ≤ s.roundStart + 140000) && !s.rgt.outOfTime && s.admitted
  if !ok then none
  else if d.byBow && d.drill then (if s.rgt.swapped && s.alc.bow == some d.originator && r == .parent && !s.isRoot then some .drill else none)
  else if d.byBow && s.alc.bow == some d.originator then (if s.rgt.bowParentPort == some p then some .takeover else none)
  else if d.originator = s.alc.stroke && (!d.byBow || s.alc.strokeByBow) then
    (if r == .parent && !s.rgt.swapped && !s.isRoot then some .normal else none)
  else none

/-- What of a DOWN that turns out corrupted, or ends in ABORT, had begun to leave cut-through ends with ABORT (02 R39, R45). -/
def State.cutThrough (p : Port) (h : Hdr) (f : Frame) (d : Down) (s : State) : State :=
  if h.crcOk && !h.aborted || h.hops = h.hopLimit then s
  else match s.downKind p d with
    | none => s
    | some .takeover => s.spreadTakeover { f with cut := true }
    | some _ => s.forAll fun (q : Port) t =>
      if (t.rgt.port.get q).role = .child && t.tookUp q d.round then t.handOver q { f with cut := true } else t

/-- DOWN_RECEIVE. -/
def execDownReceive (p : Port) (h : Hdr) (d : Down) (s : State) : Host.Outcome State Fault Refusal :=
  s.live fun s => (
    if !s.pwr.controlReady then s
    else
      let f : Frame := ⟨h.src, h.crew, h.dest, h.seq, h.hops + 1, h.hopLimit, h.hopLocal, .down d, false⟩
      ((s.alcSync).rx p h fun t =>
        let t := if d.byBow && !d.drill && d.crew = t.rgt.crew && d.originator ≠ t.rgt.id then t.demote else t
        match t.downKind p d with
        | none => t
        | some .takeover => ((t.noteDown d).spreadTakeover f).followBow
        | some _ =>
          let t1 := (t.noteDown d).forwardDown f d
          if d.originator = t1.alc.stroke then t1.modAlc fun a => { a with strokeDown := some (d.round, d.res) } else t1).cutThrough p h f d)

/-! ### The search (03 R82, R92, R97) -/

/-- A MIRROR frame to a controller on a direct ACTIVE link. -/
def State.mirrorTo (c : CtrlId) (m : Mirror) (s : State) : State :=
  if c = s.rgt.id then s
  else match s.portTo c with
    | some p => s.sendFrame p (some (c, s.rgt.crew)) 1 false (.mirror m)
    | none => s

/-- MIRROR frames to the Umpire, where it is a controller. -/
def State.mirrorUmpire (m : Mirror) (s : State) : State :=
  match s.cfg.active.umpire with | .ctrl u => s.mirrorTo u m | _ => s

/-- The bitmap after the change records of a crew sum (03 R79). -/
def applyChanges (b : BitVec 4096) (l : List (CtrlId × Bool)) : BitVec 4096 :=
  l.foldl (fun w x => if x.2 then w ||| bit 4096 x.1.toNat else w &&& ~~~ bit 4096 x.1.toNat) b

/-- The DOWN of a round from its crew sum. -/
def State.downOf (s : State) (u : Up) : Down :=
  let r := s.resultOf u
  { round := u.round, res := r, byBow := s.alc.strokeByBow || s.rgt.swapped, hold := false, drill := s.rgt.swapped,
    shed := !r.full && r.lam == 63, pair := s.ownPair, originator := s.rgt.id, crew := s.rgt.crew,
    members := BitVec.ofNat 13 u.members, absent := BitVec.ofNat 13 u.absent, curtail := u.curtail,
    drillRound := s.alc.drillRound.getD 0, actRound := s.cfg.actRound.getD 0, notices := u.notices.take 8,
    divergent := applyChanges s.alc.divergent u.changes }

/-- The search of this round has run here already. -/
def State.searchDone (s : State) : Bool :=
  match s.alc.downValid with | some d => d.round == s.round && d.originator == s.rgt.id | none => false

/-- The members whose own UP entered the tally of a round, as far as this controller sees it: those on its CHILD ports (02 R59; log entry
149). -/
def State.noteHeard (n : Nat) (s : State) : State :=
  let heard := (List.finRange 4).filterMap fun p => if s.tookUp p n then s.neighbourId (some p) else none
  s.modRgt fun g => { g with members := g.members.map fun m => if heard.contains m.id then { m with heard := n } else m }

/-- What the root of the trees does at its search: the tally, the DOWN, the MIRROR of the crew sum. -/
def State.search (s : State) : State :=
  let (t1, u) := s.tally s.round
  let t2 := (t1.noteHeard s.round).modAlc fun a => { a with sum := some u }
  let t3 := if t2.rgt.swapped then t2 else t2.activationCheck
  let d := t3.downOf u
  let f := t3.newFrame 12 (.down d)
  let t4 := ((t3.usedSeq).forwardDown f d).noteDown d
  let t5 := t4.modAlc fun a => { a with ownResult := some (d.round, d.res) }
  let m := Mirror.crewSum u.round u
  let t6 := t5.mirrorUmpire m
  match (if t6.rgt.swapped then some t6.alc.stroke else t6.alc.bow) with
  | some c => t6.mirrorTo c m
  | none => t6

/-- SEARCH: at T + 85 µs, by the Stroke, or by the Bow in a drill round. -/
def execSearch (s : State) : Host.Outcome State Fault Refusal :=
  s.live fun s => (
    if !s.pwr.controlReady || !s.admitted then s
    else
      let t0 := (s.runToOffset 85000).alcSync
      let t := if t0.searchDone then ((t0.runToFleet (t0.roundStart + Config.roundNs + 85000))).alcSync else t0
      if t.isRoot then t.search else t)

/-! ### Bow and Umpire (03 R91-R97) -/

/-- This controller is the crew's Umpire. -/
def State.isUmpire (s : State) : Bool := s.cfg.active.umpire == .ctrl s.rgt.id

/-- MIRROR_RECEIVE: only over a direct ACTIVE link, from the controllers that send the kind; a frame of another kind is dropped and counted
(02 R41). -/
def execMirrorReceive (p : Port) (h : Hdr) (m : Mirror) (s : State) : Host.Outcome State Fault Refusal :=
  s.live fun s => (
    if !s.pwr.controlReady then s
    else (s.alcSync).rx p h fun t =>
      if (match m with | .other _ => false | _ => (match t.peer p with | some b => b.id != h.src | none => true) || !t.forMe h) then t
      else
        let root := if t.rgt.swapped then t.alc.bow else some t.alc.stroke
        let second := if t.rgt.swapped then some t.alc.stroke else t.alc.bow
        let umpire := t.cfg.active.umpire == .ctrl h.src
        match m with
        | .crewSum n u =>
          if root ≠ some h.src || n ≠ t.round then t
          else
            let t1 := t.modAlc fun a => { a with mirrorSum := some (n, u), sum := some u }
            if second = some t1.rgt.id then
              let r := t1.resultOf u
              (t1.modAlc fun a => { a with ownResult := some (n, r) }).mirrorUmpire (.result n r)
            else t1
        | .result n r => if second = some h.src && n = t.round && t.isUmpire then t.modAlc fun a => { a with mirrorResult := some (n, r) } else t
        | .name n _ => if umpire && t.alc.bow = some t.rgt.id && t.rgt.role = .bow then t.modAlc fun a => { a with named := some n } else t
        | .demote _ _ => if umpire then t.demote else t
        | .other _ => t.modPort p fun x => { x with cntDrop := satInc x.cntDrop })

/-- Value of a round, where it is of this round. -/
def ofRound {α : Type} (n : Nat) (x : Option (Nat × α)) : Option α := match x with | some (k, v) => if k = n then some v else none | none => none

/-- The Umpire's judgement of a round by what has come: the Stroke's DOWN, the Bow's result, the crew sum (03 R93). Where the results differ
and no crew sum has come, there is nothing to search: the model leaves the round undecided. DESIGN CHOICE (log entry 157). -/
def State.umpireJudge (bow : CtrlId) (d b : Option AlcResult) (m : Option Up) (t : State) : State :=
  let n := t.round
  let silent := if d.isNone && m.isNone then t.alc.silent + 1 else 0
  let t1 := t.modAlc fun a => { a with silent := silent }
  let t2 :=
    if silent = 2 then (t1.mirrorTo bow (.name (n + 1) 1)).raise .alc 8
    else match d, b with
      | some x, some y =>
        if x = y then t1
        else match m.map t1.resultOf with
          | some u =>
            if u = y then
              ((t1.mirrorTo t1.alc.stroke (.demote (n + 1) 2)).mirrorTo bow (.name (n + 1) 2)).raise .alc 9
            else if u = x then t1.raise .alc 10
            else t1.raise .alc 12
          | none => t1.raise .alc 12
      | _, _ => t1
  if d.isSome && b.isNone then t2.raise .alc 11 else t2

/-- The result of the round's valid DOWN, whoever sent it. -/
def State.downResult (s : State) : Option AlcResult := match s.alc.downValid with | some x => if x.round = s.round then some x.res else none | none => none

/-- UMPIRE_DECIDE at T + 130 µs (03 R93), by an Umpire with ACTIVE ports to the Stroke and to the Bow (R91); in a drill round the verdict sets
only `DRILL_FAIL` (R97), in the model where both results have come and differ. DESIGN CHOICE (log entry 159). -/
def execUmpireDecide (s : State) : Host.Outcome State Fault Refusal :=
  s.live fun s => (
    if !s.pwr.controlReady || !s.isUmpire then s
    else
      let t := (s.runToOffset 130000).alcSync
      match t.alc.bow with
      | none => t.raise .alc 13
      | some bow =>
        if (t.portTo bow).isNone || (t.portTo t.alc.stroke).isNone then t.raise .alc 13
        else
          let b := ofRound t.round t.alc.mirrorResult
          if t.rgt.swapped then
            match t.downResult, b with
            | some x, some y => if x = y then t else t.raise .alc 15
            | _, _ => t
          else t.umpireJudge bow (ofRound t.round t.alc.strokeDown) b (ofRound t.round t.alc.mirrorSum))

/-- TAKEOVER: the Bow named for a round sends a HOLD DOWN at T + 85 µs and takes the Stroke role from the next round; a demoted Stroke
becomes a member at its round (03 R94). Its budget and hold reserve, which HOLD leaves unused, are 0; members, absent and curtail are those of
the last DOWN. DESIGN CHOICE (log entry 158). -/
def execTakeover (s : State) : Host.Outcome State Fault Refusal :=
  s.live fun s => (
    if !s.pwr.controlReady then s
    else match s.alc.named, s.alc.demoteAt with
      | some m, _ =>
        if s.rgt.role ≠ .bow then s.modAlc fun a => { a with named := none }
        else
          let t := s.runToFleet (m * Config.roundNs + 85000)
          let d : Down :=
            { round := t.round, res := ⟨0, 0, false, 0, 0⟩, byBow := true, hold := true, drill := false, shed := false, pair := t.ownPair,
              originator := t.rgt.id, crew := t.rgt.crew, members := t.alc.downMembers, absent := t.alc.downAbsent,
              curtail := t.alc.crewCurtail, drillRound := 0, actRound := 0, notices := [], divergent := t.alc.divergent }
          let f := t.newFrame 12 (.down d)
          ((((t.usedSeq).spreadTakeover f).noteDown d).cancelActivation.modAlc fun a => { a with named := none }).followBow
      | none, some k => (s.runToFleet (k * Config.roundNs)).alcSync
      | none, none => s)

/-! ### The allocation states (03 R88) -/

/-- The DOWN of the round in progress, where a valid one has arrived. -/
def State.downNow (s : State) : Option Down := match s.alc.downValid with | some d => if d.round = s.round then some d else none | none => none

/-- A ramp step toward the fallback share. -/
def State.rampStep (s : State) : Nat :=
  let goal := 100 * s.cfg.active.fbShare
  let step := 100 * s.cfg.active.fbRamp
  if s.alc.share ≤ goal then min goal (s.alc.share + step) else max goal (s.alc.share - step)

/-- The next state and the miss count (03 R88). -/
def State.nextAlc (s : State) : AlcState × Nat :=
  match s.downNow with
  | some d => (if d.pair = s.ownPair then .normal else .divergent, 0)
  | none =>
    let k := min 255 (s.alc.missCount + 1)
    (match s.alc.st with
      | .normal => .miss
      | .miss => if k = 3 then .hold else .miss
      | .hold => if k = 80 then .ramp else .hold
      | .ramp => if s.rampStep = 100 * s.cfg.active.fbShare then .fallback else .ramp
      | .fallback => .fallback
      | .divergent => .divergent,
     if s.alc.st = .normal then 1 else k)

/-- A Bow with a host Umpire watches the Stroke (03 R96). -/
def State.bowWatch (s : State) : State :=
  if s.rgt.role ≠ .bow || s.cfg.active.umpire ≠ .host || s.rgt.swapped then s
  else
    let n := s.round
    let d := ofRound n s.alc.strokeDown
    let k := if d.isNone && (ofRound n s.alc.mirrorSum).isNone then s.alc.silent + 1 else 0
    let t := s.modAlc fun a => { a with silent := k }
    let t1 := if k = 2 then t.raise .alc 8 else t
    match d, ofRound n t1.alc.ownResult with
    | some x, some y => if x = y then t1 else t1.raise .alc 9
    | _, _ => t1

/-- DOWN_EVALUATE at T + 140 µs: the state machine of a member is evaluated, and the catch-up conditions are checked once a valid DOWN
has arrived (03 R88; 04 R116). -/
def execDownEvaluate (s : State) : Host.Outcome State Fault Refusal :=
  s.live fun s => (
    if !s.pwr.controlReady then s
    else
      let t := (s.runToOffset 140000).alcSync
      let t1 := if t.admitted then t.modAlc fun a => { a with eval := some (t.round, t.nextAlc) } else t
      let t2 := if t1.downNow.isSome || !t1.admitted then t1.catchUpCheck else t1
      (t2.bowWatch).siteEval)

/-! ### Shares and grants (03 R85, R86; 07 R183) -/

/-- Demand and supply parts of outlets 0-7 and of the battery, in W. -/
structure Parts where
  d : List Nat
  s : List Nat
deriving DecidableEq, Repr

def State.partsAt (b : Built) (lam f : Nat) (full : Bool) : Parts :=
  ⟨(List.finRange 8).map (fun o => interpW (b.outD.get o) false lam f full) ++ [interpW b.batD false lam f full],
   (List.finRange 8).map (fun o => interpW (b.outS.get o) true lam f full) ++ [interpW b.batS true lam f full]⟩

/-- The order of reduction: highest band first, then highest outlet number, the battery as outlet 8 (03 R86). -/
def reduceOrder (bands : List Nat) : List Nat :=
  let idx := (List.range 9).reverse
  (List.range 256).reverse.flatMap fun b => idx.filter fun k => nth bands k 0 == b

/-- Parts reduced in an order until their sum is the share. An excess that rounding alone makes, with no cabinet rating bound, is taken off
in the same way: the rule speaks of a bound curve only. DESIGN CHOICE (log entry 155). -/
def reduceParts (share : Nat) (parts : List Nat) (order : List Nat) : List Nat :=
  (order.foldl (fun (acc : List Nat × Nat) k =>
    let p := nth acc.1 k 0
    let cut := min p acc.2
    (acc.1.set k (p - cut), acc.2 - cut)) (parts, parts.foldl (· + ·) 0 - share)).1

/-- Bands of the parts: the record's, the battery's own for each direction. -/
def State.bands (s : State) (supply : Bool) : List Nat :=
  (List.finRange 8).map (fun o => (s.effRecord o).band.toNat) ++
  [match s.cfg.active.battery with | some b => if supply then b.bs else b.bc | none => 0]

/-- Net grants from the parts (03 R86), each in 100 W, rounded down; the battery's is signed. A held step whose part had to be reduced
is abandoned (14 R357). -/
def State.setGrants (demand supply : Nat) (p : Parts) (s : State) : State :=
  let d := reduceParts demand p.d (reduceOrder (s.bands false))
  let u := reduceParts supply p.s (reduceOrder (s.bands true))
  let net : Nat → Int := fun k => ((nth d k 0 : Nat) : Int) - (nth u k 0 : Nat)
  let t := s.modAlc fun a =>
    { a with impGrant := Vector.ofFn fun o => (net o.val).toNat / 100, expGrant := Vector.ofFn fun o => (-(net o.val)).toNat / 100,
             batGrant := (net 8).tdiv 100 }
  let cut := decide (nth d 8 0 < nth p.d 8 0) || decide (nth u 8 0 < nth p.s 8 0)
  (if cut then t.heldAbort else t).batGrantSet ((net 8).tdiv 100)

/-- Shares of a round from a valid DOWN (03 R85). -/
def State.applyDown (d : Down) (s : State) : State :=
  match s.alc.built with
  | none => s
  | some b =>
    let lam := d.res.lam.toNat
    let f := d.res.f.toNat
    let dem0 := interpW b.d false lam f d.res.full
    let dem := if s.alc.upHolding then min dem0 (100 * s.alc.holdBound) else dem0
    let sup := interpW b.s true lam f d.res.full
    let t := s.modAlc fun a =>
      { a with share := dem, supplyShare := sup, round := d.round, lam := d.res.lam, full := d.res.full, f := d.res.f, shed := d.shed,
               budget := d.res.budget, holdReserve := d.res.holdReserve }
    (if !d.res.full && d.res.lam == 63 then t.raise .alc 4 else t).setGrants dem sup (State.partsAt b lam f d.res.full)

/-- The split of the share in RAMP, FALLBACK and DIVERGENT (07 R183). -/
def State.fallbackSplit (s : State) : State :=
  let t := s.needCurves s.round
  match t.alc.built with
  | none => t
  | some b =>
    let zero : Vector Nat 64 := .replicate 64 0
    let (lam, f, full) := searchR82 b.d zero (t.alc.share / 100) 0
    let p := State.partsAt { b with outS := .replicate 8 zero, batS := zero } lam f full
    t.setGrants t.alc.share 0 p

/-- A step of the ramp, and the split of what it leaves. -/
def State.rampApply (s : State) : State :=
  let n := s.rampStep
  let moved := n != s.alc.share || s.alc.supplyShare != 0
  (s.modAlc fun a => { a with share := n, supplyShare := 0, round := if moved then s.round else a.round }).fallbackSplit

/-- A DOWN with HOLD set, or one of a round for which no UP was sent, keeps every share (03 R85, R88). -/
def State.keepsShares (s : State) (d : Down) : Bool := d.hold || s.alc.upSentRound != some d.round

/-- The machine acts (03 R88). A valid DOWN with HOLD set whose pair differs makes the controller divergent and takes the first ramp step, as
the table says, although the text lets HOLD keep every share. DESIGN CHOICE (log entry 156). -/
def State.alcAct (s : State) : State :=
  let n := s.round
  let (st, k) := match s.alc.eval with
    | some (r, x) => if r = n then x else s.nextAlc
    | none => s.nextAlc
  let old := s.alc.st
  let t := s.modAlc fun a =>
    { a with st := st, missCount := k, eval := none, cntMiss := if s.downNow.isNone then satInc a.cntMiss else a.cntMiss,
             holdDown := match s.downNow with | some d => d.hold | none => a.holdDown,
             crewCurtail := match s.downNow with | some d => d.curtail | none => a.crewCurtail }
  let t := if st = old then t else match st with
    | .miss => t.raise .alc 0 | .hold => t.raise .alc 1 | .ramp => t.raise .alc 2 | .divergent => t.raise .alc 3 | _ => t
  let t := if st = .divergent && old ≠ .divergent then
      t.forAll fun (o : Outlet) u => u.modOut o fun x => { x with fixedSession := some (if x.st.inSession then x.session else 0) }
    else if st ≠ .divergent then t.forAll fun (o : Outlet) u => u.modOut o fun x => { x with fixedSession := none }
    else t
  match st with
  | .normal => match t.downNow with
    | some d => if t.keepsShares d then t else t.applyDown d
    | none => t
  | .ramp | .fallback | .divergent => t.rampApply
  | _ => t

/-- Q_p of the ports on which the round's DOWN was forwarded (03 R76); a HOLD DOWN keeps the subtree's shares. -/
def State.noteShares (s : State) : State :=
  s.forAll fun (p : Port) t =>
    let x := t.alc.child.get p
    if !x.forwarded then t
    else match t.downNow with
      | some d =>
        let q := (interpW (x.lastD.map BitVec.toNat) false d.res.lam.toNat d.res.f.toNat d.res.full + 99) / 100
        t.modChild p fun x => { x with forwarded := false, q := if d.hold then x.q else q }
      | none => t.modChild p fun x => { x with forwarded := false }

/-- The clamps of the new limits: written to the shadows, armed for the apply instant and transferred at it (06 R155, R157). A session
that an unplug ends keeps its codes at 0. Where a phase was lost in the tick in progress, the pending clamp, which m before gives, and the one
in force since the loss both bound the clamp (06 R170). -/
def State.applyClamps (s : State) : State :=
  let t := s.forAll fun (o : Outlet) t =>
    let x := t.out.get o
    if (x.st = .energy || x.st = .stopping) && (t.reg.start.get o).st = .run && x.unplugAt.isNone then
      let t1 := t.limitTick o
      (t1.group o).foldl (fun u n =>
        let i := (t1.out.get o).ilim
        u.modRegCh n fun c =>
          let k := match x.loss with
            | some (j, m) =>
              if j = t1.lne.tick then BitVec.ofNat 12 (min (t1.clampFor o n i m).toNat c.inForce.toNat) else t1.clampFor o n i (t1.mOf o)
            | none => t1.clampFor o n i (t1.mOf o)
          { c with shadow := k, shadowSet := true }) t1
    else t
  (t.modReg fun r => { r with applyTime := BitVec.ofNat 64 (s.roundStart + 150000), armed := true }).transferClamps false

/-- Reversal of a bidirectional session (07 R193): the opposite sign at 2 consecutive apply instants, 100 ms after the last one. -/
def State.reversalCheck (o : Outlet) (s : State) : State :=
  let x := s.out.get o
  if x.st ≠ .energy || (s.effRecord o).mode ≠ 3 then s
  else
    let imp := s.alc.impGrant.get o
    let exp := s.alc.expGrant.get o
    let opp := if x.exporting then decide (0 < imp) else decide (0 < exp)
    let run := if opp then x.oppositeRun + 1 else 0
    let due := match x.revAt with | some t => decide (t + ms 100 ≤ s.clk.cycle) | none => true
    if 2 ≤ run && due && !x.rev then
      s.modOut o fun x => { x with oppositeRun := 0, rev := true, revSince := s.clk.cycle, rampFrom := x.ilim }
    else s.modOut o fun x => { x with oppositeRun := run }

/-- Caps whose round was computed with them, and those whose 80th round has passed (03 R87). -/
def State.capsDone (s : State) : State :=
  let n := s.round
  let hit : CapWait → Bool := fun w => match s.downNow with | some d => !d.hold && w.upRound == some n && s.alc.upSentRound == some n | none => false
  let late : CapWait → Bool := fun w => decide (w.latchRound + 80 ≤ n)
  let done := s.alc.capWait.filter fun w => hit w || late w
  let t := s.modAlc fun a => { a with capWait := a.capWait.filter fun w => !(hit w || late w) }
  done.foldl (fun u w =>
    let res := match w.outlet with | some o => (u.out.get o).result | none => 0
    u.complete w.ring w.seq (if hit w then 0 else 1) res) t

/-- APPLY_INSTANT at T + 150 µs. A controller that is not admitted keeps its shares, and every grant record is written. -/
def execApplyInstant (s : State) : Host.Outcome State Fault Refusal :=
  s.live fun s => (
    if !s.pwr.controlReady then s
    else
      let t := (s.runToOffset 150000).alcSync
      let t1 := if t.admitted then (t.noteShares).alcAct else t
      let t2 := ((t1.heldCheck).heldStart).forAll fun (o : Outlet) u => u.reversalCheck o
      let t3 := (t2.applyClamps).capsDone
      (t3.forAll fun (o : Outlet) u => if u.hasOutlet o then u.writeGrant o else u).siteEval)

/-! ### CURTAIL and the descriptors (03 R81, R97, R98) -/

/-- The CURTAIL pins are sampled at the next CLK_TICK edge; the level 2 × CURTAIL1 + CURTAIL0 changes after two equal samples in succession. -/
def State.curtailSampled (c1 c0 : Bool) (s : State) : State :=
  let level : BitVec 2 := BitVec.ofBool c1 ++ BitVec.ofBool c0
  let t := (s.runTo ((s.clk.cycle / us 1 + 1) * us 1)).modAlc fun a => { a with curtailSample := level }
  if level = s.alc.curtailSample && level != s.alc.curtail then (t.modAlc fun a => { a with curtail := level }).raise .alc 16 else t

/-- CURTAIL_CHANGE: samples of the pins CURTAIL1 and CURTAIL0 at CLK_TICK edges in succession. -/
def execCurtailChange (samples : List (Bool × Bool)) (s : State) : Host.Outcome State Fault Refusal :=
  s.live fun s => samples.foldl (fun t x => t.curtailSampled x.1 x.2) s

/-- ALC_SET_CAP is never refused. -/
def execAlcSetCap (r : Ring) (d : Desc) (s : State) : Host.Outcome State Fault Refusal :=
  .next (s.work r d fun t =>
    t.modAlc fun a => { a with cap := d.w 24, capWait := a.capWait ++ [⟨r, d.seq, t.round, none, none, false⟩] })

/-- ALC_DRILL (03 R97): at the Stroke, at least 16 rounds ahead, with Bow and Umpire in service, no activation announced beside it. A
controller Umpire is in service while it is an admitted member; a host Umpire, of which the device sees nothing, always. DESIGN CHOICE (log
entry 160). -/
def State.refDrill (s : State) (d : Nat) : Bool :=
  s.rgt.role != .stroke || decide (d < s.round + 16) || s.alc.bow.isNone ||
  (match s.alc.bow with | some b => !s.crewMembers.contains b | none => true) ||
  (match s.cfg.active.umpire with | .none => true | .host => false | .ctrl u => !s.crewMembers.contains u) ||
  (match s.cfg.actRound with | some a => decide (d ≤ a + 1) && decide (a ≤ d + 1) | none => false)

/-- ALC_DRILL: the round is announced; the descriptor completes at the end of the drill. -/
def execAlcDrill (r : Ring) (d : Desc) (s : State) : Host.Outcome State Fault Refusal :=
  .next (s.work r d fun t =>
    let t1 := match t.alc.drillWait with | some w => t.complete w.1 w.2 0 0 | none => t
    t1.modAlc fun a => { a with drillRound := some (d.q 24).toNat, drillWait := some (r, d.seq) })

/-- ALC_TAKEOVER is refused where this is not the Bow, or the Umpire is a controller. -/
def State.refTakeover (s : State) : Bool := s.rgt.role != .bow || s.cfg.active.umpire != .host

/-- ALC_TAKEOVER: as if named for the first round that starts at least 100 µs after acceptance (03 R96). -/
def execAlcTakeover (r : Ring) (d : Desc) (s : State) : Host.Outcome State Fault Refusal :=
  .next (s.work r d fun t =>
    (t.modAlc fun a => { a with named := some (ceilDiv (t.acceptedAt r d.seq + 100000) Config.roundNs) }).complete r d.seq 0 0)

/-- ALC_ROLE_RESTORE is accepted at the controller in Stroke role, where the named Stroke is admitted and the round lies at least 16 ahead. -/
def State.refRoleRestore (s : State) (n : Nat) : Bool :=
  s.rgt.role != .stroke || !s.crewMembers.contains s.cfg.active.stroke || decide (n < s.round + 16)

/-- ALC_ROLE_RESTORE: the round is announced as a drill round is; it completes when the role passes. -/
def execAlcRoleRestore (r : Ring) (d : Desc) (s : State) : Host.Outcome State Fault Refusal :=
  .next (s.work r d fun t =>
    let n := (d.q 24).toNat
    let t1 := match t.alc.restore with | some (_, a, b) => t.complete a b 0 0 | none => t
    t1.modAlc fun a => { a with restore := some (n, r, d.seq), drillRound := if a.strokeByBow then some n else a.drillRound })

/-- ALC_HOLD_CLEAR names a port with a substitution. -/
def State.refHoldClear (s : State) (p : Port) : Bool := (s.alc.child.get p).sub == 0 && (s.alc.child.get p).k == 0

/-- ALC_HOLD_CLEAR: the substitution ends with the first round whose send time is at least 20 µs after acceptance (03 R78). -/
def execAlcHoldClear (r : Ring) (d : Desc) (s : State) : Host.Outcome State Fault Refusal :=
  .next (s.work r d fun t =>
    let p : Port := Fin.ofNat 4 d.target.toNat
    let send := if t.isRoot then 80000 else t.upOffset
    let n := ceilDiv (t.acceptedAt r d.seq + 20000 - send) Config.roundNs
    (t.modChild p fun x => { x with endRound := some n }).complete r d.seq 0 0)

end Sys2Proof.Machine
end

