-- ==== Sys2Proof/Machine/Billing.lean ====
section
/-! DEFINITION. Billing and the legal domain: demand intervals, tariffs, cycles, clock steps, sessions and receipts, the one order of an
instant, power failure and outages, exports, displays, tamper inputs (13). -/
namespace Sys2Proof.Machine

/-- The schedule that the legal domain has adopted. -/
def State.legalTariff (s : State) : TariffCfg := tariffCfg s.cfg.legal

/-- Wall time at a fleet time. -/
def State.wallAt (s : State) (t : Nat) : Int := utcOf s.cfg.legal s.rgt.taiCorr t

/-- The next demand-interval boundary: in wall time, and the fleet time at which it comes (13 R320, R327). -/
def State.nextBoundary (s : State) : Int := boundaryAfter s.legalTariff s.bil.core.last
def State.nextBoundaryFleet (s : State) : Nat := fleetOfUtc s.cfg.legal s.rgt.taiCorr s.nextBoundary

/-! ### Demand intervals (13 R320-R323) -/

/-- Demand in W of an energy in mWh over a duration in ns, truncated. -/
def demandW (e dur : Nat) : Nat := e * 3600000000 / dur

/-- A demand enters a maximum; ties keep the earlier one (R322). -/
def MaxDem.enter (m : MaxDem) (imp exp t : Nat) : MaxDem :=
  { imp := max m.imp imp, impTime := if m.imp < imp then t else m.impTime,
    exp := max m.exp exp, expTime := if m.exp < exp then t else m.expTime }

/-- Sum of a field over records. -/
def recSum (l : List IntervalRec) (f : IntervalRec → Nat) : Nat := (l.map f).foldl (· + ·) 0

/-- The maxima after a record: its own demand in block mode, the mean of the window in sliding mode (R322). -/
def maxAfter (t : TariffCfg) (c : BilCore) (r : IntervalRec) (stop : Nat) : Vector MaxDem 8 × List IntervalRec :=
  let ix : Fin 8 := Fin.ofNat 8 (r.tariff - 1)
  if t.sliding then
    let n := t.len / t.sub
    let win := if bitsOf r.flags 0 3 != 0 then [] else (r :: c.slide).take n
    if decide (win.length = n) && win.all (fun x => x.tariff == r.tariff) then
      (vmod c.md ix fun m => m.enter (recSum win (·.impDem) / n) (recSum win (·.expDem) / n) stop, win)
    else (c.md, win)
  else if bitsOf r.flags 0 2 == 0 || decide (t.len * 60000000000 ≤ 2 * (stop - r.start)) then
    (vmod c.md ix fun m => m.enter r.impDem r.expDem stop, [])
  else (c.md, [])

/-- The demand of the record that closes. A record flagged SHORT or BACKSTEP that lasted no time has an energy divided by 0, for which the
manual states no demand: a free value (log entry 4). -/
def State.recDemand (s : State) (stop : Nat) (e : Nat) : Nat :=
  let c := s.bil.core
  if bitsOf c.openFlags 0 2 != 0 then
    (if stop - c.openStart = 0 then Config.freeNat s.free else demandW e (stop - c.openStart))
  else demandW e (spacing s.legalTariff).toNat

/-- The interval closes at a fleet time (R321, R322). -/
def State.closeInterval (t : Nat) (s : State) : State :=
  let c := s.bil.core
  let x : IntervalRec :=
    { seq := c.seq, start := c.openStart, stop := t, startWall := c.openWall, imp := c.openImp, exp := c.openExp,
      impDem := s.recDemand t c.openImp, expDem := s.recDemand t c.openExp, tariff := c.tariff, flags := c.openFlags }
  let (md, win) := maxAfter s.legalTariff c x t
  (((s.modBil fun b => { b with records := (x :: b.records).take 8192 }).modCore fun c =>
    { c with md := md, slide := win }).useFree).raise .bil 1

/-- A new interval opens: the billing sequence increases by 1 (R323); flags of R321. -/
def State.openInterval (t : Nat) (w : Int) (flags : BitVec 8) (s : State) : State :=
  s.modCore fun c =>
    { c with seq := c.seq + 1, openStart := t, openWall := w, openImp := 0, openExp := 0,
             openFlags := flags ||| (if s.thm.mramBlocked then 16 else 0) ||| (if c.dynamic then 32 else 0) }

/-- A billing cycle ends: its record; the maxima restart (R323). -/
def State.closeCycle (t : Nat) (s : State) : State :=
  let c := s.bil.core
  ((s.modBil fun b => { b with cycles := (⟨c.cycle, c.seq, t, c.outlets, c.grid, c.md⟩ :: b.cycles).take 24 }).modCore fun c =>
    { c with cycle := c.cycle + 1, md := zeroMd }).raise .bil 2

/-! ### Tariffs (13 R317-R319) -/

/-- An accepted `BIL_TARIFF_SET` that has not taken effect. -/
def tariffSlot (j : JSlot) : Bool :=
  j.desc.opcode == 0x0D01 && j.comp.isNone && (j.st == .accepted || j.st == .handed)

/-- Those of every ring, by rising not-before time. -/
def State.tariffSets (s : State) : List (Ring × Desc) :=
  ((List.finRange 64).flatMap fun r => ((s.dlv.slots.get r).filter tariffSlot).map fun j => (r, j.desc)).mergeSort
    fun a b => decide (a.2.notBefore.toNat ≤ b.2.notBefore.toNat)

/-- `PENDING`: the tariff of the earliest one. -/
def State.tariffPending (s : State) : BitVec 4 :=
  match s.tariffSets with | x :: _ => bitsOf (x.2.b 24) 0 4 | [] => 0

/-- The tariff changes; its event (R348). -/
def State.setTariff (n : Nat) (dynamic hold : Bool) (s : State) : State :=
  (s.modCore fun c => { c with tariff := n, dynamic := dynamic, hold := hold }).cond (n != s.bil.core.tariff) (·.raise .bil 0)

/-- The tariff from an instant on, by the schedule and a dynamic tariff already in force (R318, R319): a dynamic tariff without hold ends
when a scheduled switch takes effect. -/
def State.scheduleTariff (last w : Int) (s : State) : State :=
  let x := scheduled s.cfg.legal w
  if s.bil.core.dynamic && (s.bil.core.hold || !decide (last < x.1)) then s else s.setTariff x.2 false false

/-- The tariff at a boundary: the last dynamic switch that it is the boundary of governs (R319). -/
def State.boundaryTariff (t : Nat) (w : Int) (s : State) : State :=
  let sets := s.tariffSets.filter fun x => decide (x.2.notBefore.toNat ≤ t)
  let s1 := sets.foldl (fun u x => (u.takeUp x.1 x.2).completeAt x.1 x.2.seq 0 0 t) s
  match sets.getLast? with
  | none => s1.scheduleTariff s.bil.core.last w
  | some x =>
    if x.2.b 24 = 0 then s1.setTariff (scheduled s.cfg.legal w).2 false false
    else s1.setTariff (x.2.b 24).toNat true ((x.2.b 25).getLsbD 0)

/-- An interval end at its boundary: close, cycle end, tariff, open (R328). -/
def State.boundary (t : Nat) (w : Int) (flags : BitVec 8) (s : State) : State :=
  let s1 := (s.modCore fun c => { c with openFlags := c.openFlags ||| flags }).closeInterval t
  let s2 := s1.cond (cycleIn s.cfg.legal s.bil.core.lastCycle w) (·.closeCycle t)
  ((s2.boundaryTariff t w).modCore fun c => { c with last := w, lastCycle := max c.lastCycle w }).openInterval t w flags

/-! ### Receipts and session events (12 R304; 13 R332) -/

/-- What a session end gives: a receipt that waits for its signature. -/
def State.postReceipt (o : Outlet) (t : Nat) (reason : Byte) (s : State) : State :=
  let x := s.met.session.get o
  let c := s.bil.core
  let f : Half := x.flags ||| (if c.openFlags.getLsbD 1 then 4 else 0) ||| (if reason = 13 then 32 else 0)
  s.modBil fun b =>
    { b with nextReceipt := b.nextReceipt + 1,
             unsignedR := b.unsignedR ++ [⟨b.nextReceipt, o, { x with flags := f }, t, s.rgt.taiCorr, c.seq, s.outImp o, s.outExp o, b.legalVersion,
               s.cfg.legalEpoch, b.legalDigest, b.meterId, false⟩] }

/-- A session event is taken; the outlet's net has been closed. -/
def State.takeSignal (x : Outlet × Bool × Word × Nat × Byte) (s : State) : State :=
  let (o, start, id, t, reason) := x
  if start then
    s.modMet fun m =>
      { m with session := vmod m.session o fun _ =>
          { MetSession.none with
            id := id, running := true, start := t, tariff := s.bil.core.tariff, corr := s.rgt.taiCorr, seq := s.bil.core.seq,
            imp0 := s.outImp o, exp0 := s.outExp o, flags := if m.reversed.getLsbD o.val then 16 else 0 } }
  else
    (s.modMet fun m => { m with session := vmod m.session o fun y => { y with running := false } }).postReceipt o t reason

/-- Cause masks of a publication (12 R309). -/
def causeOf (second : Bool) (l : List (Outlet × Bool × Word × Nat × Byte)) : Word :=
  l.foldl (fun w x => w ||| bit 32 ((if x.2.1 then 8 else 16) + x.1.val)) (flagAt second 0)

/-! ### Receipt bytes (13 R332) -/

def le (n : Nat) (v : Nat) : List Byte := leBytes n v
def leI (v : Int) : List Byte := leBytes 8 (BitVec.ofInt 64 v).toNat

/-- Bytes of a field that the map holds as a number, first byte first. -/
def digestBytes (d : Digest) : List Byte := leBytes 32 d.toNat

/-- The key by which the receipts are signed (18 R429). -/
def State.receiptKey (s : State) : Digest := Config.receiptKey s.key.stateDigest

def Receipt.body (key : Digest) (r : Receipt) : List Byte :=
  let x := r.session
  le 4 0x524C4843 ++ le 2 1 ++ le 2 320 ++ le 16 r.meterId.toNat ++ le 1 r.outlet.val ++ le 1 x.tariff ++ le 2 x.flags.toNat ++
  le 4 x.id.toNat ++ le 4 r.number ++ le 4 0 ++ le 8 x.start ++ le 8 r.stop ++ leI x.corr ++ leI r.corr ++
  le 8 x.seq ++ le 8 r.seq ++ le 8 x.imp0 ++ le 8 x.exp0 ++ le 8 r.imp1 ++ le 8 r.exp1 ++
  x.impT.toList.flatMap (le 8 ·) ++ x.expT.toList.flatMap (le 8 ·) ++
  le 4 r.version.toNat ++ le 4 r.epoch.toNat ++ digestBytes r.digest ++ digestBytes key

/-- Signature bytes of an ML-DSA-65 signature over a message's digest. -/
def sigBytes (key : Digest) (m : List Byte) (n : Nat) : List Byte :=
  (List.range n).map (Config.sigByte key (digestBytes (Config.sha3 m)))

/-- The stored receipt: body, signature length, signature. -/
def Receipt.bytes (key : Digest) (r : Receipt) : List Byte :=
  let b := r.body key
  if r.signed then b ++ le 4 3309 ++ sigBytes key b 3309 else b ++ le 4 0

/-- The derivation tree signs: the base root is available and not zeroed (18 R429, R441). -/
def State.canSign (s : State) : Bool := s.key.rootOk && !s.key.zeroized

/-- RECEIPT_READY: the receipt is stored, unsigned where signing fails (R333); the newest 128 are kept (R334). `verified`: the legal store's
verification of the write (R348). -/
def execReceiptReady (number : Nat) (signed verified : Bool) (s : State) : Host.Outcome State Fault Refusal :=
  .next (if !s.bil.legalUp then s else match s.bil.unsignedR.find? fun x => x.number == number with
    | none => s
    | some x =>
      let ok := signed && s.canSign
      let full := decide (128 ≤ s.bil.receipts.length)
      let s1 := (s.withErr fun t => t.modBil fun b =>
        { b with unsignedR := b.unsignedR.filter fun y => y.number != number, receipts := ({ x with signed := ok } :: b.receipts).take 128,
                 errSign := b.errSign || !ok, errStore := b.errStore || !verified, cntOverwritten := if full then satInc b.cntOverwritten else b.cntOverwritten }).modKey fun k =>
          { k with cntSign := if ok then satInc k.cntSign else k.cntSign }
      (s1.raise .bil 6).cond full (·.raise .bil 7))

def State.receipt? (s : State) (number : Word) : Option Receipt := s.bil.receipts.find? fun x => x.number == number.toNat

/-- BIL_RECEIPT_FETCH is refused when the receipt is not held (R346). -/
def State.refReceipt (s : State) (d : Desc) : Bool := (s.receipt? (d.w 24)).isNone

/-- BIL_RECEIPT_FETCH: a stored receipt is copied into a page; the result holds its length. -/
def execBilReceiptFetch (r : Ring) (d : Desc) (s : State) : Host.Outcome State Fault Refusal :=
  .next (s.work r d fun t =>
    match t.receipt? (d.w 24) with
    | some x =>
      let b := x.bytes t.receiptKey
      (t.memWriteList ((pageOf (d.w 28)).val * 4096) b).complete r d.seq 0 (BitVec.ofNat 32 b.length)
    | none => t.complete r d.seq 0 0)

/-! ### Export (13 R343, R344) -/

def pairBytes (p : EnergyPair) : List Byte := le 8 p.imp ++ le 8 p.exp
def gridBytes (g : GridRegs) : List Byte := le 8 g.imp ++ le 8 g.exp ++ g.q.toList.flatMap (le 8 ·)
def mdBytes (m : MaxDem) : List Byte := le 4 m.imp ++ le 8 m.impTime ++ le 4 m.exp ++ le 8 m.expTime
def regBytes (o : Vector (Vector EnergyPair 8) 8) (g : Vector GridRegs 8) : List Byte :=
  o.toList.flatMap (fun v => v.toList.flatMap pairBytes) ++ g.toList.flatMap gridBytes

/-- An interval record of 64 bytes (R321). -/
def recBytes (x : IntervalRec) : List Byte :=
  le 8 x.seq ++ le 8 x.start ++ le 8 x.stop ++ leI x.startWall ++ le 8 x.imp ++ le 8 x.exp ++ le 4 x.impDem ++ le 4 x.expDem ++
  le 1 x.tariff ++ le 1 x.flags.toNat ++ le 6 0

def cycleBytes (x : CycleRec) : List Byte :=
  le 4 x.index.toNat ++ le 8 x.seq ++ le 8 x.time ++ regBytes x.outlets x.grid ++ x.md.toList.flatMap mdBytes

def stepBytes (x : StepRec) : List Byte := leI x.old ++ leI x.new ++ le 1 x.src.toNat

/-- The body: each kind in turn, oldest record first, preceded by its count. The manual fixes neither the width of the records that it gives
in words only nor their order within a kind. DESIGN CHOICE (log entry 17). -/
def State.exportBody (s : State) : List Byte :=
  let b := s.bil
  let c := b.core
  le 4 176 ++ regBytes c.outlets c.grid ++ le 4 8 ++ c.md.toList.flatMap mdBytes ++
  le 4 b.cycles.length ++ b.cycles.reverse.flatMap cycleBytes ++ le 4 b.records.length ++ b.records.reverse.flatMap recBytes ++
  le 4 b.receipts.length ++ b.receipts.reverse.flatMap (·.bytes s.receiptKey) ++
  le 4 9 ++ b.tamper.toList.flatMap (fun x => le 4 x.count.toNat ++ le 8 x.first ++ le 8 x.last) ++
  le 4 b.steps.length ++ b.steps.reverse.flatMap stepBytes

/-- Header, body, signature length and signature. -/
def State.exportBytes (t : Nat) (s : State) : List Byte :=
  let body := s.exportBody
  let m := le 4 0x584C4843 ++ le 2 1 ++ le 2 0 ++ le 16 s.bil.meterId.toNat ++ le 8 s.bil.core.seq ++ le 4 s.bil.core.cycle.toNat ++
    le 8 t ++ le 4 body.length ++ le 16 0 ++ body
  if s.canSign then m ++ le 4 3309 ++ sigBytes s.receiptKey m 3309 else m ++ le 4 0

/-- Length of an export, by the counts of its records. -/
def State.exportLength (s : State) : Nat :=
  64 + 4 * 7 + 1408 + 192 + s.bil.cycles.length * (20 + 1408 + 192) + s.bil.records.length * 64 +
  recLen s.bil.receipts + 9 * 20 + s.bil.steps.length * 17 + 4 + (if s.canSign then 3309 else 0)
where recLen (l : List Receipt) : Nat := (l.map fun x => if x.signed then 3633 else 324).foldl (· + ·) 0

/-- Pages that an export needs now. -/
def State.exportPages (s : State) : Nat := ceilDiv s.exportLength 4096

def State.refExport (s : State) : Bool := s.bil.exportRun.isSome

/-- BIL_EXPORT: it is carried out at the next net close. -/
def execBilExport (r : Ring) (d : Desc) (s : State) : Host.Outcome State Fault Refusal :=
  .next (s.work r d fun t => t.modBil fun b => { b with exportRun := some (r, d) })

/-- The export of a net-close instant. -/
def State.exportAt (t : Nat) (s : State) : State :=
  match s.bil.exportRun with
  | none => s
  | some (r, d) =>
    let s1 := s.writePages (s.listRefs (d.w 24) (d.w 28).toNat) (s.exportBytes t)
    (s1.modBil fun b => { b with exportRun := none, exported := some b.core.seq }).completeAt r d.seq 0 0 t

/-! ### Displays (13 R335-R338) -/

/-- The scroll list; without the section, outlet o on chain o / 4, position o mod 4 + 1, 5 s each (R335). -/
def State.scrollList (s : State) : List DisplayCfg :=
  s.cfg.legal.scroll.getD ((List.range s.glb.variant.outlets).map fun o => ⟨o / 4, o % 4 + 1, o, 5, []⟩)

/-- Item codes of a display in the order of its sequence (R336, R337). -/
def DispSt.codes (c : DisplayCfg) : List Nat :=
  (if c.subject = 16 then [3, 4, 5, 6, 7, 8, 9, 10, 11, 12, 13] else [1, 2, 3, 4, 9, 10, 11, 12, 13]) ++ c.items

/-- ASCII digits of a number. -/
def decDigits : Nat → Nat → List Byte
  | 0, _ => []
  | fuel + 1, n => (if n < 10 then [] else decDigits fuel (n / 10)) ++ [BitVec.ofNat 8 (48 + n % 10)]

/-- An energy in kWh or kvarh with three decimals, truncated from mWh or mvarh. -/
def kwhText (e : Nat) : List Byte :=
  let w := e / 1000
  decDigits 20 (w / 1000) ++ [46#8, BitVec.ofNat 8 (48 + w / 100 % 10), BitVec.ofNat 8 (48 + w / 10 % 10), BitVec.ofNat 8 (48 + w % 10)]

/-- Right-aligned in 32 characters. -/
def padText (l : List Byte) : List Byte := List.replicate (32 - l.length) 32#8 ++ l.drop (l.length - 32)

/-- Text of an item. The forms of dates, tariffs, demands, of the values of a second and the case of hexadecimal digits are left open: free
characters (log entry 4). -/
def State.itemText (s : State) (c : DisplayCfg) (code : Nat) : List Byte :=
  let o : Outlet := Fin.ofNat 8 c.subject
  let grid := c.subject == 16
  let x := s.met.session.get o
  let q := s.met.lastSec.get o
  let free := fun (v : Int) => (List.range 32).map (Config.itemText code v)
  let mean := fun (a d : Int) => if q.n = 0 then 0 else a.tdiv (q.n * d)
  let v := s.bil.legalVersion
  match code with
  | 1 => padText (kwhText x.imp) | 2 => padText (kwhText x.exp)
  | 3 => padText (kwhText (if grid then s.gridImp else s.outImp o))
  | 4 => padText (kwhText (if grid then s.gridExp else s.outExp o))
  | 9 => padText (le 16 s.bil.meterId.toNat)
  | 10 => padText (decDigits 5 (bitsOf v 24 8).toNat ++ [46#8] ++ decDigits 5 (bitsOf v 16 8).toNat ++ [46#8] ++ decDigits 6 (bitsOf v 0 16).toNat)
  | 11 => free (s.bil.legalDigest.toNat % 2 ^ 128) | 12 => free (s.bil.legalDigest.toNat / 2 ^ 128)
  | 13 => free s.bilError.toNat
  | _ =>
    if 5 ≤ code && code < 9 then padText (kwhText (s.gridQ (Fin.ofNat 4 (code - 5))))
    else if 0x20 ≤ code && code < 0x28 then
      padText (kwhText (let t := Fin.ofNat 8 (code - 0x20); if grid then (s.bil.core.grid.get t).imp else ((s.bil.core.outlets.get o).get t).imp))
    else if 0x28 ≤ code && code < 0x30 then
      padText (kwhText (let t := Fin.ofNat 8 (code - 0x28); if grid then (s.bil.core.grid.get t).exp else ((s.bil.core.outlets.get o).get t).exp))
    else if code = 0x30 then free s.bil.core.tariff
    else if code = 0x31 then free s.localTime
    else if code = 0x32 then free (mean q.v 1)
    else if code = 0x33 then free (mean q.i 1)
    else if code = 0x34 then free (mean q.p 1000000)
    else
      let m := s.bil.core.md.get (Fin.ofNat 8 (code - 0x35))
      free (m.imp * 2 ^ 64 + localOf s.cfg.legal s.rgt.taiCorr m.impTime)

/-- CRC-16 with polynomial 0x1021, initial value 0xFFFF (R338). -/
def crc16 (l : List Byte) : Half :=
  l.foldl (fun (c : Half) b =>
    (List.range 8).foldl (fun (c : Half) _ => if c.getLsbD 15 then (c <<< 1) ^^^ 0x1021#16 else c <<< 1)
      (c ^^^ ((b.setWidth 16 : Half) <<< 8))) 0xFFFF#16

/-- A request frame of 38 bytes (R338). -/
def State.frameOf (s : State) (c : DisplayCfg) (kind code : Nat) (text : List Byte) : List Byte :=
  let neg := if c.subject = 16 then s.met.lastNeg.getLsbD 8 else s.met.lastNeg.getLsbD c.subject
  let b := [BitVec.ofNat 8 c.pos, BitVec.ofNat 8 kind, BitVec.ofNat 8 code,
    (if s.bilError ≠ 0 then 1#8 else 0#8) ||| (if neg then 2#8 else 0#8)] ++ text
  b ++ le 2 (crc16 b).toNat

/-- Displays are driven while the legal domain runs, not in HOLD. -/
def State.dispSend (c : DisplayCfg) (kind code : Nat) (text : List Byte) (s : State) : State :=
  s.modBil fun b => { b with out := b.out ++ [⟨c.chain, s.frameOf c kind code text⟩] }

/-- The item being shown is sent. -/
def State.dispShow (k : Fin 8) (s : State) : State :=
  match (s.bil.disp.get k).entry with
  | none => s
  | some c => let code := nth (DispSt.codes c) (s.bil.disp.get k).item 0; s.dispSend c 1 code (s.itemText c code)

/-- A sequence starts: the scroll list in force is taken (R337). -/
def State.dispStart (k : Fin 8) (s : State) : State :=
  (s.modBil fun b =>
    { b with disp := vmod b.disp k fun x => { x with entry := s.scrollList[k.val]?, item := 0, since := s.clk.cycle } }).dispShow k

/-- DISPLAY_DWELL: the dwell of the item shown ends; the next item, or a new sequence. -/
def execDisplayDwell (o : Fin 8) (s : State) : Host.Outcome State Fault Refusal :=
  .next (
    if !s.legalOn then s
    else
      let x := s.bil.disp.get o
      match x.entry with
      | none => s.dispStart o
      | some c =>
        let s := s.runTo (x.since + sec c.dwell)
        if x.item + 1 < (DispSt.codes c).length then
          (s.modBil fun b => { b with disp := vmod b.disp o fun y => { y with item := y.item + 1, since := s.clk.cycle } }).dispShow o
        else s.dispStart o)

/-- Items are refreshed at each publication at a 1-second boundary (R337). -/
def State.dispRefresh (s : State) : State := s.forAll fun (k : Fin 8) t => t.dispShow k

/-- DISPLAY_POLL: once per second. -/
def execDisplayPoll (o : Fin 8) (s : State) : Host.Outcome State Fault Refusal :=
  .next (
    match s.legalOn, (s.bil.disp.get o).entry with
    | true, some c =>
      let s := s.runTo ((s.bil.disp.get o).lastPoll + sec 1)
      (s.modBil fun b =>
        { b with disp := vmod b.disp o fun x => { x with lastPoll := s.clk.cycle, waiting := some s.clk.cycle } }).dispSend c 2 0 (List.replicate 32 32#8)
    | _, _ => s)

/-- Bit of a display in `BIL_DISPLAY`. -/
def dispBit (c : DisplayCfg) : Byte := bit 8 (4 * c.chain + c.pos - 1)

/-- A valid healthy answer: the display's address, a status byte with bit 0 set, the check over the two. -/
def answerOk (c : DisplayCfg) (l : List Byte) : Bool :=
  match l with
  | [a, st, lo, hi] => a == BitVec.ofNat 8 c.pos && st.getLsbD 0 && hi ++ lo == crc16 [a, st]
  | _ => false

/-- DISPLAY_ANSWER: the bytes of an answer, or none by 10 ms. -/
def execDisplayAnswer (o : Fin 8) (bytes : List Byte) (s : State) : Host.Outcome State Fault Refusal :=
  .next (if !s.bil.legalUp then s else
    let x := s.bil.disp.get o
    match x.waiting, x.entry with
    | some w, some c =>
      if answerOk c bytes then
        s.modBil fun b =>
          { b with dispFaulty := b.dispFaulty &&& ~~~ dispBit c, disp := vmod b.disp o fun y => { y with waiting := none, missed := 0 } }
      else
        let s := s.runTo (w + ms 10)
        let s1 := s.modBil fun b => { b with disp := vmod b.disp o fun y => { y with waiting := none, missed := y.missed + 1 } }
        if 3 ≤ x.missed + 1 && (s.bil.dispFaulty &&& dispBit c) = 0 then
          ((s1.withErr fun t => t.modBil fun b => { b with dispFaulty := b.dispFaulty ||| dispBit c })).raise .bil 10
        else s1
    | _, _ => s)

/-! ### One instant (13 R328; 12 R303, R304, R312) -/

/-- A 1-second boundary's own work: the sums of the second become the last closed second's, its conditions; the real-time clock is set
(20 R465). -/
def State.secondWork (s : State) : State :=
  (s.modMet fun m => { m with lastSec := m.sums, sums := .replicate 8 .zero, second := m.second + 1 }).revSecond

/-- At a 1-second boundary the legal domain adopts the legal-facing sections of an active epoch that differs from its own (01 R20, R525;
12 R312): a change of UTC above the limit is a clock step (13 R324); new tariffs apply from the next boundary. -/
def State.adoptLegal (s : State) : State :=
  if s.cfg.legalEpoch = s.cfg.active.pair.epoch then s
  else
    let s1 := s.modCfg fun c => { c with legal := c.active, legalEpoch := c.active.pair.epoch }
    let step := decide (stepLimitNs s1.legalTariff < (s1.wall - s.wall).natAbs)
    let s2 := s1.noteStep 3 s.wall (stepLimitNs s1.legalTariff)
    let s3 := if step then s2
      else s2.modCore fun c => { c with last := if decide (c.last < s1.wall) then max c.last (boundaryAt s1.legalTariff s1.wall) else c.last }
    s3.setShifts.raise .cfg 7

/-- The legal domain's acts at an instant, in the order of R328. -/
def State.instant (t : Nat) (second interval : Bool) (sig : List (Outlet × Bool × Word × Nat × Byte)) (s : State) : State :=
  let s1 := if second || interval then s.closeNets else sig.foldl (fun u x => u.closeOutlet x.1) s
  let s2 := s1.cond interval fun u => u.boundary t u.nextBoundary 0
  let s3 := (s2.modMet fun m => { m with signals := m.signals.filter fun x => !sig.contains x })
  let s4 := sig.foldl (fun u x => u.takeSignal x) s3
  let s5 := s4.cond second fun u => u.secondWork.adoptLegal
  let s6 := s5.publish (causeOf second sig) t
  let s7 := s6.cond (second || interval) (·.exportAt t)
  s7.cond second fun u => u.tamperFlush.darkRestore.dispRefresh

/-- An instant that has been processed is not processed again (R328): its mark holds while the clock shows it. -/
def consumedAt (mark : Option Nat) (now : Nat) : Bool :=
  match mark with | some t => decide (t ≤ now) && decide (now ≤ t + 3) | none => false

/-- Session events signalled at or before an instant and not yet taken. -/
def State.signalsAt (t : Nat) (s : State) : List (Outlet × Bool × Word × Nat × Byte) :=
  s.met.signals.filter fun x => decide (x.2.2.2.1 = t)

/-- SECOND_BOUNDARY: the next whole second of fleet time, with an interval end and session events of the same instant. -/
def execSecondBoundary (s : State) : Host.Outcome State Fault Refusal :=
  .next (
    let t := ((if s.legalOn then s.met.second else s.now / Config.secondNs) + 1) * Config.secondNs
    if consumedAt s.met.doneAt s.now then s.modMet fun m => { m with doneAt := none }
    else
      let s0 := s.runToFleet t
      let s1 := s0.cond (s0.pwr.mode == .run || s0.pwr.mode == .idle) (·.modClk fun c => { c with rtcFix := c.fleetFix })
      if !s1.legalOn then s1
      else
        let i := decide (s1.nextBoundaryFleet = t)
        (s1.instant t true i (s1.signalsAt t)).cond i (·.modBil fun b => { b with doneAt := some t }))

/-- The next interval end, with a whole second and session events of the same instant. -/
def State.intervalInstant (s : State) : State :=
  let t := s.nextBoundaryFleet
  let s1 := s.runToFleet t
  let sc := decide ((s1.met.second + 1) * Config.secondNs = t)
  (s1.instant t sc true (s1.signalsAt t)).cond sc (·.modMet fun m => { m with doneAt := some t })

/-- INTERVAL_END. -/
def execIntervalEnd (s : State) : Host.Outcome State Fault Refusal :=
  .next (
    if consumedAt s.bil.doneAt s.now then s.modBil fun b => { b with doneAt := none }
    else if !s.legalOn then s
    else s.intervalInstant)

/-- SESSION_EVENT: the session events of one instant are taken together (12 R312), with a whole second at that instant. -/
def execSessionEvent (o : Outlet) (start : Bool) (s : State) : Host.Outcome State Fault Refusal :=
  .next (match s.legalOn, s.met.signals.find? (fun x => x.1 == o && x.2.1 == start) with
    | true, some x =>
      let t := x.2.2.2.1
      let sc := decide ((s.met.second + 1) * Config.secondNs = t)
      let i := decide (s.nextBoundaryFleet = t)
      ((s.instant t sc i (s.signalsAt t)).cond sc (·.modMet fun m => { m with doneAt := some t })).cond i
        (·.modBil fun b => { b with doneAt := some t })
    | _, _ => s)

/-! ### Tariffs by command (13 R319, R346) -/

/-- A time is a demand-interval boundary under the conversion in force. -/
def State.isBoundary (t : Nat) (s : State) : Bool :=
  (s.wallAt t).fmod (spacing s.legalTariff) == 0

/-- REFUSED_MALFORMED: not a boundary, or more than n tariffs. -/
def State.badTariff (s : State) (d : Desc) : Bool :=
  !s.isBoundary d.notBefore.toNat || decide (s.legalTariff.count < (d.b 24).toNat)

/-- REFUSED_STATE: dynamic tariffs not permitted, or less than 1 s ahead. -/
def State.refTariff (s : State) (d : Desc) : Bool :=
  !s.legalTariff.dynamicOk || decide (d.notBefore.toNat < s.now + Config.secondNs)

/-- BIL_TARIFF_SET takes up and acts at its boundary: the interval end that it names, with every cause of it. -/
def execBilTariffSet (r : Ring) (d : Desc) (s : State) : Host.Outcome State Fault Refusal :=
  .next (
    if s.legalOn && s.tariffSets.contains (r, d) && decide (d.notBefore.toNat ≤ s.nextBoundaryFleet) then
      let t := s.nextBoundaryFleet
      s.intervalInstant.modBil fun b => { b with doneAt := some t }
    else s)

/-! ### Clock steps (13 R324-R327) -/

/-- The clock step at its instant, R325 with R326 and R327; nets are closed. -/
def State.clockStepAt (x : StepRec) (t : Nat) (s : State) : State :=
  let c := s.bil.core
  let tc := s.legalTariff
  let s1 := (s.modCore fun c => { c with openFlags := c.openFlags ||| 1 }).closeInterval t
  let reached := boundaryAt tc x.new
  let across := decide (c.last < reached)
  let s2 := s1.cond (across && cyclesIn s.cfg.legal c.lastCycle reached) (·.closeCycle t)
  let s3 := ((s2.modBil fun b =>
    { b with steps := x :: b.steps, stepOld := BitVec.ofInt 64 x.old, stepNew := BitVec.ofInt 64 x.new, stepSrc := x.src }).tamperEvent 4 t).modMet fun m =>
      { m with session := vmapIdx m.session fun _ y => if y.running then { y with flags := y.flags ||| 8 } else y }
  let s4 := (s3.raise .bil 3).journal 17 0x47 0 ((x.old.fdiv sNs).toNat % 2 ^ 32) ((x.new.fdiv sNs).toNat % 2 ^ 32) 3
  let s5 := if across then
      (s4.scheduleTariff c.last reached).modCore fun c => { c with last := reached, lastCycle := max c.lastCycle reached }
    else s4
  let back := decide (x.new ≤ c.last)
  (s5.cond (back && !c.openFlags.getLsbD 1) (·.raise .bil 4)).openInterval t x.new (if back then 3 else 1)

/-- CLOCK_STEP: the legal domain acts on a step; a boundary of the same instant has come first (R328). -/
def execClockStep (s : State) : Host.Outcome State Fault Refusal :=
  .next (match s.legalOn, s.bil.stepPend with
    | true, x :: rest =>
      let t := s.now
      let s1 := (s.modBil fun b => { b with stepPend := rest }).closeNets
      ((s1.clockStepAt x t).publish 0 t).exportAt t
    | _, _ => s)

/-- `BIL_BSTEP_B`: B during a BACKSTEP period. -/
def State.bstepB (s : State) : DWord := if s.bil.core.openFlags.getLsbD 1 then BitVec.ofInt 64 s.bil.core.last else 0

/-! ### Power failure (13 R329, R331) -/

/-- The commit record goes into the older slot; while MRAM writes are forbidden it stays in always-on SRAM (R329). -/
def State.commit (t : Nat) (s : State) : State :=
  s.cond (!s.thm.mramBlocked) (·.modBil fun b => { b with commits := ((t, b.core) :: b.commits).take 2 })

/-- A warning, or a clock fault, at an instant: boundaries of the instant first, then the commit (R328, R329). -/
def State.legalWarning (s : State) : State :=
  if !s.legalOn then s
  else
    let t := s.now
    let due := fun (x : Nat) => decide (x ≤ t) && decide (t ≤ x + 3)
    let sc := due ((s.met.second + 1) * Config.secondNs)
    let i := due s.nextBoundaryFleet
    let s1 := if sc || i then s.instant t sc i (s.signalsAt t) else s.closeNets.publish 0 t
    s1.commit t

/-- Boundaries of an outage, each at its own instant, by fuel (R331): with records for the first and the last 8,191, without records between
them. `n` counts the interval ends still ahead. -/
def State.outageRun (upTo : Nat) : Nat → Nat → Bool → State → State
  | 0, _, _, s => s
  | fuel + 1, n, first, s =>
    let t := s.nextBoundaryFleet
    if upTo < t then s
    else
      let s1 := if first || decide (n ≤ 8191) then s.boundary t s.nextBoundary 4
        else
          let held := s.bil.records
          (s.boundary t s.nextBoundary 4).modBil fun b => { b with records := held }
      outageRun upTo fuel (n - 1) false s1

/-- The legal domain's state at a restore: always-on SRAM, or else the newest commit slot whose check is right (`slots`, bit 0 the newest); the
last committed registers where neither is valid (R331; log entry 169). The outage is processed up to now; the first net runs from here. What a warning's commit has not posted is not posted;
without a warning the open nets of always-on SRAM stand. -/
def State.legalRestore (aonOk : Bool) (slots : BitVec 2) (warned : Bool) (s : State) : State :=
  let good := ((s.bil.commits.zip [0, 1]).filter fun x => slots.getLsbD x.2).map fun x => x.1.2
  let s1 := if aonOk then s
    else match good, s.bil.commits with
      | c :: _, _ => s.modBil fun b => { b with core := c }
      | [], l => s.withErr fun t => t.modBil fun b => { b with errCommitLost := true, core := match l with | x :: _ => x.2 | [] => b.core }
  let keep := aonOk && !warned
  let s2 := s1.modMet fun m =>
    { m with accOut := if keep then m.accOut else .replicate 8 0, accP := if keep then m.accP else 0, accQ := if keep then m.accQ else 0,
             netFault := if keep then m.netFault else 0, sums := .replicate 8 .zero, second := s.now / Config.secondNs,
             session := vmapIdx m.session fun _ x => if x.running then { x with flags := x.flags ||| 2 } else x }
  let n := (((s2.wall - s2.bil.core.last).fdiv (spacing s2.legalTariff))).toNat
  (s2.outageRun s.now (n + 2) n true).raise .bil 5

/-- The very first start of the legal domain: an interval opens at the start, under the scheduled tariff. -/
def State.legalFirst (s : State) : State :=
  let w := s.wall
  ((s.modMet fun m => { m with second := s.now / Config.secondNs }).modCore fun c =>
    { c with tariff := (scheduled s.cfg.legal w).2, last := boundaryAt s.legalTariff w, lastCycle := w }).openInterval s.now w 0

/-! ### Tamper inputs (13 R339) -/

/-- The time in ns for which an input must be low: cover and seal 10 ms, magnetic field 1 s. -/
def tamperNs (y : Fin 3) : Nat := if y = 2 then Config.secondNs else 10000000

/-- Whether the type of an input counts again. -/
def State.armTamper (y : Fin 3) (on : Bool) (s : State) : State :=
  s.modBil fun b => { b with tamperArm := if on then b.tamperArm ||| bit 3 y.val else b.tamperArm &&& ~~~ bit 3 y.val }

/-- TAMPER: a meter input has been low, or high, for `held` ns; low for its time it gives one event, and counts again after 10 ms high.
Watched in RUN, IDLE and HOLD. -/
def execTamper (y : Fin 3) (low : Bool) (held : Nat) (s : State) : Host.Outcome State Fault Refusal :=
  .next (
    if s.pwr.mode = .ship then s
    else if low then
      if tamperNs y ≤ held && s.bil.tamperArm.getLsbD y.val then (s.armTamper y false).tamperEvent ⟨y.val, by omega⟩ s.now else s
    else if 10000000 ≤ held then s.armTamper y true else s)

end Sys2Proof.Machine
end

