-- ==== Sys2Proof/Machine/Lanes.lean ====
section
/-! DEFINITION. Control lanes, Cox, takeover: the comparison and the referee, the verdict, restarts and resynchronisation, the lane-swap
drill (11). -/
namespace Sys2Proof.Machine

/-! ### The input frame and the gated writes (11 R272, R274) -/

/-- The code of a phase's current rating in the present voltages (06 R157). -/
def State.ratingCode (s : State) (n : Phase) : BitVec 12 :=
  match s.phaseCfg n with
  | none => 0
  | some c =>
    let r := s.reg.ch.get n
    let v := match s.holder n with | some o => s.vout o | none => 0
    peakCode c s.cfg.active.hdr.period r.slope.toNat s.vbus v r.dir c.rating 1

/-- The items of the input frame that Cox judges by. -/
def State.laneFrame (s : State) : LaneFrame :=
  { matched := outletBits fun o => (s.reg.start.get o).st == .matched, permit := outletBits fun o => s.saf.permit.get o,
    seo := outletBits s.seoOut, rated := Vector.ofFn s.rated, featherImp := Vector.ofFn fun o => s.featherCurrent o false,
    featherExp := Vector.ofFn fun o => s.featherCurrent o true, code := Vector.ofFn s.ratingCode }

/-- A gated write lands (11 R274). -/
def State.landGated (s : State) : GatedWrite → State
  | .drives o => s.passClose o
  | .matrix k n => s.passMtx k n
  | .start mask => s.pwmStartMask mask
  | .regEn n => s.passRegEn n

/-- The gated writes held are discarded; they are released. -/
def State.discardGated (s : State) : State := s.modLne fun l => { l with held := [] }
def State.releaseGated (s : State) : State := s.lne.held.foldl State.landGated s.discardGated

/-- A contactor or matrix close. -/
def GatedWrite.isClose : GatedWrite → Bool
  | .drives _ | .matrix _ _ => true
  | .start _ | .regEn _ => false

/-- With `COX_DEAD` they are released without comparison, except closes, which are discarded (11 R283). -/
def State.releaseUnchecked (s : State) : State := (s.lne.held.filter fun w => !w.isClose).foldl State.landGated s.discardGated

/-- The clamps of the running groups are written again and armed for the next apply instant (11 R281; 06 R155). -/
def State.refreshClamps (s : State) : State :=
  let due := let r := s.roundStart + 150000; if s.now ≤ r then r else r + Config.roundNs
  (s.forAll fun (n : Phase) t =>
    if (t.pwm.ch.get n).running then t.modRegCh n fun c => { c with shadow := if c.shadowSet then c.shadow else c.inForce, shadowSet := true } else t).modReg
    fun r => { r with applyTime := BitVec.ofNat 64 due, armed := true }

/-- In the first tick that it drives, the named lane rewrites every output it holds (11 R281): contactor and matrix closes, group
starts, shadow sets with a commit, clamps with their arming, grant records. -/
def State.refreshOutputs (s : State) : State :=
  let s1 := s.forAll fun (o : Outlet) t =>
    let st := (t.out.get o).st
    let t1 := if st = .closing || st = .energy || st = .stopping then t.laneClose o else t
    let run := match (t1.reg.start.get o).st with | .off | .fault | .pause => false | _ => true
    let t2 := if run && (t1.group o).any (fun n => !(t1.pwm.ch.get n).running) then t1.startGroup o
      else if (t1.group o).any (fun n => (t1.pwm.ch.get n).running) then t1.interleave o else t1
    if t2.hasOutlet o then t2.writeGrant o else t2
  s1.refreshClamps.forAll fun (n : Phase) t =>
    match t.mtx.move.get n with
    | some v => if v.step = 4 then (match t.mtxFind n v.dst with | some (k, _) => t.mtxClose k n | none => t) else t
    | none => match t.mtx.assigned.get n with
      | some o => (match t.mtxFind n o with | some (k, _) => t.mtxClose k n | none => t)
      | none => t

/-! ### Lane states (11 R284) -/

/-- Lane 0 is A, lane 1 is B. -/
def laneOf (b : Bool) : Fin 2 := if b then 1 else 0

def State.laneIn (s : State) (l : Fin 2) : Bool := s.lne.state.get l == .inStep

/-- The core group of a lane. -/
def laneGroup (l : Fin 2) : CoreGroup := if l = 0 then .laneA else .laneB

/-- A lane enters RESTARTING. -/
def State.restartLane (l : Fin 2) (s : State) : State :=
  (s.sramClear (laneGroup l)).modLne fun x =>
    { x with state := vmod x.state l fun _ => .restarting, restarts := vmod x.restarts l satInc, since := vmod x.since l fun _ => s.clk.cycle,
             restartTimes := vmod x.restartTimes l fun t => s.clk.cycle :: t }

/-- A lane in RESYNC loses its source (11 R284). -/
def State.abandonResync (s : State) : State :=
  s.forAll fun (l : Fin 2) t => if t.lne.state.get l = .resync then t.restartLane l else t

/-- Pending clamps at a takeover: those at or above the clamp in force are discarded (06 R156). -/
def State.takeoverClamps (s : State) : State :=
  s.forAll fun (n : Phase) t =>
    let c := t.reg.ch.get n
    if c.shadowSet && c.inForce.toNat ≤ c.shadow.toNat then (t.modRegCh n fun c => { c with shadowSet := false }).raise (.reg n) 6 else t

/-- The named lane drives (11 R281); the other one restarts where the verdict found it faulty. -/
def State.takeOver (s : State) : State :=
  match s.lne.nextDriving with
  | none => s
  | some b =>
    let bad := laneOf !b
    let faulty := s.lne.last == 1 || s.lne.last == 2 || s.lne.last == 5
    let changed := b != s.lne.driving
    let s1 := s.modLne fun x => { x with nextDriving := none, driving := b, takeoverFlag := x.takeoverFlag || changed }
    let s2 := if changed then (s1.pwmDiscard).takeoverClamps else s1
    if faulty && s2.laneIn bad then s2.restartLane bad else s2

/-- A new driving lane is named for the next tick. -/
def State.nameLane (b : Bool) (s : State) : State :=
  let s1 := s.modLne fun x => { x with nextDriving := some b }
  if b = s.lne.driving then s1 else (s1.modLne fun x => { x with cntTakeover := satInc x.cntTakeover }).raise .lne 1

/-- LANE_TAKEOVER: at the start of tick k + 1. -/
def execLaneTakeover (s : State) : Host.Outcome State Fault Refusal :=
  s.live fun s => (if s.lne.nextDriving.isSome then (s.runToFleet (s.nextTick * Config.tickNs)).takeOver else s)

/-! ### The referee (11 R275-R282) -/

/-- The digest over writes, each as BAR0 offset, then data (11 R275, R276). -/
def writeDigest (l : List (Word × Word)) : DWord := crc64 (l.flatMap fun w => leBytes 4 w.1.toNat ++ leBytes 4 w.2.toNat)

/-- The 28 words of a tick record; its digests are those that the lane's output port computes (11 R273, R275, R276). -/
def tickRecWords (r : TickRec) : Vector Word 28 :=
  let wd := writeDigest r.writes
  let sd := crc64 r.region
  let clamp := fun (k : Fin 12) =>
    fieldAt (r.clamps.get ⟨2 * k.val, by omega⟩) 0 ||| fieldAt (r.clamps.get ⟨2 * k.val + 1, by omega⟩) 16
  #v[lo32 r.tick, hi32 r.tick, fieldAt r.lane 0 ||| fieldAt r.flags 8 ||| natAt (min r.writes.length 65535) 16 16, 0,
    lo32 wd, hi32 wd, lo32 sd, hi32 sd] ++ r.outlets ++ Vector.ofFn clamp

/-- Fields of a tick record. -/
def recTick (w : Vector Word 28) : Nat := (w.get 0).toNat + 2 ^ 32 * (w.get 1).toNat
def recLane (w : Vector Word 28) : Nat := (bitsOf (w.get 2) 0 8).toNat
def recDigest (w : Vector Word 28) : DWord := w.get 5 ++ w.get 4
def recOut (w : Vector Word 28) (o : Outlet) : Word := w.get ⟨8 + o.val, by have := o.isLt; omega⟩
def recClamp (w : Vector Word 28) (n : Phase) : Half := bitsOf (w.get ⟨16 + n.val / 2, by have := n.isLt; omega⟩) (16 * (n.val % 2)) 16

/-- The records are equal byte for byte but for the lane they name. -/
def recsEqual (a b : Vector Word 28) : Bool :=
  (List.finRange 28).all fun k => if k = 2 then a.get k >>> 8 == b.get k >>> 8 else a.get k == b.get k

/-- Pairs of states that a row of 07 R184 joins. -/
def sessionRow (p r : Nat) : Bool :=
  [(0, 1), (1, 2), (2, 3), (10, 3), (2, 1), (10, 1), (1, 0), (2, 0), (10, 0), (3, 4), (4, 5), (4, 10), (3, 10), (3, 1), (4, 1), (5, 6),
   (6, 7), (5, 7), (6, 8), (7, 8), (8, 9), (9, 10), (11, 1), (11, 2)].contains (p, r) || (r == 11 && p != 0 && p != 11)

/-- The cause that the referee finds in an outlet's subset: 3 limit, 4 invariant, 5 recomputation, 0 none (11 R279). -/
def State.refereeOutlet (s : State) (w : Vector Word 28) (o : Outlet) : Nat :=
  let f := s.lne.frame
  let r := recOut w o
  let p := recOut s.lne.agreed o
  let st := (bitsOf r 0 4).toNat
  let was := (bitsOf p 0 4).toNat
  let close := r.getLsbD 4 || r.getLsbD 5
  let closed := p.getLsbD 4 || p.getLsbD 5
  let exp := r.getLsbD 6
  let lim := min (s.maxCurrent o exp) (min (f.rated.get o) (if exp then f.featherExp.get o else f.featherImp.get o))
  if st ≠ was && !sessionRow was st then 4
  else if close && !(st == 5 || st == 6 || st == 7) then 4
  else if close && !closed && !(was == 4 && st == 5 && f.matched.getLsbD o.val && f.permit.getLsbD o.val && !f.seo.getLsbD o.val) then 5
  else if lim < (bitsOf r 16 16).toNat then 3
  else 0

/-- The first cause found in a lane's record: 1 seal, 2 path, then the outlets in order, then the clamps (11 R279). -/
def State.referee (s : State) (l : Fin 2) (w : Option (Vector Word 28)) (landing : DWord) : Nat :=
  match w with
  | none => 1
  | some w =>
    if recTick w ≠ s.lne.tick || recLane w ≠ l.val then 1
    else if l = laneOf s.lne.driving && landing != recDigest w then 2
    else
      match ((List.finRange 8).map fun o => s.refereeOutlet w o).find? (· != 0) with
      | some c => c
      | none =>
        if (List.finRange 24).any fun n => (s.phaseCfg n).isSome && decide ((s.lne.frame.code.get n).toNat < (bitsOf (recClamp w n) 0 12).toNat)
        then 3 else 0

/-- Cox is undecided, or the only lane in step fails (11 R282). -/
def State.coxStop (s : State) : State :=
  ((s.modLne fun x =>
    { x with stopped := true, stopAll := true, stoppedAt := s.clk.cycle, last := 3, cause := 0, verdictTick := x.tick }).raise .lne 2).abandonResync

/-- The drill ends (11 R286): its result holds the driving lane, its fleet time of effect is the start of tick d. -/
def State.drillEnd (pass : Bool) (drives : Bool) (s : State) : State :=
  let s1 := (s.modLne fun x => { x with drill := none, drillLeft := 0, last := if pass then 4 else 5 }).raise .lne (if pass then 6 else 7)
  match s.lne.drill with
  | some (r, q, _) => s1.completeAt r q (if pass then 0 else 1) (if drives then 1 else 0) s.lne.drillStart
  | none => s1

/-- A match: gated writes are released, the record is upheld; a drill counts the tick. -/
def State.tickMatch (w : Vector Word 28) (s : State) : State :=
  let s1 := s.releaseGated.modLne fun x => { x with agreed := w, drillLeft := x.drillLeft - 1 }
  if s.lne.drillLeft = 1 then s1.drillEnd true s1.lne.driving else s1

/-- A verdict names the lane that is not bad (11 R280). -/
def State.verdict (bad : Fin 2) (cause : Nat) (w : Option (Vector Word 28)) (s : State) : State :=
  let good := bad == 0
  let s1 := (s.modLne fun x =>
    { x with last := if bad = 0 then 1 else 2, cause := BitVec.ofNat 4 cause, verdictTick := x.tick,
             agreed := w.getD x.agreed }).nameLane good
  if s.lne.drillLeft = 0 then s1 else s1.drillEnd false good

/-- The words of a sealed record, zeros for none. -/
def recWords (w : Option (Vector Word 28)) : Vector Word 28 := w.getD (.replicate 28 0)

/-- Both lanes have sealed records of this tick, equal, and the driving lane's write digest is the landing digest (11 R277). -/
def State.recsAgree (s : State) (a b : Option (Vector Word 28)) (landing : DWord) : Bool :=
  match a, b with
  | some x, some y => recsEqual x y && recTick x == s.lne.tick && landing == recDigest (if s.lne.driving then y else x)
  | _, _ => false

/-- A mismatch with both lanes in step (11 R275, R279, R280, R282). -/
def State.tickMismatch (a b : Option (Vector Word 28)) (landing : DWord) (s : State) : State :=
  let s1 := (s.modLne fun x => { x with cntMismatch := satInc x.cntMismatch, record := #v[recWords a, recWords b] }).raise .lne 0
  let ca := s1.referee 0 a landing
  let cb := s1.referee 1 b landing
  let s2 := s1.discardGated
  if ca ≠ 0 && cb = 0 then s2.verdict 0 ca b
  else if ca = 0 && cb ≠ 0 then s2.verdict 1 cb a
  else if s2.lne.drillLeft = 0 then s2.coxStop else s2.coxStop.drillEnd false s2.coxStop.lne.driving

/-- The comparison of a tick: with both lanes in step their records, with one lane in step the driving lane's alone. -/
def State.compareTick (a b : Option (Vector Word 28)) (landing : DWord) (s : State) : State :=
  if s.lne.stopped then s
  else if s.laneIn 0 && s.laneIn 1 then
    if s.recsAgree a b landing then s.tickMatch (recWords a) else s.tickMismatch a b landing
  else
    let w := if s.lne.driving then b else a
    if s.referee (laneOf s.lne.driving) w landing = 0 then s.tickMatch (recWords w) else s.discardGated.coxStop

/-- Cox is kicked (11 R283). -/
def State.kickCox (s : State) : State := s.modLne fun x => { x with lastKick := s.clk.cycle }

/-- TICK_COMPARE at t + 15 µs: what each lane has sealed by then (none: late), and the writes that arrived from the driving lane (11 R276, R277). -/
def execTickCompare (a b : Option TickRec) (landed : List (Word × Word)) (s : State) : Host.Outcome State Fault Refusal :=
  s.live fun s => (
    if !s.pwr.controlReady || !s.lne.ticked || s.lne.coxDead then s
    else (s.runToFleet (s.lne.tick * Config.tickNs + 15000)).kickCox.compareTick (a.map tickRecWords) (b.map tickRecWords) (writeDigest landed))

/-! ### Stopping (11 R282, R283) -/

/-- TOKEN_GATE_STOP: every outlet has stopped, or 20 ms have passed since `STOPPED` or `COX_DEAD`. -/
def execTokenGateStop (s : State) : Host.Outcome State Fault Refusal :=
  s.live fun s => (
    if !(s.lne.stopped || s.lne.coxDead) || s.lne.tokenStopped then s
    else
      let t := if s.allStopped && !s.lne.coxDead then s else s.runTo (s.lne.stoppedAt + ms 20)
      t.modLne fun x => { x with tokenStopped := true })

/-- COX_DEAD: no kick for 100 µs. -/
def execCoxDead (s : State) : Host.Outcome State Fault Refusal :=
  s.live fun s => (
    if !s.pwr.controlReady || s.lne.coxDead then s
    else
      let t := (s.runTo (s.lne.lastKick + us 100)).releaseUnchecked
      (t.modLne fun x => { x with coxDead := true, stopAll := true, stoppedAt := if x.stopped then x.stoppedAt else t.clk.cycle }).raise .lne 5)

/-! ### Restart and resynchronisation (11 R284, R285) -/

/-- A lane is DEAD. -/
def State.laneDead (l : Fin 2) (s : State) : State := (s.modLne fun x => { x with state := vmod x.state l fun _ => .dead }).raise .lne 4

/-- RESTART_COMPLETE: with a self-test that passed, RESYNC with a snapshot at the next tick that starts, or DEAD at the third restart
within 1 s. -/
def execRestartComplete (lane : Fin 2) (ok : Bool) (s : State) : Host.Outcome State Fault Refusal :=
  s.live fun s => (
    if s.lne.state.get lane ≠ .restarting || !ok then s
    else if 3 ≤ ((s.lne.restartTimes.get lane).filter fun t => decide (s.clk.cycle < t + sec 1)).length then s.laneDead lane
    else s.modLne fun x => { x with state := vmod x.state lane fun _ => .resync, since := vmod x.since lane fun _ => s.nextTick })

/-- RESTART_TIMEOUT: 10 ms in RESTARTING. -/
def execRestartTimeout (lane : Fin 2) (s : State) : Host.Outcome State Fault Refusal :=
  s.live fun s => (if s.lne.state.get lane = .restarting then (s.runTo (s.lne.since.get lane + ms 10)).laneDead lane else s)

/-- RESYNCED: the driving lane's state region has been copied by the end of the snapshot's tick, and the lane runs in step from the next one. -/
def execResynced (lane : Fin 2) (s : State) : Host.Outcome State Fault Refusal :=
  s.live fun s => (
    if s.lne.state.get lane ≠ .resync then s
    else
      (((s.runToFleet ((s.lne.since.get lane + 1) * Config.tickNs)).sramCopy (laneGroup (laneOf s.lne.driving)) (laneGroup lane)).modLne fun x =>
        { x with state := vmod x.state lane fun _ => .inStep, resyncFlag := true }).raise .lne 3)

/-! ### Descriptors (11 R286, R289) -/

/-- DRILL_TICK: at the first tick from the not-before time with both lanes in step the standby lane drives; after 1 s without such a tick
the drill completes with detail 1 (11 R286, R288). -/
def execDrillTick (s : State) : Host.Outcome State Fault Refusal :=
  s.live fun s => (match s.lne.drill with
    | none => s
    | some (_, _, due) =>
      if s.lne.drillLeft ≠ 0 || !s.pwr.controlReady then s
      else
        let t := (s.runTo due).runToFleet ((s.runTo due).nextTick * Config.tickNs)
        if t.laneIn 0 && t.laneIn 1 then
          ((((t.modLne fun x => { x with last := 0 }).nameLane !t.lne.driving).takeOver).modLne fun x =>
            { x with last := t.lne.last, drillLeft := 8, drillStart := t.now, cntDrill := satInc x.cntDrill })
        else if due + sec 1 ≤ t.clk.cycle then (t.modLne fun x => { x with drillStart := t.now }).drillEnd false t.lne.driving
        else t)

/-- LNE_SWAP_DRILL is refused with a drill pending or a lane DEAD; LNE_LANE_RESTORE where the lane is not DEAD or `STOPPED` is set. -/
def State.refSwapDrill (s : State) : Bool := s.lne.drill.isSome || s.lne.state.get 0 == .dead || s.lne.state.get 1 == .dead
def State.refLaneRestore (s : State) (l : Fin 2) : Bool := s.lne.state.get l != .dead || s.lne.stopped

/-- LNE_SWAP_DRILL, taken up at its not-before time. -/
def execLneSwapDrill (r : Ring) (d : Desc) (s : State) : Host.Outcome State Fault Refusal :=
  .next (s.work r d fun t =>
    if t.lne.drill.isSome then t.complete r d.seq 1 (if t.lne.driving then 1 else 0)
    else t.modLne fun x => { x with drill := some (r, d.seq, t.clk.cycle) })

/-- LNE_LANE_RESTORE. -/
def execLneLaneRestore (r : Ring) (d : Desc) (s : State) : Host.Outcome State Fault Refusal :=
  .next (s.work r d fun t =>
    let l : Fin 2 := Fin.ofNat 2 (d.b 24).toNat
    let t1 := if t.refLaneRestore l then t
      else (t.modLne fun x => { x with restartTimes := vmod x.restartTimes l fun _ => [] }).restartLane l
    t1.complete r d.seq 0 0)

end Sys2Proof.Machine
end

