-- ==== Sys2Proof/Machine/LifeCycle.lean ====
section
/-! DEFINITION. Life cycle and firmware: authorisations, transitions, the maker port, images, measured boot, policies (19); BIL_ERASE
(13 R344). -/
namespace Sys2Proof.Machine

/-! ### The identity in force (18 R429) -/

/-- The digest of the state public key for the state, n_t and form of eff in force. -/
def State.refreshIdentity (s : State) : State :=
  s.modKey fun k =>
    { k with birthDigest := Config.birthDigest k.root,
             stateDigest := Config.stateDigest k.root s.lcs.st.code s.lcs.nt (if k.mixed then some s.lcs.meas else none) }

/-! ### Authorisations (19 R447) -/

/-- The body of an authorisation. -/
structure Auth where
  magic : Nat
  format : Nat
  kind : Nat
  target : Nat
  serial : Nat
  nt : Nat
  state : Nat
  signer : Nat
  param : Nat
  nonce : Nat
deriving DecidableEq, Repr

/-- A little-endian number of bytes. -/
def leNat (l : List Byte) : Nat := l.foldr (fun b n => b.toNat + 256 * n) 0

def field (l : List Byte) (off n : Nat) : Nat := leNat ((l.drop off).take n)

def authOf (l : List Byte) : Auth :=
  ⟨field l 0 4, field l 4 2, field l 6 1, field l 7 1, field l 8 16, field l 24 4, field l 28 1, field l 29 1, field l 30 2, field l 32 32⟩

/-- Every field but nonce and signature matches the state in force, for an authorisation of a kind. -/
def State.authFields (s : State) (kind : Nat) (a : Auth) : Bool :=
  a.magic == 0x414C4843 && a.format == 1 && a.kind == kind && (kind == 1 || a.target == 0) && a.serial == Config.serial.toNat &&
  a.nt == s.lcs.nt && a.state == s.lcs.st.code && (a.signer == 0 || a.signer == 3 || a.signer == 4) &&
  (a.param == 44 || a.param == 65 || a.param == 87) && (a.signer == 0 || (s.anchor a.signer).isSome)

/-- The nonce is the newest one, issued less than 600 s ago and not used. -/
def State.nonceOk (s : State) (a : Auth) : Bool :=
  a.nonce == s.lcs.nonce.toNat && (match s.lcs.nonceAt with | some t => decide (s.now < t + 600 * Config.secondNs) | none => false)

/-- A verification uses up the nonce that it names. -/
def State.useNonce (a : Auth) (s : State) : State :=
  if a.nonce = s.lcs.nonce.toNat then s.modLcs fun l => { l with nonceAt := none } else s

/-- A failed authorisation is counted. -/
def State.authFailed (s : State) : State := (s.modLcs fun l => { l with cntAuthFail := satInc l.cntAuthFail }).raise .lcs 1

/-! ### Transitions (19 R446-R449; 18 R437) -/

def lcOfCode (n : Nat) : Option LcState :=
  match n with | 0 => some .maker | 1 => some .integr | 2 => some .service | 3 => some .ret | 4 => some .scrap | _ => none

/-- Every outlet is in OFF. -/
def State.allOff (s : State) : Bool := (List.finRange 8).all fun o => !s.hasOutlet o || (s.out.get o).st == .off

/-- The digest of an anchor is held in a valid OTP slot whose mask includes a state. -/
def State.otpHolds (s : State) (g : Digest) (st : LcState) : Bool :=
  (List.finRange 16).any fun i =>
    let o := s.key.otp.get i
    o.programmed && !o.void && o.kind == 4 && holdsDigest o.data g && o.stateMask.getLsbD st.code

/-- R448. -/
def State.serviceOk (s : State) : Bool :=
  ([1, 2, 4].all fun r => match s.anchor r with | some a => s.otpHolds a.digest .service | none => false) &&
  ([1, 2, 3, 4, 5].all fun k => let g := s.lcs.img.get (Fin.ofNat 6 k); g.running.valid && !g.trial) &&
  s.bil.legalUp && s.allOff

/-- A transition of R446 by a signer. -/
def State.transitionOk (s : State) (target : LcState) (signer : Nat) : Bool :=
  (decide (s.lcs.nt < 31) || target == .scrap || (target == .service && s.lcs.st == .service)) &&
  match s.lcs.st, target with
  | .maker, .integr => signer == 0 && s.key.birthCert
  | .maker, .scrap | .ret, .scrap => signer == 0
  | .ret, .integr => signer == 0 && s.bil.erased
  | .integr, .service => signer == 4 && s.serviceOk
  | .integr, .scrap => signer == 4 || signer == 3
  | .service, .ret => signer == 4 && !s.lcs.returnPending
  | .service, .service => signer == 4 && s.lcs.returnPending
  | _, _ => false

/-- The authorisation page of an LCS_TRANSITION is accepted (R446, R447). -/
def State.transitionAuth (s : State) (d : Desc) (sigOk : Bool) : Bool :=
  let a := authOf (s.pageBytes (d.w 40) 64)
  s.authFields 1 a && s.nonceOk a && sigOk && (match lcOfCode a.target with | some t => s.transitionOk t a.signer | none => false)

/-- SERVICE entry in the legal domain: the store is zeroed, sequence and receipt number restart, the seal is written (R448). The running
interval goes on under the new numbers. -/
def State.sealLegal (meter : BitVec 128) (s : State) : State :=
  let c := s.bil.core
  let img := (s.lcs.img.get 4).running
  (s.modBil fun b =>
    { b with core := { BilCore.cold with tariff := c.tariff, dynamic := c.dynamic, hold := c.hold, seq := 1, openStart := s.now, openWall := s.wall,
                                         openFlags := c.openFlags, last := c.last, lastCycle := c.lastCycle },
             nextReceipt := 1, receipts := [], records := [], cycles := [], steps := [], tamper := .replicate 9 ⟨0, 0, 0⟩, sealedF := true,
             erased := false, meterId := meter, legalVersion := img.version, legalDigest := img.header }).modCfg fun c =>
    { c with calSeal := c.legal.laneCal }

/-- What the caddy does with the keys at a transition: steps 3 and 4 of R437; with the enrolment of a new root on the way from RETURN to
INTEGRATE (R446). -/
def State.transitionKeys (enrol : Bool) (s : State) : State :=
  let st := s.lcs.st
  let s0 := s.cond enrol (·.modKey fun k => { k with root := k.root + 1, zeroized := false, rootOk := true })
  let voids := (List.finRange 16).any fun i => let o := s.key.otp.get i; o.programmed && !o.void && !o.stateMask.getLsbD st.code
  let s1 := (s0.modKey fun k =>
    { k with slots := [], legacy := 0, legacyKey := [], queues := .replicate 4 [],
             otp := vmapIdx k.otp fun _ o => { o with void := o.void || (o.programmed && !o.stateMask.getLsbD st.code) },
             mixed := if st = .integr || st = .service then k.mixed else true }).cond voids (·.raise .key 5)
  let s2 := s1.modKey fun k =>
    { k with anchors := vmapIdx k.anchors fun _ a => a.bind fun x =>
        match (List.finRange 16).find? fun i => let o := k.otp.get i; o.programmed && !o.void && o.kind == 4 && holdsDigest o.data x.digest with
        | some i => some { x with slot := i.val }
        | none => none }
  let s3 := s2.refreshIdentity
  s3.cond s3.rootServes fun t =>
    (t.modKey fun k => { k with cert := some (st.code, t.lcs.nt, t.now), cntSign := satInc k.cntSign }).raise .key 4

/-- Slot commands accepted before a transition and not yet taken up complete without effect (18 R442). -/
def State.dropKeyWork (s : State) : State :=
  s.forAll fun (r : Ring) t =>
    (t.dlv.slots.get r).foldl (fun u j =>
      if bitsOf j.desc.opcode 8 8 = 0x12 && j.comp.isNone && !j.tookUp then
        (u.completeAt r j.seq 0xFFFE 0 u.now).modRingF (ringFn r) fun f => { f with interrupted := true }
      else u) t

/-- The transition instant of R437. The legal channels keep the sealed calibration in SERVICE and RETURN (04 R120). -/
def State.transition (target : LcState) (meter : BitVec 128) (s : State) : State :=
  let enrol := s.glb.variant == .a8t && s.lcs.st == .ret && target == .integr && s.key.zeroized
  let s1 := (s.cond (target == .service) (·.sealLegal meter)).modLcs fun l =>
    { l with st := target, nt := l.nt + 1, returnPending := false, eraseDue := l.eraseDue || target == .ret, portOpen := false, lock := false,
             policy := none, portAuth := [] }
  let frozen := target == .service || target == .ret
  let s1 := s1.modCfg fun c => { c with calFrozen := frozen, calSeal := if frozen then c.calSeal else .replicate 24 none }
  ((s1.transitionKeys enrol).dropKeyWork).raise .lcs 0

/-- LCS_TRANSITION: a transition; toward RETURN it waits for the erase; toward SERVICE it cancels a pending RETURN, whose descriptor then
completes with the state in force. -/
def execLcsTransition (r : Ring) (d : Desc) (s : State) : Host.Outcome State Fault Refusal :=
  .next (s.work r d fun t =>
    let a := authOf (t.pageBytes (d.w 40) 64)
    match t.lcs.st, lcOfCode a.target with
    | .service, some .ret => t.modLcs fun l => { l with returnPending := true, returnWait := some (r, d.seq) }
    | .service, some .service =>
      let t1 := match t.lcs.returnWait with | some w => t.complete w.1 w.2 0 2 | none => t
      (t1.modLcs fun l => { l with returnPending := false, returnWait := none }).complete r d.seq 0 2
    | _, some st => (t.transition st (bitsOf d.payload 0 128)).complete r d.seq 0 (BitVec.ofNat 32 st.code)
    | _, none => t.complete r d.seq 0 (BitVec.ofNat 32 t.lcs.st.code))

/-- BIL_ERASE is refused unless RETURN is pending, no session is in progress, and an export has completed since which nothing has been posted
(13 R344). -/
def State.refErase (s : State) : Bool :=
  !(s.lcs.returnPending && s.bil.exported == some s.bil.core.seq && (List.finRange 8).all fun o => !(s.out.get o).st.inSession && !(s.met.session.get o).running)

/-- The erase: the legal store, the always-on billing state and the seal. The calibration that applies in RETURN is then the zeroed seal's: no
entry, gain 1.0 and zero offset. DEDUCED (log entry 166). -/
def State.eraseLegal (s : State) : State :=
  (s.modBil fun b =>
    { Bil.cold with
      legalUp := b.legalUp, erased := true, errNoTime := b.errNoTime, dispFaulty := b.dispFaulty, disp := b.disp, out := b.out,
      core := { BilCore.cold with openStart := s.now, openWall := s.wall, last := b.core.last, lastCycle := b.core.lastCycle } }).modCfg fun c =>
    { c with calSeal := .replicate 24 none }

/-- BIL_ERASE; the RETURN transition follows. -/
def execBilErase (r : Ring) (d : Desc) (s : State) : Host.Outcome State Fault Refusal :=
  .next (s.work r d fun t =>
    let t1 := t.eraseLegal.complete r d.seq 0 0
    if !t1.lcs.returnPending then t1
    else
      let t2 := t1.transition .ret 0
      match t1.lcs.returnWait with
      | some w => (t2.complete w.1 w.2 0 3).modLcs fun l => { l with returnWait := none }
      | none => t2)

/-! ### The maker port (19 R450, R451) -/

/-- The port opens: the opening authorisation is measured as if it were an image. -/
def State.openPort (auth : List Byte) (s : State) : State :=
  ((s.modLcs fun l => { l with portOpen := true, portOpened := true, meas := Config.measure l.meas 0 0 (Config.sha3 auth) }).modKey fun k =>
    { k with mixed := true }).refreshIdentity.raise .lcs 2

/-- An authorisation of kind 2 for the state in force: of role 3 in INTEGRATE, of Paistud elsewhere. -/
def State.portAuthOk (s : State) (auth : List Byte) (sigOk : Bool) : Bool :=
  let a := authOf auth
  s.lcs.st != .service && s.lcs.st != .scrap && s.authFields 2 a && s.nonceOk a && sigOk &&
  (if s.lcs.st = .integr then a.signer == 3 else a.signer == 0)

/-- LCS_PORT_OPEN. -/
def execLcsPortOpen (r : Ring) (d : Desc) (s : State) : Host.Outcome State Fault Refusal :=
  .next (s.work r d fun t => (t.openPort (t.pageBytes (d.w 28) 64)).complete r d.seq 0 0)

def State.refPortClose (s : State) : Bool := !s.lcs.portOpen

/-- LCS_PORT_CLOSE. -/
def execLcsPortClose (r : Ring) (d : Desc) (s : State) : Host.Outcome State Fault Refusal :=
  .next (s.work r d fun t => (t.modLcs fun l => { l with portOpen := false }).complete r d.seq 0 0)

/-- LCS_PORT_AUTH_WRITE: the inspection channel appends 4 bytes; once as many have come as the signature length field gives, the
authorisation is evaluated (22 R504). `sigOk` is the signature's verdict. Any other master writes a locked setup register (R462). -/
def execLcsPortAuthWrite (m : Master) (w : Word) (sigOk : Bool) (s : State) : Host.Outcome State Fault Refusal :=
  s.live fun s => (
    if m ≠ .port then s.guardedWrite m s.pwr.mgmtReady true false 0x70200 id
    else if s.lcs.st = .scrap then s
    else
      let l := s.lcs.portAuth ++ leBytes 4 w.toNat
      if l.length < 68 || decide (l.length < 68 + field l 64 4) then s.modLcs fun x => { x with portAuth := l }
      else
        let auth := l.take 64
        let s1 := (s.modLcs fun x => { x with portAuth := [] })
        if s.portAuthOk auth sigOk then (s1.useNonce (authOf auth)).openPort auth else (s1.useNonce (authOf auth)).authFailed)

/-! ### Challenges, policies, lock (19 R447, R458, R459) -/

def State.refScrap (s : State) : Bool := s.lcs.st == .scrap

/-- LCS_CHALLENGE: a new nonce, a free value (log entry 4). -/
def execLcsChallenge (r : Ring) (d : Desc) (s : State) : Host.Outcome State Fault Refusal :=
  .next (s.work r d fun t =>
    let n : Digest := BitVec.ofNat 256 (Config.freeNat t.free)
    let t1 := t.useFree.modLcs fun l => { l with nonce := n, nonceAt := some t.now }
    (t1.writePages [d.w 28] (leBytes 32 n.toNat ++ leBytes 16 Config.serial.toNat ++ leBytes 4 t.lcs.nt ++ leBytes 1 t.lcs.st.code ++
      leBytes 11 0)).complete r d.seq 0 64)

/-- A management policy is acceptable: signed by the owner anchor, its nonce field permissions and zeros. -/
def State.policyOk (s : State) (auth : List Byte) (sigOk : Bool) : Bool :=
  let a := authOf auth
  s.authFields 3 a && a.signer == 4 && sigOk && field auth 36 28 == 0

/-- LCS_POLICY_SET; its effect is its acceptance. -/
def execLcsPolicySet (r : Ring) (d : Desc) (s : State) : Host.Outcome State Fault Refusal :=
  .next (s.work r d fun t =>
    (t.modLcs fun l => { l with policy := some (BitVec.ofNat 4 (field (t.pageBytes (d.w 28) 64) 32 4)) }).completeAt r d.seq 0 0 (t.acceptedAt r d.seq))

def State.refLock (s : State) : Bool := s.lcs.lock

/-- LCS_LOCK. -/
def execLcsLock (r : Ring) (d : Desc) (s : State) : Host.Outcome State Fault Refusal :=
  .next (s.work r d fun t => (t.modLcs fun l => { l with lock := true }).complete r d.seq 0 0)

/-! ### Images (19 R452-R457) -/

def kindIx (b : Byte) : Fin 6 := Fin.ofNat 6 b.toNat

def ImgKind.slot (g : ImgKind) (b : Bool) : ImgSlot := if b then g.b else g.a
def ImgKind.put (g : ImgKind) (b : Bool) (x : ImgSlot) : ImgKind := if b then { g with b := x } else { g with a := x }

def State.modImg (k : Fin 6) (f : ImgKind → ImgKind) (s : State) : State := s.modLcs fun l => { l with img := vmod l.img k f }

/-- An image as its header gives it. -/
def imgOf (h : List Byte) : ImgSlot :=
  ⟨false, BitVec.ofNat 32 (field h 8 4), BitVec.ofNat 6 (field h 7 1), BitVec.ofNat 3 (field h 16 2), Config.sha3 (h.take 128),
    BitVec.ofNat 256 (field h 32 32)⟩

/-- The fields of a header, but for digest and key (R452). -/
def headerOk (k : Fin 6) (len : Nat) (h : List Byte) : Bool :=
  field h 0 4 == 0x494C4843 && field h 4 2 == 1 && field h 6 1 == k.val && decide (field h 7 1 ≤ 63) &&
  decide (field h 12 4 ≤ (if k.val = 2 then 1572864 else 786432)) && decide (field h 12 4 + 132 ≤ len) &&
  field h 16 2 % 8 != 0 && (field h 18 2 == 44 || field h 18 2 == 65 || field h 18 2 == 87)

/-- The body has the digest that the header gives (R452). -/
def bodyOk (bytes : List Byte) : Bool := Config.sha3 ((bytes.drop 128).take (field bytes 12 4)) == BitVec.ofNat 256 (field bytes 32 32)

/-- The signing key that an image names: the anchor of role 2 for the integrator's, an anchor of Paistud for the others (R452). -/
def State.imageKeyOk (s : State) (k : Fin 6) (g : Digest) : Bool :=
  if k = 5 then (match s.anchor 2 with | some a => a.digest == g | none => false) else Config.paistudAnchor g

/-- R457, and the slot that runs. -/
def State.refImageKind (s : State) (k : Fin 6) (write : Bool) : Bool :=
  k.val == 4 && (s.lcs.st == .service || (write && s.lcs.st == .ret && !s.bil.erased))

/-- LCS_IMAGE_WRITE is refused on the running slot. A kind that runs from no slot has none. -/
def State.refImageWrite (s : State) (d : Desc) : Bool :=
  let g := s.lcs.img.get (kindIx (d.b 24))
  s.refImageKind (kindIx (d.b 24)) true || ((g.since.isSome || g.started) && g.runningB == (d.b 25 == 1)) || s.lcs.st == .scrap

/-- An image is written; its verification runs. -/
def State.imageWrite (who : Option Ring) (seq : DWord) (d : Desc) (s : State) : State :=
  let k := kindIx (d.b 24)
  let len := (d.w 32).toNat
  let bytes := (s.readPages (s.listRefs (d.w 28) (ceilDiv len 4096))).take len
  let good := headerOk k len bytes && bodyOk bytes && s.imageKeyOk k (BitVec.ofNat 256 (field bytes 64 32))
  let x := imgOf bytes
  s.modLcs fun l =>
    { l with img := vmod l.img k fun g => g.put (d.b 25 == 1) { x with valid := false },
             writing := l.writing ++ [⟨who, seq, k, d.b 25 == 1, { x with valid := good }⟩] }

/-- LCS_IMAGE_WRITE. -/
def execLcsImageWrite (r : Ring) (d : Desc) (s : State) : Host.Outcome State Fault Refusal :=
  .next (s.work r d (·.imageWrite (some r) d.seq d))

/-- IMAGE_VERIFY_DONE: the verification of the oldest image written ends; `ok` is the verdict on its signature; header, body digest and
signing key have been checked. -/
def execImageVerifyDone (ok : Bool) (s : State) : Host.Outcome State Fault Refusal :=
  s.live fun s => (match s.lcs.writing with
    | [] => s
    | x :: rest =>
      let good := ok && x.img.valid
      let s1 := s.modLcs fun l => { l with writing := rest, img := vmod l.img x.kind fun g => g.put x.slotB { x.img with valid := good } }
      match x.ring with
      | some r => s1.complete r x.seq 0 (if good then 0 else 1)
      | none => s1)

/-- LCS_IMAGE_CONFIRM is refused without a trial, or when the trial slot does not run. -/
def State.refConfirm (s : State) (d : Desc) : Bool :=
  let g := s.lcs.img.get (kindIx (d.b 24))
  !g.trial || g.runningB != g.preferB || !(g.since.isSome || g.started)

/-- The trial ends; the rollback counter takes the index of the running image, but the legal one in SERVICE (R456, R457). -/
def State.imageConfirm (d : Desc) (s : State) : Effect :=
  let k := kindIx (d.b 24)
  let g := s.lcs.img.get k
  let n : BitVec 6 := if k.val = 4 && s.lcs.st = .service then g.rollback else if g.rollback.toNat < g.running.index.toNat then g.running.index else g.rollback
  (((s.modImg k fun g => { g with trial := false, tries := 0, rollback := n })).cond (n != g.rollback) (·.raise .lcs 5), 0, n.setWidth 32)

/-- LCS_IMAGE_CONFIRM. -/
def execLcsImageConfirm (r : Ring) (d : Desc) (s : State) : Host.Outcome State Fault Refusal := .next (s.work r d (·.effect r d (·.imageConfirm d)))

/-- LCS_IMAGE_ACTIVATE: refusal (R456, R457, R460). -/
def State.refImageActivate (s : State) (d : Desc) : Bool :=
  let k := kindIx (d.b 24)
  let g := s.lcs.img.get k
  !(g.slot (!g.runningB)).valid || s.refImageKind k false || s.lcs.st == .scrap ||
  (d.b 25 == 1 && (k.val == 1 || k.val == 2) && (List.finRange 8).any fun o => (s.out.get o).st.inSession)

/-- The other slot becomes preferred, with a trial of 3 tries. -/
def State.imagePrefer (k : Fin 6) (s : State) : State := s.modImg k fun g => { g with preferB := !g.runningB, trial := true, tries := 3 }

/-! ### Measured boot (19 R454, R455) -/

/-- A slot may start: verified, index and variant; the legal image also matches the seal (R341). -/
def State.bootable (s : State) (k : Fin 6) (x : ImgSlot) : Bool :=
  x.valid && decide ((s.lcs.img.get k).rollback.toNat ≤ x.index.toNat) && x.variants.getLsbD (variantBit s.glb.variant) &&
  (k.val != 4 || !s.bil.sealedF || (x.header == s.bil.legalDigest && x.version == s.bil.legalVersion))

/-- boot(kind) of R454. Falling back at the end of a trial makes the other slot the preferred one. DEDUCED (log entry 21). -/
def State.bootKind (k : Fin 6) (s : State) : State :=
  let g := s.lcs.img.get k
  let out := g.trial && g.tries == 0
  let s0 := s.modImg k fun g =>
    { g with preferB := if out then !g.preferB else g.preferB, trial := g.trial && !out, tries := if g.trial && !out then g.tries - 1 else 0,
             started := false, failed := false, since := none }
  let s1 := s0.cond out (·.raiseAt .lcs 3 k.val 0 0)
  let p := (s1.lcs.img.get k).preferB
  let pick := if s.lcs.st = .scrap && k.val ≠ 3 then none
    else if s1.bootable k ((s1.lcs.img.get k).slot p) then some p
    else if s1.bootable k ((s1.lcs.img.get k).slot (!p)) then some (!p) else none
  match pick with
  | some b =>
    let x := (s1.lcs.img.get k).slot b
    (s1.modImg k fun g => { g with runningB := b, since := some s.clk.cycle }).modLcs fun l =>
      { l with meas := Config.measure l.meas k.val x.version x.header, normalBoot := l.normalBoot && !out && b == p }
  | none =>
    if s.lcs.st = .scrap && k.val ≠ 3 then s1
    else
      let s2 := ((s1.modImg k fun g => { g with failed := true, runningB := false }).modLcs fun l =>
        { l with normalBoot := false, recovery := l.recovery || k.val == 3 }).raiseAt .lcs 4 k.val 0 0
      s2.cond (k.val == 4) (·.tamperEvent 3 s.now)

/-- The end of the boot chain: the form of eff (18 R429). -/
def State.bootEnd (s : State) : State :=
  (s.modKey fun k =>
    { k with mixed := !((s.lcs.st == .integr || s.lcs.st == .service) && !s.lcs.recovery && !s.lcs.portOpened) }).refreshIdentity

/-- Kinds that a plane's reset boots: control 1, data 2 with integrator 5, management 3. -/
def kindsOf : Plane → List (Fin 6) | .control => [1] | .data => [2, 5] | .mgmt => [3]

end Sys2Proof.Machine
end

