-- ==== Sys2Proof/Machine/Power.lean ====
section
/-! DEFINITION. Clocks, resets and power states (20); LCS_IMAGE_ACTIVATE and the ready timeout (19 R454, R456). -/
namespace Sys2Proof.Machine

/-! ### What a reset leaves of a block -/

/-- Flags of a block's events that a reset keeps; the enables are kept or cleared with them. -/
def keepEv (keep : Word) (en : Bool) (e : EvReg) : EvReg := ⟨e.flags &&& keep, if en then e.en else 0⟩

/-- A port after a warm or control-plane reset (02 R68). -/
def PortSt.afterReset (t : PortSt) : PortSt :=
  { PortSt.cold with
    en := t.en, media := t.media, allocOk := t.allocOk, asym := t.asym, cntCrc := t.cntCrc, cntAbort := t.cntAbort, cntDown := t.cntDown,
    cntDrop := t.cntDrop }

/-- The Regatta link; the configured source, shape and routes and the TAI correction in force stand (02 R68). -/
def Rgt.afterReset (g : Rgt) : Rgt :=
  { Rgt.cold with
    port := g.port.map PortSt.afterReset, route := g.route, taiCorr := g.taiCorr, corrRound := g.corrRound, srcSel := g.srcSel, ppsEn := g.ppsEn,
    p2p := g.p2p, ptpDomain := g.ptpDomain, cfgShape := g.cfgShape, lastSeq := g.lastSeq, nextMsg := g.nextMsg, restarted := true }

/-- The transmitter of a port at a reset: what was in progress ends with ABORT, what waited is lost. -/
def LineSt.afterReset (l : LineSt) : LineSt := { LineSt.cold with line := l.stop.line }

/-- Allocation: MISS, shares 0 (03 R100). The CURTAIL pins are inputs. A cap that `ALC_SET_CAP` has set ends with the reset: the register has
no reset columns. DESIGN CHOICE (log entry 154). -/
def Alc.afterReset (a : Alc) : Alc :=
  { Alc.cold with cntMiss := a.cntMiss, cntLate := a.cntLate, cntWithheld := a.cntWithheld, curtailSample := a.curtailSample }

/-- An outlet restarts (07 R188, R198). The session that a weld check ends keeps its ID until that end; the last ended ID, the pilot's
classification and the IMD level, which are inputs, stand. DEDUCED (log entry 40). -/
def OutSt.afterReset (now : Nat) (cp plugged : Bool) (x : OutSt) : OutSt :=
  let weld := decide (5 ≤ x.st.code) && decide (x.st.code ≤ 9)
  let st : OutState := if weld then .weldCheck else if x.st = .off then .off else if plugged then .plugged else .idle
  { OutSt.cold with
    st := st, drivingPwm := cp && st.pilotPwm,
    since := now, session := if weld then x.session else 0,
    lastEnded := if weld || x.session = 0 then x.lastEnded else x.session, reason := if weld then 13 else 0, cls := x.cls, imdLevel := x.imdLevel,
    endReason := x.endReason, endState := x.endState, weldUnverified := x.weldUnverified, openUnderLoad := x.openUnderLoad,
    cntMalformed := x.cntMalformed, cntSessions := x.cntSessions, cntFault := x.cntFault }

/-- A vehicle link after a warm or data-plane reset (08 R219). -/
def VclSt.afterReset (v : VclSt) : VclSt :=
  { VclSt.cold with
    ctrl := v.ctrl, slacThreshold := v.slacThreshold, slacTx := v.slacTx, defaultBand := v.defaultBand, cntSlacFail := v.cntSlacFail,
    cntTimeout := v.cntTimeout, cntExiErr := v.cntExiErr, cntTlsFail := v.cntTlsFail, permit := v.permit }

/-- Thermal: the die step and state and the counters are kept (09 R236). -/
def Thm.afterReset (t : Thm) : Thm :=
  { Thm.cold with
    dieK := t.dieK, dieStop := t.dieStop, dieTripped := t.dieTripped, dieDone := t.dieDone, cntBusErr := t.cntBusErr,
    cntJournalDrop := t.cntJournalDrop, busOut := t.busOut }

/-- The lanes start in step, lane A driving (11 R271, R291). -/
def Lne.afterReset (cycle : Nat) (l : Lne) : Lne :=
  { Lne.cold with
    last := l.last, cause := l.cause, restarts := l.restarts, cntMismatch := l.cntMismatch, cntTakeover := l.cntTakeover, cntDrill := l.cntDrill,
    lastKick := cycle }

/-- The battery: what the history and the registers marked stored hold; the estimator restarts at the next round (14 R359, R364). -/
def Bat.afterReset (cold : Bool) (b : Bat) : Bat :=
  { Bat.cold with
    degraded := b.degraded, relearn := b.relearn, capacity := b.capacity, cycles := b.cycles, overdraw := b.overdraw, z := b.z, hist := b.hist,
    trueRef := b.trueRef, ur := b.ur, cntSteps := if cold then 0 else b.cntSteps, cntReject := if cold then 0 else b.cntReject,
    cntHeld := if cold then 0 else b.cntHeld, shipArmed := !cold && b.shipArmed, lastHistory := b.lastHistory }

/-- The MRAM window is evaluated before the first MRAM write after a reset, here from the last T_d (09 R231). -/
def State.mramAfterReset (td : Int) (s : State) : State :=
  let t := (s.modThm fun x => { x with dieTemp := td }).mramWindow
  (if t.thm.mramBlocked then t else t.flushWaiting).modThm fun x => { x with dieTemp := 0 }

/-- Every safety output is held low from the start of a reset (10 R238; 20 R471). -/
def State.safetyLow (s : State) : State :=
  (s.modSaf fun f => { f with gateEn := 0, stoCmd := 0, brkTrip := false }).forAll fun (o : Outlet) t => t.setDrives o false

/-- The requests of a plane in the caddy's queues are dropped (20 R471). -/
def State.dropQueue (q : Fin 4) (s : State) : State := s.modKey fun k => { k with queues := vmod k.queues q fun _ => [] }

/-- The blocks of the control plane at a warm or control-plane reset (05 R145; 06 R172; 07 R198; 09 R236; 10 R267; 11 R291; 20 R471). An
exchange on a vehicle link ends with its session (08 R217). -/
def State.controlReset (s : State) : State :=
  let c := s.clk.cycle
  let s1 := (((s.raiseGlb 5).syncControlFault).safetyLow).pwmReset
  let s2 : State :=
    { s1 with
      rgt := s1.rgt.afterReset, line := s1.line.map LineSt.afterReset, alc := s1.alc.afterReset, reg := { Reg.cold with ch := vmapIdx Reg.cold.ch fun n x => { x with retired := (s1.reg.ch.get n).retired } },
      out := vmapIdx s1.out fun o x => x.afterReset c ((s.outCfg o).any (·.kind == 0)) (s.plugged o), mtx := { Mtx.cold with disabled := s1.mtx.disabled, fb := s1.mtx.fb },
      jn := s1.jn.map fun j => { JnSt.cold with slot := j.slot, fresh := j.fresh }, thm := s1.thm.afterReset, lne := s1.lne.afterReset c,
      bat := s1.bat.afterReset false, pwr := { s1.pwr with controlReady := false, home := false, ready := false } }
  let s3 := s2.modEv fun e =>
    { e with alc := keepEv 0 true e.alc, reg := .replicate 24 .zero, out := .replicate 8 .zero, thm := keepEv 0x80 false e.thm,
             lne := keepEv 0x30 true e.lne, bat := keepEv 0 true e.bat }
  let s4 := ((s3.sramClear .laneA).sramClear .laneB).sramClear .cox
  ((s4.dropQueue 0).mramAfterReset s.thm.dieTemp).forAll fun (o : Outlet) t =>
    if (t.vcl.ch.get o).session = 0 then t
    else (t.modVclCh o VclSt.ended).cond t.pwr.dataReady (·.modVcl fun v => { v with out := v.out ++ [.failure o] })

/-- The blocks of the data plane, vehicle links and integrator cores with it (08 R219; 20 R470). -/
def State.dataReset (s : State) : State :=
  ((({ s with vcl := { s.vcl with ch := s.vcl.ch.map VclSt.afterReset, stationChain := [] },
              pwr := { s.pwr with dataReady := false, integratorReady := false, ready := false } } : State).modEv fun e =>
    { e with vcl := .replicate 8 .zero }).sramClear .app |>.sramClear .integ |>.dropQueue 1)

/-- A control-plane reset loses an announced activation (04 R114, R122): at a Stroke the descriptor whose activation round its DOWN frames no
longer carry completes as one that was cancelled (log entry 142). -/
def State.loseActivation (s : State) : State :=
  let s1 := s.modCfg fun c => { c with actRound := none, annPair := none, raisedFor := none }
  match s.cfg.act with
  | some w => if w.announced.isSome then (s1.modCfg fun c => { c with act := none }).complete w.ring w.seq 2 0 else s1
  | none => s1

/-- The blocks of the management plane: an announced activation proceeds, the staged record is kept and its verification goes on, and a
descriptor that waited here is recovered from the journal (01 R32; 04 R123; 21 R495; 19 R461). -/
def State.mgmtReset (s : State) : State :=
  ((({ s with
      cfg := { s.cfg with stageWait := none, act := s.cfg.act.filter fun a => a.announced.isSome },
      dia := { s.dia with dieSpread := false, laneWarn := false, laneHealth := .replicate 24 0, laneFaults := .replicate 24 0, spreadRun := 0,
                          calmRun := 0, remote := [] },
      lcs := { s.lcs with recovery := false, normalBoot := true, writing := [], returnWait := none, activating := [] },
      pwr := { s.pwr with mgmtReady := false, resetWait := [] } } : State).modEv fun e =>
    { e with cfg := keepEv 0 true e.cfg, dia := keepEv 0 true e.dia, lcs := keepEv 0x18 true e.lcs }).sramClear .mgmt |>.dropQueue 2)

/-! ### Resets of planes (20 R470-R472) -/

def planeIx : Plane → Fin 3 | .control => 0 | .data => 1 | .mgmt => 2

/-- Carriers by their place in the journal's recovery (17 R418). -/
def planeCarrier : Plane → Fin 4 | .control => 0 | .data => 1 | .mgmt => 2

def State.blocksReset (p : Plane) (s : State) : State :=
  match p with | .control => s.loseActivation.controlReset | .data => s.dataReset | .mgmt => s.mgmtReset

/-- Images of kinds are booted in order; a descriptor that asked for the reset which starts its slot is done, unless the plane that carries
it is reset as well (19 R460). -/
def State.bootAll (ks : List (Fin 6)) (s : State) : State :=
  let s1 := ks.foldl (fun t k => t.bootKind k) s
  let hit := s1.lcs.activating.filter fun x => ks.contains x.2.2
  (hit.foldl (fun t x => t.complete x.1 x.2.1 0 0) s1).modLcs fun l => { l with activating := l.activating.filter fun x => !ks.contains x.2.2 }

/-- A reset of one plane. Its function stops fetching until the plane is ready; its rings stay RUNNING (17 R416). -/
def State.planeReset (p : Plane) (s : State) : State :=
  if !s.supplied || s.clk.resetHeld then s
  else
    let f := planeIx p
    let s1 := ((s.noteReset [planeCarrier p] false).blocksReset p).modRingF f fun x => { x with recovering := true, lastReset := 3 }
    ((s1.bootAll (kindsOf p)).bootEnd).modPwr fun w => { w with planeRst := w.planeRst ||| bit 3 f.val }

/-- PLANE_RESET. -/
def execPlaneReset (p : Plane) (s : State) : Host.Outcome State Fault Refusal := .next (s.planeReset p)

/-- READY_TIMEOUT: a plane has not reported ready for 5 s (19 R454). -/
def execReadyTimeout (kind : Fin 6) (s : State) : Host.Outcome State Fault Refusal :=
  .next (
    let p : Option Plane := match kind with | 1 => some .control | 2 => some .data | 3 => some .mgmt | _ => none
    match p, (s.lcs.img.get kind).since with
    | some p, some t => if s.supplied then (s.runTo (t + sec 5)).planeReset p else s
    | _, _ => s)

/-- LCS_IMAGE_ACTIVATE: the other slot is preferred, on trial; with 'now' the plane of the kind is reset, but not for kind 4 (19 R456). -/
def execLcsImageActivate (r : Ring) (d : Desc) (s : State) : Host.Outcome State Fault Refusal :=
  .next (s.work r d fun t =>
    let k := kindIx (d.b 24)
    let t1 := (t.imagePrefer k).modLcs fun l => { l with activating := l.activating ++ [(r, d.seq, k)] }
    if d.b 25 ≠ 1 then t1
    else match k with
      | 1 => t1.planeReset .control
      | 2 | 5 => t1.planeReset .data
      | 3 => t1.planeReset .mgmt
      | _ => t1)

/-! ### Ready (20 R472, R474) -/

def kindOf : Plane → Fin 6 | .control => 1 | .data => 2 | .mgmt => 3

/-- A plane may report ready: its image has started; for the management plane also the loader of a recovery boot (19 R455). -/
def State.mayReady (s : State) (p : Plane) : Bool :=
  s.supplied && !s.clk.resetHeld && !s.planeReady p && ((s.lcs.img.get (kindOf p)).since.isSome || (p == .mgmt && s.lcs.recovery))

/-- What a plane starts with. The control plane: role and identity of the active configuration, ports, home contactors, fault codes of the
sources in force (02 R49, R68; 07 R175; 10 R262). After a reset that is not cold a controller other than the Stroke is out of time (02, end). -/
def State.planeStarts (p : Plane) (s : State) : State :=
  match p with
  | .control =>
    let c := s.cfg.active
    let s1 := ((s.modRgt fun g =>
      { g with id := c.partId, crew := c.crew, role := if c.partId = c.stroke then .stroke else .notAdmitted, outOfTime := g.restarted && c.partId != c.stroke,
               port := g.port.map fun t => if t.en then { t with st := .acquire } else t }).modAlc fun a =>
      { a with stroke := c.stroke, bow := c.bow }).modLne fun x => { x with lastKick := s.clk.cycle }
    (s1.modPwr fun w => { w with controlReady := true }).safetyUpdate.homeStart
  | .data => s.modPwr fun w => { w with dataReady := true }
  | .mgmt => s.modPwr fun w => { w with mgmtReady := true }

/-- A plane reports ready. -/
def State.readyNow (p : Plane) (s : State) : State :=
  let f := planeIx p
  let s1 := (s.modImg (kindOf p) fun g => { g with since := none, started := g.since.isSome }).planeStarts p
  let s2 := s1.cond (s1.pwr.planeRst.getLsbD f.val) (·.raiseAt .pwr 4 0 f.val 0)
  let mine := s2.pwr.resetWait.filter fun x => x.2.2 == p
  let s3 := (mine.foldl (fun t x => t.complete x.1 x.2.1 0 0) s2).modPwr fun w =>
    { w with planeRst := w.planeRst &&& ~~~ bit 3 f.val, resetWait := w.resetWait.filter fun x => x.2.2 != p }
  ((s3.recoverCarrier (planeCarrier p)).checkReady)

/-- PLANE_READY; `integrator` names the integrator cores instead of the data plane. -/
def execPlaneReady (p : Plane) (integrator : Bool) (s : State) : Host.Outcome State Fault Refusal :=
  .next (
    if integrator then
      if s.supplied && !s.clk.resetHeld && (s.lcs.img.get 5).since.isSome then
        (s.modImg 5 fun g => { g with since := none, started := true }).modPwr fun w => { w with integratorReady := true }
      else s
    else if s.mayReady p then s.readyNow p else s)

/-! ### Warm reset (20 R469-R471) -/

/-- The state of the block at a warm reset; the legal domain keeps running. -/
def State.warmEnter (cause : BitVec 3) (s : State) : State :=
  let s0 := (s.stopEngine).noteReset [0, 1, 2] true
  let s1 := ((s0.controlReset).dataReset).mgmtReset
  let s2 : State :=
    { s1 with
      jn := .replicate 8 .cold, tun := { Tunnel.empty with nextId := s1.tun.nextId },
      ring := s1.ring.map fun q =>
        { q with en := false, st := if q.st = .frozen then .frozen else .disabled, cqFull := false, p := 0, fetch := 0, q := 0, c := 0, waitDb := false,
                 keptSq := none, keptCq := none, refusals := [], replays := [], cqLog := [] },
      ringF := s1.ringF.map fun x => { x with recovering := true, lastReset := 2, recovered := false, interrupted := false },
      irq := s1.irq.map fun i => { i with u := 0, timer := none }, win := { s1.win with ownSel := .replicate 3 0 },
      dlv := { s1.dlv with fault := false }, cfg := { s1.cfg with act := none, actRound := none, annPair := none, raisedFor := none, reports := [] },
      clk := { s1.clk with rootPpm := 0, pllLock := false, xtalFail := false, xtalGood := none, holdover := false },
      met := { s1.met with capture := none, writing := false },
      pwr := { s1.pwr with mode := .run, pfw := false, cause := cause, legalReady := s1.bil.legalUp, planeRst := 0, resetWait := [], fetchStopped := false,
                           cntWarm := satInc s1.pwr.cntWarm, resetAt := s1.clk.cycle } }
  s2.modEv fun e =>
    { e with clk := keepEv 3 true e.clk, pwr := keepEv 1 true e.pwr, ring := e.ring.map (keepEv 0 true), frz := keepEv 1 true e.frz,
             cfg := keepEv 0 true e.cfg, met := keepEv 0 true e.met, bil := keepEv 0 true e.bil, key := keepEv 3 true e.key }

/-- The warm reset proceeds: the clock-monitor source is cleared, the boot chain runs with m from zeros and the running legal image first
(10 R267; 19 R454). -/
def State.warmBoot (s : State) : State :=
  let s1 := ((s.modClk fun c => { c with rootLost := false, drift := false, faultSince := none, resetHeld := false, pllLock := true }).clearGlb 4)
  let g := (s1.lcs.img.get 4)
  let s2 := s1.modLcs fun l =>
    { l with normalBoot := true, recovery := false,
             meas := if g.started then Config.measure 0 4 g.running.version g.running.header else 0 }
  ((s2.modKey fun k => { k with mixed := true, rngFail := false }).bootAll [3, 1, 2, 5]).bootEnd

/-- A warm reset; while a clock fault stands it is held until the root is good (R469 step 5). -/
def State.warmReset (cause : BitVec 3) (s : State) : State :=
  if !s.supplied || s.clk.resetHeld then s
  else if s.clk.faultSince.isSome then (s.warmEnter cause).modClk fun c => { c with resetHeld := true, holdover := true }
  else (s.warmEnter cause).warmBoot

/-- WARM_RESET: from WRST_N low for `held` ns, or from a clock fault that stands. -/
def execWarmReset (clockFault : Bool) (held : Nat) (s : State) : Host.Outcome State Fault Refusal :=
  .next (if clockFault then s.cond s.clk.faultSince.isSome (·.warmReset 6) else s.cond (decide (10000 ≤ held)) (·.warmReset 1))

/-! ### Clock monitor (20 R466-R469) -/

/-- The response to a clock fault (R469 steps 1 to 4). With a power-fail warning in force the commit has been made (R480). -/
def State.clockFaultAct (s : State) : State :=
  let s1 := ((s.raiseGlb 4).syncControlFault).forAll fun (o : Outlet) t => t.setDrives o false
  let s2 := s1.forAll fun (a : Aux) t => if (t.pwm.aux.get a).en then t.modAux a fun c => { c with heldFs := true } else t
  let s3 := (s2.modClk fun c => { c with holdover := true }).stopEngine.modPwr fun w => { w with fetchStopped := true }
  ((s3.cond (!s3.pwr.pfw) (·.legalWarning)).modClk fun c => { c with faultSince := some s.clk.cycle })

/-- ROOT_LOST: `gap` ns without a REFCLK edge, and whether the master PLL reports lock (R466). -/
def execRootLost (gap : Nat) (locked : Bool) (s : State) : Host.Outcome State Fault Refusal :=
  .next (
    if !s.supplied || s.clk.rootLost || (locked && decide (gap < 1000)) then s
    else
      let old := s.clk.faultSince.isSome
      let s1 := (s.modClk fun c => { c with rootLost := true, cntLoss := satInc c.cntLoss }).raise .clk 0
      s1.cond (!old) (·.clockFaultAct))

/-- The deviation of the last window in ppm (R483). -/
def ppmOf (edges : Nat) : Half := clampS 16 (roundDivI (((edges : Int) - 48828) * 1000000) 48828)

/-- The window shows drift: 22 edges or more; with the crystal out of range more than 5 % (R467, R468). -/
def driftFound (xtalFail : Bool) (edges : Nat) : Bool :=
  let e := ((edges : Int) - 48828).natAbs
  if xtalFail then decide (48828 < 20 * e) else decide (22 ≤ e)

/-- DRIFT_CHECK. -/
def execDriftCheck (edges : Nat) (s : State) : Host.Outcome State Fault Refusal :=
  .next (
    if !s.supplied then s
    else
      let s0 := s.modClk fun c => { c with rootPpm := ppmOf edges }
      if !driftFound s.clk.xtalFail edges || s.clk.drift then s0
      else
        let old := s.clk.faultSince.isSome
        let s1 := (s0.modClk fun c => { c with drift := true, cntDrift := satInc c.cntDrift }).raise .clk 1
        s1.cond (!old) (·.clockFaultAct))

/-- A crystal frequency in Hz more than 5 % from 32,768 Hz (R468). -/
def xtalOff (freq : Nat) : Bool := decide (32768 < 20 * ((freq : Int) - 32768).natAbs)

/-- XTAL_FAIL: the crystal's frequency in Hz as measured over 1 ms against the RC reference; once it has been in range for 1 s the failure
is over (R468; log entry 55). -/
def execXtalFail (freq : Nat) (s : State) : Host.Outcome State Fault Refusal :=
  .next (
    if !s.supplied then s
    else if xtalOff freq then
      let t := s.modClk fun c => { c with xtalGood := none }
      if s.clk.xtalFail then t else (t.modClk fun c => { c with xtalFail := true }).raise .clk 2
    else if !s.clk.xtalFail then s
    else s.modClk fun c => match c.xtalGood with
      | none => { c with xtalGood := some c.cycle }
      | some t => if t + sec 1 ≤ c.cycle then { c with xtalFail := false, xtalGood := none } else c)

/-- CLOCK_FAULT_RESET: 5 ms after the detection a warm reset begins, which is held (R469 step 5). -/
def execClockFaultReset (s : State) : Host.Outcome State Fault Refusal :=
  .next (match s.clk.faultSince with
    | some t => if s.supplied && !s.clk.resetHeld then (s.runTo (t + ms 5)).warmReset 6 else s
    | none => s)

/-- ROOT_RECOVERED: the root has been present and free of drift for `held` ns; the held warm reset proceeds after 100 ms of it with the
PLL locked. -/
def execRootRecovered (held : Nat) (locked : Bool) (s : State) : Host.Outcome State Fault Refusal :=
  .next (if s.supplied && s.clk.resetHeld && locked && decide (100000000 ≤ held) then (s.modClk fun c => { c with holdover := false }).warmBoot else s)

/-! ### Power failure and power states (20 R475-R479) -/

/-- PFW_N low (`pfw`), or the 3.3 V rail below 3.10 V for 2 µs; PFW_N high and that rail at 3.15 V or above for 10 ms; after the warning
the rail below 2.90 V or the core rail below 0.70 V (R475-R477). -/
def warns (pfw : Bool) (x : Rails) : Bool := pfw || (decide (x.io < 3100) && decide (2000 ≤ x.held))
def unwarns (pfw : Bool) (x : Rails) : Bool := !pfw && decide (3150 ≤ x.io) && decide (10000000 ≤ x.held)
def supplyGone (x : Rails) : Bool := decide (x.io < 2900) || decide (x.core < 700)

/-- POWER_FAIL_WARNING (R476); with ship mode armed the cell is disconnected after the commits (14 R361), and SHIP follows. -/
def execPowerFailWarning (pfw : Bool) (x : Rails) (s : State) : Host.Outcome State Fault Refusal :=
  .next (
    if !s.supplied || s.pwr.pfw || !warns pfw x then s
    else
      let s1 := if s.clk.faultSince.isSome then s else s.legalWarning
      let s2 := s1.cond s1.bat.present (·.batStore)
      let s3 := s2.stopEngine.modPwr fun w => { w with pfw := true, fetchStopped := true, cntPfw := satInc w.cntPfw }
      (s3.stopAllOutlets 2).raise .pwr 0)

/-- PFW_RECOVERED: fetching resumes at the next doorbell (R477). -/
def execPfwRecovered (pfw : Bool) (x : Rails) (s : State) : Host.Outcome State Fault Refusal :=
  .next (
    if !s.supplied || !s.pwr.pfw || !unwarns pfw x then s
    else
      let s1 := s.modPwr fun w => { w with pfw := false, fetchStopped := s.clk.faultSince.isSome }
      ({ s1 with ring := s1.ring.map fun q => { q with waitDb := true } } : State).raise .pwr 1)

/-- HOLD_ENTRY: after the warning a rail falls; SHIP where ship mode is armed (R475; 14 R361). Every plane stops, every output is low, and
the real-time clock runs on. -/
def execHoldEntry (x : Rails) (s : State) : Host.Outcome State Fault Refusal :=
  .next (
    if !s.supplied || !s.pwr.pfw || !supplyGone x then s
    else
      let s1 := s.safetyLow.modPwr fun w =>
        { w with mode := if s.bat.shipArmed then .ship else .hold, controlReady := false, dataReady := false, mgmtReady := false,
                 integratorReady := false, legalReady := false, home := false, ready := false, holdAt := s.now, bakMode := .off, burst := .off }
      (s1.modBil fun b => { b with legalUp := false }).modClk fun c => { c with rtcFix := s.now / Config.secondNs * Config.secondNs * 2 ^ 32 })

/-- Loss of the always-on supply zeroes the key memory of the A8T (R478; 18 R426, R428). -/
def State.aonGone (s : State) : State :=
  s.cond (s.glb.variant == .a8t) (·.modKey fun k => { k with zeroized := true, rootOk := false })

/-- AON_STOP: VBAK in mV has fallen below 1.50 V. -/
def execAonStop (vbak : Nat) (s : State) : Host.Outcome State Fault Refusal :=
  .next (if s.pwr.mode = .hold && decide (vbak < 1500) then s.aonGone.modPwr fun w => { w with aonStopped := true } else s)

/-- BAK_CHARGER_MODE: constant current to 2.70 V, then 2.70 V until the current falls below 0.5 mA, again below 2.60 V (R479). -/
def bakNext (m : BakMode) (vbak : Nat) (currentLow : Bool) : BakMode :=
  match m with
  | .off => if vbak < 2600 then .constCurrent else .off
  | .constCurrent => if 2700 ≤ vbak then .constVoltage else .constCurrent
  | .constVoltage => if vbak < 2600 then .constCurrent else if currentLow then .off else .constVoltage

def execBakChargerMode (vbak : Half) (microamps : Nat) (s : State) : Host.Outcome State Fault Refusal :=
  .next (
    if !s.supplied then s
    else s.modPwr fun w => { w with bakMode := if s.thm.bakBlocked then .off else bakNext w.bakMode vbak.toNat (decide (microamps < 500)) })

/-! ### Cold start (20 R471, R473) -/

/-- The highest value of a code in the event journal, plus 1 (08 R206; 10 R258; 21 R487). -/
def seedOf (l : List JRec) (code : Nat) : Nat := l.foldl (fun m x => if x.code = code then max m (x.a + 1) else m) 0

/-- The journal that a cold reset finds: the pages of unfinished work are lost; after a RETURN it is erased (17 R419; 19 R449). -/
def Dlv.afterCold (erase : Bool) (cycle : Nat) (v : Dlv) : Dlv :=
  if erase then { Dlv.empty with devBuckets := bucketsFull devRate cycle }
  else
    { v with fault := false, devBuckets := bucketsFull devRate cycle,
             slots := v.slots.map fun l => l.map fun j =>
               { j with lost := j.lost || (j.comp.isNone && !j.pages.isEmpty), pages := [], written := false,
                        st := if j.comp.isSome && (j.st == .handed || j.st == .accepted) then .handed else j.st,
                        comp := if j.st == .handed || j.st == .accepted then none else j.comp } }

/-- A ring after a cold reset: every register cold, the journal's counts kept. -/
def RingSt.afterCold (erase : Bool) (cycle : Nat) (r : Ring) (q : RingSt) : RingSt :=
  { RingSt.cold r with
    exp := if erase then 0 else q.exp, outstanding := if erase then 0 else q.outstanding, buckets := bucketsFull ringRate cycle,
    updates := q.updates }

/-- The configuration that a cold reset reloads (04 R122). -/
def Cfg.afterCold (erase : Bool) (c : Cfg) : Cfg :=
  if erase then { Cfg.default with legalEpoch := c.legalEpoch, legal := c.legal, calFrozen := c.calFrozen, calSeal := c.calSeal }
  else
    { Cfg.default with
      active := c.active, activeB := c.activeB, staged := c.staged, stagedPair := c.stagedPair, stagedStatus := c.stagedStatus, legalEpoch := c.legalEpoch, legal := c.legal, calFrozen := c.calFrozen,
      calSeal := c.calSeal }

/-- Metrology: always-on state stands, registers are cold (12 R314). -/
def Met.afterCold (m : Met) : Met :=
  { Met.cold with
    dark := m.dark, darkPending := m.darkPending, darkRem := m.darkRem, darkFirst := m.darkFirst, darkLast := m.darkLast, session := m.session,
    accOut := m.accOut, accP := m.accP, accQ := m.accQ, netFault := m.netFault, lastNeg := m.lastNeg }

/-- The legal store and always-on billing state stand (13 R348). -/
def Bil.afterCold (b : Bil) : Bil :=
  { b with
    legalUp := false, errNoTime := true, dispFaulty := 0, doneAt := none, disp := .replicate 8 .cold, exportRun := none, stepPend := [] }

/-- The caddy restarts; the PUF's reconstruction may fail, which is a free value (18 R426, R427; log entry 4). -/
def State.caddyCold (s : State) : State :=
  let ok := if s.glb.variant = .a8t then !s.key.zeroized else Config.freeNat s.free % 2 == 0
  let s1 := s.useFree.modKey fun k =>
    { k with rootOk := ok, rootFail := s.glb.variant != .a8t && !ok, mixed := true, rngFail := false, rngGood := 0, swEn := 0,
             queues := .replicate 4 [], turn := 0, cntSign := 0, cntVerifyFail := 0, cntRefused := 0,
             anchors := if s.lcs.eraseDue then .replicate 4 none else k.anchors }
  s1.cond s1.key.rootFail (·.raise .key 1)

/-- The life-cycle block restarts: the port closes, and reopens in MAKER; the lock is clear (19 R450, R458, R462). -/
def Lcs.afterCold (l : Lcs) : Lcs :=
  { l with
    eraseDue := false, portOpen := l.st == .maker, portOpened := l.st == .maker, lock := false, recovery := false, normalBoot := true,
    returnWait := none, nonceAt := none, portAuth := [], cntAuthFail := 0, cntLegalWp := 0, writing := [], meas := 0 }

/-- The legal domain's part of the start: restore and outage, or its first start; sessions that the loss of power interrupted end
(13 R331, R345). -/
def State.legalStart (aon : Bool) (slots : BitVec 2) (warned : Bool) (s : State) : State :=
  if (s.lcs.img.get 4).since.isNone then s
  else
    let s1 := (s.modBil fun b => { b with legalUp := true }).modImg 4 fun g => { g with since := none, started := true }
    let s2 := s1.modPwr fun w => { w with legalReady := true }
    let s3 := if s2.bil.core.seq = 0 then s2.legalFirst else s2.legalRestore aon slots warned
    (s3.forAll fun (o : Outlet) t =>
      let x := t.met.session.get o
      if x.running then t.signalMet o false x.id 13 else t).darkRestore

/-- The state at the release of a cold reset. -/
def State.coldState (source : BitVec 3) (aon : Bool) (estopA estopB : BitVec 4) (s : State) : State :=
  let c := s.clk.cycle
  let fleet := if aon then s.rtcReading else 0
  let erase := s.lcs.eraseDue
  let held := s.pwr.mode == .hold && aon
  { s with
    clk := { Clk.cold with cycle := c, fleetFix := fleet, rtcFix := fleet, pllLock := true },
    pwr := { Pwr.cold with cause := source, aonLost := !aon, holdS := if held then BitVec.ofNat 32 ((fleet / 2 ^ 32 - s.pwr.holdAt) / Config.secondNs)
                             else s.pwr.holdS, cntPfw := s.pwr.cntPfw, cntWarm := s.pwr.cntWarm, resetAt := c, coldAt := c },
    ev := .cold, irq := .replicate 128 .cold, ring := vmapIdx s.ring (RingSt.afterCold erase c), ringF := .replicate 3 .cold,
    dlv := s.dlv.afterCold erase c, win := .cold, sram := .replicate 8 [], frz := .cold,
    dia := { Dia.cold with windowAt := c, journal := s.dia.journal, wrapped := s.dia.wrapped,
                           next := match s.dia.journal with | x :: _ => x.number + 1 | [] => 0 },
    glb := { Glb.cold with variant := s.glb.variant }, tun := .empty, rgt := .cold, line := s.line.map LineSt.afterReset, alc := { Alc.cold with curtailSample := s.alc.curtailSample },
    cfg := s.cfg.afterCold erase, jn := .replicate 8 .cold, pwm := .cold, reg := .cold,
    out := s.out.map fun x => { OutSt.cold with imdLevel := x.imdLevel }, mtx := { Mtx.cold with fb := s.mtx.fb },
    vcl := { Vcl.cold with sessionNext := BitVec.ofNat 32 (max 1 (seedOf s.dia.journal 0x40)), out := s.vcl.out }, thm := .cold,
    saf := { Saf.cold with estopA := estopA, estopB := estopB, gatePad := s.saf.gatePad, stoPad := s.saf.stoPad, fbp := s.saf.fbp, fbm := s.saf.fbm, lastDrive := .replicate 8 c,
                           seoSince := .replicate 8 (some c), siteNext := BitVec.ofNat 16 (seedOf s.dia.journal 0x42), acdOut := s.saf.acdOut },
    lne := { Lne.cold with lastKick := c }, met := s.met.afterCold, bil := s.bil.afterCold, bat := s.bat.afterReset true }

/-- The device as a cold start leaves it with its planes booting: caddy, boot chain, legal domain. -/
def State.coldStart (source : BitVec 3) (aonOk : Bool) (slots : BitVec 2) (estopA estopB : BitVec 4) (s : State) : State :=
  let aon := aonOk && !s.pwr.aonStopped && s.pwr.mode != .ship
  let s0 := if s.supplied then s.stopEngine else s
  let erase := s0.lcs.eraseDue
  let s1 := ((s0.coldState source aon estopA estopB).useFree).cond (!aon) (·.aonGone)
  let s2 := (s1.cond (!erase) (·.noteReset [0, 1, 2, 3] false)).caddyCold
  let s3 := (s2.modLcs Lcs.afterCold).mramAfterReset s.thm.dieTemp
  let s4 := ((s3.bootAll [4, 3, 1, 2, 5]).bootEnd).legalStart aon slots (s.pwr.pfw || s.clk.faultSince.isSome || !s.supplied)
  s4.cond (source == 4) (·.raise .pwr 2)

/-- A source of a cold reset that belongs to the power mode (20 R470, R483). -/
def State.coldFits (s : State) (source : BitVec 3) (held : Nat) : Bool :=
  match s.pwr.mode with
  | .hold => source == 4
  | .ship => source == 5
  | _ => source == 0 || (source == 2 && decide (10000 ≤ held)) || (source == 3 && decide (2000 ≤ held))

/-- COLD_RESET: `aonOk`: always-on SRAM is intact; `slots`: the commit slots whose check is right, bit 0 the newest; `estopA`, `estopB`:
channels that read low. Return from HOLD (4) and from SHIP (5) belong to those states, power-on, RST_N
and brown-out, which have lasted `held` ns, to the others; the remaining codes are no cold reset (R470, R483). -/
def execColdReset (source : BitVec 3) (held : Nat) (aonOk : Bool) (slots : BitVec 2) (estopA estopB : BitVec 4) (s : State) : Host.Outcome State Fault Refusal :=
  .next (if s.coldFits source held then s.coldStart source aonOk slots estopA estopB else s)

/-! ### Descriptors (20 R481) -/

/-- An outlet is in CABLE_CHECK to WELD_CHECK. -/
def State.anyInSession (s : State) : Bool := (List.finRange 8).any fun o => s.hasOutlet o && (s.out.get o).st.inSession

def State.refPwrReset (s : State) (d : Desc) : Bool := (d.b 24 == 1 || d.b 24 == 2) && !(d.b 25).getLsbD 0 && s.anyInSession

/-- PWR_RESET: a warm reset and one of the management plane complete through recovery (17 R418). -/
def execPwrReset (r : Ring) (d : Desc) (s : State) : Host.Outcome State Fault Refusal :=
  .next (s.work r d fun t =>
    let wait (p : Plane) : State := (t.modPwr fun w => { w with resetWait := w.resetWait ++ [(r, d.seq, p)] }).planeReset p
    match (d.b 24).toNat with
    | 1 => t.warmReset 1
    | 2 => wait .control
    | 3 => wait .data
    | _ => t.planeReset .mgmt)

def State.refIdle (s : State) : Bool := !s.allOff
def State.refRun (s : State) : Bool := s.pwr.mode != .idle

/-- PWR_IDLE: phase channels stopped, the vehicle link blocks without power. Where an outlet has left OFF since the acceptance, RUN stays. -/
def execPwrIdle (r : Ring) (d : Desc) (s : State) : Host.Outcome State Fault Refusal :=
  .next (s.work r d fun t =>
    if t.refIdle then t.complete r d.seq 0 0
    else
      let t1 := (t.clearAllEn.modPwr fun w => { w with mode := .idle })
      ({ t1 with vcl := { t1.vcl with ch := t1.vcl.ch.map VclSt.afterReset } } : State).complete r d.seq 0 0)

/-- PWR_RUN. -/
def execPwrRun (r : Ring) (d : Desc) (s : State) : Host.Outcome State Fault Refusal :=
  .next (s.work r d fun t => (t.modPwr fun w => { w with mode := .run }).complete r d.seq 0 0)

end Sys2Proof.Machine
end

