-- ==== Sys2Proof/Machine/RegRead.lean ====
section
/-! DEFINITION. The register map: what every register of BAR0 reads as, by block, the views of the masters and the reads themselves (22; the
register tables of 02-21). -/
namespace Sys2Proof.Machine

/-- What an assigned offset reads as: a word, a `_LO` word with the 64-bit value it belongs to, or the `_HI` word latched by the `_LO` word at
an offset (22 R500). -/
inductive RegVal where
  | w (v : Word)
  | lo (v : DWord)
  | hi (loOff : Nat)
deriving DecidableEq, Repr

/-- A register table; an offset that it does not list is not assigned (22 R501). -/
abbrev RegTable := List (Nat × RegVal)

def RegTable.at (t : RegTable) (off : Nat) : Option RegVal := (t.find? fun x => x.1 == off).map (·.2)

/-- The pair of a 64-bit register at an offset. -/
def pair (off : Nat) (v : DWord) : RegTable := [(off, .lo v), (off + 4, .hi off)]

/-- An event register with its enables. -/
def evPair (off : Nat) (e : EvReg) : RegTable := [(off, .w e.flags), (off + 4, .w e.en)]

/-- Words in succession. -/
def run (off : Nat) (l : List Word) : RegTable := (List.range l.length).map fun i => (off + 4 * i, .w (nth l i 0))

/-- Word i of a digest (00 R7). -/
def digestWords (d : Digest) : List Word := (List.range 8).map fun i => bitsOf d (32 * i) 32

/-- The instance that an offset falls to, with the offset inside it. -/
def inst (base stride n off : Nat) (f : Fin n → Nat → Option RegVal) : Option RegVal :=
  if h : base ≤ off ∧ (off - base) / stride < n then f ⟨(off - base) / stride, h.2⟩ ((off - base) % stride) else none

/-- A single register of each instance. -/
def instWord (base n off : Nat) (f : Fin n → Word) : Option RegVal :=
  inst base 4 n off fun i r => if r = 0 then some (.w (f i)) else none

/-- The registers of an absent resource read 0 (00 R2). -/
def gate (present : Bool) (v : Option RegVal) : Option RegVal := if present then v else v.map fun _ => .w 0

/-! ### Views of the masters (22 R498) -/

/-- The function whose view a master uses: none for the masters that reach only their own blocks. -/
def viewFn : Master → Option Fn
  | .pf f => some f
  | .mgmt | .port => some 2
  | .app _ | .dma _ | .integ _ => some 1
  | .lane | .cox | .legal | .caddy => none

/-- The function of a view, where a banked register needs one. -/
def viewOr (m : Master) : Fn := (viewFn m).getD 0

/-! ### The blocks, by rising offset -/

/-- `GLB_CAPS` and the masks (22 R505). -/
def variantCaps : Variant → Word | .a2 => 0x024412C2 | .a4 => 0x02441584 | .a8t => 0x02446988
def outletMask (s : State) : Word := (outletBits s.hasOutlet).setWidth 32
def phaseMask (s : State) : Word := (phaseBits s.hasPhase).setWidth 32
def laneMask (s : State) : Word := (phaseBits s.hasLane).setWidth 32

/-- `GLB_FUNC`. -/
def glbFunc (m : Master) : Word :=
  let v := match m with | .pf f => f.val | _ => 3
  natAt v 2 0 ||| natAt (match m.code with | some c => c.val | none => 31) 5 8

def glbReg (s : State) (m : Master) (off : Nat) : Option RegVal :=
  let b := s.glb.bank.get m.bank
  RegTable.at ([(0x00, .w 0x384C4843), (0x04, .w (Config.glbRev.setWidth 32)), (0x08, .w (variantCaps s.glb.variant)), (0x0C, .w (outletMask s)),
    (0x10, .w (phaseMask s)), (0x14, .w (laneMask s)), (0x30, .w (glbFunc m)), (0x40, .w b.cntUnmapped), (0x44, .w b.cntResetDrop),
    (0x48, .w (b.last.setWidth 32))] ++
    run 0x20 ((List.range 4).map fun i => if s.key.birthCert then bitsOf Config.serial (32 * i) 32 else 0)) off

/-- `CLK_STATUS` (20 R483). -/
def clkStatus (c : Clk) : Word :=
  flagAt c.pllLock 0 ||| flagAt c.rootLost 1 ||| flagAt c.drift 2 ||| flagAt c.holdover 3 ||| flagAt c.xtalFail 4

/-- `PWR_STATE`, `PWR_READY` (20 R483). -/
def pwrState (p : Pwr) : Word :=
  natAt (if p.mode = .idle then 1 else 0) 2 0 ||| flagAt p.pfw 2 ||| fieldAt p.cause 4 ||| flagAt p.aonLost 7
def pwrReady (p : Pwr) : Word :=
  flagAt p.legalReady 0 ||| flagAt p.mgmtReady 1 ||| flagAt p.controlReady 2 ||| flagAt p.dataReady 3 ||| flagAt p.integratorReady 4 |||
  flagAt p.home 5 ||| flagAt p.ready 6

def clkReg (s : State) (off : Nat) : Option RegVal :=
  RegTable.at ([(0x1000, .w (clkStatus s.clk)), (0x1004, .w (s.clk.rootPpm.setWidth 32)), (0x1010, .w s.clk.cntLoss),
    (0x1014, .w s.clk.cntDrift)] ++ evPair 0x1008 s.ev.clk) off

def pwrReg (s : State) (off : Nat) : Option RegVal :=
  RegTable.at ([(0x2000, .w (pwrState s.pwr)), (0x2004, .w (pwrReady s.pwr)), (0x2008, .w (s.pwr.readyMs.setWidth 32)),
    (0x200C, .w s.pwr.holdS), (0x2010, .w (s.pwr.bakChg.setWidth 32)), (0x2028, .w s.pwr.cntPfw), (0x202C, .w s.pwr.cntWarm)] ++
    evPair 0x2020 s.ev.pwr) off

/-- Code of a ring's state (15 R393). -/
def ringStateCode (q : RingState) : Nat := q.shown

/-- An accepted descriptor waits for its not-before time. -/
def State.scheduled (s : State) (r : Ring) : Bool :=
  (s.dlv.slots.get r).any fun j => j.comp.isNone && !j.tookUp && decide (s.now < j.desc.notBefore.toNat)

def ringCtrl (q : RingSt) : Word := flagAt q.en 0 ||| fieldAt q.classes 1 ||| fieldAt q.vector 8

def ringReg (s : State) (r : Ring) (base off : Nat) : Option RegVal :=
  let q := s.ring.get r
  RegTable.at (pair base q.base ++ pair (base + 8) q.cqBase ++ pair (base + 0x10) q.shadow ++ pair (base + 0x38) q.exp ++
    run (base + 0x18) [q.size.setWidth 32, ringCtrl q, natAt (ringStateCode q.st) 3 0 ||| flagAt (s.scheduled r) 3 ||| flagAt q.cqFull 4, q.p, q.a, q.q, q.c,
      natAt q.outstanding 9 0]) off

/-- `RING_JOURNAL_STATUS` (17 R425). -/
def journalStatus (s : State) (f : Fn) : Word :=
  let x := s.ringF.get f
  flagAt x.recovering 0 ||| flagAt s.dlv.fault 1 ||| fieldAt x.lastReset 4 ||| flagAt x.recovered 8 ||| flagAt x.interrupted 9

def ringBlock (s : State) (m : Master) (off : Nat) : Option RegVal :=
  let f := viewOr m
  let x := s.ringF.get f
  inst 0x4000 0x40 64 off (fun r _ => ringReg s r (0x4000 + r.val * 0x40) off) <|>
  RegTable.at (evPair 0x5000 (s.ev.ring.get f) ++ run 0x5008 [x.cntAccept, x.cntRefused, x.cntReplay, x.cntTunnelDrop, x.cntBadAccess] ++
    pair 0x5020 s.dlv.jpos ++ [(0x5028, .w (journalStatus s f))]) off

/-- Pages of a function's range, and those of them that are FREE or HOST (16 R408 `WIN_FREE`). -/
def rangeSize (w : Win) (f : Fn) : Nat :=
  match f with | 0 => w.pf1First.toNat | 1 => w.pf2First.toNat - w.pf1First.toNat | 2 => 4096 - w.pf2First.toNat
def countPages (w : Win) (f : Fn) (p : Page → Bool) : Nat := (w.pages.filter fun x => w.rangeOf x.1 == f && p x.2).length
def freePages (w : Win) (f : Fn) : Nat := rangeSize w f - countPages w f fun g => g.owner != .free

def ownerCode : PageOwner → Nat | .free => 0 | .host => 1 | .device => 2 | .legal => 3

/-- `WIN_OWN` of a page. -/
def ownWord (s : State) (p : BitVec 12) : Word :=
  let g := s.page p.toNat
  fieldAt g.gen 0 ||| natAt (ownerCode g.owner) 2 14 ||| natAt (s.win.rangeOf p.toNat).val 2 16 ||| fieldAt g.agent 18 ||| fieldAt p 20

def winReg (s : State) (m : Master) (off : Nat) : Option RegVal :=
  let f := viewOr m
  let w := s.win
  RegTable.at [(0x6000, .w (fieldAt w.pf1First 0 ||| fieldAt w.pf2First 16)), (0x6004, .w ((w.ownSel.get f).setWidth 32)),
    (0x6008, .w (ownWord s (w.ownSel.get f))),
    (0x600C, .w (natAt (freePages w f) 13 0 ||| natAt (countPages w f fun g => g.owner == .host) 13 16))] off

/-- The master codes of 16 R401. -/
def masterCode (c : Fin 24) : Bool := c.val < 3 || (4 ≤ c.val && c.val < 10) || 16 ≤ c.val

def frzStatus (s : State) : Word := (List.finRange 24).foldl (fun w c => w ||| flagAt (s.frz.m.get c).frozen c.val) 0

def frzReg (s : State) (off : Nat) : Option RegVal :=
  RegTable.at ([(0x8000, .w (frzStatus s)), (0x8004, .w 0), (0x8010, .w s.frz.cntBreach)] ++ evPair 0x8008 s.ev.frz) off <|>
  inst 0x8100 0x10 24 off (fun c _ =>
    let b := 0x8100 + c.val * 0x10
    let x := s.frz.m.get c
    if masterCode c then RegTable.at ([(b, .w x.token), (b + 4, .w x.wher)] ++ pair (b + 8) x.time) off else none)

/-! ### RGT, ALC, CFG -/

def RgtRole.code : RgtRole → Nat | .member => 0 | .stroke => 1 | .bow => 2 | .notAdmitted => 3
def PortState.code : PortState → Nat | .off => 0 | .acquire => 1 | .hello => 2 | .active => 3 | .down => 4
def PortRole.code : PortRole → Nat | .none => 0 | .parent => 1 | .child => 2 | .alternate => 3 | .guest => 4 | .foreign => 5 | .outside => 0

/-- Identity: controller ID and crew ID (02 R68). -/
def rgtId (g : Rgt) : Word := fieldAt g.id 0 ||| fieldAt g.crew 12 ||| natAt g.role.code 2 16

def timeStatus (g : Rgt) : Word :=
  fieldAt g.sync 0 ||| flagAt g.outOfTime 2 ||| flagAt g.stepped 3 ||| flagAt g.srcLost 4 ||| flagAt g.corrChanged 5 ||| flagAt g.bowDetached 6 |||
  fieldAt g.offsetAbs 16

def extSrc (g : Rgt) : Word := fieldAt g.srcSel 0 ||| flagAt g.ppsEn 2 ||| flagAt g.p2p 3 ||| fieldAt g.ptpDomain 8

def portStatus (t : PortSt) : Word :=
  natAt t.st.code 3 0 ||| natAt t.role.code 3 3 ||| flagAt t.bowParent 6 ||| flagAt t.los 7 ||| flagAt t.wentDown 8 ||| flagAt t.tooFar 9

def portNeighbour (t : PortSt) : Word :=
  match t.probe with | some b => fieldAt b.id 0 ||| fieldAt b.crew 12 ||| fieldAt b.strokeDist 16 | none => 0

def portCtrl (t : PortSt) : Word := flagAt t.en 0 ||| flagAt t.media 1 ||| flagAt t.allocOk 2

/-- `RGT_MEMBERS`: admitted members, at the Stroke and the Bow. -/
def rgtMembers (s : State) : Word :=
  if s.rgt.role = .stroke || s.rgt.role = .bow then natAt s.crewMembers.length 13 0 else 0

def rgtReg (s : State) (off : Nat) : Option RegVal :=
  let g := s.rgt
  RegTable.at ([(0x10000, .w (rgtId g)), (0x10018, .w (timeStatus g)), (0x10030, .w (extSrc g)), (0x10040, .w (g.cfgShape.setWidth 32)),
    (0x10100, .w (rgtMembers s))] ++ pair 0x10010 (BitVec.ofNat 64 s.now) ++ pair 0x10020 (BitVec.ofInt 64 g.taiCorr)) off <|>
  inst 0x10400 0x100 4 off (fun p _ =>
    let t := g.port.get p
    let b := 0x10400 + p.val * 0x100
    RegTable.at (run b [portCtrl t, portStatus t, t.asym, t.delay, t.offset, portNeighbour t] ++
      run (b + 0x20) [t.cntCrc, t.cntAbort, t.cntDown, t.cntDrop]) off) <|>
  instWord 0x12000 512 off fun i => g.route.get i

def AlcState.code : AlcState → Nat | .normal => 0 | .miss => 1 | .hold => 2 | .ramp => 3 | .fallback => 4 | .divergent => 5

/-- The crew sums stand at the Stroke, the Bow and the Umpire (03 R100). -/
def sumWord (s : State) (supply : Bool) (l : Fin 64) : Word :=
  if s.rgt.role = .stroke || s.rgt.role = .bow || s.isUmpire then
    match s.alc.sum with | some u => if supply then u.s.get l else u.d.get l | none => 0
  else 0

def alcReg (s : State) (off : Nat) : Option RegVal :=
  let a := s.alc
  RegTable.at (pair 0x14000 (BitVec.ofNat 64 a.round) ++
    run 0x14008 [fieldAt a.lam 0 ||| flagAt a.full 6 ||| flagAt a.shed 7 ||| flagAt a.holdDown 8 ||| fieldAt a.f 16,
      natAt a.st.code 3 0 ||| flagAt a.upHolding 3 ||| flagAt a.strokeByBow 4 ||| natAt (min 255 a.missCount) 8 8, clampU 32 a.share,
      clampU 32 a.supplyShare, clampU 32 s.holdBoundNow, a.budget, a.holdReserve, a.cap, fieldAt a.curtail 0 ||| fieldAt a.crewCurtail 2,
      fieldAt a.downMembers 0 ||| fieldAt a.downAbsent 16, clampU 32 s.cfg.active.fbShare, clampU 32 s.cfg.active.fbRamp,
      fieldAt a.stroke 0 ||| (match a.bow with | some b => fieldAt b 16 | none => flagAt true 31),
      (match s.cfg.active.umpire with | .ctrl c => fieldAt c 0 | .host => flagAt true 31 | .none => 0)] ++
    evPair 0x14040 s.ev.alc ++ [(0x14048, .w (BitVec.ofNat 32 (a.drillRound.getD 0)))] ++ run 0x14050 [a.cntMiss, a.cntLate, a.cntWithheld]) off <|>
  instWord 0x14080 4 off (fun p => (a.child.get p).sub) <|>
  instWord 0x14100 64 off (fun l => a.curve.get l) <|> instWord 0x14200 64 off (fun l => a.supplyCurve.get l) <|>
  instWord 0x14300 64 off (sumWord s false) <|> instWord 0x14400 64 off (sumWord s true) <|>
  instWord 0x14800 128 off (fun i => bitsOf a.divergent (32 * i.val) 32) <|>
  RegTable.at (run 0x14A00 ((match a.crewPair with | some p => p.epoch | none => 0) ::
    digestWords (match a.crewPair with | some p => p.digest | none => 0))) off

/-- `CFG_STATUS` (04 R123). -/
def cfgStatus (s : State) : Word :=
  let c := s.cfg
  fieldAt c.stagedStatus 0 ||| flagAt c.actRound.isSome 4 ||| flagAt (s.alc.crewPair == some s.ownPair) 5 |||
  flagAt (c.legalEpoch != s.ownPair.epoch) 6 ||| flagAt c.calFrozen 7 ||| flagAt (match c.act with | some w => w.announced.isNone | none => false) 8

/-- `CFG_REPORTED`, at the Stroke: of the pair that an accepted activation awaits, else of the staged pair. -/
def cfgReported (s : State) : Word :=
  if s.rgt.role != .stroke then 0
  else
    let p := match s.cfg.act with | some w => w.pair | none => s.cfg.stagedPair
    let n := (s.crewMembers.filter fun m => s.reported p m).length
    natAt n 13 0 ||| natAt (s.crewMembers.length - n) 13 16

/-- The effective calibration of a lane: gain gain_f × gain_u in Q2.30, and the offset that gives both layers as one, off_f + off_u / gain_f.
DEDUCED (log entry 46). -/
def calGain (s : State) (n : MLane) : Word :=
  let u := match s.laneCal n with | some e => e.gain | none => (2 ^ 30 : Int)
  clampS 32 ((Config.factoryGain n.val * u).tdiv (2 ^ 30))
def calOffset (s : State) (n : MLane) : Word :=
  let u := match s.laneCal n with | some e => e.offset | none => 0
  let g := Config.factoryGain n.val
  clampS 32 (Config.factoryOffset n.val + (if g = 0 then 0 else (u * 2 ^ 30).tdiv g))

def cfgReg (s : State) (off : Nat) : Option RegVal :=
  let c := s.cfg
  let p := s.ownPair
  RegTable.at ([(0x18000, .w p.epoch), (0x18004, .w (cfgStatus s)), (0x18030, .w c.stagedPair.epoch), (0x18068, .w (cfgReported s)),
    (0x1806C, .w c.legalEpoch), (0x18078, .w c.cntAdopt), (0x1807C, .w c.cntStageFail)] ++ run 0x18010 (digestWords p.digest) ++
    run 0x18040 (digestWords c.stagedPair.digest) ++ pair 0x18060 (BitVec.ofNat 64 (c.actRound.getD 0)) ++ evPair 0x18070 s.ev.cfg) off <|>
  inst 0x18100 0x10 24 off (fun n _ =>
    gate (s.hasLane n) (RegTable.at (run (0x18100 + n.val * 0x10)
      [calGain s n, calOffset s n, clampS 32 (match s.laneCal n with | some e => e.delay | none => 0),
       flagAt (s.laneCal n).isSome 0 ||| flagAt (c.calFrozen && decide (n.val < 22)) 1]) off))

/-! ### PWM, REG, OUT -/

def pwmCtrl (c : PwmCh) : Word := flagAt c.en 0 ||| flagAt c.polH 1 ||| flagAt c.polL 2 ||| flagAt c.cmode 3 ||| flagAt c.swFault 4
def pwmStatus (c : PwmCh) : Word :=
  flagAt c.pend.isSome 0 ||| flagAt c.running 1 ||| flagAt c.commMasked 2 ||| flagAt c.faultMasked 3 ||| fieldAt c.lastResult 4 ||| fieldAt c.written 8

/-- A set in the layouts of the shadow registers. -/
def pwmSetWords (x : PwmSet) : List Word :=
  [fieldAt x.period 0, fieldAt x.rise 0, fieldAt x.fall 0, fieldAt x.dt 0, fieldAt x.comm 0 ||| fieldAt x.fault 4]

def auxCtrl (c : AuxCh) : Word := flagAt c.en 0 ||| flagAt c.pol 1 ||| flagAt c.fsLevel 2
def auxStatus (c : AuxCh) : Word :=
  flagAt c.pend.isSome 0 ||| flagAt c.running 1 ||| flagAt c.inFailsafe 2 ||| fieldAt c.lastResult 4 ||| fieldAt c.written 8

def pwmRunning (s : State) : Word :=
  fieldAt (phaseBits fun n => (s.pwm.ch.get n).running) 0 ||| fieldAt (outletBits fun a => (s.pwm.aux.get a).running) 24

def pwmReg (s : State) (off : Nat) : Option RegVal :=
  inst 0x20000 0x100 24 off (fun n _ =>
    let c := s.pwm.ch.get n
    let b := 0x20000 + n.val * 0x100
    gate (s.hasPhase n) (RegTable.at ([(b, .w (pwmCtrl c))] ++ run (b + 4) (pwmSetWords c.shadow) ++
      run (b + 0x18) [0, pwmStatus c, fieldAt c.tag 0 ||| (match c.pend with | some p => fieldAt p.tag 16 | none => 0)] ++
      run (b + 0x24) (pwmSetWords c.active) ++ evPair (b + 0x40) (s.ev.pwm.get n) ++ run (b + 0x48) [c.cntCommit, c.cntRefused]) off)) <|>
  inst 0x21800 0x20 8 off (fun a _ =>
    let c := s.pwm.aux.get a
    RegTable.at (run (0x21800 + a.val * 0x20)
      [auxCtrl c, fieldAt c.shadow.period 0, fieldAt c.shadow.duty 0, fieldAt c.failsafe 0, 0, auxStatus c]) off) <|>
  RegTable.at (run 0x21C00 [0, fieldAt s.pwm.dtMin 0, fieldAt s.pwm.groupMask 0, 0, pwmRunning s]) off

def regCtrlWord (c : RegCh) : Word := flagAt c.en 0 ||| flagAt c.dir 1 ||| flagAt c.slopeAuto 2

/-- `REG[n]_STATUS` (06 R172). -/
def regStatus (c : RegCh) : Word :=
  flagAt c.retired 0 ||| flagAt c.hsWarn 1 ||| flagAt c.hsShut 2 ||| flagAt c.lastTripped 3 ||| natAt (min 15 c.untripRun) 4 4 |||
  fieldAt c.effective 8 ||| flagAt c.dir 20

def startStatus (x : StartM) : Word :=
  natAt x.st.code 3 0 ||| flagAt x.ratiometric 3 ||| natAt x.attempt 3 4 ||| flagAt x.trackError 7 ||| natAt x.target 16 16

def regReg (s : State) (off : Nat) : Option RegVal :=
  inst 0x24000 0x40 24 off (fun n _ =>
    let c := s.reg.ch.get n
    let b := 0x24000 + n.val * 0x40
    gate (s.hasPhase n) (RegTable.at (run b [regCtrlWord c, fieldAt c.peak 0, fieldAt c.shadow 0 ||| fieldAt c.inForce 16, fieldAt c.slope 0,
      fieldAt c.blank 0, fieldAt c.dmax 0, fieldAt c.senseAvg 0, regStatus c] ++ evPair (b + 0x20) (s.ev.reg.get n) ++
      run (b + 0x28) [c.cntTrip, c.cntUntripped, fieldAt c.hsTemp 0]) off)) <|>
  RegTable.at (pair 0x24800 s.reg.applyTime ++ run 0x24808 [fieldAt (phaseBits fun n => (s.reg.ch.get n).retired) 0,
    fieldAt (phaseBits fun n => (s.reg.ch.get n).hsShut) 0]) off <|>
  inst 0x24840 4 8 off fun o _ => gate (s.hasOutlet o) (RegTable.at [(0x24840 + o.val * 4, .w (startStatus (s.reg.start.get o)))] off)

def outState (x : OutSt) : Word := natAt x.st.code 4 0 ||| fieldAt x.grantStatus 4 ||| flagAt x.disablePending 7 ||| flagAt x.rev 8
def outPilot (s : State) (o : Outlet) : Word :=
  let x := s.out.get o
  (match s.outCfg o with | some c => fieldAt c.kind 0 | none => 0) ||| fieldAt x.cls 2 ||| flagAt x.drivingPwm 5 ||| fieldAt x.ppCode 8
def outContact (s : State) (o : Outlet) : Word :=
  flagAt (s.saf.ocp.getLsbD o.val) 0 ||| flagAt (s.saf.ocm.getLsbD o.val) 1 ||| flagAt (s.saf.fbp.getLsbD o.val) 2 |||
  flagAt (s.saf.fbm.getLsbD o.val) 3 ||| flagAt (s.out.get o).imdLevel 4
def outTransit (s : State) (o : Outlet) : Word :=
  fieldAt (phaseBits fun n => match s.mtx.move.get n with | some v => v.dst == o | none => false) 0
def outEnd (x : OutSt) : Word :=
  fieldAt x.endReason 0 ||| fieldAt x.endState 8 ||| flagAt x.weldUnverified 16 ||| flagAt x.openUnderLoad 17

/-- `OUT[o]_ISO`: the insulation reading, 0 without a valid one. -/
def outIso (s : State) (o : Outlet) : Word :=
  (clampU 16 ((s.isoReading o).getD 0).toNat).setWidth 32 ||| flagAt (s.out.get o).isoWarn 16

def outReg (s : State) (off : Nat) : Option RegVal :=
  inst 0x28000 0x400 8 off (fun o _ =>
    let x := s.out.get o
    let b := 0x28000 + o.val * 0x400
    gate (s.hasOutlet o) (RegTable.at (run b [outState x, x.session, outPilot s o, outContact s o, fieldAt (phaseBits (s.counts o)) 0, outTransit s o,
      natAt x.ilim 16 0 ||| flagAt x.exporting 16, (clampS 16 x.vs).setWidth 32 ||| fieldAt (clampS 16 x.vv) 16, outIso s o, outEnd x, x.hostCap] ++
      evPair (b + 0x40) (s.ev.out.get o) ++ run (b + 0x48) [x.cntMalformed, x.cntSessions, x.cntFault]) off)) <|>
  RegTable.at (run 0x2A000 [lo32 s.mtx.drv, hi32 s.mtx.drv] ++ run 0x2A010 [lo32 s.mtx.fb, hi32 s.mtx.fb] ++
    run 0x2A020 [lo32 s.mtx.disabled, hi32 s.mtx.disabled]) off

/-! ### VCL, THM, SAF, LNE -/

def vclStatus (v : VclSt) : Word :=
  fieldAt v.link 0 ||| fieldAt v.proto 4 ||| flagAt v.tls 8 ||| flagAt v.permit 9 ||| flagAt v.authGranted 10 ||| flagAt v.bpt 11 |||
  flagAt v.carrierMissing 12

def vclReg (s : State) (off : Nat) : Option RegVal :=
  inst 0x30000 0x200 8 off (fun o _ =>
    let v := s.vcl.ch.get o
    let b := 0x30000 + o.val * 0x200
    gate (s.hasOutlet o) (RegTable.at (run b [fieldAt v.ctrl 0, vclStatus v,
      fieldAt v.slacThreshold 0 ||| fieldAt v.slacTx 8 ||| fieldAt v.slacMean 16, v.evTarget, fieldAt v.authReq 0, v.authSession,
      fieldAt v.defaultBand 0] ++ evPair (b + 0x40) (s.ev.vcl.get o) ++
      run (b + 0x48) [v.cntSlacFail, v.cntTimeout, v.cntExiErr, v.cntTlsFail]) off)) <|>
  RegTable.at (run 0x32000 [s.vcl.sessionNext, fieldAt s.vcl.hostWait 0, fieldAt (outletBits fun o => (s.vcl.ch.get o).tls) 0]) off

/-- A signed 0.01 °C reading in 16 bits; 0x8000 where it is not valid. -/
def tempHalf (x : Option Int) : Half := match x with | some t => clampS 16 t | none => 0x8000

/-- `DIE_STATE`: 3 tripped, 2 stopped, 1 stepping, 0 normal (09 R228-R230). -/
def dieState (t : Thm) : Nat := if t.dieTripped then 3 else if t.dieDone then 2 else if t.dieK ≠ 8 then 1 else 0

def thmStatus (t : Thm) : Word :=
  fieldAt t.dieK 0 ||| natAt (dieState t) 2 4 ||| flagAt t.mramBlocked 6 ||| flagAt t.batBlocked 7 ||| flagAt t.bakBlocked 8

/-- `THM_OUT_FLAGS` (09 R236). -/
def thmOutFlags (s : State) : Word :=
  let fitted := fun (o : Outlet) => (s.outCfg o).isSome
  let entry := fun (o : Outlet) (p : ThmOutlet → Bool) => fitted o && (match s.cfg.active.thermal.outlets.get o with | some e => p e | none => false)
  fieldAt (outletBits fun o => fitted o && decide ((s.thm.phi.get o).toNat < 1000)) 0 ||| fieldAt (outletBits fun o => s.thm.hard.get o) 8 |||
  fieldAt (outletBits fun o => entry o s.sensorBad) 16 ||| fieldAt (outletBits fun o => entry o s.noFlow) 24

def thmReg (s : State) (off : Nat) : Option RegVal :=
  let t := s.thm
  RegTable.at ([(0x38000, .w (thmStatus t)), (0x38004, .w ((clampS 16 t.dieTemp).setWidth 32)), (0x38008, .w (BitVec.ofNat 32 (t.hkEnd - 1))),
    (0x38040, .w (thmOutFlags s)), (0x380C8, .w t.cntBusErr), (0x380CC, .w t.cntJournalDrop)] ++ evPair 0x380C0 s.ev.thm) off <|>
  instWord 0x38010 4 off (fun i => (tempHalf (t.die.get i)).setWidth 32) <|> instWord 0x38020 6 off (fun i => natAt (t.supply.get i) 16 0) <|>
  inst 0x38060 4 8 off (fun o _ => gate (s.hasOutlet o) (RegTable.at
    [(0x38060 + o.val * 4, .w (fieldAt (t.phi.get o) 0 ||| (match t.tf.get o with | some x => fieldAt (clampS 16 x) 16 | none => 0)))] off)) <|>
  instWord 0x38080 4 off (fun l => fieldAt (t.loop.get l).flow 0 ||| fieldAt (t.loop.get l).duty 16 ||| flagAt (t.loop.get l).fault 24) <|>
  instWord 0x38090 4 off (fun f => fieldAt (t.fan.get f) 0) <|>
  instWord 0x380A0 8 off (fun d => flagAt (t.drive.get d).fault 0 ||| natAt (min 255 (t.drive.get d).misses) 8 8) <|>
  instWord 0x38100 64 off fun c => match t.hk.get c with | some v => clampS 32 v | none => 0x80000000

def siteHeld (s : State) (i : Nat) : Word :=
  match s.saf.stops[i]? with | some x => fieldAt x.origin 0 ||| flagAt true 15 ||| fieldAt x.number 16 | none => 0

def portConn (s : State) (p : Port) : Word :=
  let c := s.saf.conn.get p
  flagAt (c.got == 2) 0 ||| flagAt c.expired 1 ||| (match s.neighbourId (some p) with | some n => fieldAt n 16 | none => 0)

def acdCtrl (a : AcdSt) : Word := flagAt a.en 0 ||| natAt a.outlet.val 3 1 ||| fieldAt a.period 8 ||| fieldAt a.maxAge 16

def safSeo (s : State) : Word := fieldAt (outletBits s.seoOut) 0 ||| flagAt s.seoGlobal 8
def safSto (s : State) : Word := (List.finRange 4).foldl (fun w a => w ||| flagAt (s.saf.srcSto.get a != 0) a.val) 0

def safReg (s : State) (off : Nat) : Option RegVal :=
  let f := s.saf
  RegTable.at ([(0x40000, .w (safSeo s)), (0x40004, .w (safSto s)), (0x40008, .w (fieldAt f.srcGlb 0)),
    (0x40050, .w (fieldAt f.estopA 0 ||| fieldAt f.estopB 4 ||| fieldAt f.latched 8 ||| fieldAt f.discrepancy 12)),
    (0x40054, .w (fieldAt f.welds 0 ||| fieldAt f.fbFaults 8 ||| flagAt f.brkTrip 16)), (0x40058, .w (fieldAt f.brkPulse 0)),
    (0x4005C, .w (fieldAt f.gateEn 0)), (0x40060, .w (fieldAt f.genFault 0)), (0x40064, .w (fieldAt f.overcurrent 0)),
    (0x40068, .w (fieldAt s.stoPins 0 ||| fieldAt f.stoFault 8)), (0x40070, .w (fieldAt f.siteMode 0 ||| fieldAt f.siteMaxAge 16)),
    (0x40074, .w (flagAt (!f.stops.isEmpty) 0 ||| natAt f.stops.length 5 1 ||| flagAt f.overflow 6 ||| flagAt f.siteLost 7)),
    (0x40078, .w (fieldAt f.siteNext 0))] ++ run 0x40080 ((List.range 16).map (siteHeld s)) ++ evPair 0x40200 s.ev.saf ++
    run 0x40208 [f.cntRejId, f.cntRejSeq, f.cntRejAge, f.cntRejCrc, f.cntExpired]) off <|>
  inst 0x40010 4 8 off (fun o _ => gate (s.hasOutlet o) (RegTable.at [(0x40010 + o.val * 4, .w (fieldAt (f.srcOut.get o) 0))] off)) <|>
  instWord 0x40030 4 off (fun a => fieldAt (f.srcSto.get a) 0) <|> instWord 0x40040 4 off (fun e => f.estopMap.get e) <|>
  instWord 0x400C0 4 off (portConn s) <|>
  inst 0x40100 0x10 4 off fun a _ =>
    let x := f.acd.get a
    RegTable.at (run (0x40100 + a.val * 0x10) [acdCtrl x, x.canId, flagAt (x.conn.got == 2) 0 ||| fieldAt x.flags 8]) off

def LaneState.code : LaneState → Nat | .inStep => 0 | .restarting => 1 | .resync => 2 | .dead => 3

def lneReg (s : State) (off : Nat) : Option RegVal :=
  let l := s.lne
  RegTable.at ([(0x44000, .w (flagAt l.driving 0 ||| fieldAt l.last 1 ||| fieldAt l.cause 4 ||| flagAt l.stopped 8)),
    (0x44004, .w (natAt (l.state.get 0).code 3 0 ||| natAt (l.state.get 1).code 3 3 ||| flagAt l.coxDead 6 ||| flagAt l.drill.isSome 7)),
    (0x44010, .w (l.restarts.get 0)), (0x44014, .w (l.restarts.get 1))] ++ pair 0x44008 (BitVec.ofNat 64 l.verdictTick) ++
    evPair 0x44020 s.ev.lne ++ run 0x44028 [l.cntMismatch, l.cntTakeover, l.cntDrill]) off <|>
  instWord 0x44100 28 off (fun i => (l.record.get 0).get i) <|> instWord 0x44180 28 off fun i => (l.record.get 1).get i

/-! ### MET, BIL, BAT -/

def metStatus (s : State) : Word :=
  let m := s.met
  fieldAt m.laneFault 0 ||| flagAt m.noVoltage 24 ||| flagAt m.nominal60 25 ||| flagAt m.tempSrcLost 26 ||| flagAt (s.bilError != 0) 27 |||
  flagAt m.darkPending 28

def captureStatus (m : Met) : Word := match m.capture with | some c => flagAt true 0 ||| natAt (c.bytes / 4096) 16 8 | none => 0

def metReg (s : State) (off : Nat) : Option RegVal :=
  let m := s.met
  RegTable.at ([(0x50000, .w (flagAt m.newest 0 ||| flagAt m.writing 1)), (0x50004, .w (metStatus s)), (0x50008, .w (clampU 32 m.freq)),
    (0x5000C, .w m.window), (0x50018, .w (captureStatus m)), (0x50020, .w m.cntFaultSeconds)] ++ evPair 0x50010 s.ev.met) off <|>
  inst 0x50080 4 8 off (fun o _ => gate (s.hasOutlet o) (RegTable.at [(0x50080 + o.val * 4, .w (clampU 32 (m.dark.get o)))] off)) <|>
  inst 0x50100 8 24 off (fun n _ =>
    gate (s.hasLane n) (RegTable.at (run (0x50100 + n.val * 8) [clampS 32 (m.k.get n), clampS 32 (m.shift.get n)]) off)) <|>
  instWord 0x51000 256 off (fun i => (m.snap.get 0).get i) <|> instWord 0x51400 256 off (fun i => (m.snap.get 1).get i) <|>
  instWord 0x51800 16 off (fun i => m.live.get i) <|>
  inst 0x54000 0x100 6 off fun b _ => instWord (0x54000 + b.val * 0x100) 64 off fun h => (m.harm.get b).get h

def bilStatus (s : State) : Word :=
  let f := s.bil.core.openFlags
  flagAt s.bil.legalUp 0 ||| flagAt (f.getLsbD 1) 1 ||| flagAt (f.getLsbD 2) 2 ||| flagAt (f.getLsbD 0) 3 ||| flagAt s.thm.mramBlocked 4 |||
  flagAt s.bil.sealedF 5 ||| flagAt s.bil.erased 6

def bilTariff (s : State) : Word :=
  natAt s.bil.core.tariff 4 0 ||| flagAt s.bil.core.dynamic 4 ||| flagAt s.bil.core.hold 5 ||| fieldAt s.tariffPending 8

def bilInterval (t : TariffCfg) : Word :=
  natAt t.len 6 0 ||| flagAt t.sliding 6 ||| natAt t.sub 8 8 ||| natAt (if t.stepLimit = 0 then 20 else t.stepLimit) 10 16

/-- Newest and oldest receipt numbers held. -/
def receiptNumber (x : Option Receipt) : Word := match x with | some r => clampU 32 r.number | none => 0

def dw (n : Nat) : DWord := BitVec.ofNat 64 n

def bilReg (s : State) (off : Nat) : Option RegVal :=
  let b := s.bil
  let c := b.core
  RegTable.at ([(0x58000, .w (bilStatus s)), (0x58004, .w (bilTariff s)), (0x58010, .w c.cycle), (0x58014, .w (bilInterval s.legalTariff)),
    (0x58018, .w s.bilError), (0x58020, .w (receiptNumber b.receipts.head?)), (0x58024, .w (receiptNumber b.receipts.getLast?)),
    (0x58040, .w (fieldAt b.stepSrc 0)), (0x58070, .w b.legalVersion), (0x580A0, .w (fieldAt b.dispFaulty 0)), (0x580A4, .w b.cntOverwritten)] ++
    pair 0x58008 (dw c.seq) ++ pair 0x58030 b.stepOld ++ pair 0x58038 b.stepNew ++ pair 0x58048 s.bstepB ++ evPair 0x58050 s.ev.bil ++
    run 0x58060 ((List.range 4).map fun i => bitsOf b.meterId (32 * i) 32) ++ run 0x58080 (digestWords b.legalDigest)) off <|>
  inst 0x58400 0x80 8 off (fun o _ =>
    gate (s.hasOutlet o) (inst (0x58400 + o.val * 0x80) 0x10 8 off fun t _ =>
      let e := (c.outlets.get o).get t
      let a := 0x58400 + o.val * 0x80 + t.val * 0x10
      RegTable.at (pair a (dw e.imp) ++ pair (a + 8) (dw e.exp)) off)) <|>
  inst 0x58800 0x40 8 off (fun t _ =>
    let g := c.grid.get t
    let a := 0x58800 + t.val * 0x40
    RegTable.at (pair a (dw g.imp) ++ pair (a + 8) (dw g.exp) ++ pair (a + 0x10) (dw (g.q.get 0)) ++ pair (a + 0x18) (dw (g.q.get 1)) ++
      pair (a + 0x20) (dw (g.q.get 2)) ++ pair (a + 0x28) (dw (g.q.get 3))) off) <|>
  inst 0x58A00 0x20 8 off (fun t _ =>
    let x := c.md.get t
    let a := 0x58A00 + t.val * 0x20
    RegTable.at ([(a, .w (clampU 32 x.imp)), (a + 0xC, .w (clampU 32 x.exp))] ++ pair (a + 4) (dw x.impTime) ++ pair (a + 0x10) (dw x.expTime)) off) <|>
  inst 0x58C00 0x20 9 off fun y _ =>
    let x := b.tamper.get y
    let a := 0x58C00 + y.val * 0x20
    RegTable.at ([(a, .w x.count)] ++ pair (a + 4) (dw x.first) ++ pair (a + 0xC) (dw x.last)) off

def batStatus (b : Bat) : Word :=
  flagAt b.present 0 ||| flagAt b.degraded 1 ||| flagAt b.relearn 2 ||| flagAt b.heldRun.isSome 3 ||| flagAt b.eod 4 ||| flagAt b.eoc 5 |||
  flagAt b.tempFail 6 ||| fieldAt b.eodLevel 7 ||| fieldAt b.eocLevel 10

/-- `BAT_BAK` (14 R364). -/
def batBak (b : Bat) : Word :=
  fieldAt b.vbak 0 ||| fieldAt (bitsOf b.bakEst 0 7) 16 ||| flagAt b.bakLow 24 ||| flagAt b.bakCrit 25 ||| flagAt b.shipArmed 26

def batReg (s : State) (off : Nat) : Option RegVal :=
  let b := s.bat
  RegTable.at (run 0x60000 [batStatus b, natAt b.soc 14 0 ||| natAt b.u 14 16, clampS 32 b.volt, clampS 32 b.curr,
      (clampS 16 b.tLo).setWidth 32 ||| fieldAt (clampS 16 b.tHi) 16, clampU 32 b.capacity, b.cycles, clampU 32 b.overdraw, clampS 32 b.grant,
      clampU 32 b.grantIlim, clampU 32 (if b.present then (s.now - b.trueRef) / 60000000000 else 0), b.rLast, batBak b] ++
    evPair 0x60040 s.ev.bat ++ run 0x60048 [b.cntSteps, b.cntReject, b.cntHeld]) off <|>
  instWord 0x60100 80 off fun i => (b.z.get ⟨i.val / 10, by have := i.isLt; omega⟩).get ⟨i.val % 10, by omega⟩

/-! ### KEY, LCS, DIA, IRQ -/

def keyStatus (s : State) : Word :=
  let k := s.key
  natAt (if s.glb.variant = .a8t then 2 else 1) 2 0 ||| flagAt k.rootOk 2 ||| flagAt k.rootFail 3 ||| flagAt k.zeroized 4 ||| flagAt k.mixed 5 |||
  flagAt k.rngFail 6 ||| flagAt s.certValid 7

def keyQueue (k : Key) : Word := (List.finRange 4).foldl (fun w q => w ||| natAt (k.queues.get q).length 5 (5 * q.val)) 0

/-- `KEY_SLOT[s]_ATTR`: of the MRAM slot, or of the OTP slot of the same index in use (18 R444). -/
def slotAttr (s : State) (i : Nat) : Word :=
  match s.slotInUse i with
  | some k => fieldAt k.kind 0 ||| fieldAt k.usage 4 ||| fieldAt k.role 8 ||| flagAt (s.mramSlot i).isNone 12 ||| natAt k.state 4 13 ||| natAt k.nt 15 17
  | none => 0

def otpAttr (o : OtpSlot) : Word :=
  fieldAt o.kind 0 ||| fieldAt o.usage 4 ||| fieldAt o.role 8 ||| fieldAt o.stateMask 16 ||| flagAt o.void 30 ||| flagAt o.programmed 31

def keyReg (s : State) (off : Nat) : Option RegVal :=
  let k := s.key
  RegTable.at ([(0x68000, .w (keyStatus s)), (0x68004, .w (if s.glb.variant = .a8t then fieldAt k.tamper 0 ||| fieldAt k.swEn 8 else 0)), (0x68050, .w (fieldAt k.legacy 0)),
    (0x68054, .w (keyQueue k))] ++ run 0x68010 (digestWords k.birthDigest) ++ run 0x68030 (digestWords k.stateDigest) ++ evPair 0x68060 s.ev.key ++
    run 0x68068 [k.cntSign, k.cntVerifyFail, k.cntRefused]) off <|>
  inst 0x68100 0x20 4 off (fun r _ =>
    RegTable.at (run (0x68100 + r.val * 0x20) (digestWords (match s.anchor (r.val + 1) with | some a => a.digest | none => 0))) off) <|>
  instWord 0x68400 256 off (fun i => slotAttr s i.val) <|> instWord 0x68800 16 off fun j => otpAttr (k.otp.get j)

def lcsState (l : Lcs) : Word := natAt l.st.code 3 0 ||| flagAt l.returnPending 3
def lcsStatus (l : Lcs) : Word :=
  flagAt l.portOpen 0 ||| flagAt l.lock 1 ||| flagAt l.recovery 2 ||| flagAt l.normalBoot 3 ||| flagAt l.policy.isSome 4

def imgStatus (g : ImgKind) : Word :=
  flagAt g.runningB 0 ||| flagAt g.started 1 ||| flagAt g.trial 2 ||| fieldAt g.tries 3 ||| flagAt g.failed 6
def slotVersion (x : ImgSlot) : Word := if x.valid then x.version else 0

def lcsReg (s : State) (off : Nat) : Option RegVal :=
  let l := s.lcs
  RegTable.at (run 0x70000 [lcsState l, lcsStatus l, clampU 32 l.nt] ++ run 0x70010 (digestWords l.nonce) ++
    run 0x70040 ((List.range 16).map fun i => bitsOf l.meas (32 * i) 32) ++ [(0x70200, .w (clampU 32 l.portAuth.length))] ++
    evPair 0x70300 s.ev.lcs ++ run 0x70308 [l.cntAuthFail, l.cntLegalWp]) off <|>
  inst 0x70100 0x10 6 off fun k _ =>
    let g := l.img.get k
    if k.val = 0 then none
    else RegTable.at (run (0x70100 + k.val * 0x10) [imgStatus g, slotVersion g.a, slotVersion g.b, fieldAt g.rollback 0]) off

/-- Records in event-number order, oldest first: those held and those that wait (21 R484, R485). -/
def Dia.records (d : Dia) : List JRec := d.journal.reverse ++ d.waiting

def diaStatus (d : Dia) : Word :=
  fieldAt d.drift 0 ||| flagAt d.dieSpread 16 ||| flagAt d.laneWarn 17 ||| flagAt (!d.waiting.isEmpty) 18 ||| flagAt d.wrapped 19

/-- `DIA_LANE[n]_HEALTH`. -/
def laneHealthWord (s : State) (n : MLane) : Word :=
  fieldAt (s.dia.laneHealth.get n) 0 ||| flagAt (s.met.laneFault.getLsbD n.val) 10 ||| fieldAt (s.dia.laneFaults.get n) 16

def newestEvent (d : Dia) : DWord := dw (d.next - 1)
def oldestEvent (d : Dia) : DWord := match d.records with | x :: _ => dw x.number | [] => 0

/-- The outlet whose sensors a drift indicator compares. -/
def driftOutlet (i : Fin 16) : Outlet := ⟨i.val % 8, by omega⟩

def diaReg (s : State) (off : Nat) : Option RegVal :=
  let d := s.dia
  RegTable.at ([(0x78000, .w (diaStatus d)), (0x78028, .w d.cntSuppressed), (0x7802C, .w d.cntRemote)] ++ pair 0x78008 (newestEvent d) ++
    pair 0x78010 (oldestEvent d) ++ evPair 0x78020 s.ev.dia) off <|>
  instWord 0x78040 4 off (fun p => d.codeErr.get p) <|>
  inst 0x78080 4 16 off (fun i _ => gate (s.hasOutlet (driftOutlet i)) (RegTable.at [(0x78080 + i.val * 4, .w (d.ind.get i).value)] off)) <|>
  inst 0x78100 4 24 off fun n _ => gate (s.hasLane n) (RegTable.at [(0x78100 + n.val * 4, .w (laneHealthWord s n))] off)

/-- The first vector of a function, and how many it has (01 R15; 15 R365). -/
def vecBase (f : Fn) : Nat := match f with | 0 => 0 | 1 => 32 | 2 => 96
def vecCount (f : Fn) : Nat := if f = 1 then 64 else 32

/-- The function whose vector it is. -/
def vecFn (v : IrqVec) : Fn := if v.val < 32 then 0 else if v.val < 96 then 1 else 2

/-- Words of an MSI-X table entry, as the PCI Express Base Specification lays it out. -/
def msixWords (q : Irq) : List Word := [lo32 q.msgAddr, hi32 q.msgAddr, q.msgData, flagAt q.masked 0]

/-- Word k of a function's pending bit array. -/
def pbaWord (s : State) (f : Fn) (k : Nat) : Word :=
  (List.range 32).foldl (fun w i => w ||| flagAt (s.irq.get (Fin.ofNat 128 (vecBase f + 32 * k + i))).pendingBit i) 0

def irqMod (q : Irq) : Word := fieldAt q.count 0 ||| fieldAt q.time 8

def irqReg (s : State) (m : Master) (off : Nat) : Option RegVal :=
  let f := viewOr m
  inst 0x80000 0x10 (vecCount f) off (fun j _ =>
    RegTable.at (run (0x80000 + j.val * 0x10) (msixWords (s.irq.get (Fin.ofNat 128 (vecBase f + j.val))))) off) <|>
  RegTable.at (run 0x81000 ((List.range (vecCount f / 32)).map (pbaWord s f))) off <|>
  inst 0x82000 8 128 off fun v _ =>
    let q := s.irq.get v
    RegTable.at (run (0x82000 + v.val * 8) [irqMod q, fieldAt q.u 0 ||| flagAt q.timer.isSome 16]) off

/-! ### The whole map (22 R496, R503) -/

/-- The blocks of BAR0 (22 R496). -/
inductive Block where
  | glb | clk | pwr | ring | win | frz | rgt | alc | cfg | pwm | reg | out | vcl | thm | saf | lne | met | bil | bat | key | lcs | dia | irq
deriving DecidableEq, Repr

def blockOf (off : Nat) : Block :=
  if off < 0x1000 then .glb else if off < 0x2000 then .clk else if off < 0x4000 then .pwr else if off < 0x6000 then .ring
  else if off < 0x8000 then .win else if off < 0x10000 then .frz else if off < 0x14000 then .rgt else if off < 0x18000 then .alc
  else if off < 0x20000 then .cfg else if off < 0x24000 then .pwm else if off < 0x28000 then .reg else if off < 0x30000 then .out
  else if off < 0x38000 then .vcl else if off < 0x40000 then .thm else if off < 0x44000 then .saf else if off < 0x50000 then .lne
  else if off < 0x58000 then .met else if off < 0x60000 then .bil else if off < 0x68000 then .bat else if off < 0x70000 then .key
  else if off < 0x78000 then .lcs else if off < 0x80000 then .dia else .irq

/-- What an offset reads as before the view; none where no chapter assigns it (22 R501). -/
def State.regAt (s : State) (m : Master) (off : Nat) : Option RegVal :=
  match blockOf off with
  | .glb => glbReg s m off | .clk => clkReg s off | .pwr => pwrReg s off | .ring => ringBlock s m off | .win => winReg s m off
  | .frz => frzReg s off | .rgt => rgtReg s off | .alc => alcReg s off | .cfg => cfgReg s off | .pwm => pwmReg s off | .reg => regReg s off
  | .out => outReg s off | .vcl => vclReg s off | .thm => thmReg s off | .saf => safReg s off | .lne => lneReg s off | .met => metReg s off
  | .bil => bilReg s off | .bat => batReg s off | .key => keyReg s off | .lcs => lcsReg s off | .dia => diaReg s off | .irq => irqReg s m off

/-- What a view shows of a block at an offset (22 R496 with its notes 1 to 5). -/
def viewShows (m : Master) (f : Fn) (off : Nat) : Bool :=
  match blockOf off with
  | .glb | .clk | .pwr | .win | .rgt | .met | .bil | .out | .vcl => true
  | .ring => if off < 0x5000 then ringFn (Fin.ofNat 64 ((off - 0x4000) / 0x40)) == f else true
  | .frz => f == 2 || off == 0x8000 || (match m.code with | some c => 0x8100 + c.val * 0x10 ≤ off && off < 0x8110 + c.val * 0x10 | none => false)
  | .cfg => f != 1
  | .alc | .pwm | .reg | .thm | .lne | .bat => f != 1
  | .saf => f != 1 || off == 0x40000 || off == 0x40004
  | .key | .dia => f == 2
  | .lcs => f == 2 || off == 0x70000 || off == 0x70004
  | .irq => if 0x82000 ≤ off then vecFn (Fin.ofNat 128 ((off - 0x82000) / 8)) == f else true

/-- Whether a master reads an offset: through its view, or, for the masters without one, their own blocks and GLB (22 R498). The inspection
channel reads what PF2 reads, outside SCRAP (19 R451). -/
def State.sees (s : State) (m : Master) (off : Nat) : Bool :=
  match viewFn m, m with
  | some f, .port => s.lcs.st != .scrap && viewShows m f off
  | some f, _ => viewShows m f off
  | none, .legal => blockOf off == .met || blockOf off == .bil || blockOf off == .glb
  | none, .caddy => blockOf off == .key || blockOf off == .glb
  | none, _ => false

/-- The value that a `_HI` word returns: the last one that the master latched (22 R500). -/
def State.latched (s : State) (m : Master) (loOff : Nat) : Word := sparseGet 0 (s.glb.bank.get m.bank).latches loOff

/-- What a read of a register returns: all-ones to a frozen master, 0 outside the view and at an unassigned offset (16 R403; 22 R497, R501). -/
def State.readReg (s : State) (m : Master) (off : Nat) : Word :=
  if s.frozen m then BitVec.allOnes 32
  else if !s.sees m off then 0
  else match s.regAt m off with
    | none => 0
    | some (.w v) => v
    | some (.lo v) => lo32 v
    | some (.hi l) => s.latched m l

end Sys2Proof.Machine
end

