-- ==== Sys2Proof/Machine/Diagnostics.lean ====
section
/-! DEFINITION. Remote diagnosis: what a housekeeping round measures, drift windows, the health record, the export of the event journal and the
exchange of health records (21). -/
namespace Sys2Proof.Machine

/-! ### Measures of a housekeeping round (21 R488-R490) -/

/-- A lane that is not faulty but whose ones-density lies outside 10 % to 90 %. -/
def State.laneOutside (s : State) (n : MLane) : Bool :=
  s.hasLane n && !s.met.laneFault.getLsbD n.val && (decide ((s.dia.laneHealth.get n).toNat < 100) || decide (900 < (s.dia.laneHealth.get n).toNat))

/-- `DIA_LANE[n]_HEALTH` and `LANE_WARN`, which follows the round's values. DEDUCED (log entry 47). -/
def State.laneRound (inp : HkIn) (s : State) : State :=
  let t := s.modDia fun d => { d with laneHealth := vmapIdx d.laneHealth fun n _ => if s.hasLane n then clampU 10 (inp.density.get n) else 0 }
  let warn := (List.finRange 24).any t.laneOutside
  (t.modDia fun d => { d with laneWarn := warn }).cond (warn && !s.dia.laneWarn) (·.raise .dia 2)

/-- `DIE_SPREAD`: 10 rounds beyond 8 °C, and 10 rounds within it. A round without a valid reading is neither. -/
def State.spreadRound (s : State) : State :=
  match s.thm.die.toList.filterMap id with
  | [] => s
  | a :: l =>
    let wide := decide (l.foldl max a - l.foldl min a > 800)
    let t := s.modDia fun d => { d with spreadRun := if wide then d.spreadRun + 1 else 0, calmRun := if wide then 0 else d.calmRun + 1 }
    if 10 ≤ t.dia.spreadRun && !t.dia.dieSpread then (t.modDia fun d => { d with dieSpread := true }).raise .dia 1
    else if 10 ≤ t.dia.calmRun then t.modDia fun d => { d with dieSpread := false }
    else t

/-- Mean current of an outlet over the last tick, mA (12 R310). -/
def State.liveCurrent (s : State) (o : Outlet) : Int := (s.met.live.get ⟨4 + o.val, by have := o.isLt; omega⟩).toInt

/-- Sum of the phase averages of an outlet's group, mA. -/
def State.senseSum (s : State) (o : Outlet) : Int :=
  sumFinI 24 fun n =>
    if s.counts o n then (match s.phaseCfg n with | some c => ((s.reg.ch.get n).senseAvg.toInt * c.ifs * 100).tdiv 2047 | none => 0) else 0

/-- The sample of an indicator, where its condition holds. -/
def State.driftSample (s : State) (i : Fin 16) : Option Nat :=
  let o := driftOutlet i
  if i.val < 8 then
    let c := s.liveCurrent o
    if (s.out.get o).st = .energy && c ≠ 0 && decide (s.maxCurrent o (s.out.get o).exporting * 10 ≤ c.natAbs) then
      some ((c - s.senseSum o).natAbs * 10000 / c.natAbs)
    else none
  else
    match s.outCfg o, s.cfg.active.thermal.outlets.get o with
    | some _, some e => match s.hkVal e.sensA, e.sensB.bind s.hkVal with
      | some a, some b => some (a - b).natAbs
      | _, _ => none
    | _, _ => none

/-- Every indicator whose condition holds takes a sample. -/
def State.driftRound (s : State) : State :=
  s.modDia fun d => { d with ind := vmapIdx d.ind fun i x => match s.driftSample i with | some v => { x with sum := x.sum + v, n := x.n + 1 } | none => x }

/-- What diagnosis does at the end of a housekeeping round. -/
def State.diaRound (inp : HkIn) (s : State) : State := ((s.laneRound inp).spreadRound).driftRound

/-! ### Drift windows (21 R489) -/

def driftLimit (i : Fin 16) : Nat := if i.val < 8 then 300 else 500

/-- A window closes: with at least 1,000 samples its mean is the value, and the window counts as above or not above the limit. -/
def DriftInd.close (limit : Nat) (x : DriftInd) : DriftInd :=
  if x.n < 1000 then { x with sum := 0, n := 0 }
  else
    let v := roundDiv x.sum x.n
    ⟨clampU 32 v, 0, 0, if limit < v then x.above + 1 else 0, if limit < v then 0 else x.under + 1⟩

/-- `DRIFT` bit i after a window. -/
def State.driftFlag (i : Fin 16) (s : State) : State :=
  let x := s.dia.ind.get i
  if 3 ≤ x.above && !s.dia.drift.getLsbD i.val then (s.modDia fun d => { d with drift := d.drift ||| bit 16 i.val }).raise .dia 0
  else if 3 ≤ x.under then s.modDia fun d => { d with drift := d.drift &&& ~~~ bit 16 i.val }
  else s

/-- DRIFT_WINDOW: time runs to the end of the 60 s. -/
def execDriftWindow (s : State) : Host.Outcome State Fault Refusal :=
  s.live fun s => (
    let s := s.runTo (s.dia.windowAt + sec 60)
    (s.modDia fun d => { d with windowAt := s.clk.cycle, ind := vmapIdx d.ind fun i x => x.close (driftLimit i) }).forAll fun (i : Fin 16) t => t.driftFlag i)

/-! ### The health record (21 R491) -/

/-- A register's word as the record holds it; 0 for an absent resource. -/
def State.wordAt (s : State) (off : Nat) : Word :=
  match s.regAt .mgmt off with | some (.w v) => v | some (.lo v) => lo32 v | _ => 0

def State.wordsAt (s : State) (offs : List Nat) : List Byte := offs.flatMap fun x => le 4 (s.wordAt x).toNat

def State.healthRecord (s : State) : List Byte :=
  le 4 0x484C4843 ++ le 2 1 ++ le 2 (rgtId s.rgt).toNat ++ le 8 s.now ++ le 8 (newestEvent s.dia).toNat ++
  le 4 ((s.clk.cycle - s.pwr.coldAt) / sec 1) ++ le 1 s.pwr.cause.toNat ++ le 1 s.lcs.st.code ++ le 2 0 ++ s.wordsAt [0x18000, 0x78000] ++ le 24 0 ++
  ((List.range 4).flatMap fun p =>
    let b := 0x10400 + p * 0x100
    s.wordsAt [b + 4, b + 0x20, b + 0x24, b + 0x28, b + 0x2C, 0x78040 + 4 * p, b + 0xC, b + 0x10]) ++
  ((List.range 24).flatMap fun n =>
    let b := 0x24000 + n * 0x40
    s.wordsAt [b + 0x1C, b + 0x28, b + 0x2C, b + 0x30]) ++
  ((List.range 8).flatMap fun o =>
    let b := 0x28000 + o * 0x400
    let v := 0x30000 + o * 0x200
    s.wordsAt [b, b + 0x24, b + 0x48, b + 0x4C, b + 0x50, v + 0x48, v + 0x4C, v + 0x54]) ++
  s.wordsAt ((List.range 24).map fun n => 0x78100 + 4 * n) ++ s.wordsAt [0x44010, 0x44014, 0x44028, 0x4402C] ++
  s.wordsAt ((List.range 16).map fun i => 0x78080 + 4 * i) ++ le 16 0

/-- Bytes into a page from its start. -/
def State.fillPage (ref : Word) (bytes : List Byte) (s : State) : State := s.memWriteList ((pageOf ref).val * 4096) bytes

/-- DIA_HEALTH. The record is read at the descriptor's work from the values of the last housekeeping round. DEDUCED (log entry 48). -/
def execDiaHealth (r : Ring) (d : Desc) (s : State) : Host.Outcome State Fault Refusal :=
  .next (s.work r d fun t => (t.fillPage (d.w 28) t.healthRecord).complete r d.seq 0 1024)

/-! ### Export (21 R493) -/

/-- Bytes of an event journal record (21 R484). -/
def JRec.bytes (x : JRec) : List Byte :=
  le 8 x.number ++ le 8 x.time ++ le 1 x.block ++ le 1 x.code ++ le 1 x.origin ++ le 1 x.flags ++ le 2 x.subject ++ le 2 x.suppressed ++ le 4 x.a ++ le 4 x.b

/-- An export runs from its acceptance to its completion. DEDUCED (log entry 48). -/
def State.refDiaExport (s : State) : Bool :=
  (List.finRange 64).any fun r => (s.dlv.slots.get r).any (fun j => j.desc.opcode == 0x1501 && j.comp.isNone) ||
    (s.ring.get r).committing.any fun x => x.desc.opcode == 0x1501

/-- DIA_EXPORT: the records from the first number asked for, up to the newest one at acceptance, 128 a page. -/
def execDiaExport (r : Ring) (d : Desc) (s : State) : Host.Outcome State Fault Refusal :=
  .next (s.work r d fun t =>
    let first := (d.q 24).toNat
    let pages := (d.w 36).toNat
    let from' := t.acceptedAt r d.seq
    let l := (t.dia.records.filter fun x => decide (first ≤ x.number) && decide (x.time ≤ from')).take (128 * pages)
    let gone := first != 0 && decide (first < (oldestEvent t.dia).toNat)
    (t.writePages (t.listRefs (d.w 32) pages) (l.flatMap JRec.bytes)).complete r d.seq (if gone then 1 else 0) (BitVec.ofNat 32 l.length))

/-! ### Remote records (21 R492, R493) -/

def remoteDest (d : Desc) : CtrlId × BitVec 4 := (bitsOf (d.h 24) 0 12, bitsOf (d.h 24) 12 4)

/-- DIA_REMOTE is refused without a valid route. -/
def State.refRemote (s : State) (d : Desc) : Bool := (s.routeTo (remoteDest d).1).isNone

/-- DIA_REMOTE: the request leaves, and the descriptor waits for the reply. -/
def execDiaRemote (r : Ring) (d : Desc) (s : State) : Host.Outcome State Fault Refusal :=
  .next (s.work r d fun t =>
    let q := t.dia.nextReq
    (t.sendCfg (remoteDest d) (.diagRequest t.rgt.id t.rgt.crew q)).modDia fun x =>
      { x with nextReq := q + 1, remote := x.remote ++ [⟨r, d.seq, d.h 24, q, d.w 28, t.clk.cycle⟩] })

/-- DIA_REMOTE_TIMEOUT: the oldest request completes after 500 ms with result 0. -/
def execDiaRemoteTimeout (s : State) : Host.Outcome State Fault Refusal :=
  s.live fun s => (match s.dia.remote with
    | [] => s
    | w :: l => ((s.runTo (w.since + ms 500)).modDia fun x => { x with remote := l }).complete w.ring w.seq 0 0)

/-- A requester counts as admitted unless this controller knows otherwise: a guest, or, at the Stroke and the Bow, a controller of the own crew
that is no member. DEDUCED (log entry 48). -/
def State.requesterOk (s : State) (p : Port) (id : CtrlId) (crew : BitVec 4) : Bool :=
  (s.rgt.port.get p).role != .guest && !(s.rgt.guests.any fun g => g.1 == id) &&
  (crew != s.rgt.crew || (s.rgt.role != .stroke && s.rgt.role != .bow) || s.crewMembers.contains id)

/-- DIAG_REQUEST: answered to the requester by the management plane. -/
def execDiagRequest (p : Port) (h : Hdr) (id : CtrlId) (crew : BitVec 4) (reqId : Word) (s : State) : Host.Outcome State Fault Refusal :=
  s.live fun s => (s.rxClass .cfg p h fun t =>
    if !t.forMe h then t
    else
      let t := t.takeMsg 0x0020
      if !t.pwr.mgmtReady || !t.requesterOk p id crew || (t.routeTo id).isNone then t
      else ((t.sendCfg (id, crew) (.diagReply reqId t.healthRecord)).modDia fun d => { d with cntRemote := satInc d.cntRemote }).raise .dia 3)

/-- DIAG_REPLY: the record fills the page of the request that it answers. -/
def execDiagReply (p : Port) (h : Hdr) (reqId : Word) (record : List Byte) (s : State) : Host.Outcome State Fault Refusal :=
  s.live fun s => (s.rxClass .cfg p h fun t =>
    if !t.forMe h then t
    else
      let t := t.takeMsg 0x0021
      match t.dia.remote.find? fun w => w.reqId == reqId && w.dest == (h.crew ++ h.src) with
      | none => t
      | some w =>
        ((t.modDia fun x => { x with remote := x.remote.filter fun y => y.reqId != reqId }).fillPage w.page (record.take 1024)).complete w.ring w.seq 0 1024)

end Sys2Proof.Machine
end

