-- ==== Sys2Proof/Machine/Decide.lean ====
section
/-! DEFINITION. The decision on a fetched descriptor (15 R374, R379-R383; 16 R396, R397), and what the management core does under a policy
(19 R459). -/
namespace Sys2Proof.Machine

/-! ### The opcodes (15 R374) -/

/-- What an opcode names. -/
inductive OpName where
  | setCap | drill | takeover | roleRestore | holdClear
  | timeOfDay | tunnelSend | tunnelRecv
  | stage | activate | stageCancel
  | phaseRestore
  | outEnable | outDisable | outStop | faultClear | sessionCap
  | policy | auth | fetch | certResponse | schedule | stationChain
  | seoDemand | stoDemand | siteStop | safReset
  | swapDrill | laneRestore
  | capture
  | tariffSet | receiptFetch | exportRange | erase
  | heldStep | ship
  | nop | fence
  | claim | release
  | forget
  | slotWrite | slotErase | otpWrite | anchorSet | legacySet | quote | certFetch
  | challenge | transition | portOpen | portClose | imageWrite | imageActivate | imageConfirm | policySet | lock
  | reset | idle | run
  | diaExport | health | remote
deriving DecidableEq, Repr

/-- A row of an opcode table: the function on which it is posted and its class, none for any. -/
structure OpRow where
  code : Nat
  op : OpName
  fn : Option Fn
  cls : Option Nat
deriving DecidableEq, Repr

/-- The opcodes of PF0 rings. -/
def opsPf0 : List OpRow :=
  [⟨0x0101, .setCap, some 0, some 0⟩, ⟨0x0102, .drill, some 0, some 3⟩, ⟨0x0103, .takeover, some 0, some 1⟩, ⟨0x0104, .roleRestore, some 0, some 3⟩,
   ⟨0x0105, .holdClear, some 0, some 1⟩, ⟨0x0601, .phaseRestore, some 0, some 1⟩, ⟨0x0701, .outEnable, some 0, some 1⟩,
   ⟨0x0702, .outDisable, some 0, some 1⟩, ⟨0x0703, .outStop, some 0, some 1⟩, ⟨0x0704, .faultClear, some 0, some 1⟩,
   ⟨0x0705, .sessionCap, some 0, some 0⟩, ⟨0x0A01, .seoDemand, some 0, some 0⟩, ⟨0x0A02, .stoDemand, some 0, some 0⟩,
   ⟨0x0A03, .siteStop, some 0, some 0⟩, ⟨0x0A04, .safReset, some 0, some 1⟩, ⟨0x0B01, .swapDrill, some 0, some 3⟩,
   ⟨0x0B02, .laneRestore, some 0, some 1⟩, ⟨0x0E01, .heldStep, some 0, some 3⟩]

/-- The opcodes of PF1 rings and those of any ring. -/
def opsPf1 : List OpRow :=
  [⟨0x0202, .tunnelSend, some 1, some 2⟩, ⟨0x0203, .tunnelRecv, some 1, some 4⟩, ⟨0x0801, .policy, some 1, some 1⟩, ⟨0x0802, .auth, some 1, some 1⟩,
   ⟨0x0803, .fetch, some 1, some 2⟩, ⟨0x0804, .certResponse, some 1, some 2⟩, ⟨0x0805, .schedule, some 1, some 2⟩,
   ⟨0x0806, .stationChain, some 1, some 4⟩, ⟨0x0C01, .capture, some 1, some 2⟩, ⟨0x0D02, .receiptFetch, some 1, some 2⟩,
   ⟨0x0F01, .nop, none, none⟩, ⟨0x0F02, .fence, none, none⟩, ⟨0x1001, .claim, none, some 1⟩, ⟨0x1002, .release, none, some 1⟩,
   ⟨0x1101, .forget, none, some 2⟩]

/-- The opcodes of PF2 rings. -/
def opsPf2 : List OpRow :=
  [⟨0x0201, .timeOfDay, some 2, some 2⟩, ⟨0x0301, .stage, some 2, some 4⟩, ⟨0x0302, .activate, some 2, some 4⟩, ⟨0x0303, .stageCancel, some 2, some 2⟩,
   ⟨0x0D01, .tariffSet, some 2, some 3⟩, ⟨0x0D03, .exportRange, some 2, some 4⟩, ⟨0x0D04, .erase, some 2, some 4⟩, ⟨0x0E02, .ship, some 2, some 2⟩,
   ⟨0x1201, .slotWrite, some 2, some 2⟩, ⟨0x1202, .slotErase, some 2, some 2⟩, ⟨0x1203, .otpWrite, some 2, some 4⟩,
   ⟨0x1204, .anchorSet, some 2, some 4⟩, ⟨0x1205, .legacySet, some 2, some 2⟩, ⟨0x1206, .quote, some 2, some 2⟩, ⟨0x1207, .certFetch, some 2, some 2⟩,
   ⟨0x1301, .challenge, some 2, some 2⟩, ⟨0x1302, .transition, some 2, some 4⟩, ⟨0x1303, .portOpen, some 2, some 2⟩, ⟨0x1304, .portClose, some 2, some 1⟩,
   ⟨0x1305, .imageWrite, some 2, some 4⟩, ⟨0x1306, .imageActivate, some 2, some 2⟩, ⟨0x1307, .imageConfirm, some 2, some 2⟩,
   ⟨0x1308, .policySet, some 2, some 4⟩, ⟨0x1309, .lock, some 2, some 1⟩, ⟨0x1401, .reset, some 2, some 2⟩, ⟨0x1402, .idle, some 2, some 2⟩,
   ⟨0x1403, .run, some 2, some 2⟩, ⟨0x1501, .diaExport, some 2, some 4⟩, ⟨0x1502, .health, some 2, some 2⟩, ⟨0x1503, .remote, some 2, some 4⟩]

def opTable : List OpRow := opsPf0 ++ (opsPf1 ++ opsPf2)

def opRow? (code : Half) : Option OpRow := opTable.find? fun x => x.code == code.toNat

/-! ### Targets and payloads (15 R380, R383) -/

/-- A run of pages lies in a function's range (16 R399). -/
def State.runInRange (s : State) (f : Fn) (d : Desc) : Bool :=
  let a := (d.h 24).toNat
  let n := (d.h 26).toNat
  decide (a + n ≤ 4096) && (runOf d).all fun p => s.win.rangeOf p == f

/-- The target is in range, present and fitted; 0 where the opcode gives none. Runs of pages and the ring of a fence are refused alike (15
R375; 16 R399; 17 R423). Of a safety command, the variant's outlets (10 R268). -/
def State.targetOk (s : State) (r : Ring) (d : Desc) : OpName → Bool
  | .holdClear => decide (d.target.toNat < 4)
  | .phaseRestore => match phaseOf d.target with | some n => (s.phaseCfg n).isSome | none => false
  | .outEnable | .outDisable | .outStop | .faultClear | .sessionCap | .policy | .auth | .fetch | .certResponse | .schedule | .stationChain =>
    match outletOf d.target with | some o => (s.outCfg o).isSome | none => false
  | .seoDemand => d.target == 0xFF || decide (d.target.toNat < s.glb.variant.outlets)
  | .stoDemand => d.target == 0xFF || decide (d.target.toNat < 4)
  | .safReset =>
    let o := d.target.toNat % 256
    let a := d.target.toNat / 256
    (o == 0xFF || decide (o < s.glb.variant.outlets)) && (a == 0xFF || decide (a < 4))
  | .fence => d.target == 0 && decide ((d.b 24).toNat < 64) && ringFn (fenceRing d) == ringFn r
  | .claim | .release => d.target == 0 && s.runInRange (ringFn r) d
  | .forget => decide (d.target.toNat < 64) && forgetRing d != r && ringFn (forgetRing d) == ringFn r
  | _ => d.target == 0

/-- A number lies between limits. -/
def within (lo hi x : Nat) : Bool := decide (lo ≤ x) && decide (x ≤ hi)

/-- Lanes that the variant has. -/
def State.lanesOk (s : State) (mask : BitVec 24) : Bool :=
  within 1 4 (countFin 24 fun i => mask.getLsbD i.val) && (List.finRange 24).all fun i => !mask.getLsbD i.val || s.hasLane i

/-- Payload values are in the ranges of the opcode's table; reserved bytes are not looked at (00 R8). A length fits the one page that a
payload names. DEDUCED (log entry 22). -/
def State.payloadOk (s : State) (d : Desc) : OpName → Bool
  | .takeover => within 1 2 (d.b 24).toNat
  | .tunnelSend => within 0 15 (d.b 26).toNat && within 1 65536 (d.w 32).toNat
  | .tunnelRecv => within 0 15 (d.b 24).toNat && within 1 16 (d.w 32).toNat
  | .activate => within 0 4000 (d.w 60).toNat
  | .outDisable => within 0 1 (d.b 24).toNat
  | .policy => within 0 15 (d.b 28).toNat
  | .auth => within 0 1 (d.b 28).toNat
  | .fetch => within 1 3 (d.b 28).toNat
  | .certResponse | .schedule => within 0 4096 (d.w 28).toNat
  | .stationChain => within 0 4096 (d.w 24).toNat
  | .laneRestore => within 0 1 (d.b 24).toNat
  | .capture => s.lanesOk (bitsOf (d.w 24) 0 24) && within 0 1 (d.b 27).toNat && within 1 1024 (d.w 32).toNat
  | .tariffSet => within 0 8 (d.b 24).toNat && !s.badTariff d
  | .exportRange => within 1 1024 (d.w 28).toNat
  | .claim | .release => within 1 4096 (d.h 26).toNat
  | .slotWrite => (within 1 3 (d.b 25).toNat || d.b 25 == 5 || d.b 25 == 6) && (d.b 25 != 6 || within 1 3 (d.b 27).toNat)
  | .otpWrite => within 0 15 (d.b 24).toNat && within 1 6 (d.b 25).toNat
  | .anchorSet => within 1 4 (d.b 24).toNat && (d.b 25 == 44 || d.b 25 == 65 || d.b 25 == 87)
  | .legacySet => within 1 3 (d.b 24).toNat
  | .certFetch => within 0 2 (d.b 24).toNat && (d.b 24 != 2 || within 1 3 (d.b 25).toNat)
  | .imageWrite | .imageActivate => within 1 5 (d.b 24).toNat && within 0 1 (d.b 25).toNat
  | .imageConfirm => within 1 5 (d.b 24).toNat
  | .reset => within 1 4 (d.b 24).toNat
  | .diaExport => within 1 1024 (d.w 36).toNat
  | _ => true

/-! ### Pages (16 R396, R397) -/

/-- A page reference in a payload: one page, or a list page with the number of its entries that are used. -/
structure PageArg where
  ref : Word
  entries : Nat
deriving DecidableEq, Repr

/-- The page references of a payload. -/
def pageArg (d : Desc) : OpName → Option PageArg
  | .tunnelSend => some ⟨d.w 28, ceilDiv (d.w 32).toNat 4096⟩
  | .tunnelRecv => some ⟨d.w 28, (d.w 32).toNat⟩
  | .stage => some ⟨d.w 24, ceilDiv (d.w 28).toNat 4096 + ceilDiv (d.w 32).toNat 4096⟩
  | .fetch | .certResponse | .schedule => some ⟨d.w 32, 0⟩
  | .stationChain | .receiptFetch | .slotWrite | .otpWrite | .anchorSet | .legacySet | .certFetch | .challenge | .portOpen | .policySet | .health
  | .remote => some ⟨d.w 28, 0⟩
  | .capture => some ⟨d.w 28, (d.w 32).toNat⟩
  | .exportRange => some ⟨d.w 24, (d.w 28).toNat⟩
  | .quote => some ⟨d.w 56, 0⟩
  | .transition => some ⟨d.w 40, 0⟩
  | .imageWrite => some ⟨d.w 28, ceilDiv (d.w 32).toNat 4096⟩
  | .diaExport => some ⟨d.w 32, (d.w 36).toNat⟩
  | _ => none

/-- A reference names a HOST page of the function's range in its present generation. -/
def State.refHeld (s : State) (f : Fn) (ref : Word) : Bool :=
  let p := (pageOf ref).val
  s.win.rangeOf p == f && (s.page p).owner == .host && (s.page p).gen == genOf ref

/-- Every reference that a descriptor makes: the entries of a list page, at most 1,024, are read only where the page itself may be named.
DEDUCED (log entry 23). -/
def State.namedRefs (s : State) (f : Fn) (d : Desc) (op : OpName) : List Word :=
  match pageArg d op with
  | none => []
  | some a => a.ref :: (if a.entries ≠ 0 && s.refHeld f a.ref then s.listRefs a.ref (min a.entries 1024) else [])

/-- The pages that pass with an acceptance; the run of a `WIN_CLAIM` or `WIN_RELEASE` does not (R399). -/
def State.namedPages (s : State) (f : Fn) (d : Desc) (op : OpName) : List (Fin 4096) := (s.namedRefs f d op).map pageOf

/-- The first naming breach of a descriptor, as the reference that it concerns; of a run, the reference that its page has now. -/
def State.breachOf (s : State) (f : Fn) (d : Desc) (op : OpName) : Option Word :=
  match op with
  | .release => ((runOf d).find? fun p => (s.page p).owner != .host).map fun p =>
      (BitVec.ofNat 6 0) ++ (s.page p).gen ++ BitVec.ofNat 12 p
  | _ => (s.namedRefs f d op).find? fun x => !s.refHeld f x

/-! ### Conditions of the opcode tables (15 R380, R383) -/

/-- What a fence names has been accepted on its ring (15 R375). -/
def State.fenceAccepted (s : State) (d : Desc) : Bool :=
  let q := s.ring.get (fenceRing d)
  let n := (fenceSeq d).toNat
  (s.slot? (fenceRing d) (fenceSeq d)).isSome ||
  (decide ((s.dlv.first.get (fenceRing d)).toNat ≠ 0) && decide ((s.dlv.first.get (fenceRing d)).toNat ≤ n) && decide (n < q.exp.toNat) &&
   q.committing.all fun x => x.desc.seq != fenceSeq d)

/-- The authorisation that a life-cycle descriptor carries (19 R447). -/
def State.descAuth (s : State) (d : Desc) (op : OpName) : Option (Nat × Auth) :=
  match op with
  | .transition => some (1, authOf (s.pageBytes (d.w 40) 64))
  | .portOpen => if s.lcs.st = .service || s.lcs.st = .scrap then none else some (2, authOf (s.pageBytes (d.w 28) 64))
  | .policySet => if s.lcs.st = .scrap then none else some (3, authOf (s.pageBytes (d.w 28) 64))
  | _ => none

/-- An authorisation passes R447; that of a policy has no nonce (R459). -/
def State.authPasses (s : State) (d : Desc) (sigOk : Bool) (x : Nat × Auth) : Bool :=
  if x.1 = 3 then s.policyOk (s.pageBytes (d.w 28) 64) sigOk else s.authFields x.1 x.2 && s.nonceOk x.2 && sigOk

/-- A verification of an authorisation: the nonce is used up, a failure is counted (19 R447). -/
def State.verifyAuth (d : Desc) (op : OpName) (sigOk : Bool) (s : State) : State :=
  match s.descAuth d op with
  | none => s
  | some x => (s.cond (!s.authPasses d sigOk x) (·.authFailed)).cond (x.1 != 3) (·.useNonce x.2)

/-- Opcodes that the loader of a recovery boot serves on PF2 (19 R455). -/
def loaderServes : OpName → Bool
  | .challenge | .imageWrite | .imageActivate | .portOpen | .portClose => true
  | _ => false

/-- In SCRAP only the birth certificate can be fetched; a recovery boot serves PF2 with a loader only (19 R455). -/
def State.refBoot (s : State) (r : Ring) (d : Desc) (op : OpName) : Bool :=
  (s.lcs.st == .scrap && !(op == .certFetch && d.b 24 == 0)) || (s.lcs.recovery && ringFn r == 2 && !loaderServes op)

/-- REFUSED_STATE, detail 1: the condition of the opcode's table. -/
def State.refOp (s : State) (d : Desc) (contentOk : Bool) (op : OpName) : Bool :=
  let out : (Outlet → Bool) → Bool := fun f => match outletOf d.target with | some o => f o | none => true
  match op with
  | .drill => s.refDrill (d.q 24).toNat
  | .takeover => s.refTakeover
  | .roleRestore => s.refRoleRestore (d.q 24).toNat
  | .holdClear => s.refHoldClear (Fin.ofNat 4 d.target.toNat)
  | .timeOfDay => s.refTimeOfDay
  | .tunnelSend => s.refTunnelSend d
  | .stage => s.refStage
  | .activate => s.refActivate (activatePair d) == some .state
  | .stageCancel => s.refStageCancel
  | .phaseRestore => match phaseOf d.target with | some n => s.refPhaseRestore n | none => true
  | .outEnable => out s.refOutEnable
  | .outDisable => out fun o => (s.out.get o).st == .off
  | .outStop | .sessionCap => out fun o => s.refSession o (d.w 24)
  | .faultClear => out s.refFaultClear
  | .policy | .certResponse | .schedule => s.refVclSession d
  | .auth => s.refVclAuth d
  | .fetch => s.refVclFetch d
  | .siteStop => s.refSiteStop
  | .safReset => s.refSafReset d
  | .swapDrill => s.refSwapDrill
  | .laneRestore => s.refLaneRestore (Fin.ofNat 2 (d.b 24).toNat)
  | .capture => s.refCapture
  | .tariffSet => s.refTariff d
  | .receiptFetch => s.refReceipt d
  | .exportRange => s.refExport
  | .erase => s.refErase
  | .heldStep => s.refHeldStep
  | .ship => s.refShip
  | .fence => !s.fenceAccepted d
  | .claim => s.refClaim d
  | .forget => s.refForget d
  | .slotWrite | .quote => s.refKey
  | .slotErase => s.refKey || s.refSlotErase d
  | .otpWrite => s.refKey || s.refOtp d
  | .anchorSet => s.refKey || s.refAnchor d contentOk
  | .legacySet => s.refKey || s.refLegacy
  | .certFetch => s.refCertFetch d
  | .challenge => s.refScrap
  | .transition => !s.transitionAuth d contentOk
  | .portOpen => !s.portAuthOk (s.pageBytes (d.w 28) 64) contentOk
  | .portClose => s.refPortClose
  | .imageWrite => s.refImageWrite d
  | .imageActivate => s.refImageActivate d
  | .imageConfirm => s.refConfirm d
  | .policySet => s.refScrap || !s.policyOk (s.pageBytes (d.w 28) 64) contentOk
  | .lock => s.refLock
  | .reset => s.refPwrReset d
  | .idle => s.refIdle
  | .run => s.refRun
  | .diaExport => s.refDiaExport
  | .remote => s.refRemote d
  | .setCap | .tunnelRecv | .stationChain | .seoDemand | .stoDemand | .nop | .release | .health => false

/-- Certificates, tuples and entries that a page holds are within their numbers (08 R214); `contentOk` is the verdict. -/
def contentBad (contentOk : Bool) : OpName → Bool
  | .schedule | .stationChain => !contentOk
  | _ => false

/-! ### The decision (15 R380) -/

/-- How a descriptor is decided. -/
inductive Decision where
  | refuse (st : CStatus) (detail : Half) (result : Word)
  | replay
  /-- A naming breach at a reference (16 R397). -/
  | breach (ref : Word)
  | accept (pages : List (Fin 4096))
deriving DecidableEq, Repr

/-- What the journal holds of a sequence: the accepted descriptor, or one whose commit is in progress (17 R412). -/
def State.heldDesc (s : State) (r : Ring) (seq : DWord) : Option Desc :=
  match s.slot? r seq with
  | some j => if (s.ring.get r).exp.toNat ≤ seq.toNat + 320 then some j.desc else none
  | none => ((s.ring.get r).committing.find? fun x => x.desc.seq == seq).map (·.desc)

/-- The checks of the sequence; none where it is the expected one. -/
def State.seqDecision (s : State) (r : Ring) (d : Desc) : Option Decision :=
  let e := (s.ring.get r).exp
  if d.seq = 0 then some (.refuse .malformed 6 0)
  else if d.seq.toNat < e.toNat then
    match s.heldDesc r d.seq with
    | some h => some (if d.opcode ≠ h.opcode || d.target ≠ h.target then .refuse .malformed 7 0 else .replay)
    | none => some (.refuse .state 4 0)
  else if e.toNat < d.seq.toNat then some (.refuse .state 2 0)
  else none

/-- A class is the opcode's own, and enabled on the ring. -/
def State.classOk (s : State) (r : Ring) (d : Desc) (row : OpRow) : Bool :=
  (match row.cls with | some c => d.cls.toNat == c | none => decide (d.cls.toNat ≤ 4)) && (s.ring.get r).classes.getLsbD d.cls.toNat

/-- The form of a descriptor: function, class, target, payload, pages. -/
def State.formDecision (s : State) (r : Ring) (d : Desc) (contentOk : Bool) (row : OpRow) : Option Decision :=
  let f := ringFn r
  if row.fn ≠ none && row.fn ≠ some f then some (.refuse .malformed 2 0)
  else if !s.classOk r d row then some (.refuse .malformed 3 0)
  else if !s.targetOk r d row.op then some (.refuse .malformed 4 0)
  else if !s.payloadOk d row.op then some (.refuse .malformed 5 0)
  else if (s.namedPages f d row.op).eraseDups.length ≠ (s.namedPages f d row.op).length then some (.refuse .malformed 5 0)
  else match s.breachOf f d row.op with
    | some x => some (.breach x)
    | none => if contentBad contentOk row.op then some (.refuse .malformed 5 0) else none

/-- Ring order: a predecessor accepted or in its commit, not yet taken up, has a later deadline (15 R378). -/
def State.orderBad (s : State) (r : Ring) (d : Desc) : Bool :=
  let mine := s.deadlineOf d s.now
  ((s.dlv.slots.get r).any fun j => !j.tookUp && j.comp.isNone && decide (mine < j.deadline)) ||
  (s.ring.get r).committing.any fun x => decide (mine < s.deadlineOf x.desc s.now)

/-- 31 days in ns. -/
def horizonNs : Nat := 31 * 86400 * Config.secondNs

/-- The checks between the form and the state condition. -/
def State.timeDecision (s : State) (r : Ring) (d : Desc) (op : OpName) : Option Decision :=
  if s.journalClosed then some (.refuse .state 5 0)
  else if s.orderBad r d then some (.refuse .state 3 0)
  else if d.cls = 3 && decide (s.now + horizonNs < d.notBefore.toNat) then some (.refuse .state 6 0)
  else if op = .activate && s.refActivate (activatePair d) == some .epoch then some (.refuse .epoch 1 0)
  else none

/-- State and capacity; buckets have been filled up to now. -/
def State.lastDecision (s : State) (r : Ring) (d : Desc) (contentOk : Bool) (op : OpName) : Decision :=
  let c := clsIx d.cls
  if s.refBoot r d op || s.refOp d contentOk op then .refuse .state 1 0
  else if 256 ≤ (s.ring.get r).outstanding then .refuse .capacity 3 0
  else if !((s.ring.get r).buckets.get c).has then .refuse .capacity 1 0
  else if !(s.dlv.devBuckets.get c).has then .refuse .capacity 2 0
  else if op = .exportRange && decide ((d.w 28).toNat < s.exportPages) then .refuse .capacity 4 (BitVec.ofNat 32 s.exportPages)
  else .accept (s.namedPages (ringFn r) d op)

/-- The decision of R380. -/
def State.decision (s : State) (r : Ring) (d : Desc) (contentOk : Bool) : Decision :=
  match s.seqDecision r d with
  | some x => x
  | none => match opRow? d.opcode with
    | none => .refuse .malformed 1 0
    | some row => match s.formDecision r d contentOk row with
      | some x => x
      | none => match s.timeDecision r d row.op with
        | some x => x
        | none => s.lastDecision r d contentOk row.op

/-- The decision comes as far as the opcode's state condition. -/
def State.reachesState (s : State) (r : Ring) (d : Desc) (contentOk : Bool) : Option OpName :=
  match s.seqDecision r d, opRow? d.opcode with
  | none, some row =>
    if (s.formDecision r d contentOk row).isNone && (s.timeDecision r d row.op).isNone && !s.refBoot r d row.op then some row.op else none
  | _, _ => none

/-- Fetching runs on a ring, and a slot below P is not yet decided (15 R369, R372; 16 R403, R404; 17 R416, R418; 20 R469, R476). -/
def State.canFetch (s : State) (r : Ring) : Bool :=
  let q := s.ring.get r
  let f := ringFn r
  q.st == .running && q.en && q.fetch != q.p && !q.waitDb && !s.frozen (.pf f) && !s.pwr.fetchStopped && !(s.ringF.get f).recovering &&
  !s.pwr.planeRst.getLsbD f.val

/-- The slot has been decided; the shadow record follows a change of A (15 R371). -/
def State.passFetch (r : Ring) (s : State) : State :=
  let t := s.modRing r fun q => { q with fetch := q.fetch + 1 }
  if (t.ring.get r).a = (s.ring.get r).a then t else t.shadowA r

/-- A page passes at acceptance: LEGAL for the legal domain's work, else DEVICE with the agent of the function (16 R397). -/
def State.passNamed (r : Ring) (d : Desc) (pages : List (Fin 4096)) (s : State) : State :=
  if d.isLegal then s.passPages .legal 0 pages else s.passPages .device (BitVec.ofNat 2 ((ringFn r).val + 1)) pages

/-- A decision is carried out. -/
def State.decided (r : Ring) (d : Desc) (s : State) : Decision → State
  | .refuse st detail result => (s.refuseComp r d st detail result).passFetch r
  | .replay => (s.modRing r fun q => { q with replays := q.replays ++ [(d.seq, d.irqNow)] }).passFetch r
  | .breach ref =>
    ((s.refuseComp r d .malformed 8 0).modRing r fun q => { q with fetch := q.fetch + 1 }).freeze (.pf (ringFn r)) 2 ref
  | .accept pages =>
    let c := clsIx d.cls
    (((s.modRing r fun q =>
      { q with exp := q.exp + 1, outstanding := q.outstanding + 1, buckets := vmod q.buckets c (·.take),
               committing := q.committing ++ [⟨q.fetch, d, pages⟩] }).modDlv fun v =>
      { v with devBuckets := vmod v.devBuckets c (·.take) }).passNamed r d pages).passFetch r

/-- DESCRIPTOR_DECIDE: the descriptor of the next slot of a ring, as fetched. The first one sets the expected sequence (R379). `contentOk` is
the verdict on what its pages carry: a signature, the number of tuples or certificates. -/
def execDescriptorDecide (r : Ring) (d : Desc) (contentOk : Bool) (s : State) : Host.Outcome State Fault Refusal :=
  s.live fun s => (
    if !s.canFetch r then s
    else
      let s1 := (s.fillBuckets r).modRing r fun q => { q with exp := if q.exp = 0 then d.seq else q.exp }
      let go := s1.decision r d contentOk
      let s2 := match s1.reachesState r d contentOk with
        | some op => s1.verifyAuth d op contentOk
        | none => s1
      s2.decided r d go)

/-! ### Under a policy (19 R459) -/

/-- The permission bit that a PF2 command needs: key commands bit 2; image write, activate and confirm bit 3. -/
def policyBit : OpName → Option Nat
  | .slotWrite | .slotErase | .otpWrite | .anchorSet | .legacySet | .quote | .certFetch => some 2
  | .imageWrite | .imageActivate | .imageConfirm => some 3
  | _ => none

/-- The pages that the management core names are its own (16 R395): those of a list only where the list page is. DEDUCED (log entry 24). -/
def State.mgmtPages (s : State) (d : Desc) (op : OpName) : Bool :=
  match pageArg d op with
  | none => true
  | some a =>
    s.mayAccess .mgmt (pageOf a.ref).val &&
    (s.listRefs a.ref (min a.entries 1024)).all fun x => s.mayAccess .mgmt (pageOf x).val

/-- The effect of a command that a policy permits. -/
def State.policyEffect (d : Desc) (contentOk : Bool) (op : OpName) (s : State) : State :=
  match op with
  | .slotWrite => (s.slotWrite d).1
  | .slotErase => (s.slotErase d).1
  | .otpWrite => (s.otpWrite d contentOk).1
  | .anchorSet => (s.anchorSet d).1
  | .legacySet => (s.legacySet d).1
  | .quote => (s.quote d).1
  | .certFetch => (s.certFetch d).1
  | .imageWrite => s.imageWrite none 0 d
  | .imageConfirm => (s.imageConfirm d).1
  | .imageActivate =>
    let k := kindIx (d.b 24)
    let t := s.imagePrefer k
    if d.b 25 ≠ 1 then t
    else match k with
      | 1 => t.planeReset .control
      | 2 | 5 => t.planeReset .data
      | 3 => t.planeReset .mgmt
      | _ => t
  | _ => s

/-- A PF2 command of the management core: the checks and refusals of the descriptor that it equals. -/
def State.policyDesc (d : Desc) (contentOk : Bool) (s : State) : State :=
  match opRow? d.opcode with
  | none => s
  | some row => match policyBit row.op with
    | none => s
    | some b =>
      if s.permitted b && s.payloadOk d row.op && s.mgmtPages d row.op && !s.journalClosed && !s.refOp d contentOk row.op then
        s.policyEffect d contentOk row.op
      else s

/-- POLICY_ACTION: the management core acts where the policy in force permits it. -/
def execPolicyAction (act : PolicyAct) (s : State) : Host.Outcome State Fault Refusal :=
  s.live fun s => (
    if !s.pwr.mgmtReady || s.lcs.recovery then s
    else match act with
      | .release token => if s.permitted 0 then s.releaseFreeze token else s.firewallDrop .mgmt 0x8004 token.toNat
      | .stage crew part => if s.permitted 1 && !s.refStage && !s.journalClosed then s.stage crew part none else s
      | .desc d contentOk => s.policyDesc d contentOk)

end Sys2Proof.Machine
end

