-- ==== Sys2Proof/Machine/Registers.lean ====
section
/-! DEFINITION. Register accesses: reads that latch, accesses to unassigned space, and writes by the access codes and the write-access rules
of the owning chapters (00 R8, R9, R524; 22 R496-R505). -/
namespace Sys2Proof.Machine

/-! ### Reads and unassigned space (22 R500, R501; 15 R366) -/

/-- An access that is not aligned is dropped and counted (15 R366, R393). Only a function has the count. -/
def State.badAccess (m : Master) (s : State) : State :=
  match m with
  | .pf f => (s.modRingF f fun x => { x with cntBadAccess := satInc x.cntBadAccess }).raise (.ring f) 5
  | _ => s

/-- A register access of a master: dropped while it is frozen, counted where it is not aligned. -/
def State.access (m : Master) (off : Nat) (f : State → State) (s : State) : State :=
  s.transact m fun t => if off % 4 ≠ 0 then t.badAccess m else f t

/-- An access to unassigned space is counted, with its offset (22 R501). -/
def State.unmapped (m : Master) (off : Nat) (s : State) : State :=
  s.modGlb fun g => { g with bank := vmod g.bank m.bank fun b => { b with cntUnmapped := satInc b.cntUnmapped, last := BitVec.ofNat 20 off } }

/-- Reading a `_LO` word that the master's view shows latches its `_HI` word for that master. -/
def State.latchRead (m : Master) (off : Nat) (s : State) : State :=
  match s.regAt m off with
  | some (.lo v) =>
    if s.sees m off then
      s.modGlb fun g => { g with bank := vmod g.bank m.bank fun b => { b with latches := sparsePut 0 b.latches off (hi32 v) } }
    else s
  | some _ => s
  | none => s.unmapped m off

/-- LO_WORD_READ. -/
def execLoWordRead (m : Master) (off : Nat) (s : State) : Host.Outcome State Fault Refusal :=
  s.live fun s => (s.access m off (·.latchRead m off))

/-- UNMAPPED_ACCESS: an offset that a chapter assigns is not one. -/
def execUnmappedAccess (m : Master) (off : Nat) (_write : Bool) (s : State) : Host.Outcome State Fault Refusal :=
  s.live fun s => (s.access m off fun t => if (t.regAt m off).isNone then t.unmapped m off else t)

/-! ### Event registers and counters (00 R8, R9, R524) -/

/-- The bits that a block's `_EVENTS` register defines. -/
def evMask : EvSrc → Word
  | .clk => 0x7 | .pwr => 0x1F | .ring _ => 0x3F | .frz => 0xF | .alc => 0x1FFFF | .cfg => 0xFF | .pwm _ => 0x7F | .reg _ => 0xFF
  | .out _ => 0x3FF | .vcl _ => 0x1FF | .thm => 0x7FF | .saf => 0x1FFFF | .lne => 0xFF | .met => 0x7F | .bil => 0x7FF | .bat => 0xFFF
  | .key => 0x3F | .lcs => 0x3F | .dia => 0xF

/-- A write to `_EVENTS` clears the flags written 1. -/
def State.clearEv (e : EvSrc) (w : Word) (s : State) : State := s.evSet e { s.evGet e with flags := w1c (s.evGet e).flags w }

/-- A write to `_EVENT_EN`; reserved bits ignore it. -/
def State.setEvEn (e : EvSrc) (w : Word) (s : State) : State := s.evSet e { s.evGet e with en := w &&& evMask e }

/-- What a write to a register does where it is granted: its offset, whether it is granted, its effect. -/
structure WriteRow where
  off : Nat
  ok : Bool
  act : State → State

/-- Rows of an event register and its enables. -/
def evRows (off : Nat) (e : EvSrc) (ok : Bool) (w : Word) : List WriteRow := [⟨off, ok, (·.clearEv e w)⟩, ⟨off + 4, ok, (·.setEvEn e w)⟩]

/-- A write of a block: by the row of its offset; without one, ignored for the masters of `free` (00 R9, RO) and otherwise a write to a locked
setup register. -/
def State.writeRows (m : Master) (up present free : Bool) (off : Nat) (rows : List WriteRow) (s : State) : State :=
  match rows.find? fun x => x.off == off with
  | some x => s.checkedWrite m up present x.ok off x.act
  | none => s.checkedWrite m up present free off id

/-- A value written to a field with limits is taken as the nearest limit. -/
def nearestLimit (lo hi v : Nat) : Nat := max lo (min hi v)

/-! ### GLB, CLK, PWR (20 R482; 22 R505) -/

/-- Each master clears its own two counters; every other write is ignored. -/
def State.writeGlb (m : Master) (off : Nat) (w : Word) (s : State) : State :=
  s.modGlb fun g => { g with bank := vmod g.bank m.bank fun b =>
    { b with cntUnmapped := if off = 0x40 then w1cWhole b.cntUnmapped w else b.cntUnmapped,
             cntResetDrop := if off = 0x44 then w1cWhole b.cntResetDrop w else b.cntResetDrop } }

def State.writeClk (m : Master) (off : Nat) (w : Word) (s : State) : State :=
  let k := m == .pf 2
  s.writeRows m true true false off (evRows 0x1008 .clk k w ++
    [⟨0x1010, k, (·.modClk fun c => { c with cntLoss := w1cWhole c.cntLoss w })⟩,
     ⟨0x1014, k, (·.modClk fun c => { c with cntDrift := w1cWhole c.cntDrift w })⟩])

def State.writePwr (m : Master) (off : Nat) (w : Word) (s : State) : State :=
  let k := m == .pf 2
  s.writeRows m true true false off (evRows 0x2020 .pwr k w ++
    [⟨0x2010, k && !s.lcs.lock, (·.modPwr fun p => { p with bakChg := BitVec.ofNat 5 (nearestLimit 1 20 (bitsOf w 0 5).toNat) })⟩,
     ⟨0x2028, k, (·.modPwr fun p => { p with cntPfw := w1cWhole p.cntPfw w })⟩,
     ⟨0x202C, k, (·.modPwr fun p => { p with cntWarm := w1cWhole p.cntWarm w })⟩])

/-! ### RING, WIN, FRZ, IRQ (15 R368, R392; 16 R407) -/

/-- Setup registers of a ring: of the ring's own function, while the ring is DISABLED. -/
def ringRows (r : Ring) (k : Bool) (w : Word) : List WriteRow :=
  let b := 0x4000 + r.val * 0x40
  let base := w &&& ~~~ 0xFFF
  let line := w &&& ~~~ 0x3F
  [⟨b, k, (·.modRing r fun q => { q with base := setLo q.base base })⟩, ⟨b + 4, k, (·.modRing r fun q => { q with base := setHi q.base w })⟩,
   ⟨b + 8, k, (·.modRing r fun q => { q with cqBase := setLo q.cqBase base })⟩, ⟨b + 0xC, k, (·.modRing r fun q => { q with cqBase := setHi q.cqBase w })⟩,
   ⟨b + 0x10, k, (·.modRing r fun q => { q with shadow := setLo q.shadow line })⟩,
   ⟨b + 0x14, k, (·.modRing r fun q => { q with shadow := setHi q.shadow w })⟩,
   ⟨b + 0x18, k, (·.modRing r fun q => { q with size := BitVec.ofNat 4 (nearestLimit 4 10 (bitsOf w 0 4).toNat) })⟩]

/-- Banked registers of a function. -/
def ringFnRows (f : Fn) (w : Word) : List WriteRow :=
  evRows 0x5000 (.ring f) true w ++
  [⟨0x5008, true, (·.modRingF f fun x => { x with cntAccept := w1cWhole x.cntAccept w })⟩,
   ⟨0x500C, true, (·.modRingF f fun x => { x with cntRefused := w1cWhole x.cntRefused w })⟩,
   ⟨0x5010, true, (·.modRingF f fun x => { x with cntReplay := w1cWhole x.cntReplay w })⟩,
   ⟨0x5014, true, (·.modRingF f fun x => { x with cntTunnelDrop := w1cWhole x.cntTunnelDrop w })⟩,
   ⟨0x5018, true, (·.modRingF f fun x => { x with cntBadAccess := w1cWhole x.cntBadAccess w })⟩,
   ⟨0x5028, true, (·.modRingF f fun x => { x with recovered := x.recovered && !w.getLsbD 8, interrupted := x.interrupted && !w.getLsbD 9 })⟩]

def State.writeRing (m : Master) (off : Nat) (w : Word) (s : State) : State :=
  if off < 0x5000 then
    let r : Ring := Fin.ofNat 64 ((off - 0x4000) / 0x40)
    s.writeRows m true true (ownsRing m r) off (ringRows r (ownsRing m r && (s.ring.get r).st == .disabled) w)
  else match m with
    | .pf f => s.writeRows m true true true off (ringFnRows f w)
    | _ => s.writeRows m true true false off []

def State.writeWin (m : Master) (off : Nat) (w : Word) (s : State) : State :=
  match m with
  | .pf f => s.writeRows m true true false off [⟨0x6004, true, (·.modWin fun x => { x with ownSel := vmod x.ownSel f fun _ => bitsOf w 0 12 })⟩]
  | _ => s.writeRows m true true false off []

def State.writeFrz (m : Master) (off : Nat) (w : Word) (s : State) : State :=
  let k := m == .pf 2
  s.writeRows m true true false off (evRows 0x8008 .frz k w ++ [⟨0x8010, k, (·.modFrz fun z => { z with cntBreach := w1cWhole z.cntBreach w })⟩])

/-- A word of an MSI-X table entry is written; unmasking a vector whose message waits sends it (PCI Express Base Specification). -/
def State.msixWrite (v : IrqVec) (k : Nat) (w : Word) (s : State) : State :=
  match k with
  | 0 => s.modIrq v fun q => { q with msgAddr := setLo q.msgAddr w }
  | 1 => s.modIrq v fun q => { q with msgAddr := setHi q.msgAddr w }
  | 2 => s.modIrq v fun q => { q with msgData := w }
  | _ =>
    let s1 := s.modIrq v fun q => { q with masked := w.getLsbD 0 }
    if !w.getLsbD 0 && (s.irq.get v).pendingBit then (s1.modIrq v fun q => { q with pendingBit := false }).modHost fun h =>
      { h with msix := h.msix ++ [v] } else s1

/-- Each function writes its own table entries and `IRQ[v]_MOD` of its own vectors. -/
def State.writeIrq (m : Master) (off : Nat) (w : Word) (s : State) : State :=
  match m with
  | .pf f =>
    if off < 0x81000 then
      s.checkedWrite m true true true off (·.msixWrite (Fin.ofNat 128 (vecBase f + (off - 0x80000) / 0x10)) ((off - 0x80000) % 0x10 / 4) w)
    else if off < 0x82000 then s.checkedWrite m true true true off id
    else
      let v : IrqVec := Fin.ofNat 128 ((off - 0x82000) / 8)
      s.checkedWrite m true true (vecFn v == f) off fun t =>
        if off % 8 = 0 then t.modIrq v fun q => { q with count := bitsOf w 0 8, time := bitsOf w 8 16 } else t
  | _ => s.checkedWrite m true true false off id

/-! ### RGT, ALC, CFG (02 R67; 03 R99; 04 R121) -/

/-- W1C bits and counters of a port, its asymmetry. -/
def portRows (p : Port) (k lock : Bool) (w : Word) : List WriteRow :=
  let b := 0x10400 + p.val * 0x100
  [⟨b + 4, k, (·.modPort p fun t => { t with wentDown := t.wentDown && !w.getLsbD 8, tooFar := t.tooFar && !w.getLsbD 9 })⟩,
   ⟨b + 8, k && !lock, (·.modPort p fun t => { t with asym := w })⟩,
   ⟨b + 0x20, k, (·.modPort p fun t => { t with cntCrc := w1cWhole t.cntCrc w })⟩,
   ⟨b + 0x24, k, (·.modPort p fun t => { t with cntAbort := w1cWhole t.cntAbort w })⟩,
   ⟨b + 0x28, k, (·.modPort p fun t => { t with cntDown := w1cWhole t.cntDown w })⟩,
   ⟨b + 0x2C, k, (·.modPort p fun t => { t with cntDrop := w1cWhole t.cntDrop w })⟩]

/-- The RGT block (02 R67, R68). A share outside 1 to 50 written to `RGT_CFG_SHAPE` is taken as the nearest limit: the register's row gives the
range alone. DESIGN CHOICE (log entry 152). -/
def State.writeRgt (m : Master) (off : Nat) (w : Word) (s : State) : State :=
  let k := m.isMgmt
  let up := s.pwr.controlReady
  if 0x12000 ≤ off then
    s.checkedWrite m up true k off (·.modRgt fun g => { g with route := vmod g.route (Fin.ofNat 512 ((off - 0x12000) / 4)) fun _ => w })
  else
    s.writeRows m up true false off
      ([⟨0x10018, k, (·.modRgt fun g => { g with stepped := g.stepped && !w.getLsbD 3, srcLost := g.srcLost && !w.getLsbD 4,
                                                  corrChanged := g.corrChanged && !w.getLsbD 5 })⟩,
        ⟨0x10030, k && !s.lcs.lock, (·.modRgt fun g =>
          { g with srcSel := bitsOf w 0 2, ppsEn := w.getLsbD 2, p2p := w.getLsbD 3, ptpDomain := bitsOf w 8 8 })⟩,
        ⟨0x10040, k && !s.lcs.lock, (·.modRgt fun g => { g with cfgShape := BitVec.ofNat 7 (nearestLimit 1 50 (bitsOf w 0 7).toNat) })⟩] ++
       (List.finRange 4).flatMap fun p => portRows p k s.lcs.lock w)

/-- The driving lane and PF0 at any time, as the rules of ALC, OUT, THM, SAF, BAT name them. -/
def laneAndPf0 (m : Master) : Bool := m == .lane || m == .pf 0

def State.writeAlc (m : Master) (off : Nat) (w : Word) (s : State) : State :=
  let k := laneAndPf0 m
  s.writeRows m s.pwr.controlReady true false off (evRows 0x14040 .alc k w ++
    [⟨0x14050, k, (·.modAlc fun a => { a with cntMiss := w1cWhole a.cntMiss w })⟩,
     ⟨0x14054, k, (·.modAlc fun a => { a with cntLate := w1cWhole a.cntLate w })⟩,
     ⟨0x14058, k, (·.modAlc fun a => { a with cntWithheld := w1cWhole a.cntWithheld w })⟩])

def State.writeCfg (m : Master) (off : Nat) (w : Word) (s : State) : State :=
  let k := m.isMgmt
  s.writeRows m s.pwr.mgmtReady true false off (evRows 0x18070 .cfg k w ++
    [⟨0x18078, k, (·.modCfg fun c => { c with cntAdopt := w1cWhole c.cntAdopt w })⟩,
     ⟨0x1807C, k, (·.modCfg fun c => { c with cntStageFail := w1cWhole c.cntStageFail w })⟩,
     ⟨0x1806C, true, id⟩])

/-! ### PWM, REG (05 R144; 06 R171) -/

/-- Events and counters of a phase channel; clearing the flags releases the masks of a channel that is not running (05 R139). -/
def pwmRows (n : Phase) (k : Bool) (w : Word) : List WriteRow :=
  let b := 0x20000 + n.val * 0x100
  [⟨b + 0x40, k, fun t => let u := t.clearEv (.pwm n) w; u.restMasks n⟩,
   ⟨b + 0x44, k, (·.setEvEn (.pwm n) w)⟩, ⟨b + 0x48, k, (·.modCh n fun c => { c with cntCommit := w1cWhole c.cntCommit w })⟩,
   ⟨b + 0x4C, k, (·.modCh n fun c => { c with cntRefused := w1cWhole c.cntRefused w })⟩]

def auxRows (a : Aux) (k : Bool) (w : Word) : List WriteRow :=
  let b := 0x21800 + a.val * 0x20
  let x : Half := bitsOf w 0 16
  [⟨b + 4, k, (·.modAux a fun c => { c with shadow := { c.shadow with period := x }, written := c.written ||| 1 })⟩,
   ⟨b + 8, k, (·.modAux a fun c => { c with shadow := { c.shadow with duty := x }, written := c.written ||| 2 })⟩,
   ⟨b + 0xC, k, (·.modAux a fun c => { c with failsafe := x })⟩]

def State.writePwm (m : Master) (off : Nat) (w : Word) (s : State) : State :=
  let k := s.laneOrPf0 m
  let up := s.pwr.controlReady
  if off < 0x21800 then
    let n : Phase := Fin.ofNat 24 ((off - 0x20000) / 0x100)
    s.writeRows m up (s.hasPhase n) k off (pwmRows n (laneAndPf0 m) w)
  else s.writeRows m up true k off (⟨0x21C08, k, (·.modPwm fun p => { p with groupMask := bitsOf w 0 24 })⟩ ::
    (List.finRange 8).flatMap fun a => auxRows a k w)

/-- Registers of a regulator; a peak command of 0 holds the ideal level low at once (06 R150). -/
def regRows (n : Phase) (k any : Bool) (w : Word) : List WriteRow :=
  let b := 0x24000 + n.val * 0x40
  [⟨b + 4, k, fun t => t.modCode n fun c => { c with peak := bitsOf w 0 12 }⟩,
   ⟨b + 8, k, (·.modRegCh n fun c => { c with shadow := bitsOf w 0 12, shadowSet := true })⟩,
   ⟨b + 0xC, k, (·.modRegCh n fun c => { c with slope := bitsOf w 0 16 })⟩,
   ⟨b + 0x10, k, (·.modRegCh n fun c => { c with blank := BitVec.ofNat 7 (nearestLimit 12 120 (bitsOf w 0 7).toNat) })⟩,
   ⟨b + 0x14, k, (·.modRegCh n fun c => { c with dmax := BitVec.ofNat 14 (nearestLimit 1000 9500 (bitsOf w 0 14).toNat) })⟩,
   ⟨b + 0x28, any, (·.modRegCh n fun c => { c with cntTrip := w1cWhole c.cntTrip w })⟩,
   ⟨b + 0x2C, any, (·.modRegCh n fun c => { c with cntUntripped := w1cWhole c.cntUntripped w })⟩] ++ evRows (b + 0x20) (.reg n) any w

def State.writeReg (m : Master) (off : Nat) (w : Word) (s : State) : State :=
  let k := s.laneOrPf0 m
  let up := s.pwr.controlReady
  if off < 0x24600 then
    let n : Phase := Fin.ofNat 24 ((off - 0x24000) / 0x40)
    s.writeRows m up (s.hasPhase n) k off (regRows n k (laneAndPf0 m) w)
  else s.writeRows m up (off < 0x24840 || s.hasOutlet (Fin.ofNat 8 ((off - 0x24840) / 4))) k off
    [⟨0x24800, k, (·.modReg fun r => { r with applyTime := setLo r.applyTime w })⟩]

/-! ### OUT, VCL, THM (07 R197; 08 R218; 09 R235) -/

def outRows (o : Outlet) (k : Bool) (w : Word) : List WriteRow :=
  let b := 0x28000 + o.val * 0x400
  evRows (b + 0x40) (.out o) k w ++
  [⟨b + 0x48, k, (·.modOut o fun x => { x with cntMalformed := w1cWhole x.cntMalformed w })⟩,
   ⟨b + 0x4C, k, (·.modOut o fun x => { x with cntSessions := w1cWhole x.cntSessions w })⟩,
   ⟨b + 0x50, k, (·.modOut o fun x => { x with cntFault := w1cWhole x.cntFault w })⟩]

def State.writeOut (m : Master) (off : Nat) (w : Word) (s : State) : State :=
  let k := laneAndPf0 m
  let up := s.pwr.controlReady
  if off < 0x2A000 then
    let o : Outlet := Fin.ofNat 8 ((off - 0x28000) / 0x400)
    s.writeRows m up (s.hasOutlet o) k off (outRows o k w)
  else s.checkedWrite m up true k off id

/-- PF1 and the application cores. -/
def pf1OrApp (m : Master) : Bool := m == .pf 1 || (match m with | .app _ => true | _ => false)

def vclRows (o : Outlet) (k any : Bool) (w : Word) : List WriteRow :=
  let b := 0x30000 + o.val * 0x200
  [⟨b, k, (·.modVclCh o fun v => { v with ctrl := bitsOf w 0 10 })⟩,
   ⟨b + 8, k, (·.modVclCh o fun v => { v with slacThreshold := bitsOf w 0 8, slacTx := bitsOf w 8 8 })⟩,
   ⟨b + 0x18, k, (·.modVclCh o fun v => { v with defaultBand := bitsOf w 0 4 })⟩,
   ⟨b + 0x48, any, (·.modVclCh o fun v => { v with cntSlacFail := w1cWhole v.cntSlacFail w })⟩,
   ⟨b + 0x4C, any, (·.modVclCh o fun v => { v with cntTimeout := w1cWhole v.cntTimeout w })⟩,
   ⟨b + 0x50, any, (·.modVclCh o fun v => { v with cntExiErr := w1cWhole v.cntExiErr w })⟩,
   ⟨b + 0x54, any, (·.modVclCh o fun v => { v with cntTlsFail := w1cWhole v.cntTlsFail w })⟩] ++ evRows (b + 0x40) (.vcl o) any w

def State.writeVcl (m : Master) (off : Nat) (w : Word) (s : State) : State :=
  let any := pf1OrApp m
  let k := any && !s.lcs.lock
  if off < 0x32000 then
    let o : Outlet := Fin.ofNat 8 ((off - 0x30000) / 0x200)
    s.writeRows m s.pwr.dataReady (s.hasOutlet o) any off (vclRows o k any w)
  else s.writeRows m s.pwr.dataReady true any off
    [⟨0x32004, k, (·.modVcl fun v => { v with hostWait := BitVec.ofNat 6 (nearestLimit 1 60 (bitsOf w 0 6).toNat) })⟩]

def State.writeThm (m : Master) (off : Nat) (w : Word) (s : State) : State :=
  let k := laneAndPf0 m
  let present := !(0x38060 ≤ off && off < 0x38080) || s.hasOutlet (Fin.ofNat 8 ((off - 0x38060) / 4))
  s.writeRows m s.pwr.controlReady present k off (evRows 0x380C0 .thm k w ++
    [⟨0x380C8, k, (·.modThm fun t => { t with cntBusErr := w1cWhole t.cntBusErr w })⟩,
     ⟨0x380CC, k, (·.modThm fun t => { t with cntJournalDrop := w1cWhole t.cntJournalDrop w })⟩])

/-! ### SAF, LNE (10 R269; 11 R290) -/

/-- A value in a field of limits lo to hi; where the chapter does not say what a value outside them becomes, it is a free one within them
(log entry 4). -/
def State.within (s : State) (lo hi v : Nat) : Nat := if lo ≤ v && v ≤ hi then v else lo + Config.freeNat s.free % (hi + 1 - lo)

/-- `SAF_ACD[d]_CTRL` (10 R261, R270). -/
def State.writeAcdCtrl (a : Acd) (w : Word) (s : State) : State :=
  let period := s.within 1 100 (bitsOf w 8 8).toNat
  let age := s.useFree.within (2 * period) 1000 (bitsOf w 16 10).toNat
  (s.modSaf fun f => { f with acd := vmod f.acd a fun x =>
    { x with en := w.getLsbD 0, outlet := Fin.ofNat 8 (bitsOf w 1 3).toNat, period := BitVec.ofNat 8 period, maxAge := BitVec.ofNat 10 age } }).useFree.useFree

/-- `SAF_SITE_CTRL`: mode 3 is taken as 2, the age as the nearest limit. -/
def State.writeSiteCtrl (w : Word) (s : State) : State :=
  (s.modSaf fun f =>
    { f with siteMode := if bitsOf w 0 2 = 3 then 2 else bitsOf w 0 2,
             siteMaxAge := BitVec.ofNat 10 (nearestLimit 1 1000 (bitsOf w 16 10).toNat) }).siteEval

/-- `SAF_ESTOP[e]_MAP`: the pair is evaluated under its new map, and the sources follow the latches. -/
def State.writeEstopMap (e : Fin 4) (w : Word) (s : State) : State :=
  ((s.modSaf fun f => { f with estopMap := vmod f.estopMap e fun _ => w &&& 0xFFFF }).estopEval e).estopSources

def safRows (m : Master) (lock : Bool) (w : Word) : List WriteRow :=
  let k := m == .pf 0 && !lock
  let any := laneAndPf0 m
  [⟨0x40058, k, (·.modSaf fun f => { f with brkPulse := BitVec.ofNat 10 (nearestLimit 50 1000 (bitsOf w 0 10).toNat) })⟩,
   ⟨0x40070, k, (·.writeSiteCtrl w)⟩] ++
  ((List.finRange 4).map fun e => (⟨0x40040 + 4 * e.val, k, (·.writeEstopMap e w)⟩ : WriteRow)) ++
  ((List.finRange 4).flatMap fun a => [(⟨0x40100 + 0x10 * a.val, k, (·.writeAcdCtrl a w)⟩ : WriteRow),
    ⟨0x40104 + 0x10 * a.val, k, (·.modSaf fun f => { f with acd := vmod f.acd a fun x => { x with canId := w &&& 0x07FF07FF } })⟩]) ++
  evRows 0x40200 .saf any w ++
  [⟨0x40208, any, (·.modSaf fun f => { f with cntRejId := w1cWhole f.cntRejId w })⟩,
   ⟨0x4020C, any, (·.modSaf fun f => { f with cntRejSeq := w1cWhole f.cntRejSeq w })⟩,
   ⟨0x40210, any, (·.modSaf fun f => { f with cntRejAge := w1cWhole f.cntRejAge w })⟩,
   ⟨0x40214, any, (·.modSaf fun f => { f with cntRejCrc := w1cWhole f.cntRejCrc w })⟩,
   ⟨0x40218, any, (·.modSaf fun f => { f with cntExpired := w1cWhole f.cntExpired w })⟩]

def State.writeSaf (m : Master) (off : Nat) (w : Word) (s : State) : State :=
  let present := !(0x40010 ≤ off && off < 0x40030) || s.hasOutlet (Fin.ofNat 8 ((off - 0x40010) / 4))
  s.writeRows m true present false off (safRows m s.lcs.lock w)

def State.writeLne (m : Master) (off : Nat) (w : Word) (s : State) : State :=
  let k := m == .pf 0
  s.writeRows m s.pwr.controlReady true k off (evRows 0x44020 .lne k w ++
    [⟨0x44028, k, (·.modLne fun l => { l with cntMismatch := w1cWhole l.cntMismatch w })⟩,
     ⟨0x4402C, k, (·.modLne fun l => { l with cntTakeover := w1cWhole l.cntTakeover w })⟩,
     ⟨0x44030, k, (·.modLne fun l => { l with cntDrill := w1cWhole l.cntDrill w })⟩])

/-! ### MET, BIL (12 R313; 13 R347; 01 R31; 22 R498) -/

/-- A host function. -/
def isHost (m : Master) : Bool := match m with | .pf _ => true | _ => false

/-- A calibration-access attempt (13 R339 type 7). -/
def State.calAttempt (s : State) : State := s.tamperEvent 7 s.now

/-- A write that the rule ignores is a breach when an integrator core makes it. -/
def State.ignoredWrite (m : Master) (off : Nat) (s : State) : State := s.checkedWrite m true true true off id

/-- Snapshot buffers and live record: the masters of 16 R401 are frozen with cause 5, another's write is dropped and recorded. -/
def State.snapWrite (m : Master) (off : Nat) (w : Word) (s : State) : State :=
  match m.code with
  | some _ => s.freeze m 5 (BitVec.ofNat 32 off)
  | none => if m = .legal then s else s.firewallDrop m off w.toNat

def State.writeMet (m : Master) (off : Nat) (w : Word) (s : State) : State :=
  if 0x51000 ≤ off && off < 0x51840 then s.snapWrite m off w
  else if 0x50100 ≤ off && off < 0x501C0 then
    let t := if m = .legal || !s.hasLane (Fin.ofNat 24 ((off - 0x50100) / 8)) then s else s.calAttempt
    if s.hasLane (Fin.ofNat 24 ((off - 0x50100) / 8)) then t.ignoredWrite m off else t
  else if 0x50080 ≤ off && off < 0x500A0 && !s.hasOutlet (Fin.ofNat 8 ((off - 0x50080) / 4)) then s
  else s.writeRows m true true true off (if isHost m then evRows 0x50010 .met true w else [])

/-- The seal fields: `BIL_METER_ID`, `BIL_LEGAL_DIGEST`. -/
def isSealField (off : Nat) : Bool := (0x58060 ≤ off && off < 0x58070) || (0x58080 ≤ off && off < 0x580A0)

def State.writeBil (m : Master) (off : Nat) (w : Word) (s : State) : State :=
  if isSealField off then ((if m = .legal then s else s.calAttempt).ignoredWrite m off)
  else if 0x58400 ≤ off && off < 0x58800 && !s.hasOutlet (Fin.ofNat 8 ((off - 0x58400) / 0x80)) then s
  else s.writeRows m true true true off (if isHost m then evRows 0x58050 .bil true w else [])

/-! ### BAT, KEY, LCS, DIA (14 R364; 18 R443; 19 R462; 21 R494) -/

def State.writeBat (m : Master) (off : Nat) (w : Word) (s : State) : State :=
  let k := laneAndPf0 m
  s.writeRows m s.pwr.controlReady true k off (evRows 0x60040 .bat k w ++
    [⟨0x60048, k, (·.modBat fun b => { b with cntSteps := w1cWhole b.cntSteps w })⟩,
     ⟨0x6004C, k, (·.modBat fun b => { b with cntReject := w1cWhole b.cntReject w })⟩,
     ⟨0x60050, k, (·.modBat fun b => { b with cntHeld := w1cWhole b.cntHeld w })⟩])

def State.writeKey (m : Master) (off : Nat) (w : Word) (s : State) : State :=
  let k := m == .pf 2
  s.writeRows m true (off != 0x68004 || s.glb.variant == .a8t) false off (evRows 0x68060 .key k w ++
    [⟨0x68004, k && !s.lcs.lock, (·.modKey fun x => { x with swEn := bitsOf w 8 2 })⟩,
     ⟨0x68068, k, (·.modKey fun x => { x with cntSign := w1cWhole x.cntSign w })⟩,
     ⟨0x6806C, k, (·.modKey fun x => { x with cntVerifyFail := w1cWhole x.cntVerifyFail w })⟩,
     ⟨0x68070, k, (·.modKey fun x => { x with cntRefused := w1cWhole x.cntRefused w })⟩])

def State.writeLcs (m : Master) (off : Nat) (w : Word) (s : State) : State :=
  let k := m == .pf 2
  s.writeRows m s.pwr.mgmtReady true false off (evRows 0x70300 .lcs k w ++
    [⟨0x70308, k, (·.modLcs fun x => { x with cntAuthFail := w1cWhole x.cntAuthFail w })⟩,
     ⟨0x7030C, k, (·.modLcs fun x => { x with cntLegalWp := w1cWhole x.cntLegalWp w })⟩])

/-- The resource that a DIA register measures is present. -/
def State.diaPresent (s : State) (off : Nat) : Bool :=
  (!(0x78080 ≤ off && off < 0x780C0) || s.hasOutlet (Fin.ofNat 8 ((off - 0x78080) / 4 % 8))) &&
  (!(0x78100 ≤ off && off < 0x78160) || s.hasLane (Fin.ofNat 24 ((off - 0x78100) / 4)))

def State.writeDia (m : Master) (off : Nat) (w : Word) (s : State) : State :=
  let k := m == .pf 2
  s.writeRows m s.pwr.mgmtReady (s.diaPresent off) false off (evRows 0x78020 .dia k w ++
    [⟨0x78028, k, (·.modDia fun d => { d with cntSuppressed := w1cWhole d.cntSuppressed w })⟩,
     ⟨0x7802C, k, (·.modDia fun d => { d with cntRemote := w1cWhole d.cntRemote w })⟩] ++
    (List.finRange 4).map fun p =>
      (⟨0x78040 + 4 * p.val, k, (·.modDia fun d => { d with codeErr := vmod d.codeErr p fun x => w1cWhole x w })⟩ : WriteRow))

/-! ### A write (00 R9) -/

/-- A write to an assigned offset without a row of its own. -/
def State.writeAssigned (m : Master) (off : Nat) (w : Word) (s : State) : State :=
  match blockOf off with
  | .glb => s.writeGlb m off w | .clk => s.writeClk m off w | .pwr => s.writePwr m off w | .ring => s.writeRing m off w
  | .win => s.writeWin m off w | .frz => s.writeFrz m off w | .rgt => s.writeRgt m off w | .alc => s.writeAlc m off w
  | .cfg => if 0x18100 ≤ off && !s.hasLane (Fin.ofNat 24 ((off - 0x18100) / 0x10)) then s else s.writeCfg m off w
  | .pwm => s.writePwm m off w | .reg => s.writeReg m off w | .out => s.writeOut m off w | .vcl => s.writeVcl m off w
  | .thm => s.writeThm m off w | .saf => s.writeSaf m off w | .lne => s.writeLne m off w | .met => s.writeMet m off w
  | .bil => s.writeBil m off w | .bat => s.writeBat m off w | .key => s.writeKey m off w | .lcs => s.writeLcs m off w
  | .dia => s.writeDia m off w | .irq => s.writeIrq m off w

/-- A register whose write is a row of the table by itself: the same write. -/
def rowWrite (m : Master) (off : Nat) (w : Word) (s : State) : Option (Host.Outcome State Fault Refusal) :=
  match blockOf off with
  | .ring => if off < 0x5000 && off % 0x40 = 0x1C then some (execRingCtrlWrite m (Fin.ofNat 64 ((off - 0x4000) / 0x40)) w s) else none
  | .win => if off = 0x6000 then some (execWinPartWrite m w s) else none
  | .frz => if off = 0x8004 then some (execFrzReleaseWrite m w s) else none
  | .rgt => if 0x10400 ≤ off && off < 0x10800 && off % 0x100 = 0 then some (execPortEnWrite m (Fin.ofNat 4 ((off - 0x10400) / 0x100)) w s) else none
  | .pwm =>
    if off < 0x21800 then
      let n : Phase := Fin.ofNat 24 ((off - 0x20000) / 0x100)
      let k := off % 0x100
      if k = 0 then some (execPwmCtrlWrite m n w s)
      else if k = 0x18 then some (execPwmCommit m n w s)
      else if k < 0x18 then some (execPwmShadowWrite m n (Fin.ofNat 5 (k / 4 - 1)) w s)
      else none
    else if off < 0x21900 then
      let a : Aux := Fin.ofNat 8 ((off - 0x21800) / 0x20)
      if off % 0x20 = 0 then some (execPwmAuxCtrlWrite m a w s) else if off % 0x20 = 0x10 then some (execPwmAuxCommit m a w s) else none
    else if off = 0x21C00 then some (execPwmStart m w s)
    else if off = 0x21C04 then some (execPwmDtMinWrite m w s)
    else if off = 0x21C0C then some (execPwmGroupCommit m w s)
    else none
  | .reg =>
    if off = 0x24804 then some (execRegApplyArm m w s)
    else if off < 0x24600 && off % 0x40 = 0 then some (execRegCtrlWrite m (Fin.ofNat 24 ((off - 0x24000) / 0x40)) w s) else none
  | .lcs => if off = 0x70200 then
      some (execLcsPortAuthWrite m w (Config.freeNat s.free % 2 == 1) (s.cond (s.supplied && !s.frozen m) (·.useFree)))
    else none
  | _ => none

/-- REGISTER_WRITE. -/
def execRegisterWrite (m : Master) (off : Nat) (w : Word) (s : State) : Host.Outcome State Fault Refusal :=
  match (if off % 4 = 0 then rowWrite m off w s else none) with
  | some x => x
  | none => s.live fun s => (s.access m off fun t =>
      match t.regAt m off with
      | none => t.unmapped m off
      | some _ => t.writeAssigned m off w)

end Sys2Proof.Machine
end

