-- ==== Sys2Proof/Machine/Tick.lean ====
section
/-! DEFINITION. The control tick and the end of a housekeeping round: the two clocked steps that several chapters share (11 R272;
09 R220). -/
namespace Sys2Proof.Machine

/-! ### The input frame (11 R272) -/

/-- Vehicle-side voltage of an outlet in 0.1 V from its channel in mV; 0 while that is invalid (07 R186; log entry 11). -/
def State.vehVolt (s : State) (o : Outlet) : Int :=
  match s.outCfg o with
  | some c => match s.hkVal c.vehChan with | some v => v.tdiv 100 | none => 0
  | none => 0

/-- The sense samplers of the phases up to the tick (06 R154). -/
def State.sampleTick (sense : Vector (Vector Int 8) 24) (s : State) : State :=
  s.forAll fun (n : Phase) t => t.modRegCh n (·.sample t.taps (sense.get n))

/-- What the frame takes from the filters, calibrated, from the pins and the CURTAIL level (11 R272; 12 R292; 03 R81). -/
def State.latchInputs (inp : TickIn) (s : State) : State :=
  let has := outletBits s.hasOutlet
  (((s.forAll fun (o : Outlet) t =>
    t.modOut o fun x =>
      { x with vs := s.tickMean (laneV o) (inp.v.get o), cur := s.tickMean (laneI o) (inp.i.get o), vv := s.vehVolt o, imdLevel := inp.imd.getLsbD o.val }).modSaf fun f =>
    { f with fbp := inp.fbp &&& has, fbm := inp.fbm &&& has }).modAlc fun a => { a with curtailLatched := a.curtail })

/-! ### The safety block at a tick (10 R242-R244, R248, R251, R262) -/

/-- Under safe energy off the drives go low at the first tick at which the current has fallen to 5 A (R242). -/
def State.releaseTick (o : Outlet) (s : State) : State :=
  if s.seoOut o && decide ((s.out.get o).cur.natAbs ≤ 50) then s.setDrives o false else s

/-- The feedback of DC+ (0) or DC- (1) differs from its drive. -/
def State.fbDiffers (s : State) (o : Outlet) (w : Fin 2) : Bool :=
  if w = 0 then s.saf.fbp.getLsbD o.val != s.saf.ocp.getLsbD o.val else s.saf.fbm.getLsbD o.val != s.saf.ocm.getLsbD o.val

/-- The drive of the contactor that differs is high. -/
def State.driveHigh (s : State) (o : Outlet) (w : Fin 2) : Bool :=
  if w = 0 then s.saf.ocp.getLsbD o.val else s.saf.ocm.getLsbD o.val

/-- A mismatch at two consecutive ticks: a weld with the drive low, otherwise the feedback-fault source, with `FB_FAULT` above 5 A. -/
def State.fbFault (o : Outlet) (w : Fin 2) (s : State) : State :=
  if !s.driveHigh o w then s.weldPath o
  else
    let t := s.modSaf fun f => { f with fbFaults := f.fbFaults ||| bit 8 o.val }
    let t1 := if decide (50 < (s.out.get o).cur.natAbs) && (s.out.get o).mismatch.get w = 2 then t.raiseAt .saf 8 o.val 0 0 else t
    t1.raiseOut o 4

/-- The comparison of R244. The two ticks are counted from the deadline on. DEDUCED (log entry 25). -/
def State.feedbackTick (o : Outlet) (s : State) : State :=
  if (s.outCfg o).isNone then s
  else
    let past := s.deadlinePassed o
    let t := s.modOut o fun x =>
      { x with mismatch := vmapIdx x.mismatch fun w n => if past && s.fbDiffers o w then n + 1 else 0 }
    t.forAll fun (w : Fin 2) u => if 2 ≤ (t.out.get o).mismatch.get w then u.fbFault o w else u

/-- `GATE_EN` returns on every phase that nothing holds (R243). -/
def State.gatesTick (s : State) : State :=
  s.modSaf fun f =>
    { f with gateEn := f.gateEn ||| phaseBits fun n => s.hasPhase n && !s.blockedPhase n && !f.overcurrent.getLsbD n.val }

/-- STO pins of an ACD without a source go high (R251). -/
def State.stoTick (s : State) : State :=
  s.forAll fun (a : Acd) t =>
    if t.saf.srcSto.get a = 0 then t.modSaf fun f => { f with stoCmd := f.stoCmd ||| bit 8 a.val ||| bit 8 (a.val + 4) } else t

/-- The tick token (R239, R262): it withdraws the watchdog's source; the third tick in succession without one raises it. -/
def State.tokenTick (s : State) : State :=
  if s.pwr.controlReady && !s.lne.tokenStopped then ((s.modSaf fun f => { f with tokenMiss := 0 }).clearGlb 5).syncControlFault
  else if 3 ≤ s.saf.tokenMiss then (s.raiseGlb 5).syncControlFault
  else s.modSaf fun f => { f with tokenMiss := f.tokenMiss + 1 }

def State.safetyTick (s : State) : State :=
  let s1 := s.forAll fun (o : Outlet) t => ((t.releaseTick o).feedbackTick o)
  let s2 := s1.forAll fun (o : Outlet) t => (t.imdNote o).imdAct o
  ((s2.siteEval).gatesTick).stoTick

/-! ### Phases at a tick (06 R149, R154, R165, R166) -/

/-- A phase detected before this tick is retired (R166). -/
def State.retireTick (n : Phase) (s : State) : State :=
  let c := s.reg.ch.get n
  if c.retired then s else if c.detSense then s.retire n 2 else if c.detOpen then s.retire n 1 else s

/-- `REG[n]_SENSE_AVG` of the tick that ends, and the sense band, which acts from the next tick (R154, R165). -/
def State.senseTick (n : Phase) (s : State) : State :=
  let c := s.reg.ch.get n
  if c.accN = 0 then s.modRegCh n fun c => { c with tickSampled := false }
  else
    let avg := roundDivI c.accSum c.accN
    let out := match s.phaseCfg n with | some p => decide (avg < p.bandLo) || decide (p.bandHi < avg) | none => false
    s.modRegCh n fun c =>
      { c with senseAvg := clampS 12 avg, tickSampled := true, accSum := 0, accN := 0, detSense := c.detSense || out }

/-- `SLOPE_AUTO` (R149); a phase that no outlet holds has an outlet voltage of 0. DESIGN CHOICE (log entry 162). -/
def State.slopeTick (n : Phase) (s : State) : State :=
  match s.phaseCfg n, s.holder n with
  | some p, h =>
    if (s.reg.ch.get n).slopeAuto then
      let v := match h with | some o => s.vout o | none => 0
      s.modRegCh n fun c => { c with slope := autoSlope p s.cfg.active.hdr.slopeK s.vbus v c.dir }
    else s
  | none, _ => s

/-! ### Outlets and moves at a tick -/

/-- The session machine, the limit, and the start-up machine, one transition of it a tick; then the outer loop (06 R161, R528;
07 R182, R184). -/
def State.outletTick (o : Outlet) (s : State) : State :=
  let was := (s.reg.start.get o).st
  let t := (s.sessionTick o).limitTick o
  let t1 := if (t.reg.start.get o).st = was then ((t.rampAbort o).pauseEnd o).startTick o else t
  t1.outerLoop o

/-- Moves end, miss their bounds, go on, and are decided (07 R189, R190, R194). -/
def State.movesTick (s : State) : State :=
  let t := s.moveStops.forAll fun (n : Phase) u => (u.moveOpen n).moveMiss n
  t.moveDecide

/-- The curves of the next round are built from the last latch at least 20 µs before it (01 R25; 03 R71). -/
def State.feedTick (t : Nat) (s : State) : State :=
  let n := t / Config.roundNs + 1
  let r := n * Config.roundNs
  if t + Config.tickNs ≤ r && r < t + 2 * Config.tickNs then (s.batLatch).buildCurves n else s

/-- Under `STOP_ALL` every outlet stops, and then every phase channel (11 R282, R283); the die stop's end (09 R229). -/
def State.stopTick (s : State) : State := if s.lne.stopAll then s.stopAllOutlets 10 else s
def State.stopDone (s : State) : State :=
  (if s.lne.stopAll && s.allStopped then s.clearAllEn else s).dieSettle

/-- What the driving lane and the control plane's units do at tick k. -/
def State.lanesTick (k : Nat) (s : State) : State :=
  let s1 := s.takeOver
  let s2 := s1.modLne fun l => { l with frame := s1.laneFrame }
  let s3 := if s2.lne.takeoverFlag then s2.refreshOutputs else s2
  let s4 := s3.modLne fun l => { l with takeoverFlag := false, resyncFlag := false }
  let s5 := (s4.forAll fun (n : Phase) t => t.moveCount n).forAll fun (o : Outlet) t => t.latchSlot o
  let s6 := s5.forAll fun (n : Phase) t => (((t.retireTick n).heatSinkTick n).senseTick n).slopeTick n
  let s7 := ((s6.feedTick (k * Config.tickNs)).heldCheck).stopTick
  let s8 := s7.forAll fun (o : Outlet) t => t.outletTick o
  s8.movesTick.stopDone

/-- CONTROL_TICK (11 R272): the next tick start. The safety block and the legal domain act at every tick; the lanes only while the control
plane is ready. -/
def execControlTick (inp : TickIn) (s : State) : Host.Outcome State Fault Refusal :=
  s.live fun s =>
    let k := s.nextTick
    let t := (s.runToFleet (k * Config.tickNs)).modLne fun l => { l with tick := k, ticked := true }
    let t1 := if t.bil.legalUp then t.liveRecord k else t
    let t2 := (((t1.sampleTick inp.sense).latchInputs inp).batTick).tokenTick
    let t3 := if t2.pwr.controlReady then t2.lanesTick k else t2
    t3.safetyTick.flushTrig

/-! ### The housekeeping round (09 R220) -/

/-- The round that ends next. -/
def State.nextHk (s : State) : Nat :=
  let n := s.now / Config.hkNs
  if s.now % Config.hkNs = 0 && s.thm.hkEnd < n then n else n + 1

/-- HOUSEKEEPING_ROUND_END: every value of the round becomes readable and every comparison acts (09 R220; 07 R176; 12 R296; 14 R350-R359;
21 R488-R490). -/
def execHousekeepingRoundEnd (inp : HkIn) (s : State) : Host.Outcome State Fault Refusal :=
  s.live fun s =>
    let n := s.nextHk
    let t := (s.runToFleet (n * Config.hkNs)).modThm fun x => { x with hkEnd := n }
    let t1 := ((t.thermalRound inp).laneTerms).batRound
    let t2 := t1.forAll fun (o : Outlet) u =>
      let a := match u.outCfg o with | some c => c.kind == 0 | none => false
      u.modOut o fun x => { x with ppCode := if a then Config.cableCoding (inp.pp.get o) else 0 }
    t2.diaRound inp

end Sys2Proof.Machine
end

