-- ==== Sys2Proof/Machine/Dispatch.lean ====
section
/-! DEFINITION. One arm for each command. -/
namespace Sys2Proof.Machine

/-- What a command does to everything but the queue. -/
def exec (i : Instr) (s : State) : Host.Outcome State Fault Refusal :=
  match i with
  | .controlTick inp => Sys2Proof.Machine.execControlTick inp s
  | .recordExpired o => Sys2Proof.Machine.execRecordExpired o s
  | .demandWrite m o len offset d => Sys2Proof.Machine.execDemandWrite m o len offset d s
  | .housekeepingRoundEnd inp => Sys2Proof.Machine.execHousekeepingRoundEnd inp s
  | .upSend => Sys2Proof.Machine.execUpSend s
  | .upReceive p h u => Sys2Proof.Machine.execUpReceive p h u s
  | .search => Sys2Proof.Machine.execSearch s
  | .downReceive p h d => Sys2Proof.Machine.execDownReceive p h d s
  | .downEvaluate => Sys2Proof.Machine.execDownEvaluate s
  | .applyInstant => Sys2Proof.Machine.execApplyInstant s
  | .clampTransfer => Sys2Proof.Machine.execClampTransfer s
  | .mirrorReceive p h m => Sys2Proof.Machine.execMirrorReceive p h m s
  | .umpireDecide => Sys2Proof.Machine.execUmpireDecide s
  | .takeover => Sys2Proof.Machine.execTakeover s
  | .treeSwitch => Sys2Proof.Machine.execTreeSwitch s
  | .drillRound => Sys2Proof.Machine.execDrillRound s
  | .curtailChange samples => Sys2Proof.Machine.execCurtailChange samples s
  | .alcSetCap r d => Sys2Proof.Machine.execAlcSetCap r d s
  | .alcDrill r d => Sys2Proof.Machine.execAlcDrill r d s
  | .alcTakeover r d => Sys2Proof.Machine.execAlcTakeover r d s
  | .alcRoleRestore r d => Sys2Proof.Machine.execAlcRoleRestore r d s
  | .alcHoldClear r d => Sys2Proof.Machine.execAlcHoldClear r d s
  | .probeSend triggered => Sys2Proof.Machine.execProbeSend triggered s
  | .probeReceive p h b => Sys2Proof.Machine.execProbeReceive p h b s
  | .portEnWrite m p w => Sys2Proof.Machine.execPortEnWrite m p w s
  | .syncAcquired p aligned groups => Sys2Proof.Machine.execSyncAcquired p aligned groups s
  | .syncLost p los codeErrs => Sys2Proof.Machine.execSyncLost p los codeErrs s
  | .neighbourSilent p => Sys2Proof.Machine.execNeighbourSilent p s
  | .portActive p => Sys2Proof.Machine.execPortActive p s
  | .frameForward p h body => Sys2Proof.Machine.execFrameForward p h body s
  | .cfgSegmentReceive p h kind msgId index count bytes => Sys2Proof.Machine.execCfgSegmentReceive p h kind msgId index count bytes s
  | .cfgMessageTimeout => Sys2Proof.Machine.execCfgMessageTimeout s
  | .join identity => Sys2Proof.Machine.execJoin identity s
  | .joinRepeat identity => Sys2Proof.Machine.execJoinRepeat identity s
  | .joinReceive p h b => Sys2Proof.Machine.execJoinReceive p h b s
  | .joinAck id round => Sys2Proof.Machine.execJoinAck id round s
  | .joinRefuse id reason => Sys2Proof.Machine.execJoinRefuse id reason s
  | .admissionRound => Sys2Proof.Machine.execAdmissionRound s
  | .leave p h b => Sys2Proof.Machine.execLeave p h b s
  | .leaveAck id round => Sys2Proof.Machine.execLeaveAck id round s
  | .memberRemoved id => Sys2Proof.Machine.execMemberRemoved id s
  | .timeOffsetUpdate p t1 t2 t3 t4 => Sys2Proof.Machine.execTimeOffsetUpdate p t1 t2 t3 t4 s
  | .timeHoldover => Sys2Proof.Machine.execTimeHoldover s
  | .crewForm => Sys2Proof.Machine.execCrewForm s
  | .taiCheck => Sys2Proof.Machine.execTaiCheck s
  | .taiCorrectionApply => Sys2Proof.Machine.execTaiCorrectionApply s
  | .ppsEdge => Sys2Proof.Machine.execPpsEdge s
  | .ptpMessage mgmtPort domain m => Sys2Proof.Machine.execPtpMessage mgmtPort domain m s
  | .cfgStage r d => Sys2Proof.Machine.execCfgStage r d s
  | .stageVerifyDone sigOk => Sys2Proof.Machine.execStageVerifyDone sigOk s
  | .cfgActivate r d => Sys2Proof.Machine.execCfgActivate r d s
  | .cfgStageCancel r d => Sys2Proof.Machine.execCfgStageCancel r d s
  | .stageReport => Sys2Proof.Machine.execStageReport s
  | .stageReportReceive h status pair => Sys2Proof.Machine.execStageReportReceive h status pair s
  | .activationTimeout => Sys2Proof.Machine.execActivationTimeout s
  | .announce => Sys2Proof.Machine.execAnnounce s
  | .announceReceive h pair round => Sys2Proof.Machine.execAnnounceReceive h pair round s
  | .adopted => Sys2Proof.Machine.execAdopted s
  | .catchUp => Sys2Proof.Machine.execCatchUp s
  | .pwmShadowWrite m n reg w => Sys2Proof.Machine.execPwmShadowWrite m n reg w s
  | .pwmCommit m n w => Sys2Proof.Machine.execPwmCommit m n w s
  | .pwmGroupCommit m w => Sys2Proof.Machine.execPwmGroupCommit m w s
  | .pwmStart m w => Sys2Proof.Machine.execPwmStart m w s
  | .pwmCtrlWrite m n w => Sys2Proof.Machine.execPwmCtrlWrite m n w s
  | .pwmDtMinWrite m w => Sys2Proof.Machine.execPwmDtMinWrite m w s
  | .pwmAuxCommit m a w => Sys2Proof.Machine.execPwmAuxCommit m a w s
  | .pwmAuxCtrlWrite m a w => Sys2Proof.Machine.execPwmAuxCtrlWrite m a w s
  | .pendingTransfer c => Sys2Proof.Machine.execPendingTransfer c s
  | .periodBoundary c samples => Sys2Proof.Machine.execPeriodBoundary c samples s
  | .comparatorTrip n tm sense => Sys2Proof.Machine.execComparatorTrip n tm sense s
  | .dmaxLimit n => Sys2Proof.Machine.execDmaxLimit n s
  | .regApplyArm m w => Sys2Proof.Machine.execRegApplyArm m w s
  | .regCtrlWrite m n w => Sys2Proof.Machine.execRegCtrlWrite m n w s
  | .regPhaseRestore r d => Sys2Proof.Machine.execRegPhaseRestore r d s
  | .overcurrent n a b => Sys2Proof.Machine.execOvercurrent n a b s
  | .trackError o => Sys2Proof.Machine.execTrackError o s
  | .rampTimeout o => Sys2Proof.Machine.execRampTimeout o s
  | .pauseTimeout o => Sys2Proof.Machine.execPauseTimeout o s
  | .outEnable r d => Sys2Proof.Machine.execOutEnable r d s
  | .outDisable r d => Sys2Proof.Machine.execOutDisable r d s
  | .outStop r d => Sys2Proof.Machine.execOutStop r d s
  | .outFaultClear r d => Sys2Proof.Machine.execOutFaultClear r d s
  | .outSessionCap r d => Sys2Proof.Machine.execOutSessionCap r d s
  | .pilotChange idx samples => Sys2Proof.Machine.execPilotChange idx samples s
  | .cableCheckDone o => Sys2Proof.Machine.execCableCheckDone o s
  | .cableCheckTimeout o => Sys2Proof.Machine.execCableCheckTimeout o s
  | .prechargeTimeout o => Sys2Proof.Machine.execPrechargeTimeout o s
  | .contactorDeadline o => Sys2Proof.Machine.execContactorDeadline o s
  | .contactorFeedback o plus minus => Sys2Proof.Machine.execContactorFeedback o plus minus s
  | .stopRampEnd o => Sys2Proof.Machine.execStopRampEnd o s
  | .weldCheck o => Sys2Proof.Machine.execWeldCheck o s
  | .weldCheckTimeout o => Sys2Proof.Machine.execWeldCheckTimeout o s
  | .imdAlarm o => Sys2Proof.Machine.execImdAlarm o s
  | .moveCurrentZero n => Sys2Proof.Machine.execMoveCurrentZero n s
  | .moveTimeout n => Sys2Proof.Machine.execMoveTimeout n s
  | .matrixFeedback k closed => Sys2Proof.Machine.execMatrixFeedback k closed s
  | .reversalCurrentZero o => Sys2Proof.Machine.execReversalCurrentZero o s
  | .vehicleMessage o msg => Sys2Proof.Machine.execVehicleMessage o msg s
  | .protoSelected o offered => Sys2Proof.Machine.execProtoSelected o offered s
  | .slacMatch o mean => Sys2Proof.Machine.execSlacMatch o mean s
  | .slacFail o => Sys2Proof.Machine.execSlacFail o s
  | .tlsFail o => Sys2Proof.Machine.execTlsFail o s
  | .recordRefresh o => Sys2Proof.Machine.execRecordRefresh o s
  | .authTimeout o => Sys2Proof.Machine.execAuthTimeout o s
  | .loopTimeout o => Sys2Proof.Machine.execLoopTimeout o s
  | .chargerFrameSend o => Sys2Proof.Machine.execChargerFrameSend o s
  | .vclSessionNextRead m => Sys2Proof.Machine.execVclSessionNextRead m s
  | .vclSessionPolicy r d => Sys2Proof.Machine.execVclSessionPolicy r d s
  | .vclAuth r d => Sys2Proof.Machine.execVclAuth r d s
  | .vclFetch r d => Sys2Proof.Machine.execVclFetch r d s
  | .vclCertResponse r d => Sys2Proof.Machine.execVclCertResponse r d s
  | .vclSchedule r d => Sys2Proof.Machine.execVclSchedule r d s
  | .vclStationChain r d => Sys2Proof.Machine.execVclStationChain r d s
  | .drivePoll n => Sys2Proof.Machine.execDrivePoll n s
  | .driveResponse n flow temp => Sys2Proof.Machine.execDriveResponse n flow temp s
  | .driveResponseTimeout n => Sys2Proof.Machine.execDriveResponseTimeout n s
  | .flowFault l => Sys2Proof.Machine.execFlowFault l s
  | .dieTrip temp => Sys2Proof.Machine.execDieTrip temp s
  | .safSeoDemand r d => Sys2Proof.Machine.execSafSeoDemand r d s
  | .safStoDemand r d => Sys2Proof.Machine.execSafStoDemand r d s
  | .safSiteStop r d => Sys2Proof.Machine.execSafSiteStop r d s
  | .safReset r d => Sys2Proof.Machine.execSafReset r d s
  | .estop e a b held => Sys2Proof.Machine.execEstop e a b held s
  | .estopDiscrepancy e => Sys2Proof.Machine.execEstopDiscrepancy e s
  | .contactorRelease o => Sys2Proof.Machine.execContactorRelease o s
  | .permitLost o => Sys2Proof.Machine.execPermitLost o s
  | .genFault n pad => Sys2Proof.Machine.execGenFault n pad s
  | .stoFault a padA padB => Sys2Proof.Machine.execStoFault a padA padB s
  | .brkPulseEnd => Sys2Proof.Machine.execBrkPulseEnd s
  | .imdFault o => Sys2Proof.Machine.execImdFault o s
  | .heartbeatSend triggered => Sys2Proof.Machine.execHeartbeatSend triggered s
  | .heartbeatReceive p h f => Sys2Proof.Machine.execHeartbeatReceive p h f s
  | .releaseAnnounceEnd origin => Sys2Proof.Machine.execReleaseAnnounceEnd origin s
  | .connExpired p => Sys2Proof.Machine.execConnExpired p s
  | .acdFrameSend a => Sys2Proof.Machine.execAcdFrameSend a s
  | .acdFrameReceive a f => Sys2Proof.Machine.execAcdFrameReceive a f s
  | .tickTokenLost => Sys2Proof.Machine.execTickTokenLost s
  | .supplyFault x => Sys2Proof.Machine.execSupplyFault x s
  | .supplyRecovered x => Sys2Proof.Machine.execSupplyRecovered x s
  | .rootLost gap locked => Sys2Proof.Machine.execRootLost gap locked s
  | .driftCheck edges => Sys2Proof.Machine.execDriftCheck edges s
  | .xtalFail freq => Sys2Proof.Machine.execXtalFail freq s
  | .clockFaultReset => Sys2Proof.Machine.execClockFaultReset s
  | .tickCompare a b landed => Sys2Proof.Machine.execTickCompare a b landed s
  | .laneTakeover => Sys2Proof.Machine.execLaneTakeover s
  | .tokenGateStop => Sys2Proof.Machine.execTokenGateStop s
  | .coxDead => Sys2Proof.Machine.execCoxDead s
  | .restartComplete lane ok => Sys2Proof.Machine.execRestartComplete lane ok s
  | .restartTimeout lane => Sys2Proof.Machine.execRestartTimeout lane s
  | .resynced lane => Sys2Proof.Machine.execResynced lane s
  | .drillTick => Sys2Proof.Machine.execDrillTick s
  | .lneSwapDrill r d => Sys2Proof.Machine.execLneSwapDrill r d s
  | .lneLaneRestore r d => Sys2Proof.Machine.execLneLaneRestore r d s
  | .secondBoundary => Sys2Proof.Machine.execSecondBoundary s
  | .sessionEvent o start => Sys2Proof.Machine.execSessionEvent o start s
  | .gridWindowEnd g => Sys2Proof.Machine.execGridWindowEnd g s
  | .laneFault n bits => Sys2Proof.Machine.execLaneFault n bits s
  | .laneClear n => Sys2Proof.Machine.execLaneClear n s
  | .reversedSensor idx => Sys2Proof.Machine.execReversedSensor idx s
  | .darkBurst samples => Sys2Proof.Machine.execDarkBurst samples s
  | .metCapture r d => Sys2Proof.Machine.execMetCapture r d s
  | .captureDone => Sys2Proof.Machine.execCaptureDone s
  | .intervalEnd => Sys2Proof.Machine.execIntervalEnd s
  | .clockStep => Sys2Proof.Machine.execClockStep s
  | .receiptReady number signed verified => Sys2Proof.Machine.execReceiptReady number signed verified s
  | .bilTariffSet r d => Sys2Proof.Machine.execBilTariffSet r d s
  | .bilReceiptFetch r d => Sys2Proof.Machine.execBilReceiptFetch r d s
  | .bilExport r d => Sys2Proof.Machine.execBilExport r d s
  | .bilErase r d => Sys2Proof.Machine.execBilErase r d s
  | .displayDwell o => Sys2Proof.Machine.execDisplayDwell o s
  | .displayPoll o => Sys2Proof.Machine.execDisplayPoll o s
  | .displayAnswer o bytes => Sys2Proof.Machine.execDisplayAnswer o bytes s
  | .tamper y low held => Sys2Proof.Machine.execTamper y low held s
  | .stepMeasurement v1 i1 v2 i2 spread => Sys2Proof.Machine.execStepMeasurement v1 i1 v2 i2 spread s
  | .heldDone => Sys2Proof.Machine.execHeldDone s
  | .heldStepStart => Sys2Proof.Machine.execHeldStepStart s
  | .batteryEnd => Sys2Proof.Machine.execBatteryEnd s
  | .batteryHistoryWrite => Sys2Proof.Machine.execBatteryHistoryWrite s
  | .bakEstimate => Sys2Proof.Machine.execBakEstimate s
  | .batHeldStep r d => Sys2Proof.Machine.execBatHeldStep r d s
  | .batShip r d => Sys2Proof.Machine.execBatShip r d s
  | .ringDbSq m r p => Sys2Proof.Machine.execRingDbSq m r p s
  | .ringDbCq m r c => Sys2Proof.Machine.execRingDbCq m r c s
  | .ringCtrlWrite m r w => Sys2Proof.Machine.execRingCtrlWrite m r w s
  | .busMasterEnable f on => Sys2Proof.Machine.execBusMasterEnable f on s
  | .drainDone r => Sys2Proof.Machine.execDrainDone r s
  | .descriptorDecide r d contentOk => Sys2Proof.Machine.execDescriptorDecide r d contentOk s
  | .acceptanceCommit r verified => Sys2Proof.Machine.execAcceptanceCommit r verified s
  | .notBeforeReached r seq => Sys2Proof.Machine.execNotBeforeReached r seq s
  | .completionWrite r => Sys2Proof.Machine.execCompletionWrite r s
  | .ringNop r d => Sys2Proof.Machine.execRingNop r d s
  | .ringFence r d => Sys2Proof.Machine.execRingFence r d s
  | .irqModerationTimer v => Sys2Proof.Machine.execIrqModerationTimer v s
  | .journalRetry verified => Sys2Proof.Machine.execJournalRetry verified s
  | .rgtTimeOfDay r d => Sys2Proof.Machine.execRgtTimeOfDay r d s
  | .rgtTunnelSend r d => Sys2Proof.Machine.execRgtTunnelSend r d s
  | .rgtTunnelRecv r d => Sys2Proof.Machine.execRgtTunnelRecv r d s
  | .tunnelReceive p h channel msgId index count length bytes => Sys2Proof.Machine.execTunnelReceive p h channel msgId index count length bytes s
  | .tunnelTimeout => Sys2Proof.Machine.execTunnelTimeout s
  | .tunnelRecvTimeout => Sys2Proof.Machine.execTunnelRecvTimeout s
  | .functionLevelReset f => Sys2Proof.Machine.execFunctionLevelReset f s
  | .windowAccess m g write addr bytes => Sys2Proof.Machine.execWindowAccess m g write addr bytes s
  | .winClaim r d => Sys2Proof.Machine.execWinClaim r d s
  | .winRelease r d => Sys2Proof.Machine.execWinRelease r d s
  | .winPartWrite m w => Sys2Proof.Machine.execWinPartWrite m w s
  | .winOwnRead f => Sys2Proof.Machine.execWinOwnRead f s
  | .frzReleaseWrite m w => Sys2Proof.Machine.execFrzReleaseWrite m w s
  | .loWordRead m off => Sys2Proof.Machine.execLoWordRead m off s
  | .lcsPortAuthWrite m w sigOk => Sys2Proof.Machine.execLcsPortAuthWrite m w sigOk s
  | .unmappedAccess m off write => Sys2Proof.Machine.execUnmappedAccess m off write s
  | .registerWrite m off w => Sys2Proof.Machine.execRegisterWrite m off w s
  | .dlvRingForget r d => Sys2Proof.Machine.execDlvRingForget r d s
  | .journalRecovery => Sys2Proof.Machine.execJournalRecovery s
  | .caddyRequest arrivals => Sys2Proof.Machine.execCaddyRequest arrivals s
  | .keySlotWrite r d => Sys2Proof.Machine.execKeySlotWrite r d s
  | .keySlotErase r d => Sys2Proof.Machine.execKeySlotErase r d s
  | .keyOtpWrite r d verified => Sys2Proof.Machine.execKeyOtpWrite r d verified s
  | .keyAnchorSet r d => Sys2Proof.Machine.execKeyAnchorSet r d s
  | .keyLegacySet r d => Sys2Proof.Machine.execKeyLegacySet r d s
  | .keyQuote r d => Sys2Proof.Machine.execKeyQuote r d s
  | .keyCertFetch r d => Sys2Proof.Machine.execKeyCertFetch r d s
  | .keyTamper x => Sys2Proof.Machine.execKeyTamper x s
  | .lcsChallenge r d => Sys2Proof.Machine.execLcsChallenge r d s
  | .lcsTransition r d => Sys2Proof.Machine.execLcsTransition r d s
  | .lcsPortOpen r d => Sys2Proof.Machine.execLcsPortOpen r d s
  | .lcsPortClose r d => Sys2Proof.Machine.execLcsPortClose r d s
  | .lcsImageWrite r d => Sys2Proof.Machine.execLcsImageWrite r d s
  | .lcsImageActivate r d => Sys2Proof.Machine.execLcsImageActivate r d s
  | .lcsImageConfirm r d => Sys2Proof.Machine.execLcsImageConfirm r d s
  | .lcsPolicySet r d => Sys2Proof.Machine.execLcsPolicySet r d s
  | .lcsLock r d => Sys2Proof.Machine.execLcsLock r d s
  | .readyTimeout kind => Sys2Proof.Machine.execReadyTimeout kind s
  | .planeReady p integrator => Sys2Proof.Machine.execPlaneReady p integrator s
  | .coldReset source held aonOk slots estopA estopB => Sys2Proof.Machine.execColdReset source held aonOk slots estopA estopB s
  | .warmReset clockFault held => Sys2Proof.Machine.execWarmReset clockFault held s
  | .planeReset p => Sys2Proof.Machine.execPlaneReset p s
  | .pwrReset r d => Sys2Proof.Machine.execPwrReset r d s
  | .pwrIdle r d => Sys2Proof.Machine.execPwrIdle r d s
  | .pwrRun r d => Sys2Proof.Machine.execPwrRun r d s
  | .powerFailWarning pfw x => Sys2Proof.Machine.execPowerFailWarning pfw x s
  | .pfwRecovered pfw x => Sys2Proof.Machine.execPfwRecovered pfw x s
  | .holdEntry x => Sys2Proof.Machine.execHoldEntry x s
  | .aonStop vbak => Sys2Proof.Machine.execAonStop vbak s
  | .diaExport r d => Sys2Proof.Machine.execDiaExport r d s
  | .diaHealth r d => Sys2Proof.Machine.execDiaHealth r d s
  | .diaRemote r d => Sys2Proof.Machine.execDiaRemote r d s
  | .diaRemoteTimeout => Sys2Proof.Machine.execDiaRemoteTimeout s
  | .diagRequest p h id crew reqId => Sys2Proof.Machine.execDiagRequest p h id crew reqId s
  | .diagReply p h reqId record => Sys2Proof.Machine.execDiagReply p h reqId record s
  | .driftWindow => Sys2Proof.Machine.execDriftWindow s
  | .permitChange o closed => Sys2Proof.Machine.execPermitChange o closed s
  | .legalSample inp => Sys2Proof.Machine.execLegalSample inp s
  | .compareEvent n => Sys2Proof.Machine.execCompareEvent n s
  | .roleRestoreRound => Sys2Proof.Machine.execRoleRestoreRound s
  | .removalRound => Sys2Proof.Machine.execRemovalRound s
  | .rootRecovered held locked => Sys2Proof.Machine.execRootRecovered held locked s
  | .extSourceLost => Sys2Proof.Machine.execExtSourceLost s
  | .imageVerifyDone ok => Sys2Proof.Machine.execImageVerifyDone ok s
  | .policyAction act => Sys2Proof.Machine.execPolicyAction act s
  | .bakChargerMode vbak microamps => Sys2Proof.Machine.execBakChargerMode vbak microamps s

end Sys2Proof.Machine
end

