-- ==== Sys2Proof/Machine/Step.lean ====
section
/-! DEFINITION. A step takes the command at the front of the queue; with an empty queue one CLK_SYS cycle passes. -/
namespace Sys2Proof.Machine


/-- One step. On an empty queue the block idles for one CLK_SYS cycle: the cycle count and the fleet-time counter advance
(02, "Fleet time"). DESIGN CHOICE (log entry 7). -/
def step (s : State) : Host.Outcome State Fault Refusal :=
  match s.pending with
  | [] => .next (s.runCycles 1)
  | c :: rest => exec c { s with pending := rest }

/-- The state with the command that a word spells at the front of its queue; unchanged where it spells none. -/
def State.withFetchWord (s : State) (nbits w : Nat) : State :=
  match decodeTableWord nbits w with
  | some c => { s with pending := c :: s.pending }
  | none => s

end Sys2Proof.Machine
end

