-- ==== Sys2Proof/Safety.lean ====
section
/-! DEFINITION. What counts as a sound state of the block, and what a change may touch, in the terms the statements use. -/
namespace Sys2Proof.Machine

/-- The stores that the model keeps in canonical form are in it: the window's memory and the ownership table (16 R395, R400), the private
SRAM of each core group (01 R13, R14). -/
def StoresWf (s : State) : Prop :=
  Memory.wf s.win.mem ∧ sparseWf Page.cold s.win.pages = true ∧ ∀ g : Fin 8, Memory.wf (s.sram.get g)

/-- `t` with all that announcing an event changes taken from `s`: the event registers, the interrupt vectors and the messages they send, the
event journal, the count of records it dropped (21 R484-R487; 15 R388, R389; 09 R232). -/
def State.quietAs (s t : State) : State :=
  { t with ev := s.ev, irq := s.irq, dia := s.dia, hostOut := { t.hostOut with msix := s.hostOut.msix },
           thm := { t.thm with cntJournalDrop := s.thm.cntJournalDrop } }

/-- From `s` to `t` nothing changes but what announcing events changes. -/
def OnlyEvents (s t : State) : Prop := State.quietAs s t = s

/-- From `s` to `t` nothing changes but the time that has passed: the cycle count and fleet time (02, "Fleet time"), and what the Regatta
ports have sent in it (02 R36, R42). -/
def OnlyTime (s t : State) : Prop := { t with clk := { t.clk with cycle := s.clk.cycle, fleetFix := s.clk.fleetFix }, line := s.line } = s

/-- A named master's register access is carried out: the main supply is there and the master is not frozen (16 R402; 20 R475). -/
def State.reaches (s : State) (m : Master) : Bool := s.supplied && !s.frozen m

/-! ### Frames -/

/-- A frame that a port takes in: the port is in HELLO or ACTIVE, the frame is not aborted, its checksum right, its hops not used up, its
length right (02 R38-R41). -/
def State.takesIn (s : State) (p : Port) (h : Hdr) : Bool :=
  ((s.rgt.port.get p).st == .hello || (s.rgt.port.get p).st == .active) && !h.aborted && h.crcOk && h.hops != h.hopLimit && h.framed

/-- As `takesIn`, for a frame of a class that the port must carry (02 R50). -/
def State.accepts (s : State) (c : RgtClass) (p : Port) (h : Hdr) : Bool := s.takesIn p h && (s.rgt.port.get p).carries c

/-- What taking in a frame changes before its content acts: the silence bound and the echo times of its port, and the count of invalid code
groups (02 R38, R48, R49; 21 R488). -/
def State.received (p : Port) (h : Hdr) (s : State) : State :=
  (s.codeErrors p h.codeErrs).modPort p fun t => { t with lastValid := s.clk.cycle, echoTx := h.txTime, echoRx := s.now }

/-- The port and header of a command that is the arrival of a PROBE, CFG or DATA frame for this controller. -/
def arrival : Instr → Option (Port × Hdr)
  | .probeReceive p h _ | .cfgSegmentReceive p h _ _ _ _ _ | .joinReceive p h _ | .leave p h _ | .tunnelReceive p h _ _ _ _ _ _
  | .diagRequest p h _ _ _ | .diagReply p h _ _ => some (p, h)
  | _ => none

/-! ### Kinds of commands -/

/-- The descriptor whose work a command is. BIL_TARIFF_SET is none of them: the legal domain takes it up at a boundary (13 R346). -/
def carried : Instr → Option (Ring × Desc)
  | .alcSetCap r d | .alcDrill r d | .alcTakeover r d | .alcRoleRestore r d | .alcHoldClear r d | .cfgStage r d | .cfgActivate r d
  | .cfgStageCancel r d | .regPhaseRestore r d | .outEnable r d | .outDisable r d | .outStop r d | .outFaultClear r d | .outSessionCap r d
  | .vclSessionPolicy r d | .vclAuth r d | .vclFetch r d | .vclCertResponse r d | .vclSchedule r d | .vclStationChain r d
  | .safSeoDemand r d | .safStoDemand r d | .safSiteStop r d | .safReset r d | .lneSwapDrill r d | .lneLaneRestore r d | .metCapture r d
  | .bilReceiptFetch r d | .bilExport r d | .bilErase r d | .batHeldStep r d | .batShip r d | .ringNop r d
  | .ringFence r d | .rgtTimeOfDay r d | .rgtTunnelSend r d | .rgtTunnelRecv r d | .winClaim r d | .winRelease r d | .dlvRingForget r d
  | .keySlotWrite r d | .keySlotErase r d | .keyOtpWrite r d _ | .keyAnchorSet r d | .keyLegacySet r d | .keyQuote r d | .keyCertFetch r d
  | .lcsChallenge r d | .lcsTransition r d | .lcsPortOpen r d | .lcsPortClose r d | .lcsImageWrite r d | .lcsImageActivate r d
  | .lcsImageConfirm r d | .lcsPolicySet r d | .lcsLock r d | .pwrReset r d | .pwrIdle r d | .pwrRun r d | .diaExport r d | .diaHealth r d
  | .diaRemote r d => some (r, d)
  | _ => none

/-- Commands that act, or let time run, without the main supply: the always-on detections, the loss of the always-on supply, a cold reset, and
the boundaries of seconds and intervals (12 R306; 13 R339; 18 R428; 20 R475, R478). -/
def actsUnsupplied : Instr → Bool
  | .tamper .. | .darkBurst .. | .keyTamper _ | .aonStop _ | .coldReset .. | .secondBoundary | .intervalEnd => true
  | _ => false

/-- The named master of a register access that a command is. -/
def accessBy : Instr → Option Master
  | .portEnWrite m _ _ | .pwmShadowWrite m _ _ _ | .pwmCommit m _ _ | .pwmGroupCommit m _ | .pwmStart m _ | .pwmCtrlWrite m _ _
  | .pwmDtMinWrite m _ | .pwmAuxCommit m _ _ | .pwmAuxCtrlWrite m _ _ | .regApplyArm m _ | .regCtrlWrite m _ _ | .vclSessionNextRead m
  | .ringDbSq m _ _ | .ringDbCq m _ _ | .ringCtrlWrite m _ _ | .winPartWrite m _ | .frzReleaseWrite m _ | .loWordRead m _
  | .lcsPortAuthWrite m _ _ | .unmappedAccess m _ _ | .registerWrite m _ _ => some m
  | _ => none

end Sys2Proof.Machine
end

