-- ==== Sys2Proof/Certificates/Slice0/Obligations.lean ====
section
/-! DEFINITION. The statements for the provers; each docstring names the rules of the manual it rests on. -/
open Sys2Proof Sys2Proof.Machine

/-- The queue of commands; the idle step is the model's choice (log entries 7, 9). -/
def Obligations.AStepRunsTheFrontCommand : Prop :=
  ∀ s : State,
    (∀ (c : Instr) (rest : List Instr), step { s with pending := c :: rest } = exec c { s with pending := rest }) ∧
    (s.pending = [] → ∃ t, step s = .next t ∧ t.clk.cycle = s.clk.cycle + 1 ∧ t.clk.fleetFix = s.clk.fleetFix + s.clk.rate ∧ OnlyTime s t)

/-- The Cold column of the register tables (05 R145, 06 R172, 07 R188, 08 R219, 10 R270, 13 R348, 15 R393, 16 R400, R408, 17 R425, 18 R444, 20 R483). -/
def Obligations.ResetLeavesTheManualsValues : Prop :=
  let s := State.reset
  StoresWf s ∧ s.pending = [] ∧ (∀ a, s.memRead a = 0) ∧ (∀ p, s.page p = ⟨.free, 0, 0⟩) ∧ (∀ m, s.frozen m = false) ∧
  (∀ e, s.evGet e = ⟨0, 0⟩) ∧
  (∀ r, (s.ring.get r).st = .disabled ∧ (s.ring.get r).en = false ∧ (s.ring.get r).size = 4 ∧ (s.ring.get r).classes = 0b11111 ∧
    (s.ring.get r).p = 0 ∧ (s.ring.get r).a = 0 ∧ (s.ring.get r).q = 0 ∧ (s.ring.get r).c = 0) ∧
  (∀ f, (s.ringF.get f).recovering = true ∧ (s.ringF.get f).lastReset = 1) ∧
  (∀ v, (s.irq.get v).count = 1 ∧ (s.irq.get v).time = 0) ∧
  (∀ n, (s.pwm.ch.get n).en = false ∧ (s.pwm.ch.get n).active = ⟨0, 0, 0, 48, 0b0101, 0b0101⟩ ∧ (s.pwm.ch.get n).running = false) ∧ s.pwm.dtMin = 48 ∧
  (∀ n, (s.reg.ch.get n).en = false ∧ (s.reg.ch.get n).slopeAuto = true ∧ (s.reg.ch.get n).blank = 120 ∧ (s.reg.ch.get n).dmax = 1000 ∧
    (s.reg.ch.get n).inForce = 0) ∧
  (∀ o, (s.out.get o).st = .off ∧ (s.out.get o).grantStatus = 2 ∧ (s.out.get o).hostCap = BitVec.allOnes 32) ∧
  (∀ o, (s.vcl.ch.get o).slacThreshold = 40 ∧ (s.vcl.ch.get o).defaultBand = 15) ∧ s.vcl.hostWait = 30 ∧
  s.saf.ocp = 0 ∧ s.saf.ocm = 0 ∧ s.saf.gateEn = 0 ∧ s.saf.srcGlb = 0b0000100000 ∧ s.mtx.drv = 0 ∧
  s.win.pf1First = 256 ∧ s.win.pf2First = 3840 ∧ s.alc.st = .miss ∧ s.alc.cap = BitVec.allOnes 32 ∧ s.rgt.cfgShape = 10 ∧
  s.pwr.mgmtReady = false ∧ s.pwr.controlReady = false ∧ s.pwr.dataReady = false ∧ s.pwr.integratorReady = false ∧ s.pwr.bakChg = 5 ∧
  s.bil.legalUp = false ∧ s.bil.errNoTime = true ∧ s.met.noVoltage = true ∧ s.key.mixed = true ∧ s.key.rootOk = false

/-- Every command is carried out; the queue is the step's, the variant fixed. -/
def Obligations.EveryCommandIsAnsweredAndTheQueueKept : Prop :=
  ∀ (c : Instr) (s : State), ∃ t, exec c s = .next t ∧ t.pending = s.pending ∧ t.glb.variant = s.glb.variant

/-- 16 R395, R400; 01 R13, R14: the stores stay in canonical form. -/
def Obligations.EveryStepKeepsTheStoresSound : Prop :=
  ∀ s t : State, StoresWf s → step s = .next t → StoresWf t

/-- 20 R475; 15 R377, R378; 17 R418, R424: what does not act. -/
def Obligations.NothingActsUnsuppliedOrBeforeItsTime : Prop :=
  ∀ (s : State) (c : Instr),
    (s.supplied = false → s.bil.legalUp = false → actsUnsupplied c = false → carried c = none → exec c s = .next s) ∧
    (∀ (r : Ring) (d : Desc), carried c = some (r, d) → s.due r d = false → exec c s = .next s) ∧
    (∀ (r : Ring) (d : Desc), carried c = some (r, d) → s.due r d = true → (s.takeUp r d).due r d = false)

/-- 16 R401-R403: transactions of a frozen master. -/
def Obligations.AFrozenMastersAccessIsDroppedAndCounted : Prop :=
  ∀ (s : State) (m : Master) (k : Fin 24), s.supplied = true → s.frozen m = true → m.code = some k →
    let t := s.modFrz fun z => { z with m := vmod z.m k fun x => { x with dropped := satInc x.dropped } }
    (∀ c, accessBy c = some m → exec c s = .next t) ∧
    (∀ g write a l, exec (.windowAccess m g write a l) s = .next t) ∧
    (∀ o n a d, exec (.demandWrite m o n a d) s = .next t) ∧
    (∀ f, m = .pf f → exec (.winOwnRead f) s = .next t)

/-- 21 R484-R486; 15 R388: one setting of an event bit. -/
def Obligations.AnEventSetsItsFlagAndWritesOneRecord : Prop :=
  ∀ (s : State) (e : EvSrc) (b : Nat),
    let t := s.raise e b
    let key := s.dia.keys.find? fun k => k.block == e.block && k.code == b && k.subject == e.subject
    OnlyEvents s t ∧ t.evGet e = { s.evGet e with flags := (s.evGet e).flags ||| bit 32 b } ∧
    (∀ e', e' ≠ e → t.evGet e' = s.evGet e') ∧
    ((s.evGet e).en.getLsbD b = false → t.irq = s.irq ∧ t.hostOut = s.hostOut) ∧
    ((∀ k, key = some k → k.last + 100000000 ≤ s.now ∨ neverSuppressed e.block = true) → s.thm.mramBlocked = false →
      t.dia.next = s.dia.next + 1 ∧ t.dia.cntSuppressed = s.dia.cntSuppressed ∧
      ∃ r, t.dia.journal = (r :: s.dia.journal).take 65536 ∧ r.number = s.dia.next ∧ r.time = s.now ∧ r.block = e.block ∧ r.code = b ∧
        r.subject = e.subject ∧ (∀ k, key = some k → r.suppressed = k.suppressed)) ∧
    (∀ k, key = some k → s.now < k.last + 100000000 → neverSuppressed e.block = false →
      t.dia.next = s.dia.next ∧ t.dia.journal = s.dia.journal ∧ t.dia.waiting = s.dia.waiting ∧ t.dia.cntSuppressed = satInc s.dia.cntSuppressed)

/-- 03 R77: where a DOWN goes. -/
def Obligations.ADownIsForwardedWhereAnUpWasTallied : Prop :=
  let child := fun (s : State) (p : Port) => (s.rgt.port.get p).role = .child
  let tallied := fun (s : State) (d : Down) (p : Port) => ∃ u, (s.alc.child.get p).taken = some u ∧ u.round = d.round
  let goes := fun (s v : State) (f : Frame) (d : Down) =>
    (∀ p, child s p → tallied s d p → (v.line.get p).waiting = insertFrame f (s.line.get p).waiting) ∧
    (∀ p, ¬ (child s p ∧ tallied s d p) → (v.line.get p).waiting = (s.line.get p).waiting) ∧
    (∀ l : List Port, l.Nodup → (∀ p, p ∈ l ↔ child s p ∧ ¬ tallied s d p) →
      v.alc.cntWithheld = l.foldl (fun n _ => satInc n) s.alc.cntWithheld)
  (∀ (s : State) (f : Frame) (d : Down), goes s (s.forwardDown f d) f d) ∧
  (∀ (s : State) (p : Port) (h : Hdr) (d : Down), s.supplied = true → s.pwr.controlReady = true → s.alcSync.takesIn p h = true →
    let t := s.alcSync.received p h
    let f : Frame := ⟨h.src, h.crew, h.dest, h.seq, h.hops + 1, h.hopLimit, h.hopLocal, .down d, false⟩
    ¬ (t.rgt.role = .stroke ∧ d.byBow = true ∧ d.drill = false ∧ d.crew = t.rgt.crew ∧ d.originator ≠ t.rgt.id) →
    t.downKind p d = some .normal ∨ t.downKind p d = some .drill →
    ∃ v, exec (.downReceive p h d) s = .next v ∧ goes (t.noteDown d) v f d)

/-- 02 R57-R59: joining and leaving. -/
def Obligations.ControllersJoinAndLeave : Prop :=
  ∀ s : State, s.supplied = true →
    (∀ g : Digest,
      (s.rgt.role ≠ .notAdmitted ∨ (∀ p : Port, s.peer p = none) → exec (.join g) s = .next s) ∧
      (∀ p : Port, s.rgt.role = .notAdmitted → (s.peer p).isSome = true → (∀ q : Port, q < p → s.peer q = none) →
        exec (.join g) s = .next ((s.sendMessage p (some (s.alc.stroke, s.rgt.crew))
          (.join ⟨s.rgt.id, s.rgt.crew, s.ownPair, s.now, g, true⟩)).modRgt fun x => { x with joining := true, lastJoin := some s.clk.cycle })) ∧
      (∀ t, s.rgt.joining = true → s.rgt.lastRefuse ≠ 0 → s.rgt.lastJoin = some t → exec (.joinRepeat g) s = .next ((s.runTo (t + sec 1)).sendJoin g))) ∧
    (∀ (p : Port) (h : Hdr) (b : JoinBody), s.accepts .cfg p h = true → s.forMe h = true → s.rgt.role = .stroke →
      let t := (s.received p h).takeMsg 1
      let u := if (t.rgt.port.get p).role = .guest then t.modRgt fun g => { g with guests := (b.id, p) :: g.guests.filter fun x => x.1 != b.id } else t
      let refused := fun (why : Nat) => exec (.joinReceive p h b) s =
        .next ((u.sendCfg (b.id, b.crew) (.joinRefuse b.id (BitVec.ofNat 8 why))).journal 6 0x43 b.id.toNat why b.crew.toNat 0)
      let member := (s.rgt.members.any fun m => m.id == b.id) = true
      let listed := s.cfg.active.lists b.id b.identity = true
      let late := 1000000000 < ((b.signTime : Int) - s.now).natAbs
      (b.sigOk = false → refused 1) ∧
      (b.sigOk = true → ¬ listed → refused 2) ∧
      (b.sigOk = true → listed → member → refused 3) ∧
      (b.sigOk = true → listed → ¬ member → b.crew ≠ s.rgt.crew → refused 4) ∧
      (b.sigOk = true → listed → ¬ member → b.crew = s.rgt.crew → late → refused 5) ∧
      (b.sigOk = true → listed → ¬ member → b.crew = s.rgt.crew → ¬ late → ∃ n : Nat,
        let r := s.round + 2 + n
        exec (.joinReceive p h b) s = .next (((u.useFree.modRgt fun g => { g with members := g.members ++ [⟨b.id, r, none, r⟩] }).sendCfg (b.id, b.crew)
          (.joinAck b.id r)).copyAck (.joinAck b.id r)))) ∧
    (∀ r, s.rgt.admitRound = some r → exec .admissionRound s = .next (((s.runToFleet (r * Config.roundNs)).modRgt fun g =>
      { g with role := if s.alc.bow = some s.rgt.id then .bow else .member, admitRound := none, fromRound := r }).recompute)) ∧
    (s.rgt.admitRound = none → exec .admissionRound s = .next s) ∧
    (∀ (p : Port) (h : Hdr) (b : JoinBody), s.accepts .cfg p h = true → s.forMe h = true → s.rgt.role = .stroke → (s.received p h).joinReason b = 3 →
      b.crew = s.rgt.crew → ((b.signTime : Int) - s.now).natAbs ≤ 1000000000 → ∃ n : Nat,
        let r := s.round + 1 + n
        exec (.leave p h b) s = .next (((((s.received p h).takeMsg 4).useFree.modRgt fun g =>
          { g with members := g.members.map fun m => if m.id = b.id then { m with removal := some r } else m }).sendCfg (b.id, b.crew)
            (.leaveAck b.id r)).copyAck (.leaveAck b.id r))) ∧
    (∀ r l, s.rgt.removeRound.toList ++ s.rgt.members.filterMap (·.removal) = r :: l →
      exec .removalRound s = .next (s.runToFleet (l.foldl min r * Config.roundNs)).removals)

/-- 02 R39, R43, R56, R57, R59: forwarding, messages, acknowledgements. -/
def Obligations.MessagesAreForwardedAndAssembled : Prop :=
  ∀ s : State, s.supplied = true →
    (∀ (p : Port) (h : Hdr) (body : Payload),
      (body.defined = false → s.takesIn p h = true →
        exec (.frameForward p h body) s = .next ((s.received p h).modPort p fun x => { x with cntDrop := satInc x.cntDrop })) ∧
      (body.defined = true → body.cls = .alloc ∨ body.cls = .safe ∨ s.forMe h = true → exec (.frameForward p h body) s = .next s) ∧
      (body.defined = true → body.cls = .cfg ∨ body.cls = .data → s.forMe h = false → s.accepts body.cls p h = true →
        let t := s.received p h
        ∀ d, h.dest = some d →
          let out := ((if body.cls = .cfg then t.rgt.guests.find? fun g => g.1 == d.1 else none).map (·.2)) <|> t.routeTo d.1
          let may := fun (q : Port) => (t.rgt.port.get q).carries body.cls = true ∧ (body.cls = .cfg ∨ t.admitted = true)
          (∀ q, out = some q → may q → exec (.frameForward p h body) s = .next (t.modLine q fun l =>
            { l with waiting := insertFrame ⟨h.src, h.crew, h.dest, h.seq, h.hops + 1, h.hopLimit, h.hopLocal, body, false⟩ l.waiting })) ∧
          (∀ q, out = some q → ¬ may q → exec (.frameForward p h body) s = .next t) ∧
          (out = none → exec (.frameForward p h body) s = .next t))) ∧
    (∀ (p : Port) (h : Hdr) (kind : Half) (msgId : Word) (index count : Nat) (bytes : List Byte), s.accepts .cfg p h = true →
      (s.forMe h = false ∨ cfgSegmentOk index count bytes = false → exec (.cfgSegmentReceive p h kind msgId index count bytes) s = .next (s.received p h)) ∧
      (s.forMe h = true → cfgSegmentOk index count bytes = true →
        let t := (s.received p h).dropStale
        let same : CfgAsm → Bool := fun a => a.src == h.src && a.msgId == msgId
        let old := (t.rgt.asm.find? same).getD ⟨h.src, msgId, kind, count, [], s.clk.cycle⟩
        let got := (index, bytes) :: old.got.filter fun x => x.1 != index
        (got.length = old.count → exec (.cfgSegmentReceive p h kind msgId index count bytes) s = .next (t.modRgt fun g =>
          { g with asm := g.asm.filter (fun a => !same a),
                   inbox := g.inbox ++ [⟨h.src, msgId, old.kind, ((List.range old.count).map fun i => ((got.find? fun x => x.1 == i).map (·.2)).getD []).flatten⟩] })) ∧
        (got.length ≠ old.count → exec (.cfgSegmentReceive p h kind msgId index count bytes) s = .next (t.modRgt fun g =>
          { g with asm := { old with got := got } :: g.asm.filter fun a => !same a })))) ∧
    (s.rgt.asm = [] → exec .cfgMessageTimeout s = .next s) ∧
    (∀ a l, s.rgt.asm = a :: l → exec .cfgMessageTimeout s = .next (s.runTo (l.foldl (fun m x => min m x.since) a.since + ms 100)).dropStale) ∧
    (∀ (id : CtrlId) (round : Nat),
      let t := s.takeMsg 2
      (id = s.rgt.id → s.rgt.joining = true →
        exec (.joinAck id round) s = .next (t.modRgt fun g => { g with admitRound := some round, joining := false, lastRefuse := 0 })) ∧
      (id = s.rgt.id → s.rgt.joining = false → exec (.joinAck id round) s = .next t) ∧
      (id ≠ s.rgt.id → s.rgt.role = .bow ∨ s.cfg.active.umpire = .ctrl s.rgt.id →
        exec (.joinAck id round) s = .next (t.modRgt fun g => { g with members := ⟨id, round, none, round⟩ :: g.members.filter fun m => m.id != id })) ∧
      (id ≠ s.rgt.id → s.rgt.role ≠ .bow → s.cfg.active.umpire ≠ .ctrl s.rgt.id → exec (.joinAck id round) s = .next t)) ∧
    (∀ (id : CtrlId) (reason : Byte),
      (id = s.rgt.id ∧ s.rgt.joining = true → exec (.joinRefuse id reason) s = .next ((s.takeMsg 3).modRgt fun g => { g with lastRefuse := reason })) ∧
      (id ≠ s.rgt.id ∨ s.rgt.joining = false → exec (.joinRefuse id reason) s = .next (s.takeMsg 3))) ∧
    (∀ (id : CtrlId) (round : Nat),
      (id = s.rgt.id → exec (.leaveAck id round) s = .next ((s.takeMsg 5).modRgt fun g => { g with removeRound := some round })) ∧
      (id ≠ s.rgt.id → exec (.leaveAck id round) s = .next ((s.takeMsg 5).modRgt fun g =>
        { g with members := g.members.map fun m => if m.id = id then { m with removal := some round } else m }))) ∧
    (∀ id : CtrlId,
      (id = s.rgt.id → s.admitted = true → s.rgt.role ≠ .stroke → exec (.memberRemoved id) s =
        .next (((s.runToFleet ((s.alc.upSentRound.getD s.rgt.fromRound + 4001) * Config.roundNs)).modRgt fun g =>
          { g with role := .notAdmitted, removeRound := none }).recompute)) ∧
      (id = s.rgt.id → s.admitted = false ∨ s.rgt.role = .stroke → exec (.memberRemoved id) s = .next s) ∧
      (id ≠ s.rgt.id → ∀ m, (s.rgt.members.find? fun m => m.id == id) = some m → exec (.memberRemoved id) s =
        .next ((s.runToFleet ((m.heard + 4001) * Config.roundNs)).modRgt fun g => { g with members := g.members.filter fun m => m.id != id })) ∧
      (id ≠ s.rgt.id → (s.rgt.members.find? fun m => m.id == id) = none → exec (.memberRemoved id) s = .next s))

/-- 02 R38, R40, R41, R49; 21 R488: what discards a frame, for every command that is the arrival of one. -/
def Obligations.ReceivedFramesAreJudgedFirst : Prop :=
  ∀ (s : State) (c : Instr) (p : Port) (h : Hdr), s.supplied = true → arrival c = some (p, h) →
    let u := s.modDia fun d => { d with codeErr := vmod d.codeErr p fun w => satAdd w h.codeErrs }
    let listens := (s.rgt.port.get p).st = .hello ∨ (s.rgt.port.get p).st = .active
    (¬ listens → exec c s = .next u) ∧
    (listens → h.aborted = true → exec c s = .next (u.modPort p fun t => { t with cntAbort := satInc t.cntAbort })) ∧
    (listens → h.aborted = false → h.crcOk = false → exec c s = .next (u.modPort p fun t => { t with cntCrc := satInc t.cntCrc })) ∧
    (listens → h.aborted = false → h.crcOk = true → h.hops = h.hopLimit ∨ h.framed = false →
      exec c s = .next (u.modPort p fun t => { t with cntDrop := satInc t.cntDrop }))

/-- 02 R37, R48-R50, R54, R67: the ports. -/
def Obligations.PortsFollowTheirStateMachine : Prop :=
  ∀ s : State, s.supplied = true → ∀ p : Port,
    let t := s.rgt.port.get p
    (∀ (m : Master) (w : Word), s.frozen m = false → m.isMgmt = true → m.isInteg = false → s.lcs.lock = false → s.pwr.controlReady = true →
      let u := (s.beat m).modPort p fun x => { x with en := w.getLsbD 0, media := w.getLsbD 1, allocOk := w.getLsbD 2 }
      (w.getLsbD 0 = true → t.en = false → exec (.portEnWrite m p w) s = .next (u.modPort p fun x => { x with st := .acquire })) ∧
      (w.getLsbD 0 = false → t.en = true →
        exec (.portEnWrite m p w) s = .next (((u.modPort p fun x => { x with st := .off, probeRounds := 0 }).modLine p LineSt.stop).recompute)) ∧
      (w.getLsbD 0 = t.en → exec (.portEnWrite m p w) s = .next u.recompute)) ∧
    (∀ n, t.st = .acquire ∨ t.st = .down → 1024 ≤ n → exec (.syncAcquired p true n) s =
      .next (((s.modPort p fun x => { x with st := .hello, los := false, probeRounds := 0, lastValid := s.clk.cycle }).recompute).sendProbe p true)) ∧
    (∀ al n, (t.st ≠ .acquire ∧ t.st ≠ .down) ∨ al = false ∨ n < 1024 → exec (.syncAcquired p al n) s = .next s) ∧
    (∀ (los : Bool) (k : Nat),
      (t.st = .off → exec (.syncLost p los k) s = .next s) ∧
      (t.st ≠ .off →
        let u := (s.modDia fun d => { d with codeErr := vmod d.codeErr p fun w => satAdd w k }).modPort p fun x => { x with los := x.los || los }
        (los = true ∨ 16 ≤ k → exec (.syncLost p los k) s = .next (u.portDown p)) ∧
        (los = false → k < 16 → exec (.syncLost p los k) s = .next u))) ∧
    (t.st = .hello ∨ t.st = .active → exec (.neighbourSilent p) s = .next ((s.runTo (t.lastValid + us 260)).portDown p)) ∧
    (t.st = .hello → 8 ≤ t.probeRounds → exec (.portActive p) s = .next (s.modPort p fun x => { x with st := .active }).recompute) ∧
    exec (.probeSend true) s = .next s.triggerProbe ∧
    exec (.probeSend false) s = .next ((s.runToOffset 200000).sendProbes false) ∧
    (∀ (h : Hdr) (b : Probe), s.takesIn p h = true →
      let r := s.round
      let t1 := (s.received p h).modPort p fun x =>
        { x with probe := some b, probeRound := r,
                 probeRounds := if x.probeRound + 1 = r then x.probeRounds + 1 else if x.probeRound = r ∧ x.probeRounds ≠ 0 then x.probeRounds else 1 }
      let t2 := (t1.recompute).passTrigger h ((s.received p h).rgt.port.get p).probe b (s.received p h)
      let t3 := if (t2.rgt.port.get p).role = .guest then
          t2.modRgt fun g => { g with guests := (b.id, p) :: g.guests.filter fun x => x.1 != b.id } else t2
      let t4 := if (∃ x, b.strokeParent = some x ∧ x ≠ t3.rgt.id) ∧ (t3.alc.child.get p).has = true ∧ (t3.rgt.port.get p).st = .active then
          t3.modChild p fun y => { y with endRound := y.endRound <|> some (r + 1) } else t3
      exec (.probeReceive p h b) s = .next (if t4.timeParent = some p then t4.takeCorr b else t4))

/-- 02 R53, R60, R62-R65; 15 R386: fleet time. -/
def Obligations.FleetTimeFollowsItsSources : Prop :=
  ∀ s : State, s.supplied = true →
    (∀ (p : Port) (t1 t2 t3 t4 : Nat),
      let x := s.rgt.port.get p
      let rx : Int := (t2 : Int) - t1
      let tx : Int := (t4 : Int) - t3
      let o := (rx - tx - x.asym.toInt) / 2
      let u := s.modPort p fun x => { x with delay := clampU 32 ((rx + tx) / 2).toNat, offset := clampS 32 o, echoTx := t1, echoRx := t2 }
      let v := ((u.noteOffset o).modRgt fun g => { g with sync := 1, offsetAbs := clampU 16 o.natAbs }).timeKnown
      (x.st ≠ .hello → x.st ≠ .active → exec (.timeOffsetUpdate p t1 t2 t3 t4) s = .next s) ∧
      (x.st = .hello ∨ x.st = .active →
        (u.timeParent ≠ some p ∨ s.rgt.role = .stroke → exec (.timeOffsetUpdate p t1 t2 t3 t4) s = .next u) ∧
        (u.timeParent = some p → s.rgt.role ≠ .stroke →
          (v.admitted = true → 5000 < o.natAbs → exec (.timeOffsetUpdate p t1 t2 t3 t4) s =
            .next ((v.modRgt fun g => { g with outOfTime := true, stepped := true, inTimeRounds := 0 }).stepFleet (-o))) ∧
          (v.admitted = false ∨ o.natAbs ≤ 5000 → exec (.timeOffsetUpdate p t1 t2 t3 t4) s =
            .next (v.modClk fun c => { c with rate := rateFor o Config.roundNs 1000 }))))) ∧
    (s.rgt.role ≠ .stroke → s.rgt.sync = 1 →
      exec .timeHoldover s = .next ((s.runToFleet ((s.rgt.offRound + 4) * Config.roundNs)).modRgt fun g => { g with sync := 3 })) ∧
    (s.rgt.role = .stroke ∨ s.rgt.sync ≠ 1 → exec .timeHoldover s = .next s) ∧
    (s.rgt.role = .stroke → s.rgt.id = s.cfg.active.stroke → s.rgt.formed = false → s.rgt.members = [] →
      let t := s.runToOffset 0
      (∀ x, t.srcNow = some x → exec .crewForm s = .next ((t.timeKnown.stepFleet (x - t.rgt.taiCorr - t.now)).modRgt fun g =>
        { g with formed := true, sync := 2, srcTai := some (x, x - g.taiCorr) })) ∧
      (t.srcNow = none → exec .crewForm s = .next ((t.useFree.setFleet t.rtcReading).modRgt fun g => { g with formed := true }))) ∧
    (s.rgt.role = .stroke →
      let t := (s.runTo (s.rgt.lastTaiCheck + sec 1)).modRgt fun g => { g with lastTaiCheck := max s.clk.cycle (s.rgt.lastTaiCheck + sec 1) }
      (t.srcNow = none → exec .taiCheck s = .next t) ∧
      (∀ x, t.srcNow = some x →
        let e := x - ((t.now : Int) + s.rgt.taiCorr)
        let k := t.timeKnown
        (e.natAbs ≤ s.clockStepLimit → exec .taiCheck s = .next (k.modClk fun c => { c with rate := rateFor (-e) Config.secondNs 500 })) ∧
        (s.clockStepLimit < e.natAbs → s.rgt.pendCorr = none →
          exec .taiCheck s = .next (k.modRgt fun g => { g with pendCorr := some (g.taiCorr + e, t.round + 16) })) ∧
        (s.clockStepLimit < e.natAbs → s.rgt.pendCorr.isSome = true → exec .taiCheck s = .next k))) ∧
    (s.rgt.role ≠ .stroke → exec .taiCheck s = .next s) ∧
    (∀ c r, s.rgt.pendCorr = some (c, r) → exec .taiCorrectionApply s = .next ((s.runToFleet (r * Config.roundNs)).setCorr c r)) ∧
    (s.rgt.pendCorr = none → exec .taiCorrectionApply s = .next s) ∧
    (∀ (m : Fin 2) (dom : Byte),
      let ours := s.rgt.role = .stroke ∧ s.rgt.srcSel.toNat = m.val + 1 ∧ dom = s.rgt.ptpDomain
      (∀ x, ¬ ours → exec (.ptpMessage m dom x) s = .next s) ∧
      (ours →
        (∀ (n : Half) (t1 d : Int), s.rgt.ptpDelay = some d → s.rgt.ppsEn = false → exec (.ptpMessage m dom (.sync n (some t1))) s =
          .next (s.modRgt fun g => { g with ptpSync := some (t1, s.now), ptpTai := some (t1 + d, s.now), srcTai := some (t1 + d, s.now), sync := 2 })) ∧
        (∀ (n : Half) (t1 d : Int), s.rgt.ptpDelay = some d → s.rgt.ppsEn = true → exec (.ptpMessage m dom (.sync n (some t1))) s =
          .next (s.modRgt fun g => { g with ptpSync := some (t1, s.now), ptpTai := some (t1 + d, s.now) })) ∧
        (∀ (n : Half) (t1 : Int), s.rgt.ptpDelay = none → exec (.ptpMessage m dom (.sync n (some t1))) s =
          .next (s.modRgt fun g => { g with ptpSync := some (t1, s.now) })) ∧
        (∀ n : Half, exec (.ptpMessage m dom (.sync n none)) s = .next (s.modRgt fun g => { g with ptpWait := some (n, s.now) })) ∧
        (∀ (n : Half) (rx : Nat) (t1 d : Int), s.rgt.ptpWait = some (n, rx) → s.rgt.ptpDelay = some d → s.rgt.ppsEn = false →
          exec (.ptpMessage m dom (.followUp n t1)) s = .next (s.modRgt fun g =>
            { g with ptpWait := none, ptpSync := some (t1, rx), ptpTai := some (t1 + d, rx), srcTai := some (t1 + d, rx), sync := 2 })) ∧
        (∀ (t1 : Int) (t2 : Nat) (t3 t4 : Int), s.rgt.ptpSync = some (t1, t2) → s.rgt.p2p = false → exec (.ptpMessage m dom (.delayResp t3 t4)) s =
          .next (s.modRgt fun g => { g with ptpDelay := some (((t2 : Int) - t1 + (t4 - t3)) / 2) })) ∧
        (∀ t1 t2 t3 t4 : Int, s.rgt.p2p = true → exec (.ptpMessage m dom (.peerDelay t1 t2 t3 t4)) s =
          .next (s.modRgt fun g => { g with ptpDelay := some ((t4 - t1 - (t3 - t2)) / 2) })))) ∧
    (let old := fun (x : Ring × DWord × DWord × Nat) => decide (x.2.2.2 + 10000000 ≤ s.now)
     let u := (s.tun.tod.filter old).foldl (fun t x => (t.complete x.1 x.2.1 0 0).modRgt fun g => { g with ppsTod := some x.2.2.1.toNat })
       (s.modTun fun t => { t with tod := t.tod.filter fun x => !old x })
     (u.rgt.role ≠ .stroke ∨ u.rgt.ppsEn = false → exec .ppsEdge s = .next u) ∧
     (u.rgt.role = .stroke → u.rgt.ppsEn = true →
       let second : Option Int := if u.rgt.srcSel = 0 then u.rgt.ppsTod.map Int.ofNat
         else u.rgt.ptpTai.map fun x => roundDivI (x.1 + ((u.now : Int) - x.2)) Config.secondNs
       (∀ n, second = some n → exec .ppsEdge s = .next (u.modRgt fun g =>
         { g with srcTai := some (n * Config.secondNs, u.now), ppsTod := some (n + 1).toNat, sync := 2 })) ∧
       (second = none → exec .ppsEdge s = .next u))) ∧
    (s.rgt.role = .stroke → s.rgt.srcTai.isSome = true → exec .extSourceLost s = .next (s.modRgt fun g => { g with srcTai := none, ptpTai := none, srcLost := true, sync := 3 })) ∧
    (s.rgt.role ≠ .stroke ∨ s.rgt.srcTai = none → exec .extSourceLost s = .next s) ∧
    (∀ k, s.rgt.switchAt = some k → exec .treeSwitch s = .next (s.runToFleet (k * Config.roundNs)).treeSync) ∧
    (s.rgt.switchAt = none → exec .treeSwitch s = .next s)

/-- 03 R73, R75, R77, R82, R84, R85, R88, R94, R95; 07 R183: the commands of an allocation round. -/
def Obligations.AnAllocationRoundRuns : Prop :=
  ∀ s : State, s.supplied = true →
    (s.pwr.controlReady = false → ∀ p h u d,
      exec .upSend s = .next s ∧ exec (.upReceive p h u) s = .next s ∧ exec .search s = .next s ∧ exec (.downReceive p h d) s = .next s ∧
      exec .downEvaluate s = .next s ∧ exec .applyInstant s = .next s) ∧
    (s.pwr.controlReady = true →
      (s.rgt.role = .notAdmitted → exec .upSend s = .next s ∧ exec .search s = .next s) ∧
      (s.rgt.role ≠ .notAdmitted →
        let t := (s.runToOffset (s.alcSync.upOffset)).alcSync
        (∀ p, t.isRoot = false → t.rgt.outOfTime = false → t.rootDist ≤ 12 → t.rootPort = some p →
          exec .upSend s = .next ((t.tally t.round).1.sendFrame p
            (((t.tally t.round).1.neighbourId (some p)).map fun c => (c, (t.tally t.round).1.rgt.crew)) 1 false (.up (t.tally t.round).2))) ∧
        (t.isRoot = true ∨ t.rgt.outOfTime = true ∨ 12 < t.rootDist ∨ t.rootPort = none → exec .upSend s = .next t) ∧
        (let t0 := (s.runToOffset 85000).alcSync
         let done := ∃ d, t0.alc.downValid = some d ∧ d.round = t0.round ∧ d.originator = t0.rgt.id
         let ran := fun (t : State) =>
           (t.isRoot = false → exec .search s = .next t) ∧
           (t.isRoot = true →
             let t1 := (t.tally t.round).1
             let u := (t.tally t.round).2
             let t2 := (t1.noteHeard t.round).modAlc fun a => { a with sum := some u }
             let t3 := if t2.rgt.swapped = true then t2 else t2.activationCheck
             let d := t3.downOf u
             let t4 := ((t3.usedSeq).forwardDown (t3.newFrame 12 (.down d)) d).noteDown d
             let t6 := (t4.modAlc fun a => { a with ownResult := some (d.round, d.res) }).mirrorUmpire (.crewSum u.round u)
             exec .search s = .next (match (if t6.rgt.swapped = true then some t6.alc.stroke else t6.alc.bow) with
               | some c => t6.mirrorTo c (.crewSum u.round u)
               | none => t6))
         (¬ done → ran t0) ∧ (done → ran (t0.runToFleet (t0.roundStart + Config.roundNs + 85000)).alcSync))) ∧
      (∀ (p : Port) (h : Hdr) (u : Up),
        let t := s.alcSync
        ((t.rgt.port.get p).role = .child → (t.rgt.port.get p).carries .alloc = true → t.takesIn p h = true →
          let v := t.received p h
          let ok := v.now ≤ v.roundStart + (if v.isRoot = true then 80000 else v.upOffset - 100) ∧ u.round = v.round ∧ v.neighbourId (some p) = some h.src ∧
            monotone (fun a b => decide (b ≤ a)) u.d = true ∧ monotone (fun a b => decide (a ≤ b)) u.s = true
          (ok → exec (.upReceive p h u) s = .next (v.modChild p fun x => { x with taken := some u })) ∧
          (¬ ok → exec (.upReceive p h u) s = .next v.lateChild)) ∧
        ((t.rgt.port.get p).role ≠ .child → t.takesIn p h = true → exec (.upReceive p h u) s = .next (t.received p h))) ∧
      (∀ (p : Port) (h : Hdr) (d : Down),
        s.alcSync.takesIn p h = true →
        let t := s.alcSync.received p h
        let f : Frame := ⟨h.src, h.crew, h.dest, h.seq, h.hops + 1, h.hopLimit, h.hopLocal, .down d, false⟩
        let rival := d.byBow = true ∧ d.drill = false ∧ d.crew = t.rgt.crew ∧ d.originator ≠ t.rgt.id
        let kinds := fun (t : State) =>
          (t.downKind p d = none → exec (.downReceive p h d) s = .next t) ∧
          (t.downKind p d = some .takeover → exec (.downReceive p h d) s = .next ((t.noteDown d).spreadTakeover f).followBow) ∧
          (t.downKind p d = some .normal ∨ t.downKind p d = some .drill →
            let v := (t.noteDown d).forwardDown f d
            (d.originator = v.alc.stroke → exec (.downReceive p h d) s = .next (v.modAlc fun a => { a with strokeDown := some (d.round, d.res) })) ∧
            (d.originator ≠ v.alc.stroke → exec (.downReceive p h d) s = .next v))
        (rival → kinds t.demote) ∧ (¬ rival → kinds t)) ∧
      (let t := (s.runToOffset 140000).alcSync
       let t1 := if t.admitted = true then t.modAlc fun a => { a with eval := some (t.round, t.nextAlc) } else t
       exec .downEvaluate s = .next ((if t1.downNow.isSome = true ∨ t1.admitted = false then t1.catchUpCheck else t1).bowWatch).siteEval) ∧
      (let t := (s.runToOffset 150000).alcSync
       let t1 := if t.admitted = true then (t.noteShares).alcAct else t
       let t2 := ((t1.heldCheck).heldStart).forAll fun (o : Outlet) u => u.reversalCheck o
       exec .applyInstant s = .next (((t2.applyClamps).capsDone).forAll fun (o : Outlet) u => if u.hasOutlet o = true then u.writeGrant o else u).siteEval))

/-- 03 R91-R94, R96, R97; 02 R41: Bow and Umpire. -/
def Obligations.BowAndUmpireWatchTheStroke : Prop :=
  ∀ s : State, s.supplied = true →
    (s.pwr.controlReady = false → ∀ p h m,
      exec (.mirrorReceive p h m) s = .next s ∧ exec .umpireDecide s = .next s ∧ exec .takeover s = .next s) ∧
    (s.pwr.controlReady = true →
      (∀ (p : Port) (h : Hdr), s.alcSync.takesIn p h = true →
        let t := s.alcSync.received p h
        let known := (∃ b, t.peer p = some b ∧ b.id = h.src) ∧ t.forMe h = true
        let root := if t.rgt.swapped = true then t.alc.bow else some t.alc.stroke
        let second := if t.rgt.swapped = true then some t.alc.stroke else t.alc.bow
        (∀ k, exec (.mirrorReceive p h (.other k)) s = .next (t.modPort p fun x => { x with cntDrop := satInc x.cntDrop })) ∧
        (¬ known → ∀ m, (∀ k, m ≠ .other k) → exec (.mirrorReceive p h m) s = .next t) ∧
        (known →
          (∀ n u,
            (root ≠ some h.src ∨ n ≠ t.round → exec (.mirrorReceive p h (.crewSum n u)) s = .next t) ∧
            (root = some h.src → n = t.round →
              let t1 := t.modAlc fun a => { a with mirrorSum := some (n, u), sum := some u }
              (second ≠ some t.rgt.id → exec (.mirrorReceive p h (.crewSum n u)) s = .next t1) ∧
              (second = some t.rgt.id → exec (.mirrorReceive p h (.crewSum n u)) s =
                .next ((t1.modAlc fun a => { a with ownResult := some (n, t1.resultOf u) }).mirrorUmpire (.result n (t1.resultOf u)))))) ∧
          (∀ n r,
            (second = some h.src ∧ n = t.round ∧ t.isUmpire = true →
              exec (.mirrorReceive p h (.result n r)) s = .next (t.modAlc fun a => { a with mirrorResult := some (n, r) })) ∧
            (¬ (second = some h.src ∧ n = t.round ∧ t.isUmpire = true) → exec (.mirrorReceive p h (.result n r)) s = .next t)) ∧
          (∀ n k,
            (t.cfg.active.umpire = .ctrl h.src ∧ t.alc.bow = some t.rgt.id ∧ t.rgt.role = .bow →
              exec (.mirrorReceive p h (.name n k)) s = .next (t.modAlc fun a => { a with named := some n })) ∧
            (¬ (t.cfg.active.umpire = .ctrl h.src ∧ t.alc.bow = some t.rgt.id ∧ t.rgt.role = .bow) →
              exec (.mirrorReceive p h (.name n k)) s = .next t)) ∧
          (∀ n k,
            (t.cfg.active.umpire = .ctrl h.src → exec (.mirrorReceive p h (.demote n k)) s = .next t.demote) ∧
            (t.cfg.active.umpire ≠ .ctrl h.src → exec (.mirrorReceive p h (.demote n k)) s = .next t)))) ∧
      (s.isUmpire = false → exec .umpireDecide s = .next s) ∧
      (s.isUmpire = true →
        let t := (s.runToOffset 130000).alcSync
        let n := t.round
        (t.alc.bow = none → exec .umpireDecide s = .next (t.raise .alc 13)) ∧
        (∀ bow, t.alc.bow = some bow → t.portTo bow = none ∨ t.portTo t.alc.stroke = none → exec .umpireDecide s = .next (t.raise .alc 13)) ∧
        (∀ bow p q, t.alc.bow = some bow → t.portTo bow = some p → t.portTo t.alc.stroke = some q →
          let b := ofRound n t.alc.mirrorResult
          (t.rgt.swapped = true →
            (∀ x y, t.downResult = some x → b = some y → x ≠ y → exec .umpireDecide s = .next (t.raise .alc 15)) ∧
            ((∀ x y, t.downResult = some x → b = some y → x = y) → exec .umpireDecide s = .next t)) ∧
          (t.rgt.swapped = false →
            let d := ofRound n t.alc.strokeDown
            let m := ofRound n t.alc.mirrorSum
            let k := if d = none ∧ m = none then t.alc.silent + 1 else 0
            let u := t.modAlc fun a => { a with silent := k }
            let noted := fun (v : State) => if d.isSome = true ∧ b = none then v.raise .alc 11 else v
            (k = 2 → exec .umpireDecide s = .next (noted ((u.mirrorTo bow (.name (n + 1) 1)).raise .alc 8))) ∧
            (k ≠ 2 → d = none ∨ b = none ∨ d = b → exec .umpireDecide s = .next (noted u)) ∧
            (∀ x y, k ≠ 2 → d = some x → b = some y → x ≠ y →
              (m.map u.resultOf = some y → exec .umpireDecide s =
                .next (noted (((u.mirrorTo u.alc.stroke (.demote (n + 1) 2)).mirrorTo bow (.name (n + 1) 2)).raise .alc 9))) ∧
              (m.map u.resultOf = some x → exec .umpireDecide s = .next (noted (u.raise .alc 10))) ∧
              (m.map u.resultOf ≠ some y → m.map u.resultOf ≠ some x → exec .umpireDecide s = .next (noted (u.raise .alc 12))))))) ∧
      (∀ m, s.alc.named = some m →
        (s.rgt.role ≠ .bow → exec .takeover s = .next (s.modAlc fun a => { a with named := none })) ∧
        (s.rgt.role = .bow →
          let t := s.runToFleet (m * Config.roundNs + 85000)
          let d : Down :=
            { round := t.round, res := ⟨0, 0, false, 0, 0⟩, byBow := true, hold := true, drill := false, shed := false, pair := t.ownPair,
              originator := t.rgt.id, crew := t.rgt.crew, members := t.alc.downMembers, absent := t.alc.downAbsent,
              curtail := t.alc.crewCurtail, drillRound := 0, actRound := 0, notices := [], divergent := t.alc.divergent }
          exec .takeover s = .next ((((t.usedSeq).spreadTakeover (t.newFrame 12 (.down d))).noteDown d).cancelActivation.modAlc fun a =>
            { a with named := none }).followBow)) ∧
      (∀ k, s.alc.named = none → s.alc.demoteAt = some k → exec .takeover s = .next (s.runToFleet (k * Config.roundNs)).alcSync) ∧
      (s.alc.named = none → s.alc.demoteAt = none → exec .takeover s = .next s))

/-- 03 R78, R81, R87, R96-R98: commands of allocation. -/
def Obligations.AllocationCommandsAct : Prop :=
  ∀ s : State,
    (s.supplied = true →
      exec (.curtailChange []) s = .next s ∧
      (∀ (c1 c0 : Bool) (l : List (Bool × Bool)),
        let level : BitVec 2 := BitVec.ofBool c1 ++ BitVec.ofBool c0
        let t := (s.runTo ((s.clk.cycle / us 1 + 1) * us 1)).modAlc fun a => { a with curtailSample := level }
        (level = s.alc.curtailSample → level ≠ s.alc.curtail →
          exec (.curtailChange ((c1, c0) :: l)) s = exec (.curtailChange l) ((t.modAlc fun a => { a with curtail := level }).raise .alc 16)) ∧
        (level ≠ s.alc.curtailSample ∨ level = s.alc.curtail → exec (.curtailChange ((c1, c0) :: l)) s = exec (.curtailChange l) t)) ∧
      (∀ d, s.alc.drillRound = some d →
        (s.alc.strokeByBow = false → s.rgt.swapped = false → exec .drillRound s = .next (s.runToFleet (d * Config.roundNs)).alcSync) ∧
        (s.alc.strokeByBow = false → s.rgt.swapped = true → exec .drillRound s = .next (s.runToFleet ((d + 1) * Config.roundNs)).alcSync) ∧
        (s.alc.strokeByBow = true → exec .drillRound s = .next s) ∧
        (s.alc.strokeByBow = true → exec .roleRestoreRound s = .next (s.runToFleet (d * Config.roundNs)).alcSync)) ∧
      (s.alc.drillRound = none → exec .drillRound s = .next s) ∧
      (s.alc.drillRound = none → s.alc.strokeByBow = true → exec .roleRestoreRound s = .next s) ∧
      (∀ n q e, s.alc.strokeByBow = false → s.alc.restore = some (n, q, e) →
        exec .roleRestoreRound s = .next (s.runToFleet (n * Config.roundNs)).alcSync) ∧
      (s.alc.strokeByBow = false → s.alc.restore = none → exec .roleRestoreRound s = .next s)) ∧
    (∀ (r : Ring) (d : Desc), s.due r d = true →
      let t := s.takeUp r d
      let k := (d.q 24).toNat
      exec (.alcSetCap r d) s = .next (t.modAlc fun a => { a with cap := d.w 24, capWait := a.capWait ++ [⟨r, d.seq, s.round, none, none, false⟩] }) ∧
      (s.alc.drillWait = none → exec (.alcDrill r d) s = .next (t.modAlc fun a => { a with drillRound := some k, drillWait := some (r, d.seq) })) ∧
      (∀ q e, s.alc.drillWait = some (q, e) →
        exec (.alcDrill r d) s = .next ((t.complete q e 0 0).modAlc fun a => { a with drillRound := some k, drillWait := some (r, d.seq) })) ∧
      exec (.alcTakeover r d) s = .next ((t.modAlc fun a => { a with named := some (ceilDiv (s.acceptedAt r d.seq + 100000) Config.roundNs) }).complete r d.seq 0 0) ∧
      (s.alc.restore = none → exec (.alcRoleRestore r d) s = .next (t.modAlc fun a => { a with restore := some (k, r, d.seq), drillRound := if a.strokeByBow = true then some k else a.drillRound })) ∧
      (∀ n q e, s.alc.restore = some (n, q, e) →
        exec (.alcRoleRestore r d) s = .next ((t.complete q e 0 0).modAlc fun a => { a with restore := some (k, r, d.seq), drillRound := if a.strokeByBow = true then some k else a.drillRound })) ∧
      (let p : Port := Fin.ofNat 4 d.target.toNat
       let send := if s.isRoot = true then 80000 else s.upOffset
       exec (.alcHoldClear r d) s = .next ((t.modChild p fun x =>
         { x with endRound := some (ceilDiv (s.acceptedAt r d.seq + 20000 - send) Config.roundNs) }).complete r d.seq 0 0)))

/-- 04 R109-R111; 01 R21; 09 R232: staging. -/
def Obligations.StagingIsVerifiedInOrder : Prop :=
  ∀ s : State,
    (∀ (r : Ring) (d : Desc), s.due r d = true →
      let t := s.takeUp r d
      let n := ceilDiv (d.w 28).toNat 4096
      let refs := s.listRefs (d.w 24) (n + ceilDiv (d.w 32).toNat 4096)
      let crew := (s.readPages (refs.take n)).take (d.w 28).toNat
      let part := (s.readPages (refs.drop n)).take (d.w 32).toNat
      (s.cfg.actRound = none → s.cfg.stageWait = none → exec (.cfgStage r d) s = .next ((t.modCfg fun c =>
        { c with staged := some ⟨!c.activeB, crew, part, contentsOf s.glb.variant crew part⟩, stagedStatus := 1,
                 stagedPair := ⟨BitVec.ofNat 32 (u32 crew 8), imageDigest crew⟩, stageWait := some (r, d.seq), catchUpRound := none }).sendReport)) ∧
      (s.cfg.actRound.isSome = true → exec (.cfgStage r d) s = .next (t.complete r d.seq 0 (s.cfg.stagedStatus.setWidth 32))) ∧
      (s.cfg.stageWait = none → exec (.cfgStageCancel r d) s = .next (((t.modCfg fun c =>
        { c with staged := none, stagedStatus := 0, stagedPair := ⟨0, 0⟩, stageWait := none, catchUpRound := none }).sendReport).complete r d.seq 0 0)) ∧
      (∀ q e, s.cfg.stageWait = some (q, e) → exec (.cfgStageCancel r d) s = .next ((((t.complete q e 0 0).modCfg fun c =>
        { c with staged := none, stagedStatus := 0, stagedPair := ⟨0, 0⟩, stageWait := none, catchUpRound := none }).sendReport).complete r d.seq 0 0))) ∧
    (s.supplied = true →
      (∀ (g : Staged) (sigOk : Bool) (q : Ring) (e : DWord), s.cfg.staged = some g → s.cfg.stagedStatus = 1 → s.thm.mramBlocked = false →
        s.cfg.stageWait = some (q, e) →
        let fails := fun (st : StagedStatus) => exec (.stageVerifyDone sigOk) s = .next (((((s.modCfg fun x =>
          { x with stagedStatus := st, cntStageFail := satInc x.cntStageFail, stageWait := none }).raise .cfg 1).catchUpCheck).complete q e 0 (st.setWidth 32)).sendReport)
        let long := 524288 < g.crew.length ∨ 131072 < g.part.length
        (long → fails 9) ∧
        (¬ long → framing 1 g.crew = none ∨ framing 2 g.part = none → fails 5) ∧
        (∀ cs ps, ¬ long → framing 1 g.crew = some cs → framing 2 g.part = some ps →
          let me := (memberEntries ((bodyOf cs 1).getD [])).find? fun m => m.identity == s.key.stateDigest
          let keyed := ∃ a, s.anchor 1 = some a ∧ digestAt g.crew 32 = a.digest
          let listed := ∃ m, me = some m ∧ (s.rgt.role = .notAdmitted ∨ m.id = s.rgt.id ∧ BitVec.ofNat 4 (u16 g.crew 16 / 4096) = s.rgt.crew)
          let newer := s.cfg.active.pair.epoch.toNat < u32 g.crew 8 ∨ s.alc.crewPair = some s.cfg.stagedPair
          let partOk := ∃ m, me = some m ∧ imageDigest g.part = m.part ∧ u16 g.part 16 % 4096 = m.id.toNat ∧ u32 g.part 8 = u32 g.crew 8
          let present := resourcesPresent s.glb.variant g.part ps = true
          let reads := (decodeImage s.glb.variant s.pwm.dtMin.toNat g.crew g.part cs ps).isSome = true
          (¬ keyed → fails 4) ∧
          (keyed → sigOk = false → fails 3) ∧
          (keyed → sigOk = true → ¬ listed → fails 7) ∧
          (keyed → sigOk = true → listed → ¬ newer → fails 6) ∧
          (keyed → sigOk = true → listed → newer → ¬ partOk → fails 8) ∧
          (keyed → sigOk = true → listed → newer → partOk → ¬ present → fails 7) ∧
          (keyed → sigOk = true → listed → newer → partOk → present → ¬ reads → fails 5) ∧
          (keyed → sigOk = true → listed → newer → partOk → present → reads → exec (.stageVerifyDone sigOk) s = .next
            (((((s.modCfg fun x => { x with stagedStatus := 2, stageWait := none }).raise .cfg 0).catchUpCheck).complete q e 0 2).sendReport)))) ∧
      (∀ c : Bool, s.cfg.staged = none ∨ s.cfg.stagedStatus ≠ 1 ∨ s.thm.mramBlocked = true → exec (.stageVerifyDone c) s = .next s) ∧
      exec .stageReport s = .next ((s.runTo (s.cfg.lastReport + sec 1)).sendReport) ∧
      (∀ (h : Hdr) (status : BitVec 4) (pair : Pair),
        (s.rgt.role = .stroke → s.forMe h = true → exec (.stageReportReceive h status pair) s = .next ((s.takeMsg 0x10).modCfg fun c =>
          { c with reports := ⟨h.src, status, pair, s.clk.cycle⟩ :: c.reports.filter fun x => x.id != h.src })) ∧
        (s.rgt.role ≠ .stroke ∨ s.forMe h = false → exec (.stageReportReceive h status pair) s = .next s)))

/-- 04 R112-R116; 21 R487: activation. -/
def Obligations.ActivationsAreAnnouncedAndAdopted : Prop :=
  ∀ s : State,
    (∀ (r : Ring) (d : Desc), s.due r d = true →
      exec (.cfgActivate r d) s = .next ((s.takeUp r d).modCfg fun c =>
        { c with act := some ⟨r, d.seq, ⟨d.w 24, d.payload.extractLsb' 32 256⟩, if (d.w 60).toNat = 0 then 4000 else (d.w 60).toNat, (s.takeUp r d).round, none⟩ })) ∧
    (s.supplied = true →
      (∀ w, s.cfg.act = some w →
        (w.announced.isSome = true → exec .activationTimeout s = .next s) ∧
        (w.announced = none →
          let t := s.runToFleet ((w.start + w.timeout) * Config.roundNs)
          exec .activationTimeout s = .next (((t.crewMembers.filter fun m => !t.reported w.pair m).foldl (fun u m => u.journal 8 0x44 m.toNat w.pair.epoch.toNat 0 0)
            (t.modCfg fun c => { c with act := none })).complete w.ring w.seq 1 0)) ∧
        (∀ a n, w.announced = some a → s.cfg.lastAnnounce = some n →
          let t := s.runToFleet ((n + 8) * Config.roundNs)
          (s.rgt.role = .stroke → t.round + 8 ≤ a → exec .announce s = .next (t.sendAnnounce w.pair a)) ∧
          (s.rgt.role ≠ .stroke ∨ a < t.round + 8 → exec .announce s = .next s))) ∧
      (∀ (h : Hdr) (pair : Pair) (round : Nat),
        (h.crew = s.rgt.crew → h.src = s.alc.stroke → s.rgt.role ≠ .stroke → s.round ≤ round →
          let id := ((s.rgt.inbox.find? fun m => m.kind == 0x11).map (·.msgId)).getD 0
          exec (.announceReceive h pair round) s = .next ((((s.takeMsg 0x11).modCfg fun c => { c with annPair := some (pair, round) }).noteActRound round).childFrames
            h.seq h.src (h.hops + 1) h.hopLimit (.segment 0x11 id 0 1 (CfgBody.announce pair round).bytes))) ∧
        (h.crew ≠ s.rgt.crew ∨ h.src ≠ s.alc.stroke ∨ s.rgt.role = .stroke ∨ round < s.round → exec (.announceReceive h pair round) s = .next s)) ∧
      (∀ a, s.cfg.actRound = some a →
        let t := s.runToFleet (a * Config.roundNs + 150000)
        let ok := s.pwr.controlReady = true ∧ (s.cfg.staged.bind (·.img)).isSome = true ∧ s.cfg.annPair = some (s.cfg.stagedPair, a)
        let ends := fun (v : State) =>
          let u := v.modCfg fun c => { c with actRound := none, annPair := none, raisedFor := none }
          (∀ w, u.cfg.act = some w → w.announced = some a → exec .adopted s = .next ((u.modCfg fun c => { c with act := none }).completeAt w.ring w.seq 0 0 (a * Config.roundNs + 150000))) ∧
          (∀ w, u.cfg.act = some w → w.announced ≠ some a → exec .adopted s = .next u) ∧
          (u.cfg.act = none → exec .adopted s = .next u)
        (ok → ends (t.adopt false)) ∧ (¬ ok → ends (t.raise .cfg 5))) ∧
      (s.cfg.actRound = none → exec .adopted s = .next s) ∧
      (∀ r, s.cfg.catchUpRound = some r →
        let t := s.runToFleet (r * Config.roundNs + 150000)
        (t.catchUpHolds = true → exec .catchUp s = .next (t.adopt true)) ∧
        (t.catchUpHolds = false → exec .catchUp s = .next (t.modCfg fun c => { c with catchUpRound := none }))) ∧
      (s.cfg.catchUpRound = none → exec .catchUp s = .next s))

/-- 05 R130, R131, R137, R142, R144, R145: a granted write of a PWM setup register changes the fields it names. -/
def Obligations.PwmSetupWritesTakeTheirFields : Prop :=
  ∀ (s : State) (m : Master) (w : Word), s.reaches m = true → s.pwr.controlReady = true → s.laneOrPf0 m = true →
    let b := s.beat m
    (∀ (n : Phase) (reg : Fin 5), s.hasPhase n = true →
      exec (.pwmShadowWrite m n reg w) s = .next (b.modCh n fun c =>
        { c with written := c.written ||| bit 5 reg.val,
                 shadow := { period := if reg = 0 then bitsOf w 0 20 else c.shadow.period,
                             rise := if reg = 1 then bitsOf w 0 20 else c.shadow.rise,
                             fall := if reg = 2 then bitsOf w 0 20 else c.shadow.fall,
                             dt := if reg = 3 then bitsOf w 0 12 else c.shadow.dt,
                             comm := if reg = 4 then bitsOf w 0 4 else c.shadow.comm,
                             fault := if reg = 4 then bitsOf w 4 4 else c.shadow.fault } })) ∧
    (∀ n : Phase, s.hasPhase n = true → w.getLsbD 0 = true →
      let t := (b.modCh n fun c =>
        { c with en := true, polH := w.getLsbD 1, polL := w.getLsbD 2, cmode := w.getLsbD 3, swFault := w.getLsbD 4 }).applyMasks n
      exec (.pwmCtrlWrite m n w) s = .next (if (t.pwm.ch.get n).running = true then t else t.releaseMasks n t.taps)) ∧
    (∀ n : Phase, s.hasPhase n = true → w.getLsbD 0 = false →
      let u := b.modCh n fun c =>
        { c with en := false, polH := w.getLsbD 1, polL := w.getLsbD 2, cmode := w.getLsbD 3, swFault := w.getLsbD 4 }
      let v := (u.turnCh n b.taps fun c => { c with running := false, begun := false, ideal := false, blocked := false, off := 0 }).modRegCh n fun r =>
        { r with grid := r.grid.map fun g => { g with stop := g.stop <|> some b.taps } }
      let t := (v.releaseMasks n b.taps).applyMasks n
      exec (.pwmCtrlWrite m n w) s = .next (if (t.pwm.ch.get n).running = true then t else t.releaseMasks n t.taps)) ∧
    (s.lcs.lock = false → exec (.pwmDtMinWrite m w) s = .next (b.modPwm fun p => { p with dtMin := BitVec.ofNat 12 (max 24 (bitsOf w 0 12).toNat) })) ∧
    (∀ a : Aux,
      (w.getLsbD 0 = true → exec (.pwmAuxCtrlWrite m a w) s = .next (b.modAux a fun c =>
        { c with en := true, pol := w.getLsbD 1, fsLevel := w.getLsbD 2, heldFs := if c.en then c.heldFs else b.clockFault })) ∧
      (w.getLsbD 0 = false → exec (.pwmAuxCtrlWrite m a w) s = .next (b.modAux a fun c =>
        { c with en := false, pol := w.getLsbD 1, fsLevel := w.getLsbD 2, running := false, begun := false, inFailsafe := false, heldFs := false })))

/-- 05 R132, R133: the checks of a commit in their order, what an accepted and what a refused commit leave. -/
def Obligations.PwmCommitChecksInOrder : Prop :=
  ∀ (s : State) (m : Master) (n : Phase) (w : Word), s.reaches m = true → s.pwr.controlReady = true → s.laneOrPf0 m = true → s.hasPhase n = true →
    let c := s.pwm.ch.get n
    let p := tapsOf c.shadow.period
    let split : Bool := c.written.getLsbD 0 && ((!c.written.getLsbD 1 && decide (p ≤ tapsOf c.shadow.rise)) ||
      (!c.written.getLsbD 2 && decide (p ≤ tapsOf c.shadow.fall)))
    let res : BitVec 3 :=
      if c.en = false then 6 else if p < 4800 then 2 else if c.shadow.dt.toNat < s.pwm.dtMin.toNat then 3
      else if !(maskOk c.shadow.comm && maskOk c.shadow.fault) then 4 else if split = true then 1 else 0
    ∃ t : State, exec (.pwmCommit m n w) s = .next t ∧
      (let u := t.pwm.ch.get n
       u.lastResult = res ∧ u.active = c.active ∧ u.shadow = c.shadow ∧
       (res = 0 → u.pend = some ⟨c.shadow, bitsOf w 0 16, (s.beat m).taps⟩ ∧ u.written = 0 ∧ u.cntCommit = satInc c.cntCommit ∧
         u.cntRefused = c.cntRefused ∧
         (t.evGet (.pwm n)).flags = (if c.pend.isSome then (s.evGet (.pwm n)).flags ||| bit 32 4 else (s.evGet (.pwm n)).flags)) ∧
       (res ≠ 0 → u.pend = c.pend ∧ u.written = c.written ∧ u.cntRefused = satInc c.cntRefused ∧ u.cntCommit = c.cntCommit ∧
         (t.evGet (.pwm n)).flags = (s.evGet (.pwm n)).flags ||| bit 32 (if res = 1 then 0 else 1))) ∧
      (∀ k : Phase, k ≠ n → t.pwm.ch.get k = s.pwm.ch.get k) ∧ t.pwm.aux = s.pwm.aux ∧ OnlyEvents { s.beat m with pwm := t.pwm } t

/-- 05 R135: a group commit commits every named channel or none. -/
def Obligations.PwmGroupCommitIsAllOrNothing : Prop :=
  ∀ (s : State) (m : Master) (w : Word), s.reaches m = true → s.pwr.controlReady = true → s.laneOrPf0 m = true →
    let named : Phase → Prop := fun n => s.pwm.groupMask.getLsbD n.val = true ∧ s.hasPhase n = true
    let res : Phase → BitVec 3 := fun n => commitResult s.pwm.dtMin (s.pwm.ch.get n)
    ∃ t : State, exec (.pwmGroupCommit m w) s = .next t ∧
      (∀ k : Phase, ¬ named k → t.pwm.ch.get k = s.pwm.ch.get k) ∧
      ((∀ n, named n → res n = 0) → ∀ k, named k →
        t.pwm.ch.get k = { s.pwm.ch.get k with
                             pend := some ⟨(s.pwm.ch.get k).shadow, bitsOf w 0 16, (s.beat m).taps⟩, accepted := (s.pwm.ch.get k).shadow, written := 0, lastResult := 0,
                             cntCommit := satInc (s.pwm.ch.get k).cntCommit }) ∧
      ((∃ n, named n ∧ res n ≠ 0) → ∀ k, named k →
        t.pwm.ch.get k = { s.pwm.ch.get k with
                             lastResult := if res k = 0 then 5 else res k, cntRefused := satInc (s.pwm.ch.get k).cntRefused }) ∧
      OnlyEvents { s.beat m with pwm := t.pwm } t

/-- 05 R125, R127, R134, R137, R142, R143: starts, transfers and boundaries. -/
def Obligations.PwmStartsTransfersAndBoundaries : Prop :=
  ∀ s : State, s.supplied = true →
    (∀ (m : Master) (w : Word), s.frozen m = false → s.pwr.controlReady = true → s.laneOrPf0 m = true →
      (m = .lane → s.lne.coxDead = false → exec (.pwmStart m w) s =
        .next ((s.beat m).modLne fun l => { l with held := l.held ++ [.start (bitsOf w 0 24)] })) ∧
      ((m = .lane → s.lne.coxDead = true) → ∃ t : State, exec (.pwmStart m w) s = .next t ∧ OnlyEvents { s.beat m with pwm := t.pwm } t ∧
        ∀ k : Phase,
          let c := s.pwm.ch.get k
          let named : Prop := w.getLsbD k.val = true ∧ s.hasPhase k = true
          let start : Nat := ceilDiv (s.beat m).taps 16 * 16 + 128
          (named ∧ c.running = false ∧ c.en = true ∧ c.hasActive = true → t.pwm.ch.get k =
            { c with running := true, begun := false, bound := start, ideal := false, since := start, blocked := false, off := 0 }) ∧
          (¬ (named ∧ c.running = false ∧ c.en = true ∧ c.hasActive = true) → t.pwm.ch.get k = c) ∧
          (named ∧ c.running = true → (t.evGet (.pwm k)).flags.getLsbD 5 = true))) ∧
    (∀ (n : Phase) (p : PwmPending), (s.pwm.ch.get n).running = false → (s.pwm.ch.get n).pend = some p →
      exec (.pendingTransfer ⟨n.val, by omega⟩) s = .next ((s.runTo (cycleOfTaps (p.since + 128))).modCh n fun c =>
        { c with active := p.set, tag := p.tag, pend := none, hasActive := true })) ∧
    (∀ (a : Aux) (p : AuxPending), (s.pwm.aux.get a).running = false → (s.pwm.aux.get a).pend = some p →
      exec (.pendingTransfer ⟨24 + a.val, by omega⟩) s = .next ((s.runTo (cycleOfTaps (p.since + 128))).modAux a fun c =>
        { c with active := p.set, tag := p.tag, pend := none })) ∧
    (∀ (n : Phase) (samples : Vector Int 8), (s.pwm.ch.get n).running = true →
      let c := s.pwm.ch.get n
      let low : Bool := (s.reg.ch.get n).effective == 0
      let t1 := s.runTo (cycleOfTaps c.bound)
      let t2 := if c.begun = true then (t1.modRegCh n fun r => (r.sample c.bound samples).closePeriod).detect n else t1
      let moved : Bool := match c.pend with | some p => decide (p.since + 128 ≤ c.bound) | none => false
      let act : PwmSet := match c.pend with | some p => if moved = true then p.set else c.active | none => c.active
      let tag : Half := match c.pend with | some p => if moved = true then p.tag else c.tag | none => c.tag
      let rises : Bool := tapsOf act.rise == 0 && tapsOf act.fall != 0
      let l0 : Bool := decide (tapsOf act.fall < tapsOf act.period) && decide (tapsOf act.fall < tapsOf act.rise) && tapsOf act.fall != 0
      let level : Bool := !low && (rises || (l0 && !c.blocked))
      exec (.periodBoundary ⟨n.val, by omega⟩ samples) s = .next (((t2.turnCh n c.bound fun _ =>
        { c with active := act, tag := tag, pend := if moved = true then none else c.pend, hasActive := c.hasActive || moved,
                 begun := true, off := 1, ideal := level, since := if c.begun && c.ideal = level then c.since else c.bound,
                 blocked := c.blocked && !rises, bound := c.bound + tapsOf act.period }).modRegCh n fun r =>
        (if c.ideal && !level && !low then r.endPulse false c.since c.bound else r).openPeriod c.bound (tapsOf act.period)).releaseMasks n c.bound)) ∧
    (∀ (m : Master) (a : Aux) (w : Word), s.frozen m = false → s.pwr.controlReady = true → s.laneOrPf0 m = true →
      let c := s.pwm.aux.get a
      let b := s.beat m
      (c.en = true → 2 ≤ c.shadow.period.toNat → (c.written.getLsbD 1 = true ∨ c.written.getLsbD 0 = false ∨ c.shadow.duty.toNat < c.shadow.period.toNat) →
        (c.running = true → c.begun = true → exec (.pwmAuxCommit m a w) s = .next (b.modAux a fun c =>
          { c with pend := some ⟨c.shadow, bitsOf w 0 16, b.taps⟩, accepted := c.shadow, written := 0, lastResult := 0 })) ∧
        (c.running = false ∨ c.begun = false → exec (.pwmAuxCommit m a w) s = .next (b.modAux a fun c =>
          { c with pend := some ⟨c.shadow, bitsOf w 0 16, b.taps⟩, accepted := c.shadow, written := 0, lastResult := 0,
                   running := true, begun := false, heldFs := c.heldFs && b.clockFault, bound := ceilDiv b.taps 16 * 16 + 128 }))) ∧
      (c.en = true → c.shadow.period.toNat < 2 → exec (.pwmAuxCommit m a w) s = .next (b.modAux a fun c => { c with lastResult := 2 })) ∧
      (c.en = true → 2 ≤ c.shadow.period.toNat → c.written.getLsbD 1 = false → c.written.getLsbD 0 = true → c.shadow.period.toNat ≤ c.shadow.duty.toNat →
        exec (.pwmAuxCommit m a w) s = .next (b.modAux a fun c => { c with lastResult := 1 })) ∧
      (c.en = false → exec (.pwmAuxCommit m a w) s = .next (b.modAux a fun c => { c with lastResult := 6 }))) ∧
    (∀ (a : Aux) (samples : Vector Int 8), (s.pwm.aux.get a).running = true →
      let c := s.pwm.aux.get a
      let moved : Bool := match c.pend with | some p => decide (p.since + 128 ≤ c.bound) | none => false
      let act : AuxSet := match c.pend with | some p => if moved = true then p.set else c.active | none => c.active
      let tag : Half := match c.pend with | some p => if moved = true then p.tag else c.tag | none => c.tag
      exec (.periodBoundary ⟨24 + a.val, by omega⟩ samples) s = .next ((s.runTo (cycleOfTaps c.bound)).modAux a fun _ =>
        { c with active := act, tag := tag, pend := if moved = true then none else c.pend, begun := true,
                 inFailsafe := !s.pwr.controlReady || s.lne.tokenStopped, heldFs := c.heldFs && s.clockFault,
                 bound := c.bound + 16 * act.period.toNat }))

/-- 05 R127, R128; 06 R148-R152, R164: how the ideal level rises and a pulse ends. -/
def Obligations.PwmPulsesRiseAndEnd : Prop :=
  ∀ (s : State) (n : Phase), s.supplied = true →
    let c := s.pwm.ch.get n
    let r := s.reg.ch.get n
    let start := c.bound - tapsOf c.active.period
    let toFall := fun (x : Nat) (up : Bool) => (s.runTo (cycleOfTaps (start + x))).turnCh n (start + x) fun c =>
      { c with ideal := up, since := if c.ideal = up then c.since else start + x, off := x + 1 }
    let toRise := fun (x : Nat) (up : Bool) => (s.runTo (cycleOfTaps (start + x))).turnCh n (start + x) fun c =>
      { c with ideal := up, since := if c.ideal = up then c.since else start + x, blocked := false, off := x + 1 }
    (∀ x : Nat, c.running = true → c.begun = true → nextCompare c = some (x, true) →
      (c.ideal = true → exec (.compareEvent n) s = .next ((toFall x false).modRegCh n (·.endPulse false c.since (start + x)))) ∧
      (c.ideal = false → exec (.compareEvent n) s = .next (toFall x false))) ∧
    (∀ x : Nat, c.running = true → c.begun = true → nextCompare c = some (x, false) →
      (r.effective ≠ 0 → exec (.compareEvent n) s = .next (toRise x true)) ∧
      (r.effective = 0 → exec (.compareEvent n) s = .next (toRise x false))) ∧
    (∀ (tm : Nat) (sense : Int),
      let latest := min (c.since + r.dmax.toNat * tapsOf c.active.period / 10000)
        (match nextCompare c with | some (x, true) => start + x | _ => c.since + r.dmax.toNat * tapsOf c.active.period / 10000)
      let trips := fun (rise : Nat) => rise ≤ tm ∧ r.reaches (tm - rise) sense = true ∧ c.blanked r.blank rise tm = false
      let enabled : Prop := c.running = true ∧ c.begun = true ∧ c.cmode = true ∧ r.en = true
      (enabled → c.ideal = true → trips c.since → tm / 16 ≤ latest / 16 →
        exec (.comparatorTrip n tm sense) s = .next (((s.runTo (cycleOfTaps (min tm latest))).turnCh n (min tm latest) fun c =>
          { c with ideal := false, since := min tm latest, blocked := true }).modRegCh n (·.endPulse true c.since (min tm latest)))) ∧
      (∀ e, enabled → c.ideal = false → r.lastEnd = some e → trips e.rise → tm / 16 = e.ended / 16 →
        exec (.comparatorTrip n tm sense) s = .next (((s.runTo (cycleOfTaps tm)).modCh n fun c => { c with blocked := true }).modRegCh n (·.retrip e))) ∧
      (¬ enabled → exec (.comparatorTrip n tm sense) s = .next s) ∧
      (c.ideal = true → ¬ (trips c.since ∧ tm / 16 ≤ latest / 16) → exec (.comparatorTrip n tm sense) s = .next s) ∧
      (c.ideal = false → (∀ e, r.lastEnd = some e → ¬ (trips e.rise ∧ tm / 16 = e.ended / 16)) → exec (.comparatorTrip n tm sense) s = .next s)) ∧
    (c.running = true → c.ideal = true →
      let x := c.since + r.dmax.toNat * tapsOf c.active.period / 10000
      exec (.dmaxLimit n) s = .next (((s.runTo (cycleOfTaps x)).turnCh n x fun c =>
        { c with ideal := false, since := x, blocked := true }).modRegCh n (·.endPulse false c.since x)))

/-- 06 R155: the clamp transfer, armed, late and at its instant. -/
def Obligations.ClampsTransferAtTheApplyInstant : Prop :=
  ∀ s : State, s.supplied = true →
    (∀ (m : Master) (w : Word), s.frozen m = false → s.pwr.controlReady = true → s.laneOrPf0 m = true →
      let time : DWord := setHi s.reg.applyTime w
      let b := s.beat m
      (b.now < time.toNat → exec (.regApplyArm m w) s = .next (b.modReg fun r => { r with applyTime := time, armed := true })) ∧
      (time.toNat ≤ b.now → ∃ t : State, exec (.regApplyArm m w) s = .next t ∧ t.reg.armed = false ∧
        ∀ n : Phase, (t.reg.ch.get n).inForce = (if (s.reg.ch.get n).shadowSet = true then (s.reg.ch.get n).shadow else (s.reg.ch.get n).inForce) ∧
          (t.reg.ch.get n).shadowSet = false ∧
          ((s.reg.ch.get n).shadowSet = true → (t.evGet (.reg n)).flags.getLsbD 5 = true))) ∧
    (s.reg.armed = true → ∃ t : State, exec .clampTransfer s = .next t ∧ t.reg.armed = false ∧
      t.clk = (s.runToFleet s.reg.applyTime.toNat).clk ∧
      ∀ n : Phase, (t.reg.ch.get n).inForce = (if (s.reg.ch.get n).shadowSet = true then (s.reg.ch.get n).shadow else (s.reg.ch.get n).inForce) ∧
        (t.reg.ch.get n).shadowSet = false)

/-- 06 R148, R153, R161, R163, R167; 10 R247: direction, overcurrent, restoration, start-up timers. -/
def Obligations.PhaseLossAndStartUpTimers : Prop :=
  ∀ s : State, s.supplied = true →
    (∀ (m : Master) (n : Phase) (w : Word), s.frozen m = false → s.pwr.controlReady = true → s.laneOrPf0 m = true → s.hasPhase n = true →
      let same : Bool := w.getLsbD 1 == (s.reg.ch.get n).dir
      let gated : Bool := (m == .lane) && w.getLsbD 0 && !(s.reg.ch.get n).en
      let u := (s.beat m).modRegCh n fun c => { c with en := w.getLsbD 0 && !gated, slopeAuto := w.getLsbD 2 }
      let v := if gated = true then
          (if s.lne.coxDead = true then (u.modRegCh n fun c => { c with en := true }).holdLow n
           else u.modLne fun l => { l with held := l.held ++ [.regEn n] })
        else u
      (same = false → (s.pwm.ch.get n).running = true → exec (.regCtrlWrite m n w) s = .next ((v.raise (.reg n) 4).holdLow n)) ∧
      (same = true ∨ (s.pwm.ch.get n).running = false → exec (.regCtrlWrite m n w) s =
        .next ((v.modRegCh n fun c => { c with dir := w.getLsbD 1 }).holdLow n))) ∧
    (∀ (n : Phase) (a b : Int), a.natAbs = 2047 → b.natAbs = 2047 → s.hasPhase n = true → (s.pwm.ch.get n).running = true → s.saf.overcurrent.getLsbD n.val = false →
      (s.reg.ch.get n).retired = false →
      exec (.overcurrent n a b) s = .next (((((s.modSaf fun f => { f with overcurrent := f.overcurrent ||| bit 24 n.val }).dropGates).raiseAt
        .saf 11 n.val 0 0)).retire n 3)) ∧
    (∀ (n : Phase) (a b : Int), a.natAbs ≠ 2047 ∨ b.natAbs ≠ 2047 → exec (.overcurrent n a b) s = .next s) ∧
    (∀ (r : Ring) (d : Desc) (n : Phase), s.due r d = true → d.target.toNat = n.val →
      exec (.regPhaseRestore r d) s = .next ((((((s.takeUp r d).runToFleet (s.nextTick * Config.tickNs)).modRegCh n fun c =>
        { c with retired := false, detOpen := false, detSense := false, runMeans := [], tripMeans := [] }).modSaf fun f =>
          { f with overcurrent := f.overcurrent &&& ~~~ bit 24 n.val }).phaseBack n).complete r d.seq 0 0)) ∧
    (∀ (o : Outlet) (since : Nat), (s.reg.start.get o).st = .track → (s.reg.start.get o).ratiometric = true →
      (s.reg.start.get o).errSince = some since →
      let t := s.runTo (since + ms 10)
      let x := s.reg.start.get o
      let err := ratioError (s.out.get o).vs x.target s.cfg.active.hdr.checkRampMs x.t0 t.clk.cycle
      (err = true → exec (.trackError o) s = .next (t.modStart o fun x => { x with trackError := true })) ∧
      (err = false → exec (.trackError o) s = .next (t.modStart o fun x => { x with errSince := none }))) ∧
    (∀ o : Outlet, (s.reg.start.get o).st = .ramp → (s.out.get o).vs < 100 →
      let t := s.runTo ((s.reg.start.get o).since + ms 2)
      exec (.rampTimeout o) s = .next (((t.zeroCodes o).disableGroup o).modStart o fun x =>
        { x with st := if x.attempt < 4 then .pause else .fault, since := t.clk.cycle })) ∧
    (∀ o : Outlet, (s.reg.start.get o).st = .pause → 0 < s.mOf o →
      let t := s.runTo ((s.reg.start.get o).since + ms 500)
      exec (.pauseTimeout o) s = .next ((((s.group o).foldl (fun u n => u.modRegCh n fun c => { c with shadowSet := false })
        (t.modStart o fun x => { x with st := .ramp, attempt := (s.reg.start.get o).attempt + 1, since := t.clk.cycle, ref := 0 })).startClamps o).startGroup o))

/-- 07 R184, R195, R181: the session commands. -/
def Obligations.SessionCommandsAct : Prop :=
  ∀ (s : State) (r : Ring) (d : Desc) (o : Outlet), s.due r d = true → d.target.toNat = o.val →
    let t := s.takeUp r d
    let x := s.out.get o
    let running : Prop := x.st.stoppable = true ∧ x.session = d.w 24 ∧ d.w 24 ≠ 0
    (x.st = .off → (s.outCfg o).isSome = true → s.bil.legalUp = true →
      exec (.outEnable r d) s = .next ((t.go o .idle).outDone r d.seq o)) ∧
    (x.st = .off → exec (.outDisable r d) s = .next (t.complete r d.seq 0 x.result)) ∧
    (x.st ≠ .off → exec (.outDisable r d) s = .next (t.modOut o fun x =>
      { x with disNow := x.disNow || d.b 24 == 1, disablePending := x.disablePending || d.b 24 == 0, disWait := x.disWait ++ [(r, d.seq)] })) ∧
    (running → exec (.outStop r d) s = .next (t.modOut o fun x => { x with stopNow := true, stopWait := x.stopWait ++ [(r, d.seq)] })) ∧
    (¬ running → exec (.outStop r d) s = .next (t.complete r d.seq 0 x.result)) ∧
    (x.st = .fault → s.seoOut o = false → s.bothOpen o = true →
      exec (.outFaultClear r d) s = .next (((t.clearUp o).go o (if s.plugged o = true then .plugged else .idle)).outDone r d.seq o)) ∧
    (running → exec (.outSessionCap r d) s = .next ((t.modOut o fun x => { x with hostCap := d.w 28 }).modAlc fun a =>
      { a with capWait := a.capWait ++ [⟨r, d.seq, s.round, some o, none, false⟩] })) ∧
    (¬ running → exec (.outSessionCap r d) s = .next (t.complete r d.seq 0 x.result))

/-- 07 R184, R186; 10 R245, R246: how contactors open and are proved open. -/
def Obligations.ContactorsOpenAndAreProved : Prop :=
  ∀ (s : State) (o : Outlet), s.supplied = true →
    let x := s.out.get o
    (x.st = .stopping → x.cur.natAbs ≤ 50 → exec (.stopRampEnd o) s = .next ((((s.stopUp o).laneOpen o).modOut o fun x =>
      { x with openUnderLoad := decide (50 < x.cur.natAbs), weldUnverified := false, weldSince := none, vvSeen := false, ilim := 0 }).go o .opening)) ∧
    (∀ plus minus : Bool, s.hasOutlet o = true →
      let t := s.modSaf fun f =>
        { f with fbp := if plus = true then f.fbp ||| bit 8 o.val else f.fbp &&& ~~~ bit 8 o.val,
                 fbm := if minus = true then f.fbm ||| bit 8 o.val else f.fbm &&& ~~~ bit 8 o.val }
      (x.st = .closing → plus = true → minus = true → exec (.contactorFeedback o plus minus) s = .next (t.toEnergy o)) ∧
      (x.st = .opening → plus = false → minus = false → exec (.contactorFeedback o plus minus) s = .next (t.go o .weldCheck)) ∧
      (x.st ≠ .closing → x.st ≠ .opening → exec (.contactorFeedback o plus minus) s = .next t)) ∧
    (∀ c : OutletCfg, s.outCfg o = some c →
      let t := s.runTo (x.since + ms c.deadlineMs)
      (x.st = .closing → exec (.contactorDeadline o) s = .next ((t.toFault o 9).closeFail o)) ∧
      (x.st = .opening → exec (.contactorDeadline o) s = .next ((t.toFault o 10).weldPath o))) ∧
    (x.st = .weldCheck → s.pwr.controlReady = true → x.vs < 600 → (600 ≤ x.vv ∨ x.vvSeen = false) →
      let t := (s.weldNote o).modOut o fun x => { x with weldUnverified := decide (x.vv < 600) }
      (x.reason = 8 → exec (.weldCheck o) s = .next (t.toFault o 8)) ∧
      (x.reason ≠ 8 → exec (.weldCheck o) s = .next (t.finish o .released x.reason.toNat))) ∧
    (x.st = .weldCheck → s.pwr.controlReady = true → 600 ≤ x.vs → x.weldSince = none →
      let t := s.runTo (x.since + ms 2000)
      exec (.weldCheckTimeout o) s = .next ((t.toFault o 14).weldPath o))

/-- 01 R23, R27, R32; 07 R184, R185: records, cable check, precharge. -/
def Obligations.RecordsAndTheCableCheckDecide : Prop :=
  ∀ (s : State) (o : Outlet), s.supplied = true →
    let x := s.out.get o
    (∀ (m : Master) (len off : Nat) (d : Demand), s.frozen m = false → s.hasOutlet o = true → s.pwr.dataReady = true →
      let b := s.beat m
      (m.demands = true → len = 32 → off % 32 = 0 → exec (.demandWrite m o len off d) s = .next (b.modJn o fun j =>
        { j with slot := d, fresh := true, arrived := b.clk.cycle,
                 displaced := if j.fresh && decide (j.arrived < b.clk.cycle) then some j.slot else if j.fresh then j.displaced else none })) ∧
      (m.demands = true → len ≠ 32 ∨ off % 32 ≠ 0 → exec (.demandWrite m o len off d) s =
        .next (b.modOut o fun x => { x with cntMalformed := satInc x.cntMalformed })) ∧
      (m.demands = false → exec (.demandWrite m o len off d) s = .next (b.firewallDrop m (32 * o.val + off) 0))) ∧
    (∀ (m : Master) (len off : Nat) (d : Demand), s.frozen m = false → s.pwr.dataReady = false → exec (.demandWrite m o len off d) s = .next (s.beat m)) ∧
    (∀ v : Nat, (s.jn.get o).validAt = some v → s.pwr.controlReady = true → (s.outCfg o).isSome = true → (s.jn.get o).latched.isSome = true →
      0 < s.clk.rate →
      let t := (s.runToFleet (v + 500000000)).modJn o fun j => { j with expired := true }
      let st : BitVec 3 := if s.bil.legalUp = true ∧ s.lcs.returnPending = false then 3 else 2
      (x.grantStatus ≠ st → exec (.recordExpired o) s = .next ((t.modOut o fun x => { x with grantStatus := st }).writeGrant o)) ∧
      (x.grantStatus = st → exec (.recordExpired o) s = .next t)) ∧
    (∀ c : OutletCfg, s.outCfg o = some c →
      (∀ h : Nat, x.holdAt = some h → x.st = .cableCheck →
        let t := s.runTo (h + ms c.holdMs)
        ((s.reg.start.get o).trackError = true → exec (.cableCheckDone o) s = .next (t.toFault o 6)) ∧
        ((s.reg.start.get o).trackError = false → x.isoGood = true → exec (.cableCheckDone o) s = .next ((t.stopUp o).go o .precharge)) ∧
        ((s.reg.start.get o).trackError = false → x.isoGood = false → exec (.cableCheckDone o) s = .next t)) ∧
      (x.st = .cableCheck → exec (.cableCheckTimeout o) s =
        .next ((s.runTo (x.since + ms (s.cfg.active.hdr.checkRampMs + c.holdMs + 2000))).toFault o 6)) ∧
      (x.st = .precharge → exec (.prechargeTimeout o) s =
        .next (((s.runTo (x.since + ms c.prechargeMs)).stopUp o).finish o .released 7)))

/-- 07 R175, R185, R190, R191, R193: alarms, reversals, moves. -/
def Obligations.ReversalsAlarmsAndMovesStep : Prop :=
  ∀ s : State, s.supplied = true →
    (∀ o : Outlet, s.hasOutlet o = true →
      let t := s.modOut o fun x => { x with imdLevel := false }
      (s.pwr.controlReady = true → (s.out.get o).st = .energy → exec (.imdAlarm o) s = .next (t.toStopping o 5)) ∧
      ((s.out.get o).st ≠ .energy → exec (.imdAlarm o) s = .next t)) ∧
    (∀ o : Outlet, (s.out.get o).st = .energy → (s.out.get o).rev = true → (s.out.get o).cur.natAbs ≤ 50 →
      exec (.reversalCurrentZero o) s = .next (((s.redirect o (!(s.out.get o).exporting)).modOut o fun x =>
        { x with exporting := !x.exporting, rev := false, revAt := some s.clk.cycle, oppositeRun := 0 }).raise (.out o) 8)) ∧
    (∀ (n : Phase) (v : MoveSt) (a : Outlet), s.mtx.move.get n = some v → v.src = some a → v.step = 2 → s.currentZero n = true →
      ∀ (k : Nat) (e : MtxEntry), s.mtxFind n a = some (k, e) →
        exec (.moveCurrentZero n) s = .next ((s.setMove n (some { v with step := 3, since := s.clk.cycle })).mtxOpen k n)) ∧
    (∀ (n : Phase) (v : MoveSt), s.mtx.move.get n = some v →
      let t := s.runTo (v.since + s.moveBound n v)
      (∀ a, v.src = some a → v.step = 2 → exec (.moveTimeout n) s = .next (t.moveAbandon n a v.dst)) ∧
      (∀ a, v.src = some a → v.step = 3 → exec (.moveTimeout n) s = .next (t.matrixWeld n a)) ∧
      (v.step = 4 → exec (.moveTimeout n) s = .next (t.moveFail n v.dst))) ∧
    (∀ (k : HkChan) (e : MtxEntry), s.cfg.active.matrix[k.val]? = some e →
      let up := s.modMtx fun m => { m with fb := m.fb ||| bit 64 k.val }
      let down := s.modMtx fun m => { m with fb := m.fb &&& ~~~ bit 64 k.val }
      (∀ v, s.mtx.move.get e.phase = some v → v.step = 3 → v.src = some e.outlet →
        exec (.matrixFeedback k false) s = .next (down.moveClose e.phase v.src v.dst v.homing)) ∧
      (∀ v, s.mtx.move.get e.phase = some v → v.step = 4 → v.dst = e.outlet → s.mtx.drv.getLsbD k.val = true →
        exec (.matrixFeedback k true) s = .next (up.moveJoin e.phase v)) ∧
      (s.mtx.move.get e.phase = none → s.mtx.drv.getLsbD k.val = false → s.mtx.disabled.getLsbD k.val = false →
        exec (.matrixFeedback k true) s = .next (up.matrixWeld e.phase e.outlet)) ∧
      (s.mtx.move.get e.phase = none → exec (.matrixFeedback k false) s = .next down))

/-- 08 R199, R203, R204, R207, R211, R213; 07 R179: how a vehicle link comes up. -/
def Obligations.VehicleLinksComeUp : Prop :=
  ∀ (s : State) (o : Outlet), s.supplied = true →
    let v := s.vcl.ch.get o
    (∀ (i : Fin 8) (samples : List PilotSample),
      (s.pilotOutlet i = none → exec (.pilotChange i samples) s = .next s) ∧
      (∀ c, s.pilotOutlet i = some (o, c) → exec (.pilotChange i samples) s = .next (samples.foldl (fun t x => t.pilotSample o x) s))) ∧
    (∀ (i : Fin 8) (c : OutletCfg) (x : PilotSample) (k : BitVec 3), s.pilotOutlet i = some (o, c) → s.outCfg o = some c →
      pilotClass c.kind (s.out.get o).drivingPwm x = some k →
      let run := if (s.out.get o).pilotSeen = k then min 3 ((s.out.get o).pilotRun + 1) else 1
      let u := s.modOut o fun y => { y with pilotSeen := k, pilotRun := run }
      let t := u.pilotTo o k
      (run ≠ 3 → exec (.pilotChange i [x]) s = .next u) ∧
      (run = 3 → t.vclUp o = false → exec (.pilotChange i [x]) s = .next t) ∧
      (run = 3 → t.vclUp o = true → s.plugged o = false → t.plugged o = true → exec (.pilotChange i [x]) s = .next (t.linkPlugged o)) ∧
      (run = 3 → t.vclUp o = true → s.plugged o = true → t.plugged o = false → exec (.pilotChange i [x]) s = .next (t.modVclCh o VclSt.unplugged)) ∧
      (run = 3 → t.vclUp o = true → s.plugged o = t.plugged o → exec (.pilotChange i [x]) s = .next t)) ∧
    (s.vclUp o = true →
      (∀ mean : Byte, v.link = 1 →
        (mean.toNat ≤ v.slacThreshold.toNat → exec (.slacMatch o mean) s = .next ((((s.modVclCh o fun v =>
          { v with slacMean := mean, link := 2 }).vclSay (.slacKey o (Config.freeNat s.free))).useFree).raise (.vcl o) 0)) ∧
        (v.slacThreshold.toNat < mean.toNat → exec (.slacMatch o mean) s = .next ((s.modVclCh o fun v => { v with slacMean := mean }).slacRetry o))) ∧
      (v.link = 1 → exec (.slacFail o) s = .next ((((s.modVclCh o fun v => { v with cntSlacFail := satInc v.cntSlacFail }).raise (.vcl o) 1)).modVclCh o fun v =>
        { v with slacRetries := v.slacRetries + 1, link := if Config.slacRetries ≤ v.slacRetries then 6 else 1 })) ∧
      (exec (.tlsFail o) s = .next ((s.modVclCh o fun v => { v with tls := false, cntTlsFail := satInc v.cntTlsFail }).raise (.vcl o) 7)) ∧
      (∀ (c : OutletCfg) (offered : Byte), s.outCfg o = some c → s.plugged o = true → v.carrierMissing = false → v.proto = 0 →
        (c.kind ≠ 0 ∨ v.link = 2 ∨ v.link = 3) →
        (v.choose c.kind offered ≠ 0 → exec (.protoSelected o offered) s =
          .next ((s.modVclCh o fun w => { w with proto := v.choose c.kind offered, link := 4 }).raise (.vcl o) 2)) ∧
        (v.choose c.kind offered = 0 → exec (.protoSelected o offered) s = .next ((s.slacFailed o).vclSay (.failure o)))) ∧
      (∀ (c : OutletCfg) (closed : Bool), s.outCfg o = some c → c.kind = 2 → v.proto = 5 →
        (v.permit = true → closed = false → exec (.permitChange o closed) s =
          .next (((s.modVclCh o fun v => { v with permit := false }).vclStop o true).vclUpdate o)) ∧
        (v.permit = false ∨ closed = true → exec (.permitChange o closed) s =
          .next ((s.modVclCh o fun v => { v with permit := closed }).vclUpdate o))))

/-- 08 R205-R210, R215: messages, records, refreshes, time limits. -/
def Obligations.VehicleMessagesMakeRecordsAndAnswers : Prop :=
  ∀ (s : State) (o : Outlet), s.supplied = true →
    let v := s.vcl.ch.get o
    (s.vclUp o = true → s.plugged o = true → v.carrierMissing = false →
      (∀ m : VehMsg, exec (.vehicleMessage o m) s = .next (s.vehicleSays o m)) ∧
      (∀ e : EvVals, exec (.vehicleMessage o (.demand e)) s = .next (((s.modVclCh o fun v =>
        { v with ev := e, lastDemand := s.clk.cycle, evTarget := clampU 16 e.targetI ++ clampU 16 e.targetV }).vclUpdate o).vclReply o)) ∧
      (v.proto ≠ 0 → v.proto ≠ 2 → exec (.vehicleMessage o .setup) s = .next ((s.vclSetup o).vclReply o)) ∧
      (exec (.vehicleMessage o .stop) s = .next (((s.vclStop o true).vclUpdate o).vclReply o)) ∧
      (exec (.vehicleMessage o .exiError) s = .next (((s.modVclCh o fun v => { v with cntExiErr := satInc v.cntExiErr }).raise (.vcl o) 6).vclSay (.failure o)))) ∧
    (s.vclUp o = true → (s.out.get o).st.refreshed = true → ∃ t : State, exec (.recordRefresh o) s = .next t ∧
      (t.jn.get o).slot = { v.recordOf with seq := v.record.seq + 1 } ∧ (t.jn.get o).fresh = true ∧
      (t.vcl.ch.get o).record = { v.recordOf with seq := v.record.seq + 1 } ∧
      (t.jn.get o).arrived = t.clk.cycle ∧ t.clk.cycle = max s.clk.cycle (v.lastWrite + ms 100) ∧ (∀ k, k ≠ o → t.jn.get k = s.jn.get k)) ∧
    (s.vclUp o = true → (s.out.get o).st = .energy → v.session ≠ 0 → v.stopReq = false →
      exec (.loopTimeout o) s = .next (((((s.runTo (max v.lastDemand (s.out.get o).since + sec 1)).modVclCh o fun v =>
        { v with cntTimeout := satInc v.cntTimeout }).raise (.vcl o) 5).vclStop o false).vclUpdate o)) ∧
    (∀ since : Nat, s.vclUp o = true → v.authSince = some since →
      exec (.authTimeout o) s = .next ((s.runTo (since + sec s.vcl.hostWait.toNat)).authFail o)) ∧
    (s.vclUp o = true → v.isCan = true →
      let t := s.runTo (v.lastFrame + ms (if v.isChademo = true then 100 else 50))
      exec (.chargerFrameSend o) s = .next ((t.modVclCh o fun v => { v with lastFrame := t.clk.cycle }).vclSay (.chargerFrame o (t.vclAnswer o)))) ∧
    (∀ m : Master, s.frozen m = false → s.pwr.dataReady = true → (m = .pf 1 ∨ m = .pf 0 ∨ m = .mgmt) →
      exec (.vclSessionNextRead m) s = .next ((s.beat m).modVcl fun v => { v with sessionNext := if v.sessionNext + 1 = 0 then 1 else v.sessionNext + 1 }))

/-- 08 R210, R213, R214: the host's descriptors. -/
def Obligations.HostDescriptorsReachTheVehicleSession : Prop :=
  ∀ (s : State) (r : Ring) (d : Desc) (o : Outlet), s.due r d = true → d.target.toNat = o.val →
    let t := s.takeUp r d
    let v := s.vcl.ch.get o
    let done := t.complete r d.seq 0 0
    (v.session = d.w 24 → d.w 24 ≠ 0 →
      exec (.vclSessionPolicy r d) s = .next ((t.modVclCh o fun v => { v with policy := some ⟨bitsOf (d.b 28) 0 4, d.w 32⟩ }).complete r d.seq 0 0) ∧
      (v.authFailed = false → d.b 28 = 0 → exec (.vclAuth r d) s = .next (((t.modVclCh o fun v =>
        { v with authGranted := true, authReq := 0, authSince := none }).vclUpdate o).complete r d.seq 0 0)) ∧
      (v.authFailed = false → d.b 28 ≠ 0 → exec (.vclAuth r d) s = .next ((t.authFail o).complete r d.seq 0 0)) ∧
      (∀ bs : List Byte, s.vclItem d = some bs → exec (.vclFetch r d) s =
        .next ((t.writePages [d.w 32] bs).complete r d.seq 0 (BitVec.ofNat 32 bs.length))) ∧
      exec (.vclCertResponse r d) s = .next ((t.vclSay (.certResponse o (s.pageBytes (d.w 32) (d.w 28).toNat))).complete r d.seq 0 0) ∧
      exec (.vclSchedule r d) s = .next ((t.modVclCh o fun v => { v with schedule := some (s.pageBytes (d.w 32) (d.w 28).toNat) }).complete r d.seq 0 0)) ∧
    (v.session ≠ d.w 24 ∨ d.w 24 = 0 →
      exec (.vclSessionPolicy r d) s = .next done ∧ exec (.vclAuth r d) s = .next done ∧ exec (.vclFetch r d) s = .next done ∧
      exec (.vclCertResponse r d) s = .next done ∧ exec (.vclSchedule r d) s = .next done) ∧
    exec (.vclStationChain r d) s = .next ((t.modVcl fun v => { v with stationChain := s.pageBytes (d.w 28) (d.w 24).toNat }).complete r d.seq 0 0)

/-- 09 R224, R225, R230, R234: drive polls and answers, flow faults, the die trip. -/
def Obligations.DrivesAndLoopsAreWatched : Prop :=
  ∀ s : State, s.supplied = true →
    (∀ (l : Fin 4) (since : Nat), (s.thm.loop.get l).belowSince = some since → exec (.flowFault l) s = .next ((s.runTo (since + sec 2)).loopFlow l)) ∧
    (∀ l : Fin 4, (s.thm.loop.get l).belowSince = none → exec (.flowFault l) s = .next (s.loopFlow l)) ∧
    (∀ (n : Fin 8) (c : ThmDrive), s.cfg.active.thermal.drives.get n = some c → s.pwr.controlReady = true →
      let t := s.runTo ((s.thm.drive.get n).lastPoll + ms 100)
      let x := s.thm.drive.get n
      exec (.drivePoll n) s = .next (t.modThm fun z =>
        { z with busOut := z.busOut ++ ((if x.sent = some x.speed then [] else [(n, 6, c.speedReg, x.speed)]) ++
                   c.flowReg.toList.map (fun r => (n, 3, r, 1)) ++ c.tempReg.toList.map fun r => (n, 3, r, 1)),
                 drive := vmod z.drive n fun x => { x with polled := some t.clk.cycle, lastPoll := t.clk.cycle, sent := some x.speed } })) ∧
    (∀ (n : Fin 8) (k : Nat) (flow : Option Nat) (temp : Option Int), (s.thm.drive.get n).polled = some k →
      (s.clk.cycle < k + ms 20 → exec (.driveResponse n flow temp) s = .next (s.modThm fun z =>
        { z with drive := vmod z.drive n fun x => { x with fault := false, misses := 0, polled := none, flow := flow, temp := temp } })) ∧
      (k + ms 20 ≤ s.clk.cycle → exec (.driveResponse n flow temp) s = .next s)) ∧
    (∀ (n : Fin 8) (k : Nat), (s.thm.drive.get n).polled = some k →
      let x := s.thm.drive.get n
      let missed := fun (fault : Bool) => (s.runTo (k + ms 20)).modThm fun z =>
          { z with cntBusErr := satInc z.cntBusErr, drive := vmod z.drive n fun x => { x with misses := x.misses + 1, polled := none, fault := fault } }
      let judge := fun (t : State) => t.forAll fun (l : Fin 4) u =>
        match u.cfg.active.thermal.loops.get l with
        | some c => if c.flow = .drive n then u.loopFlow l else u
        | none => u
      (x.fault = false → x.misses < 2 → exec (.driveResponseTimeout n) s = .next (missed false)) ∧
      (x.fault = false → 2 ≤ x.misses → exec (.driveResponseTimeout n) s = .next (judge ((missed true).raise .thm 4))) ∧
      (x.fault = true → exec (.driveResponseTimeout n) s = .next (judge (missed true)))) ∧
    (∀ temp : Int,
      (13700 ≤ temp → exec (.dieTrip temp) s =
        .next (((s.modThm fun x => { x with dieTripped := true, coolRounds := 0 }).raise .thm 7).raiseGlb 3)) ∧
      (temp < 13300 → exec (.dieTrip temp) s = .next s) ∧
      (exec (.dieTrip temp) s = .next s ∨ exec (.dieTrip temp) s =
        .next (((s.modThm fun x => { x with dieTripped := true, coolRounds := 0 }).raise .thm 7).raiseGlb 3)))

/-- 10 R239, R241, R248, R250, R251, R258, R262, R268: which source each fault or descriptor raises. -/
def Obligations.SafetyFaultsRaiseTheirSources : Prop :=
  ∀ s : State,
    (s.supplied = true →
      (∀ (n : Phase) (pad : Option Bool), s.hasPhase n = true →
        let t := s.modSaf fun f => { f with gatePad := vmod f.gatePad n fun _ => pad }
        let cmd := s.saf.gateEn.getLsbD n.val
        (pad = some (!cmd) → s.saf.genFault.getLsbD n.val = false → exec (.genFault n pad) s =
          .next ((((t.runTo (t.clk.cycle + us 2)).modSaf fun f => { f with genFault := f.genFault ||| bit 24 n.val }).raiseAt .saf 9 n.val 0 0).raiseGlb 7)) ∧
        (pad = none ∨ pad = some cmd ∨ s.saf.genFault.getLsbD n.val = true → exec (.genFault n pad) s = .next t)) ∧
      (∀ (a : Acd) (padA padB : Option Bool),
        let t := s.modSaf fun f =>
          { f with stoPad := vmod (vmod f.stoPad (⟨a.val, by omega⟩ : Fin 8) fun _ => padA) (⟨a.val + 4, by omega⟩ : Fin 8) fun _ => padB }
        let cmdA := s.saf.stoCmd.getLsbD a.val
        let cmdB := s.saf.stoCmd.getLsbD (a.val + 4)
        (padA = some (!cmdA) ∨ padB = some (!cmdB) → s.saf.stoFault.getLsbD a.val = false → exec (.stoFault a padA padB) s =
          .next ((((t.runTo (t.clk.cycle + us 2)).modSaf fun f => { f with stoFault := f.stoFault ||| bit 4 a.val }).raiseAt .saf 10 a.val 0 0).raiseSto a 5)) ∧
        (((padA = none ∨ padA = some cmdA) ∧ (padB = none ∨ padB = some cmdB)) ∨ s.saf.stoFault.getLsbD a.val = true →
          exec (.stoFault a padA padB) s = .next t)) ∧
      (∀ (o : Outlet) (since : Nat), s.saf.imdSince.get o = some since → s.saf.imdFault.getLsbD o.val = false →
        exec (.imdFault o) s = .next ((((s.runTo (since + sec 1)).modSaf fun f =>
          { f with imdFault := f.imdFault ||| bit 8 o.val }).raiseAt .saf 14 o.val 0 0).raiseOut o 5)) ∧
      (s.saf.srcGlb.getLsbD 5 = false → exec .tickTokenLost s =
        .next ((((s.runToFleet ((s.lne.tick + 4 - s.saf.tokenMiss) * 20000)).modSaf fun f => { f with tokenMiss := 3 }).raiseGlb 5).syncControlFault)) ∧
      (∀ x : Rails,
        let fine : Prop := 740 ≤ x.core ∧ x.core ≤ 880 ∧ 3000 ≤ x.io
        (¬ fine → 2000 ≤ x.held → exec (.supplyFault x) s =
          .next (((s.modSaf fun f => { f with supplyGood := none }).raiseGlb 6).syncControlFault)) ∧
        (fine ∨ x.held < 2000 → exec (.supplyFault x) s = .next s) ∧
        (fine → 10000000 ≤ x.held → s.saf.srcGlb.getLsbD 6 = true → exec (.supplyRecovered x) s =
          .next (((s.modSaf fun f => { f with supplyGood := some s.clk.cycle }).clearGlb 6).syncControlFault)) ∧
        (¬ fine ∨ x.held < 10000000 → exec (.supplyRecovered x) s = .next s))) ∧
    (∀ (r : Ring) (d : Desc), s.due r d = true →
      let t := s.takeUp r d
      let p := t.jposOf r d.seq
      (∀ o : Outlet, d.target.toNat = o.val → exec (.safSeoDemand r d) s =
        .next (((t.modSaf fun f => { f with hostOut := vmod f.hostOut o fun _ => p }).raiseOut o 0).complete r d.seq 0 0)) ∧
      (8 ≤ d.target.toNat → exec (.safSeoDemand r d) s =
        .next (((t.modSaf fun f => { f with hostGlb := p }).raiseGlb 0).complete r d.seq 0 0)) ∧
      (let one := fun (a : Acd) (u : State) => (u.modSaf fun f => { f with hostSto := vmod f.hostSto a fun _ => p }).raiseSto a 0
       (∀ a : Acd, d.target.toNat = a.val → exec (.safStoDemand r d) s = .next ((one a t).complete r d.seq 0 0)) ∧
       (4 ≤ d.target.toNat → exec (.safStoDemand r d) s = .next ((t.forAll one).complete r d.seq 0 0))) ∧
      exec (.safSiteStop r d) s = .next (((t.originate 0).flushTrig).complete r d.seq 0 0))

/-- 10 R242, R246, R249, R529: stop inputs, contactor release, SAF_RESET. -/
def Obligations.StopInputsAndReleasesAct : Prop :=
  ∀ s : State,
    (s.supplied = true →
      (∀ (e : Fin 4) (a b : Bool) (held : Nat), held < 2000 → exec (.estop e a b held) s = .next s) ∧
      (∀ (e : Fin 4) (a b : Bool) (held : Nat), 2000 ≤ held →
        let t := s.estopLevels e a b
        (t.estopLow e = false ∨ t.saf.latched.getLsbD e.val = true → exec (.estop e a b held) s = .next t.flushTrig) ∧
        (t.estopLow e = true → t.saf.latched.getLsbD e.val = false →
          let u := ((t.modSaf fun f => { f with latched := f.latched ||| bit 4 e.val }).raiseAt .saf 3 e.val 0 0).estopSources
          (u.estopSite e = true → exec (.estop e a b held) s = .next (u.originate (bit 4 e.val)).flushTrig) ∧
          (u.estopSite e = false → exec (.estop e a b held) s = .next u.flushTrig))) ∧
      (∀ (e : Fin 4) (since : Nat), s.saf.disagree.get e = some since → s.saf.discrepancy.getLsbD e.val = false →
        exec (.estopDiscrepancy e) s = .next (((s.runTo (since + ms 500)).modSaf fun f =>
          { f with discrepancy := f.discrepancy ||| bit 4 e.val }).raiseAt .saf 4 e.val 0 0)) ∧
      (∀ (o : Outlet) (since : Nat), s.saf.seoSince.get o = some since → s.seoOut o = true →
        exec (.contactorRelease o) s = .next ((s.runTo (since + us 100)).setDrives o false)) ∧
      (∀ (o : Outlet) (c : OutletCfg) (since : Nat), s.outCfg o = some c → s.saf.permitSince.get o = some since → s.saf.permit.get o = false →
        exec (.permitLost o) s = .next ((s.runTo (since + ms (c.stopMs + 40))).setDrives o false)) ∧
      (s.saf.brkTrip = true → exec .brkPulseEnd s = .next ((s.runTo s.saf.brkUntil).modSaf fun f => { f with brkTrip := false })) ∧
      (s.saf.brkTrip = false → exec .brkPulseEnd s = .next s)) ∧
    (∀ (r : Ring) (d : Desc), s.due r d = true →
      let t := s.takeUp r d
      let named : Nat → Bool := fun k => (d.b 24).getLsbD k
      let go : Nat → (State → State × Bool) → State → State × Bool := fun k f u => if named k = true then f u else (u, false)
      let u0 := go 0 (·.resetHost d.target (t.jposOf r d.seq)) (t.runToFleet (t.nextTick * 20000))
      let u1 := go 1 (·.resetSto d.target (t.jposOf r d.seq)) u0.1
      let u2 := go 2 (·.resetEstop d.target) u1.1
      let u3 := go 3 (·.resetContact d.target) u2.1
      let u4 := go 4 (·.resetSite) u3.1
      let u5 := go 5 (·.resetReadback d.target) u4.1
      let put : Nat → Bool → Word := fun k ok => if ok = true then bit 32 k else 0
      let done : Word := put 0 u0.2 ||| put 1 u1.2 ||| put 2 u2.2 ||| put 3 u3.2 ||| put 4 u4.2 ||| put 5 u5.2
      exec (.safReset r d) s = .next (u5.1.flushTrig.complete r d.seq (if done = (bitsOf (d.b 24) 0 6 : BitVec 6).setWidth 32 then 0 else 1) done))

/-- 02 R44; 10 R253-R257, R259, R261: safe frames. -/
def Obligations.SafeFramesAreJudged : Prop :=
  ∀ s : State, s.supplied = true →
    (exec (.heartbeatSend false) s = .next (((s.runToOffset 205000).dropAnnounced).heartbeat false)) ∧
    (exec (.heartbeatSend true) s = .next (if s.saf.trig = true then s.heartbeat true else s)) ∧
    (∀ (p : Port) (h : Hdr) (f : SafeFrame), exec (.heartbeatReceive p h f) s = .next (s.rx p h fun t =>
      if t.safeArrives p h = false then t.modPort p fun x => { x with cntDrop := satInc x.cntDrop }
      else
        let u := t.modPort p fun x => { x with lastSafe := some h.seq }
        let c := t.saf.conn.get p
        let v := safeVerdict c (connRegatta t.rgt.crew h.src t.rgt.id) (t.saf.siteMaxAge.toNat * 1000000) t.now f
        let w := u.modSaf fun z => { z with conn := vmod z.conn p fun c => c.after v f }
        if v ≠ 0 then w.countReject v
        else if (w.siteEval.saf.conn.get p).got = 2 then (f.entries.foldl (fun x e => x.stopEntry e) w.siteEval).flushTrig else w.siteEval)) ∧
    (∀ q : Port, (s.saf.conn.get q).got ≠ 0 →
      let c := s.saf.conn.get q
      let age := s.saf.siteMaxAge.toNat * 1000000
      let t := s.runToFleet (c.lastTime + age)
      c.lastTime + age ≤ t.now →
      exec (.connExpired ⟨q.val, by omega⟩) s = .next (((t.modSaf fun f =>
        { f with conn := vmod f.conn q fun x => { x with got := 0, ref := false, expired := x.expired || c.got == 2 } }).expireConn c.got).siteEval)) ∧
    (∀ a : Acd, (s.saf.acd.get a).conn.got ≠ 0 →
      let c := (s.saf.acd.get a).conn
      let age := (s.saf.acd.get a).maxAge.toNat * 1000000
      let t := s.runToFleet (c.lastTime + age)
      c.lastTime + age ≤ t.now →
      exec (.connExpired ⟨a.val + 4, by omega⟩) s = .next (((t.modSaf fun f =>
        { f with acd := vmod f.acd a fun x =>
            { x with conn := { x.conn with got := 0, ref := false, expired := x.conn.expired || c.got == 2 } } }).expireConn c.got).raiseSto a 4)) ∧
    (∀ a : Acd, (s.saf.acd.get a).en = true →
      let x := s.saf.acd.get a
      let t := s.runTo (x.lastTx + ms x.period.toNat)
      let b0 : Byte := (if t.saf.srcSto.get a ≠ 0 then 1 else 0) ||| (if t.motionOk a = true then 2 else 0)
      exec (.acdFrameSend a) s = .next (t.modSaf fun f =>
        { f with acd := vmod f.acd a fun x => { x with lastTx := t.clk.cycle, conn := { x.conn with txSeq := x.conn.txSeq + 1 } },
                 acdOut := f.acdOut ++ [(a, SafeFrame.make (connAcd 2 a t.rgt.id) (x.conn.txSeq + 1) t.now [b0, BitVec.ofNat 8 (t.out.get x.outlet).st.code])] })) ∧
    (∀ (a : Acd) (f : SafeFrame), (s.saf.acd.get a).en = true →
      let x := s.saf.acd.get a
      let v := safeVerdict x.conn (connAcd 3 a s.rgt.id) (x.maxAge.toNat * 1000000) s.now f
      let t := s.modSaf fun z => { z with acd := vmod z.acd a fun x => { x with conn := x.conn.after v f } }
      (v ≠ 0 → exec (.acdFrameReceive a f) s = .next (t.countReject v)) ∧
      (v = 0 → 1 ≤ x.conn.got → exec (.acdFrameReceive a f) s = .next
        ((t.modSaf fun z => { z with acd := vmod z.acd a fun x => { x with flags := f.b0 } }).clearSto a 4)) ∧
      (v = 0 → x.conn.got = 0 → exec (.acdFrameReceive a f) s = .next t)) ∧
    (∀ (origin : CtrlId) (x : RelAnn), (s.saf.announcing.find? fun a => a.origin == origin) = some x →
      exec (.releaseAnnounceEnd origin) s = .next ((s.runToFleet (x.rounds * 250000)).modSaf fun f =>
        { f with announcing := f.announcing.filter fun a => decide ((s.runToFleet (x.rounds * 250000)).round < a.rounds) }))

/-- 10 R239-R241: what raising a source of safe energy off does at once. -/
def Obligations.SafeEnergyOffDropsTheGates : Prop :=
  ∀ s : State,
    (∀ b : Nat, s.saf.srcGlb.getLsbD b = true → s.raiseGlb b = s) ∧
    (∀ b : Fin 10, s.saf.srcGlb.getLsbD b.val = false →
      let t := s.raiseGlb b.val
      t.saf.srcGlb = s.saf.srcGlb ||| bit 10 b.val ∧ t.saf.srcOut = s.saf.srcOut ∧ t.saf.srcSto = s.saf.srcSto ∧
      (∀ n : Phase, t.saf.gateEn.getLsbD n.val = false) ∧ (∀ o : Outlet, (t.saf.seoSince.get o).isSome = true) ∧
      (t.evGet .saf).flags = (s.evGet .saf).flags ||| bit 32 1 ∧
      t.reg = s.reg ∧ t.out = s.out ∧ t.saf.ocp = s.saf.ocp ∧ t.saf.ocm = s.saf.ocm ∧ t.ring = s.ring ∧ t.win = s.win ∧ t.cfg = s.cfg) ∧
    (∀ (o : Outlet) (b : Nat), (s.saf.srcOut.get o).getLsbD b = true → s.raiseOut o b = s) ∧
    (∀ (o : Outlet) (b : Fin 6), (s.saf.srcOut.get o).getLsbD b.val = false →
      let t := s.raiseOut o b.val
      t.saf.srcGlb = s.saf.srcGlb ∧ t.saf.srcOut.get o = s.saf.srcOut.get o ||| bit 6 b.val ∧
      (∀ p : Outlet, p ≠ o → t.saf.srcOut.get p = s.saf.srcOut.get p) ∧ t.saf.srcSto = s.saf.srcSto ∧
      (∀ n : Phase, s.inGroup o n = true → t.saf.gateEn.getLsbD n.val = false) ∧
      (∀ (n : Phase) (v : MoveSt), s.mtx.move.get n = some v → v.src = some o ∨ v.dst = o → t.saf.gateEn.getLsbD n.val = false) ∧
      (∀ n : Phase, t.saf.gateEn.getLsbD n.val = true → s.saf.gateEn.getLsbD n.val = true) ∧
      (t.saf.seoSince.get o).isSome = true ∧
      (t.evGet .saf).flags = (s.evGet .saf).flags ||| bit 32 0 ∧
      t.reg = s.reg ∧ t.out = s.out ∧ t.saf.ocp = s.saf.ocp ∧ t.saf.ocm = s.saf.ocm ∧ t.ring = s.ring ∧ t.win = s.win ∧ t.cfg = s.cfg)

/-- 11 R274-R283: the comparison, the verdict, the stop. -/
def Obligations.CoxComparesAndTheRefereeJudges : Prop :=
  ∀ s : State, s.supplied = true →
    (∀ (p q : Option TickRec) (landed : List (Word × Word)), s.pwr.controlReady = true → s.lne.ticked = true → s.lne.coxDead = false →
      let a := p.map tickRecWords
      let b := q.map tickRecWords
      let agreed := writeDigest landed
      let t := (s.runToFleet (s.lne.tick * 20000 + 15000)).kickCox
      let both : Prop := s.laneIn 0 = true ∧ s.laneIn 1 = true
      (s.lne.stopped = true → exec (.tickCompare p q landed) s = .next t) ∧
      (s.lne.stopped = false → both → s.recsAgree a b agreed = true → exec (.tickCompare p q landed) s = .next (t.tickMatch (recWords a))) ∧
      (s.lne.stopped = false → both → s.recsAgree a b agreed = false →
        let t1 := (t.modLne fun x => { x with cntMismatch := satInc x.cntMismatch, record := #v[recWords a, recWords b] }).raise .lne 0
        let ca := t1.referee 0 a agreed
        let cb := t1.referee 1 b agreed
        let t2 := t1.discardGated
        exec (.tickCompare p q landed) s = .next (
          if ca ≠ 0 ∧ cb = 0 then t2.verdict 0 ca b
          else if ca = 0 ∧ cb ≠ 0 then t2.verdict 1 cb a
          else if t2.lne.drillLeft = 0 then t2.coxStop else t2.coxStop.drillEnd false t2.coxStop.lne.driving)) ∧
      (s.lne.stopped = false → ¬ both →
        let w := if s.lne.driving = true then b else a
        (t.referee (laneOf s.lne.driving) w agreed ≠ 0 → exec (.tickCompare p q landed) s = .next (t.discardGated).coxStop) ∧
        (t.referee (laneOf s.lne.driving) w agreed = 0 → exec (.tickCompare p q landed) s = .next (t.tickMatch (recWords w))))) ∧
    (s.lne.tokenStopped = false → s.lne.stopped = true ∨ s.lne.coxDead = true →
      exec .tokenGateStop s = .next ((if s.allStopped = true ∧ s.lne.coxDead = false then s else s.runTo (s.lne.stoppedAt + ms 20)).modLne fun x =>
        { x with tokenStopped := true })) ∧
    (s.pwr.controlReady = true → s.lne.coxDead = false →
      let u := s.runTo (s.lne.lastKick + us 100)
      let t := (u.lne.held.filter fun w => !w.isClose).foldl State.landGated (u.modLne fun x => { x with held := [] })
      exec .coxDead s = .next ((t.modLne fun x =>
        { x with coxDead := true, stopAll := true, stoppedAt := if x.stopped = true then x.stoppedAt else t.clk.cycle }).raise .lne 5))

/-- 11 R281, R284-R289: lanes restart, resynchronise, drill. -/
def Obligations.LanesRestartResyncAndDrill : Prop :=
  ∀ s : State,
    (s.supplied = true →
      (s.lne.nextDriving.isSome = true → exec .laneTakeover s = .next ((s.runToFleet (s.nextTick * 20000)).takeOver)) ∧
      (s.lne.nextDriving = none → exec .laneTakeover s = .next s) ∧
      (∀ lane : Fin 2, s.lne.state.get lane = .restarting →
        let recent := ((s.lne.restartTimes.get lane).filter fun t => decide (s.clk.cycle < t + sec 1)).length
        (3 ≤ recent → exec (.restartComplete lane true) s = .next (s.laneDead lane)) ∧
        (recent < 3 → exec (.restartComplete lane true) s = .next (s.modLne fun x =>
          { x with state := vmod x.state lane fun _ => .resync, since := vmod x.since lane fun _ => s.nextTick })) ∧
        exec (.restartComplete lane false) s = .next s ∧
        exec (.restartTimeout lane) s = .next ((s.runTo (s.lne.since.get lane + ms 10)).laneDead lane)) ∧
      (∀ lane : Fin 2, s.lne.state.get lane = .resync → exec (.resynced lane) s =
        .next ((((s.runToFleet ((s.lne.since.get lane + 1) * 20000)).modSram (laneGroup lane) fun _ =>
          s.sram.get (laneGroup (laneOf s.lne.driving)).idx).modLne fun x =>
          { x with state := vmod x.state lane fun _ => .inStep, resyncFlag := true }).raise .lne 3)) ∧
      (∀ (r : Ring) (q : DWord) (due : Nat), s.lne.drill = some (r, q, due) → s.lne.drillLeft = 0 → s.pwr.controlReady = true →
        s.laneIn 0 = true → s.laneIn 1 = true →
        let t := (s.runTo due).runToFleet ((s.runTo due).nextTick * 20000)
        exec .drillTick s = .next ((((t.modLne fun x => { x with last := 0 }).nameLane !t.lne.driving).takeOver).modLne fun x =>
            { x with last := t.lne.last, drillLeft := 8, drillStart := t.now, cntDrill := satInc x.cntDrill }))) ∧
    (∀ (r : Ring) (d : Desc), s.due r d = true →
      let t := s.takeUp r d
      (s.lne.drill = none → exec (.lneSwapDrill r d) s = .next (t.modLne fun x => { x with drill := some (r, d.seq, s.clk.cycle) })) ∧
      (s.lne.drill.isSome = true → exec (.lneSwapDrill r d) s = .next (t.complete r d.seq 1 (if s.lne.driving = true then 1 else 0))) ∧
      (∀ lane : Fin 2, (d.b 24).toNat = lane.val →
        (s.lne.state.get lane = .dead → s.lne.stopped = false → exec (.lneLaneRestore r d) s =
          .next (((t.modLne fun x => { x with restartTimes := vmod x.restartTimes lane fun _ => [] }).restartLane lane).complete r d.seq 0 0)) ∧
        (s.lne.state.get lane ≠ .dead ∨ s.lne.stopped = true → exec (.lneLaneRestore r d) s = .next (t.complete r d.seq 0 0))))

/-- 12 R293, R297-R299; 14 R350: what a legal sample adds. -/
def Obligations.ALegalSampleEntersEveryNet : Prop :=
  ∀ (s : State) (x : LegalIn), s.supplied = true →
    let val : MLane → Int := fun n =>
      if n.val < 22 ∧ s.met.laneFault.getLsbD n.val = true then 0 else s.laneCode n (s.met.k.get n) (x.code.get n)
    ∃ t : State, exec (.legalSample x) s = .next t ∧
      (∀ o : Outlet, s.hasOutlet o = true →
        t.met.accOut.get o = s.met.accOut.get o + val (laneV o) * val (laneI o) ∧
        (t.met.sums.get o).v = (s.met.sums.get o).v + val (laneV o) ∧ (t.met.sums.get o).i = (s.met.sums.get o).i + val (laneI o) ∧
        (t.met.sums.get o).n = (s.met.sums.get o).n + 1) ∧
      (∀ o : Outlet, s.hasOutlet o = false → t.met.accOut.get o = s.met.accOut.get o ∧ t.met.sums.get o = s.met.sums.get o) ∧
      t.met.accP = s.met.accP + val 16 * val 19 + val 17 * val 20 + val 18 * val 21 ∧ t.met.accQ = s.met.accQ ∧
      t.met.session = s.met.session ∧ t.bil = s.bil ∧
      t.bat.acc = s.bat.acc + val 23 ∧ t.bat.vSum = s.bat.vSum + val 22 ∧ t.bat.c = s.bat.c ∧ t.bat.soc = s.bat.soc ∧
      (s.met.capture = none → (∀ a, t.memRead a = s.memRead a) ∧
        { t with clk := s.clk, line := s.line, met := s.met, bat := s.bat } = s)

/-- 12 R297, R300-R302, R305, R307, R308, R311: lane faults, windows, sensors, dark charge, captures. -/
def Obligations.LanesWindowsAndCapturesAreNoted : Prop :=
  ∀ s : State,
    (s.supplied = true →
      (∀ (n : MLane) (bits : List Bool), s.hasLane n = true →
        let ones := bits.count true
        let t := s.modMet fun m => { m with laneBadAt := vmod m.laneBadAt n fun _ => s.clk.cycle }
        (bits.length = 200 → ones < 4 ∨ 196 < ones → s.met.laneFault.getLsbD n.val = false →
         exec (.laneFault n bits) s = .next (((t.modDia fun d => { d with laneFaults := vmod d.laneFaults n fun k => clampU 8 (k.toNat + 1) }).withErr fun t =>
          t.modMet fun m =>
            { m with laneFault := m.laneFault ||| bit 24 n.val,
                     netFault := match netOf n with | some k => m.netFault ||| bit 9 k.val | none => m.netFault }).raiseAt .met 0 n.val 0 0)) ∧
        (bits.length = 200 → ones < 4 ∨ 196 < ones → s.met.laneFault.getLsbD n.val = true → exec (.laneFault n bits) s = .next t) ∧
        (bits.length ≠ 200 ∨ (4 ≤ ones ∧ ones ≤ 196) → exec (.laneFault n bits) s = .next s)) ∧
      (∀ n : MLane, s.met.laneFault.getLsbD n.val = true →
        exec (.laneClear n) s = .next (((s.runTo (s.met.laneBadAt.get n + ms 10)).modMet fun m => { m with laneFault := m.laneFault &&& ~~~ bit 24 n.val }).raiseAt .met 1 n.val 0 0)) ∧
      (∀ n : MLane, s.met.laneFault.getLsbD n.val = false → exec (.laneClear n) s = .next s) ∧
      (∀ g : GridIn, ∃ t : State, exec (.gridWindowEnd g) s = .next t ∧
        t.met.freq = (if g.ref.isSome = true then g.freq else 0) ∧ t.met.window = s.met.window + 1 ∧ t.met.noVoltage = !g.ref.isSome ∧
        (∀ p : Fin 3, t.met.grid.get p = gridQty g p g.ref.isSome) ∧
        t.met.accQ = s.met.accQ + (reactiveUnits g g.length - if s.legalOn = true then reactiveUnits g (s.windowLate g.length) else 0) ∧
        t.bil = (if s.legalOn = true ∧ s.windowLate g.length ≠ 0 then s.closeLate (reactiveUnits g (s.windowLate g.length)) else s).bil ∧
        t.met.accP = s.met.accP ∧ t.met.accOut = s.met.accOut) ∧
      (∀ i : Fin 9,
        (s.met.reversed.getLsbD i.val = false → (if i.val < 8 then 10 else 60) ≤ s.met.revRun.get i →
          exec (.reversedSensor i) s = .next (((s.modMet fun m =>
            { m with reversed := m.reversed ||| bit 9 i.val,
                     session := vmapIdx m.session fun o x => if o.val = i.val && x.running then { x with flags := x.flags ||| 16 } else x }).raiseAt
              .met 4 i.val 0 0).tamperEvent 6 s.now)) ∧
        (s.met.reversed.getLsbD i.val = true ∨ s.met.revRun.get i < (if i.val < 8 then 10 else 60) → exec (.reversedSensor i) s = .next s)) ∧
      (∀ c : CaptureRun, s.met.capture = some c →
        (c.bytes = c.refs.length * 4096 → exec .captureDone s = .next (((s.modMet fun m => { m with capture := none }).raise .met 6).completeAt
          c.ring c.seq 0 (BitVec.ofNat 32 c.bytes) (c.first.getD s.now))) ∧
        (c.bytes ≠ c.refs.length * 4096 → exec .captureDone s = .next s))) ∧
    (∀ x : Vector (Vector Int 32) 8,
      (s.pwr.mode = .hold →
        let second := (s.now / 1000000000 + 1) * 1000000000
        let powered := (s.runToFleet second).modPwr fun p => { p with burst := .powered }
        let clocked := (powered.runCycles (us 500)).modPwr fun p => { p with burst := .clocked }
        exec (.darkBurst x) s = .next (((clocked.forAll fun (o : Outlet) u =>
          let i := ((sumFinI 32 fun k => u.laneCode (laneI o) 0 ((x.get o).get k)).tdiv 32).natAbs
          let n := u.met.darkRem.get o + 10 * i
          if u.hasOutlet o = true ∧ u.laneUser (laneI o) 0 8388607 < 200 * i then
            u.modMet fun m =>
              { m with dark := vmod m.dark o (· + n / 36), darkRem := vmod m.darkRem o fun _ => n % 36, darkPending := true,
                       darkFirst := vmod m.darkFirst o fun y => y <|> some second, darkLast := vmod m.darkLast o fun _ => second }
          else u).runCycles (ms 1)).modPwr fun p => { p with burst := .off })) ∧
      (s.pwr.mode ≠ .hold → exec (.darkBurst x) s = .next s)) ∧
    (∀ (r : Ring) (d : Desc), s.due r d = true → exec (.metCapture r d) s = .next ((s.takeUp r d).modMet fun m =>
      { m with capture := some ⟨r, d.seq, bitsOf (d.w 24) 0 24, d.b 27 == 1, (s.takeUp r d).listRefs (d.w 28) (d.w 32).toNat, 0, none⟩ }))

/-- 12 R303, R304, R312; 13 R319, R324, R325, R328, R339: the legal domain's instants. -/
def Obligations.LegalInstantsAreProcessedOnce : Prop :=
  ∀ s : State,
    (let t := ((if s.legalOn = true then s.met.second else s.now / 1000000000) + 1) * 1000000000
     let u := s.runToFleet t
     let v := if s.supplied = true then u.modClk fun c => { c with rtcFix := c.fleetFix } else u
     (consumedAt s.met.doneAt s.now = true → exec .secondBoundary s = .next (s.modMet fun m => { m with doneAt := none })) ∧
     (consumedAt s.met.doneAt s.now = false → v.legalOn = false → exec .secondBoundary s = .next v) ∧
     (consumedAt s.met.doneAt s.now = false → v.legalOn = true →
       (v.nextBoundaryFleet ≠ t → exec .secondBoundary s = .next (v.instant t true false (v.signalsAt t))) ∧
       (v.nextBoundaryFleet = t → exec .secondBoundary s =
         .next ((v.instant t true true (v.signalsAt t)).modBil fun b => { b with doneAt := some t })))) ∧
    (let t := s.nextBoundaryFleet
     let u := s.runToFleet t
     let sc : Bool := decide ((s.met.second + 1) * 1000000000 = t)
     let v := u.instant t sc true (u.signalsAt t)
     let w := if sc = true then v.modMet fun m => { m with doneAt := some t } else v
     (consumedAt s.bil.doneAt s.now = true → exec .intervalEnd s = .next (s.modBil fun b => { b with doneAt := none })) ∧
     (consumedAt s.bil.doneAt s.now = false → s.legalOn = false → exec .intervalEnd s = .next s) ∧
     (consumedAt s.bil.doneAt s.now = false → s.legalOn = true → exec .intervalEnd s = .next w) ∧
     (∀ (r : Ring) (d : Desc), s.legalOn = true → s.tariffSets.contains (r, d) = true → d.notBefore.toNat ≤ t →
       exec (.bilTariffSet r d) s = .next (w.modBil fun b => { b with doneAt := some t }))) ∧
    (∀ (o : Outlet) (start : Bool) (x : Outlet × Bool × Word × Nat × Byte), s.legalOn = true →
      (s.met.signals.find? fun y => y.1 == o && y.2.1 == start) = some x →
      let t := x.2.2.2.1
      ((s.met.second + 1) * 1000000000 ≠ t → s.nextBoundaryFleet ≠ t →
        exec (.sessionEvent o start) s = .next (s.instant t false false (s.signalsAt t)))) ∧
    (∀ (x : StepRec) (l : List StepRec), s.legalOn = true → s.bil.stepPend = x :: l →
      exec .clockStep s = .next (((((s.modBil fun b => { b with stepPend := l }).closeNets).clockStepAt x s.now).publish 0 s.now).exportAt s.now)) ∧
    (∀ (y : Fin 3) (held : Nat),
      let need : Nat := if y = 2 then 1000000000 else 10000000
      (s.pwr.mode ≠ .ship →
        (need ≤ held → s.bil.tamperArm.getLsbD y.val = true → exec (.tamper y true held) s =
          .next ((s.modBil fun b => { b with tamperArm := b.tamperArm &&& ~~~ bit 3 y.val }).tamperEvent ⟨y.val, by omega⟩ s.now)) ∧
        (held < need ∨ s.bil.tamperArm.getLsbD y.val = false → exec (.tamper y true held) s = .next s) ∧
        (10000000 ≤ held → exec (.tamper y false held) s = .next (s.modBil fun b => { b with tamperArm := b.tamperArm ||| bit 3 y.val })) ∧
        (held < 10000000 → exec (.tamper y false held) s = .next s)) ∧
      (s.pwr.mode = .ship → ∀ low : Bool, exec (.tamper y low held) s = .next s))

/-- 12 R297, R298, R303; 13 R316: what the close of a net posts and carries. -/
def Obligations.ANetClosePostsWholeMilliwattHours : Prop :=
  ∀ s : State,
    (∀ o : Outlet, s.hasOutlet o = true → ∃ e : Int,
      let t := s.closeOutlet o
      let tot := s.met.accOut.get o + s.bil.core.remOut.get o
      let rem := t.bil.core.remOut.get o
      let reg := (s.bil.core.outlets.get o).get s.tariffIx
      t.met.accOut.get o = 0 ∧ tot = e * 281250000000 + rem ∧ rem.natAbs < 281250000000 ∧ (0 < rem → 0 < tot) ∧ (rem < 0 → tot < 0) ∧
      (t.bil.core.outlets.get o).get s.tariffIx = { reg with imp := reg.imp + e.toNat, exp := reg.exp + (-e).toNat } ∧
      (∀ k, k ≠ s.tariffIx → (t.bil.core.outlets.get o).get k = (s.bil.core.outlets.get o).get k) ∧
      (∀ p : Outlet, p ≠ o → t.bil.core.outlets.get p = s.bil.core.outlets.get p ∧ t.bil.core.remOut.get p = s.bil.core.remOut.get p ∧
        t.met.accOut.get p = s.met.accOut.get p) ∧
      t.bil.core.grid = s.bil.core.grid ∧ t.bil.core.remP = s.bil.core.remP ∧ t.met.accP = s.met.accP ∧ t.met.accQ = s.met.accQ) ∧
    (∀ o : Outlet, s.hasOutlet o = false → s.closeOutlet o = s) ∧
    (∃ e q : Int,
      let t := s.closeGrid
      let g := s.bil.core.grid.get s.tariffIx
      t.met.accP = 0 ∧ t.met.accQ = 0 ∧
      s.met.accP + s.bil.core.remP = e * 281250000000 + t.bil.core.remP ∧ t.bil.core.remP.natAbs < 281250000000 ∧
      s.met.accQ + s.bil.core.remQ = q * 281250000000 + t.bil.core.remQ ∧ t.bil.core.remQ.natAbs < 281250000000 ∧
      (t.bil.core.grid.get s.tariffIx).imp = g.imp + e.toNat ∧ (t.bil.core.grid.get s.tariffIx).exp = g.exp + (-e).toNat ∧
      (∀ k, k ≠ s.tariffIx → t.bil.core.grid.get k = s.bil.core.grid.get k) ∧
      t.bil.core.outlets = s.bil.core.outlets ∧ t.met.accOut = s.met.accOut)

/-- 13 R333, R334, R337, R338, R343, R346: receipts, exports, displays. -/
def Obligations.ReceiptsExportsAndDisplaysAct : Prop :=
  ∀ s : State,
    (∀ (number : Nat) (signed verified : Bool) (x : Receipt), s.bil.legalUp = true → (s.bil.unsignedR.find? fun y => y.number == number) = some x →
      let ok := signed && s.canSign
      let full := decide (128 ≤ s.bil.receipts.length)
      let t := ((s.withErr fun t => t.modBil fun b =>
        { b with unsignedR := b.unsignedR.filter fun y => y.number != number, receipts := ({ x with signed := ok } :: b.receipts).take 128,
                 errSign := b.errSign || !ok, errStore := b.errStore || !verified, cntOverwritten := if full = true then satInc b.cntOverwritten else b.cntOverwritten }).modKey fun k =>
          { k with cntSign := if ok = true then satInc k.cntSign else k.cntSign }).raise .bil 6
      exec (.receiptReady number signed verified) s = .next (if full = true then t.raise .bil 7 else t)) ∧
    (∀ (number : Nat) (signed verified : Bool), (s.bil.unsignedR.find? fun y => y.number == number) = none ∨ s.bil.legalUp = false → exec (.receiptReady number signed verified) s = .next s) ∧
    (∀ (r : Ring) (d : Desc), s.due r d = true →
      let t := s.takeUp r d
      (∀ x : Receipt, s.receipt? (d.w 24) = some x → exec (.bilReceiptFetch r d) s =
        .next ((t.memWriteList ((pageOf (d.w 28)).val * 4096) (x.bytes t.receiptKey)).complete r d.seq 0 (BitVec.ofNat 32 (x.bytes t.receiptKey).length))) ∧
      exec (.bilExport r d) s = .next (t.modBil fun b => { b with exportRun := some (r, d) })) ∧
    (∀ (o : Fin 8) (c : DisplayCfg), (s.bil.disp.get o).entry = some c →
      let x := s.bil.disp.get o
      (s.legalOn = true →
        (let t := s.runTo (x.since + sec c.dwell)
         (x.item + 1 < (DispSt.codes c).length → exec (.displayDwell o) s =
           .next ((t.modBil fun b => { b with disp := vmod b.disp o fun y => { y with item := y.item + 1, since := t.clk.cycle } }).dispShow o)) ∧
         ((DispSt.codes c).length ≤ x.item + 1 → exec (.displayDwell o) s = .next (t.dispStart o))) ∧
        (let t := s.runTo (x.lastPoll + sec 1)
         exec (.displayPoll o) s = .next ((t.modBil fun b =>
           { b with disp := vmod b.disp o fun y => { y with lastPoll := t.clk.cycle, waiting := some t.clk.cycle } }).dispSend c 2 0 (List.replicate 32 32#8)))) ∧
      (∀ w : Nat, s.bil.legalUp = true → x.waiting = some w →
        (∀ st : Byte, st.getLsbD 0 = true →
          let crc : Half := crc16 [BitVec.ofNat 8 c.pos, st]
          exec (.displayAnswer o [BitVec.ofNat 8 c.pos, st, bitsOf crc 0 8, bitsOf crc 8 8]) s = .next (s.modBil fun b =>
            { b with dispFaulty := b.dispFaulty &&& ~~~ dispBit c, disp := vmod b.disp o fun y => { y with waiting := none, missed := 0 } })) ∧
        (let t := (s.runTo (w + ms 10)).modBil fun b => { b with disp := vmod b.disp o fun y => { y with waiting := none, missed := y.missed + 1 } }
         ∀ bytes : List Byte,
         (bytes.length ≠ 4 ∨ bytes[0]? ≠ some (BitVec.ofNat 8 c.pos) ∨ (∃ y, bytes[1]? = some y ∧ y.getLsbD 0 = false) ∨
           (∃ y z, bytes[2]? = some y ∧ bytes[3]? = some z ∧ z ++ y ≠ crc16 (bytes.take 2))) →
         (x.missed < 2 ∨ s.bil.dispFaulty &&& dispBit c ≠ 0 → exec (.displayAnswer o bytes) s = .next t) ∧
         (2 ≤ x.missed → s.bil.dispFaulty &&& dispBit c = 0 → exec (.displayAnswer o bytes) s =
           .next ((t.withErr fun t => t.modBil fun b => { b with dispFaulty := b.dispFaulty ||| dispBit c }).raise .bil 10))))) ∧
    (∀ o : Fin 8, s.legalOn = true → (s.bil.disp.get o).entry = none → exec (.displayDwell o) s = .next (s.dispStart o))

/-- 14 R353, R354, R357, R359-R362: held steps, timers, descriptors. -/
def Obligations.HeldStepsAndBatteryTimers : Prop :=
  ∀ s : State,
    (s.supplied = true →
      (∀ (w : List (Ring × DWord)) (k : Nat), s.bat.heldReq = some (w, k) → s.alc.st = .normal →
        exec .heldStepStart s = .next ((s.runToFleet (k + 20000)).runToOffset 150000).heldStart) ∧
      (∀ (h : HeldRun) (b : BatCfg), s.bat.heldRun = some h → s.cfg.active.battery = some b →
        let t := s.runToFleet (h.start + 120000 * 250000)
        exec .heldDone s = .next ((((t.trueRefTaken (t.socV b) 150).modBat fun x => { x with cntHeld := satInc x.cntHeld }).raise .bat 8).heldEnd 0)) ∧
      (∀ (b : BatCfg) (k : Nat), s.cfg.active.battery = some b → (s.bat.eodSince <|> s.bat.eocSince) = some k →
        exec .batteryEnd s = .next ((s.runTo (k + sec 1)).batEnds b).heldCheck) ∧
      (s.bat.present = true → exec .batteryHistoryWrite s =
        .next (((s.runTo (s.bat.lastHistory + sec 60)).batStore).modBat fun x =>
          { x with lastHistory := (s.runTo (s.bat.lastHistory + sec 60)).clk.cycle })) ∧
      (s.pwr.mode = .run →
        let t := s.runTo (s.bat.lastEstimate + sec 60)
        let vbak : Half := BitVec.ofNat 16 (t.thm.supply.get 5)
        let e := bakEstimate vbak.toNat
        let u := t.modBat fun x =>
          { x with vbak := vbak, bakEst := BitVec.ofNat 8 e, bakLow := decide (e < 20), bakCrit := decide (e < 5), lastEstimate := t.clk.cycle }
        (e < 20 → s.bat.bakLow = false → exec .bakEstimate s = .next (u.raise .bat 11)) ∧
        (20 ≤ e ∨ s.bat.bakLow = true → exec .bakEstimate s = .next u)) ∧
      (∀ (v1 i1 v2 i2 : Int) (spread k : Nat) (b : BatCfg), s.bat.meas = some k → s.cfg.active.battery = some b →
        let u := (s.runTo (k + ms 5)).modBat fun x => { x with meas := none }
        let ti : Fin 8 := Fin.ofNat 8 (nearest (u.batTemp b) b.temps)
        let si : Fin 10 := Fin.ofNat 10 (min 9 (u.bat.soc / 1000))
        let cell : Int := ((s.bat.z.get ti).get si).toNat
        let r := ((v2 - v1) * 1000000).tdiv (i2 - i1)
        let ok : Prop := i2 - i1 ≠ 0 ∧ (if 0 < i2 then b.chgI else b.disI) ≤ (i2 - i1).natAbs * 20 ∧ spread * 100 ≤ i2.natAbs ∧
          cell ≤ 4 * r ∧ r ≤ 4 * cell
        (ok → exec (.stepMeasurement v1 i1 v2 i2 spread) s = .next (u.modBat fun x =>
          { x with z := vmod x.z ti fun row => vmod row si fun _ => clampU 32 (cell + (r - cell).tdiv 8).toNat,
                   rLast := clampU 32 r.toNat, cntSteps := satInc x.cntSteps })) ∧
        (¬ ok → exec (.stepMeasurement v1 i1 v2 i2 spread) s = .next (u.modBat fun x => { x with cntReject := satInc x.cntReject })))) ∧
    (∀ (r : Ring) (d : Desc), s.due r d = true →
      let t := s.takeUp r d
      (s.bat.heldReq = none → exec (.batHeldStep r d) s =
        .next (t.modBat fun x => { x with heldReq := some ([(r, d.seq)], t.now), lastHeldReq := some t.now })) ∧
      (∀ w k, s.bat.heldReq = some (w, k) → exec (.batHeldStep r d) s =
        .next (t.modBat fun x => { x with heldReq := some (w ++ [(r, d.seq)], k), lastHeldReq := some t.now })) ∧
      exec (.batShip r d) s = .next ((t.modBat fun x => { x with shipArmed := !(d.b 24).getLsbD 0 }).complete r d.seq 0 0))

/-- 15 R370, R372, R530: doorbells and ring states. -/
def Obligations.DoorbellsAndRingStatesMove : Prop :=
  ∀ s : State, s.supplied = true →
    (∀ (f : Fn) (r : Ring) (v : Word), s.frozen (.pf f) = false → ringFn r = f →
      let q := s.ring.get r
      let b := s.beat (.pf f)
      (q.st = .disabled ∨ q.st = .held →
        exec (.ringDbSq (.pf f) r v) s = .next (b.modRing r fun q => { q with keptSq := some v }) ∧
        exec (.ringDbCq (.pf f) r v) s = .next (b.modRing r fun q => { q with keptCq := some v })) ∧
      (q.st = .frozen → exec (.ringDbSq (.pf f) r v) s = .next b ∧ exec (.ringDbCq (.pf f) r v) s = .next b) ∧
      (q.st = .running ∨ q.st = .draining →
        ((v - q.a).toNat ≤ q.entries → exec (.ringDbSq (.pf f) r v) s = .next (b.modRing r fun q => { q with p := v, waitDb := false })) ∧
        (q.entries < (v - q.a).toNat → exec (.ringDbSq (.pf f) r v) s = .next (b.raise (.ring f) 2)) ∧
        ((q.q - v).toNat ≤ q.entries → (v - q.c).toNat ≤ (q.q - q.c).toNat → exec (.ringDbCq (.pf f) r v) s = .next (b.consume r v)) ∧
        (q.entries < (q.q - v).toNat ∨ (q.q - q.c).toNat < (v - q.c).toNat → exec (.ringDbCq (.pf f) r v) s = .next (b.raise (.ring f) 2)))) ∧
    (∀ (f : Fn) (r : Ring) (v : Word), s.frozen (.pf f) = false → ringFn r ≠ f →
      exec (.ringDbSq (.pf f) r v) s = .next ((s.beat (.pf f)).freeze (.pf f) 3 (BitVec.ofNat 32 (r.val * 0x400))) ∧
      exec (.ringDbCq (.pf f) r v) s = .next ((s.beat (.pf f)).freeze (.pf f) 3 (BitVec.ofNat 32 (r.val * 0x400 + 4)))) ∧
    (∀ (f : Fn) (r : Ring) (w : Word), s.frozen (.pf f) = false → ringFn r = f →
      exec (.ringCtrlWrite (.pf f) r w) s = .next (((s.beat (.pf f)).modRing r fun q =>
        { q with classes := bitsOf w 1 5, vector := vectorOf f (bitsOf w 8 7) }).ringEnable r (w.getLsbD 0))) ∧
    (∀ (f : Fn) (on : Bool), exec (.busMasterEnable f on) s = .next ((s.modRingF f fun x => { x with busMaster := on }).forAll fun (r : Ring) t =>
      if ringFn r = f then
        (if on = true then (if (t.ring.get r).st = .held ∧ (t.ring.get r).en = true then t.ringRun r else t)
         else if (t.ring.get r).st = .running ∨ (t.ring.get r).st = .draining then t.ringGo r .held else t)
      else t)) ∧
    (∀ r : Ring,
      let q := s.ring.get r
      let drained : Prop := q.st = .draining ∧ q.outstanding = 0 ∧ q.committing = [] ∧ q.refusals = []
      (drained → exec (.drainDone r) s = .next (s.ringGo r .disabled)) ∧ (¬ drained → exec (.drainDone r) s = .next s)) ∧
    (∀ f : Fn, exec (.functionLevelReset f) s = .next (s.fnReset f 4))

/-- 15 R375, R378, R384-R389: completions, ring opcodes, interrupts, tunnels. -/
def Obligations.CompletionsTunnelsAndInterruptsAct : Prop :=
  ∀ s : State,
    (s.supplied = true →
      (∀ r : Ring,
        let t := s.commitComps r
        (∀ (j : JSlot) (c : Comp), t.nextComp r = .original j c → exec (.completionWrite r) s = .next ((t.runToFleet c.effect.toNat).writeComp r)) ∧
        ((∀ (j : JSlot) (c : Comp), t.nextComp r ≠ .original j c) → exec (.completionWrite r) s = .next (t.writeComp r))) ∧
      (∀ (v : IrqVec) (c : Nat), (s.irq.get v).timer = some c →
        exec (.irqModerationTimer v) s = .next ((s.runTo (c + us (s.irq.get v).time.toNat)).sendMsi v)) ∧
      (∀ (p : Port) (h : Hdr) (channel : BitVec 4) (msgId : Word) (index count : Nat) (length : Word) (bytes : List Byte),
        exec (.tunnelReceive p h channel msgId index count length bytes) s = .next (s.rxClass .data p h fun t =>
          if t.forMe h = false ∨ t.admitted = false ∨ ¬ (index < count ∧ count ≤ 33 ∧ bytes.length ≤ 1992) then t
          else
            let t := t.tunnelStale
            let source : BitVec 16 := h.crew ++ h.src
            let same : TunnelPart → Bool := fun a => a.source == source && a.channel == channel && a.msgId == msgId
            let old := (t.tun.parts.find? same).getD ⟨source, channel, msgId, length, count, [], t.clk.cycle⟩
            let got := (index, bytes) :: old.got.filter fun x => x.1 != index
            if got.length = old.count then
              (t.modTun fun x => { x with parts := x.parts.filter fun a => !same a }).tunnelDeliver source channel
                ((((List.range old.count).map fun i => ((got.find? fun x => x.1 == i).map (·.2)).getD []).flatten).take old.length.toNat)
            else t.modTun fun x => { x with parts := { old with got := got } :: x.parts.filter fun a => !same a })) ∧
      (∀ (a : TunnelPart) (l : List TunnelPart), s.tun.parts = a :: l →
        exec .tunnelTimeout s = .next (s.runTo (l.foldl (fun m x => min m x.since) a.since + ms 100)).tunnelStale) ∧
      (∀ (w : TunnelWait) (l : List TunnelWait), s.tun.recv = w :: l →
        exec .tunnelRecvTimeout s = .next (((s.runTo (w.since + sec 2)).modTun fun x => { x with recv := l }).complete w.ring w.seq 0 0))) ∧
    (∀ (r : Ring) (d : Desc), s.due r d = true →
      let t := s.takeUp r d
      exec (.ringNop r d) s = .next (t.complete r d.seq 0 0) ∧
      (s.fenceFree d = true → exec (.ringFence r d) s = .next (t.complete r d.seq 0 0)) ∧
      exec (.rgtTimeOfDay r d) s = .next (t.modTun fun x => { x with tod := x.tod ++ [(r, d.seq, d.q 24, t.acceptedAt r d.seq)] }) ∧
      (s.routeTo (bitsOf (d.h 24) 0 12) = none → exec (.rgtTunnelSend r d) s = .next (t.complete r d.seq 0 0)) ∧
      (∀ p : Port, s.routeTo (bitsOf (d.h 24) 0 12) = some p →
        let len := (d.w 32).toNat
        let bytes := (t.readPages (t.listRefs (d.w 28) (ceilDiv len 4096))).take len
        exec (.rgtTunnelSend r d) s = .next ((((List.range (ceilDiv len 1992)).foldl (fun u i =>
          if u.admitted = false ∨ (u.rgt.port.get p).carries .data = false then u
          else u.sendFrame p (some (bitsOf (d.h 24) 0 12, bitsOf (d.h 24) 12 4)) 32 false
            (.tunnel (bitsOf (d.b 26) 0 4) t.tun.nextId i (ceilDiv len 1992) (d.w 32) ((bytes.drop (1992 * i)).take 1992))) t).modTun fun x =>
              { x with nextId := x.nextId + 1 }).complete r d.seq 0 (BitVec.ofNat 32 (ceilDiv len 1992)))) ∧
      exec (.rgtTunnelRecv r d) s = .next (t.modTun fun x =>
        { x with recv := x.recv ++ [⟨r, d.seq, bitsOf (d.b 24) 0 4, (d.w 32).toNat, d.w 28, t.clk.cycle⟩] })) ∧
    (∀ (r : Ring) (d : Desc), s.fenceFree d = false → exec (.ringFence r d) s = .next s)

/-- 16 R394, R395, R402; 01 R13, R14, R16: what a write changes and what it can never change. -/
def Obligations.AWindowWriteLandsOnlyOnItsMastersPages : Prop :=
  ∀ (s : State) (m : Master) (g : Region) (w : Bool) (addr : Nat) (bytes : List Byte),
    ∃ t : State, exec (.windowAccess m g w addr bytes) s = .next t ∧
      (∀ a : Nat, s.mayAccess m (a / 4096) = false → t.memRead a = s.memRead a) ∧ (∀ p : Nat, t.page p = s.page p) ∧
      (s.reaches m = true →
        let b := s.beats (beatsOf addr bytes.length) m
        OnlyTime s b ∧
        (w = false ∨ g.size < addr + bytes.length → t = b) ∧
        (g = .window → w = true → addr + bytes.length ≤ 2 ^ 24 →
          ((∀ i < bytes.length, s.mayAccess m ((addr + i) / 4096) = true) →
            (Memory.wf s.win.mem → ∀ (i : Nat) (h : i < bytes.length), t.memRead (addr + i) = bytes[i]) ∧
            (∀ a : Nat, a < addr ∨ addr + bytes.length ≤ a → t.memRead a = s.memRead a) ∧
            { t with win := { t.win with mem := s.win.mem } } = b) ∧
          (∀ k < bytes.length, (∀ i < k, s.mayAccess m ((addr + i) / 4096) = true) → s.mayAccess m ((addr + k) / 4096) = false →
            t = match m.code with
              | some _ => (b.memWriteList addr (bytes.take k)).freeze m 1 (BitVec.ofNat 32 (addr + k))
              | none => (b.memWriteList addr (bytes.take k)).firewallDrop m (addr + k) 0)) ∧
        (g ≠ .window → w = true → addr + bytes.length ≤ g.size →
          (g.writer m = false → t = b.firewallDrop m addr 0) ∧
          (g.writer m = true → (∀ c : CoreGroup, g = .priv c → t = b.sramWrite c addr bytes) ∧
            ((∀ c : CoreGroup, g ≠ .priv c) → t = b))))

/-- 16 R394, R399, R404, R407, R408: window descriptors and registers. -/
def Obligations.WindowDescriptorsAndRegistersAct : Prop :=
  ∀ s : State,
    (∀ (r : Ring) (d : Desc), s.due r d = true →
      let t := s.takeUp r d
      let named := (List.range (d.h 26).toNat).map fun i => (d.h 24).toNat + i
      let move := fun (src dst : PageOwner) =>
        let go := named.filter fun p => (s.page p).owner == src && s.win.rangeOf p == ringFn r
        (go.foldl (fun t p => t.setPage p ⟨dst, (t.page p).gen + 1, 0⟩) t).complete r d.seq
          (if go.length < (d.h 26).toNat then 1 else 0) (BitVec.ofNat 32 go.length)
      exec (.winClaim r d) s = .next (move .free .host) ∧ exec (.winRelease r d) s = .next (move .host .free)) ∧
    (s.reaches (.pf 2) = true →
      (∀ w : Word, s.lcs.lock = false →
        let a : BitVec 12 := bitsOf w 0 12
        let b : BitVec 12 := bitsOf w 16 12
        (s.partOk a b = true → exec (.winPartWrite (.pf 2) w) s = .next ((s.beat (.pf 2)).modWin fun x => { x with pf1First := a, pf2First := b })) ∧
        (s.partOk a b = false → exec (.winPartWrite (.pf 2) w) s = .next ((s.beat (.pf 2)).raise .frz 3))) ∧
      (∀ w : Word, exec (.frzReleaseWrite (.pf 2) w) s = .next ((s.beat (.pf 2)).releaseFreeze w) ∧
        ((∀ c : Fin 24, ¬ ((s.frz.m.get c).frozen = true ∧ (s.frz.m.get c).token = w)) → s.releaseFreeze w = s.raise .frz 2))) ∧
    (s.supplied = true → ∀ w : Word,
      (s.permitted 0 = true → exec (.frzReleaseWrite .mgmt w) s = .next ((s.beat .mgmt).releaseFreeze w)) ∧
      (s.permitted 0 = false → exec (.frzReleaseWrite .mgmt w) s = .next (s.firewallDrop .mgmt 0x8004 w.toNat))) ∧
    (∀ f : Fn, s.reaches (.pf f) = true → exec (.winOwnRead f) s = .next ((s.beat (.pf f)).modWin fun w => { w with ownSel := vmod w.ownSel f (· + 1) }))

/-- 15 R377, R380, R381; 17 R410, R411, R413, R418, R423: acceptance and the journal. -/
def Obligations.ACommitAcceptsInOrder : Prop :=
  ∀ s : State,
    (s.supplied = true →
      (∀ (r : Ring) (x : Committing) (rest : List Committing), (s.ring.get r).committing = x :: rest →
        (exec (.acceptanceCommit r true) s = .next (((s.modRing r fun q => { q with committing := rest }).accept r x).shadowA r)) ∧
        (let t := (s.modRing r fun q => { q with committing := [], exp := x.desc.seq }).modDlv fun v => { v with fault := true, lastRetry := s.clk.cycle }
         exec (.acceptanceCommit r false) s = .next ((rest.foldl (fun u y => (u.undecide r y).refuseComp r y.desc .state 2 0)
           ((t.undecide r x).refuseComp r x.desc .state 5 0)).shadowA r))) ∧
      (∀ (r : Ring) (ok : Bool), (s.ring.get r).committing = [] → exec (.acceptanceCommit r ok) s = .next s) ∧
      (∀ ok : Bool, s.dlv.fault = true →
        let t := s.runTo (s.dlv.lastRetry + ms 10)
        exec (.journalRetry ok) s = .next (t.modDlv fun v => { v with fault := !ok, lastRetry := t.clk.cycle })) ∧
      (∀ ok : Bool, s.dlv.fault = false → exec (.journalRetry ok) s = .next s) ∧
      (∀ (r : Ring) (seq : DWord) (j : JSlot), s.slot? r seq = some j → j.st = .accepted → j.desc.cls = 3 →
        let t := s.runToFleet j.desc.notBefore.toNat
        (t.carrierReady r j.desc = true → exec (.notBeforeReached r seq) s = .next (t.modSlot r seq fun x => { x with st := .handed })) ∧
        (t.carrierReady r j.desc = false → exec (.notBeforeReached r seq) s = .next t)) ∧
      exec .journalRecovery s = .next (s.forAll fun (f : Fn) t =>
        if (t.ringF.get f).recovering = true then t.modRingF f fun x => { x with recovering := false, recovered := true } else t).recoverAll) ∧
    (∀ (r : Ring) (d : Desc) (q : Ring), s.due r d = true → d.target.toNat = q.val → (s.ring.get q).st = .disabled →
      let t := s.takeUp r d
      ((t.dlv.slots.get q).all fun j => j.st == .consumed) = true →
      exec (.dlvRingForget r d) s = .next (((t.modDlv fun v =>
        { v with slots := vmod v.slots q fun _ => [], first := vmod v.first q fun _ => 0 }).modRing q fun x => { x with exp := 0 }).complete r d.seq 0
          (BitVec.ofNat 32 (t.dlv.slots.get q).length)))

/-- 15 R376, R379-R382; 16 R397, R402; 19 R459: the decision of a descriptor, policy actions. -/
def Obligations.AFetchedDescriptorIsDecidedOnce : Prop :=
  ∀ s : State, s.supplied = true →
    (∀ (r : Ring) (d : Desc) (contentOk : Bool),
      (s.canFetch r = false → exec (.descriptorDecide r d contentOk) s = .next s) ∧
      (s.canFetch r = true →
        let t := (s.fillBuckets r).modRing r fun q => { q with exp := if q.exp = 0 then d.seq else q.exp }
        let u := match t.reachesState r d contentOk with | some op => t.verifyAuth d op contentOk | none => t
        (∀ (st : CStatus) (detail : Half) (result : Word), t.decision r d contentOk = .refuse st detail result →
          exec (.descriptorDecide r d contentOk) s = .next ((u.refuseComp r d st detail result).passFetch r)) ∧
        (t.decision r d contentOk = .replay →
          exec (.descriptorDecide r d contentOk) s = .next ((u.modRing r fun q => { q with replays := q.replays ++ [(d.seq, d.irqNow)] }).passFetch r)) ∧
        (∀ ref : Word, t.decision r d contentOk = .breach ref →
          exec (.descriptorDecide r d contentOk) s =
            .next (((u.refuseComp r d .malformed 8 0).modRing r fun q => { q with fetch := q.fetch + 1 }).freeze (.pf (ringFn r)) 2 ref)) ∧
        (∀ pages : List (Fin 4096), t.decision r d contentOk = .accept pages →
          exec (.descriptorDecide r d contentOk) s = .next ((((u.modRing r fun q =>
            { q with exp := q.exp + 1, outstanding := q.outstanding + 1, buckets := vmod q.buckets (clsIx d.cls) (·.take),
                     committing := q.committing ++ [⟨q.fetch, d, pages⟩] }).modDlv fun v =>
            { v with devBuckets := vmod v.devBuckets (clsIx d.cls) (·.take) }).passNamed r d pages).passFetch r)))) ∧
    (s.pwr.mgmtReady = true → s.lcs.recovery = false →
      (∀ token : Word,
        (s.permitted 0 = true → exec (.policyAction (.release token)) s = .next (s.releaseFreeze token)) ∧
        (s.permitted 0 = false → exec (.policyAction (.release token)) s = .next (s.firewallDrop .mgmt 0x8004 token.toNat))) ∧
      (∀ crew part : List Byte, s.permitted 1 = true → s.refStage = false → s.journalClosed = false →
        exec (.policyAction (.stage crew part)) s = .next (s.stage crew part none)) ∧
      (∀ (d : Desc) (contentOk : Bool) (row : OpRow) (b : Nat), opRow? d.opcode = some row → policyBit row.op = some b →
        (s.permitted b = true → s.payloadOk d row.op = true → s.mgmtPages d row.op = true → s.journalClosed = false → s.refOp d contentOk row.op = false →
          exec (.policyAction (.desc d contentOk)) s = .next (s.policyEffect d contentOk row.op)) ∧
        (s.permitted b = false → exec (.policyAction (.desc d contentOk)) s = .next s)))

/-- 18 R428, R432-R439: the caddy's commands. -/
def Obligations.TheCaddyServesItsCommands : Prop :=
  ∀ s : State,
    (∀ (r : Ring) (d : Desc), s.due r d = true →
      let t := s.takeUp r d
      let n := (d.b 24).toNat
      exec (.keySlotWrite r d) s = .next ((t.putSlot n (some ⟨bitsOf (d.b 25) 0 4, bitsOf (d.b 26) 0 4, if d.b 25 = 6 then bitsOf (d.b 27) 0 4 else 0,
        s.lcs.st.code, s.lcs.nt, slotData (t.pageBytes (d.w 28) 64)⟩)).complete r d.seq 0 0) ∧
      exec (.keySlotErase r d) s = .next ((t.putSlot n none).complete r d.seq 0 0) ∧
      (∀ i : Fin 16, n = i.val → (s.key.otp.get i).programmed = false → ∃ role : BitVec 4,
        let burn := fun (void : Bool) => t.useFree.modKey fun k =>
          { k with otp := vmod k.otp i fun _ => ⟨bitsOf (d.b 25) 0 4, bitsOf (d.b 26) 0 4, role, bitsOf (d.b 27) 0 5, void, true, slotData (t.pageBytes (d.w 28) 64)⟩ }
        exec (.keyOtpWrite r d true) s = .next ((burn false).complete r d.seq 0 0) ∧
        exec (.keyOtpWrite r d false) s = .next (((burn true).raise .key 5).complete r d.seq 0 1)) ∧
      (∀ i : Fin 4, n = i.val + 1 →
        let key := t.pageBytes (d.w 28) (keyLength (d.b 25).toNat)
        let g := Config.sha3 key
        let k := t.anchorSlot i
        exec (.keyAnchorSet r d) s = .next (((t.putSlot k (some ⟨4, 0, BitVec.ofNat 4 n, s.lcs.st.code, s.lcs.nt, slotData (leBytes 32 g.toNat)⟩)).useFree.modKey fun x =>
          { x with anchors := vmod x.anchors i fun _ => some ⟨d.b 25, key, g, k⟩ }).complete r d.seq 0 (BitVec.ofNat 32 k))) ∧
      exec (.keyLegacySet r d) s = .next ((t.modKey fun k => { k with legacy := bitsOf (d.b 24) 0 2, legacyKey := t.pageBytes (d.w 28) 66 }).complete r d.seq 0 0) ∧
      (∀ item : List Byte, t.certItem d = some item →
        exec (.keyCertFetch r d) s = .next ((t.writePages [d.w 28] item).useFree.complete r d.seq 0 (BitVec.ofNat 32 item.length))) ∧
      exec (.keyQuote r d) s = .next (((t.writePages [d.w 56] (t.quoteBytes (leBytes 32 (bitsOf d.payload 0 256).toNat))).modKey fun k =>
        { k with cntSign := satInc k.cntSign }).complete r d.seq 0 3537)) ∧
    (s.supplied = true → ∀ arrivals : List (Fin 4 × CaddyReq),
      let t := arrivals.foldl (fun t a =>
        if 16 ≤ (t.key.queues.get a.1).length then t
        else t.modKey fun k => { k with queues := vmod k.queues a.1 (· ++ [a.2]) }) s
      exec (.caddyRequest arrivals) s = .next t.serveNext ∧
      (t.nextQueue = none → t.serveNext = t) ∧
      (∀ (q : Fin 4) (x : CaddyReq) (rest : List CaddyReq), t.nextQueue = some q → t.key.queues.get q = x :: rest →
        t.serveNext = (t.modKey fun k => { k with queues := vmod k.queues q fun _ => rest, turn := Fin.ofNat 4 (q.val + 1) }).caddyServe q x)) ∧
    (∀ x : TamperIn,
      let flag := fun (k : Nat) (p : Bool) => if p = true then bit 5 k else 0
      let c : BitVec 5 := flag 0 (decide (x.drive.get 0 ≠ x.ret.get 0 ∧ x.drive.get 1 ≠ x.ret.get 1)) ||| flag 1 x.light |||
        flag 2 (decide (x.temp < -50 ∨ 135 < x.temp)) ||| flag 3 (decide (x.vbak < 1300 ∨ 3000 < x.vbak ∨ (s.supplied = true ∧ x.core < 600))) |||
        flag 4 (decide (x.swLow &&& s.key.swEn ≠ 0 ∧ 100000 ≤ x.swHeld))
      (s.glb.variant = .a8t → c ≠ 0 → s.pwr.mode ≠ .ship →
        let t := (s.modKey fun k => { k with tamper := k.tamper ||| c, zeroized := true, rootOk := false }).raiseAt .key 0 0 c.toNat 0
        exec (.keyTamper x) s = .next (if c.getLsbD 0 = true then t.tamperEvent 8 s.now else t)) ∧
      (s.glb.variant ≠ .a8t ∨ c = 0 ∨ s.pwr.mode = .ship → exec (.keyTamper x) s = .next s))

/-- 19 R446-R451, R458-R460; 13 R344: transitions, port, nonces, policies, lock. -/
def Obligations.TransitionsPortsAndPoliciesAct : Prop :=
  ∀ s : State,
    (∀ (r : Ring) (d : Desc), s.due r d = true →
      let t := s.takeUp r d
      let a := authOf (t.pageBytes (d.w 40) 64)
      (s.lcs.st = .service → lcOfCode a.target = some .ret →
        exec (.lcsTransition r d) s = .next (t.modLcs fun l => { l with returnPending := true, returnWait := some (r, d.seq) })) ∧
      (∀ w, s.lcs.st = .service → lcOfCode a.target = some .service → t.lcs.returnWait = some w →
        exec (.lcsTransition r d) s = .next (((t.complete w.1 w.2 0 2).modLcs fun l =>
          { l with returnPending := false, returnWait := none }).complete r d.seq 0 2)) ∧
      (∀ st, s.lcs.st ≠ .service → lcOfCode a.target = some st →
        exec (.lcsTransition r d) s = .next ((t.transition st (bitsOf d.payload 0 128)).complete r d.seq 0 (BitVec.ofNat 32 st.code))) ∧
      (let u := t.eraseLegal.complete r d.seq 0 0
       (s.lcs.returnPending = false → exec (.bilErase r d) s = .next u) ∧
       (∀ w, s.lcs.returnPending = true → s.lcs.returnWait = some w → exec (.bilErase r d) s = .next
         (((u.transition .ret 0).complete w.1 w.2 0 3).modLcs fun l => { l with returnWait := none }))) ∧
      exec (.lcsPortOpen r d) s = .next ((t.openPort (t.pageBytes (d.w 28) 64)).complete r d.seq 0 0) ∧
      exec (.lcsPortClose r d) s = .next ((t.modLcs fun l => { l with portOpen := false }).complete r d.seq 0 0) ∧
      (∃ n : Digest, exec (.lcsChallenge r d) s = .next (((t.useFree.modLcs fun l => { l with nonce := n, nonceAt := some s.now }).writePages [d.w 28]
        (leBytes 32 n.toNat ++ leBytes 16 Config.serial.toNat ++ leBytes 4 s.lcs.nt ++ leBytes 1 s.lcs.st.code ++ leBytes 11 0)).complete r d.seq 0 64)) ∧
      exec (.lcsPolicySet r d) s = .next ((t.modLcs fun l =>
        { l with policy := some (BitVec.ofNat 4 (field (t.pageBytes (d.w 28) 64) 32 4)) }).completeAt r d.seq 0 0 (t.acceptedAt r d.seq)) ∧
      exec (.lcsLock r d) s = .next ((t.modLcs fun l => { l with lock := true }).complete r d.seq 0 0)) ∧
    (s.supplied = true → ∀ (m : Master) (w : Word) (ok : Bool),
      (m ≠ .port → exec (.lcsPortAuthWrite m w ok) s = .next (s.guardedWrite m s.pwr.mgmtReady true false 0x70200 id)) ∧
      (s.lcs.st = .scrap → exec (.lcsPortAuthWrite .port w ok) s = .next s) ∧
      (s.lcs.st ≠ .scrap →
        let l := s.lcs.portAuth ++ leBytes 4 w.toNat
        let auth := l.take 64
        let u := (s.modLcs fun x => { x with portAuth := [] }).useNonce (authOf auth)
        (l.length < 68 ∨ l.length < 68 + field l 64 4 →
          exec (.lcsPortAuthWrite .port w ok) s = .next (s.modLcs fun x => { x with portAuth := l })) ∧
        (68 + field l 64 4 ≤ l.length → 68 ≤ l.length → s.portAuthOk auth ok = true → exec (.lcsPortAuthWrite .port w ok) s = .next (u.openPort auth)) ∧
        (68 + field l 64 4 ≤ l.length → 68 ≤ l.length → s.portAuthOk auth ok = false → exec (.lcsPortAuthWrite .port w ok) s = .next u.authFailed)))

/-- 19 R452, R454, R456, R457, R460: images. -/
def Obligations.ImagesAreWrittenTriedAndConfirmed : Prop :=
  ∀ s : State,
    (∀ (r : Ring) (d : Desc), s.due r d = true →
      let t := s.takeUp r d
      let k : Fin 6 := Fin.ofNat 6 (d.b 24).toNat
      let b := d.b 25 == 1
      let len := (d.w 32).toNat
      let bytes := (t.readPages (t.listRefs (d.w 28) (ceilDiv len 4096))).take len
      let ok := headerOk k len bytes && bodyOk bytes && t.imageKeyOk k (BitVec.ofNat 256 (field bytes 64 32))
      let g := s.lcs.img.get k
      exec (.lcsImageWrite r d) s = .next (t.modLcs fun l =>
        { l with img := vmod l.img k fun g => g.put b { imgOf bytes with valid := false },
                 writing := l.writing ++ [⟨some r, d.seq, k, b, { imgOf bytes with valid := ok }⟩] }) ∧
      (let u := (t.modLcs fun l => { l with img := vmod l.img k fun g => { g with preferB := !g.runningB, trial := true, tries := 3 } }).modLcs fun l =>
         { l with activating := l.activating ++ [(r, d.seq, k)] }
       (d.b 25 ≠ 1 → exec (.lcsImageActivate r d) s = .next u) ∧
       (d.b 25 = 1 → k = 1 → exec (.lcsImageActivate r d) s = .next (u.planeReset .control)) ∧
       (d.b 25 = 1 → k = 2 ∨ k = 5 → exec (.lcsImageActivate r d) s = .next (u.planeReset .data)) ∧
       (d.b 25 = 1 → k = 3 → exec (.lcsImageActivate r d) s = .next (u.planeReset .mgmt)) ∧
       (d.b 25 = 1 → k = 0 ∨ k = 4 → exec (.lcsImageActivate r d) s = .next u)) ∧
      (let keep := k.val = 4 ∧ s.lcs.st = .service
       let u := fun (n : BitVec 6) => t.modLcs fun l => { l with img := vmod l.img k fun g => { g with trial := false, tries := 0, rollback := n } }
       (keep ∨ g.running.index.toNat ≤ g.rollback.toNat →
         exec (.lcsImageConfirm r d) s = .next ((u g.rollback).complete r d.seq 0 (g.rollback.setWidth 32))) ∧
       (¬ keep → g.rollback.toNat < g.running.index.toNat →
         exec (.lcsImageConfirm r d) s = .next (((u g.running.index).raise .lcs 5).complete r d.seq 0 (g.running.index.setWidth 32))))) ∧
    (s.supplied = true → ∀ ok : Bool,
      (s.lcs.writing = [] → exec (.imageVerifyDone ok) s = .next s) ∧
      (∀ x rest, s.lcs.writing = x :: rest →
        let good := ok && x.img.valid
        let u := s.modLcs fun l => { l with writing := rest, img := vmod l.img x.kind fun g => g.put x.slotB { x.img with valid := good } }
        (∀ r, x.ring = some r → exec (.imageVerifyDone ok) s = .next (u.complete r x.seq 0 (if good = true then 0 else 1))) ∧
        (x.ring = none → exec (.imageVerifyDone ok) s = .next u)))

/-- 20 R466-R469, R480, R483: the clock monitor. -/
def Obligations.ClockFaultsHoldTheBlock : Prop :=
  ∀ s : State, s.supplied = true →
    (let response := fun (t : State) =>
       let a := (((t.raiseGlb 4).syncControlFault).forAll fun (o : Outlet) u => u.setDrives o false).forAll fun (x : Aux) u =>
         if (u.pwm.aux.get x).en = true then u.modAux x fun c => { c with heldFs := true } else u
       let b := ((a.modClk fun c => { c with holdover := true }).stopEngine).modPwr fun w => { w with fetchStopped := true }
       (if b.pwr.pfw = true then b else b.legalWarning).modClk fun c => { c with faultSince := some t.clk.cycle }
     (∀ (gap : Nat) (locked : Bool), s.clk.rootLost = true ∨ (gap < 1000 ∧ locked = true) → exec (.rootLost gap locked) s = .next s) ∧
     (∀ (gap : Nat) (locked : Bool), s.clk.rootLost = false → 1000 ≤ gap ∨ locked = false →
       let t := (s.modClk fun c => { c with rootLost := true, cntLoss := satInc c.cntLoss }).raise .clk 0
       (s.clk.faultSince = none → exec (.rootLost gap locked) s = .next (response t)) ∧
       (s.clk.faultSince.isSome = true → exec (.rootLost gap locked) s = .next t)) ∧
     (∀ edges : Nat,
       let off := ((edges : Int) - 48828).natAbs
       let found := if s.clk.xtalFail = true then 48828 < 20 * off else 22 ≤ off
       let u := s.modClk fun c => { c with rootPpm := clampS 16 (roundDivI (((edges : Int) - 48828) * 1000000) 48828) }
       (¬ found ∨ s.clk.drift = true → exec (.driftCheck edges) s = .next u) ∧
       (found → s.clk.drift = false →
         let t := (u.modClk fun c => { c with drift := true, cntDrift := satInc c.cntDrift }).raise .clk 1
         (s.clk.faultSince = none → exec (.driftCheck edges) s = .next (response t)) ∧
         (s.clk.faultSince.isSome = true → exec (.driftCheck edges) s = .next t)))) ∧
    (∀ freq : Nat,
      let off : Prop := 32768 < 20 * ((freq : Int) - 32768).natAbs
      let t := s.modClk fun c => { c with xtalGood := none }
      (off → s.clk.xtalFail = false → exec (.xtalFail freq) s = .next ((t.modClk fun c => { c with xtalFail := true }).raise .clk 2)) ∧
      (off → s.clk.xtalFail = true → exec (.xtalFail freq) s = .next t) ∧
      (¬ off → s.clk.xtalFail = false → exec (.xtalFail freq) s = .next s) ∧
      (¬ off → s.clk.xtalFail = true → s.clk.xtalGood = none →
        exec (.xtalFail freq) s = .next (s.modClk fun c => { c with xtalGood := some s.clk.cycle })) ∧
      (∀ k, ¬ off → s.clk.xtalFail = true → s.clk.xtalGood = some k →
        (k + sec 1 ≤ s.clk.cycle → exec (.xtalFail freq) s = .next (s.modClk fun c => { c with xtalFail := false, xtalGood := none })) ∧
        (s.clk.cycle < k + sec 1 → exec (.xtalFail freq) s = .next s))) ∧
    (∀ t, s.clk.faultSince = some t → s.clk.resetHeld = false → exec .clockFaultReset s = .next ((s.runTo (t + ms 5)).warmReset 6)) ∧
    (s.clk.faultSince = none ∨ s.clk.resetHeld = true → exec .clockFaultReset s = .next s) ∧
    (∀ (held : Nat) (locked : Bool),
      (s.clk.resetHeld = true → 100000000 ≤ held → locked = true →
        exec (.rootRecovered held locked) s = .next (s.modClk fun c => { c with holdover := false }).warmBoot) ∧
      (s.clk.resetHeld = false ∨ held < 100000000 ∨ locked = false → exec (.rootRecovered held locked) s = .next s))

/-- 19 R454; 20 R470-R475, R481: resets, ready, power descriptors. -/
def Obligations.ResetsAndReadyReportsAct : Prop :=
  ∀ s : State,
    (∀ (source : BitVec 3) (held : Nat) (aonOk : Bool) (slots : BitVec 2) (a b : BitVec 4),
      let fits := (s.pwr.mode = .hold ∧ source = 4) ∨ (s.pwr.mode = .ship ∧ source = 5) ∨
        (s.pwr.mode ≠ .hold ∧ s.pwr.mode ≠ .ship ∧ (source = 0 ∨ (source = 2 ∧ 10000 ≤ held) ∨ (source = 3 ∧ 2000 ≤ held)))
      (fits → exec (.coldReset source held aonOk slots a b) s = .next (s.coldStart source aonOk slots a b)) ∧
      (¬ fits → exec (.coldReset source held aonOk slots a b) s = .next s)) ∧
    (s.supplied = true → s.clk.resetHeld = false →
      (s.clk.faultSince = none → (∀ held, 10000 ≤ held → exec (.warmReset false held) s = .next (s.warmEnter 1).warmBoot) ∧
        ∀ held, exec (.warmReset true held) s = .next s) ∧
      (s.clk.faultSince.isSome = true →
        (∀ held, 10000 ≤ held → exec (.warmReset false held) s = .next ((s.warmEnter 1).modClk fun c => { c with resetHeld := true, holdover := true })) ∧
        ∀ held, exec (.warmReset true held) s = .next ((s.warmEnter 6).modClk fun c => { c with resetHeld := true, holdover := true })) ∧
      (∀ p : Plane,
        exec (.planeReset p) s = .next ((((((s.noteReset [planeCarrier p] false).blocksReset p).modRingF (planeIx p) fun x =>
          { x with recovering := true, lastReset := 3 }).bootAll (kindsOf p)).bootEnd).modPwr fun w => { w with planeRst := w.planeRst ||| bit 3 (planeIx p).val }) ∧
        (∀ t, (s.lcs.img.get (kindOf p)).since = some t → exec (.readyTimeout (kindOf p)) s = .next ((s.runTo (t + sec 5)).planeReset p)) ∧
        (s.planeReady p = false → (s.lcs.img.get (kindOf p)).since.isSome = true → exec (.planeReady p false) s = .next (s.readyNow p)) ∧
        (s.planeReady p = true → exec (.planeReady p false) s = .next s) ∧
        ((s.lcs.img.get 5).since.isSome = true → exec (.planeReady p true) s = .next
          ((s.modLcs fun l => { l with img := vmod l.img 5 fun g => { g with since := none, started := true } }).modPwr fun w => { w with integratorReady := true })) ∧
        ((s.lcs.img.get 5).since = none → exec (.planeReady p true) s = .next s))) ∧
    (∀ held, held < 10000 → exec (.warmReset false held) s = .next s) ∧
    (s.clk.resetHeld = true → (∀ held, exec (.warmReset false held) s = .next s) ∧ ∀ p, exec (.planeReset p) s = .next s) ∧
    (∀ (r : Ring) (d : Desc), s.due r d = true →
      let t := s.takeUp r d
      let wait := fun (p : Plane) => (t.modPwr fun w => { w with resetWait := w.resetWait ++ [(r, d.seq, p)] }).planeReset p
      ((d.b 24).toNat = 1 → exec (.pwrReset r d) s = .next (t.warmReset 1)) ∧
      ((d.b 24).toNat = 2 → exec (.pwrReset r d) s = .next (wait .control)) ∧
      ((d.b 24).toNat = 3 → exec (.pwrReset r d) s = .next (wait .data)) ∧
      ((d.b 24).toNat = 4 → exec (.pwrReset r d) s = .next (t.planeReset .mgmt)) ∧
      ((∀ o : Outlet, s.hasOutlet o = true → (s.out.get o).st = .off) → exec (.pwrIdle r d) s = .next
        (let u := t.clearAllEn.modPwr fun w => { w with mode := .idle }
         State.complete r d.seq 0 0 { u with vcl := { u.vcl with ch := u.vcl.ch.map VclSt.afterReset } })) ∧
      (∀ o : Outlet, s.hasOutlet o = true → (s.out.get o).st ≠ .off → exec (.pwrIdle r d) s = .next (t.complete r d.seq 0 0)) ∧
      exec (.pwrRun r d) s = .next ((t.modPwr fun w => { w with mode := .run }).complete r d.seq 0 0))

/-- 20 R475-R479; 14 R361: power failure. -/
def Obligations.PowerFailuresEnterHold : Prop :=
  ∀ s : State,
    (s.supplied = true →
      (∀ (pin : Bool) (x : Rails),
        let warned : Prop := pin = true ∨ (x.io < 3100 ∧ 2000 ≤ x.held)
        let ended : Prop := pin = false ∧ 3150 ≤ x.io ∧ 10000000 ≤ x.held
        let gone : Prop := x.io < 2900 ∨ x.core < 700
        (s.pwr.pfw = false →
          (warned →
            let a := if s.clk.faultSince.isSome = true then s else s.legalWarning
            let b := if a.bat.present = true then a.batStore else a
            exec (.powerFailWarning pin x) s = .next (((b.stopEngine.modPwr fun w =>
              { w with pfw := true, fetchStopped := true, cntPfw := satInc w.cntPfw }).stopAllOutlets 2).raise .pwr 0)) ∧
          (¬ warned → exec (.powerFailWarning pin x) s = .next s) ∧
          exec (.pfwRecovered pin x) s = .next s ∧ exec (.holdEntry x) s = .next s) ∧
        (s.pwr.pfw = true →
          exec (.powerFailWarning pin x) s = .next s ∧
          (ended →
            let t := s.modPwr fun w => { w with pfw := false, fetchStopped := s.clk.faultSince.isSome }
            exec (.pfwRecovered pin x) s = .next (State.raise .pwr 1 { t with ring := t.ring.map fun q => { q with waitDb := true } })) ∧
          (¬ ended → exec (.pfwRecovered pin x) s = .next s) ∧
          (gone → ∃ t, exec (.holdEntry x) s = .next t ∧
            t.pwr.mode = (if s.bat.shipArmed = true then .ship else .hold) ∧ t.pwr.controlReady = false ∧ t.pwr.dataReady = false ∧ t.pwr.mgmtReady = false ∧
            t.pwr.legalReady = false ∧ t.pwr.home = false ∧ t.pwr.holdAt = s.now ∧ t.bil.legalUp = false ∧ t.supplied = false) ∧
          (¬ gone → exec (.holdEntry x) s = .next s))) ∧
      (∀ (vbak : Half) (microamps : Nat),
        let go := fun (m : BakMode) => exec (.bakChargerMode vbak microamps) s = .next (s.modPwr fun w => { w with bakMode := m })
        (s.thm.bakBlocked = true → go .off) ∧
        (s.thm.bakBlocked = false →
          (s.pwr.bakMode = .off → vbak.toNat < 2600 → go .constCurrent) ∧
          (s.pwr.bakMode = .off → 2600 ≤ vbak.toNat → go .off) ∧
          (s.pwr.bakMode = .constCurrent → vbak.toNat < 2700 → go .constCurrent) ∧
          (s.pwr.bakMode = .constCurrent → 2700 ≤ vbak.toNat → go .constVoltage) ∧
          (s.pwr.bakMode = .constVoltage → vbak.toNat < 2600 → go .constCurrent) ∧
          (s.pwr.bakMode = .constVoltage → 2600 ≤ vbak.toNat → microamps < 500 → go .off) ∧
          (s.pwr.bakMode = .constVoltage → 2600 ≤ vbak.toNat → 500 ≤ microamps → go .constVoltage)))) ∧
    (∀ vbak : Nat, s.pwr.mode = .hold → vbak < 1500 →
      (s.glb.variant = .a8t → exec (.aonStop vbak) s = .next ((s.modKey fun k => { k with zeroized := true, rootOk := false }).modPwr fun w => { w with aonStopped := true })) ∧
      (s.glb.variant ≠ .a8t → exec (.aonStop vbak) s = .next (s.modPwr fun w => { w with aonStopped := true }))) ∧
    (∀ vbak : Nat, s.pwr.mode ≠ .hold ∨ 1500 ≤ vbak → exec (.aonStop vbak) s = .next s)

/-- 21 R484, R489, R491-R493: drift windows, records, exports. -/
def Obligations.DriftHealthAndRemoteRecordsAct : Prop :=
  ∀ s : State,
    (s.supplied = true →
      (let t := s.runTo (s.dia.windowAt + sec 60)
       exec .driftWindow s = .next ((t.modDia fun d => { d with windowAt := t.clk.cycle, ind := vmapIdx d.ind fun i x => x.close (driftLimit i) }).forAll
         fun (i : Fin 16) u => u.driftFlag i)) ∧
      (s.dia.remote = [] → exec .diaRemoteTimeout s = .next s) ∧
      (∀ w l, s.dia.remote = w :: l → exec .diaRemoteTimeout s =
        .next (((s.runTo (w.since + ms 500)).modDia fun x => { x with remote := l }).complete w.ring w.seq 0 0)) ∧
      (∀ (p : Port) (h : Hdr), s.accepts .cfg p h = true →
        let t := s.received p h
        (∀ (id : CtrlId) (crew : BitVec 4) (q : Word),
          let u := t.takeMsg 0x20
          (s.forMe h = false → exec (.diagRequest p h id crew q) s = .next t) ∧
          (s.forMe h = true → s.pwr.mgmtReady = true → u.requesterOk p id crew = true → (u.routeTo id).isSome = true →
            exec (.diagRequest p h id crew q) s = .next
              (((u.sendCfg (id, crew) (.diagReply q u.healthRecord)).modDia fun d => { d with cntRemote := satInc d.cntRemote }).raise .dia 3)) ∧
          (s.forMe h = true → s.pwr.mgmtReady = false ∨ u.requesterOk p id crew = false ∨ (u.routeTo id).isSome = false →
            exec (.diagRequest p h id crew q) s = .next u)) ∧
        (∀ (q : Word) (record : List Byte),
          let u := t.takeMsg 0x21
          (s.forMe h = false → exec (.diagReply p h q record) s = .next t) ∧
          (∀ w, s.forMe h = true → (u.dia.remote.find? fun w => w.reqId == q && w.dest == (h.crew ++ h.src)) = some w →
            exec (.diagReply p h q record) s = .next
              (((u.modDia fun x => { x with remote := x.remote.filter fun y => y.reqId != q }).fillPage w.page (record.take 1024)).complete w.ring w.seq 0 1024)) ∧
          (s.forMe h = true → (u.dia.remote.find? fun w => w.reqId == q && w.dest == (h.crew ++ h.src)) = none →
            exec (.diagReply p h q record) s = .next u)))) ∧
    (∀ (r : Ring) (d : Desc), s.due r d = true →
      let t := s.takeUp r d
      exec (.diaHealth r d) s = .next ((t.memWriteList ((pageOf (d.w 28)).val * 4096) t.healthRecord).complete r d.seq 0 1024) ∧
      (let first := (d.q 24).toNat
       let n := (d.w 36).toNat
       let l := (s.dia.records.filter fun x => decide (first ≤ x.number) && decide (x.time ≤ t.acceptedAt r d.seq)).take (128 * n)
       let u := t.writePages (t.listRefs (d.w 32) n) (l.flatMap JRec.bytes)
       (first ≠ 0 ∧ first < (oldestEvent s.dia).toNat → exec (.diaExport r d) s = .next (u.complete r d.seq 1 (BitVec.ofNat 32 l.length))) ∧
       (first = 0 ∨ (oldestEvent s.dia).toNat ≤ first → exec (.diaExport r d) s = .next (u.complete r d.seq 0 (BitVec.ofNat 32 l.length)))) ∧
      exec (.diaRemote r d) s = .next ((t.sendCfg (bitsOf (d.h 24) 0 12, bitsOf (d.h 24) 12 4) (.diagRequest s.rgt.id s.rgt.crew s.dia.nextReq)).modDia fun x =>
        { x with nextReq := s.dia.nextReq + 1, remote := x.remote ++ [⟨r, d.seq, d.h 24, s.dia.nextReq, d.w 28, s.clk.cycle⟩] }))

/-- 00 R8, R9, R524; 15 R393; 22 R500, R501: event registers, latched reads, unassigned space. -/
def Obligations.RegisterAccessesLatchClearAndCount : Prop :=
  ∀ s : State,
    (∀ (m : Master) (off : Nat) (e : EvSrc) (w : Word), s.reaches m = true →
      (m, off, e) ∈ [(.pf 2, 0x1008, .clk), (.pf 2, 0x2020, .pwr), (.pf 2, 0x68060, .key), (.pf 0, 0x40200, .saf), (.pf 0, 0x50010, .met),
        (.pf 1, 0x50010, .met), (.pf 2, 0x50010, .met), (.pf 0, 0x58050, .bil), (.pf 1, 0x58050, .bil), (.pf 2, 0x58050, .bil)] ∨
      (s.pwr.mgmtReady = true ∧ (m, off, e) ∈ [(.pf 2, 0x70300, .lcs), (.pf 2, 0x78020, .dia)]) ∨
      (s.pwr.controlReady = true ∧ (m, off, e) ∈ [(.pf 0, 0x44020, .lne), (.pf 0, 0x60040, .bat)]) →
      let b := s.beat m
      exec (.registerWrite m off w) s = .next (b.evSet e { s.evGet e with flags := (s.evGet e).flags &&& ~~~ w }) ∧
      exec (.registerWrite m (off + 4) w) s = .next (b.evSet e { s.evGet e with en := w &&& evMask e })) ∧
    (∀ (m : Master) (off : Nat), s.reaches m = true → off % 4 = 0 →
      let b := s.beat m
      let counted := b.modGlb fun g => { g with bank := vmod g.bank m.bank fun b => { b with cntUnmapped := satInc b.cntUnmapped, last := BitVec.ofNat 20 off } }
      (∀ v : DWord, b.regAt m off = some (.lo v) → b.sees m off = true → exec (.loWordRead m off) s = .next (b.modGlb fun g =>
        { g with bank := vmod g.bank m.bank fun b => { b with latches := sparsePut 0 b.latches off (hi32 v) } })) ∧
      (∀ v : Word, b.regAt m off = some (.w v) → exec (.loWordRead m off) s = .next b) ∧
      (b.regAt m off = none → exec (.loWordRead m off) s = .next counted ∧ ∀ wr : Bool, exec (.unmappedAccess m off wr) s = .next counted) ∧
      (b.regAt m off ≠ none → ∀ wr : Bool, exec (.unmappedAccess m off wr) s = .next b)) ∧
    (∀ (f : Fn) (off : Nat) (wr : Bool) (w : Word), s.reaches (.pf f) = true → off % 4 ≠ 0 →
      let bad := ((s.beat (.pf f)).modRingF f fun x => { x with cntBadAccess := satInc x.cntBadAccess }).raise (.ring f) 5
      exec (.loWordRead (.pf f) off) s = .next bad ∧ exec (.unmappedAccess (.pf f) off wr) s = .next bad ∧ exec (.registerWrite (.pf f) off w) s = .next bad)

/-- 11 R272; 10 R242, R262; 09 R220; 12 R310; 21 R488: the tick and the housekeeping round. -/
def Obligations.TicksAndHousekeepingRoundsRun : Prop :=
  ∀ s : State, s.supplied = true →
    (∀ (inp : TickIn) (k : Nat),
      s.now ≤ k * 20000 → (s.lne.ticked = true → s.lne.tick < k) → (∀ j, s.now ≤ j * 20000 → (s.lne.ticked = true → s.lne.tick < j) → k ≤ j) →
      let t := (s.runToFleet (k * Config.tickNs)).modLne fun l => { l with tick := k, ticked := true }
      let b := ((((if t.bil.legalUp = true then t.liveRecord k else t).sampleTick inp.sense).latchInputs inp).batTick).tokenTick
      (b.pwr.controlReady = true → exec (.controlTick inp) s = .next (b.lanesTick k).safetyTick.flushTrig) ∧
      (b.pwr.controlReady = false → exec (.controlTick inp) s = .next b.safetyTick.flushTrig)) ∧
    (∀ (inp : HkIn) (k : Nat),
      (s.now % Config.hkNs = 0 ∧ s.thm.hkEnd < s.now / Config.hkNs → k = s.now / Config.hkNs) →
      (s.now % Config.hkNs ≠ 0 ∨ s.now / Config.hkNs ≤ s.thm.hkEnd → k = s.now / Config.hkNs + 1) →
      let t := (s.runToFleet (k * Config.hkNs)).modThm fun x => { x with hkEnd := k }
      exec (.housekeepingRoundEnd inp) s = .next (((((t.thermalRound inp).laneTerms).batRound).forAll fun (o : Outlet) u =>
        u.modOut o fun x => { x with ppCode := if ((u.outCfg o).any fun c => c.kind == 0) = true then Config.cableCoding (inp.pp.get o) else 0 }).diaRound inp))
end

