-- ==== Sys2Proof/Laws/Image.lean ====
section
/-! SUPPORT. What the bytes of a configuration image read as. -/
namespace Sys2Proof.Machine

/-- A digest laid out in its 32 bytes reads back as itself. -/
theorem digestAt_leBytes (d : Digest) : digestAt (leBytes 32 d.toNat) 0 = d := by
  have key : ∀ n, n ≤ 32 → ∀ j, j < 256 → ((List.range n).foldl (fun w i => w ||| BitVec.ofNat 256 (u8 (leBytes 32 d.toNat) (0 + i)) <<< (8 * i)) (0 : BitVec 256)).getLsbD j = (decide (j < 8 * n) && d.getLsbD j) := by
    intro n
    induction n with
    | zero => intro _ j _; simp
    | succ n ih =>
      intro hn j hj
      rw [List.range_succ, List.foldl_append]
      simp only [List.foldl_cons, List.foldl_nil, BitVec.getLsbD_or, BitVec.getLsbD_shiftLeft, BitVec.getLsbD_ofNat]
      rw [ih (by omega) j hj]
      have hb : u8 (leBytes 32 d.toNat) (0 + n) = d.toNat / 2 ^ (8 * n) % 2 ^ 8 := by
        unfold u8 nth leBytes
        rw [List.getElem?_map, List.getElem?_range (by omega)]
        simp
      rw [hb, Nat.testBit_mod_two_pow, Nat.testBit_div_two_pow]
      rw [show d.getLsbD j = d.toNat.testBit j from rfl]
      by_cases h1 : j < 8 * n
      · have : j < 8 * (n + 1) := by omega
        simp [h1, this]
      · by_cases h2 : j < 8 * (n + 1)
        · have h3 : 8 * n + (j - 8 * n) = j := by omega
          have h4 : j - 8 * n < 8 := by omega
          have h5 : j - 8 * n < 2 ^ 8 := by omega
          rw [Nat.add_comm] at h3
          simp [h1, h2, h3, h4, hj]
          exact fun _ => by omega
        · have h4 : ¬ (j - 8 * n < 8) := by omega
          simp [h1, h2, h4]
  apply BitVec.eq_of_getLsbD_eq
  intro j hj
  have := key 32 (Nat.le_refl _) j hj
  unfold digestAt
  rw [this]
  simp; omega

end Sys2Proof.Machine
end

