-- ==== Sys2Proof/Laws/State.lean ====
section
/-! SUPPORT. What each update of the state changes and what it leaves: one conjunct for each field, all true by definition. -/
namespace Sys2Proof.Machine

@[simp] theorem State.modClk_clk (f : Clk → Clk) (s : State) : (s.modClk f).clk = f s.clk := rfl
@[simp] theorem State.modClk_frame (f : Clk → Clk) (s : State) :
    (s.modClk f).pwr = s.pwr ∧ (s.modClk f).ev = s.ev ∧ (s.modClk f).irq = s.irq ∧ (s.modClk f).ring = s.ring ∧
    (s.modClk f).ringF = s.ringF ∧ (s.modClk f).dlv = s.dlv ∧ (s.modClk f).win = s.win ∧ (s.modClk f).frz = s.frz ∧
    (s.modClk f).dia = s.dia ∧ (s.modClk f).glb = s.glb ∧ (s.modClk f).tun = s.tun ∧ (s.modClk f).hostOut = s.hostOut ∧
    (s.modClk f).rgt = s.rgt ∧ (s.modClk f).alc = s.alc ∧ (s.modClk f).cfg = s.cfg ∧ (s.modClk f).jn = s.jn ∧
    (s.modClk f).pwm = s.pwm ∧ (s.modClk f).reg = s.reg ∧ (s.modClk f).out = s.out ∧ (s.modClk f).mtx = s.mtx ∧
    (s.modClk f).vcl = s.vcl ∧ (s.modClk f).thm = s.thm ∧ (s.modClk f).saf = s.saf ∧ (s.modClk f).lne = s.lne ∧
    (s.modClk f).met = s.met ∧ (s.modClk f).bil = s.bil ∧ (s.modClk f).bat = s.bat ∧ (s.modClk f).key = s.key ∧
    (s.modClk f).lcs = s.lcs ∧ (s.modClk f).free = s.free ∧ (s.modClk f).pending = s.pending ∧
    (s.modClk f).sram = s.sram ∧ (s.modClk f).line = s.line :=
  ⟨rfl, rfl, rfl, rfl, rfl, rfl, rfl, rfl, rfl, rfl, rfl, rfl, rfl, rfl, rfl, rfl, rfl, rfl, rfl, rfl, rfl, rfl, rfl, rfl, rfl, rfl, rfl, rfl, rfl, rfl, rfl, rfl, rfl⟩

@[simp] theorem State.modPwr_pwr (f : Pwr → Pwr) (s : State) : (s.modPwr f).pwr = f s.pwr := rfl
@[simp] theorem State.modPwr_frame (f : Pwr → Pwr) (s : State) :
    (s.modPwr f).clk = s.clk ∧ (s.modPwr f).ev = s.ev ∧ (s.modPwr f).irq = s.irq ∧ (s.modPwr f).ring = s.ring ∧
    (s.modPwr f).ringF = s.ringF ∧ (s.modPwr f).dlv = s.dlv ∧ (s.modPwr f).win = s.win ∧ (s.modPwr f).frz = s.frz ∧
    (s.modPwr f).dia = s.dia ∧ (s.modPwr f).glb = s.glb ∧ (s.modPwr f).tun = s.tun ∧ (s.modPwr f).hostOut = s.hostOut ∧
    (s.modPwr f).rgt = s.rgt ∧ (s.modPwr f).alc = s.alc ∧ (s.modPwr f).cfg = s.cfg ∧ (s.modPwr f).jn = s.jn ∧
    (s.modPwr f).pwm = s.pwm ∧ (s.modPwr f).reg = s.reg ∧ (s.modPwr f).out = s.out ∧ (s.modPwr f).mtx = s.mtx ∧
    (s.modPwr f).vcl = s.vcl ∧ (s.modPwr f).thm = s.thm ∧ (s.modPwr f).saf = s.saf ∧ (s.modPwr f).lne = s.lne ∧
    (s.modPwr f).met = s.met ∧ (s.modPwr f).bil = s.bil ∧ (s.modPwr f).bat = s.bat ∧ (s.modPwr f).key = s.key ∧
    (s.modPwr f).lcs = s.lcs ∧ (s.modPwr f).free = s.free ∧ (s.modPwr f).pending = s.pending ∧
    (s.modPwr f).sram = s.sram ∧ (s.modPwr f).line = s.line :=
  ⟨rfl, rfl, rfl, rfl, rfl, rfl, rfl, rfl, rfl, rfl, rfl, rfl, rfl, rfl, rfl, rfl, rfl, rfl, rfl, rfl, rfl, rfl, rfl, rfl, rfl, rfl, rfl, rfl, rfl, rfl, rfl, rfl, rfl⟩

@[simp] theorem State.modEv_ev (f : EvRegs → EvRegs) (s : State) : (s.modEv f).ev = f s.ev := rfl
@[simp] theorem State.modEv_frame (f : EvRegs → EvRegs) (s : State) :
    (s.modEv f).clk = s.clk ∧ (s.modEv f).pwr = s.pwr ∧ (s.modEv f).irq = s.irq ∧ (s.modEv f).ring = s.ring ∧
    (s.modEv f).ringF = s.ringF ∧ (s.modEv f).dlv = s.dlv ∧ (s.modEv f).win = s.win ∧ (s.modEv f).frz = s.frz ∧
    (s.modEv f).dia = s.dia ∧ (s.modEv f).glb = s.glb ∧ (s.modEv f).tun = s.tun ∧ (s.modEv f).hostOut = s.hostOut ∧
    (s.modEv f).rgt = s.rgt ∧ (s.modEv f).alc = s.alc ∧ (s.modEv f).cfg = s.cfg ∧ (s.modEv f).jn = s.jn ∧ (s.modEv f).pwm = s.pwm ∧
    (s.modEv f).reg = s.reg ∧ (s.modEv f).out = s.out ∧ (s.modEv f).mtx = s.mtx ∧ (s.modEv f).vcl = s.vcl ∧ (s.modEv f).thm = s.thm ∧
    (s.modEv f).saf = s.saf ∧ (s.modEv f).lne = s.lne ∧ (s.modEv f).met = s.met ∧ (s.modEv f).bil = s.bil ∧ (s.modEv f).bat = s.bat ∧
    (s.modEv f).key = s.key ∧ (s.modEv f).lcs = s.lcs ∧ (s.modEv f).free = s.free ∧ (s.modEv f).pending = s.pending ∧
    (s.modEv f).sram = s.sram ∧ (s.modEv f).line = s.line :=
  ⟨rfl, rfl, rfl, rfl, rfl, rfl, rfl, rfl, rfl, rfl, rfl, rfl, rfl, rfl, rfl, rfl, rfl, rfl, rfl, rfl, rfl, rfl, rfl, rfl, rfl, rfl, rfl, rfl, rfl, rfl, rfl, rfl, rfl⟩

@[simp] theorem State.modIrq_irq (v : IrqVec) (f : Irq → Irq) (s : State) : (s.modIrq v f).irq = vmod s.irq v f := rfl
@[simp] theorem State.modIrq_frame (v : IrqVec) (f : Irq → Irq) (s : State) :
    (s.modIrq v f).clk = s.clk ∧ (s.modIrq v f).pwr = s.pwr ∧ (s.modIrq v f).ev = s.ev ∧ (s.modIrq v f).ring = s.ring ∧
    (s.modIrq v f).ringF = s.ringF ∧ (s.modIrq v f).dlv = s.dlv ∧ (s.modIrq v f).win = s.win ∧ (s.modIrq v f).frz = s.frz ∧
    (s.modIrq v f).dia = s.dia ∧ (s.modIrq v f).glb = s.glb ∧ (s.modIrq v f).tun = s.tun ∧ (s.modIrq v f).hostOut = s.hostOut ∧
    (s.modIrq v f).rgt = s.rgt ∧ (s.modIrq v f).alc = s.alc ∧ (s.modIrq v f).cfg = s.cfg ∧ (s.modIrq v f).jn = s.jn ∧
    (s.modIrq v f).pwm = s.pwm ∧ (s.modIrq v f).reg = s.reg ∧ (s.modIrq v f).out = s.out ∧ (s.modIrq v f).mtx = s.mtx ∧
    (s.modIrq v f).vcl = s.vcl ∧ (s.modIrq v f).thm = s.thm ∧ (s.modIrq v f).saf = s.saf ∧ (s.modIrq v f).lne = s.lne ∧
    (s.modIrq v f).met = s.met ∧ (s.modIrq v f).bil = s.bil ∧ (s.modIrq v f).bat = s.bat ∧ (s.modIrq v f).key = s.key ∧
    (s.modIrq v f).lcs = s.lcs ∧ (s.modIrq v f).free = s.free ∧ (s.modIrq v f).pending = s.pending ∧
    (s.modIrq v f).sram = s.sram ∧ (s.modIrq v f).line = s.line :=
  ⟨rfl, rfl, rfl, rfl, rfl, rfl, rfl, rfl, rfl, rfl, rfl, rfl, rfl, rfl, rfl, rfl, rfl, rfl, rfl, rfl, rfl, rfl, rfl, rfl, rfl, rfl, rfl, rfl, rfl, rfl, rfl, rfl, rfl⟩

@[simp] theorem State.modRing_ring (r : Ring) (f : RingSt → RingSt) (s : State) : (s.modRing r f).ring = vmod s.ring r f := rfl
@[simp] theorem State.modRing_frame (r : Ring) (f : RingSt → RingSt) (s : State) :
    (s.modRing r f).clk = s.clk ∧ (s.modRing r f).pwr = s.pwr ∧ (s.modRing r f).ev = s.ev ∧ (s.modRing r f).irq = s.irq ∧
    (s.modRing r f).ringF = s.ringF ∧ (s.modRing r f).dlv = s.dlv ∧ (s.modRing r f).win = s.win ∧ (s.modRing r f).frz = s.frz ∧
    (s.modRing r f).dia = s.dia ∧ (s.modRing r f).glb = s.glb ∧ (s.modRing r f).tun = s.tun ∧ (s.modRing r f).hostOut = s.hostOut ∧
    (s.modRing r f).rgt = s.rgt ∧ (s.modRing r f).alc = s.alc ∧ (s.modRing r f).cfg = s.cfg ∧ (s.modRing r f).jn = s.jn ∧
    (s.modRing r f).pwm = s.pwm ∧ (s.modRing r f).reg = s.reg ∧ (s.modRing r f).out = s.out ∧ (s.modRing r f).mtx = s.mtx ∧
    (s.modRing r f).vcl = s.vcl ∧ (s.modRing r f).thm = s.thm ∧ (s.modRing r f).saf = s.saf ∧ (s.modRing r f).lne = s.lne ∧
    (s.modRing r f).met = s.met ∧ (s.modRing r f).bil = s.bil ∧ (s.modRing r f).bat = s.bat ∧ (s.modRing r f).key = s.key ∧
    (s.modRing r f).lcs = s.lcs ∧ (s.modRing r f).free = s.free ∧ (s.modRing r f).pending = s.pending ∧
    (s.modRing r f).sram = s.sram ∧ (s.modRing r f).line = s.line :=
  ⟨rfl, rfl, rfl, rfl, rfl, rfl, rfl, rfl, rfl, rfl, rfl, rfl, rfl, rfl, rfl, rfl, rfl, rfl, rfl, rfl, rfl, rfl, rfl, rfl, rfl, rfl, rfl, rfl, rfl, rfl, rfl, rfl, rfl⟩

@[simp] theorem State.modRingF_ringF (n : Fn) (f : RingFn → RingFn) (s : State) : (s.modRingF n f).ringF = vmod s.ringF n f := rfl
@[simp] theorem State.modRingF_frame (n : Fn) (f : RingFn → RingFn) (s : State) :
    (s.modRingF n f).clk = s.clk ∧ (s.modRingF n f).pwr = s.pwr ∧ (s.modRingF n f).ev = s.ev ∧ (s.modRingF n f).irq = s.irq ∧
    (s.modRingF n f).ring = s.ring ∧ (s.modRingF n f).dlv = s.dlv ∧ (s.modRingF n f).win = s.win ∧ (s.modRingF n f).frz = s.frz ∧
    (s.modRingF n f).dia = s.dia ∧ (s.modRingF n f).glb = s.glb ∧ (s.modRingF n f).tun = s.tun ∧ (s.modRingF n f).hostOut = s.hostOut ∧
    (s.modRingF n f).rgt = s.rgt ∧ (s.modRingF n f).alc = s.alc ∧ (s.modRingF n f).cfg = s.cfg ∧ (s.modRingF n f).jn = s.jn ∧
    (s.modRingF n f).pwm = s.pwm ∧ (s.modRingF n f).reg = s.reg ∧ (s.modRingF n f).out = s.out ∧ (s.modRingF n f).mtx = s.mtx ∧
    (s.modRingF n f).vcl = s.vcl ∧ (s.modRingF n f).thm = s.thm ∧ (s.modRingF n f).saf = s.saf ∧ (s.modRingF n f).lne = s.lne ∧
    (s.modRingF n f).met = s.met ∧ (s.modRingF n f).bil = s.bil ∧ (s.modRingF n f).bat = s.bat ∧ (s.modRingF n f).key = s.key ∧
    (s.modRingF n f).lcs = s.lcs ∧ (s.modRingF n f).free = s.free ∧ (s.modRingF n f).pending = s.pending ∧
    (s.modRingF n f).sram = s.sram ∧ (s.modRingF n f).line = s.line :=
  ⟨rfl, rfl, rfl, rfl, rfl, rfl, rfl, rfl, rfl, rfl, rfl, rfl, rfl, rfl, rfl, rfl, rfl, rfl, rfl, rfl, rfl, rfl, rfl, rfl, rfl, rfl, rfl, rfl, rfl, rfl, rfl, rfl, rfl⟩

@[simp] theorem State.modDlv_dlv (f : Dlv → Dlv) (s : State) : (s.modDlv f).dlv = f s.dlv := rfl
@[simp] theorem State.modDlv_frame (f : Dlv → Dlv) (s : State) :
    (s.modDlv f).clk = s.clk ∧ (s.modDlv f).pwr = s.pwr ∧ (s.modDlv f).ev = s.ev ∧ (s.modDlv f).irq = s.irq ∧
    (s.modDlv f).ring = s.ring ∧ (s.modDlv f).ringF = s.ringF ∧ (s.modDlv f).win = s.win ∧ (s.modDlv f).frz = s.frz ∧
    (s.modDlv f).dia = s.dia ∧ (s.modDlv f).glb = s.glb ∧ (s.modDlv f).tun = s.tun ∧ (s.modDlv f).hostOut = s.hostOut ∧
    (s.modDlv f).rgt = s.rgt ∧ (s.modDlv f).alc = s.alc ∧ (s.modDlv f).cfg = s.cfg ∧ (s.modDlv f).jn = s.jn ∧
    (s.modDlv f).pwm = s.pwm ∧ (s.modDlv f).reg = s.reg ∧ (s.modDlv f).out = s.out ∧ (s.modDlv f).mtx = s.mtx ∧
    (s.modDlv f).vcl = s.vcl ∧ (s.modDlv f).thm = s.thm ∧ (s.modDlv f).saf = s.saf ∧ (s.modDlv f).lne = s.lne ∧
    (s.modDlv f).met = s.met ∧ (s.modDlv f).bil = s.bil ∧ (s.modDlv f).bat = s.bat ∧ (s.modDlv f).key = s.key ∧
    (s.modDlv f).lcs = s.lcs ∧ (s.modDlv f).free = s.free ∧ (s.modDlv f).pending = s.pending ∧
    (s.modDlv f).sram = s.sram ∧ (s.modDlv f).line = s.line :=
  ⟨rfl, rfl, rfl, rfl, rfl, rfl, rfl, rfl, rfl, rfl, rfl, rfl, rfl, rfl, rfl, rfl, rfl, rfl, rfl, rfl, rfl, rfl, rfl, rfl, rfl, rfl, rfl, rfl, rfl, rfl, rfl, rfl, rfl⟩

@[simp] theorem State.modWin_win (f : Win → Win) (s : State) : (s.modWin f).win = f s.win := rfl
@[simp] theorem State.modWin_frame (f : Win → Win) (s : State) :
    (s.modWin f).clk = s.clk ∧ (s.modWin f).pwr = s.pwr ∧ (s.modWin f).ev = s.ev ∧ (s.modWin f).irq = s.irq ∧
    (s.modWin f).ring = s.ring ∧ (s.modWin f).ringF = s.ringF ∧ (s.modWin f).dlv = s.dlv ∧ (s.modWin f).frz = s.frz ∧
    (s.modWin f).dia = s.dia ∧ (s.modWin f).glb = s.glb ∧ (s.modWin f).tun = s.tun ∧ (s.modWin f).hostOut = s.hostOut ∧
    (s.modWin f).rgt = s.rgt ∧ (s.modWin f).alc = s.alc ∧ (s.modWin f).cfg = s.cfg ∧ (s.modWin f).jn = s.jn ∧
    (s.modWin f).pwm = s.pwm ∧ (s.modWin f).reg = s.reg ∧ (s.modWin f).out = s.out ∧ (s.modWin f).mtx = s.mtx ∧
    (s.modWin f).vcl = s.vcl ∧ (s.modWin f).thm = s.thm ∧ (s.modWin f).saf = s.saf ∧ (s.modWin f).lne = s.lne ∧
    (s.modWin f).met = s.met ∧ (s.modWin f).bil = s.bil ∧ (s.modWin f).bat = s.bat ∧ (s.modWin f).key = s.key ∧
    (s.modWin f).lcs = s.lcs ∧ (s.modWin f).free = s.free ∧ (s.modWin f).pending = s.pending ∧
    (s.modWin f).sram = s.sram ∧ (s.modWin f).line = s.line :=
  ⟨rfl, rfl, rfl, rfl, rfl, rfl, rfl, rfl, rfl, rfl, rfl, rfl, rfl, rfl, rfl, rfl, rfl, rfl, rfl, rfl, rfl, rfl, rfl, rfl, rfl, rfl, rfl, rfl, rfl, rfl, rfl, rfl, rfl⟩

@[simp] theorem State.modFrz_frz (f : Frz → Frz) (s : State) : (s.modFrz f).frz = f s.frz := rfl
@[simp] theorem State.modFrz_frame (f : Frz → Frz) (s : State) :
    (s.modFrz f).clk = s.clk ∧ (s.modFrz f).pwr = s.pwr ∧ (s.modFrz f).ev = s.ev ∧ (s.modFrz f).irq = s.irq ∧
    (s.modFrz f).ring = s.ring ∧ (s.modFrz f).ringF = s.ringF ∧ (s.modFrz f).dlv = s.dlv ∧ (s.modFrz f).win = s.win ∧
    (s.modFrz f).dia = s.dia ∧ (s.modFrz f).glb = s.glb ∧ (s.modFrz f).tun = s.tun ∧ (s.modFrz f).hostOut = s.hostOut ∧
    (s.modFrz f).rgt = s.rgt ∧ (s.modFrz f).alc = s.alc ∧ (s.modFrz f).cfg = s.cfg ∧ (s.modFrz f).jn = s.jn ∧
    (s.modFrz f).pwm = s.pwm ∧ (s.modFrz f).reg = s.reg ∧ (s.modFrz f).out = s.out ∧ (s.modFrz f).mtx = s.mtx ∧
    (s.modFrz f).vcl = s.vcl ∧ (s.modFrz f).thm = s.thm ∧ (s.modFrz f).saf = s.saf ∧ (s.modFrz f).lne = s.lne ∧
    (s.modFrz f).met = s.met ∧ (s.modFrz f).bil = s.bil ∧ (s.modFrz f).bat = s.bat ∧ (s.modFrz f).key = s.key ∧
    (s.modFrz f).lcs = s.lcs ∧ (s.modFrz f).free = s.free ∧ (s.modFrz f).pending = s.pending ∧
    (s.modFrz f).sram = s.sram ∧ (s.modFrz f).line = s.line :=
  ⟨rfl, rfl, rfl, rfl, rfl, rfl, rfl, rfl, rfl, rfl, rfl, rfl, rfl, rfl, rfl, rfl, rfl, rfl, rfl, rfl, rfl, rfl, rfl, rfl, rfl, rfl, rfl, rfl, rfl, rfl, rfl, rfl, rfl⟩

@[simp] theorem State.modDia_dia (f : Dia → Dia) (s : State) : (s.modDia f).dia = f s.dia := rfl
@[simp] theorem State.modDia_frame (f : Dia → Dia) (s : State) :
    (s.modDia f).clk = s.clk ∧ (s.modDia f).pwr = s.pwr ∧ (s.modDia f).ev = s.ev ∧ (s.modDia f).irq = s.irq ∧
    (s.modDia f).ring = s.ring ∧ (s.modDia f).ringF = s.ringF ∧ (s.modDia f).dlv = s.dlv ∧ (s.modDia f).win = s.win ∧
    (s.modDia f).frz = s.frz ∧ (s.modDia f).glb = s.glb ∧ (s.modDia f).tun = s.tun ∧ (s.modDia f).hostOut = s.hostOut ∧
    (s.modDia f).rgt = s.rgt ∧ (s.modDia f).alc = s.alc ∧ (s.modDia f).cfg = s.cfg ∧ (s.modDia f).jn = s.jn ∧
    (s.modDia f).pwm = s.pwm ∧ (s.modDia f).reg = s.reg ∧ (s.modDia f).out = s.out ∧ (s.modDia f).mtx = s.mtx ∧
    (s.modDia f).vcl = s.vcl ∧ (s.modDia f).thm = s.thm ∧ (s.modDia f).saf = s.saf ∧ (s.modDia f).lne = s.lne ∧
    (s.modDia f).met = s.met ∧ (s.modDia f).bil = s.bil ∧ (s.modDia f).bat = s.bat ∧ (s.modDia f).key = s.key ∧
    (s.modDia f).lcs = s.lcs ∧ (s.modDia f).free = s.free ∧ (s.modDia f).pending = s.pending ∧
    (s.modDia f).sram = s.sram ∧ (s.modDia f).line = s.line :=
  ⟨rfl, rfl, rfl, rfl, rfl, rfl, rfl, rfl, rfl, rfl, rfl, rfl, rfl, rfl, rfl, rfl, rfl, rfl, rfl, rfl, rfl, rfl, rfl, rfl, rfl, rfl, rfl, rfl, rfl, rfl, rfl, rfl, rfl⟩

@[simp] theorem State.modGlb_glb (f : Glb → Glb) (s : State) : (s.modGlb f).glb = f s.glb := rfl
@[simp] theorem State.modGlb_frame (f : Glb → Glb) (s : State) :
    (s.modGlb f).clk = s.clk ∧ (s.modGlb f).pwr = s.pwr ∧ (s.modGlb f).ev = s.ev ∧ (s.modGlb f).irq = s.irq ∧
    (s.modGlb f).ring = s.ring ∧ (s.modGlb f).ringF = s.ringF ∧ (s.modGlb f).dlv = s.dlv ∧ (s.modGlb f).win = s.win ∧
    (s.modGlb f).frz = s.frz ∧ (s.modGlb f).dia = s.dia ∧ (s.modGlb f).tun = s.tun ∧ (s.modGlb f).hostOut = s.hostOut ∧
    (s.modGlb f).rgt = s.rgt ∧ (s.modGlb f).alc = s.alc ∧ (s.modGlb f).cfg = s.cfg ∧ (s.modGlb f).jn = s.jn ∧
    (s.modGlb f).pwm = s.pwm ∧ (s.modGlb f).reg = s.reg ∧ (s.modGlb f).out = s.out ∧ (s.modGlb f).mtx = s.mtx ∧
    (s.modGlb f).vcl = s.vcl ∧ (s.modGlb f).thm = s.thm ∧ (s.modGlb f).saf = s.saf ∧ (s.modGlb f).lne = s.lne ∧
    (s.modGlb f).met = s.met ∧ (s.modGlb f).bil = s.bil ∧ (s.modGlb f).bat = s.bat ∧ (s.modGlb f).key = s.key ∧
    (s.modGlb f).lcs = s.lcs ∧ (s.modGlb f).free = s.free ∧ (s.modGlb f).pending = s.pending ∧
    (s.modGlb f).sram = s.sram ∧ (s.modGlb f).line = s.line :=
  ⟨rfl, rfl, rfl, rfl, rfl, rfl, rfl, rfl, rfl, rfl, rfl, rfl, rfl, rfl, rfl, rfl, rfl, rfl, rfl, rfl, rfl, rfl, rfl, rfl, rfl, rfl, rfl, rfl, rfl, rfl, rfl, rfl, rfl⟩

@[simp] theorem State.modTun_tun (f : Tunnel → Tunnel) (s : State) : (s.modTun f).tun = f s.tun := rfl
@[simp] theorem State.modTun_frame (f : Tunnel → Tunnel) (s : State) :
    (s.modTun f).clk = s.clk ∧ (s.modTun f).pwr = s.pwr ∧ (s.modTun f).ev = s.ev ∧ (s.modTun f).irq = s.irq ∧
    (s.modTun f).ring = s.ring ∧ (s.modTun f).ringF = s.ringF ∧ (s.modTun f).dlv = s.dlv ∧ (s.modTun f).win = s.win ∧
    (s.modTun f).frz = s.frz ∧ (s.modTun f).dia = s.dia ∧ (s.modTun f).glb = s.glb ∧ (s.modTun f).hostOut = s.hostOut ∧
    (s.modTun f).rgt = s.rgt ∧ (s.modTun f).alc = s.alc ∧ (s.modTun f).cfg = s.cfg ∧ (s.modTun f).jn = s.jn ∧
    (s.modTun f).pwm = s.pwm ∧ (s.modTun f).reg = s.reg ∧ (s.modTun f).out = s.out ∧ (s.modTun f).mtx = s.mtx ∧
    (s.modTun f).vcl = s.vcl ∧ (s.modTun f).thm = s.thm ∧ (s.modTun f).saf = s.saf ∧ (s.modTun f).lne = s.lne ∧
    (s.modTun f).met = s.met ∧ (s.modTun f).bil = s.bil ∧ (s.modTun f).bat = s.bat ∧ (s.modTun f).key = s.key ∧
    (s.modTun f).lcs = s.lcs ∧ (s.modTun f).free = s.free ∧ (s.modTun f).pending = s.pending ∧
    (s.modTun f).sram = s.sram ∧ (s.modTun f).line = s.line :=
  ⟨rfl, rfl, rfl, rfl, rfl, rfl, rfl, rfl, rfl, rfl, rfl, rfl, rfl, rfl, rfl, rfl, rfl, rfl, rfl, rfl, rfl, rfl, rfl, rfl, rfl, rfl, rfl, rfl, rfl, rfl, rfl, rfl, rfl⟩

@[simp] theorem State.modHost_hostOut (f : HostOut → HostOut) (s : State) : (s.modHost f).hostOut = f s.hostOut := rfl
@[simp] theorem State.modHost_frame (f : HostOut → HostOut) (s : State) :
    (s.modHost f).clk = s.clk ∧ (s.modHost f).pwr = s.pwr ∧ (s.modHost f).ev = s.ev ∧ (s.modHost f).irq = s.irq ∧
    (s.modHost f).ring = s.ring ∧ (s.modHost f).ringF = s.ringF ∧ (s.modHost f).dlv = s.dlv ∧ (s.modHost f).win = s.win ∧
    (s.modHost f).frz = s.frz ∧ (s.modHost f).dia = s.dia ∧ (s.modHost f).glb = s.glb ∧ (s.modHost f).tun = s.tun ∧
    (s.modHost f).rgt = s.rgt ∧ (s.modHost f).alc = s.alc ∧ (s.modHost f).cfg = s.cfg ∧ (s.modHost f).jn = s.jn ∧
    (s.modHost f).pwm = s.pwm ∧ (s.modHost f).reg = s.reg ∧ (s.modHost f).out = s.out ∧ (s.modHost f).mtx = s.mtx ∧
    (s.modHost f).vcl = s.vcl ∧ (s.modHost f).thm = s.thm ∧ (s.modHost f).saf = s.saf ∧ (s.modHost f).lne = s.lne ∧
    (s.modHost f).met = s.met ∧ (s.modHost f).bil = s.bil ∧ (s.modHost f).bat = s.bat ∧ (s.modHost f).key = s.key ∧
    (s.modHost f).lcs = s.lcs ∧ (s.modHost f).free = s.free ∧ (s.modHost f).pending = s.pending ∧
    (s.modHost f).sram = s.sram ∧ (s.modHost f).line = s.line :=
  ⟨rfl, rfl, rfl, rfl, rfl, rfl, rfl, rfl, rfl, rfl, rfl, rfl, rfl, rfl, rfl, rfl, rfl, rfl, rfl, rfl, rfl, rfl, rfl, rfl, rfl, rfl, rfl, rfl, rfl, rfl, rfl, rfl, rfl⟩

@[simp] theorem State.modRgt_rgt (f : Rgt → Rgt) (s : State) : (s.modRgt f).rgt = f s.rgt := rfl
@[simp] theorem State.modRgt_frame (f : Rgt → Rgt) (s : State) :
    (s.modRgt f).clk = s.clk ∧ (s.modRgt f).pwr = s.pwr ∧ (s.modRgt f).ev = s.ev ∧ (s.modRgt f).irq = s.irq ∧
    (s.modRgt f).ring = s.ring ∧ (s.modRgt f).ringF = s.ringF ∧ (s.modRgt f).dlv = s.dlv ∧ (s.modRgt f).win = s.win ∧
    (s.modRgt f).frz = s.frz ∧ (s.modRgt f).dia = s.dia ∧ (s.modRgt f).glb = s.glb ∧ (s.modRgt f).tun = s.tun ∧
    (s.modRgt f).hostOut = s.hostOut ∧ (s.modRgt f).alc = s.alc ∧ (s.modRgt f).cfg = s.cfg ∧ (s.modRgt f).jn = s.jn ∧
    (s.modRgt f).pwm = s.pwm ∧ (s.modRgt f).reg = s.reg ∧ (s.modRgt f).out = s.out ∧ (s.modRgt f).mtx = s.mtx ∧
    (s.modRgt f).vcl = s.vcl ∧ (s.modRgt f).thm = s.thm ∧ (s.modRgt f).saf = s.saf ∧ (s.modRgt f).lne = s.lne ∧
    (s.modRgt f).met = s.met ∧ (s.modRgt f).bil = s.bil ∧ (s.modRgt f).bat = s.bat ∧ (s.modRgt f).key = s.key ∧
    (s.modRgt f).lcs = s.lcs ∧ (s.modRgt f).free = s.free ∧ (s.modRgt f).pending = s.pending ∧
    (s.modRgt f).sram = s.sram ∧ (s.modRgt f).line = s.line :=
  ⟨rfl, rfl, rfl, rfl, rfl, rfl, rfl, rfl, rfl, rfl, rfl, rfl, rfl, rfl, rfl, rfl, rfl, rfl, rfl, rfl, rfl, rfl, rfl, rfl, rfl, rfl, rfl, rfl, rfl, rfl, rfl, rfl, rfl⟩

@[simp] theorem State.modPort_rgt (p : Port) (f : PortSt → PortSt) (s : State) : (s.modPort p f).rgt = { s.rgt with port := vmod s.rgt.port p f } := rfl
@[simp] theorem State.modPort_frame (p : Port) (f : PortSt → PortSt) (s : State) :
    (s.modPort p f).clk = s.clk ∧ (s.modPort p f).pwr = s.pwr ∧ (s.modPort p f).ev = s.ev ∧ (s.modPort p f).irq = s.irq ∧
    (s.modPort p f).ring = s.ring ∧ (s.modPort p f).ringF = s.ringF ∧ (s.modPort p f).dlv = s.dlv ∧ (s.modPort p f).win = s.win ∧
    (s.modPort p f).frz = s.frz ∧ (s.modPort p f).dia = s.dia ∧ (s.modPort p f).glb = s.glb ∧ (s.modPort p f).tun = s.tun ∧
    (s.modPort p f).hostOut = s.hostOut ∧ (s.modPort p f).alc = s.alc ∧ (s.modPort p f).cfg = s.cfg ∧ (s.modPort p f).jn = s.jn ∧
    (s.modPort p f).pwm = s.pwm ∧ (s.modPort p f).reg = s.reg ∧ (s.modPort p f).out = s.out ∧ (s.modPort p f).mtx = s.mtx ∧
    (s.modPort p f).vcl = s.vcl ∧ (s.modPort p f).thm = s.thm ∧ (s.modPort p f).saf = s.saf ∧ (s.modPort p f).lne = s.lne ∧
    (s.modPort p f).met = s.met ∧ (s.modPort p f).bil = s.bil ∧ (s.modPort p f).bat = s.bat ∧ (s.modPort p f).key = s.key ∧
    (s.modPort p f).lcs = s.lcs ∧ (s.modPort p f).free = s.free ∧ (s.modPort p f).pending = s.pending ∧
    (s.modPort p f).sram = s.sram ∧ (s.modPort p f).line = s.line :=
  ⟨rfl, rfl, rfl, rfl, rfl, rfl, rfl, rfl, rfl, rfl, rfl, rfl, rfl, rfl, rfl, rfl, rfl, rfl, rfl, rfl, rfl, rfl, rfl, rfl, rfl, rfl, rfl, rfl, rfl, rfl, rfl, rfl, rfl⟩

@[simp] theorem State.modAlc_alc (f : Alc → Alc) (s : State) : (s.modAlc f).alc = f s.alc := rfl
@[simp] theorem State.modAlc_frame (f : Alc → Alc) (s : State) :
    (s.modAlc f).clk = s.clk ∧ (s.modAlc f).pwr = s.pwr ∧ (s.modAlc f).ev = s.ev ∧ (s.modAlc f).irq = s.irq ∧
    (s.modAlc f).ring = s.ring ∧ (s.modAlc f).ringF = s.ringF ∧ (s.modAlc f).dlv = s.dlv ∧ (s.modAlc f).win = s.win ∧
    (s.modAlc f).frz = s.frz ∧ (s.modAlc f).dia = s.dia ∧ (s.modAlc f).glb = s.glb ∧ (s.modAlc f).tun = s.tun ∧
    (s.modAlc f).hostOut = s.hostOut ∧ (s.modAlc f).rgt = s.rgt ∧ (s.modAlc f).cfg = s.cfg ∧ (s.modAlc f).jn = s.jn ∧
    (s.modAlc f).pwm = s.pwm ∧ (s.modAlc f).reg = s.reg ∧ (s.modAlc f).out = s.out ∧ (s.modAlc f).mtx = s.mtx ∧
    (s.modAlc f).vcl = s.vcl ∧ (s.modAlc f).thm = s.thm ∧ (s.modAlc f).saf = s.saf ∧ (s.modAlc f).lne = s.lne ∧
    (s.modAlc f).met = s.met ∧ (s.modAlc f).bil = s.bil ∧ (s.modAlc f).bat = s.bat ∧ (s.modAlc f).key = s.key ∧
    (s.modAlc f).lcs = s.lcs ∧ (s.modAlc f).free = s.free ∧ (s.modAlc f).pending = s.pending ∧
    (s.modAlc f).sram = s.sram ∧ (s.modAlc f).line = s.line :=
  ⟨rfl, rfl, rfl, rfl, rfl, rfl, rfl, rfl, rfl, rfl, rfl, rfl, rfl, rfl, rfl, rfl, rfl, rfl, rfl, rfl, rfl, rfl, rfl, rfl, rfl, rfl, rfl, rfl, rfl, rfl, rfl, rfl, rfl⟩

@[simp] theorem State.modChild_alc (p : Port) (f : ChildSt → ChildSt) (s : State) : (s.modChild p f).alc = { s.alc with child := vmod s.alc.child p f } := rfl
@[simp] theorem State.modChild_frame (p : Port) (f : ChildSt → ChildSt) (s : State) :
    (s.modChild p f).clk = s.clk ∧ (s.modChild p f).pwr = s.pwr ∧ (s.modChild p f).ev = s.ev ∧ (s.modChild p f).irq = s.irq ∧
    (s.modChild p f).ring = s.ring ∧ (s.modChild p f).ringF = s.ringF ∧ (s.modChild p f).dlv = s.dlv ∧ (s.modChild p f).win = s.win ∧
    (s.modChild p f).frz = s.frz ∧ (s.modChild p f).dia = s.dia ∧ (s.modChild p f).glb = s.glb ∧ (s.modChild p f).tun = s.tun ∧
    (s.modChild p f).hostOut = s.hostOut ∧ (s.modChild p f).rgt = s.rgt ∧ (s.modChild p f).cfg = s.cfg ∧ (s.modChild p f).jn = s.jn ∧
    (s.modChild p f).pwm = s.pwm ∧ (s.modChild p f).reg = s.reg ∧ (s.modChild p f).out = s.out ∧ (s.modChild p f).mtx = s.mtx ∧
    (s.modChild p f).vcl = s.vcl ∧ (s.modChild p f).thm = s.thm ∧ (s.modChild p f).saf = s.saf ∧ (s.modChild p f).lne = s.lne ∧
    (s.modChild p f).met = s.met ∧ (s.modChild p f).bil = s.bil ∧ (s.modChild p f).bat = s.bat ∧ (s.modChild p f).key = s.key ∧
    (s.modChild p f).lcs = s.lcs ∧ (s.modChild p f).free = s.free ∧ (s.modChild p f).pending = s.pending ∧
    (s.modChild p f).sram = s.sram ∧ (s.modChild p f).line = s.line :=
  ⟨rfl, rfl, rfl, rfl, rfl, rfl, rfl, rfl, rfl, rfl, rfl, rfl, rfl, rfl, rfl, rfl, rfl, rfl, rfl, rfl, rfl, rfl, rfl, rfl, rfl, rfl, rfl, rfl, rfl, rfl, rfl, rfl, rfl⟩

@[simp] theorem State.modCfg_cfg (f : Cfg → Cfg) (s : State) : (s.modCfg f).cfg = f s.cfg := rfl
@[simp] theorem State.modCfg_frame (f : Cfg → Cfg) (s : State) :
    (s.modCfg f).clk = s.clk ∧ (s.modCfg f).pwr = s.pwr ∧ (s.modCfg f).ev = s.ev ∧ (s.modCfg f).irq = s.irq ∧
    (s.modCfg f).ring = s.ring ∧ (s.modCfg f).ringF = s.ringF ∧ (s.modCfg f).dlv = s.dlv ∧ (s.modCfg f).win = s.win ∧
    (s.modCfg f).frz = s.frz ∧ (s.modCfg f).dia = s.dia ∧ (s.modCfg f).glb = s.glb ∧ (s.modCfg f).tun = s.tun ∧
    (s.modCfg f).hostOut = s.hostOut ∧ (s.modCfg f).rgt = s.rgt ∧ (s.modCfg f).alc = s.alc ∧ (s.modCfg f).jn = s.jn ∧
    (s.modCfg f).pwm = s.pwm ∧ (s.modCfg f).reg = s.reg ∧ (s.modCfg f).out = s.out ∧ (s.modCfg f).mtx = s.mtx ∧
    (s.modCfg f).vcl = s.vcl ∧ (s.modCfg f).thm = s.thm ∧ (s.modCfg f).saf = s.saf ∧ (s.modCfg f).lne = s.lne ∧
    (s.modCfg f).met = s.met ∧ (s.modCfg f).bil = s.bil ∧ (s.modCfg f).bat = s.bat ∧ (s.modCfg f).key = s.key ∧
    (s.modCfg f).lcs = s.lcs ∧ (s.modCfg f).free = s.free ∧ (s.modCfg f).pending = s.pending ∧
    (s.modCfg f).sram = s.sram ∧ (s.modCfg f).line = s.line :=
  ⟨rfl, rfl, rfl, rfl, rfl, rfl, rfl, rfl, rfl, rfl, rfl, rfl, rfl, rfl, rfl, rfl, rfl, rfl, rfl, rfl, rfl, rfl, rfl, rfl, rfl, rfl, rfl, rfl, rfl, rfl, rfl, rfl, rfl⟩

@[simp] theorem State.modJn_jn (o : Outlet) (f : JnSt → JnSt) (s : State) : (s.modJn o f).jn = vmod s.jn o f := rfl
@[simp] theorem State.modJn_frame (o : Outlet) (f : JnSt → JnSt) (s : State) :
    (s.modJn o f).clk = s.clk ∧ (s.modJn o f).pwr = s.pwr ∧ (s.modJn o f).ev = s.ev ∧ (s.modJn o f).irq = s.irq ∧
    (s.modJn o f).ring = s.ring ∧ (s.modJn o f).ringF = s.ringF ∧ (s.modJn o f).dlv = s.dlv ∧ (s.modJn o f).win = s.win ∧
    (s.modJn o f).frz = s.frz ∧ (s.modJn o f).dia = s.dia ∧ (s.modJn o f).glb = s.glb ∧ (s.modJn o f).tun = s.tun ∧
    (s.modJn o f).hostOut = s.hostOut ∧ (s.modJn o f).rgt = s.rgt ∧ (s.modJn o f).alc = s.alc ∧ (s.modJn o f).cfg = s.cfg ∧
    (s.modJn o f).pwm = s.pwm ∧ (s.modJn o f).reg = s.reg ∧ (s.modJn o f).out = s.out ∧ (s.modJn o f).mtx = s.mtx ∧
    (s.modJn o f).vcl = s.vcl ∧ (s.modJn o f).thm = s.thm ∧ (s.modJn o f).saf = s.saf ∧ (s.modJn o f).lne = s.lne ∧
    (s.modJn o f).met = s.met ∧ (s.modJn o f).bil = s.bil ∧ (s.modJn o f).bat = s.bat ∧ (s.modJn o f).key = s.key ∧
    (s.modJn o f).lcs = s.lcs ∧ (s.modJn o f).free = s.free ∧ (s.modJn o f).pending = s.pending ∧
    (s.modJn o f).sram = s.sram ∧ (s.modJn o f).line = s.line :=
  ⟨rfl, rfl, rfl, rfl, rfl, rfl, rfl, rfl, rfl, rfl, rfl, rfl, rfl, rfl, rfl, rfl, rfl, rfl, rfl, rfl, rfl, rfl, rfl, rfl, rfl, rfl, rfl, rfl, rfl, rfl, rfl, rfl, rfl⟩

@[simp] theorem State.modPwm_pwm (f : Pwm → Pwm) (s : State) : (s.modPwm f).pwm = f s.pwm := rfl
@[simp] theorem State.modPwm_frame (f : Pwm → Pwm) (s : State) :
    (s.modPwm f).clk = s.clk ∧ (s.modPwm f).pwr = s.pwr ∧ (s.modPwm f).ev = s.ev ∧ (s.modPwm f).irq = s.irq ∧
    (s.modPwm f).ring = s.ring ∧ (s.modPwm f).ringF = s.ringF ∧ (s.modPwm f).dlv = s.dlv ∧ (s.modPwm f).win = s.win ∧
    (s.modPwm f).frz = s.frz ∧ (s.modPwm f).dia = s.dia ∧ (s.modPwm f).glb = s.glb ∧ (s.modPwm f).tun = s.tun ∧
    (s.modPwm f).hostOut = s.hostOut ∧ (s.modPwm f).rgt = s.rgt ∧ (s.modPwm f).alc = s.alc ∧ (s.modPwm f).cfg = s.cfg ∧
    (s.modPwm f).jn = s.jn ∧ (s.modPwm f).reg = s.reg ∧ (s.modPwm f).out = s.out ∧ (s.modPwm f).mtx = s.mtx ∧
    (s.modPwm f).vcl = s.vcl ∧ (s.modPwm f).thm = s.thm ∧ (s.modPwm f).saf = s.saf ∧ (s.modPwm f).lne = s.lne ∧
    (s.modPwm f).met = s.met ∧ (s.modPwm f).bil = s.bil ∧ (s.modPwm f).bat = s.bat ∧ (s.modPwm f).key = s.key ∧
    (s.modPwm f).lcs = s.lcs ∧ (s.modPwm f).free = s.free ∧ (s.modPwm f).pending = s.pending ∧
    (s.modPwm f).sram = s.sram ∧ (s.modPwm f).line = s.line :=
  ⟨rfl, rfl, rfl, rfl, rfl, rfl, rfl, rfl, rfl, rfl, rfl, rfl, rfl, rfl, rfl, rfl, rfl, rfl, rfl, rfl, rfl, rfl, rfl, rfl, rfl, rfl, rfl, rfl, rfl, rfl, rfl, rfl, rfl⟩

@[simp] theorem State.modCh_pwm (n : Phase) (f : PwmCh → PwmCh) (s : State) : (s.modCh n f).pwm = { s.pwm with ch := vmod s.pwm.ch n f } := rfl
@[simp] theorem State.modCh_frame (n : Phase) (f : PwmCh → PwmCh) (s : State) :
    (s.modCh n f).clk = s.clk ∧ (s.modCh n f).pwr = s.pwr ∧ (s.modCh n f).ev = s.ev ∧ (s.modCh n f).irq = s.irq ∧
    (s.modCh n f).ring = s.ring ∧ (s.modCh n f).ringF = s.ringF ∧ (s.modCh n f).dlv = s.dlv ∧ (s.modCh n f).win = s.win ∧
    (s.modCh n f).frz = s.frz ∧ (s.modCh n f).dia = s.dia ∧ (s.modCh n f).glb = s.glb ∧ (s.modCh n f).tun = s.tun ∧
    (s.modCh n f).hostOut = s.hostOut ∧ (s.modCh n f).rgt = s.rgt ∧ (s.modCh n f).alc = s.alc ∧ (s.modCh n f).cfg = s.cfg ∧
    (s.modCh n f).jn = s.jn ∧ (s.modCh n f).reg = s.reg ∧ (s.modCh n f).out = s.out ∧ (s.modCh n f).mtx = s.mtx ∧
    (s.modCh n f).vcl = s.vcl ∧ (s.modCh n f).thm = s.thm ∧ (s.modCh n f).saf = s.saf ∧ (s.modCh n f).lne = s.lne ∧
    (s.modCh n f).met = s.met ∧ (s.modCh n f).bil = s.bil ∧ (s.modCh n f).bat = s.bat ∧ (s.modCh n f).key = s.key ∧
    (s.modCh n f).lcs = s.lcs ∧ (s.modCh n f).free = s.free ∧ (s.modCh n f).pending = s.pending ∧
    (s.modCh n f).sram = s.sram ∧ (s.modCh n f).line = s.line :=
  ⟨rfl, rfl, rfl, rfl, rfl, rfl, rfl, rfl, rfl, rfl, rfl, rfl, rfl, rfl, rfl, rfl, rfl, rfl, rfl, rfl, rfl, rfl, rfl, rfl, rfl, rfl, rfl, rfl, rfl, rfl, rfl, rfl, rfl⟩

@[simp] theorem State.modAux_pwm (a : Aux) (f : AuxCh → AuxCh) (s : State) : (s.modAux a f).pwm = { s.pwm with aux := vmod s.pwm.aux a f } := rfl
@[simp] theorem State.modAux_frame (a : Aux) (f : AuxCh → AuxCh) (s : State) :
    (s.modAux a f).clk = s.clk ∧ (s.modAux a f).pwr = s.pwr ∧ (s.modAux a f).ev = s.ev ∧ (s.modAux a f).irq = s.irq ∧
    (s.modAux a f).ring = s.ring ∧ (s.modAux a f).ringF = s.ringF ∧ (s.modAux a f).dlv = s.dlv ∧ (s.modAux a f).win = s.win ∧
    (s.modAux a f).frz = s.frz ∧ (s.modAux a f).dia = s.dia ∧ (s.modAux a f).glb = s.glb ∧ (s.modAux a f).tun = s.tun ∧
    (s.modAux a f).hostOut = s.hostOut ∧ (s.modAux a f).rgt = s.rgt ∧ (s.modAux a f).alc = s.alc ∧ (s.modAux a f).cfg = s.cfg ∧
    (s.modAux a f).jn = s.jn ∧ (s.modAux a f).reg = s.reg ∧ (s.modAux a f).out = s.out ∧ (s.modAux a f).mtx = s.mtx ∧
    (s.modAux a f).vcl = s.vcl ∧ (s.modAux a f).thm = s.thm ∧ (s.modAux a f).saf = s.saf ∧ (s.modAux a f).lne = s.lne ∧
    (s.modAux a f).met = s.met ∧ (s.modAux a f).bil = s.bil ∧ (s.modAux a f).bat = s.bat ∧ (s.modAux a f).key = s.key ∧
    (s.modAux a f).lcs = s.lcs ∧ (s.modAux a f).free = s.free ∧ (s.modAux a f).pending = s.pending ∧
    (s.modAux a f).sram = s.sram ∧ (s.modAux a f).line = s.line :=
  ⟨rfl, rfl, rfl, rfl, rfl, rfl, rfl, rfl, rfl, rfl, rfl, rfl, rfl, rfl, rfl, rfl, rfl, rfl, rfl, rfl, rfl, rfl, rfl, rfl, rfl, rfl, rfl, rfl, rfl, rfl, rfl, rfl, rfl⟩

@[simp] theorem State.modReg_reg (f : Reg → Reg) (s : State) : (s.modReg f).reg = f s.reg := rfl
@[simp] theorem State.modReg_frame (f : Reg → Reg) (s : State) :
    (s.modReg f).clk = s.clk ∧ (s.modReg f).pwr = s.pwr ∧ (s.modReg f).ev = s.ev ∧ (s.modReg f).irq = s.irq ∧
    (s.modReg f).ring = s.ring ∧ (s.modReg f).ringF = s.ringF ∧ (s.modReg f).dlv = s.dlv ∧ (s.modReg f).win = s.win ∧
    (s.modReg f).frz = s.frz ∧ (s.modReg f).dia = s.dia ∧ (s.modReg f).glb = s.glb ∧ (s.modReg f).tun = s.tun ∧
    (s.modReg f).hostOut = s.hostOut ∧ (s.modReg f).rgt = s.rgt ∧ (s.modReg f).alc = s.alc ∧ (s.modReg f).cfg = s.cfg ∧
    (s.modReg f).jn = s.jn ∧ (s.modReg f).pwm = s.pwm ∧ (s.modReg f).out = s.out ∧ (s.modReg f).mtx = s.mtx ∧
    (s.modReg f).vcl = s.vcl ∧ (s.modReg f).thm = s.thm ∧ (s.modReg f).saf = s.saf ∧ (s.modReg f).lne = s.lne ∧
    (s.modReg f).met = s.met ∧ (s.modReg f).bil = s.bil ∧ (s.modReg f).bat = s.bat ∧ (s.modReg f).key = s.key ∧
    (s.modReg f).lcs = s.lcs ∧ (s.modReg f).free = s.free ∧ (s.modReg f).pending = s.pending ∧
    (s.modReg f).sram = s.sram ∧ (s.modReg f).line = s.line :=
  ⟨rfl, rfl, rfl, rfl, rfl, rfl, rfl, rfl, rfl, rfl, rfl, rfl, rfl, rfl, rfl, rfl, rfl, rfl, rfl, rfl, rfl, rfl, rfl, rfl, rfl, rfl, rfl, rfl, rfl, rfl, rfl, rfl, rfl⟩

@[simp] theorem State.modRegCh_reg (n : Phase) (f : RegCh → RegCh) (s : State) : (s.modRegCh n f).reg = { s.reg with ch := vmod s.reg.ch n f } := rfl
@[simp] theorem State.modRegCh_frame (n : Phase) (f : RegCh → RegCh) (s : State) :
    (s.modRegCh n f).clk = s.clk ∧ (s.modRegCh n f).pwr = s.pwr ∧ (s.modRegCh n f).ev = s.ev ∧ (s.modRegCh n f).irq = s.irq ∧
    (s.modRegCh n f).ring = s.ring ∧ (s.modRegCh n f).ringF = s.ringF ∧ (s.modRegCh n f).dlv = s.dlv ∧ (s.modRegCh n f).win = s.win ∧
    (s.modRegCh n f).frz = s.frz ∧ (s.modRegCh n f).dia = s.dia ∧ (s.modRegCh n f).glb = s.glb ∧ (s.modRegCh n f).tun = s.tun ∧
    (s.modRegCh n f).hostOut = s.hostOut ∧ (s.modRegCh n f).rgt = s.rgt ∧ (s.modRegCh n f).alc = s.alc ∧ (s.modRegCh n f).cfg = s.cfg ∧
    (s.modRegCh n f).jn = s.jn ∧ (s.modRegCh n f).pwm = s.pwm ∧ (s.modRegCh n f).out = s.out ∧ (s.modRegCh n f).mtx = s.mtx ∧
    (s.modRegCh n f).vcl = s.vcl ∧ (s.modRegCh n f).thm = s.thm ∧ (s.modRegCh n f).saf = s.saf ∧ (s.modRegCh n f).lne = s.lne ∧
    (s.modRegCh n f).met = s.met ∧ (s.modRegCh n f).bil = s.bil ∧ (s.modRegCh n f).bat = s.bat ∧ (s.modRegCh n f).key = s.key ∧
    (s.modRegCh n f).lcs = s.lcs ∧ (s.modRegCh n f).free = s.free ∧ (s.modRegCh n f).pending = s.pending ∧
    (s.modRegCh n f).sram = s.sram ∧ (s.modRegCh n f).line = s.line :=
  ⟨rfl, rfl, rfl, rfl, rfl, rfl, rfl, rfl, rfl, rfl, rfl, rfl, rfl, rfl, rfl, rfl, rfl, rfl, rfl, rfl, rfl, rfl, rfl, rfl, rfl, rfl, rfl, rfl, rfl, rfl, rfl, rfl, rfl⟩

@[simp] theorem State.modStart_reg (o : Outlet) (f : StartM → StartM) (s : State) : (s.modStart o f).reg = { s.reg with start := vmod s.reg.start o f } := rfl
@[simp] theorem State.modStart_frame (o : Outlet) (f : StartM → StartM) (s : State) :
    (s.modStart o f).clk = s.clk ∧ (s.modStart o f).pwr = s.pwr ∧ (s.modStart o f).ev = s.ev ∧ (s.modStart o f).irq = s.irq ∧
    (s.modStart o f).ring = s.ring ∧ (s.modStart o f).ringF = s.ringF ∧ (s.modStart o f).dlv = s.dlv ∧ (s.modStart o f).win = s.win ∧
    (s.modStart o f).frz = s.frz ∧ (s.modStart o f).dia = s.dia ∧ (s.modStart o f).glb = s.glb ∧ (s.modStart o f).tun = s.tun ∧
    (s.modStart o f).hostOut = s.hostOut ∧ (s.modStart o f).rgt = s.rgt ∧ (s.modStart o f).alc = s.alc ∧ (s.modStart o f).cfg = s.cfg ∧
    (s.modStart o f).jn = s.jn ∧ (s.modStart o f).pwm = s.pwm ∧ (s.modStart o f).out = s.out ∧ (s.modStart o f).mtx = s.mtx ∧
    (s.modStart o f).vcl = s.vcl ∧ (s.modStart o f).thm = s.thm ∧ (s.modStart o f).saf = s.saf ∧ (s.modStart o f).lne = s.lne ∧
    (s.modStart o f).met = s.met ∧ (s.modStart o f).bil = s.bil ∧ (s.modStart o f).bat = s.bat ∧ (s.modStart o f).key = s.key ∧
    (s.modStart o f).lcs = s.lcs ∧ (s.modStart o f).free = s.free ∧ (s.modStart o f).pending = s.pending ∧
    (s.modStart o f).sram = s.sram ∧ (s.modStart o f).line = s.line :=
  ⟨rfl, rfl, rfl, rfl, rfl, rfl, rfl, rfl, rfl, rfl, rfl, rfl, rfl, rfl, rfl, rfl, rfl, rfl, rfl, rfl, rfl, rfl, rfl, rfl, rfl, rfl, rfl, rfl, rfl, rfl, rfl, rfl, rfl⟩

@[simp] theorem State.modOut_out (o : Outlet) (f : OutSt → OutSt) (s : State) : (s.modOut o f).out = vmod s.out o f := rfl
@[simp] theorem State.modOut_frame (o : Outlet) (f : OutSt → OutSt) (s : State) :
    (s.modOut o f).clk = s.clk ∧ (s.modOut o f).pwr = s.pwr ∧ (s.modOut o f).ev = s.ev ∧ (s.modOut o f).irq = s.irq ∧
    (s.modOut o f).ring = s.ring ∧ (s.modOut o f).ringF = s.ringF ∧ (s.modOut o f).dlv = s.dlv ∧ (s.modOut o f).win = s.win ∧
    (s.modOut o f).frz = s.frz ∧ (s.modOut o f).dia = s.dia ∧ (s.modOut o f).glb = s.glb ∧ (s.modOut o f).tun = s.tun ∧
    (s.modOut o f).hostOut = s.hostOut ∧ (s.modOut o f).rgt = s.rgt ∧ (s.modOut o f).alc = s.alc ∧ (s.modOut o f).cfg = s.cfg ∧
    (s.modOut o f).jn = s.jn ∧ (s.modOut o f).pwm = s.pwm ∧ (s.modOut o f).reg = s.reg ∧ (s.modOut o f).mtx = s.mtx ∧
    (s.modOut o f).vcl = s.vcl ∧ (s.modOut o f).thm = s.thm ∧ (s.modOut o f).saf = s.saf ∧ (s.modOut o f).lne = s.lne ∧
    (s.modOut o f).met = s.met ∧ (s.modOut o f).bil = s.bil ∧ (s.modOut o f).bat = s.bat ∧ (s.modOut o f).key = s.key ∧
    (s.modOut o f).lcs = s.lcs ∧ (s.modOut o f).free = s.free ∧ (s.modOut o f).pending = s.pending ∧
    (s.modOut o f).sram = s.sram ∧ (s.modOut o f).line = s.line :=
  ⟨rfl, rfl, rfl, rfl, rfl, rfl, rfl, rfl, rfl, rfl, rfl, rfl, rfl, rfl, rfl, rfl, rfl, rfl, rfl, rfl, rfl, rfl, rfl, rfl, rfl, rfl, rfl, rfl, rfl, rfl, rfl, rfl, rfl⟩

@[simp] theorem State.modMtx_mtx (f : Mtx → Mtx) (s : State) : (s.modMtx f).mtx = f s.mtx := rfl
@[simp] theorem State.modMtx_frame (f : Mtx → Mtx) (s : State) :
    (s.modMtx f).clk = s.clk ∧ (s.modMtx f).pwr = s.pwr ∧ (s.modMtx f).ev = s.ev ∧ (s.modMtx f).irq = s.irq ∧
    (s.modMtx f).ring = s.ring ∧ (s.modMtx f).ringF = s.ringF ∧ (s.modMtx f).dlv = s.dlv ∧ (s.modMtx f).win = s.win ∧
    (s.modMtx f).frz = s.frz ∧ (s.modMtx f).dia = s.dia ∧ (s.modMtx f).glb = s.glb ∧ (s.modMtx f).tun = s.tun ∧
    (s.modMtx f).hostOut = s.hostOut ∧ (s.modMtx f).rgt = s.rgt ∧ (s.modMtx f).alc = s.alc ∧ (s.modMtx f).cfg = s.cfg ∧
    (s.modMtx f).jn = s.jn ∧ (s.modMtx f).pwm = s.pwm ∧ (s.modMtx f).reg = s.reg ∧ (s.modMtx f).out = s.out ∧
    (s.modMtx f).vcl = s.vcl ∧ (s.modMtx f).thm = s.thm ∧ (s.modMtx f).saf = s.saf ∧ (s.modMtx f).lne = s.lne ∧
    (s.modMtx f).met = s.met ∧ (s.modMtx f).bil = s.bil ∧ (s.modMtx f).bat = s.bat ∧ (s.modMtx f).key = s.key ∧
    (s.modMtx f).lcs = s.lcs ∧ (s.modMtx f).free = s.free ∧ (s.modMtx f).pending = s.pending ∧
    (s.modMtx f).sram = s.sram ∧ (s.modMtx f).line = s.line :=
  ⟨rfl, rfl, rfl, rfl, rfl, rfl, rfl, rfl, rfl, rfl, rfl, rfl, rfl, rfl, rfl, rfl, rfl, rfl, rfl, rfl, rfl, rfl, rfl, rfl, rfl, rfl, rfl, rfl, rfl, rfl, rfl, rfl, rfl⟩

@[simp] theorem State.modVcl_vcl (f : Vcl → Vcl) (s : State) : (s.modVcl f).vcl = f s.vcl := rfl
@[simp] theorem State.modVcl_frame (f : Vcl → Vcl) (s : State) :
    (s.modVcl f).clk = s.clk ∧ (s.modVcl f).pwr = s.pwr ∧ (s.modVcl f).ev = s.ev ∧ (s.modVcl f).irq = s.irq ∧
    (s.modVcl f).ring = s.ring ∧ (s.modVcl f).ringF = s.ringF ∧ (s.modVcl f).dlv = s.dlv ∧ (s.modVcl f).win = s.win ∧
    (s.modVcl f).frz = s.frz ∧ (s.modVcl f).dia = s.dia ∧ (s.modVcl f).glb = s.glb ∧ (s.modVcl f).tun = s.tun ∧
    (s.modVcl f).hostOut = s.hostOut ∧ (s.modVcl f).rgt = s.rgt ∧ (s.modVcl f).alc = s.alc ∧ (s.modVcl f).cfg = s.cfg ∧
    (s.modVcl f).jn = s.jn ∧ (s.modVcl f).pwm = s.pwm ∧ (s.modVcl f).reg = s.reg ∧ (s.modVcl f).out = s.out ∧
    (s.modVcl f).mtx = s.mtx ∧ (s.modVcl f).thm = s.thm ∧ (s.modVcl f).saf = s.saf ∧ (s.modVcl f).lne = s.lne ∧
    (s.modVcl f).met = s.met ∧ (s.modVcl f).bil = s.bil ∧ (s.modVcl f).bat = s.bat ∧ (s.modVcl f).key = s.key ∧
    (s.modVcl f).lcs = s.lcs ∧ (s.modVcl f).free = s.free ∧ (s.modVcl f).pending = s.pending ∧
    (s.modVcl f).sram = s.sram ∧ (s.modVcl f).line = s.line :=
  ⟨rfl, rfl, rfl, rfl, rfl, rfl, rfl, rfl, rfl, rfl, rfl, rfl, rfl, rfl, rfl, rfl, rfl, rfl, rfl, rfl, rfl, rfl, rfl, rfl, rfl, rfl, rfl, rfl, rfl, rfl, rfl, rfl, rfl⟩

@[simp] theorem State.modVclCh_vcl (o : Outlet) (f : VclSt → VclSt) (s : State) : (s.modVclCh o f).vcl = { s.vcl with ch := vmod s.vcl.ch o f } := rfl
@[simp] theorem State.modVclCh_frame (o : Outlet) (f : VclSt → VclSt) (s : State) :
    (s.modVclCh o f).clk = s.clk ∧ (s.modVclCh o f).pwr = s.pwr ∧ (s.modVclCh o f).ev = s.ev ∧ (s.modVclCh o f).irq = s.irq ∧
    (s.modVclCh o f).ring = s.ring ∧ (s.modVclCh o f).ringF = s.ringF ∧ (s.modVclCh o f).dlv = s.dlv ∧ (s.modVclCh o f).win = s.win ∧
    (s.modVclCh o f).frz = s.frz ∧ (s.modVclCh o f).dia = s.dia ∧ (s.modVclCh o f).glb = s.glb ∧ (s.modVclCh o f).tun = s.tun ∧
    (s.modVclCh o f).hostOut = s.hostOut ∧ (s.modVclCh o f).rgt = s.rgt ∧ (s.modVclCh o f).alc = s.alc ∧ (s.modVclCh o f).cfg = s.cfg ∧
    (s.modVclCh o f).jn = s.jn ∧ (s.modVclCh o f).pwm = s.pwm ∧ (s.modVclCh o f).reg = s.reg ∧ (s.modVclCh o f).out = s.out ∧
    (s.modVclCh o f).mtx = s.mtx ∧ (s.modVclCh o f).thm = s.thm ∧ (s.modVclCh o f).saf = s.saf ∧ (s.modVclCh o f).lne = s.lne ∧
    (s.modVclCh o f).met = s.met ∧ (s.modVclCh o f).bil = s.bil ∧ (s.modVclCh o f).bat = s.bat ∧ (s.modVclCh o f).key = s.key ∧
    (s.modVclCh o f).lcs = s.lcs ∧ (s.modVclCh o f).free = s.free ∧ (s.modVclCh o f).pending = s.pending ∧
    (s.modVclCh o f).sram = s.sram ∧ (s.modVclCh o f).line = s.line :=
  ⟨rfl, rfl, rfl, rfl, rfl, rfl, rfl, rfl, rfl, rfl, rfl, rfl, rfl, rfl, rfl, rfl, rfl, rfl, rfl, rfl, rfl, rfl, rfl, rfl, rfl, rfl, rfl, rfl, rfl, rfl, rfl, rfl, rfl⟩

@[simp] theorem State.modThm_thm (f : Thm → Thm) (s : State) : (s.modThm f).thm = f s.thm := rfl
@[simp] theorem State.modThm_frame (f : Thm → Thm) (s : State) :
    (s.modThm f).clk = s.clk ∧ (s.modThm f).pwr = s.pwr ∧ (s.modThm f).ev = s.ev ∧ (s.modThm f).irq = s.irq ∧
    (s.modThm f).ring = s.ring ∧ (s.modThm f).ringF = s.ringF ∧ (s.modThm f).dlv = s.dlv ∧ (s.modThm f).win = s.win ∧
    (s.modThm f).frz = s.frz ∧ (s.modThm f).dia = s.dia ∧ (s.modThm f).glb = s.glb ∧ (s.modThm f).tun = s.tun ∧
    (s.modThm f).hostOut = s.hostOut ∧ (s.modThm f).rgt = s.rgt ∧ (s.modThm f).alc = s.alc ∧ (s.modThm f).cfg = s.cfg ∧
    (s.modThm f).jn = s.jn ∧ (s.modThm f).pwm = s.pwm ∧ (s.modThm f).reg = s.reg ∧ (s.modThm f).out = s.out ∧
    (s.modThm f).mtx = s.mtx ∧ (s.modThm f).vcl = s.vcl ∧ (s.modThm f).saf = s.saf ∧ (s.modThm f).lne = s.lne ∧
    (s.modThm f).met = s.met ∧ (s.modThm f).bil = s.bil ∧ (s.modThm f).bat = s.bat ∧ (s.modThm f).key = s.key ∧
    (s.modThm f).lcs = s.lcs ∧ (s.modThm f).free = s.free ∧ (s.modThm f).pending = s.pending ∧
    (s.modThm f).sram = s.sram ∧ (s.modThm f).line = s.line :=
  ⟨rfl, rfl, rfl, rfl, rfl, rfl, rfl, rfl, rfl, rfl, rfl, rfl, rfl, rfl, rfl, rfl, rfl, rfl, rfl, rfl, rfl, rfl, rfl, rfl, rfl, rfl, rfl, rfl, rfl, rfl, rfl, rfl, rfl⟩

@[simp] theorem State.modSaf_saf (f : Saf → Saf) (s : State) : (s.modSaf f).saf = f s.saf := rfl
@[simp] theorem State.modSaf_frame (f : Saf → Saf) (s : State) :
    (s.modSaf f).clk = s.clk ∧ (s.modSaf f).pwr = s.pwr ∧ (s.modSaf f).ev = s.ev ∧ (s.modSaf f).irq = s.irq ∧
    (s.modSaf f).ring = s.ring ∧ (s.modSaf f).ringF = s.ringF ∧ (s.modSaf f).dlv = s.dlv ∧ (s.modSaf f).win = s.win ∧
    (s.modSaf f).frz = s.frz ∧ (s.modSaf f).dia = s.dia ∧ (s.modSaf f).glb = s.glb ∧ (s.modSaf f).tun = s.tun ∧
    (s.modSaf f).hostOut = s.hostOut ∧ (s.modSaf f).rgt = s.rgt ∧ (s.modSaf f).alc = s.alc ∧ (s.modSaf f).cfg = s.cfg ∧
    (s.modSaf f).jn = s.jn ∧ (s.modSaf f).pwm = s.pwm ∧ (s.modSaf f).reg = s.reg ∧ (s.modSaf f).out = s.out ∧
    (s.modSaf f).mtx = s.mtx ∧ (s.modSaf f).vcl = s.vcl ∧ (s.modSaf f).thm = s.thm ∧ (s.modSaf f).lne = s.lne ∧
    (s.modSaf f).met = s.met ∧ (s.modSaf f).bil = s.bil ∧ (s.modSaf f).bat = s.bat ∧ (s.modSaf f).key = s.key ∧
    (s.modSaf f).lcs = s.lcs ∧ (s.modSaf f).free = s.free ∧ (s.modSaf f).pending = s.pending ∧
    (s.modSaf f).sram = s.sram ∧ (s.modSaf f).line = s.line :=
  ⟨rfl, rfl, rfl, rfl, rfl, rfl, rfl, rfl, rfl, rfl, rfl, rfl, rfl, rfl, rfl, rfl, rfl, rfl, rfl, rfl, rfl, rfl, rfl, rfl, rfl, rfl, rfl, rfl, rfl, rfl, rfl, rfl, rfl⟩

@[simp] theorem State.modLne_lne (f : Lne → Lne) (s : State) : (s.modLne f).lne = f s.lne := rfl
@[simp] theorem State.modLne_frame (f : Lne → Lne) (s : State) :
    (s.modLne f).clk = s.clk ∧ (s.modLne f).pwr = s.pwr ∧ (s.modLne f).ev = s.ev ∧ (s.modLne f).irq = s.irq ∧
    (s.modLne f).ring = s.ring ∧ (s.modLne f).ringF = s.ringF ∧ (s.modLne f).dlv = s.dlv ∧ (s.modLne f).win = s.win ∧
    (s.modLne f).frz = s.frz ∧ (s.modLne f).dia = s.dia ∧ (s.modLne f).glb = s.glb ∧ (s.modLne f).tun = s.tun ∧
    (s.modLne f).hostOut = s.hostOut ∧ (s.modLne f).rgt = s.rgt ∧ (s.modLne f).alc = s.alc ∧ (s.modLne f).cfg = s.cfg ∧
    (s.modLne f).jn = s.jn ∧ (s.modLne f).pwm = s.pwm ∧ (s.modLne f).reg = s.reg ∧ (s.modLne f).out = s.out ∧
    (s.modLne f).mtx = s.mtx ∧ (s.modLne f).vcl = s.vcl ∧ (s.modLne f).thm = s.thm ∧ (s.modLne f).saf = s.saf ∧
    (s.modLne f).met = s.met ∧ (s.modLne f).bil = s.bil ∧ (s.modLne f).bat = s.bat ∧ (s.modLne f).key = s.key ∧
    (s.modLne f).lcs = s.lcs ∧ (s.modLne f).free = s.free ∧ (s.modLne f).pending = s.pending ∧
    (s.modLne f).sram = s.sram ∧ (s.modLne f).line = s.line :=
  ⟨rfl, rfl, rfl, rfl, rfl, rfl, rfl, rfl, rfl, rfl, rfl, rfl, rfl, rfl, rfl, rfl, rfl, rfl, rfl, rfl, rfl, rfl, rfl, rfl, rfl, rfl, rfl, rfl, rfl, rfl, rfl, rfl, rfl⟩

@[simp] theorem State.modMet_met (f : Met → Met) (s : State) : (s.modMet f).met = f s.met := rfl
@[simp] theorem State.modMet_frame (f : Met → Met) (s : State) :
    (s.modMet f).clk = s.clk ∧ (s.modMet f).pwr = s.pwr ∧ (s.modMet f).ev = s.ev ∧ (s.modMet f).irq = s.irq ∧
    (s.modMet f).ring = s.ring ∧ (s.modMet f).ringF = s.ringF ∧ (s.modMet f).dlv = s.dlv ∧ (s.modMet f).win = s.win ∧
    (s.modMet f).frz = s.frz ∧ (s.modMet f).dia = s.dia ∧ (s.modMet f).glb = s.glb ∧ (s.modMet f).tun = s.tun ∧
    (s.modMet f).hostOut = s.hostOut ∧ (s.modMet f).rgt = s.rgt ∧ (s.modMet f).alc = s.alc ∧ (s.modMet f).cfg = s.cfg ∧
    (s.modMet f).jn = s.jn ∧ (s.modMet f).pwm = s.pwm ∧ (s.modMet f).reg = s.reg ∧ (s.modMet f).out = s.out ∧
    (s.modMet f).mtx = s.mtx ∧ (s.modMet f).vcl = s.vcl ∧ (s.modMet f).thm = s.thm ∧ (s.modMet f).saf = s.saf ∧
    (s.modMet f).lne = s.lne ∧ (s.modMet f).bil = s.bil ∧ (s.modMet f).bat = s.bat ∧ (s.modMet f).key = s.key ∧
    (s.modMet f).lcs = s.lcs ∧ (s.modMet f).free = s.free ∧ (s.modMet f).pending = s.pending ∧
    (s.modMet f).sram = s.sram ∧ (s.modMet f).line = s.line :=
  ⟨rfl, rfl, rfl, rfl, rfl, rfl, rfl, rfl, rfl, rfl, rfl, rfl, rfl, rfl, rfl, rfl, rfl, rfl, rfl, rfl, rfl, rfl, rfl, rfl, rfl, rfl, rfl, rfl, rfl, rfl, rfl, rfl, rfl⟩

@[simp] theorem State.modBil_bil (f : Bil → Bil) (s : State) : (s.modBil f).bil = f s.bil := rfl
@[simp] theorem State.modBil_frame (f : Bil → Bil) (s : State) :
    (s.modBil f).clk = s.clk ∧ (s.modBil f).pwr = s.pwr ∧ (s.modBil f).ev = s.ev ∧ (s.modBil f).irq = s.irq ∧
    (s.modBil f).ring = s.ring ∧ (s.modBil f).ringF = s.ringF ∧ (s.modBil f).dlv = s.dlv ∧ (s.modBil f).win = s.win ∧
    (s.modBil f).frz = s.frz ∧ (s.modBil f).dia = s.dia ∧ (s.modBil f).glb = s.glb ∧ (s.modBil f).tun = s.tun ∧
    (s.modBil f).hostOut = s.hostOut ∧ (s.modBil f).rgt = s.rgt ∧ (s.modBil f).alc = s.alc ∧ (s.modBil f).cfg = s.cfg ∧
    (s.modBil f).jn = s.jn ∧ (s.modBil f).pwm = s.pwm ∧ (s.modBil f).reg = s.reg ∧ (s.modBil f).out = s.out ∧
    (s.modBil f).mtx = s.mtx ∧ (s.modBil f).vcl = s.vcl ∧ (s.modBil f).thm = s.thm ∧ (s.modBil f).saf = s.saf ∧
    (s.modBil f).lne = s.lne ∧ (s.modBil f).met = s.met ∧ (s.modBil f).bat = s.bat ∧ (s.modBil f).key = s.key ∧
    (s.modBil f).lcs = s.lcs ∧ (s.modBil f).free = s.free ∧ (s.modBil f).pending = s.pending ∧
    (s.modBil f).sram = s.sram ∧ (s.modBil f).line = s.line :=
  ⟨rfl, rfl, rfl, rfl, rfl, rfl, rfl, rfl, rfl, rfl, rfl, rfl, rfl, rfl, rfl, rfl, rfl, rfl, rfl, rfl, rfl, rfl, rfl, rfl, rfl, rfl, rfl, rfl, rfl, rfl, rfl, rfl, rfl⟩

@[simp] theorem State.modBat_bat (f : Bat → Bat) (s : State) : (s.modBat f).bat = f s.bat := rfl
@[simp] theorem State.modBat_frame (f : Bat → Bat) (s : State) :
    (s.modBat f).clk = s.clk ∧ (s.modBat f).pwr = s.pwr ∧ (s.modBat f).ev = s.ev ∧ (s.modBat f).irq = s.irq ∧
    (s.modBat f).ring = s.ring ∧ (s.modBat f).ringF = s.ringF ∧ (s.modBat f).dlv = s.dlv ∧ (s.modBat f).win = s.win ∧
    (s.modBat f).frz = s.frz ∧ (s.modBat f).dia = s.dia ∧ (s.modBat f).glb = s.glb ∧ (s.modBat f).tun = s.tun ∧
    (s.modBat f).hostOut = s.hostOut ∧ (s.modBat f).rgt = s.rgt ∧ (s.modBat f).alc = s.alc ∧ (s.modBat f).cfg = s.cfg ∧
    (s.modBat f).jn = s.jn ∧ (s.modBat f).pwm = s.pwm ∧ (s.modBat f).reg = s.reg ∧ (s.modBat f).out = s.out ∧
    (s.modBat f).mtx = s.mtx ∧ (s.modBat f).vcl = s.vcl ∧ (s.modBat f).thm = s.thm ∧ (s.modBat f).saf = s.saf ∧
    (s.modBat f).lne = s.lne ∧ (s.modBat f).met = s.met ∧ (s.modBat f).bil = s.bil ∧ (s.modBat f).key = s.key ∧
    (s.modBat f).lcs = s.lcs ∧ (s.modBat f).free = s.free ∧ (s.modBat f).pending = s.pending ∧
    (s.modBat f).sram = s.sram ∧ (s.modBat f).line = s.line :=
  ⟨rfl, rfl, rfl, rfl, rfl, rfl, rfl, rfl, rfl, rfl, rfl, rfl, rfl, rfl, rfl, rfl, rfl, rfl, rfl, rfl, rfl, rfl, rfl, rfl, rfl, rfl, rfl, rfl, rfl, rfl, rfl, rfl, rfl⟩

@[simp] theorem State.modKey_key (f : Key → Key) (s : State) : (s.modKey f).key = f s.key := rfl
@[simp] theorem State.modKey_frame (f : Key → Key) (s : State) :
    (s.modKey f).clk = s.clk ∧ (s.modKey f).pwr = s.pwr ∧ (s.modKey f).ev = s.ev ∧ (s.modKey f).irq = s.irq ∧
    (s.modKey f).ring = s.ring ∧ (s.modKey f).ringF = s.ringF ∧ (s.modKey f).dlv = s.dlv ∧ (s.modKey f).win = s.win ∧
    (s.modKey f).frz = s.frz ∧ (s.modKey f).dia = s.dia ∧ (s.modKey f).glb = s.glb ∧ (s.modKey f).tun = s.tun ∧
    (s.modKey f).hostOut = s.hostOut ∧ (s.modKey f).rgt = s.rgt ∧ (s.modKey f).alc = s.alc ∧ (s.modKey f).cfg = s.cfg ∧
    (s.modKey f).jn = s.jn ∧ (s.modKey f).pwm = s.pwm ∧ (s.modKey f).reg = s.reg ∧ (s.modKey f).out = s.out ∧
    (s.modKey f).mtx = s.mtx ∧ (s.modKey f).vcl = s.vcl ∧ (s.modKey f).thm = s.thm ∧ (s.modKey f).saf = s.saf ∧
    (s.modKey f).lne = s.lne ∧ (s.modKey f).met = s.met ∧ (s.modKey f).bil = s.bil ∧ (s.modKey f).bat = s.bat ∧
    (s.modKey f).lcs = s.lcs ∧ (s.modKey f).free = s.free ∧ (s.modKey f).pending = s.pending ∧
    (s.modKey f).sram = s.sram ∧ (s.modKey f).line = s.line :=
  ⟨rfl, rfl, rfl, rfl, rfl, rfl, rfl, rfl, rfl, rfl, rfl, rfl, rfl, rfl, rfl, rfl, rfl, rfl, rfl, rfl, rfl, rfl, rfl, rfl, rfl, rfl, rfl, rfl, rfl, rfl, rfl, rfl, rfl⟩

@[simp] theorem State.modLcs_lcs (f : Lcs → Lcs) (s : State) : (s.modLcs f).lcs = f s.lcs := rfl
@[simp] theorem State.modLcs_frame (f : Lcs → Lcs) (s : State) :
    (s.modLcs f).clk = s.clk ∧ (s.modLcs f).pwr = s.pwr ∧ (s.modLcs f).ev = s.ev ∧ (s.modLcs f).irq = s.irq ∧
    (s.modLcs f).ring = s.ring ∧ (s.modLcs f).ringF = s.ringF ∧ (s.modLcs f).dlv = s.dlv ∧ (s.modLcs f).win = s.win ∧
    (s.modLcs f).frz = s.frz ∧ (s.modLcs f).dia = s.dia ∧ (s.modLcs f).glb = s.glb ∧ (s.modLcs f).tun = s.tun ∧
    (s.modLcs f).hostOut = s.hostOut ∧ (s.modLcs f).rgt = s.rgt ∧ (s.modLcs f).alc = s.alc ∧ (s.modLcs f).cfg = s.cfg ∧
    (s.modLcs f).jn = s.jn ∧ (s.modLcs f).pwm = s.pwm ∧ (s.modLcs f).reg = s.reg ∧ (s.modLcs f).out = s.out ∧
    (s.modLcs f).mtx = s.mtx ∧ (s.modLcs f).vcl = s.vcl ∧ (s.modLcs f).thm = s.thm ∧ (s.modLcs f).saf = s.saf ∧
    (s.modLcs f).lne = s.lne ∧ (s.modLcs f).met = s.met ∧ (s.modLcs f).bil = s.bil ∧ (s.modLcs f).bat = s.bat ∧
    (s.modLcs f).key = s.key ∧ (s.modLcs f).free = s.free ∧ (s.modLcs f).pending = s.pending ∧
    (s.modLcs f).sram = s.sram ∧ (s.modLcs f).line = s.line :=
  ⟨rfl, rfl, rfl, rfl, rfl, rfl, rfl, rfl, rfl, rfl, rfl, rfl, rfl, rfl, rfl, rfl, rfl, rfl, rfl, rfl, rfl, rfl, rfl, rfl, rfl, rfl, rfl, rfl, rfl, rfl, rfl, rfl, rfl⟩

@[simp] theorem State.modSram_sram (g : CoreGroup) (f : List (Nat × Byte) → List (Nat × Byte)) (s : State) : (s.modSram g f).sram = vmod s.sram g.idx f := rfl
@[simp] theorem State.modSram_frame (g : CoreGroup) (f : List (Nat × Byte) → List (Nat × Byte)) (s : State) :
    (s.modSram g f).clk = s.clk ∧ (s.modSram g f).pwr = s.pwr ∧ (s.modSram g f).ev = s.ev ∧ (s.modSram g f).irq = s.irq ∧
    (s.modSram g f).ring = s.ring ∧ (s.modSram g f).ringF = s.ringF ∧ (s.modSram g f).dlv = s.dlv ∧ (s.modSram g f).win = s.win ∧
    (s.modSram g f).frz = s.frz ∧ (s.modSram g f).dia = s.dia ∧ (s.modSram g f).glb = s.glb ∧ (s.modSram g f).tun = s.tun ∧
    (s.modSram g f).hostOut = s.hostOut ∧ (s.modSram g f).rgt = s.rgt ∧ (s.modSram g f).line = s.line ∧ (s.modSram g f).alc = s.alc ∧
    (s.modSram g f).cfg = s.cfg ∧ (s.modSram g f).jn = s.jn ∧ (s.modSram g f).pwm = s.pwm ∧ (s.modSram g f).reg = s.reg ∧
    (s.modSram g f).out = s.out ∧ (s.modSram g f).mtx = s.mtx ∧ (s.modSram g f).vcl = s.vcl ∧ (s.modSram g f).thm = s.thm ∧
    (s.modSram g f).saf = s.saf ∧ (s.modSram g f).lne = s.lne ∧ (s.modSram g f).met = s.met ∧ (s.modSram g f).bil = s.bil ∧
    (s.modSram g f).bat = s.bat ∧ (s.modSram g f).key = s.key ∧ (s.modSram g f).lcs = s.lcs ∧ (s.modSram g f).free = s.free ∧
    (s.modSram g f).pending = s.pending :=
  ⟨rfl, rfl, rfl, rfl, rfl, rfl, rfl, rfl, rfl, rfl, rfl, rfl, rfl, rfl, rfl, rfl, rfl, rfl, rfl, rfl, rfl, rfl, rfl, rfl, rfl, rfl, rfl, rfl, rfl, rfl, rfl, rfl, rfl⟩

@[simp] theorem State.modLine_line (p : Port) (f : LineSt → LineSt) (s : State) : (s.modLine p f).line = vmod s.line p f := rfl
@[simp] theorem State.modLine_frame (p : Port) (f : LineSt → LineSt) (s : State) :
    (s.modLine p f).clk = s.clk ∧ (s.modLine p f).pwr = s.pwr ∧ (s.modLine p f).ev = s.ev ∧ (s.modLine p f).irq = s.irq ∧
    (s.modLine p f).ring = s.ring ∧ (s.modLine p f).ringF = s.ringF ∧ (s.modLine p f).dlv = s.dlv ∧ (s.modLine p f).win = s.win ∧
    (s.modLine p f).sram = s.sram ∧ (s.modLine p f).frz = s.frz ∧ (s.modLine p f).dia = s.dia ∧ (s.modLine p f).glb = s.glb ∧
    (s.modLine p f).tun = s.tun ∧ (s.modLine p f).hostOut = s.hostOut ∧ (s.modLine p f).rgt = s.rgt ∧ (s.modLine p f).alc = s.alc ∧
    (s.modLine p f).cfg = s.cfg ∧ (s.modLine p f).jn = s.jn ∧ (s.modLine p f).pwm = s.pwm ∧ (s.modLine p f).reg = s.reg ∧
    (s.modLine p f).out = s.out ∧ (s.modLine p f).mtx = s.mtx ∧ (s.modLine p f).vcl = s.vcl ∧ (s.modLine p f).thm = s.thm ∧
    (s.modLine p f).saf = s.saf ∧ (s.modLine p f).lne = s.lne ∧ (s.modLine p f).met = s.met ∧ (s.modLine p f).bil = s.bil ∧
    (s.modLine p f).bat = s.bat ∧ (s.modLine p f).key = s.key ∧ (s.modLine p f).lcs = s.lcs ∧ (s.modLine p f).free = s.free ∧
    (s.modLine p f).pending = s.pending :=
  ⟨rfl, rfl, rfl, rfl, rfl, rfl, rfl, rfl, rfl, rfl, rfl, rfl, rfl, rfl, rfl, rfl, rfl, rfl, rfl, rfl, rfl, rfl, rfl, rfl, rfl, rfl, rfl, rfl, rfl, rfl, rfl, rfl, rfl⟩

@[simp] theorem State.useFree_free (s : State) : s.useFree.free = s.free + 1 := rfl
theorem State.cond_true (f : State → State) (s : State) : s.cond true f = f s := rfl
theorem State.cond_false (f : State → State) (s : State) : s.cond false f = s := rfl

/-! ### Vectors -/

@[simp] theorem ofFn_get {α : Type} {n : Nat} (f : Fin n → α) (i : Fin n) : (Vector.ofFn f).get i = f i := by
  have h : (Vector.ofFn f)[i.val] = f i := by simp
  exact h

@[simp] theorem vmod_self {α : Type} {n : Nat} (v : Vector α n) (i : Fin n) (f : α → α) : (vmod v i f).get i = f (v.get i) := by
  change (v.set i.val (f (v.get i)) i.isLt)[i.val] = _
  simp
theorem vmod_other {α : Type} {n : Nat} (v : Vector α n) (i j : Fin n) (f : α → α) (h : i ≠ j) : (vmod v i f).get j = v.get j := by
  have : i.val ≠ j.val := fun e => h (Fin.ext e)
  change (v.set i.val (f (v.get i)) i.isLt)[j.val] = v[j.val]
  simp [Vector.getElem_set, this]

theorem nodup_range {n : Nat} : (List.finRange n).Nodup := by
  rw [List.nodup_iff_pairwise_ne, List.pairwise_iff_getElem]
  intro i j hi hj hij h
  simp at h
  omega

theorem vmod_fold {α : Type} {n : Nat} (f : Fin n → α → α) (j : Fin n) (l : List (Fin n)) (hl : l.Nodup) (v : Vector α n) :
    (l.foldl (fun w i => vmod w i (f i)) v).get j = if j ∈ l then f j (v.get j) else v.get j := by
  induction l generalizing v with
  | nil => simp
  | cons i t ih =>
    have ⟨hi, ht⟩ := List.nodup_cons.mp hl
    rw [List.foldl_cons, ih ht]
    by_cases e : i = j
    · subst e; simp [hi]
    · have e' : ¬ j = i := fun h => e h.symm
      simp [vmod_other v i j (f i) e, e']

theorem vmod_vmod {α : Type} {n : Nat} (v : Vector α n) (i : Fin n) (f g : α → α) : vmod (vmod v i f) i g = vmod v i fun a => g (f a) := by
  apply Vector.ext
  intro k hk
  by_cases h : i = ⟨k, hk⟩
  · subst h
    exact (vmod_self (vmod v ⟨k, hk⟩ f) ⟨k, hk⟩ g).trans ((congrArg g (vmod_self v _ f)).trans (vmod_self v ⟨k, hk⟩ fun a => g (f a)).symm)
  · exact (vmod_other (vmod v i f) i ⟨k, hk⟩ g h).trans ((vmod_other v i _ f h).trans (vmod_other v i ⟨k, hk⟩ _ h).symm)

theorem vmod_congr {α : Type} {n : Nat} (v : Vector α n) (i : Fin n) (f g : α → α) (h : f (v.get i) = g (v.get i)) : vmod v i f = vmod v i g := by
  unfold vmod
  rw [h]

@[simp] theorem vmapIdx_get {α : Type} {n : Nat} (v : Vector α n) (f : Fin n → α → α) (j : Fin n) : (vmapIdx v f).get j = f j (v.get j) := by
  rw [vmapIdx, vmod_fold f j _ nodup_range v]
  simp

end Sys2Proof.Machine
end

