-- ==== Sys2Proof/Laws/Keeps.lean ====
section
/-! SUPPORT. What every operation of the block keeps: the queue, the variant, and the canonical form of the stores. -/
namespace Sys2Proof.Machine

/-! ### Sparse stores -/

/-- Nothing is listed below the first key. -/
theorem sparseGet_low {α : Type} [DecidableEq α] (d : α) (k : Nat) : ∀ l : List (Nat × α), sparseWf d l = true →
    (match l with | [] => true | (q, _) :: _ => decide (k < q)) = true → sparseGet d l k = d := by
  intro l
  induction l with
  | nil => intro _ _; rfl
  | cons q u ihu =>
    obtain ⟨a, b⟩ := q
    intro hw hb
    simp only [sparseWf, Bool.and_eq_true, decide_eq_true_eq] at hw hb
    have : ¬ k = a := by omega
    simp only [sparseGet, this, if_false]
    refine ihu hw.2 ?_
    revert hw
    cases u with
    | nil => intro _; rfl
    | cons r w => intro hw; simp only [decide_eq_true_eq] at hw ⊢; omega

theorem sparseGet_put_same {α : Type} [DecidableEq α] (d : α) (m : List (Nat × α)) (k : Nat) (v : α) (h : sparseWf d m = true) :
    sparseGet d (sparsePut d m k v) k = v := by
  induction m with
  | nil => by_cases hv : v = d <;> simp [sparsePut, sparseGet, hv]
  | cons p t ih =>
    obtain ⟨k', v'⟩ := p
    have h0 := h
    simp only [sparseWf, Bool.and_eq_true, decide_eq_true_eq] at h
    obtain ⟨⟨_, hlt⟩, ht⟩ := h
    by_cases h1 : k < k'
    · by_cases hv : v = d
      · subst hv
        simpa [sparsePut, h1] using sparseGet_low v k _ h0 (by simpa using h1)
      · simp [sparsePut, h1, hv, sparseGet]
    · by_cases h2 : k = k'
      · subst h2
        by_cases hv : v = d
        · subst hv
          simpa [sparsePut] using sparseGet_low v k t ht hlt
        · simp [sparsePut, hv, sparseGet]
      · simp only [sparsePut, h1, if_false, h2, sparseGet]
        exact ih ht

theorem sparseGet_put_other {α : Type} [DecidableEq α] (d : α) (m : List (Nat × α)) (k j : Nat) (v : α) (h : j ≠ k) :
    sparseGet d (sparsePut d m k v) j = sparseGet d m j := by
  induction m with
  | nil => by_cases hv : v = d <;> simp [sparsePut, sparseGet, hv, h]
  | cons p t ih =>
    obtain ⟨k', v'⟩ := p
    by_cases h1 : k < k'
    · by_cases hv : v = d
      · simp [sparsePut, h1, hv]
      · simp [sparsePut, h1, hv, sparseGet, h]
    · by_cases h2 : k = k'
      · subst h2
        by_cases hv : v = d
        · simp [sparsePut, hv, sparseGet, h]
        · simp [sparsePut, hv, sparseGet, h]
      · simp [sparsePut, h1, h2, sparseGet, ih]

/-- Storing keeps the canonical form. -/
theorem sparsePut_wf {α : Type} [DecidableEq α] (d : α) (m : List (Nat × α)) (k : Nat) (v : α) (h : sparseWf d m = true) :
    sparseWf d (sparsePut d m k v) = true := by
  induction m with
  | nil => by_cases hv : v = d <;> simp [sparsePut, sparseWf, hv]
  | cons p t ih =>
    obtain ⟨k', v'⟩ := p
    have h0 := h
    simp only [sparseWf, Bool.and_eq_true, decide_eq_true_eq] at h
    obtain ⟨⟨hv', hlt⟩, ht⟩ := h
    by_cases h1 : k < k'
    · by_cases hv : v = d
      · simpa [sparsePut, h1, hv] using h0
      · simp only [sparsePut, h1, if_true, hv, if_false, sparseWf, Bool.and_eq_true, decide_eq_true_eq]
        exact ⟨⟨hv, trivial⟩, ⟨⟨hv', hlt⟩, ht⟩⟩
    · by_cases h2 : k = k'
      · by_cases hv : v = d
        · simpa [sparsePut, h2, hv] using ht
        · simp only [sparsePut, h1, if_false, h2, if_true, hv, sparseWf, Bool.and_eq_true, decide_eq_true_eq]
          subst h2
          simp only [Nat.lt_irrefl, if_false, hv, sparseWf, Bool.and_eq_true, decide_eq_true_eq]
          exact ⟨⟨hv, hlt⟩, ht⟩
      · simp only [sparsePut, h1, if_false, h2, sparseWf, Bool.and_eq_true, decide_eq_true_eq]
        refine ⟨⟨hv', ?_⟩, ih ht⟩
        cases t with
        | nil =>
          by_cases hv : v = d
          · simp [sparsePut, hv]
          · simp only [sparsePut, hv, if_false, decide_eq_true_eq]; omega
        | cons q u =>
          obtain ⟨a, b⟩ := q
          simp only [decide_eq_true_eq] at hlt
          by_cases g1 : k < a
          · by_cases hv : v = d
            · simp only [sparsePut, g1, hv, if_true, decide_eq_true_eq]; exact hlt
            · simp only [sparsePut, g1, hv, if_true, if_false, decide_eq_true_eq]; omega
          · by_cases g2 : k = a
            · by_cases hv : v = d
              · subst g2
                simp only [sparsePut, g1, hv, if_true, if_false]
                cases u with
                | nil => rfl
                | cons r w =>
                  obtain ⟨e, f⟩ := r
                  simp only [sparseWf, Bool.and_eq_true, decide_eq_true_eq] at ht ⊢
                  omega
              · simp only [sparsePut, g1, g2, hv, if_true, if_false, decide_eq_true_eq]
                subst g2
                simp only [Nat.lt_irrefl, if_false, decide_eq_true_eq]
                exact hlt
            · simp only [sparsePut, g1, g2, if_false, decide_eq_true_eq]; exact hlt

/-! ### What is kept -/

/-- From s to t the queue and the variant stay, and canonical stores stay canonical. -/
structure Keeps (s t : State) : Prop where
  pending : t.pending = s.pending
  variant : t.glb.variant = s.glb.variant
  stores : StoresWf s → StoresWf t

theorem Keeps.refl (s : State) : Keeps s s := ⟨rfl, rfl, id⟩
theorem Keeps.trans {a b c : State} (h : Keeps a b) (k : Keeps b c) : Keeps a c :=
  ⟨k.pending.trans h.pending, k.variant.trans h.variant, fun w => k.stores (h.stores w)⟩

/-- A change that leaves the queue, the variant, the window and the private SRAM alone. -/
theorem Keeps.of {a s t : State} (h : Keeps a s) (hp : t.pending = s.pending) (hv : t.glb.variant = s.glb.variant) (hw : t.win = s.win)
    (hm : t.sram = s.sram) : Keeps a t :=
  h.trans ⟨hp, hv, fun w => by unfold StoresWf at *; rw [hw, hm]; exact w⟩

/-- A state written out whole, with the window, the queue and the variant of another. -/
theorem Keeps.written {s₀ s : State}
    {line' : Vector LineSt 4} {clk' : Clk} {pwr' : Pwr} {ev' : EvRegs} {irq' : Vector Irq 128} {ring' : Vector RingSt 64} {ringF' : Vector RingFn 3}
    {dlv' : Dlv} {frz' : Frz} {dia' : Dia} {glb' : Glb} {tun' : Tunnel} {hostOut' : HostOut} {rgt' : Rgt} {alc' : Alc}
    {cfg' : Cfg} {jn' : Vector JnSt 8} {pwm' : Pwm} {reg' : Reg} {out' : Vector OutSt 8} {mtx' : Mtx} {vcl' : Vcl}
    {thm' : Thm} {saf' : Saf} {lne' : Lne} {met' : Met} {bil' : Bil} {bat' : Bat} {key' : Key} {lcs' : Lcs} {free' : Nat}
    (h : Keeps s₀ s) (hv : glb'.variant = s.glb.variant) :
    Keeps s₀
      { clk := clk', pwr := pwr', ev := ev', irq := irq', ring := ring', ringF := ringF', dlv := dlv', win := s.win, sram := s.sram, line := line', frz :=
      frz', dia := dia', glb := glb', tun := tun', hostOut := hostOut', rgt := rgt', alc := alc', cfg := cfg', jn := jn', pwm
      := pwm', reg := reg', out := out', mtx := mtx', vcl := vcl', thm := thm', saf := saf', lne := lne', met := met', bil :=
      bil', bat := bat', key := key', lcs := lcs', free := free', pending := s.pending } :=
  h.of rfl hv rfl rfl

/-- What an outcome keeps, where it is a next state. -/
structure KeepsO (s : State) (o : Host.Outcome State Fault Refusal) : Prop where
  keeps : ∀ t, o = .next t → Keeps s t

theorem KeepsO.next {s t : State} (h : Keeps s t) : KeepsO s (.next t) := ⟨fun u e => by cases e; exact h⟩

section
variable {s₀ s : State}

theorem State.modClk_keeps (f : Clk → Clk) (h : Keeps s₀ s) : Keeps s₀ (s.modClk f) := h.of rfl rfl rfl rfl
theorem State.modPwr_keeps (f : Pwr → Pwr) (h : Keeps s₀ s) : Keeps s₀ (s.modPwr f) := h.of rfl rfl rfl rfl
theorem State.modEv_keeps (f : EvRegs → EvRegs) (h : Keeps s₀ s) : Keeps s₀ (s.modEv f) := h.of rfl rfl rfl rfl
theorem State.modIrq_keeps (v : IrqVec) (f : Irq → Irq) (h : Keeps s₀ s) : Keeps s₀ (s.modIrq v f) := h.of rfl rfl rfl rfl
theorem State.modRing_keeps (r : Ring) (f : RingSt → RingSt) (h : Keeps s₀ s) : Keeps s₀ (s.modRing r f) := h.of rfl rfl rfl rfl
theorem State.modRingF_keeps (n : Fn) (f : RingFn → RingFn) (h : Keeps s₀ s) : Keeps s₀ (s.modRingF n f) := h.of rfl rfl rfl rfl
theorem State.modDlv_keeps (f : Dlv → Dlv) (h : Keeps s₀ s) : Keeps s₀ (s.modDlv f) := h.of rfl rfl rfl rfl
theorem State.modFrz_keeps (f : Frz → Frz) (h : Keeps s₀ s) : Keeps s₀ (s.modFrz f) := h.of rfl rfl rfl rfl
theorem State.modDia_keeps (f : Dia → Dia) (h : Keeps s₀ s) : Keeps s₀ (s.modDia f) := h.of rfl rfl rfl rfl
theorem State.modTun_keeps (f : Tunnel → Tunnel) (h : Keeps s₀ s) : Keeps s₀ (s.modTun f) := h.of rfl rfl rfl rfl
theorem State.modHost_keeps (f : HostOut → HostOut) (h : Keeps s₀ s) : Keeps s₀ (s.modHost f) := h.of rfl rfl rfl rfl
theorem State.modRgt_keeps (f : Rgt → Rgt) (h : Keeps s₀ s) : Keeps s₀ (s.modRgt f) := h.of rfl rfl rfl rfl
theorem State.modPort_keeps (p : Port) (f : PortSt → PortSt) (h : Keeps s₀ s) : Keeps s₀ (s.modPort p f) := h.of rfl rfl rfl rfl
theorem State.modAlc_keeps (f : Alc → Alc) (h : Keeps s₀ s) : Keeps s₀ (s.modAlc f) := h.of rfl rfl rfl rfl
theorem State.modChild_keeps (p : Port) (f : ChildSt → ChildSt) (h : Keeps s₀ s) : Keeps s₀ (s.modChild p f) := h.of rfl rfl rfl rfl
theorem State.modCfg_keeps (f : Cfg → Cfg) (h : Keeps s₀ s) : Keeps s₀ (s.modCfg f) := h.of rfl rfl rfl rfl
theorem State.modJn_keeps (o : Outlet) (f : JnSt → JnSt) (h : Keeps s₀ s) : Keeps s₀ (s.modJn o f) := h.of rfl rfl rfl rfl
theorem State.modPwm_keeps (f : Pwm → Pwm) (h : Keeps s₀ s) : Keeps s₀ (s.modPwm f) := h.of rfl rfl rfl rfl
theorem State.modCh_keeps (n : Phase) (f : PwmCh → PwmCh) (h : Keeps s₀ s) : Keeps s₀ (s.modCh n f) := h.of rfl rfl rfl rfl
theorem State.modAux_keeps (a : Aux) (f : AuxCh → AuxCh) (h : Keeps s₀ s) : Keeps s₀ (s.modAux a f) := h.of rfl rfl rfl rfl
theorem State.modReg_keeps (f : Reg → Reg) (h : Keeps s₀ s) : Keeps s₀ (s.modReg f) := h.of rfl rfl rfl rfl
theorem State.modRegCh_keeps (n : Phase) (f : RegCh → RegCh) (h : Keeps s₀ s) : Keeps s₀ (s.modRegCh n f) := h.of rfl rfl rfl rfl
theorem State.modStart_keeps (o : Outlet) (f : StartM → StartM) (h : Keeps s₀ s) : Keeps s₀ (s.modStart o f) := h.of rfl rfl rfl rfl
theorem State.modOut_keeps (o : Outlet) (f : OutSt → OutSt) (h : Keeps s₀ s) : Keeps s₀ (s.modOut o f) := h.of rfl rfl rfl rfl
theorem State.modMtx_keeps (f : Mtx → Mtx) (h : Keeps s₀ s) : Keeps s₀ (s.modMtx f) := h.of rfl rfl rfl rfl
theorem State.modVcl_keeps (f : Vcl → Vcl) (h : Keeps s₀ s) : Keeps s₀ (s.modVcl f) := h.of rfl rfl rfl rfl
theorem State.modVclCh_keeps (o : Outlet) (f : VclSt → VclSt) (h : Keeps s₀ s) : Keeps s₀ (s.modVclCh o f) := h.of rfl rfl rfl rfl
theorem State.modThm_keeps (f : Thm → Thm) (h : Keeps s₀ s) : Keeps s₀ (s.modThm f) := h.of rfl rfl rfl rfl
theorem State.modSaf_keeps (f : Saf → Saf) (h : Keeps s₀ s) : Keeps s₀ (s.modSaf f) := h.of rfl rfl rfl rfl
theorem State.modLne_keeps (f : Lne → Lne) (h : Keeps s₀ s) : Keeps s₀ (s.modLne f) := h.of rfl rfl rfl rfl
theorem State.modMet_keeps (f : Met → Met) (h : Keeps s₀ s) : Keeps s₀ (s.modMet f) := h.of rfl rfl rfl rfl
theorem State.modBil_keeps (f : Bil → Bil) (h : Keeps s₀ s) : Keeps s₀ (s.modBil f) := h.of rfl rfl rfl rfl
theorem State.modBat_keeps (f : Bat → Bat) (h : Keeps s₀ s) : Keeps s₀ (s.modBat f) := h.of rfl rfl rfl rfl
theorem State.modKey_keeps (f : Key → Key) (h : Keeps s₀ s) : Keeps s₀ (s.modKey f) := h.of rfl rfl rfl rfl
theorem State.modLcs_keeps (f : Lcs → Lcs) (h : Keeps s₀ s) : Keeps s₀ (s.modLcs f) := h.of rfl rfl rfl rfl
theorem State.modSlot_keeps (r : Ring) (seq : DWord) (f : JSlot → JSlot) (h : Keeps s₀ s) : Keeps s₀ (s.modSlot r seq f) := h.of rfl rfl rfl rfl
theorem State.modGlb_keeps (f : Glb → Glb) (hf : ∀ g, (f g).variant = g.variant) (h : Keeps s₀ s) : Keeps s₀ (s.modGlb f) :=
  h.of rfl (hf s.glb) rfl rfl
theorem State.modWin_keeps (f : Win → Win) (hf : ∀ w, (f w).mem = w.mem ∧ (f w).pages = w.pages) (h : Keeps s₀ s) :
    Keeps s₀ (s.modWin f) :=
  h.trans ⟨rfl, rfl, fun w => by
    have e := hf s.win
    unfold StoresWf at *
    exact ⟨by rw [show (s.modWin f).win = f s.win from rfl, e.1]; exact w.1,
      by rw [show (s.modWin f).win = f s.win from rfl, e.2]; exact w.2.1, w.2.2⟩⟩
theorem State.modLine_keeps (p : Port) (f : LineSt → LineSt) (h : Keeps s₀ s) : Keeps s₀ (s.modLine p f) := h.of rfl rfl rfl rfl
theorem State.modSram_keeps (g : CoreGroup) (f : List (Nat × Byte) → List (Nat × Byte)) (hf : ∀ m, Memory.wf m → Memory.wf (f m))
    (h : Keeps s₀ s) : Keeps s₀ (s.modSram g f) :=
  h.trans ⟨rfl, rfl, fun w => ⟨w.1, w.2.1, fun j => by
    change Memory.wf ((vmod s.sram g.idx f).get j)
    by_cases e : g.idx = j
    · subst e; rw [vmod_self]; exact hf _ (w.2.2 _)
    · rw [vmod_other _ _ _ _ e]; exact w.2.2 j⟩⟩
theorem State.useFree_keeps (h : Keeps s₀ s) : Keeps s₀ s.useFree := h.of rfl rfl rfl rfl
theorem State.memWrite_keeps (a : Nat) (b : Byte) (h : Keeps s₀ s) : Keeps s₀ (s.memWrite a b) :=
  h.trans ⟨rfl, rfl, fun w => ⟨sparsePut_wf 0 s.win.mem a b w.1, w.2⟩⟩
theorem State.setPage_keeps (p : Nat) (g : Page) (h : Keeps s₀ s) : Keeps s₀ (s.setPage p g) :=
  h.trans ⟨rfl, rfl, fun w => ⟨w.1, sparsePut_wf .cold s.win.pages p g w.2.1, w.2.2⟩⟩

theorem ite_keeps {c : Prop} [Decidable c] {a b : State} (ha : Keeps s₀ a) (hb : Keeps s₀ b) : Keeps s₀ (if c then a else b) := by
  split
  · exact ha
  · exact hb
theorem iteO_keeps {c : Prop} [Decidable c] {a b : Host.Outcome State Fault Refusal} (ha : KeepsO s₀ a) (hb : KeepsO s₀ b) :
    KeepsO s₀ (if c then a else b) := by
  split
  · exact ha
  · exact hb
theorem foldl_keeps {α : Type} (f : State → α → State) (l : List α) (hf : ∀ t a, Keeps s₀ t → Keeps s₀ (f t a)) (h : Keeps s₀ s) :
    Keeps s₀ (l.foldl f s) := by
  induction l generalizing s with
  | nil => exact h
  | cons a t ih => exact ih (hf s a h)
theorem State.forAll_keeps {n : Nat} (f : Fin n → State → State) (hf : ∀ i t, Keeps s₀ t → Keeps s₀ (f i t)) (h : Keeps s₀ s) :
    Keeps s₀ (s.forAll f) := foldl_keeps _ _ (fun t i ht => hf i t ht) h
theorem State.cond_keeps (c : Bool) (f : State → State) (hf : ∀ t, Keeps s₀ t → Keeps s₀ (f t)) (h : Keeps s₀ s) :
    Keeps s₀ (s.cond c f) := by
  cases c
  · exact h
  · exact hf s h
theorem State.memWriteList_keeps (a : Nat) (l : List Byte) (h : Keeps s₀ s) : Keeps s₀ (s.memWriteList a l) := by
  induction l generalizing s a with
  | nil => exact h
  | cons b t ih => exact ih (a + 1) (State.memWrite_keeps a b h)
theorem State.live_keeps (f : State → State) (hf : ∀ t, Keeps s₀ t → Keeps s₀ (f t)) (h : Keeps s₀ s) : KeepsO s₀ (s.live f) := by
  apply KeepsO.next
  split
  · exact hf s h
  · exact h
end

end Sys2Proof.Machine
end

