-- ==== Sys2Proof/Laws/KeepsOps.lean ====
section
/-! SUPPORT. What the operations of Machine/Ops.lean keep: the queue, the variant, the canonical form of the stores. -/
namespace Sys2Proof.Machine

theorem State.runCycles_keeps {s₀ : State} (k : Nat) (s : State) (hk : Keeps s₀ s) : Keeps s₀ (State.runCycles k s) := by
  unfold State.runCycles
  exact hk.of rfl rfl rfl rfl

theorem State.runTo_keeps {s₀ : State} (due : Nat) (s : State) (hk : Keeps s₀ s) : Keeps s₀ (State.runTo due s) := by
  unfold State.runTo
  try dsimp only
  repeat' first | (intro _) | with_reducible assumption | with_reducible apply State.runCycles_keeps | with_reducible apply foldl_keeps | with_reducible apply ite_keeps | split | with_reducible rfl | with_reducible apply And.intro | (dsimp only [id]; with_reducible assumption)

theorem State.runToFleet_keeps {s₀ : State} (t : Nat) (s : State) (hk : Keeps s₀ s) : Keeps s₀ (State.runToFleet t s) := by
  unfold State.runToFleet
  try dsimp only
  repeat' first | (intro _) | with_reducible assumption | with_reducible apply State.runCycles_keeps | with_reducible apply foldl_keeps | with_reducible apply ite_keeps | split | with_reducible rfl | with_reducible apply And.intro | (dsimp only [id]; with_reducible assumption)

theorem State.runToOffset_keeps {s₀ : State} (off : Nat) (s : State) (hk : Keeps s₀ s) : Keeps s₀ (State.runToOffset off s) := by
  unfold State.runToOffset
  try dsimp only
  repeat' first | (intro _) | with_reducible assumption | with_reducible apply State.runToFleet_keeps | with_reducible apply foldl_keeps | with_reducible apply ite_keeps | split | with_reducible rfl | with_reducible apply And.intro | (dsimp only [id]; with_reducible assumption)

theorem State.sendMsi_keeps {s₀ : State} (v : IrqVec) (s : State) (hk : Keeps s₀ s) : Keeps s₀ (State.sendMsi v s) := by
  unfold State.sendMsi
  try dsimp only
  repeat' first | (intro _) | with_reducible assumption | with_reducible apply State.modIrq_keeps | with_reducible apply State.modHost_keeps | with_reducible apply foldl_keeps | with_reducible apply ite_keeps | split | with_reducible rfl | with_reducible apply And.intro | (dsimp only [id]; with_reducible assumption)

theorem State.irqItem_keeps {s₀ : State} (v : IrqVec) (atOnce : Bool) (s : State) (hk : Keeps s₀ s) : Keeps s₀ (State.irqItem v atOnce s) := by
  unfold State.irqItem
  try dsimp only
  repeat' first | (intro _) | with_reducible assumption | with_reducible apply State.modIrq_keeps | with_reducible apply State.sendMsi_keeps | with_reducible apply foldl_keeps | with_reducible apply ite_keeps | split | with_reducible rfl | with_reducible apply And.intro | (dsimp only [id]; with_reducible assumption)

theorem State.evSet_keeps {s₀ : State} (e : EvSrc) (v : EvReg) (s : State) (hk : Keeps s₀ s) : Keeps s₀ (State.evSet e v s) := by
  unfold State.evSet
  try dsimp only
  repeat' first | (intro _) | with_reducible assumption | with_reducible apply State.modEv_keeps | with_reducible apply foldl_keeps | with_reducible apply ite_keeps | split | with_reducible rfl | with_reducible apply And.intro | (dsimp only [id]; with_reducible assumption)

theorem State.storeRec_keeps {s₀ : State} (r : JRec) (s : State) (hk : Keeps s₀ s) : Keeps s₀ (State.storeRec r s) := by
  unfold State.storeRec
  try dsimp only
  repeat' first | (intro _) | with_reducible assumption | with_reducible apply State.modDia_keeps | with_reducible apply State.modThm_keeps | with_reducible apply foldl_keeps | with_reducible apply ite_keeps | split | with_reducible rfl | with_reducible apply And.intro | (dsimp only [id]; with_reducible assumption)

theorem State.journal_keeps {s₀ : State} (block code subject a b origin : Nat) (s : State) (hk : Keeps s₀ s) : Keeps s₀ (State.journal block code subject a b origin s) := by
  unfold State.journal
  try dsimp only
  repeat' first | (intro _) | with_reducible assumption | with_reducible apply State.modDia_keeps | with_reducible apply State.storeRec_keeps | with_reducible apply foldl_keeps | with_reducible apply ite_keeps | split | with_reducible rfl | with_reducible apply And.intro | (dsimp only [id]; with_reducible assumption)

theorem State.raise_keeps {s₀ : State} (e : EvSrc) (b : Nat) (s : State) (hk : Keeps s₀ s) : Keeps s₀ (State.raise e b s) := by
  unfold State.raise
  try dsimp only
  repeat' first | (intro _) | with_reducible assumption | with_reducible apply State.evSet_keeps | with_reducible apply State.journal_keeps | with_reducible apply State.irqItem_keeps | with_reducible apply foldl_keeps | with_reducible apply ite_keeps | split | with_reducible rfl | with_reducible apply And.intro | (dsimp only [id]; with_reducible assumption)

theorem State.raiseAt_keeps {s₀ : State} (e : EvSrc) (b subject a v : Nat) (s : State) (hk : Keeps s₀ s) : Keeps s₀ (State.raiseAt e b subject a v s) := by
  unfold State.raiseAt
  try dsimp only
  repeat' first | (intro _) | with_reducible assumption | with_reducible apply State.evSet_keeps | with_reducible apply State.journal_keeps | with_reducible apply State.irqItem_keeps | with_reducible apply foldl_keeps | with_reducible apply ite_keeps | split | with_reducible rfl | with_reducible apply And.intro | (dsimp only [id]; with_reducible assumption)

theorem State.sramWrite_keeps {s₀ : State} (g : CoreGroup) (a : Nat) (bytes : List Byte) (s : State) (hk : Keeps s₀ s) : Keeps s₀ (State.sramWrite g a bytes s) := by
  unfold State.sramWrite
  refine State.modSram_keeps g _ (fun m hm => ?_) hk
  generalize bytes.zip (List.range bytes.length) = l
  induction l generalizing m with
  | nil => exact hm
  | cons x t ih => exact ih _ (sparsePut_wf 0 m _ _ hm)

theorem State.sramClear_keeps {s₀ : State} (g : CoreGroup) (s : State) (hk : Keeps s₀ s) : Keeps s₀ (State.sramClear g s) := State.modSram_keeps g _ (fun _ _ => rfl) hk

theorem State.sramCopy_keeps {s₀ : State} (src dst : CoreGroup) (s : State) (hk : Keeps s₀ s) : Keeps s₀ (State.sramCopy src dst s) :=
  hk.trans ⟨rfl, rfl, fun w => ⟨w.1, w.2.1, fun j => by
    change Memory.wf ((vmod s.sram dst.idx fun _ => s.sram.get src.idx).get j)
    by_cases e : dst.idx = j
    · subst e; rw [vmod_self]; exact w.2.2 _
    · rw [vmod_other _ _ _ _ e]; exact w.2.2 j⟩⟩

theorem State.passPage_keeps {s₀ : State} (owner : PageOwner) (agent : BitVec 2) (p : Nat) (s : State) (hk : Keeps s₀ s) : Keeps s₀ (State.passPage owner agent p s) := by
  unfold State.passPage
  try dsimp only
  repeat' first | (intro _) | with_reducible assumption | with_reducible apply State.setPage_keeps | with_reducible apply foldl_keeps | with_reducible apply ite_keeps | split | with_reducible rfl | with_reducible apply And.intro | (dsimp only [id]; with_reducible assumption)

theorem State.passPages_keeps {s₀ : State} (owner : PageOwner) (agent : BitVec 2) (ps : List (Fin 4096)) (s : State) (hk : Keeps s₀ s) : Keeps s₀ (State.passPages owner agent ps s) := by
  unfold State.passPages
  try dsimp only
  repeat' first | (intro _) | with_reducible assumption | with_reducible apply State.passPage_keeps | with_reducible apply foldl_keeps | with_reducible apply ite_keeps | split | with_reducible rfl | with_reducible apply And.intro | (dsimp only [id]; with_reducible assumption)

theorem State.writePages_keeps {s₀ : State} (refs : List Word) (bytes : List Byte) (s : State) (hk : Keeps s₀ s) : Keeps s₀ (State.writePages refs bytes s) := by
  unfold State.writePages
  try dsimp only
  repeat' first | (intro _) | with_reducible assumption | with_reducible apply State.memWriteList_keeps | with_reducible apply foldl_keeps | with_reducible apply ite_keeps | split | with_reducible rfl | with_reducible apply And.intro | (dsimp only [id]; with_reducible assumption)

theorem State.writeShadow_keeps {s₀ : State} (r : Ring) (s : State) (hk : Keeps s₀ s) : Keeps s₀ (State.writeShadow r s) := by
  unfold State.writeShadow
  try dsimp only
  repeat' first | (intro _) | with_reducible assumption | with_reducible apply State.modRing_keeps | with_reducible apply State.modHost_keeps | with_reducible apply foldl_keeps | with_reducible apply ite_keeps | split | with_reducible rfl | with_reducible apply And.intro | (dsimp only [id]; with_reducible assumption)

theorem State.freeze_keeps {s₀ : State} (m : Master) (cause : Nat) (place : Word) (s : State) (hk : Keeps s₀ s) : Keeps s₀ (State.freeze m cause place s) := by
  unfold State.freeze
  try dsimp only
  repeat' first | (intro _) | with_reducible assumption | with_reducible apply State.modFrz_keeps | with_reducible apply State.forAll_keeps | with_reducible apply State.modRing_keeps | with_reducible apply State.writeShadow_keeps | with_reducible apply State.raiseAt_keeps | with_reducible apply foldl_keeps | with_reducible apply ite_keeps | split | with_reducible rfl | with_reducible apply And.intro | (dsimp only [id]; with_reducible assumption)

theorem State.dropFrozen_keeps {s₀ : State} (m : Master) (s : State) (hk : Keeps s₀ s) : Keeps s₀ (State.dropFrozen m s) := by
  unfold State.dropFrozen
  try dsimp only
  repeat' first | (intro _) | with_reducible assumption | with_reducible apply State.modFrz_keeps | with_reducible apply foldl_keeps | with_reducible apply ite_keeps | split | with_reducible rfl | with_reducible apply And.intro | (dsimp only [id]; with_reducible assumption)

theorem State.beat_keeps {s₀ : State} (m : Master) (s : State) (hk : Keeps s₀ s) : Keeps s₀ (State.beat m s) := by
  unfold State.beat
  try dsimp only
  repeat' first | (intro _) | with_reducible assumption | with_reducible apply State.runCycles_keeps | with_reducible apply foldl_keeps | with_reducible apply ite_keeps | split | with_reducible rfl | with_reducible apply And.intro | (dsimp only [id]; with_reducible assumption)

theorem State.beats_keeps {s₀ : State} (n : Nat) (m : Master) (s : State) (hk : Keeps s₀ s) : Keeps s₀ (State.beats n m s) := by
  induction n generalizing s with
  | zero => exact hk
  | succ n ih => exact ih _ (State.beat_keeps m s hk)

theorem State.transact_keeps {s₀ : State} (m : Master) (f : State → State) (s : State) (hf : ∀ t, Keeps s₀ t → Keeps s₀ (f t)) (hk : Keeps s₀ s) : Keeps s₀ (State.transact m f s) := by
  unfold State.transact
  try dsimp only
  repeat' first | (intro _) | with_reducible assumption | with_reducible apply State.dropFrozen_keeps | with_reducible apply State.beat_keeps | apply hf | with_reducible apply foldl_keeps | with_reducible apply ite_keeps | split | with_reducible rfl | with_reducible apply And.intro | (dsimp only [id]; with_reducible assumption)

theorem State.firewallDrop_keeps {s₀ : State} (m : Master) (addr data : Nat) (s : State) (hk : Keeps s₀ s) : Keeps s₀ (State.firewallDrop m addr data s) := by
  unfold State.firewallDrop
  try dsimp only
  repeat' first | (intro _) | with_reducible assumption | with_reducible apply State.journal_keeps | with_reducible apply foldl_keeps | with_reducible apply ite_keeps | split | with_reducible rfl | with_reducible apply And.intro | (dsimp only [id]; with_reducible assumption)

theorem State.lockedWrite_keeps {s₀ : State} (m : Master) (off : Nat) (s : State) (hk : Keeps s₀ s) : Keeps s₀ (State.lockedWrite m off s) := by
  unfold State.lockedWrite
  try dsimp only
  repeat' first | (intro _) | with_reducible assumption | with_reducible apply State.freeze_keeps | with_reducible apply State.firewallDrop_keeps | with_reducible apply foldl_keeps | with_reducible apply ite_keeps | split | with_reducible rfl | with_reducible apply And.intro | (dsimp only [id]; with_reducible assumption)

theorem State.takeUp_keeps {s₀ : State} (r : Ring) (d : Desc) (s : State) (hk : Keeps s₀ s) : Keeps s₀ (State.takeUp r d s) := by
  unfold State.takeUp
  try dsimp only
  repeat' first | (intro _) | with_reducible assumption | with_reducible apply State.modSlot_keeps | with_reducible apply foldl_keeps | with_reducible apply ite_keeps | split | with_reducible rfl | with_reducible apply And.intro | (dsimp only [id]; with_reducible assumption)

theorem State.work_keeps {s₀ : State} (r : Ring) (d : Desc) (f : State → State) (s : State) (hf : ∀ t, Keeps s₀ t → Keeps s₀ (f t)) (hk : Keeps s₀ s) : Keeps s₀ (State.work r d f s) := by
  unfold State.work
  try dsimp only
  repeat' first | (intro _) | with_reducible assumption | with_reducible apply State.takeUp_keeps | apply hf | with_reducible apply foldl_keeps | with_reducible apply ite_keeps | split | with_reducible rfl | with_reducible apply And.intro | (dsimp only [id]; with_reducible assumption)

theorem State.completeAt_keeps {s₀ : State} (r : Ring) (seq : DWord) (detail : Half) (result : Word) (effect : Nat) (s : State) (hk : Keeps s₀ s) : Keeps s₀ (State.completeAt r seq detail result effect s) := by
  unfold State.completeAt
  try dsimp only
  repeat' first | (intro _) | with_reducible assumption | with_reducible apply State.modSlot_keeps | with_reducible apply foldl_keeps | with_reducible apply ite_keeps | split | with_reducible rfl | with_reducible apply And.intro | (dsimp only [id]; with_reducible assumption)

theorem State.complete_keeps {s₀ : State} (r : Ring) (seq : DWord) (detail : Half) (result : Word) (s : State) (hk : Keeps s₀ s) : Keeps s₀ (State.complete r seq detail result s) := by
  unfold State.complete
  try dsimp only
  repeat' first | (intro _) | with_reducible assumption | with_reducible apply State.completeAt_keeps | with_reducible apply foldl_keeps | with_reducible apply ite_keeps | split | with_reducible rfl | with_reducible apply And.intro | (dsimp only [id]; with_reducible assumption)

theorem State.handOver_keeps {s₀ : State} (p : Port) (f : Frame) (s : State) (hk : Keeps s₀ s) : Keeps s₀ (State.handOver p f s) := by
  unfold State.handOver
  try dsimp only
  repeat' first | (intro _) | with_reducible assumption | with_reducible apply State.modLine_keeps | with_reducible apply foldl_keeps | with_reducible apply ite_keeps | split | with_reducible rfl | with_reducible apply And.intro | (dsimp only [id]; with_reducible assumption)

theorem State.sendFrame_keeps {s₀ : State} (p : Port) (dest : Option (CtrlId × BitVec 4)) (hopLimit : Byte) (hopLocal : Bool) (body : Payload) (s : State) (hk : Keeps s₀ s) : Keeps s₀ (State.sendFrame p dest hopLimit hopLocal body s) := by
  unfold State.sendFrame
  try dsimp only
  repeat' first | (intro _) | with_reducible assumption | with_reducible apply State.modRgt_keeps | with_reducible apply State.handOver_keeps | with_reducible apply State.modPort_keeps | with_reducible apply foldl_keeps | with_reducible apply ite_keeps | split | with_reducible rfl | with_reducible apply And.intro | (dsimp only [id]; with_reducible assumption)

theorem State.sendMessage_keeps {s₀ : State} (p : Port) (dest : Option (CtrlId × BitVec 4)) (body : CfgBody) (s : State) (hk : Keeps s₀ s) : Keeps s₀ (State.sendMessage p dest body s) := by
  unfold State.sendMessage
  try dsimp only
  repeat' first | (intro _) | with_reducible assumption | with_reducible apply State.sendFrame_keeps | with_reducible apply State.modRgt_keeps | with_reducible apply foldl_keeps | with_reducible apply ite_keeps | split | with_reducible rfl | with_reducible apply And.intro | (dsimp only [id]; with_reducible assumption)

theorem State.sendCfg_keeps {s₀ : State} (dest : CtrlId × BitVec 4) (body : CfgBody) (s : State) (hk : Keeps s₀ s) : Keeps s₀ (State.sendCfg dest body s) := by
  unfold State.sendCfg
  try dsimp only
  repeat' first | (intro _) | with_reducible assumption | with_reducible apply State.sendMessage_keeps | with_reducible apply State.sendFrame_keeps | with_reducible apply foldl_keeps | with_reducible apply ite_keeps | split | with_reducible rfl | with_reducible apply And.intro | (dsimp only [id]; with_reducible assumption)

end Sys2Proof.Machine
end

