-- ==== Sys2Proof/Laws/KeepsOperands.lean ====
section
/-! SUPPORT. What the operations of Machine/Operands.lean keep: the queue, the variant, the canonical form of the stores. -/
namespace Sys2Proof.Machine

theorem State.countResetDrop_keeps {s₀ : State} (m : Master) (s : State) (hk : Keeps s₀ s) : Keeps s₀ (State.countResetDrop m s) := by
  unfold State.countResetDrop
  try dsimp only
  repeat' first | (intro _) | with_reducible assumption | with_reducible apply State.modGlb_keeps | with_reducible apply foldl_keeps | with_reducible apply ite_keeps | split | with_reducible rfl | with_reducible apply And.intro | (dsimp only [id]; with_reducible assumption)

theorem State.checkedWrite_keeps {s₀ : State} (m : Master) (up present allowed : Bool) (off : Nat) (f : State → State) (s : State) (hf : ∀ t, Keeps s₀ t → Keeps s₀ (f t)) (hk : Keeps s₀ s) : Keeps s₀ (State.checkedWrite m up present allowed off f s) := by
  unfold State.checkedWrite
  try dsimp only
  repeat' first | (intro _) | with_reducible assumption | with_reducible apply State.countResetDrop_keeps | with_reducible apply State.freeze_keeps | with_reducible apply State.lockedWrite_keeps | apply hf | with_reducible apply foldl_keeps | with_reducible apply ite_keeps | split | with_reducible rfl | with_reducible apply And.intro | (dsimp only [id]; with_reducible assumption)

theorem State.guardedWrite_keeps {s₀ : State} (m : Master) (up present allowed : Bool) (off : Nat) (f : State → State) (s : State) (hf : ∀ t, Keeps s₀ t → Keeps s₀ (f t)) (hk : Keeps s₀ s) : Keeps s₀ (State.guardedWrite m up present allowed off f s) := by
  unfold State.guardedWrite
  exact State.transact_keeps _ _ _ (fun t ht => State.checkedWrite_keeps _ _ _ _ _ _ _ hf ht) hk

end Sys2Proof.Machine
end

