-- ==== Sys2Proof/Laws/KeepsFlags.lean ====
section
/-! SUPPORT. What the operations of Machine/Flags.lean keep: the queue, the variant, the canonical form of the stores. -/
namespace Sys2Proof.Machine

theorem State.turnCh_keeps {s₀ : State} (n : Phase) (tm : Nat) (f : PwmCh → PwmCh) (s : State) (hk : Keeps s₀ s) : Keeps s₀ (State.turnCh n tm f s) := by
  unfold State.turnCh
  try dsimp only
  repeat' first | (intro _) | with_reducible assumption | with_reducible apply State.modCh_keeps | with_reducible apply foldl_keeps | with_reducible apply ite_keeps | split | with_reducible rfl | with_reducible apply And.intro | (dsimp only [id]; with_reducible assumption)

theorem State.applyMasks_keeps {s₀ : State} (n : Phase) (s : State) (hk : Keeps s₀ s) : Keeps s₀ (State.applyMasks n s) := by
  unfold State.applyMasks
  try dsimp only
  repeat' first | (intro _) | with_reducible assumption | with_reducible apply State.turnCh_keeps | with_reducible apply State.raise_keeps | with_reducible apply State.modCh_keeps | with_reducible apply foldl_keeps | with_reducible apply ite_keeps | split | with_reducible rfl | with_reducible apply And.intro | (dsimp only [id]; with_reducible assumption)

theorem State.releaseMasks_keeps {s₀ : State} (n : Phase) (tm : Nat) (s : State) (hk : Keeps s₀ s) : Keeps s₀ (State.releaseMasks n tm s) := by
  unfold State.releaseMasks
  try dsimp only
  repeat' first | (intro _) | with_reducible assumption | with_reducible apply State.turnCh_keeps | with_reducible apply State.modCh_keeps | with_reducible apply foldl_keeps | with_reducible apply ite_keeps | split | with_reducible rfl | with_reducible apply And.intro | (dsimp only [id]; with_reducible assumption)

theorem State.restMasks_keeps {s₀ : State} (n : Phase) (s : State) (hk : Keeps s₀ s) : Keeps s₀ (State.restMasks n s) := by
  unfold State.restMasks
  try dsimp only
  repeat' first | (intro _) | with_reducible assumption | with_reducible apply State.releaseMasks_keeps | with_reducible apply foldl_keeps | with_reducible apply ite_keeps | split | with_reducible rfl | with_reducible apply And.intro | (dsimp only [id]; with_reducible assumption)

theorem State.dropGates_keeps {s₀ : State} (s : State) (hk : Keeps s₀ s) : Keeps s₀ (State.dropGates s) := by
  unfold State.dropGates
  try dsimp only
  repeat' first | (intro _) | with_reducible assumption | with_reducible apply State.modSaf_keeps | with_reducible apply foldl_keeps | with_reducible apply ite_keeps | split | with_reducible rfl | with_reducible apply And.intro | (dsimp only [id]; with_reducible assumption)

theorem State.markDemands_keeps {s₀ : State} (s : State) (hk : Keeps s₀ s) : Keeps s₀ (State.markDemands s) := by
  unfold State.markDemands
  try dsimp only
  repeat' first | (intro _) | with_reducible assumption | with_reducible apply State.modSaf_keeps | with_reducible apply foldl_keeps | with_reducible apply ite_keeps | split | with_reducible rfl | with_reducible apply And.intro | (dsimp only [id]; with_reducible assumption)

theorem State.safetyUpdate_keeps {s₀ : State} (s : State) (hk : Keeps s₀ s) : Keeps s₀ (State.safetyUpdate s) := by
  unfold State.safetyUpdate
  try dsimp only
  repeat' first | (intro _) | with_reducible assumption | with_reducible apply State.dropGates_keeps | with_reducible apply State.markDemands_keeps | with_reducible apply State.forAll_keeps | with_reducible apply State.applyMasks_keeps | with_reducible apply State.restMasks_keeps | with_reducible apply State.releaseMasks_keeps | with_reducible apply foldl_keeps | with_reducible apply ite_keeps | split | with_reducible rfl | with_reducible apply And.intro | (dsimp only [id]; with_reducible assumption)

theorem State.raiseGlb_keeps {s₀ : State} (b : Nat) (s : State) (hk : Keeps s₀ s) : Keeps s₀ (State.raiseGlb b s) := by
  unfold State.raiseGlb
  try dsimp only
  repeat' first | (intro _) | with_reducible assumption | with_reducible apply State.modSaf_keeps | with_reducible apply State.raise_keeps | with_reducible apply State.safetyUpdate_keeps | with_reducible apply foldl_keeps | with_reducible apply ite_keeps | split | with_reducible rfl | with_reducible apply And.intro | (dsimp only [id]; with_reducible assumption)

theorem State.raiseOut_keeps {s₀ : State} (o : Outlet) (b : Nat) (s : State) (hk : Keeps s₀ s) : Keeps s₀ (State.raiseOut o b s) := by
  unfold State.raiseOut
  try dsimp only
  repeat' first | (intro _) | with_reducible assumption | with_reducible apply State.modSaf_keeps | with_reducible apply State.raiseAt_keeps | with_reducible apply State.safetyUpdate_keeps | with_reducible apply foldl_keeps | with_reducible apply ite_keeps | split | with_reducible rfl | with_reducible apply And.intro | (dsimp only [id]; with_reducible assumption)

theorem State.raiseSto_keeps {s₀ : State} (a : Acd) (b : Nat) (s : State) (hk : Keeps s₀ s) : Keeps s₀ (State.raiseSto a b s) := by
  unfold State.raiseSto
  try dsimp only
  repeat' first | (intro _) | with_reducible assumption | with_reducible apply State.modSaf_keeps | with_reducible apply State.raiseAt_keeps | with_reducible apply foldl_keeps | with_reducible apply ite_keeps | split | with_reducible rfl | with_reducible apply And.intro | (dsimp only [id]; with_reducible assumption)

theorem State.clearGlb_keeps {s₀ : State} (b : Nat) (s : State) (hk : Keeps s₀ s) : Keeps s₀ (State.clearGlb b s) := by
  unfold State.clearGlb
  try dsimp only
  repeat' first | (intro _) | with_reducible assumption | with_reducible apply State.modSaf_keeps | with_reducible apply State.safetyUpdate_keeps | with_reducible apply foldl_keeps | with_reducible apply ite_keeps | split | with_reducible rfl | with_reducible apply And.intro | (dsimp only [id]; with_reducible assumption)

theorem State.clearOut_keeps {s₀ : State} (o : Outlet) (b : Nat) (s : State) (hk : Keeps s₀ s) : Keeps s₀ (State.clearOut o b s) := by
  unfold State.clearOut
  try dsimp only
  repeat' first | (intro _) | with_reducible assumption | with_reducible apply State.modSaf_keeps | with_reducible apply State.safetyUpdate_keeps | with_reducible apply foldl_keeps | with_reducible apply ite_keeps | split | with_reducible rfl | with_reducible apply And.intro | (dsimp only [id]; with_reducible assumption)

theorem State.clearSto_keeps {s₀ : State} (a : Acd) (b : Nat) (s : State) (hk : Keeps s₀ s) : Keeps s₀ (State.clearSto a b s) := by
  unfold State.clearSto
  try dsimp only
  repeat' first | (intro _) | with_reducible assumption | with_reducible apply State.modSaf_keeps | with_reducible apply foldl_keeps | with_reducible apply ite_keeps | split | with_reducible rfl | with_reducible apply And.intro | (dsimp only [id]; with_reducible assumption)

theorem State.syncControlFault_keeps {s₀ : State} (s : State) (hk : Keeps s₀ s) : Keeps s₀ (State.syncControlFault s) := by
  unfold State.syncControlFault
  try dsimp only
  repeat' first | (intro _) | with_reducible assumption | with_reducible apply State.forAll_keeps | with_reducible apply State.raiseSto_keeps | with_reducible apply State.clearSto_keeps | with_reducible apply foldl_keeps | with_reducible apply ite_keeps | split | with_reducible rfl | with_reducible apply And.intro | (dsimp only [id]; with_reducible assumption)

theorem State.setDrives_keeps {s₀ : State} (o : Outlet) (closed : Bool) (s : State) (hk : Keeps s₀ s) : Keeps s₀ (State.setDrives o closed s) := by
  unfold State.setDrives
  try dsimp only
  repeat' first | (intro _) | with_reducible assumption | with_reducible apply State.modSaf_keeps | with_reducible apply foldl_keeps | with_reducible apply ite_keeps | split | with_reducible rfl | with_reducible apply And.intro | (dsimp only [id]; with_reducible assumption)

theorem State.laneOpen_keeps {s₀ : State} (o : Outlet) (s : State) (hk : Keeps s₀ s) : Keeps s₀ (State.laneOpen o s) := by
  unfold State.laneOpen
  try dsimp only
  repeat' first | (intro _) | with_reducible assumption | with_reducible apply State.setDrives_keeps | with_reducible apply foldl_keeps | with_reducible apply ite_keeps | split | with_reducible rfl | with_reducible apply And.intro | (dsimp only [id]; with_reducible assumption)

theorem State.hold_keeps {s₀ : State} (w : GatedWrite) (s : State) (hk : Keeps s₀ s) : Keeps s₀ (State.holdWrite w s) := by
  unfold State.holdWrite
  try dsimp only
  repeat' first | (intro _) | with_reducible assumption | with_reducible apply State.modLne_keeps | with_reducible apply foldl_keeps | with_reducible apply ite_keeps | split | with_reducible rfl | with_reducible apply And.intro | (dsimp only [id]; with_reducible assumption)

theorem State.laneClose_keeps {s₀ : State} (o : Outlet) (s : State) (hk : Keeps s₀ s) : Keeps s₀ (State.laneClose o s) := by
  unfold State.laneClose
  try dsimp only
  repeat' first | (intro _) | with_reducible assumption | with_reducible apply State.hold_keeps | with_reducible apply State.setDrives_keeps | with_reducible apply foldl_keeps | with_reducible apply ite_keeps | split | with_reducible rfl | with_reducible apply And.intro | (dsimp only [id]; with_reducible assumption)

theorem State.passClose_keeps {s₀ : State} (o : Outlet) (s : State) (hk : Keeps s₀ s) : Keeps s₀ (State.passClose o s) := by
  unfold State.passClose
  try dsimp only
  repeat' first | (intro _) | with_reducible assumption | with_reducible apply State.setDrives_keeps | with_reducible apply foldl_keeps | with_reducible apply ite_keeps | split | with_reducible rfl | with_reducible apply And.intro | (dsimp only [id]; with_reducible assumption)

theorem State.weldPath_keeps {s₀ : State} (o : Outlet) (s : State) (hk : Keeps s₀ s) : Keeps s₀ (State.weldPath o s) := by
  unfold State.weldPath
  try dsimp only
  repeat' first | (intro _) | with_reducible assumption | with_reducible apply State.raiseGlb_keeps | with_reducible apply State.modSaf_keeps | with_reducible apply State.raiseAt_keeps | with_reducible apply State.journal_keeps | with_reducible apply foldl_keeps | with_reducible apply ite_keeps | split | with_reducible rfl | with_reducible apply And.intro | (dsimp only [id]; with_reducible assumption)

end Sys2Proof.Machine
end

