-- ==== Sys2Proof/Laws/KeepsPwm.lean ====
section
/-! SUPPORT. What the operations of Machine/Pwm.lean keep: the queue, the variant, the canonical form of the stores. -/
namespace Sys2Proof.Machine

theorem State.pwmRefuse_keeps {s₀ : State} (n : Phase) (res : BitVec 3) (s : State) (hk : Keeps s₀ s) : Keeps s₀ (State.pwmRefuse n res s) := by
  unfold State.pwmRefuse
  try dsimp only
  repeat' first | (intro _) | with_reducible assumption | with_reducible apply State.modCh_keeps | with_reducible apply State.raise_keeps | with_reducible apply foldl_keeps | with_reducible apply ite_keeps | split | with_reducible rfl | with_reducible apply And.intro | (dsimp only [id]; with_reducible assumption)

theorem State.pwmAccept_keeps {s₀ : State} (n : Phase) (tag : Half) (s : State) (hk : Keeps s₀ s) : Keeps s₀ (State.pwmAccept n tag s) := by
  unfold State.pwmAccept
  try dsimp only
  repeat' first | (intro _) | with_reducible assumption | with_reducible apply State.modCh_keeps | with_reducible apply State.raise_keeps | with_reducible apply foldl_keeps | with_reducible apply ite_keeps | split | with_reducible rfl | with_reducible apply And.intro | (dsimp only [id]; with_reducible assumption)

theorem State.pwmCommitOne_keeps {s₀ : State} (n : Phase) (tag : Half) (s : State) (hk : Keeps s₀ s) : Keeps s₀ (State.pwmCommitOne n tag s) := by
  unfold State.pwmCommitOne
  try dsimp only
  repeat' first | (intro _) | with_reducible assumption | with_reducible apply State.pwmAccept_keeps | with_reducible apply State.pwmRefuse_keeps | with_reducible apply foldl_keeps | with_reducible apply ite_keeps | split | with_reducible rfl | with_reducible apply And.intro | (dsimp only [id]; with_reducible assumption)

theorem State.pwmGroup_keeps {s₀ : State} (mask : BitVec 24) (tag : Half) (s : State) (hk : Keeps s₀ s) : Keeps s₀ (State.pwmGroup mask tag s) := by
  unfold State.pwmGroup
  try dsimp only
  repeat' first | (intro _) | with_reducible assumption | with_reducible apply State.forAll_keeps | with_reducible apply State.pwmAccept_keeps | with_reducible apply State.pwmRefuse_keeps | with_reducible apply foldl_keeps | with_reducible apply ite_keeps | split | with_reducible rfl | with_reducible apply And.intro | (dsimp only [id]; with_reducible assumption)

theorem State.pwmStop_keeps {s₀ : State} (n : Phase) (s : State) (hk : Keeps s₀ s) : Keeps s₀ (State.pwmStop n s) := by
  unfold State.pwmStop
  try dsimp only
  repeat' first | (intro _) | with_reducible assumption | with_reducible apply State.turnCh_keeps | with_reducible apply State.modRegCh_keeps | with_reducible apply State.modCh_keeps | with_reducible apply foldl_keeps | with_reducible apply ite_keeps | split | with_reducible rfl | with_reducible apply And.intro | (dsimp only [id]; with_reducible assumption)

theorem State.pwmDisable_keeps {s₀ : State} (n : Phase) (s : State) (hk : Keeps s₀ s) : Keeps s₀ (State.pwmDisable n s) := by
  unfold State.pwmDisable
  try dsimp only
  repeat' first | (intro _) | with_reducible assumption | with_reducible apply State.modCh_keeps | with_reducible apply State.pwmStop_keeps | with_reducible apply State.restMasks_keeps | with_reducible apply State.releaseMasks_keeps | with_reducible apply foldl_keeps | with_reducible apply ite_keeps | split | with_reducible rfl | with_reducible apply And.intro | (dsimp only [id]; with_reducible assumption)

theorem State.pwmStartMask_keeps {s₀ : State} (mask : BitVec 24) (s : State) (hk : Keeps s₀ s) : Keeps s₀ (State.pwmStartMask mask s) := by
  unfold State.pwmStartMask
  try dsimp only
  repeat' first | (intro _) | with_reducible assumption | with_reducible apply State.forAll_keeps | with_reducible apply State.raise_keeps | with_reducible apply State.modCh_keeps | with_reducible apply foldl_keeps | with_reducible apply ite_keeps | split | with_reducible rfl | with_reducible apply And.intro | (dsimp only [id]; with_reducible assumption)

theorem State.gatedStart_keeps {s₀ : State} (mask : BitVec 24) (s : State) (hk : Keeps s₀ s) : Keeps s₀ (State.gatedStart mask s) := by
  unfold State.gatedStart
  try dsimp only
  repeat' first | (intro _) | with_reducible assumption | with_reducible apply State.pwmStartMask_keeps | with_reducible apply State.hold_keeps | with_reducible apply foldl_keeps | with_reducible apply ite_keeps | split | with_reducible rfl | with_reducible apply And.intro | (dsimp only [id]; with_reducible assumption)

theorem State.pwmDiscard_keeps {s₀ : State} (s : State) (hk : Keeps s₀ s) : Keeps s₀ (State.pwmDiscard s) := by
  unfold State.pwmDiscard
  try dsimp only
  repeat' first | (intro _) | with_reducible assumption | with_reducible apply State.forAll_keeps | with_reducible apply State.modCh_keeps | with_reducible apply State.raise_keeps | with_reducible apply foldl_keeps | with_reducible apply ite_keeps | split | with_reducible rfl | with_reducible apply And.intro | (dsimp only [id]; with_reducible assumption)

theorem State.pwmReset_keeps {s₀ : State} (s : State) (hk : Keeps s₀ s) : Keeps s₀ (State.pwmReset s) := by
  unfold State.pwmReset
  try dsimp only
  repeat' first | (intro _) | with_reducible assumption | with_reducible apply State.modPwm_keeps | with_reducible apply State.modEv_keeps | with_reducible apply foldl_keeps | with_reducible apply ite_keeps | split | with_reducible rfl | with_reducible apply And.intro | (dsimp only [id]; with_reducible assumption)

theorem State.holdLow_keeps {s₀ : State} (n : Phase) (s : State) (hk : Keeps s₀ s) : Keeps s₀ (State.holdLow n s) := by
  unfold State.holdLow
  try dsimp only
  repeat' first | (intro _) | with_reducible assumption | with_reducible apply State.turnCh_keeps | with_reducible apply State.modCh_keeps | with_reducible apply foldl_keeps | with_reducible apply ite_keeps | split | with_reducible rfl | with_reducible apply And.intro | (dsimp only [id]; with_reducible assumption)

theorem State.modCode_keeps {s₀ : State} (n : Phase) (f : RegCh → RegCh) (s : State) (hk : Keeps s₀ s) : Keeps s₀ (State.modCode n f s) := by
  unfold State.modCode
  try dsimp only
  repeat' first | (intro _) | with_reducible assumption | with_reducible apply State.modRegCh_keeps | with_reducible apply State.holdLow_keeps | with_reducible apply foldl_keeps | with_reducible apply ite_keeps | split | with_reducible rfl | with_reducible apply And.intro | (dsimp only [id]; with_reducible assumption)

theorem State.detect_keeps {s₀ : State} (n : Phase) (s : State) (hk : Keeps s₀ s) : Keeps s₀ (State.detect n s) := by
  unfold State.detect
  try dsimp only
  repeat' first | (intro _) | with_reducible assumption | with_reducible apply State.modRegCh_keeps | with_reducible apply foldl_keeps | with_reducible apply ite_keeps | split | with_reducible rfl | with_reducible apply And.intro | (dsimp only [id]; with_reducible assumption)

theorem execPwmShadowWrite_keeps {s₀ : State} (m : Master) (n : Phase) (reg : Fin 5) (w : Word) (s : State) (hk : Keeps s₀ s) : KeepsO s₀ (execPwmShadowWrite m n reg w s) := by
  unfold execPwmShadowWrite
  try dsimp only
  repeat' first | (intro _) | with_reducible assumption | with_reducible apply KeepsO.next | with_reducible apply State.live_keeps | with_reducible apply State.guardedWrite_keeps | with_reducible apply State.modCh_keeps | with_reducible apply foldl_keeps | with_reducible apply ite_keeps | with_reducible apply iteO_keeps | split | with_reducible rfl | with_reducible apply And.intro | (dsimp only [id]; with_reducible assumption)

theorem execPwmCommit_keeps {s₀ : State} (m : Master) (n : Phase) (w : Word) (s : State) (hk : Keeps s₀ s) : KeepsO s₀ (execPwmCommit m n w s) := by
  unfold execPwmCommit
  try dsimp only
  repeat' first | (intro _) | with_reducible assumption | with_reducible apply KeepsO.next | with_reducible apply State.live_keeps | with_reducible apply State.guardedWrite_keeps | with_reducible apply State.pwmCommitOne_keeps | with_reducible apply foldl_keeps | with_reducible apply ite_keeps | with_reducible apply iteO_keeps | split | with_reducible rfl | with_reducible apply And.intro | (dsimp only [id]; with_reducible assumption)

theorem execPwmGroupCommit_keeps {s₀ : State} (m : Master) (w : Word) (s : State) (hk : Keeps s₀ s) : KeepsO s₀ (execPwmGroupCommit m w s) := by
  unfold execPwmGroupCommit
  try dsimp only
  repeat' first | (intro _) | with_reducible assumption | with_reducible apply KeepsO.next | with_reducible apply State.live_keeps | with_reducible apply State.guardedWrite_keeps | with_reducible apply State.pwmGroup_keeps | with_reducible apply foldl_keeps | with_reducible apply ite_keeps | with_reducible apply iteO_keeps | split | with_reducible rfl | with_reducible apply And.intro | (dsimp only [id]; with_reducible assumption)

theorem execPwmStart_keeps {s₀ : State} (m : Master) (w : Word) (s : State) (hk : Keeps s₀ s) : KeepsO s₀ (execPwmStart m w s) := by
  unfold execPwmStart
  try dsimp only
  repeat' first | (intro _) | with_reducible assumption | with_reducible apply KeepsO.next | with_reducible apply State.live_keeps | with_reducible apply State.guardedWrite_keeps | with_reducible apply State.gatedStart_keeps | with_reducible apply State.pwmStartMask_keeps | with_reducible apply foldl_keeps | with_reducible apply ite_keeps | with_reducible apply iteO_keeps | split | with_reducible rfl | with_reducible apply And.intro | (dsimp only [id]; with_reducible assumption)

theorem execPwmCtrlWrite_keeps {s₀ : State} (m : Master) (n : Phase) (w : Word) (s : State) (hk : Keeps s₀ s) : KeepsO s₀ (execPwmCtrlWrite m n w s) := by
  unfold execPwmCtrlWrite
  try dsimp only
  repeat' first | (intro _) | with_reducible assumption | with_reducible apply KeepsO.next | with_reducible apply State.live_keeps | with_reducible apply State.guardedWrite_keeps | with_reducible apply State.modCh_keeps | with_reducible apply State.pwmDisable_keeps | with_reducible apply State.applyMasks_keeps | with_reducible apply State.restMasks_keeps | with_reducible apply State.releaseMasks_keeps | with_reducible apply foldl_keeps | with_reducible apply ite_keeps | with_reducible apply iteO_keeps | split | with_reducible rfl | with_reducible apply And.intro | (dsimp only [id]; with_reducible assumption)

theorem execPwmDtMinWrite_keeps {s₀ : State} (m : Master) (w : Word) (s : State) (hk : Keeps s₀ s) : KeepsO s₀ (execPwmDtMinWrite m w s) := by
  unfold execPwmDtMinWrite
  try dsimp only
  repeat' first | (intro _) | with_reducible assumption | with_reducible apply KeepsO.next | with_reducible apply State.live_keeps | with_reducible apply State.guardedWrite_keeps | with_reducible apply State.modPwm_keeps | with_reducible apply foldl_keeps | with_reducible apply ite_keeps | with_reducible apply iteO_keeps | split | with_reducible rfl | with_reducible apply And.intro | (dsimp only [id]; with_reducible assumption)

theorem State.auxCommit_keeps {s₀ : State} (a : Aux) (tag : Half) (s : State) (hk : Keeps s₀ s) : Keeps s₀ (State.auxCommit a tag s) := by
  unfold State.auxCommit
  try dsimp only
  repeat' first | (intro _) | with_reducible assumption | with_reducible apply State.modAux_keeps | with_reducible apply foldl_keeps | with_reducible apply ite_keeps | split | with_reducible rfl | with_reducible apply And.intro | (dsimp only [id]; with_reducible assumption)

theorem execPwmAuxCommit_keeps {s₀ : State} (m : Master) (a : Aux) (w : Word) (s : State) (hk : Keeps s₀ s) : KeepsO s₀ (execPwmAuxCommit m a w s) := by
  unfold execPwmAuxCommit
  try dsimp only
  repeat' first | (intro _) | with_reducible assumption | with_reducible apply KeepsO.next | with_reducible apply State.live_keeps | with_reducible apply State.guardedWrite_keeps | with_reducible apply State.auxCommit_keeps | with_reducible apply foldl_keeps | with_reducible apply ite_keeps | with_reducible apply iteO_keeps | split | with_reducible rfl | with_reducible apply And.intro | (dsimp only [id]; with_reducible assumption)

theorem execPwmAuxCtrlWrite_keeps {s₀ : State} (m : Master) (a : Aux) (w : Word) (s : State) (hk : Keeps s₀ s) : KeepsO s₀ (execPwmAuxCtrlWrite m a w s) := by
  unfold execPwmAuxCtrlWrite
  try dsimp only
  repeat' first | (intro _) | with_reducible assumption | with_reducible apply KeepsO.next | with_reducible apply State.live_keeps | with_reducible apply State.guardedWrite_keeps | with_reducible apply State.modAux_keeps | with_reducible apply foldl_keeps | with_reducible apply ite_keeps | with_reducible apply iteO_keeps | split | with_reducible rfl | with_reducible apply And.intro | (dsimp only [id]; with_reducible assumption)

theorem execPendingTransfer_keeps {s₀ : State} (c : Fin 32) (s : State) (hk : Keeps s₀ s) : KeepsO s₀ (execPendingTransfer c s) := by
  unfold execPendingTransfer
  try dsimp only
  repeat' first | (intro _) | with_reducible assumption | with_reducible apply KeepsO.next | with_reducible apply State.live_keeps | with_reducible apply State.runTo_keeps | with_reducible apply State.modCh_keeps | with_reducible apply State.modAux_keeps | with_reducible apply foldl_keeps | with_reducible apply ite_keeps | with_reducible apply iteO_keeps | split | with_reducible rfl | with_reducible apply And.intro | (dsimp only [id]; with_reducible assumption)

theorem State.phaseBoundary_keeps {s₀ : State} (n : Phase) (samples : Vector Int 8) (s : State) (hk : Keeps s₀ s) : Keeps s₀ (State.phaseBoundary n samples s) := by
  unfold State.phaseBoundary
  try dsimp only
  repeat' first | (intro _) | with_reducible assumption | with_reducible apply State.runTo_keeps | with_reducible apply State.modRegCh_keeps | with_reducible apply State.detect_keeps | with_reducible apply State.turnCh_keeps | with_reducible apply State.releaseMasks_keeps | with_reducible apply State.modCh_keeps | with_reducible apply foldl_keeps | with_reducible apply ite_keeps | split | with_reducible rfl | with_reducible apply And.intro | (dsimp only [id]; with_reducible assumption)

theorem State.auxBoundary_keeps {s₀ : State} (a : Aux) (s : State) (hk : Keeps s₀ s) : Keeps s₀ (State.auxBoundary a s) := by
  unfold State.auxBoundary
  try dsimp only
  repeat' first | (intro _) | with_reducible assumption | with_reducible apply State.runTo_keeps | with_reducible apply State.modAux_keeps | with_reducible apply foldl_keeps | with_reducible apply ite_keeps | split | with_reducible rfl | with_reducible apply And.intro | (dsimp only [id]; with_reducible assumption)

theorem execPeriodBoundary_keeps {s₀ : State} (c : Fin 32) (samples : Vector Int 8) (s : State) (hk : Keeps s₀ s) : KeepsO s₀ (execPeriodBoundary c samples s) := by
  unfold execPeriodBoundary
  try dsimp only
  repeat' first | (intro _) | with_reducible assumption | with_reducible apply KeepsO.next | with_reducible apply State.live_keeps | with_reducible apply State.phaseBoundary_keeps | with_reducible apply State.auxBoundary_keeps | with_reducible apply foldl_keeps | with_reducible apply ite_keeps | with_reducible apply iteO_keeps | split | with_reducible rfl | with_reducible apply And.intro | (dsimp only [id]; with_reducible assumption)

theorem execCompareEvent_keeps {s₀ : State} (n : Phase) (s : State) (hk : Keeps s₀ s) : KeepsO s₀ (execCompareEvent n s) := by
  unfold execCompareEvent
  try dsimp only
  repeat' first | (intro _) | with_reducible assumption | with_reducible apply KeepsO.next | with_reducible apply State.live_keeps | with_reducible apply State.runTo_keeps | with_reducible apply State.turnCh_keeps | with_reducible apply State.modRegCh_keeps | with_reducible apply State.modCh_keeps | with_reducible apply foldl_keeps | with_reducible apply ite_keeps | with_reducible apply iteO_keeps | split | with_reducible rfl | with_reducible apply And.intro | (dsimp only [id]; with_reducible assumption)

theorem execComparatorTrip_keeps {s₀ : State} (n : Phase) (tm : Nat) (sense : Int) (s : State) (hk : Keeps s₀ s) : KeepsO s₀ (execComparatorTrip n tm sense s) := by
  unfold execComparatorTrip
  try dsimp only
  repeat' first | (intro _) | with_reducible assumption | with_reducible apply KeepsO.next | with_reducible apply State.live_keeps | with_reducible apply State.runTo_keeps | with_reducible apply State.turnCh_keeps | with_reducible apply State.modRegCh_keeps | with_reducible apply State.modCh_keeps | with_reducible apply foldl_keeps | with_reducible apply ite_keeps | with_reducible apply iteO_keeps | split | with_reducible rfl | with_reducible apply And.intro | (dsimp only [id]; with_reducible assumption)

theorem execDmaxLimit_keeps {s₀ : State} (n : Phase) (s : State) (hk : Keeps s₀ s) : KeepsO s₀ (execDmaxLimit n s) := by
  unfold execDmaxLimit
  try dsimp only
  repeat' first | (intro _) | with_reducible assumption | with_reducible apply KeepsO.next | with_reducible apply State.live_keeps | with_reducible apply State.runTo_keeps | with_reducible apply State.turnCh_keeps | with_reducible apply State.modRegCh_keeps | with_reducible apply State.modCh_keeps | with_reducible apply foldl_keeps | with_reducible apply ite_keeps | with_reducible apply iteO_keeps | split | with_reducible rfl | with_reducible apply And.intro | (dsimp only [id]; with_reducible assumption)

end Sys2Proof.Machine
end

