-- ==== Sys2Proof/Laws/KeepsOutletOps.lean ====
section
/-! SUPPORT. What the operations of Machine/OutletOps.lean keep: the queue, the variant, the canonical form of the stores. -/
namespace Sys2Proof.Machine

theorem State.completeAll_keeps {s₀ : State} (ws : List (Ring × DWord)) (o : Outlet) (s : State) (hk : Keeps s₀ s) : Keeps s₀ (State.completeAll ws o s) := by
  unfold State.completeAll
  try dsimp only
  repeat' first | (intro _) | with_reducible assumption | with_reducible apply State.complete_keeps | with_reducible apply foldl_keeps | with_reducible apply ite_keeps | split | with_reducible rfl | with_reducible apply And.intro | (dsimp only [id]; with_reducible assumption)

theorem State.settleWaits_keeps {s₀ : State} (o : Outlet) (s : State) (hk : Keeps s₀ s) : Keeps s₀ (State.settleWaits o s) := by
  unfold State.settleWaits
  try dsimp only
  repeat' first | (intro _) | with_reducible assumption | with_reducible apply State.completeAll_keeps | with_reducible apply State.modOut_keeps | with_reducible apply foldl_keeps | with_reducible apply ite_keeps | split | with_reducible rfl | with_reducible apply And.intro | (dsimp only [id]; with_reducible assumption)

theorem State.enter_keeps {s₀ : State} (o : Outlet) (st : OutState) (s : State) (hk : Keeps s₀ s) : Keeps s₀ (State.enter o st s) := by
  unfold State.enter
  try dsimp only
  repeat' first | (intro _) | with_reducible assumption | with_reducible apply State.modOut_keeps | with_reducible apply State.journal_keeps | with_reducible apply State.settleWaits_keeps | with_reducible apply foldl_keeps | with_reducible apply ite_keeps | split | with_reducible rfl | with_reducible apply And.intro | (dsimp only [id]; with_reducible assumption)

theorem State.writeEnd_keeps {s₀ : State} (o : Outlet) (reason : Nat) (s : State) (hk : Keeps s₀ s) : Keeps s₀ (State.writeEnd o reason s) := by
  unfold State.writeEnd
  try dsimp only
  repeat' first | (intro _) | with_reducible assumption | with_reducible apply State.modOut_keeps | with_reducible apply foldl_keeps | with_reducible apply ite_keeps | split | with_reducible rfl | with_reducible apply And.intro | (dsimp only [id]; with_reducible assumption)

theorem State.signalMet_keeps {s₀ : State} (o : Outlet) (start : Bool) (id : Word) (reason : Byte) (s : State) (hk : Keeps s₀ s) : Keeps s₀ (State.signalMet o start id reason s) := by
  unfold State.signalMet
  try dsimp only
  repeat' first | (intro _) | with_reducible assumption | with_reducible apply State.modMet_keeps | with_reducible apply foldl_keeps | with_reducible apply ite_keeps | split | with_reducible rfl | with_reducible apply And.intro | (dsimp only [id]; with_reducible assumption)

theorem State.endEvent_keeps {s₀ : State} (o : Outlet) (s : State) (hk : Keeps s₀ s) : Keeps s₀ (State.endEvent o s) := by
  unfold State.endEvent
  try dsimp only
  repeat' first | (intro _) | with_reducible assumption | with_reducible apply State.raise_keeps | with_reducible apply State.signalMet_keeps | with_reducible apply foldl_keeps | with_reducible apply ite_keeps | split | with_reducible rfl | with_reducible apply And.intro | (dsimp only [id]; with_reducible assumption)

theorem State.endSession_keeps {s₀ : State} (o : Outlet) (s : State) (hk : Keeps s₀ s) : Keeps s₀ (State.endSession o s) := by
  unfold State.endSession
  try dsimp only
  repeat' first | (intro _) | with_reducible assumption | with_reducible apply State.modOut_keeps | with_reducible apply State.modVclCh_keeps | with_reducible apply State.raise_keeps | with_reducible apply State.signalMet_keeps | with_reducible apply foldl_keeps | with_reducible apply ite_keeps | split | with_reducible rfl | with_reducible apply And.intro | (dsimp only [id]; with_reducible assumption)

theorem State.zeroCodes_keeps {s₀ : State} (o : Outlet) (s : State) (hk : Keeps s₀ s) : Keeps s₀ (State.zeroCodes o s) := by
  unfold State.zeroCodes
  try dsimp only
  repeat' first | (intro _) | with_reducible assumption | with_reducible apply State.forAll_keeps | with_reducible apply State.modCode_keeps | with_reducible apply State.modRegCh_keeps | with_reducible apply State.holdLow_keeps | with_reducible apply foldl_keeps | with_reducible apply ite_keeps | split | with_reducible rfl | with_reducible apply And.intro | (dsimp only [id]; with_reducible assumption)

theorem State.disableGroup_keeps {s₀ : State} (o : Outlet) (s : State) (hk : Keeps s₀ s) : Keeps s₀ (State.disableGroup o s) := by
  unfold State.disableGroup
  try dsimp only
  repeat' first | (intro _) | with_reducible assumption | with_reducible apply State.forAll_keeps | with_reducible apply State.pwmDisable_keeps | with_reducible apply State.modRegCh_keeps | with_reducible apply foldl_keeps | with_reducible apply ite_keeps | split | with_reducible rfl | with_reducible apply And.intro | (dsimp only [id]; with_reducible assumption)

theorem State.interleave_keeps {s₀ : State} (o : Outlet) (s : State) (hk : Keeps s₀ s) : Keeps s₀ (State.interleave o s) := by
  unfold State.interleave
  try dsimp only
  repeat' first | (intro _) | with_reducible assumption | with_reducible apply State.modCh_keeps | with_reducible apply State.modPwm_keeps | with_reducible apply State.pwmGroup_keeps | with_reducible apply foldl_keeps | with_reducible apply ite_keeps | split | with_reducible rfl | with_reducible apply And.intro | (dsimp only [id]; with_reducible assumption)

theorem State.phaseSetting_keeps {s₀ : State} (n : Phase) (s : State) (hk : Keeps s₀ s) : Keeps s₀ (State.phaseSetting n s) := by
  unfold State.phaseSetting
  try dsimp only
  repeat' first | (intro _) | with_reducible assumption | with_reducible apply State.modRegCh_keeps | with_reducible apply foldl_keeps | with_reducible apply ite_keeps | split | with_reducible rfl | with_reducible apply And.intro | (dsimp only [id]; with_reducible assumption)

theorem State.passRegEn_keeps {s₀ : State} (n : Phase) (s : State) (hk : Keeps s₀ s) : Keeps s₀ (State.passRegEn n s) := by
  unfold State.passRegEn
  try dsimp only
  repeat' first | (intro _) | with_reducible assumption | with_reducible apply State.modRegCh_keeps | with_reducible apply State.holdLow_keeps | with_reducible apply foldl_keeps | with_reducible apply ite_keeps | split | with_reducible rfl | with_reducible apply And.intro | (dsimp only [id]; with_reducible assumption)

theorem State.gatedRegEn_keeps {s₀ : State} (n : Phase) (s : State) (hk : Keeps s₀ s) : Keeps s₀ (State.gatedRegEn n s) := by
  unfold State.gatedRegEn
  try dsimp only
  repeat' first | (intro _) | with_reducible assumption | with_reducible apply State.passRegEn_keeps | with_reducible apply State.hold_keeps | with_reducible apply foldl_keeps | with_reducible apply ite_keeps | split | with_reducible rfl | with_reducible apply And.intro | (dsimp only [id]; with_reducible assumption)

theorem State.enablePhase_keeps {s₀ : State} (n : Phase) (s : State) (hk : Keeps s₀ s) : Keeps s₀ (State.enablePhase n s) := by
  unfold State.enablePhase
  try dsimp only
  repeat' first | (intro _) | with_reducible assumption | with_reducible apply State.modCh_keeps | with_reducible apply State.phaseSetting_keeps | with_reducible apply State.gatedRegEn_keeps | with_reducible apply State.modRegCh_keeps | with_reducible apply foldl_keeps | with_reducible apply ite_keeps | split | with_reducible rfl | with_reducible apply And.intro | (dsimp only [id]; with_reducible assumption)

theorem State.phaseSettings_keeps {s₀ : State} (s : State) (hk : Keeps s₀ s) : Keeps s₀ (State.phaseSettings s) := by
  unfold State.phaseSettings
  try dsimp only
  repeat' first | (intro _) | with_reducible assumption | with_reducible apply State.forAll_keeps | with_reducible apply State.phaseSetting_keeps | with_reducible apply State.interleave_keeps | with_reducible apply foldl_keeps | with_reducible apply ite_keeps | split | with_reducible rfl | with_reducible apply And.intro | (dsimp only [id]; with_reducible assumption)

theorem State.startGroup_keeps {s₀ : State} (o : Outlet) (s : State) (hk : Keeps s₀ s) : Keeps s₀ (State.startGroup o s) := by
  unfold State.startGroup
  try dsimp only
  repeat' first | (intro _) | with_reducible assumption | with_reducible apply State.enablePhase_keeps | with_reducible apply State.interleave_keeps | with_reducible apply State.runTo_keeps | with_reducible apply State.modCh_keeps | with_reducible apply State.gatedStart_keeps | with_reducible apply State.pwmStartMask_keeps | with_reducible apply State.modRegCh_keeps | with_reducible apply foldl_keeps | with_reducible apply ite_keeps | split | with_reducible rfl | with_reducible apply And.intro | (dsimp only [id]; with_reducible assumption)

theorem State.startClamps_keeps {s₀ : State} (o : Outlet) (s : State) (hk : Keeps s₀ s) : Keeps s₀ (State.startClamps o s) := by
  unfold State.startClamps
  try dsimp only
  repeat' first | (intro _) | with_reducible assumption | with_reducible apply State.modCode_keeps | with_reducible apply State.modRegCh_keeps | with_reducible apply foldl_keeps | with_reducible apply ite_keeps | split | with_reducible rfl | with_reducible apply And.intro | (dsimp only [id]; with_reducible assumption)

theorem State.enterRamp_keeps {s₀ : State} (o : Outlet) (attempt : Nat) (s : State) (hk : Keeps s₀ s) : Keeps s₀ (State.enterRamp o attempt s) := by
  unfold State.enterRamp
  try dsimp only
  repeat' first | (intro _) | with_reducible assumption | with_reducible apply State.modStart_keeps | with_reducible apply State.modRegCh_keeps | with_reducible apply State.startClamps_keeps | with_reducible apply State.startGroup_keeps | with_reducible apply foldl_keeps | with_reducible apply ite_keeps | split | with_reducible rfl | with_reducible apply And.intro | (dsimp only [id]; with_reducible assumption)

theorem State.startUp_keeps {s₀ : State} (o : Outlet) (ratiometric : Bool) (target : Nat) (s : State) (hk : Keeps s₀ s) : Keeps s₀ (State.startUp o ratiometric target s) := by
  unfold State.startUp
  try dsimp only
  repeat' first | (intro _) | with_reducible assumption | with_reducible apply State.modStart_keeps | with_reducible apply State.enterRamp_keeps | with_reducible apply State.startClamps_keeps | with_reducible apply State.startGroup_keeps | with_reducible apply foldl_keeps | with_reducible apply ite_keeps | split | with_reducible rfl | with_reducible apply And.intro | (dsimp only [id]; with_reducible assumption)

theorem State.stopUp_keeps {s₀ : State} (o : Outlet) (s : State) (hk : Keeps s₀ s) : Keeps s₀ (State.stopUp o s) := by
  unfold State.stopUp
  try dsimp only
  repeat' first | (intro _) | with_reducible assumption | with_reducible apply State.zeroCodes_keeps | with_reducible apply State.disableGroup_keeps | with_reducible apply State.modStart_keeps | with_reducible apply foldl_keeps | with_reducible apply ite_keeps | split | with_reducible rfl | with_reducible apply And.intro | (dsimp only [id]; with_reducible assumption)

theorem State.clearUp_keeps {s₀ : State} (o : Outlet) (s : State) (hk : Keeps s₀ s) : Keeps s₀ (State.clearUp o s) := by
  unfold State.clearUp
  try dsimp only
  repeat' first | (intro _) | with_reducible assumption | with_reducible apply State.modStart_keeps | with_reducible apply foldl_keeps | with_reducible apply ite_keeps | split | with_reducible rfl | with_reducible apply And.intro | (dsimp only [id]; with_reducible assumption)

theorem State.trackError_keeps {s₀ : State} (o : Outlet) (s : State) (hk : Keeps s₀ s) : Keeps s₀ (State.trackError o s) := by
  unfold State.trackError
  try dsimp only
  repeat' first | (intro _) | with_reducible assumption | with_reducible apply State.modStart_keeps | with_reducible apply foldl_keeps | with_reducible apply ite_keeps | split | with_reducible rfl | with_reducible apply And.intro | (dsimp only [id]; with_reducible assumption)

theorem State.startFault_keeps {s₀ : State} (o : Outlet) (s : State) (hk : Keeps s₀ s) : Keeps s₀ (State.startFault o s) := by
  unfold State.startFault
  try dsimp only
  repeat' first | (intro _) | with_reducible assumption | with_reducible apply State.zeroCodes_keeps | with_reducible apply State.disableGroup_keeps | with_reducible apply State.modStart_keeps | with_reducible apply foldl_keeps | with_reducible apply ite_keeps | split | with_reducible rfl | with_reducible apply And.intro | (dsimp only [id]; with_reducible assumption)

theorem State.steer_keeps {s₀ : State} (o : Outlet) (s : State) (hk : Keeps s₀ s) : Keeps s₀ (State.steer o s) := by
  unfold State.steer
  try dsimp only
  repeat' first | (intro _) | with_reducible assumption | with_reducible apply State.modStart_keeps | with_reducible apply State.modCode_keeps | with_reducible apply State.startClamps_keeps | with_reducible apply State.useFree_keeps | with_reducible apply foldl_keeps | with_reducible apply ite_keeps | split | with_reducible rfl | with_reducible apply And.intro | (dsimp only [id]; with_reducible assumption)

theorem State.startTick_keeps {s₀ : State} (o : Outlet) (s : State) (hk : Keeps s₀ s) : Keeps s₀ (State.startTick o s) := by
  unfold State.startTick
  try dsimp only
  repeat' first | (intro _) | with_reducible assumption | with_reducible apply State.startFault_keeps | with_reducible apply State.modStart_keeps | with_reducible apply State.steer_keeps | with_reducible apply State.trackError_keeps | with_reducible apply State.modRegCh_keeps | with_reducible apply State.startClamps_keeps | with_reducible apply State.useFree_keeps | with_reducible apply foldl_keeps | with_reducible apply ite_keeps | split | with_reducible rfl | with_reducible apply And.intro | (dsimp only [id]; with_reducible assumption)

theorem State.closedUp_keeps {s₀ : State} (o : Outlet) (s : State) (hk : Keeps s₀ s) : Keeps s₀ (State.closedUp o s) := by
  unfold State.closedUp
  try dsimp only
  repeat' first | (intro _) | with_reducible assumption | with_reducible apply State.modStart_keeps | with_reducible apply State.modOut_keeps | with_reducible apply State.modCode_keeps | with_reducible apply State.modRegCh_keeps | with_reducible apply foldl_keeps | with_reducible apply ite_keeps | split | with_reducible rfl | with_reducible apply And.intro | (dsimp only [id]; with_reducible assumption)

theorem State.writeGrant_keeps {s₀ : State} (o : Outlet) (s : State) (hk : Keeps s₀ s) : Keeps s₀ (State.writeGrant o s) := by
  unfold State.writeGrant
  try dsimp only
  repeat' first | (intro _) | with_reducible assumption | with_reducible apply State.modJn_keeps | with_reducible apply foldl_keeps | with_reducible apply ite_keeps | split | with_reducible rfl | with_reducible apply And.intro | (dsimp only [id]; with_reducible assumption)

theorem State.relimit_keeps {s₀ : State} (o : Outlet) (s : State) (hk : Keeps s₀ s) : Keeps s₀ (State.relimit o s) := by
  unfold State.relimit
  try dsimp only
  repeat' first | (intro _) | with_reducible assumption | with_reducible apply State.modOut_keeps | with_reducible apply State.startClamps_keeps | with_reducible apply State.modCode_keeps | with_reducible apply State.interleave_keeps | with_reducible apply State.modRegCh_keeps | with_reducible apply foldl_keeps | with_reducible apply ite_keeps | split | with_reducible rfl | with_reducible apply And.intro | (dsimp only [id]; with_reducible assumption)

theorem State.joinGroup_keeps {s₀ : State} (o : Outlet) (n : Phase) (s : State) (hk : Keeps s₀ s) : Keeps s₀ (State.joinGroup o n s) := by
  unfold State.joinGroup
  try dsimp only
  repeat' first | (intro _) | with_reducible assumption | with_reducible apply State.relimit_keeps | with_reducible apply State.pwmDisable_keeps | with_reducible apply State.modRegCh_keeps | with_reducible apply State.enablePhase_keeps | with_reducible apply State.runTo_keeps | with_reducible apply State.modCh_keeps | with_reducible apply State.gatedStart_keeps | with_reducible apply State.pwmStartMask_keeps | with_reducible apply foldl_keeps | with_reducible apply ite_keeps | split | with_reducible rfl | with_reducible apply And.intro | (dsimp only [id]; with_reducible assumption)

theorem State.afterLoss_keeps {s₀ : State} (o : Outlet) (m : Nat) (s : State) (hk : Keeps s₀ s) : Keeps s₀ (State.afterLoss o m s) := by
  unfold State.afterLoss
  try dsimp only
  repeat' first | (intro _) | with_reducible assumption | with_reducible apply State.modOut_keeps | with_reducible apply State.modAlc_keeps | with_reducible apply State.relimit_keeps | with_reducible apply State.writeGrant_keeps | with_reducible apply foldl_keeps | with_reducible apply ite_keeps | split | with_reducible rfl | with_reducible apply And.intro | (dsimp only [id]; with_reducible assumption)

theorem State.endMove_keeps {s₀ : State} (n : Phase) (s : State) (hk : Keeps s₀ s) : Keeps s₀ (State.endMove n s) := by
  unfold State.endMove
  try dsimp only
  repeat' first | (intro _) | with_reducible assumption | with_reducible apply State.modMtx_keeps | with_reducible apply foldl_keeps | with_reducible apply ite_keeps | split | with_reducible rfl | with_reducible apply And.intro | (dsimp only [id]; with_reducible assumption)

theorem State.retire_keeps {s₀ : State} (n : Phase) (cause : Nat) (s : State) (hk : Keeps s₀ s) : Keeps s₀ (State.retire n cause s) := by
  unfold State.retire
  try dsimp only
  repeat' first | (intro _) | with_reducible assumption | with_reducible apply State.modCode_keeps | with_reducible apply State.endMove_keeps | with_reducible apply State.raise_keeps | with_reducible apply State.journal_keeps | with_reducible apply State.useFree_keeps | with_reducible apply State.applyMasks_keeps | with_reducible apply State.dropGates_keeps | with_reducible apply State.afterLoss_keeps | with_reducible apply State.modRegCh_keeps | with_reducible apply State.holdLow_keeps | with_reducible apply foldl_keeps | with_reducible apply ite_keeps | split | with_reducible rfl | with_reducible apply And.intro | (dsimp only [id]; with_reducible assumption)

theorem State.checkReady_keeps {s₀ : State} (s : State) (hk : Keeps s₀ s) : Keeps s₀ (State.checkReady s) := by
  unfold State.checkReady
  try dsimp only
  repeat' first | (intro _) | with_reducible assumption | with_reducible apply State.modPwr_keeps | with_reducible apply State.raise_keeps | with_reducible apply foldl_keeps | with_reducible apply ite_keeps | split | with_reducible rfl | with_reducible apply And.intro | (dsimp only [id]; with_reducible assumption)

end Sys2Proof.Machine
end

