-- ==== Sys2Proof/Laws/KeepsRegulation.lean ====
section
/-! SUPPORT. What the operations of Machine/Regulation.lean keep: the queue, the variant, the canonical form of the stores. -/
namespace Sys2Proof.Machine

theorem State.transferClamps_keeps {s₀ : State} (late : Bool) (s : State) (hk : Keeps s₀ s) : Keeps s₀ (State.transferClamps late s) := by
  unfold State.transferClamps
  try dsimp only
  repeat' first | (intro _) | with_reducible assumption | with_reducible apply State.forAll_keeps | with_reducible apply State.modCode_keeps | with_reducible apply State.raise_keeps | with_reducible apply State.modReg_keeps | with_reducible apply State.modRegCh_keeps | with_reducible apply State.holdLow_keeps | with_reducible apply foldl_keeps | with_reducible apply ite_keeps | split | with_reducible rfl | with_reducible apply And.intro | (dsimp only [id]; with_reducible assumption)

theorem execClampTransfer_keeps {s₀ : State} (s : State) (hk : Keeps s₀ s) : KeepsO s₀ (execClampTransfer s) := by
  unfold execClampTransfer
  try dsimp only
  repeat' first | (intro _) | with_reducible assumption | with_reducible apply KeepsO.next | with_reducible apply State.live_keeps | with_reducible apply State.runToFleet_keeps | with_reducible apply State.transferClamps_keeps | with_reducible apply foldl_keeps | with_reducible apply ite_keeps | with_reducible apply iteO_keeps | split | with_reducible rfl | with_reducible apply And.intro | (dsimp only [id]; with_reducible assumption)

theorem execRegApplyArm_keeps {s₀ : State} (m : Master) (w : Word) (s : State) (hk : Keeps s₀ s) : KeepsO s₀ (execRegApplyArm m w s) := by
  unfold execRegApplyArm
  try dsimp only
  repeat' first | (intro _) | with_reducible assumption | with_reducible apply KeepsO.next | with_reducible apply State.live_keeps | with_reducible apply State.guardedWrite_keeps | with_reducible apply State.modReg_keeps | with_reducible apply State.transferClamps_keeps | with_reducible apply foldl_keeps | with_reducible apply ite_keeps | with_reducible apply iteO_keeps | split | with_reducible rfl | with_reducible apply And.intro | (dsimp only [id]; with_reducible assumption)

theorem State.regCtrl_keeps {s₀ : State} (lane : Bool) (n : Phase) (w : Word) (s : State) (hk : Keeps s₀ s) : Keeps s₀ (State.regCtrl lane n w s) := by
  unfold State.regCtrl
  try dsimp only
  repeat' first | (intro _) | with_reducible assumption | with_reducible apply State.modRegCh_keeps | with_reducible apply State.cond_keeps | with_reducible apply State.gatedRegEn_keeps | with_reducible apply State.raise_keeps | with_reducible apply State.holdLow_keeps | with_reducible apply foldl_keeps | with_reducible apply ite_keeps | split | with_reducible rfl | with_reducible apply And.intro | (dsimp only [id]; with_reducible assumption)

theorem execRegCtrlWrite_keeps {s₀ : State} (m : Master) (n : Phase) (w : Word) (s : State) (hk : Keeps s₀ s) : KeepsO s₀ (execRegCtrlWrite m n w s) := by
  unfold execRegCtrlWrite
  try dsimp only
  repeat' first | (intro _) | with_reducible assumption | with_reducible apply KeepsO.next | with_reducible apply State.live_keeps | with_reducible apply State.guardedWrite_keeps | with_reducible apply State.regCtrl_keeps | with_reducible apply foldl_keeps | with_reducible apply ite_keeps | with_reducible apply iteO_keeps | split | with_reducible rfl | with_reducible apply And.intro | (dsimp only [id]; with_reducible assumption)

theorem State.phaseBack_keeps {s₀ : State} (n : Phase) (s : State) (hk : Keeps s₀ s) : Keeps s₀ (State.phaseBack n s) := by
  unfold State.phaseBack
  try dsimp only
  repeat' first | (intro _) | with_reducible assumption | with_reducible apply State.restMasks_keeps | with_reducible apply State.joinGroup_keeps | with_reducible apply foldl_keeps | with_reducible apply ite_keeps | split | with_reducible rfl | with_reducible apply And.intro | (dsimp only [id]; with_reducible assumption)

theorem State.restorePhase_keeps {s₀ : State} (n : Phase) (s : State) (hk : Keeps s₀ s) : Keeps s₀ (State.restorePhase n s) := by
  unfold State.restorePhase
  try dsimp only
  repeat' first | (intro _) | with_reducible assumption | with_reducible apply State.runToFleet_keeps | with_reducible apply State.modRegCh_keeps | with_reducible apply State.modSaf_keeps | with_reducible apply State.phaseBack_keeps | with_reducible apply foldl_keeps | with_reducible apply ite_keeps | split | with_reducible rfl | with_reducible apply And.intro | (dsimp only [id]; with_reducible assumption)

theorem execRegPhaseRestore_keeps {s₀ : State} (r : Ring) (d : Desc) (s : State) (hk : Keeps s₀ s) : KeepsO s₀ (execRegPhaseRestore r d s) := by
  unfold execRegPhaseRestore
  try dsimp only
  repeat' first | (intro _) | with_reducible assumption | with_reducible apply KeepsO.next | with_reducible apply State.work_keeps | with_reducible apply State.restorePhase_keeps | with_reducible apply State.complete_keeps | with_reducible apply foldl_keeps | with_reducible apply ite_keeps | with_reducible apply iteO_keeps | split | with_reducible rfl | with_reducible apply And.intro | (dsimp only [id]; with_reducible assumption)

theorem execOvercurrent_keeps {s₀ : State} (n : Phase) (a b : Int) (s : State) (hk : Keeps s₀ s) : KeepsO s₀ (execOvercurrent n a b s) := by
  unfold execOvercurrent
  try dsimp only
  repeat' first | (intro _) | with_reducible assumption | with_reducible apply KeepsO.next | with_reducible apply State.live_keeps | with_reducible apply State.modSaf_keeps | with_reducible apply State.dropGates_keeps | with_reducible apply State.raiseAt_keeps | with_reducible apply State.raise_keeps | with_reducible apply State.retire_keeps | with_reducible apply foldl_keeps | with_reducible apply ite_keeps | with_reducible apply iteO_keeps | split | with_reducible rfl | with_reducible apply And.intro | (dsimp only [id]; with_reducible assumption)

theorem execTrackError_keeps {s₀ : State} (o : Outlet) (s : State) (hk : Keeps s₀ s) : KeepsO s₀ (execTrackError o s) := by
  unfold execTrackError
  try dsimp only
  repeat' first | (intro _) | with_reducible assumption | with_reducible apply KeepsO.next | with_reducible apply State.live_keeps | with_reducible apply State.runTo_keeps | with_reducible apply State.trackError_keeps | with_reducible apply foldl_keeps | with_reducible apply ite_keeps | with_reducible apply iteO_keeps | split | with_reducible rfl | with_reducible apply And.intro | (dsimp only [id]; with_reducible assumption)

theorem State.rampAbort_keeps {s₀ : State} (o : Outlet) (s : State) (hk : Keeps s₀ s) : Keeps s₀ (State.rampAbort o s) := by
  unfold State.rampAbort
  try dsimp only
  repeat' first | (intro _) | with_reducible assumption | with_reducible apply State.zeroCodes_keeps | with_reducible apply State.disableGroup_keeps | with_reducible apply State.modStart_keeps | with_reducible apply foldl_keeps | with_reducible apply ite_keeps | split | with_reducible rfl | with_reducible apply And.intro | (dsimp only [id]; with_reducible assumption)

theorem execRampTimeout_keeps {s₀ : State} (o : Outlet) (s : State) (hk : Keeps s₀ s) : KeepsO s₀ (execRampTimeout o s) := by
  unfold execRampTimeout
  try dsimp only
  repeat' first | (intro _) | with_reducible assumption | with_reducible apply KeepsO.next | with_reducible apply State.live_keeps | with_reducible apply State.runTo_keeps | with_reducible apply State.rampAbort_keeps | with_reducible apply foldl_keeps | with_reducible apply ite_keeps | with_reducible apply iteO_keeps | split | with_reducible rfl | with_reducible apply And.intro | (dsimp only [id]; with_reducible assumption)

theorem State.pauseEnd_keeps {s₀ : State} (o : Outlet) (s : State) (hk : Keeps s₀ s) : Keeps s₀ (State.pauseEnd o s) := by
  unfold State.pauseEnd
  try dsimp only
  repeat' first | (intro _) | with_reducible assumption | with_reducible apply State.enterRamp_keeps | with_reducible apply State.modStart_keeps | with_reducible apply State.startClamps_keeps | with_reducible apply State.startGroup_keeps | with_reducible apply foldl_keeps | with_reducible apply ite_keeps | split | with_reducible rfl | with_reducible apply And.intro | (dsimp only [id]; with_reducible assumption)

theorem execPauseTimeout_keeps {s₀ : State} (o : Outlet) (s : State) (hk : Keeps s₀ s) : KeepsO s₀ (execPauseTimeout o s) := by
  unfold execPauseTimeout
  try dsimp only
  repeat' first | (intro _) | with_reducible assumption | with_reducible apply KeepsO.next | with_reducible apply State.live_keeps | with_reducible apply State.runTo_keeps | with_reducible apply State.pauseEnd_keeps | with_reducible apply foldl_keeps | with_reducible apply ite_keeps | with_reducible apply iteO_keeps | split | with_reducible rfl | with_reducible apply And.intro | (dsimp only [id]; with_reducible assumption)

end Sys2Proof.Machine
end

