-- ==== Sys2Proof/Laws/KeepsOutlets.lean ====
section
/-! SUPPORT. What the operations of Machine/Outlets.lean keep: the queue, the variant, the canonical form of the stores. -/
namespace Sys2Proof.Machine

theorem State.go_keeps {s₀ : State} (o : Outlet) (st : OutState) (s : State) (hk : Keeps s₀ s) : Keeps s₀ (State.go o st s) := by
  unfold State.go
  try dsimp only
  repeat' first | (intro _) | with_reducible assumption | with_reducible apply State.enter_keeps | with_reducible apply State.writeGrant_keeps | with_reducible apply foldl_keeps | with_reducible apply ite_keeps | split | with_reducible rfl | with_reducible apply And.intro | (dsimp only [id]; with_reducible assumption)

theorem State.finish_keeps {s₀ : State} (o : Outlet) (st : OutState) (reason : Nat) (s : State) (hk : Keeps s₀ s) : Keeps s₀ (State.finish o st reason s) := by
  unfold State.finish
  try dsimp only
  repeat' first | (intro _) | with_reducible assumption | with_reducible apply State.writeEnd_keeps | with_reducible apply State.endEvent_keeps | with_reducible apply State.enter_keeps | with_reducible apply State.endSession_keeps | with_reducible apply State.writeGrant_keeps | with_reducible apply State.go_keeps | with_reducible apply foldl_keeps | with_reducible apply ite_keeps | split | with_reducible rfl | with_reducible apply And.intro | (dsimp only [id]; with_reducible assumption)

theorem State.toFault_keeps {s₀ : State} (o : Outlet) (reason : Nat) (s : State) (hk : Keeps s₀ s) : Keeps s₀ (State.toFault o reason s) := by
  unfold State.toFault
  try dsimp only
  repeat' first | (intro _) | with_reducible assumption | with_reducible apply State.zeroCodes_keeps | with_reducible apply State.stopUp_keeps | with_reducible apply State.laneOpen_keeps | with_reducible apply State.modOut_keeps | with_reducible apply State.raise_keeps | with_reducible apply State.finish_keeps | with_reducible apply foldl_keeps | with_reducible apply ite_keeps | split | with_reducible rfl | with_reducible apply And.intro | (dsimp only [id]; with_reducible assumption)

theorem State.toStopping_keeps {s₀ : State} (o : Outlet) (reason : Nat) (s : State) (hk : Keeps s₀ s) : Keeps s₀ (State.toStopping o reason s) := by
  unfold State.toStopping
  try dsimp only
  repeat' first | (intro _) | with_reducible assumption | with_reducible apply State.modOut_keeps | with_reducible apply State.zeroCodes_keeps | with_reducible apply State.go_keeps | with_reducible apply foldl_keeps | with_reducible apply ite_keeps | split | with_reducible rfl | with_reducible apply And.intro | (dsimp only [id]; with_reducible assumption)

theorem State.toOff_keeps {s₀ : State} (o : Outlet) (s : State) (hk : Keeps s₀ s) : Keeps s₀ (State.toOff o s) := by
  unfold State.toOff
  try dsimp only
  repeat' first | (intro _) | with_reducible assumption | with_reducible apply State.modOut_keeps | with_reducible apply State.go_keeps | with_reducible apply foldl_keeps | with_reducible apply ite_keeps | split | with_reducible rfl | with_reducible apply And.intro | (dsimp only [id]; with_reducible assumption)

theorem State.redirect_keeps {s₀ : State} (o : Outlet) (exporting : Bool) (s : State) (hk : Keeps s₀ s) : Keeps s₀ (State.redirect o exporting s) := by
  unfold State.redirect
  try dsimp only
  repeat' first | (intro _) | with_reducible assumption | with_reducible apply State.disableGroup_keeps | with_reducible apply State.forAll_keeps | with_reducible apply State.modRegCh_keeps | with_reducible apply State.startGroup_keeps | with_reducible apply foldl_keeps | with_reducible apply ite_keeps | split | with_reducible rfl | with_reducible apply And.intro | (dsimp only [id]; with_reducible assumption)

theorem State.toEnergy_keeps {s₀ : State} (o : Outlet) (s : State) (hk : Keeps s₀ s) : Keeps s₀ (State.toEnergy o s) := by
  unfold State.toEnergy
  try dsimp only
  repeat' first | (intro _) | with_reducible assumption | with_reducible apply State.closedUp_keeps | with_reducible apply State.modOut_keeps | with_reducible apply State.redirect_keeps | with_reducible apply State.raise_keeps | with_reducible apply State.signalMet_keeps | with_reducible apply State.go_keeps | with_reducible apply foldl_keeps | with_reducible apply ite_keeps | split | with_reducible rfl | with_reducible apply And.intro | (dsimp only [id]; with_reducible assumption)

theorem State.stopAllOutlets_keeps {s₀ : State} (limit : Nat) (s : State) (hk : Keeps s₀ s) : Keeps s₀ (State.stopAllOutlets limit s) := by
  unfold State.stopAllOutlets
  try dsimp only
  repeat' first | (intro _) | with_reducible assumption | with_reducible apply State.forAll_keeps | with_reducible apply State.modOut_keeps | with_reducible apply foldl_keeps | with_reducible apply ite_keeps | split | with_reducible rfl | with_reducible apply And.intro | (dsimp only [id]; with_reducible assumption)

theorem State.clearAllEn_keeps {s₀ : State} (s : State) (hk : Keeps s₀ s) : Keeps s₀ (State.clearAllEn s) := by
  unfold State.clearAllEn
  try dsimp only
  repeat' first | (intro _) | with_reducible assumption | with_reducible apply State.forAll_keeps | with_reducible apply State.pwmDisable_keeps | with_reducible apply foldl_keeps | with_reducible apply ite_keeps | split | with_reducible rfl | with_reducible apply And.intro | (dsimp only [id]; with_reducible assumption)

theorem State.stopEnd_keeps {s₀ : State} (o : Outlet) (s : State) (hk : Keeps s₀ s) : Keeps s₀ (State.stopEnd o s) := by
  unfold State.stopEnd
  try dsimp only
  repeat' first | (intro _) | with_reducible assumption | with_reducible apply State.stopUp_keeps | with_reducible apply State.laneOpen_keeps | with_reducible apply State.modOut_keeps | with_reducible apply State.go_keeps | with_reducible apply foldl_keeps | with_reducible apply ite_keeps | split | with_reducible rfl | with_reducible apply And.intro | (dsimp only [id]; with_reducible assumption)

theorem execStopRampEnd_keeps {s₀ : State} (o : Outlet) (s : State) (hk : Keeps s₀ s) : KeepsO s₀ (execStopRampEnd o s) := by
  unfold execStopRampEnd
  try dsimp only
  repeat' first | (intro _) | with_reducible assumption | with_reducible apply KeepsO.next | with_reducible apply State.live_keeps | with_reducible apply State.runTo_keeps | with_reducible apply State.stopEnd_keeps | with_reducible apply foldl_keeps | with_reducible apply ite_keeps | with_reducible apply iteO_keeps | split | with_reducible rfl | with_reducible apply And.intro | (dsimp only [id]; with_reducible assumption)

theorem State.feedbackAct_keeps {s₀ : State} (o : Outlet) (s : State) (hk : Keeps s₀ s) : Keeps s₀ (State.feedbackAct o s) := by
  unfold State.feedbackAct
  try dsimp only
  repeat' first | (intro _) | with_reducible assumption | with_reducible apply State.toEnergy_keeps | with_reducible apply State.go_keeps | with_reducible apply foldl_keeps | with_reducible apply ite_keeps | split | with_reducible rfl | with_reducible apply And.intro | (dsimp only [id]; with_reducible assumption)

theorem execContactorFeedback_keeps {s₀ : State} (o : Outlet) (plus minus : Bool) (s : State) (hk : Keeps s₀ s) : KeepsO s₀ (execContactorFeedback o plus minus s) := by
  unfold execContactorFeedback
  try dsimp only
  repeat' first | (intro _) | with_reducible assumption | with_reducible apply KeepsO.next | with_reducible apply State.live_keeps | with_reducible apply State.modSaf_keeps | with_reducible apply State.feedbackAct_keeps | with_reducible apply foldl_keeps | with_reducible apply ite_keeps | with_reducible apply iteO_keeps | split | with_reducible rfl | with_reducible apply And.intro | (dsimp only [id]; with_reducible assumption)

theorem State.closeFail_keeps {s₀ : State} (o : Outlet) (s : State) (hk : Keeps s₀ s) : Keeps s₀ (State.closeFail o s) := by
  unfold State.closeFail
  try dsimp only
  repeat' first | (intro _) | with_reducible assumption | with_reducible apply State.modSaf_keeps | with_reducible apply State.raiseAt_keeps | with_reducible apply State.raiseOut_keeps | with_reducible apply State.setDrives_keeps | with_reducible apply foldl_keeps | with_reducible apply ite_keeps | split | with_reducible rfl | with_reducible apply And.intro | (dsimp only [id]; with_reducible assumption)

theorem State.deadlineAct_keeps {s₀ : State} (o : Outlet) (s : State) (hk : Keeps s₀ s) : Keeps s₀ (State.deadlineAct o s) := by
  unfold State.deadlineAct
  try dsimp only
  repeat' first | (intro _) | with_reducible assumption | with_reducible apply State.toFault_keeps | with_reducible apply State.closeFail_keeps | with_reducible apply State.weldPath_keeps | with_reducible apply foldl_keeps | with_reducible apply ite_keeps | split | with_reducible rfl | with_reducible apply And.intro | (dsimp only [id]; with_reducible assumption)

theorem execContactorDeadline_keeps {s₀ : State} (o : Outlet) (s : State) (hk : Keeps s₀ s) : KeepsO s₀ (execContactorDeadline o s) := by
  unfold execContactorDeadline
  try dsimp only
  repeat' first | (intro _) | with_reducible assumption | with_reducible apply KeepsO.next | with_reducible apply State.live_keeps | with_reducible apply State.runTo_keeps | with_reducible apply State.deadlineAct_keeps | with_reducible apply foldl_keeps | with_reducible apply ite_keeps | with_reducible apply iteO_keeps | split | with_reducible rfl | with_reducible apply And.intro | (dsimp only [id]; with_reducible assumption)

theorem State.weldAct_keeps {s₀ : State} (o : Outlet) (s : State) (hk : Keeps s₀ s) : Keeps s₀ (State.weldAct o s) := by
  unfold State.weldAct
  try dsimp only
  repeat' first | (intro _) | with_reducible assumption | with_reducible apply State.modOut_keeps | with_reducible apply State.toFault_keeps | with_reducible apply State.finish_keeps | with_reducible apply State.weldPath_keeps | with_reducible apply foldl_keeps | with_reducible apply ite_keeps | split | with_reducible rfl | with_reducible apply And.intro | (dsimp only [id]; with_reducible assumption)

theorem State.weldNote_keeps {s₀ : State} (o : Outlet) (s : State) (hk : Keeps s₀ s) : Keeps s₀ (State.weldNote o s) := by
  unfold State.weldNote
  try dsimp only
  repeat' first | (intro _) | with_reducible assumption | with_reducible apply State.modOut_keeps | with_reducible apply foldl_keeps | with_reducible apply ite_keeps | split | with_reducible rfl | with_reducible apply And.intro | (dsimp only [id]; with_reducible assumption)

theorem execWeldCheck_keeps {s₀ : State} (o : Outlet) (s : State) (hk : Keeps s₀ s) : KeepsO s₀ (execWeldCheck o s) := by
  unfold execWeldCheck
  try dsimp only
  repeat' first | (intro _) | with_reducible assumption | with_reducible apply KeepsO.next | with_reducible apply State.live_keeps | with_reducible apply State.weldNote_keeps | with_reducible apply State.weldAct_keeps | with_reducible apply State.runTo_keeps | with_reducible apply foldl_keeps | with_reducible apply ite_keeps | with_reducible apply iteO_keeps | split | with_reducible rfl | with_reducible apply And.intro | (dsimp only [id]; with_reducible assumption)

theorem execWeldCheckTimeout_keeps {s₀ : State} (o : Outlet) (s : State) (hk : Keeps s₀ s) : KeepsO s₀ (execWeldCheckTimeout o s) := by
  unfold execWeldCheckTimeout
  try dsimp only
  repeat' first | (intro _) | with_reducible assumption | with_reducible apply KeepsO.next | with_reducible apply State.live_keeps | with_reducible apply State.runTo_keeps | with_reducible apply State.weldAct_keeps | with_reducible apply foldl_keeps | with_reducible apply ite_keeps | with_reducible apply iteO_keeps | split | with_reducible rfl | with_reducible apply And.intro | (dsimp only [id]; with_reducible assumption)

theorem State.cableTick_keeps {s₀ : State} (o : Outlet) (s : State) (hk : Keeps s₀ s) : Keeps s₀ (State.cableTick o s) := by
  unfold State.cableTick
  try dsimp only
  repeat' first | (intro _) | with_reducible assumption | with_reducible apply State.modOut_keeps | with_reducible apply State.toFault_keeps | with_reducible apply State.raise_keeps | with_reducible apply foldl_keeps | with_reducible apply ite_keeps | split | with_reducible rfl | with_reducible apply And.intro | (dsimp only [id]; with_reducible assumption)

theorem State.cableDone_keeps {s₀ : State} (o : Outlet) (s : State) (hk : Keeps s₀ s) : Keeps s₀ (State.cableDone o s) := by
  unfold State.cableDone
  try dsimp only
  repeat' first | (intro _) | with_reducible assumption | with_reducible apply State.trackError_keeps | with_reducible apply State.toFault_keeps | with_reducible apply State.stopUp_keeps | with_reducible apply State.go_keeps | with_reducible apply foldl_keeps | with_reducible apply ite_keeps | split | with_reducible rfl | with_reducible apply And.intro | (dsimp only [id]; with_reducible assumption)

theorem execCableCheckDone_keeps {s₀ : State} (o : Outlet) (s : State) (hk : Keeps s₀ s) : KeepsO s₀ (execCableCheckDone o s) := by
  unfold execCableCheckDone
  try dsimp only
  repeat' first | (intro _) | with_reducible assumption | with_reducible apply KeepsO.next | with_reducible apply State.live_keeps | with_reducible apply State.runTo_keeps | with_reducible apply State.cableDone_keeps | with_reducible apply foldl_keeps | with_reducible apply ite_keeps | with_reducible apply iteO_keeps | split | with_reducible rfl | with_reducible apply And.intro | (dsimp only [id]; with_reducible assumption)

theorem State.cableTimeout_keeps {s₀ : State} (o : Outlet) (s : State) (hk : Keeps s₀ s) : Keeps s₀ (State.cableTimeout o s) := by
  unfold State.cableTimeout
  try dsimp only
  repeat' first | (intro _) | with_reducible assumption | with_reducible apply State.toFault_keeps | with_reducible apply foldl_keeps | with_reducible apply ite_keeps | split | with_reducible rfl | with_reducible apply And.intro | (dsimp only [id]; with_reducible assumption)

theorem execCableCheckTimeout_keeps {s₀ : State} (o : Outlet) (s : State) (hk : Keeps s₀ s) : KeepsO s₀ (execCableCheckTimeout o s) := by
  unfold execCableCheckTimeout
  try dsimp only
  repeat' first | (intro _) | with_reducible assumption | with_reducible apply KeepsO.next | with_reducible apply State.live_keeps | with_reducible apply State.runTo_keeps | with_reducible apply State.cableTimeout_keeps | with_reducible apply foldl_keeps | with_reducible apply ite_keeps | with_reducible apply iteO_keeps | split | with_reducible rfl | with_reducible apply And.intro | (dsimp only [id]; with_reducible assumption)

theorem State.prechargeEnd_keeps {s₀ : State} (o : Outlet) (s : State) (hk : Keeps s₀ s) : Keeps s₀ (State.prechargeEnd o s) := by
  unfold State.prechargeEnd
  try dsimp only
  repeat' first | (intro _) | with_reducible assumption | with_reducible apply State.stopUp_keeps | with_reducible apply State.finish_keeps | with_reducible apply foldl_keeps | with_reducible apply ite_keeps | split | with_reducible rfl | with_reducible apply And.intro | (dsimp only [id]; with_reducible assumption)

theorem execPrechargeTimeout_keeps {s₀ : State} (o : Outlet) (s : State) (hk : Keeps s₀ s) : KeepsO s₀ (execPrechargeTimeout o s) := by
  unfold execPrechargeTimeout
  try dsimp only
  repeat' first | (intro _) | with_reducible assumption | with_reducible apply KeepsO.next | with_reducible apply State.live_keeps | with_reducible apply State.runTo_keeps | with_reducible apply State.prechargeEnd_keeps | with_reducible apply foldl_keeps | with_reducible apply ite_keeps | with_reducible apply iteO_keeps | split | with_reducible rfl | with_reducible apply And.intro | (dsimp only [id]; with_reducible assumption)

theorem State.prechargeTick_keeps {s₀ : State} (o : Outlet) (s : State) (hk : Keeps s₀ s) : Keeps s₀ (State.prechargeTick o s) := by
  unfold State.prechargeTick
  try dsimp only
  repeat' first | (intro _) | with_reducible assumption | with_reducible apply State.laneClose_keeps | with_reducible apply State.go_keeps | with_reducible apply State.startUp_keeps | with_reducible apply foldl_keeps | with_reducible apply ite_keeps | split | with_reducible rfl | with_reducible apply And.intro | (dsimp only [id]; with_reducible assumption)

theorem State.latchRecord_keeps {s₀ : State} (o : Outlet) (d : Demand) (s : State) (hk : Keeps s₀ s) : Keeps s₀ (State.latchRecord o d s) := by
  unfold State.latchRecord
  try dsimp only
  repeat' first | (intro _) | with_reducible assumption | with_reducible apply State.modJn_keeps | with_reducible apply State.modOut_keeps | with_reducible apply State.raise_keeps | with_reducible apply foldl_keeps | with_reducible apply ite_keeps | split | with_reducible rfl | with_reducible apply And.intro | (dsimp only [id]; with_reducible assumption)

theorem State.setStatus_keeps {s₀ : State} (o : Outlet) (s : State) (hk : Keeps s₀ s) : Keeps s₀ (State.setStatus o s) := by
  unfold State.setStatus
  try dsimp only
  repeat' first | (intro _) | with_reducible assumption | with_reducible apply State.modOut_keeps | with_reducible apply State.writeGrant_keeps | with_reducible apply foldl_keeps | with_reducible apply ite_keeps | split | with_reducible rfl | with_reducible apply And.intro | (dsimp only [id]; with_reducible assumption)

theorem State.latchSlot_keeps {s₀ : State} (o : Outlet) (s : State) (hk : Keeps s₀ s) : Keeps s₀ (State.latchSlot o s) := by
  unfold State.latchSlot
  try dsimp only
  repeat' first | (intro _) | with_reducible assumption | with_reducible apply State.latchRecord_keeps | with_reducible apply State.setStatus_keeps | with_reducible apply State.modJn_keeps | with_reducible apply State.modOut_keeps | with_reducible apply State.raise_keeps | with_reducible apply State.writeGrant_keeps | with_reducible apply foldl_keeps | with_reducible apply ite_keeps | split | with_reducible rfl | with_reducible apply And.intro | (dsimp only [id]; with_reducible assumption)

theorem execRecordExpired_keeps {s₀ : State} (o : Outlet) (s : State) (hk : Keeps s₀ s) : KeepsO s₀ (execRecordExpired o s) := by
  unfold execRecordExpired
  try dsimp only
  repeat' first | (intro _) | with_reducible assumption | with_reducible apply KeepsO.next | with_reducible apply State.live_keeps | with_reducible apply State.runToFleet_keeps | with_reducible apply State.modJn_keeps | with_reducible apply State.setStatus_keeps | with_reducible apply State.modOut_keeps | with_reducible apply State.writeGrant_keeps | with_reducible apply foldl_keeps | with_reducible apply ite_keeps | with_reducible apply iteO_keeps | split | with_reducible rfl | with_reducible apply And.intro | (dsimp only [id]; with_reducible assumption)

theorem State.demandBeat_keeps {s₀ : State} (o : Outlet) (d : Demand) (s : State) (hk : Keeps s₀ s) : Keeps s₀ (State.demandBeat o d s) := by
  unfold State.demandBeat
  try dsimp only
  repeat' first | (intro _) | with_reducible assumption | with_reducible apply State.modJn_keeps | with_reducible apply foldl_keeps | with_reducible apply ite_keeps | split | with_reducible rfl | with_reducible apply And.intro | (dsimp only [id]; with_reducible assumption)

theorem execDemandWrite_keeps {s₀ : State} (m : Master) (o : Outlet) (len offset : Nat) (d : Demand) (s : State) (hk : Keeps s₀ s) : KeepsO s₀ (execDemandWrite m o len offset d s) := by
  unfold execDemandWrite
  try dsimp only
  repeat' first | (intro _) | with_reducible assumption | with_reducible apply KeepsO.next | with_reducible apply State.live_keeps | with_reducible apply State.transact_keeps | with_reducible apply State.firewallDrop_keeps | with_reducible apply State.demandBeat_keeps | with_reducible apply State.modOut_keeps | with_reducible apply State.modJn_keeps | with_reducible apply foldl_keeps | with_reducible apply ite_keeps | with_reducible apply iteO_keeps | split | with_reducible rfl | with_reducible apply And.intro | (dsimp only [id]; with_reducible assumption)

theorem State.intoSession_keeps {s₀ : State} (o : Outlet) (s : State) (hk : Keeps s₀ s) : Keeps s₀ (State.intoSession o s) := by
  unfold State.intoSession
  try dsimp only
  repeat' first | (intro _) | with_reducible assumption | with_reducible apply State.modOut_keeps | with_reducible apply State.go_keeps | with_reducible apply State.startUp_keeps | with_reducible apply foldl_keeps | with_reducible apply ite_keeps | split | with_reducible rfl | with_reducible apply And.intro | (dsimp only [id]; with_reducible assumption)

theorem State.limitTick_keeps {s₀ : State} (o : Outlet) (s : State) (hk : Keeps s₀ s) : Keeps s₀ (State.limitTick o s) := by
  unfold State.limitTick
  try dsimp only
  repeat' first | (intro _) | with_reducible assumption | with_reducible apply State.modOut_keeps | with_reducible apply foldl_keeps | with_reducible apply ite_keeps | split | with_reducible rfl | with_reducible apply And.intro | (dsimp only [id]; with_reducible assumption)

theorem State.outerLoop_keeps {s₀ : State} (o : Outlet) (s : State) (hk : Keeps s₀ s) : Keeps s₀ (State.outerLoop o s) := by
  unfold State.outerLoop
  try dsimp only
  repeat' first | (intro _) | with_reducible assumption | with_reducible apply State.modCode_keeps | with_reducible apply State.modOut_keeps | with_reducible apply State.useFree_keeps | with_reducible apply State.modRegCh_keeps | with_reducible apply foldl_keeps | with_reducible apply ite_keeps | split | with_reducible rfl | with_reducible apply And.intro | (dsimp only [id]; with_reducible assumption)

theorem State.sessionTick_keeps {s₀ : State} (o : Outlet) (s : State) (hk : Keeps s₀ s) : Keeps s₀ (State.sessionTick o s) := by
  unfold State.sessionTick
  try dsimp only
  repeat' first | (intro _) | with_reducible assumption | with_reducible apply State.toFault_keeps | with_reducible apply State.toOff_keeps | with_reducible apply State.go_keeps | with_reducible apply State.intoSession_keeps | with_reducible apply State.stopUp_keeps | with_reducible apply State.finish_keeps | with_reducible apply State.prechargeTick_keeps | with_reducible apply State.prechargeEnd_keeps | with_reducible apply State.cableTick_keeps | with_reducible apply State.cableDone_keeps | with_reducible apply State.cableTimeout_keeps | with_reducible apply State.toStopping_keeps | with_reducible apply State.feedbackAct_keeps | with_reducible apply State.deadlineAct_keeps | with_reducible apply State.modOut_keeps | with_reducible apply State.laneOpen_keeps | with_reducible apply State.stopEnd_keeps | with_reducible apply State.weldNote_keeps | with_reducible apply State.weldAct_keeps | with_reducible apply foldl_keeps | with_reducible apply ite_keeps | split | with_reducible rfl | with_reducible apply And.intro | (dsimp only [id]; with_reducible assumption)

theorem State.pilotTo_keeps {s₀ : State} (o : Outlet) (cls : BitVec 3) (s : State) (hk : Keeps s₀ s) : Keeps s₀ (State.pilotTo o cls s) := by
  unfold State.pilotTo
  try dsimp only
  repeat' first | (intro _) | with_reducible assumption | with_reducible apply State.modOut_keeps | with_reducible apply State.modSaf_keeps | with_reducible apply State.raise_keeps | with_reducible apply State.go_keeps | with_reducible apply State.stopUp_keeps | with_reducible apply State.finish_keeps | with_reducible apply State.toStopping_keeps | with_reducible apply State.zeroCodes_keeps | with_reducible apply foldl_keeps | with_reducible apply ite_keeps | split | with_reducible rfl | with_reducible apply And.intro | (dsimp only [id]; with_reducible assumption)

theorem State.classify_keeps {s₀ : State} (o : Outlet) (x : PilotSample) (s : State) (hk : Keeps s₀ s) : Keeps s₀ (State.classify o x s) := by
  unfold State.classify
  try dsimp only
  repeat' first | (intro _) | with_reducible assumption | with_reducible apply State.modOut_keeps | with_reducible apply State.pilotTo_keeps | with_reducible apply foldl_keeps | with_reducible apply ite_keeps | split | with_reducible rfl | with_reducible apply And.intro | (dsimp only [id]; with_reducible assumption)

theorem execImdAlarm_keeps {s₀ : State} (o : Outlet) (s : State) (hk : Keeps s₀ s) : KeepsO s₀ (execImdAlarm o s) := by
  unfold execImdAlarm
  try dsimp only
  repeat' first | (intro _) | with_reducible assumption | with_reducible apply KeepsO.next | with_reducible apply State.live_keeps | with_reducible apply State.modOut_keeps | with_reducible apply State.toStopping_keeps | with_reducible apply foldl_keeps | with_reducible apply ite_keeps | with_reducible apply iteO_keeps | split | with_reducible rfl | with_reducible apply And.intro | (dsimp only [id]; with_reducible assumption)

theorem execReversalCurrentZero_keeps {s₀ : State} (o : Outlet) (s : State) (hk : Keeps s₀ s) : KeepsO s₀ (execReversalCurrentZero o s) := by
  unfold execReversalCurrentZero
  try dsimp only
  repeat' first | (intro _) | with_reducible assumption | with_reducible apply KeepsO.next | with_reducible apply State.live_keeps | with_reducible apply State.redirect_keeps | with_reducible apply State.modOut_keeps | with_reducible apply State.raise_keeps | with_reducible apply foldl_keeps | with_reducible apply ite_keeps | with_reducible apply iteO_keeps | split | with_reducible rfl | with_reducible apply And.intro | (dsimp only [id]; with_reducible assumption)

theorem State.outDone_keeps {s₀ : State} (r : Ring) (seq : DWord) (o : Outlet) (s : State) (hk : Keeps s₀ s) : Keeps s₀ (State.outDone r seq o s) := by
  unfold State.outDone
  try dsimp only
  repeat' first | (intro _) | with_reducible assumption | with_reducible apply State.complete_keeps | with_reducible apply foldl_keeps | with_reducible apply ite_keeps | split | with_reducible rfl | with_reducible apply And.intro | (dsimp only [id]; with_reducible assumption)

theorem execOutEnable_keeps {s₀ : State} (r : Ring) (d : Desc) (s : State) (hk : Keeps s₀ s) : KeepsO s₀ (execOutEnable r d s) := by
  unfold execOutEnable
  try dsimp only
  repeat' first | (intro _) | with_reducible assumption | with_reducible apply KeepsO.next | with_reducible apply State.work_keeps | with_reducible apply State.complete_keeps | with_reducible apply State.go_keeps | with_reducible apply State.outDone_keeps | with_reducible apply foldl_keeps | with_reducible apply ite_keeps | with_reducible apply iteO_keeps | split | with_reducible rfl | with_reducible apply And.intro | (dsimp only [id]; with_reducible assumption)

theorem execOutDisable_keeps {s₀ : State} (r : Ring) (d : Desc) (s : State) (hk : Keeps s₀ s) : KeepsO s₀ (execOutDisable r d s) := by
  unfold execOutDisable
  try dsimp only
  repeat' first | (intro _) | with_reducible assumption | with_reducible apply KeepsO.next | with_reducible apply State.work_keeps | with_reducible apply State.complete_keeps | with_reducible apply State.outDone_keeps | with_reducible apply State.modOut_keeps | with_reducible apply foldl_keeps | with_reducible apply ite_keeps | with_reducible apply iteO_keeps | split | with_reducible rfl | with_reducible apply And.intro | (dsimp only [id]; with_reducible assumption)

theorem execOutStop_keeps {s₀ : State} (r : Ring) (d : Desc) (s : State) (hk : Keeps s₀ s) : KeepsO s₀ (execOutStop r d s) := by
  unfold execOutStop
  try dsimp only
  repeat' first | (intro _) | with_reducible assumption | with_reducible apply KeepsO.next | with_reducible apply State.work_keeps | with_reducible apply State.complete_keeps | with_reducible apply State.outDone_keeps | with_reducible apply State.modOut_keeps | with_reducible apply foldl_keeps | with_reducible apply ite_keeps | with_reducible apply iteO_keeps | split | with_reducible rfl | with_reducible apply And.intro | (dsimp only [id]; with_reducible assumption)

theorem execOutFaultClear_keeps {s₀ : State} (r : Ring) (d : Desc) (s : State) (hk : Keeps s₀ s) : KeepsO s₀ (execOutFaultClear r d s) := by
  unfold execOutFaultClear
  try dsimp only
  repeat' first | (intro _) | with_reducible assumption | with_reducible apply KeepsO.next | with_reducible apply State.work_keeps | with_reducible apply State.complete_keeps | with_reducible apply State.clearUp_keeps | with_reducible apply State.go_keeps | with_reducible apply State.outDone_keeps | with_reducible apply foldl_keeps | with_reducible apply ite_keeps | with_reducible apply iteO_keeps | split | with_reducible rfl | with_reducible apply And.intro | (dsimp only [id]; with_reducible assumption)

theorem execOutSessionCap_keeps {s₀ : State} (r : Ring) (d : Desc) (s : State) (hk : Keeps s₀ s) : KeepsO s₀ (execOutSessionCap r d s) := by
  unfold execOutSessionCap
  try dsimp only
  repeat' first | (intro _) | with_reducible assumption | with_reducible apply KeepsO.next | with_reducible apply State.work_keeps | with_reducible apply State.complete_keeps | with_reducible apply State.outDone_keeps | with_reducible apply State.modOut_keeps | with_reducible apply State.modAlc_keeps | with_reducible apply foldl_keeps | with_reducible apply ite_keeps | with_reducible apply iteO_keeps | split | with_reducible rfl | with_reducible apply And.intro | (dsimp only [id]; with_reducible assumption)

end Sys2Proof.Machine
end

