-- ==== Sys2Proof/Laws/KeepsVehicleLinks.lean ====
section
/-! SUPPORT. What the operations of Machine/VehicleLinks.lean keep: the queue, the variant, the canonical form of the stores. -/
namespace Sys2Proof.Machine

theorem State.vclSay_keeps {s₀ : State} (m : VclOut) (s : State) (hk : Keeps s₀ s) : Keeps s₀ (State.vclSay m s) := by
  unfold State.vclSay
  try dsimp only
  repeat' first | (intro _) | with_reducible assumption | with_reducible apply State.modVcl_keeps | with_reducible apply foldl_keeps | with_reducible apply ite_keeps | split | with_reducible rfl | with_reducible apply And.intro | (dsimp only [id]; with_reducible assumption)

theorem State.vclWrite_keeps {s₀ : State} (o : Outlet) (s : State) (hk : Keeps s₀ s) : Keeps s₀ (State.vclWrite o s) := by
  unfold State.vclWrite
  try dsimp only
  repeat' first | (intro _) | with_reducible assumption | with_reducible apply State.modVclCh_keeps | with_reducible apply State.demandBeat_keeps | with_reducible apply foldl_keeps | with_reducible apply ite_keeps | split | with_reducible rfl | with_reducible apply And.intro | (dsimp only [id]; with_reducible assumption)

theorem State.vclUpdate_keeps {s₀ : State} (o : Outlet) (s : State) (hk : Keeps s₀ s) : Keeps s₀ (State.vclUpdate o s) := by
  unfold State.vclUpdate
  try dsimp only
  repeat' first | (intro _) | with_reducible assumption | with_reducible apply State.vclWrite_keeps | with_reducible apply foldl_keeps | with_reducible apply ite_keeps | split | with_reducible rfl | with_reducible apply And.intro | (dsimp only [id]; with_reducible assumption)

theorem State.vclStop_keeps {s₀ : State} (o : Outlet) (byVehicle : Bool) (s : State) (hk : Keeps s₀ s) : Keeps s₀ (State.vclStop o byVehicle s) := by
  unfold State.vclStop
  try dsimp only
  repeat' first | (intro _) | with_reducible assumption | with_reducible apply State.modVclCh_keeps | with_reducible apply State.cond_keeps | with_reducible apply State.raise_keeps | with_reducible apply foldl_keeps | with_reducible apply ite_keeps | split | with_reducible rfl | with_reducible apply And.intro | (dsimp only [id]; with_reducible assumption)

theorem State.vclReply_keeps {s₀ : State} (o : Outlet) (s : State) (hk : Keeps s₀ s) : Keeps s₀ (State.vclReply o s) := by
  unfold State.vclReply
  try dsimp only
  repeat' first | (intro _) | with_reducible assumption | with_reducible apply State.vclSay_keeps | with_reducible apply State.vclStop_keeps | with_reducible apply State.vclUpdate_keeps | with_reducible apply foldl_keeps | with_reducible apply ite_keeps | split | with_reducible rfl | with_reducible apply And.intro | (dsimp only [id]; with_reducible assumption)

theorem State.selectProto_keeps {s₀ : State} (o : Outlet) (p : BitVec 4) (s : State) (hk : Keeps s₀ s) : Keeps s₀ (State.selectProto o p s) := by
  unfold State.selectProto
  try dsimp only
  repeat' first | (intro _) | with_reducible assumption | with_reducible apply State.modVclCh_keeps | with_reducible apply State.raise_keeps | with_reducible apply foldl_keeps | with_reducible apply ite_keeps | split | with_reducible rfl | with_reducible apply And.intro | (dsimp only [id]; with_reducible assumption)

theorem State.linkPlugged_keeps {s₀ : State} (o : Outlet) (s : State) (hk : Keeps s₀ s) : Keeps s₀ (State.linkPlugged o s) := by
  unfold State.linkPlugged
  try dsimp only
  repeat' first | (intro _) | with_reducible assumption | with_reducible apply State.modVclCh_keeps | with_reducible apply State.selectProto_keeps | with_reducible apply foldl_keeps | with_reducible apply ite_keeps | split | with_reducible rfl | with_reducible apply And.intro | (dsimp only [id]; with_reducible assumption)

theorem State.pilotSample_keeps {s₀ : State} (o : Outlet) (x : PilotSample) (s : State) (hk : Keeps s₀ s) : Keeps s₀ (State.pilotSample o x s) := by
  unfold State.pilotSample
  try dsimp only
  repeat' first | (intro _) | with_reducible assumption | with_reducible apply State.classify_keeps | with_reducible apply State.linkPlugged_keeps | with_reducible apply State.modVclCh_keeps | with_reducible apply foldl_keeps | with_reducible apply ite_keeps | split | with_reducible rfl | with_reducible apply And.intro | (dsimp only [id]; with_reducible assumption)

theorem execPilotChange_keeps {s₀ : State} (i : Fin 8) (samples : List PilotSample) (s : State) (hk : Keeps s₀ s) : KeepsO s₀ (execPilotChange i samples s) := by
  unfold execPilotChange
  try dsimp only
  repeat' first | (intro _) | with_reducible assumption | with_reducible apply KeepsO.next | with_reducible apply State.live_keeps | with_reducible apply State.pilotSample_keeps | with_reducible apply State.pilotTo_keeps | with_reducible apply State.linkPlugged_keeps | with_reducible apply State.modVclCh_keeps | with_reducible apply foldl_keeps | with_reducible apply ite_keeps | with_reducible apply iteO_keeps | split | with_reducible rfl | with_reducible apply And.intro | (dsimp only [id]; with_reducible assumption)

theorem State.slacFailed_keeps {s₀ : State} (o : Outlet) (s : State) (hk : Keeps s₀ s) : Keeps s₀ (State.slacFailed o s) := by
  unfold State.slacFailed
  try dsimp only
  repeat' first | (intro _) | with_reducible assumption | with_reducible apply State.modVclCh_keeps | with_reducible apply State.raise_keeps | with_reducible apply foldl_keeps | with_reducible apply ite_keeps | split | with_reducible rfl | with_reducible apply And.intro | (dsimp only [id]; with_reducible assumption)

theorem execProtoSelected_keeps {s₀ : State} (o : Outlet) (offered : Byte) (s : State) (hk : Keeps s₀ s) : KeepsO s₀ (execProtoSelected o offered s) := by
  unfold execProtoSelected
  try dsimp only
  repeat' first | (intro _) | with_reducible assumption | with_reducible apply KeepsO.next | with_reducible apply State.live_keeps | with_reducible apply State.slacFailed_keeps | with_reducible apply State.vclSay_keeps | with_reducible apply State.selectProto_keeps | with_reducible apply foldl_keeps | with_reducible apply ite_keeps | with_reducible apply iteO_keeps | split | with_reducible rfl | with_reducible apply And.intro | (dsimp only [id]; with_reducible assumption)

theorem State.slacRetry_keeps {s₀ : State} (o : Outlet) (s : State) (hk : Keeps s₀ s) : Keeps s₀ (State.slacRetry o s) := by
  unfold State.slacRetry
  try dsimp only
  repeat' first | (intro _) | with_reducible assumption | with_reducible apply State.slacFailed_keeps | with_reducible apply State.modVclCh_keeps | with_reducible apply foldl_keeps | with_reducible apply ite_keeps | split | with_reducible rfl | with_reducible apply And.intro | (dsimp only [id]; with_reducible assumption)

theorem execSlacMatch_keeps {s₀ : State} (o : Outlet) (mean : Byte) (s : State) (hk : Keeps s₀ s) : KeepsO s₀ (execSlacMatch o mean s) := by
  unfold execSlacMatch
  try dsimp only
  repeat' first | (intro _) | with_reducible assumption | with_reducible apply KeepsO.next | with_reducible apply State.live_keeps | with_reducible apply State.modVclCh_keeps | with_reducible apply State.vclSay_keeps | with_reducible apply State.useFree_keeps | with_reducible apply State.raise_keeps | with_reducible apply State.slacRetry_keeps | with_reducible apply foldl_keeps | with_reducible apply ite_keeps | with_reducible apply iteO_keeps | split | with_reducible rfl | with_reducible apply And.intro | (dsimp only [id]; with_reducible assumption)

theorem execSlacFail_keeps {s₀ : State} (o : Outlet) (s : State) (hk : Keeps s₀ s) : KeepsO s₀ (execSlacFail o s) := by
  unfold execSlacFail
  try dsimp only
  repeat' first | (intro _) | with_reducible assumption | with_reducible apply KeepsO.next | with_reducible apply State.live_keeps | with_reducible apply State.slacRetry_keeps | with_reducible apply foldl_keeps | with_reducible apply ite_keeps | with_reducible apply iteO_keeps | split | with_reducible rfl | with_reducible apply And.intro | (dsimp only [id]; with_reducible assumption)

theorem State.tlsFailed_keeps {s₀ : State} (o : Outlet) (s : State) (hk : Keeps s₀ s) : Keeps s₀ (State.tlsFailed o s) := by
  unfold State.tlsFailed
  try dsimp only
  repeat' first | (intro _) | with_reducible assumption | with_reducible apply State.modVclCh_keeps | with_reducible apply State.raise_keeps | with_reducible apply foldl_keeps | with_reducible apply ite_keeps | split | with_reducible rfl | with_reducible apply And.intro | (dsimp only [id]; with_reducible assumption)

theorem execTlsFail_keeps {s₀ : State} (o : Outlet) (s : State) (hk : Keeps s₀ s) : KeepsO s₀ (execTlsFail o s) := by
  unfold execTlsFail
  try dsimp only
  repeat' first | (intro _) | with_reducible assumption | with_reducible apply KeepsO.next | with_reducible apply State.live_keeps | with_reducible apply State.tlsFailed_keeps | with_reducible apply foldl_keeps | with_reducible apply ite_keeps | with_reducible apply iteO_keeps | split | with_reducible rfl | with_reducible apply And.intro | (dsimp only [id]; with_reducible assumption)

theorem State.authFail_keeps {s₀ : State} (o : Outlet) (s : State) (hk : Keeps s₀ s) : Keeps s₀ (State.authFail o s) := by
  unfold State.authFail
  try dsimp only
  repeat' first | (intro _) | with_reducible assumption | with_reducible apply State.modVclCh_keeps | with_reducible apply State.raise_keeps | with_reducible apply State.vclSay_keeps | with_reducible apply State.vclStop_keeps | with_reducible apply State.vclUpdate_keeps | with_reducible apply foldl_keeps | with_reducible apply ite_keeps | split | with_reducible rfl | with_reducible apply And.intro | (dsimp only [id]; with_reducible assumption)

theorem State.authAsk_keeps {s₀ : State} (o : Outlet) (kind : BitVec 3) (s : State) (hk : Keeps s₀ s) : Keeps s₀ (State.authAsk o kind s) := by
  unfold State.authAsk
  try dsimp only
  repeat' first | (intro _) | with_reducible assumption | with_reducible apply State.vclReply_keeps | with_reducible apply State.vclSay_keeps | with_reducible apply State.modVclCh_keeps | with_reducible apply State.raise_keeps | with_reducible apply foldl_keeps | with_reducible apply ite_keeps | split | with_reducible rfl | with_reducible apply And.intro | (dsimp only [id]; with_reducible assumption)

theorem execAuthTimeout_keeps {s₀ : State} (o : Outlet) (s : State) (hk : Keeps s₀ s) : KeepsO s₀ (execAuthTimeout o s) := by
  unfold execAuthTimeout
  try dsimp only
  repeat' first | (intro _) | with_reducible assumption | with_reducible apply KeepsO.next | with_reducible apply State.live_keeps | with_reducible apply State.runTo_keeps | with_reducible apply State.authFail_keeps | with_reducible apply foldl_keeps | with_reducible apply ite_keeps | with_reducible apply iteO_keeps | split | with_reducible rfl | with_reducible apply And.intro | (dsimp only [id]; with_reducible assumption)

theorem State.takeSessionId_keeps {s₀ : State} (s : State) (hk : Keeps s₀ s) : Keeps s₀ s.takeSessionId.2 := by
  unfold State.takeSessionId
  dsimp only
  exact State.modVcl_keeps _ hk

theorem State.vclSetup_keeps {s₀ : State} (o : Outlet) (s : State) (hk : Keeps s₀ s) : Keeps s₀ (State.vclSetup o s) := by
  unfold State.vclSetup
  try dsimp only
  repeat' first | (intro _) | with_reducible assumption | with_reducible apply State.takeSessionId_keeps | with_reducible apply State.modVclCh_keeps | with_reducible apply State.vclUpdate_keeps | with_reducible apply foldl_keeps | with_reducible apply ite_keeps | split | with_reducible rfl | with_reducible apply And.intro | (dsimp only [id]; with_reducible assumption)

theorem State.vehicleSays_keeps {s₀ : State} (o : Outlet) (m : VehMsg) (s : State) (hk : Keeps s₀ s) : Keeps s₀ (State.vehicleSays o m s) := by
  unfold State.vehicleSays
  try dsimp only
  repeat' first | (intro _) | with_reducible assumption | with_reducible apply State.modVclCh_keeps | with_reducible apply State.raise_keeps | with_reducible apply State.vclSay_keeps | with_reducible apply State.tlsFailed_keeps | with_reducible apply State.vclSetup_keeps | with_reducible apply State.vclReply_keeps | with_reducible apply State.vclUpdate_keeps | with_reducible apply State.authAsk_keeps | with_reducible apply State.vclStop_keeps | with_reducible apply foldl_keeps | with_reducible apply ite_keeps | split | with_reducible rfl | with_reducible apply And.intro | (dsimp only [id]; with_reducible assumption)

theorem execVehicleMessage_keeps {s₀ : State} (o : Outlet) (m : VehMsg) (s : State) (hk : Keeps s₀ s) : KeepsO s₀ (execVehicleMessage o m s) := by
  unfold execVehicleMessage
  try dsimp only
  repeat' first | (intro _) | with_reducible assumption | with_reducible apply KeepsO.next | with_reducible apply State.live_keeps | with_reducible apply State.vehicleSays_keeps | with_reducible apply foldl_keeps | with_reducible apply ite_keeps | with_reducible apply iteO_keeps | split | with_reducible rfl | with_reducible apply And.intro | (dsimp only [id]; with_reducible assumption)

theorem execPermitChange_keeps {s₀ : State} (o : Outlet) (closed : Bool) (s : State) (hk : Keeps s₀ s) : KeepsO s₀ (execPermitChange o closed s) := by
  unfold execPermitChange
  try dsimp only
  repeat' first | (intro _) | with_reducible assumption | with_reducible apply KeepsO.next | with_reducible apply State.live_keeps | with_reducible apply State.modVclCh_keeps | with_reducible apply State.cond_keeps | with_reducible apply State.vclStop_keeps | with_reducible apply State.vclUpdate_keeps | with_reducible apply foldl_keeps | with_reducible apply ite_keeps | with_reducible apply iteO_keeps | split | with_reducible rfl | with_reducible apply And.intro | (dsimp only [id]; with_reducible assumption)

theorem execRecordRefresh_keeps {s₀ : State} (o : Outlet) (s : State) (hk : Keeps s₀ s) : KeepsO s₀ (execRecordRefresh o s) := by
  unfold execRecordRefresh
  try dsimp only
  repeat' first | (intro _) | with_reducible assumption | with_reducible apply KeepsO.next | with_reducible apply State.live_keeps | with_reducible apply State.runTo_keeps | with_reducible apply State.vclWrite_keeps | with_reducible apply foldl_keeps | with_reducible apply ite_keeps | with_reducible apply iteO_keeps | split | with_reducible rfl | with_reducible apply And.intro | (dsimp only [id]; with_reducible assumption)

theorem execLoopTimeout_keeps {s₀ : State} (o : Outlet) (s : State) (hk : Keeps s₀ s) : KeepsO s₀ (execLoopTimeout o s) := by
  unfold execLoopTimeout
  try dsimp only
  repeat' first | (intro _) | with_reducible assumption | with_reducible apply KeepsO.next | with_reducible apply State.live_keeps | with_reducible apply State.runTo_keeps | with_reducible apply State.modVclCh_keeps | with_reducible apply State.raise_keeps | with_reducible apply State.vclStop_keeps | with_reducible apply State.vclUpdate_keeps | with_reducible apply foldl_keeps | with_reducible apply ite_keeps | with_reducible apply iteO_keeps | split | with_reducible rfl | with_reducible apply And.intro | (dsimp only [id]; with_reducible assumption)

theorem execChargerFrameSend_keeps {s₀ : State} (o : Outlet) (s : State) (hk : Keeps s₀ s) : KeepsO s₀ (execChargerFrameSend o s) := by
  unfold execChargerFrameSend
  try dsimp only
  repeat' first | (intro _) | with_reducible assumption | with_reducible apply KeepsO.next | with_reducible apply State.live_keeps | with_reducible apply State.runTo_keeps | with_reducible apply State.modVclCh_keeps | with_reducible apply State.vclSay_keeps | with_reducible apply foldl_keeps | with_reducible apply ite_keeps | with_reducible apply iteO_keeps | split | with_reducible rfl | with_reducible apply And.intro | (dsimp only [id]; with_reducible assumption)

theorem execVclSessionNextRead_keeps {s₀ : State} (m : Master) (s : State) (hk : Keeps s₀ s) : KeepsO s₀ (execVclSessionNextRead m s) := by
  unfold execVclSessionNextRead
  try dsimp only
  repeat' first | (intro _) | with_reducible assumption | with_reducible apply KeepsO.next | with_reducible apply State.live_keeps | with_reducible apply State.transact_keeps | with_reducible apply State.takeSessionId_keeps | with_reducible apply foldl_keeps | with_reducible apply ite_keeps | with_reducible apply iteO_keeps | split | with_reducible rfl | with_reducible apply And.intro | (dsimp only [id]; with_reducible assumption)

theorem State.vclWork_keeps {s₀ : State} (r : Ring) (d : Desc) (f : Outlet → State → State) (s : State) (hf : ∀ x0 t, Keeps s₀ t → Keeps s₀ (f x0 t)) (hk : Keeps s₀ s) : Keeps s₀ (State.vclWork r d f s) := by
  unfold State.vclWork
  try dsimp only
  repeat' first | (intro _) | with_reducible assumption | with_reducible apply State.complete_keeps | apply hf | with_reducible apply foldl_keeps | with_reducible apply ite_keeps | split | with_reducible rfl | with_reducible apply And.intro | (dsimp only [id]; with_reducible assumption)

theorem execVclSessionPolicy_keeps {s₀ : State} (r : Ring) (d : Desc) (s : State) (hk : Keeps s₀ s) : KeepsO s₀ (execVclSessionPolicy r d s) := by
  unfold execVclSessionPolicy
  try dsimp only
  repeat' first | (intro _) | with_reducible assumption | with_reducible apply KeepsO.next | with_reducible apply State.work_keeps | with_reducible apply State.vclWork_keeps | with_reducible apply State.modVclCh_keeps | with_reducible apply foldl_keeps | with_reducible apply ite_keeps | with_reducible apply iteO_keeps | split | with_reducible rfl | with_reducible apply And.intro | (dsimp only [id]; with_reducible assumption)

theorem execVclAuth_keeps {s₀ : State} (r : Ring) (d : Desc) (s : State) (hk : Keeps s₀ s) : KeepsO s₀ (execVclAuth r d s) := by
  unfold execVclAuth
  try dsimp only
  repeat' first | (intro _) | with_reducible assumption | with_reducible apply KeepsO.next | with_reducible apply State.work_keeps | with_reducible apply State.vclWork_keeps | with_reducible apply State.modVclCh_keeps | with_reducible apply State.vclUpdate_keeps | with_reducible apply State.authFail_keeps | with_reducible apply foldl_keeps | with_reducible apply ite_keeps | with_reducible apply iteO_keeps | split | with_reducible rfl | with_reducible apply And.intro | (dsimp only [id]; with_reducible assumption)

theorem execVclFetch_keeps {s₀ : State} (r : Ring) (d : Desc) (s : State) (hk : Keeps s₀ s) : KeepsO s₀ (execVclFetch r d s) := by
  unfold execVclFetch
  try dsimp only
  repeat' first | (intro _) | with_reducible assumption | with_reducible apply KeepsO.next | with_reducible apply State.work_keeps | with_reducible apply State.complete_keeps | with_reducible apply State.writePages_keeps | with_reducible apply foldl_keeps | with_reducible apply ite_keeps | with_reducible apply iteO_keeps | split | with_reducible rfl | with_reducible apply And.intro | (dsimp only [id]; with_reducible assumption)

theorem execVclCertResponse_keeps {s₀ : State} (r : Ring) (d : Desc) (s : State) (hk : Keeps s₀ s) : KeepsO s₀ (execVclCertResponse r d s) := by
  unfold execVclCertResponse
  try dsimp only
  repeat' first | (intro _) | with_reducible assumption | with_reducible apply KeepsO.next | with_reducible apply State.work_keeps | with_reducible apply State.vclWork_keeps | with_reducible apply State.vclSay_keeps | with_reducible apply foldl_keeps | with_reducible apply ite_keeps | with_reducible apply iteO_keeps | split | with_reducible rfl | with_reducible apply And.intro | (dsimp only [id]; with_reducible assumption)

theorem execVclSchedule_keeps {s₀ : State} (r : Ring) (d : Desc) (s : State) (hk : Keeps s₀ s) : KeepsO s₀ (execVclSchedule r d s) := by
  unfold execVclSchedule
  try dsimp only
  repeat' first | (intro _) | with_reducible assumption | with_reducible apply KeepsO.next | with_reducible apply State.work_keeps | with_reducible apply State.vclWork_keeps | with_reducible apply State.modVclCh_keeps | with_reducible apply foldl_keeps | with_reducible apply ite_keeps | with_reducible apply iteO_keeps | split | with_reducible rfl | with_reducible apply And.intro | (dsimp only [id]; with_reducible assumption)

theorem execVclStationChain_keeps {s₀ : State} (r : Ring) (d : Desc) (s : State) (hk : Keeps s₀ s) : KeepsO s₀ (execVclStationChain r d s) := by
  unfold execVclStationChain
  try dsimp only
  repeat' first | (intro _) | with_reducible assumption | with_reducible apply KeepsO.next | with_reducible apply State.work_keeps | with_reducible apply State.modVcl_keeps | with_reducible apply State.complete_keeps | with_reducible apply foldl_keeps | with_reducible apply ite_keeps | with_reducible apply iteO_keeps | split | with_reducible rfl | with_reducible apply And.intro | (dsimp only [id]; with_reducible assumption)

end Sys2Proof.Machine
end

