-- ==== Sys2Proof/Laws/KeepsWall.lean ====
section
/-! SUPPORT. What the operations of Machine/Wall.lean keep: the queue, the variant, the canonical form of the stores. -/
namespace Sys2Proof.Machine

theorem State.noteStep_keeps {s₀ : State} (src : BitVec 2) (old : Int) (limit : Int) (s : State) (hk : Keeps s₀ s) : Keeps s₀ (State.noteStep src old limit s) := by
  unfold State.noteStep
  try dsimp only
  repeat' first | (intro _) | with_reducible assumption | with_reducible apply State.modBil_keeps | with_reducible apply foldl_keeps | with_reducible apply ite_keeps | split | with_reducible rfl | with_reducible apply And.intro | (dsimp only [id]; with_reducible assumption)

end Sys2Proof.Machine
end

