-- ==== Sys2Proof/Laws/KeepsRegatta.lean ====
section
/-! SUPPORT. What the operations of Machine/Regatta.lean keep: the queue, the variant, the canonical form of the stores. -/
namespace Sys2Proof.Machine

theorem State.codeErrors_keeps {s₀ : State} (p : Port) (k : Nat) (s : State) (hk : Keeps s₀ s) : Keeps s₀ (State.codeErrors p k s) := by
  unfold State.codeErrors
  try dsimp only
  repeat' first | (intro _) | with_reducible assumption | with_reducible apply State.modDia_keeps | with_reducible apply foldl_keeps | with_reducible apply ite_keeps | split | with_reducible rfl | with_reducible apply And.intro | (dsimp only [id]; with_reducible assumption)

theorem State.rx_keeps {s₀ : State} (p : Port) (h : Hdr) (f : State → State) (s : State) (hf : ∀ t, Keeps s₀ t → Keeps s₀ (f t)) (hk : Keeps s₀ s) : Keeps s₀ (State.rx p h f s) := by
  unfold State.rx
  try dsimp only
  repeat' first | (intro _) | with_reducible assumption | with_reducible apply State.codeErrors_keeps | with_reducible apply State.modPort_keeps | apply hf | with_reducible apply foldl_keeps | with_reducible apply ite_keeps | split | with_reducible rfl | with_reducible apply And.intro | (dsimp only [id]; with_reducible assumption)

theorem State.rxClass_keeps {s₀ : State} (c : RgtClass) (p : Port) (h : Hdr) (f : State → State) (s : State) (hf : ∀ t, Keeps s₀ t → Keeps s₀ (f t)) (hk : Keeps s₀ s) : Keeps s₀ (State.rxClass c p h f s) := by
  unfold State.rxClass
  try dsimp only
  repeat' first | (intro _) | with_reducible assumption | with_reducible apply State.rx_keeps | apply hf | with_reducible apply foldl_keeps | with_reducible apply ite_keeps | split | with_reducible rfl | with_reducible apply And.intro | (dsimp only [id]; with_reducible assumption)

theorem State.chooseTrees_keeps {s₀ : State} (s : State) (hk : Keeps s₀ s) : Keeps s₀ (State.chooseTrees s) := by
  unfold State.chooseTrees
  try dsimp only
  repeat' first | (intro _) | with_reducible assumption | with_reducible apply State.modRgt_keeps | with_reducible apply foldl_keeps | with_reducible apply ite_keeps | split | with_reducible rfl | with_reducible apply And.intro | (dsimp only [id]; with_reducible assumption)

theorem State.sendProbe_keeps {s₀ : State} (p : Port) (triggered : Bool) (s : State) (hk : Keeps s₀ s) : Keeps s₀ (State.sendProbe p triggered s) := by
  unfold State.sendProbe
  try dsimp only
  repeat' first | (intro _) | with_reducible assumption | with_reducible apply State.sendFrame_keeps | with_reducible apply foldl_keeps | with_reducible apply ite_keeps | split | with_reducible rfl | with_reducible apply And.intro | (dsimp only [id]; with_reducible assumption)

theorem State.sendProbes_keeps {s₀ : State} (triggered : Bool) (s : State) (hk : Keeps s₀ s) : Keeps s₀ (State.sendProbes triggered s) := by
  unfold State.sendProbes
  try dsimp only
  repeat' first | (intro _) | with_reducible assumption | with_reducible apply State.forAll_keeps | with_reducible apply State.sendProbe_keeps | with_reducible apply State.modRgt_keeps | with_reducible apply foldl_keeps | with_reducible apply ite_keeps | split | with_reducible rfl | with_reducible apply And.intro | (dsimp only [id]; with_reducible assumption)

theorem State.triggerProbe_keeps {s₀ : State} (s : State) (hk : Keeps s₀ s) : Keeps s₀ (State.triggerProbe s) := by
  unfold State.triggerProbe
  try dsimp only
  repeat' first | (intro _) | with_reducible assumption | with_reducible apply State.sendProbes_keeps | with_reducible apply foldl_keeps | with_reducible apply ite_keeps | split | with_reducible rfl | with_reducible apply And.intro | (dsimp only [id]; with_reducible assumption)

theorem State.assignRoles_keeps {s₀ : State} (s : State) (hk : Keeps s₀ s) : Keeps s₀ (State.assignRoles s) := by
  unfold State.assignRoles
  try dsimp only
  repeat' first | (intro _) | with_reducible assumption | with_reducible apply State.forAll_keeps | with_reducible apply State.modPort_keeps | with_reducible apply State.modRgt_keeps | with_reducible apply State.triggerProbe_keeps | with_reducible apply foldl_keeps | with_reducible apply ite_keeps | split | with_reducible rfl | with_reducible apply And.intro | (dsimp only [id]; with_reducible assumption)

theorem State.recompute_keeps {s₀ : State} (s : State) (hk : Keeps s₀ s) : Keeps s₀ (State.recompute s) := by
  unfold State.recompute
  try dsimp only
  repeat' first | (intro _) | with_reducible assumption | with_reducible apply State.chooseTrees_keeps | with_reducible apply State.modAlc_keeps | with_reducible apply State.assignRoles_keeps | with_reducible apply State.forAll_keeps | with_reducible apply State.modPort_keeps | with_reducible apply State.triggerProbe_keeps | with_reducible apply foldl_keeps | with_reducible apply ite_keeps | split | with_reducible rfl | with_reducible apply And.intro | (dsimp only [id]; with_reducible assumption)

theorem State.reparentProbe_keeps {s₀ : State} (p : Port) (before s : State) (hk : Keeps s₀ s) : Keeps s₀ (State.reparentProbe p before s) := by
  unfold State.reparentProbe
  repeat' first | (intro _) | with_reducible assumption | with_reducible apply State.forAll_keeps | with_reducible apply State.sendProbe_keeps | with_reducible apply ite_keeps | split

theorem State.portDown_keeps {s₀ : State} (p : Port) (s : State) (hk : Keeps s₀ s) : Keeps s₀ (State.portDown p s) := by
  unfold State.portDown
  try dsimp only
  repeat' first | (intro _) | with_reducible assumption | with_reducible apply State.modPort_keeps | with_reducible apply State.modLine_keeps | with_reducible apply State.recompute_keeps | with_reducible apply State.reparentProbe_keeps | with_reducible apply foldl_keeps | with_reducible apply ite_keeps | split | with_reducible rfl | with_reducible apply And.intro | (dsimp only [id]; with_reducible assumption)

theorem execPortEnWrite_keeps {s₀ : State} (m : Master) (p : Port) (w : Word) (s : State) (hk : Keeps s₀ s) : KeepsO s₀ (execPortEnWrite m p w s) := by
  unfold execPortEnWrite
  try dsimp only
  repeat' first | (intro _) | with_reducible assumption | with_reducible apply KeepsO.next | with_reducible apply State.live_keeps | with_reducible apply State.guardedWrite_keeps | with_reducible apply State.modPort_keeps | with_reducible apply State.modLine_keeps | with_reducible apply State.recompute_keeps | with_reducible apply foldl_keeps | with_reducible apply ite_keeps | with_reducible apply iteO_keeps | split | with_reducible rfl | with_reducible apply And.intro | (dsimp only [id]; with_reducible assumption)

theorem execSyncAcquired_keeps {s₀ : State} (p : Port) (aligned : Bool) (groups : Nat) (s : State) (hk : Keeps s₀ s) : KeepsO s₀ (execSyncAcquired p aligned groups s) := by
  unfold execSyncAcquired
  try dsimp only
  repeat' first | (intro _) | with_reducible assumption | with_reducible apply KeepsO.next | with_reducible apply State.live_keeps | with_reducible apply State.modPort_keeps | with_reducible apply State.recompute_keeps | with_reducible apply State.sendProbe_keeps | with_reducible apply foldl_keeps | with_reducible apply ite_keeps | with_reducible apply iteO_keeps | split | with_reducible rfl | with_reducible apply And.intro | (dsimp only [id]; with_reducible assumption)

theorem execSyncLost_keeps {s₀ : State} (p : Port) (los : Bool) (codeErrs : Nat) (s : State) (hk : Keeps s₀ s) : KeepsO s₀ (execSyncLost p los codeErrs s) := by
  unfold execSyncLost
  try dsimp only
  repeat' first | (intro _) | with_reducible assumption | with_reducible apply KeepsO.next | with_reducible apply State.live_keeps | with_reducible apply State.codeErrors_keeps | with_reducible apply State.modPort_keeps | with_reducible apply State.portDown_keeps | with_reducible apply foldl_keeps | with_reducible apply ite_keeps | with_reducible apply iteO_keeps | split | with_reducible rfl | with_reducible apply And.intro | (dsimp only [id]; with_reducible assumption)

theorem execNeighbourSilent_keeps {s₀ : State} (p : Port) (s : State) (hk : Keeps s₀ s) : KeepsO s₀ (execNeighbourSilent p s) := by
  unfold execNeighbourSilent
  try dsimp only
  repeat' first | (intro _) | with_reducible assumption | with_reducible apply KeepsO.next | with_reducible apply State.live_keeps | with_reducible apply State.runTo_keeps | with_reducible apply State.portDown_keeps | with_reducible apply foldl_keeps | with_reducible apply ite_keeps | with_reducible apply iteO_keeps | split | with_reducible rfl | with_reducible apply And.intro | (dsimp only [id]; with_reducible assumption)

theorem execPortActive_keeps {s₀ : State} (p : Port) (s : State) (hk : Keeps s₀ s) : KeepsO s₀ (execPortActive p s) := by
  unfold execPortActive
  try dsimp only
  repeat' first | (intro _) | with_reducible assumption | with_reducible apply KeepsO.next | with_reducible apply State.live_keeps | with_reducible apply State.modPort_keeps | with_reducible apply State.recompute_keeps | with_reducible apply foldl_keeps | with_reducible apply ite_keeps | with_reducible apply iteO_keeps | split | with_reducible rfl | with_reducible apply And.intro | (dsimp only [id]; with_reducible assumption)

theorem execProbeSend_keeps {s₀ : State} (triggered : Bool) (s : State) (hk : Keeps s₀ s) : KeepsO s₀ (execProbeSend triggered s) := by
  unfold execProbeSend
  try dsimp only
  repeat' first | (intro _) | with_reducible assumption | with_reducible apply KeepsO.next | with_reducible apply State.live_keeps | with_reducible apply State.triggerProbe_keeps | with_reducible apply State.runToOffset_keeps | with_reducible apply State.sendProbes_keeps | with_reducible apply foldl_keeps | with_reducible apply ite_keeps | with_reducible apply iteO_keeps | split | with_reducible rfl | with_reducible apply And.intro | (dsimp only [id]; with_reducible assumption)

theorem State.setCorr_keeps {s₀ : State} (c : Int) (r : Nat) (s : State) (hk : Keeps s₀ s) : Keeps s₀ (State.setCorr c r s) := by
  unfold State.setCorr
  try dsimp only
  repeat' first | (intro _) | with_reducible assumption | with_reducible apply State.modRgt_keeps | with_reducible apply State.noteStep_keeps | with_reducible apply foldl_keeps | with_reducible apply ite_keeps | split | with_reducible rfl | with_reducible apply And.intro | (dsimp only [id]; with_reducible assumption)

theorem State.takeCorr_keeps {s₀ : State} (b : Probe) (s : State) (hk : Keeps s₀ s) : Keeps s₀ (State.takeCorr b s) := by
  unfold State.takeCorr
  try dsimp only
  repeat' first | (intro _) | with_reducible assumption | with_reducible apply State.modRgt_keeps | with_reducible apply State.setCorr_keeps | with_reducible apply foldl_keeps | with_reducible apply ite_keeps | split | with_reducible rfl | with_reducible apply And.intro | (dsimp only [id]; with_reducible assumption)

theorem State.passTrigger_keeps {s₀ : State} (h : Hdr) (old : Option Probe) (b : Probe) (before s : State) (hk : Keeps s₀ s) :
    Keeps s₀ (State.passTrigger h old b before s) := by
  unfold State.passTrigger
  exact ite_keeps (State.sendProbes_keeps true s hk) hk

theorem execProbeReceive_keeps {s₀ : State} (p : Port) (h : Hdr) (b : Probe) (s : State) (hk : Keeps s₀ s) : KeepsO s₀ (execProbeReceive p h b s) := by
  unfold execProbeReceive
  try dsimp only
  repeat' first | (intro _) | with_reducible assumption | with_reducible apply State.passTrigger_keeps | with_reducible apply KeepsO.next | with_reducible apply State.live_keeps | with_reducible apply State.rx_keeps | with_reducible apply State.modPort_keeps | with_reducible apply State.recompute_keeps | with_reducible apply State.modRgt_keeps | with_reducible apply State.modChild_keeps | with_reducible apply State.takeCorr_keeps | with_reducible apply foldl_keeps | with_reducible apply ite_keeps | with_reducible apply iteO_keeps | split | with_reducible rfl | with_reducible apply And.intro | (dsimp only [id]; with_reducible assumption)

theorem State.switchTrees_keeps {s₀ : State} (s : State) (hk : Keeps s₀ s) : Keeps s₀ (State.switchTrees s) := by
  unfold State.switchTrees
  try dsimp only
  repeat' first | (intro _) | with_reducible assumption | with_reducible apply State.modRgt_keeps | with_reducible apply State.modAlc_keeps | with_reducible apply foldl_keeps | with_reducible apply ite_keeps | split | with_reducible rfl | with_reducible apply And.intro | (dsimp only [id]; with_reducible assumption)

theorem State.takeStroke_keeps {s₀ : State} (old : CtrlId) (s : State) (hk : Keeps s₀ s) : Keeps s₀ (State.takeStroke old s) := by
  unfold State.takeStroke
  try dsimp only
  repeat' first | (intro _) | with_reducible assumption | with_reducible apply State.modRgt_keeps | with_reducible apply State.modClk_keeps | with_reducible apply foldl_keeps | with_reducible apply ite_keeps | split | with_reducible rfl | with_reducible apply And.intro | (dsimp only [id]; with_reducible assumption)

theorem State.treeSync_keeps {s₀ : State} (s : State) (hk : Keeps s₀ s) : Keeps s₀ (State.treeSync s) := by
  unfold State.treeSync
  try dsimp only
  repeat' first | (intro _) | with_reducible assumption | with_reducible apply State.switchTrees_keeps | with_reducible apply State.modRgt_keeps | with_reducible apply State.takeStroke_keeps | with_reducible apply State.assignRoles_keeps | with_reducible apply State.modAlc_keeps | with_reducible apply State.recompute_keeps | with_reducible apply State.raise_keeps | with_reducible apply foldl_keeps | with_reducible apply ite_keeps | split | with_reducible rfl | with_reducible apply And.intro | (dsimp only [id]; with_reducible assumption)

theorem execTreeSwitch_keeps {s₀ : State} (s : State) (hk : Keeps s₀ s) : KeepsO s₀ (execTreeSwitch s) := by
  unfold execTreeSwitch
  try dsimp only
  repeat' first | (intro _) | with_reducible assumption | with_reducible apply KeepsO.next | with_reducible apply State.live_keeps | with_reducible apply State.runToFleet_keeps | with_reducible apply State.treeSync_keeps | with_reducible apply foldl_keeps | with_reducible apply ite_keeps | with_reducible apply iteO_keeps | split | with_reducible rfl | with_reducible apply And.intro | (dsimp only [id]; with_reducible assumption)

theorem execFrameForward_keeps {s₀ : State} (p : Port) (h : Hdr) (body : Payload) (s : State) (hk : Keeps s₀ s) : KeepsO s₀ (execFrameForward p h body s) := by
  unfold execFrameForward
  try dsimp only
  repeat' first | (intro _) | with_reducible assumption | with_reducible apply KeepsO.next | with_reducible apply State.live_keeps | with_reducible apply State.rx_keeps | with_reducible apply State.modPort_keeps | with_reducible apply State.rxClass_keeps | with_reducible apply State.handOver_keeps | with_reducible apply foldl_keeps | with_reducible apply ite_keeps | with_reducible apply iteO_keeps | split | with_reducible rfl | with_reducible apply And.intro | (dsimp only [id]; with_reducible assumption)

theorem State.dropStale_keeps {s₀ : State} (s : State) (hk : Keeps s₀ s) : Keeps s₀ (State.dropStale s) := by
  unfold State.dropStale
  try dsimp only
  repeat' first | (intro _) | with_reducible assumption | with_reducible apply State.modRgt_keeps | with_reducible apply foldl_keeps | with_reducible apply ite_keeps | split | with_reducible rfl | with_reducible apply And.intro | (dsimp only [id]; with_reducible assumption)

theorem execCfgSegmentReceive_keeps {s₀ : State} (p : Port) (h : Hdr) (kind : Half) (msgId : Word) (index count : Nat) (bytes : List Byte) (s : State) (hk : Keeps s₀ s) : KeepsO s₀ (execCfgSegmentReceive p h kind msgId index count bytes s) := by
  unfold execCfgSegmentReceive
  try dsimp only
  repeat' first | (intro _) | with_reducible assumption | with_reducible apply KeepsO.next | with_reducible apply State.live_keeps | with_reducible apply State.rxClass_keeps | with_reducible apply State.dropStale_keeps | with_reducible apply State.modRgt_keeps | with_reducible apply foldl_keeps | with_reducible apply ite_keeps | with_reducible apply iteO_keeps | split | with_reducible rfl | with_reducible apply And.intro | (dsimp only [id]; with_reducible assumption)

theorem execCfgMessageTimeout_keeps {s₀ : State} (s : State) (hk : Keeps s₀ s) : KeepsO s₀ (execCfgMessageTimeout s) := by
  unfold execCfgMessageTimeout
  try dsimp only
  repeat' first | (intro _) | with_reducible assumption | with_reducible apply KeepsO.next | with_reducible apply State.live_keeps | with_reducible apply State.runTo_keeps | with_reducible apply State.dropStale_keeps | with_reducible apply foldl_keeps | with_reducible apply ite_keeps | with_reducible apply iteO_keeps | split | with_reducible rfl | with_reducible apply And.intro | (dsimp only [id]; with_reducible assumption)

theorem State.takeMsg_keeps {s₀ : State} (kind : Half) (s : State) (hk : Keeps s₀ s) : Keeps s₀ (State.takeMsg kind s) := by
  unfold State.takeMsg
  try dsimp only
  repeat' first | (intro _) | with_reducible assumption | with_reducible apply State.modRgt_keeps | with_reducible apply foldl_keeps | with_reducible apply ite_keeps | split | with_reducible rfl | with_reducible apply And.intro | (dsimp only [id]; with_reducible assumption)

theorem State.toStroke_keeps {s₀ : State} (p : Port) (body : CfgBody) (s : State) (hk : Keeps s₀ s) : Keeps s₀ (State.toStroke p body s) := by
  unfold State.toStroke
  try dsimp only
  repeat' first | (intro _) | with_reducible assumption | with_reducible apply State.sendMessage_keeps | with_reducible apply State.sendFrame_keeps | with_reducible apply foldl_keeps | with_reducible apply ite_keeps | split | with_reducible rfl | with_reducible apply And.intro | (dsimp only [id]; with_reducible assumption)

theorem State.sendJoin_keeps {s₀ : State} (identity : Digest) (s : State) (hk : Keeps s₀ s) : Keeps s₀ (State.sendJoin identity s) := by
  unfold State.sendJoin
  try dsimp only
  repeat' first | (intro _) | with_reducible assumption | with_reducible apply State.toStroke_keeps | with_reducible apply State.modRgt_keeps | with_reducible apply foldl_keeps | with_reducible apply ite_keeps | split | with_reducible rfl | with_reducible apply And.intro | (dsimp only [id]; with_reducible assumption)

theorem execJoin_keeps {s₀ : State} (identity : Digest) (s : State) (hk : Keeps s₀ s) : KeepsO s₀ (execJoin identity s) := by
  unfold execJoin
  try dsimp only
  repeat' first | (intro _) | with_reducible assumption | with_reducible apply KeepsO.next | with_reducible apply State.live_keeps | with_reducible apply State.sendJoin_keeps | with_reducible apply foldl_keeps | with_reducible apply ite_keeps | with_reducible apply iteO_keeps | split | with_reducible rfl | with_reducible apply And.intro | (dsimp only [id]; with_reducible assumption)

theorem execJoinRepeat_keeps {s₀ : State} (identity : Digest) (s : State) (hk : Keeps s₀ s) : KeepsO s₀ (execJoinRepeat identity s) := by
  unfold execJoinRepeat
  try dsimp only
  repeat' first | (intro _) | with_reducible assumption | with_reducible apply KeepsO.next | with_reducible apply State.live_keeps | with_reducible apply State.runTo_keeps | with_reducible apply State.sendJoin_keeps | with_reducible apply foldl_keeps | with_reducible apply ite_keeps | with_reducible apply iteO_keeps | split | with_reducible rfl | with_reducible apply And.intro | (dsimp only [id]; with_reducible assumption)

theorem State.copyAck_keeps {s₀ : State} (body : CfgBody) (s : State) (hk : Keeps s₀ s) : Keeps s₀ (State.copyAck body s) := by
  unfold State.copyAck
  try dsimp only
  repeat' first | (intro _) | with_reducible assumption | with_reducible apply State.sendCfg_keeps | with_reducible apply foldl_keeps | with_reducible apply ite_keeps | split | with_reducible rfl | with_reducible apply And.intro | (dsimp only [id]; with_reducible assumption)

theorem execJoinReceive_keeps {s₀ : State} (p : Port) (h : Hdr) (b : JoinBody) (s : State) (hk : Keeps s₀ s) : KeepsO s₀ (execJoinReceive p h b s) := by
  unfold execJoinReceive
  try dsimp only
  repeat' first | (intro _) | with_reducible assumption | with_reducible apply KeepsO.next | with_reducible apply State.live_keeps | with_reducible apply State.rxClass_keeps | with_reducible apply State.takeMsg_keeps | with_reducible apply State.modRgt_keeps | with_reducible apply State.sendCfg_keeps | with_reducible apply State.journal_keeps | with_reducible apply State.useFree_keeps | with_reducible apply State.copyAck_keeps | with_reducible apply foldl_keeps | with_reducible apply ite_keeps | with_reducible apply iteO_keeps | split | with_reducible rfl | with_reducible apply And.intro | (dsimp only [id]; with_reducible assumption)

theorem execJoinAck_keeps {s₀ : State} (id : CtrlId) (round : Nat) (s : State) (hk : Keeps s₀ s) : KeepsO s₀ (execJoinAck id round s) := by
  unfold execJoinAck
  try dsimp only
  repeat' first | (intro _) | with_reducible assumption | with_reducible apply KeepsO.next | with_reducible apply State.live_keeps | with_reducible apply State.takeMsg_keeps | with_reducible apply State.modRgt_keeps | with_reducible apply foldl_keeps | with_reducible apply ite_keeps | with_reducible apply iteO_keeps | split | with_reducible rfl | with_reducible apply And.intro | (dsimp only [id]; with_reducible assumption)

theorem execJoinRefuse_keeps {s₀ : State} (id : CtrlId) (reason : Byte) (s : State) (hk : Keeps s₀ s) : KeepsO s₀ (execJoinRefuse id reason s) := by
  unfold execJoinRefuse
  try dsimp only
  repeat' first | (intro _) | with_reducible assumption | with_reducible apply KeepsO.next | with_reducible apply State.live_keeps | with_reducible apply State.takeMsg_keeps | with_reducible apply State.modRgt_keeps | with_reducible apply foldl_keeps | with_reducible apply ite_keeps | with_reducible apply iteO_keeps | split | with_reducible rfl | with_reducible apply And.intro | (dsimp only [id]; with_reducible assumption)

theorem execAdmissionRound_keeps {s₀ : State} (s : State) (hk : Keeps s₀ s) : KeepsO s₀ (execAdmissionRound s) := by
  unfold execAdmissionRound
  try dsimp only
  repeat' first | (intro _) | with_reducible assumption | with_reducible apply KeepsO.next | with_reducible apply State.live_keeps | with_reducible apply State.runToFleet_keeps | with_reducible apply State.modRgt_keeps | with_reducible apply State.recompute_keeps | with_reducible apply foldl_keeps | with_reducible apply ite_keeps | with_reducible apply iteO_keeps | split | with_reducible rfl | with_reducible apply And.intro | (dsimp only [id]; with_reducible assumption)

theorem execLeave_keeps {s₀ : State} (p : Port) (h : Hdr) (b : JoinBody) (s : State) (hk : Keeps s₀ s) : KeepsO s₀ (execLeave p h b s) := by
  unfold execLeave
  try dsimp only
  repeat' first | (intro _) | with_reducible assumption | with_reducible apply KeepsO.next | with_reducible apply State.live_keeps | with_reducible apply State.rxClass_keeps | with_reducible apply State.takeMsg_keeps | with_reducible apply State.useFree_keeps | with_reducible apply State.modRgt_keeps | with_reducible apply State.sendCfg_keeps | with_reducible apply State.copyAck_keeps | with_reducible apply foldl_keeps | with_reducible apply ite_keeps | with_reducible apply iteO_keeps | split | with_reducible rfl | with_reducible apply And.intro | (dsimp only [id]; with_reducible assumption)

theorem execLeaveAck_keeps {s₀ : State} (id : CtrlId) (round : Nat) (s : State) (hk : Keeps s₀ s) : KeepsO s₀ (execLeaveAck id round s) := by
  unfold execLeaveAck
  try dsimp only
  repeat' first | (intro _) | with_reducible assumption | with_reducible apply KeepsO.next | with_reducible apply State.live_keeps | with_reducible apply State.takeMsg_keeps | with_reducible apply State.modRgt_keeps | with_reducible apply foldl_keeps | with_reducible apply ite_keeps | with_reducible apply iteO_keeps | split | with_reducible rfl | with_reducible apply And.intro | (dsimp only [id]; with_reducible assumption)

theorem State.removals_keeps {s₀ : State} (s : State) (hk : Keeps s₀ s) : Keeps s₀ (State.removals s) := by
  unfold State.removals
  try dsimp only
  repeat' first | (intro _) | with_reducible assumption | with_reducible apply State.modRgt_keeps | with_reducible apply State.recompute_keeps | with_reducible apply foldl_keeps | with_reducible apply ite_keeps | split | with_reducible rfl | with_reducible apply And.intro | (dsimp only [id]; with_reducible assumption)

theorem execRemovalRound_keeps {s₀ : State} (s : State) (hk : Keeps s₀ s) : KeepsO s₀ (execRemovalRound s) := by
  unfold execRemovalRound
  try dsimp only
  repeat' first | (intro _) | with_reducible assumption | with_reducible apply KeepsO.next | with_reducible apply State.live_keeps | with_reducible apply State.runToFleet_keeps | with_reducible apply State.removals_keeps | with_reducible apply foldl_keeps | with_reducible apply ite_keeps | with_reducible apply iteO_keeps | split | with_reducible rfl | with_reducible apply And.intro | (dsimp only [id]; with_reducible assumption)

theorem execMemberRemoved_keeps {s₀ : State} (id : CtrlId) (s : State) (hk : Keeps s₀ s) : KeepsO s₀ (execMemberRemoved id s) := by
  unfold execMemberRemoved
  try dsimp only
  repeat' first | (intro _) | with_reducible assumption | with_reducible apply KeepsO.next | with_reducible apply State.live_keeps | with_reducible apply State.runToFleet_keeps | with_reducible apply State.modRgt_keeps | with_reducible apply State.recompute_keeps | with_reducible apply foldl_keeps | with_reducible apply ite_keeps | with_reducible apply iteO_keeps | split | with_reducible rfl | with_reducible apply And.intro | (dsimp only [id]; with_reducible assumption)

theorem State.setFleet_keeps {s₀ : State} (fix : Nat) (s : State) (hk : Keeps s₀ s) : Keeps s₀ (State.setFleet fix s) := by
  unfold State.setFleet
  try dsimp only
  repeat' first | (intro _) | with_reducible assumption | with_reducible apply State.modClk_keeps | with_reducible apply State.modLne_keeps | with_reducible apply State.modThm_keeps | with_reducible apply State.noteStep_keeps | with_reducible apply foldl_keeps | with_reducible apply ite_keeps | split | with_reducible rfl | with_reducible apply And.intro | (dsimp only [id]; with_reducible assumption)

theorem State.timeKnown_keeps {s₀ : State} (s : State) (hk : Keeps s₀ s) : Keeps s₀ (State.timeKnown s) := by
  unfold State.timeKnown
  try dsimp only
  repeat' first | (intro _) | with_reducible assumption | with_reducible apply State.modBil_keeps | with_reducible apply foldl_keeps | with_reducible apply ite_keeps | split | with_reducible rfl | with_reducible apply And.intro | (dsimp only [id]; with_reducible assumption)

theorem State.stepFleet_keeps {s₀ : State} (d : Int) (s : State) (hk : Keeps s₀ s) : Keeps s₀ (State.stepFleet d s) := by
  unfold State.stepFleet
  try dsimp only
  repeat' first | (intro _) | with_reducible assumption | with_reducible apply State.setFleet_keeps | with_reducible apply foldl_keeps | with_reducible apply ite_keeps | split | with_reducible rfl | with_reducible apply And.intro | (dsimp only [id]; with_reducible assumption)

theorem State.noteOffset_keeps {s₀ : State} (o : Int) (s : State) (hk : Keeps s₀ s) : Keeps s₀ (State.noteOffset o s) := by
  unfold State.noteOffset
  try dsimp only
  repeat' first | (intro _) | with_reducible assumption | with_reducible apply State.modRgt_keeps | with_reducible apply foldl_keeps | with_reducible apply ite_keeps | split | with_reducible rfl | with_reducible apply And.intro | (dsimp only [id]; with_reducible assumption)

theorem execTimeOffsetUpdate_keeps {s₀ : State} (p : Port) (t1 t2 t3 t4 : Nat) (s : State) (hk : Keeps s₀ s) : KeepsO s₀ (execTimeOffsetUpdate p t1 t2 t3 t4 s) := by
  unfold execTimeOffsetUpdate
  try dsimp only
  repeat' first | (intro _) | with_reducible assumption | with_reducible apply KeepsO.next | with_reducible apply State.live_keeps | with_reducible apply State.rx_keeps | with_reducible apply State.modPort_keeps | with_reducible apply State.noteOffset_keeps | with_reducible apply State.modRgt_keeps | with_reducible apply State.timeKnown_keeps | with_reducible apply State.stepFleet_keeps | with_reducible apply State.modClk_keeps | with_reducible apply foldl_keeps | with_reducible apply ite_keeps | with_reducible apply iteO_keeps | split | with_reducible rfl | with_reducible apply And.intro | (dsimp only [id]; with_reducible assumption)

theorem execTimeHoldover_keeps {s₀ : State} (s : State) (hk : Keeps s₀ s) : KeepsO s₀ (execTimeHoldover s) := by
  unfold execTimeHoldover
  try dsimp only
  repeat' first | (intro _) | with_reducible assumption | with_reducible apply KeepsO.next | with_reducible apply State.live_keeps | with_reducible apply State.runToFleet_keeps | with_reducible apply State.modRgt_keeps | with_reducible apply foldl_keeps | with_reducible apply ite_keeps | with_reducible apply iteO_keeps | split | with_reducible rfl | with_reducible apply And.intro | (dsimp only [id]; with_reducible assumption)

theorem execCrewForm_keeps {s₀ : State} (s : State) (hk : Keeps s₀ s) : KeepsO s₀ (execCrewForm s) := by
  unfold execCrewForm
  try dsimp only
  repeat' first | (intro _) | with_reducible assumption | with_reducible apply KeepsO.next | with_reducible apply State.live_keeps | with_reducible apply State.runToOffset_keeps | with_reducible apply State.timeKnown_keeps | with_reducible apply State.stepFleet_keeps | with_reducible apply State.modRgt_keeps | with_reducible apply State.useFree_keeps | with_reducible apply State.setFleet_keeps | with_reducible apply foldl_keeps | with_reducible apply ite_keeps | with_reducible apply iteO_keeps | split | with_reducible rfl | with_reducible apply And.intro | (dsimp only [id]; with_reducible assumption)

theorem execTaiCheck_keeps {s₀ : State} (s : State) (hk : Keeps s₀ s) : KeepsO s₀ (execTaiCheck s) := by
  unfold execTaiCheck
  try dsimp only
  repeat' first | (intro _) | with_reducible assumption | with_reducible apply KeepsO.next | with_reducible apply State.live_keeps | with_reducible apply State.runTo_keeps | with_reducible apply State.modRgt_keeps | with_reducible apply State.timeKnown_keeps | with_reducible apply State.modClk_keeps | with_reducible apply foldl_keeps | with_reducible apply ite_keeps | with_reducible apply iteO_keeps | split | with_reducible rfl | with_reducible apply And.intro | (dsimp only [id]; with_reducible assumption)

theorem execTaiCorrectionApply_keeps {s₀ : State} (s : State) (hk : Keeps s₀ s) : KeepsO s₀ (execTaiCorrectionApply s) := by
  unfold execTaiCorrectionApply
  try dsimp only
  repeat' first | (intro _) | with_reducible assumption | with_reducible apply KeepsO.next | with_reducible apply State.live_keeps | with_reducible apply State.runToFleet_keeps | with_reducible apply State.setCorr_keeps | with_reducible apply foldl_keeps | with_reducible apply ite_keeps | with_reducible apply iteO_keeps | split | with_reducible rfl | with_reducible apply And.intro | (dsimp only [id]; with_reducible assumption)

theorem State.ptpSync_keeps {s₀ : State} (t1 rx : Int) (s : State) (hk : Keeps s₀ s) : Keeps s₀ (State.ptpSync t1 rx s) := by
  unfold State.ptpSync
  try dsimp only
  repeat' first | (intro _) | with_reducible assumption | with_reducible apply State.rx_keeps | with_reducible apply State.modRgt_keeps | with_reducible apply foldl_keeps | with_reducible apply ite_keeps | split | with_reducible rfl | with_reducible apply And.intro | (dsimp only [id]; with_reducible assumption)

theorem State.ptp_keeps {s₀ : State} (m : PtpMsg) (s : State) (hk : Keeps s₀ s) : Keeps s₀ (State.ptp m s) := by
  unfold State.ptp
  try dsimp only
  repeat' first | (intro _) | with_reducible assumption | with_reducible apply State.modRgt_keeps | with_reducible apply State.ptpSync_keeps | with_reducible apply State.rx_keeps | with_reducible apply foldl_keeps | with_reducible apply ite_keeps | split | with_reducible rfl | with_reducible apply And.intro | (dsimp only [id]; with_reducible assumption)

theorem execPtpMessage_keeps {s₀ : State} (mgmtPort : Fin 2) (domain : Byte) (m : PtpMsg) (s : State) (hk : Keeps s₀ s) : KeepsO s₀ (execPtpMessage mgmtPort domain m s) := by
  unfold execPtpMessage
  try dsimp only
  repeat' first | (intro _) | with_reducible assumption | with_reducible apply KeepsO.next | with_reducible apply State.live_keeps | with_reducible apply State.ptp_keeps | with_reducible apply State.modRgt_keeps | with_reducible apply foldl_keeps | with_reducible apply ite_keeps | with_reducible apply iteO_keeps | split | with_reducible rfl | with_reducible apply And.intro | (dsimp only [id]; with_reducible assumption)

theorem execPpsEdge_keeps {s₀ : State} (s : State) (hk : Keeps s₀ s) : KeepsO s₀ (execPpsEdge s) := by
  unfold execPpsEdge
  try dsimp only
  repeat' first | (intro _) | with_reducible assumption | with_reducible apply KeepsO.next | with_reducible apply State.live_keeps | with_reducible apply State.complete_keeps | with_reducible apply State.modRgt_keeps | with_reducible apply State.modTun_keeps | with_reducible apply foldl_keeps | with_reducible apply ite_keeps | with_reducible apply iteO_keeps | split | with_reducible rfl | with_reducible apply And.intro | (dsimp only [id]; with_reducible assumption)

theorem execExtSourceLost_keeps {s₀ : State} (s : State) (hk : Keeps s₀ s) : KeepsO s₀ (execExtSourceLost s) := by
  unfold execExtSourceLost
  try dsimp only
  repeat' first | (intro _) | with_reducible assumption | with_reducible apply KeepsO.next | with_reducible apply State.live_keeps | with_reducible apply State.modRgt_keeps | with_reducible apply foldl_keeps | with_reducible apply ite_keeps | with_reducible apply iteO_keeps | split | with_reducible rfl | with_reducible apply And.intro | (dsimp only [id]; with_reducible assumption)

end Sys2Proof.Machine
end

