-- ==== Sys2Proof/Laws/KeepsRings.lean ====
section
/-! SUPPORT. What the operations of Machine/Rings.lean keep: the queue, the variant, the canonical form of the stores. -/
namespace Sys2Proof.Machine

theorem State.ringGo_keeps {s₀ : State} (r : Ring) (st : RingState) (s : State) (hk : Keeps s₀ s) : Keeps s₀ (State.ringGo r st s) := by
  unfold State.ringGo
  try dsimp only
  repeat' first | (intro _) | with_reducible assumption | with_reducible apply State.modRing_keeps | with_reducible apply State.writeShadow_keeps | with_reducible apply foldl_keeps | with_reducible apply ite_keeps | split | with_reducible rfl | with_reducible apply And.intro | (dsimp only [id]; with_reducible assumption)

theorem State.cqWrite_keeps {s₀ : State} (r : Ring) (c : Comp) (what : CqEntry) (now : Bool) (s : State) (hk : Keeps s₀ s) : Keeps s₀ (State.cqWrite r c what now s) := by
  unfold State.cqWrite
  try dsimp only
  repeat' first | (intro _) | with_reducible assumption | with_reducible apply State.modHost_keeps | with_reducible apply State.modRing_keeps | with_reducible apply State.writeShadow_keeps | with_reducible apply State.irqItem_keeps | with_reducible apply foldl_keeps | with_reducible apply ite_keeps | split | with_reducible rfl | with_reducible apply And.intro | (dsimp only [id]; with_reducible assumption)

theorem State.writeComp_keeps {s₀ : State} (r : Ring) (s : State) (hk : Keeps s₀ s) : Keeps s₀ (State.writeComp r s) := by
  unfold State.writeComp
  try dsimp only
  repeat' first | (intro _) | with_reducible assumption | with_reducible apply State.modRing_keeps | with_reducible apply State.raise_keeps | with_reducible apply State.cqWrite_keeps | with_reducible apply State.modRingF_keeps | with_reducible apply State.passPages_keeps | with_reducible apply State.modSlot_keeps | with_reducible apply foldl_keeps | with_reducible apply ite_keeps | split | with_reducible rfl | with_reducible apply And.intro | (dsimp only [id]; with_reducible assumption)

theorem State.commitComps_keeps {s₀ : State} (r : Ring) (s : State) (hk : Keeps s₀ s) : Keeps s₀ (State.commitComps r s) := by
  unfold State.commitComps
  try dsimp only
  repeat' first | (intro _) | with_reducible assumption | with_reducible apply State.modDlv_keeps | with_reducible apply foldl_keeps | with_reducible apply ite_keeps | split | with_reducible rfl | with_reducible apply And.intro | (dsimp only [id]; with_reducible assumption)

theorem execCompletionWrite_keeps {s₀ : State} (r : Ring) (s : State) (hk : Keeps s₀ s) : KeepsO s₀ (execCompletionWrite r s) := by
  unfold execCompletionWrite
  try dsimp only
  repeat' first | (intro _) | with_reducible assumption | with_reducible apply KeepsO.next | with_reducible apply State.live_keeps | with_reducible apply State.commitComps_keeps | with_reducible apply State.runToFleet_keeps | with_reducible apply State.writeComp_keeps | with_reducible apply foldl_keeps | with_reducible apply ite_keeps | with_reducible apply iteO_keeps | split | with_reducible rfl | with_reducible apply And.intro | (dsimp only [id]; with_reducible assumption)

theorem State.consume_keeps {s₀ : State} (r : Ring) (c : Word) (s : State) (hk : Keeps s₀ s) : Keeps s₀ (State.consume r c s) := by
  unfold State.consume
  try dsimp only
  repeat' first | (intro _) | with_reducible assumption | with_reducible apply State.modSlot_keeps | with_reducible apply State.modRing_keeps | with_reducible apply foldl_keeps | with_reducible apply ite_keeps | split | with_reducible rfl | with_reducible apply And.intro | (dsimp only [id]; with_reducible assumption)

theorem State.takeP_keeps {s₀ : State} (r : Ring) (p : Word) (s : State) (hk : Keeps s₀ s) : Keeps s₀ (State.takeP r p s) := by
  unfold State.takeP
  try dsimp only
  repeat' first | (intro _) | with_reducible assumption | with_reducible apply State.modRing_keeps | with_reducible apply State.raise_keeps | with_reducible apply foldl_keeps | with_reducible apply ite_keeps | split | with_reducible rfl | with_reducible apply And.intro | (dsimp only [id]; with_reducible assumption)

theorem State.takeC_keeps {s₀ : State} (r : Ring) (c : Word) (s : State) (hk : Keeps s₀ s) : Keeps s₀ (State.takeC r c s) := by
  unfold State.takeC
  try dsimp only
  repeat' first | (intro _) | with_reducible assumption | with_reducible apply State.consume_keeps | with_reducible apply State.raise_keeps | with_reducible apply foldl_keeps | with_reducible apply ite_keeps | split | with_reducible rfl | with_reducible apply And.intro | (dsimp only [id]; with_reducible assumption)

theorem State.writeAll_keeps {s₀ : State} (r : Ring) (fuel : Nat) (s : State) (hk : Keeps s₀ s) : Keeps s₀ (State.writeAll r fuel s) := by
  induction fuel generalizing s with
  | zero => exact hk
  | succ k ih =>
    unfold State.writeAll
    split
    · exact ih _ (State.writeComp_keeps _ _ hk)
    · exact hk

theorem State.ringRun_keeps {s₀ : State} (r : Ring) (s : State) (hk : Keeps s₀ s) : Keeps s₀ (State.ringRun r s) := by
  unfold State.ringRun
  try dsimp only
  repeat' first | (intro _) | with_reducible assumption | with_reducible apply State.modRing_keeps | with_reducible apply State.modDlv_keeps | with_reducible apply State.writeShadow_keeps | with_reducible apply State.commitComps_keeps | with_reducible apply State.writeAll_keeps | with_reducible apply State.takeP_keeps | with_reducible apply State.takeC_keeps | with_reducible apply foldl_keeps | with_reducible apply ite_keeps | split | with_reducible rfl | with_reducible apply And.intro | (dsimp only [id]; with_reducible assumption)

theorem State.doorbell_keeps {s₀ : State} (m : Master) (r : Ring) (off : Nat) (v : Word) (keep : State → State) (take : State → State) (s : State) (hkeep : ∀ t, Keeps s₀ t → Keeps s₀ (keep t)) (htake : ∀ t, Keeps s₀ t → Keeps s₀ (take t)) (hk : Keeps s₀ s) : Keeps s₀ (State.doorbell m r off v keep take s) := by
  unfold State.doorbell
  try dsimp only
  repeat' first | (intro _) | with_reducible assumption | with_reducible apply State.transact_keeps | with_reducible apply State.freeze_keeps | with_reducible apply State.firewallDrop_keeps | apply hkeep | apply htake | with_reducible apply foldl_keeps | with_reducible apply ite_keeps | split | with_reducible rfl | with_reducible apply And.intro | (dsimp only [id]; with_reducible assumption)

theorem execRingDbSq_keeps {s₀ : State} (m : Master) (r : Ring) (p : Word) (s : State) (hk : Keeps s₀ s) : KeepsO s₀ (execRingDbSq m r p s) := by
  unfold execRingDbSq
  try dsimp only
  repeat' first | (intro _) | with_reducible assumption | with_reducible apply KeepsO.next | with_reducible apply State.live_keeps | with_reducible apply State.doorbell_keeps | with_reducible apply State.modRing_keeps | with_reducible apply State.takeP_keeps | with_reducible apply foldl_keeps | with_reducible apply ite_keeps | with_reducible apply iteO_keeps | split | with_reducible rfl | with_reducible apply And.intro | (dsimp only [id]; with_reducible assumption)

theorem execRingDbCq_keeps {s₀ : State} (m : Master) (r : Ring) (c : Word) (s : State) (hk : Keeps s₀ s) : KeepsO s₀ (execRingDbCq m r c s) := by
  unfold execRingDbCq
  try dsimp only
  repeat' first | (intro _) | with_reducible assumption | with_reducible apply KeepsO.next | with_reducible apply State.live_keeps | with_reducible apply State.doorbell_keeps | with_reducible apply State.modRing_keeps | with_reducible apply State.takeC_keeps | with_reducible apply foldl_keeps | with_reducible apply ite_keeps | with_reducible apply iteO_keeps | split | with_reducible rfl | with_reducible apply And.intro | (dsimp only [id]; with_reducible assumption)

theorem State.ringEnable_keeps {s₀ : State} (r : Ring) (on : Bool) (s : State) (hk : Keeps s₀ s) : Keeps s₀ (State.ringEnable r on s) := by
  unfold State.ringEnable
  try dsimp only
  repeat' first | (intro _) | with_reducible assumption | with_reducible apply State.modRing_keeps | with_reducible apply State.ringRun_keeps | with_reducible apply State.ringGo_keeps | with_reducible apply foldl_keeps | with_reducible apply ite_keeps | split | with_reducible rfl | with_reducible apply And.intro | (dsimp only [id]; with_reducible assumption)

theorem execRingCtrlWrite_keeps {s₀ : State} (m : Master) (r : Ring) (w : Word) (s : State) (hk : Keeps s₀ s) : KeepsO s₀ (execRingCtrlWrite m r w s) := by
  unfold execRingCtrlWrite
  try dsimp only
  repeat' first | (intro _) | with_reducible assumption | with_reducible apply KeepsO.next | with_reducible apply State.live_keeps | with_reducible apply State.guardedWrite_keeps | with_reducible apply State.modRing_keeps | with_reducible apply State.ringEnable_keeps | with_reducible apply foldl_keeps | with_reducible apply ite_keeps | with_reducible apply iteO_keeps | split | with_reducible rfl | with_reducible apply And.intro | (dsimp only [id]; with_reducible assumption)

theorem execBusMasterEnable_keeps {s₀ : State} (f : Fn) (on : Bool) (s : State) (hk : Keeps s₀ s) : KeepsO s₀ (execBusMasterEnable f on s) := by
  unfold execBusMasterEnable
  try dsimp only
  repeat' first | (intro _) | with_reducible assumption | with_reducible apply KeepsO.next | with_reducible apply State.live_keeps | with_reducible apply State.modRingF_keeps | with_reducible apply State.forAll_keeps | with_reducible apply State.ringGo_keeps | with_reducible apply State.ringRun_keeps | with_reducible apply foldl_keeps | with_reducible apply ite_keeps | with_reducible apply iteO_keeps | split | with_reducible rfl | with_reducible apply And.intro | (dsimp only [id]; with_reducible assumption)

theorem execDrainDone_keeps {s₀ : State} (r : Ring) (s : State) (hk : Keeps s₀ s) : KeepsO s₀ (execDrainDone r s) := by
  unfold execDrainDone
  try dsimp only
  repeat' first | (intro _) | with_reducible assumption | with_reducible apply KeepsO.next | with_reducible apply State.live_keeps | with_reducible apply State.ringGo_keeps | with_reducible apply foldl_keeps | with_reducible apply ite_keeps | with_reducible apply iteO_keeps | split | with_reducible rfl | with_reducible apply And.intro | (dsimp only [id]; with_reducible assumption)

theorem State.fnReset_keeps {s₀ : State} (f : Fn) (cause : BitVec 3) (s : State) (hk : Keeps s₀ s) : Keeps s₀ (State.fnReset f cause s) := by
  unfold State.fnReset
  try dsimp only
  repeat' first | (intro _) | with_reducible assumption | with_reducible apply State.forAll_keeps | with_reducible apply State.modRing_keeps | with_reducible apply State.modIrq_keeps | with_reducible apply State.evSet_keeps | with_reducible apply State.modRingF_keeps | with_reducible apply State.modGlb_keeps | with_reducible apply foldl_keeps | with_reducible apply ite_keeps | split | with_reducible rfl | with_reducible apply And.intro | (dsimp only [id]; with_reducible assumption)

theorem execFunctionLevelReset_keeps {s₀ : State} (f : Fn) (s : State) (hk : Keeps s₀ s) : KeepsO s₀ (execFunctionLevelReset f s) := by
  unfold execFunctionLevelReset
  try dsimp only
  repeat' first | (intro _) | with_reducible assumption | with_reducible apply KeepsO.next | with_reducible apply State.live_keeps | with_reducible apply State.fnReset_keeps | with_reducible apply foldl_keeps | with_reducible apply ite_keeps | with_reducible apply iteO_keeps | split | with_reducible rfl | with_reducible apply And.intro | (dsimp only [id]; with_reducible assumption)

theorem execRingNop_keeps {s₀ : State} (r : Ring) (d : Desc) (s : State) (hk : Keeps s₀ s) : KeepsO s₀ (execRingNop r d s) := by
  unfold execRingNop
  try dsimp only
  repeat' first | (intro _) | with_reducible assumption | with_reducible apply KeepsO.next | with_reducible apply State.work_keeps | with_reducible apply State.complete_keeps | with_reducible apply foldl_keeps | with_reducible apply ite_keeps | with_reducible apply iteO_keeps | split | with_reducible rfl | with_reducible apply And.intro | (dsimp only [id]; with_reducible assumption)

theorem execRingFence_keeps {s₀ : State} (r : Ring) (d : Desc) (s : State) (hk : Keeps s₀ s) : KeepsO s₀ (execRingFence r d s) := by
  unfold execRingFence
  try dsimp only
  repeat' first | (intro _) | with_reducible assumption | with_reducible apply KeepsO.next | with_reducible apply State.work_keeps | with_reducible apply State.complete_keeps | with_reducible apply foldl_keeps | with_reducible apply ite_keeps | with_reducible apply iteO_keeps | split | with_reducible rfl | with_reducible apply And.intro | (dsimp only [id]; with_reducible assumption)

theorem execIrqModerationTimer_keeps {s₀ : State} (v : IrqVec) (s : State) (hk : Keeps s₀ s) : KeepsO s₀ (execIrqModerationTimer v s) := by
  unfold execIrqModerationTimer
  try dsimp only
  repeat' first | (intro _) | with_reducible assumption | with_reducible apply KeepsO.next | with_reducible apply State.live_keeps | with_reducible apply State.runTo_keeps | with_reducible apply State.sendMsi_keeps | with_reducible apply foldl_keeps | with_reducible apply ite_keeps | with_reducible apply iteO_keeps | split | with_reducible rfl | with_reducible apply And.intro | (dsimp only [id]; with_reducible assumption)

theorem execRgtTimeOfDay_keeps {s₀ : State} (r : Ring) (d : Desc) (s : State) (hk : Keeps s₀ s) : KeepsO s₀ (execRgtTimeOfDay r d s) := by
  unfold execRgtTimeOfDay
  try dsimp only
  repeat' first | (intro _) | with_reducible assumption | with_reducible apply KeepsO.next | with_reducible apply State.work_keeps | with_reducible apply State.modTun_keeps | with_reducible apply foldl_keeps | with_reducible apply ite_keeps | with_reducible apply iteO_keeps | split | with_reducible rfl | with_reducible apply And.intro | (dsimp only [id]; with_reducible assumption)

theorem execRgtTunnelSend_keeps {s₀ : State} (r : Ring) (d : Desc) (s : State) (hk : Keeps s₀ s) : KeepsO s₀ (execRgtTunnelSend r d s) := by
  unfold execRgtTunnelSend
  try dsimp only
  repeat' first | (intro _) | with_reducible assumption | with_reducible apply KeepsO.next | with_reducible apply State.work_keeps | with_reducible apply State.complete_keeps | with_reducible apply State.sendFrame_keeps | with_reducible apply State.modTun_keeps | with_reducible apply foldl_keeps | with_reducible apply ite_keeps | with_reducible apply iteO_keeps | split | with_reducible rfl | with_reducible apply And.intro | (dsimp only [id]; with_reducible assumption)

theorem execRgtTunnelRecv_keeps {s₀ : State} (r : Ring) (d : Desc) (s : State) (hk : Keeps s₀ s) : KeepsO s₀ (execRgtTunnelRecv r d s) := by
  unfold execRgtTunnelRecv
  try dsimp only
  repeat' first | (intro _) | with_reducible assumption | with_reducible apply KeepsO.next | with_reducible apply State.work_keeps | with_reducible apply State.modTun_keeps | with_reducible apply foldl_keeps | with_reducible apply ite_keeps | with_reducible apply iteO_keeps | split | with_reducible rfl | with_reducible apply And.intro | (dsimp only [id]; with_reducible assumption)

theorem State.tunnelDeliver_keeps {s₀ : State} (source : BitVec 16) (channel : BitVec 4) (bytes : List Byte) (s : State) (hk : Keeps s₀ s) : Keeps s₀ (State.tunnelDeliver source channel bytes s) := by
  unfold State.tunnelDeliver
  try dsimp only
  repeat' first | (intro _) | with_reducible assumption | with_reducible apply State.modTun_keeps | with_reducible apply State.writePages_keeps | with_reducible apply State.complete_keeps | with_reducible apply State.modRingF_keeps | with_reducible apply State.raise_keeps | with_reducible apply foldl_keeps | with_reducible apply ite_keeps | split | with_reducible rfl | with_reducible apply And.intro | (dsimp only [id]; with_reducible assumption)

theorem State.tunnelStale_keeps {s₀ : State} (s : State) (hk : Keeps s₀ s) : Keeps s₀ (State.tunnelStale s) := by
  unfold State.tunnelStale
  try dsimp only
  repeat' first | (intro _) | with_reducible assumption | with_reducible apply State.modTun_keeps | with_reducible apply foldl_keeps | with_reducible apply ite_keeps | split | with_reducible rfl | with_reducible apply And.intro | (dsimp only [id]; with_reducible assumption)

theorem execTunnelReceive_keeps {s₀ : State} (p : Port) (h : Hdr) (channel : BitVec 4) (msgId : Word) (index count : Nat) (length : Word) (bytes : List Byte) (s : State) (hk : Keeps s₀ s) : KeepsO s₀ (execTunnelReceive p h channel msgId index count length bytes s) := by
  unfold execTunnelReceive
  try dsimp only
  repeat' first | (intro _) | with_reducible assumption | with_reducible apply KeepsO.next | with_reducible apply State.live_keeps | with_reducible apply State.rxClass_keeps | with_reducible apply State.tunnelStale_keeps | with_reducible apply State.modTun_keeps | with_reducible apply State.tunnelDeliver_keeps | with_reducible apply foldl_keeps | with_reducible apply ite_keeps | with_reducible apply iteO_keeps | split | with_reducible rfl | with_reducible apply And.intro | (dsimp only [id]; with_reducible assumption)

theorem execTunnelTimeout_keeps {s₀ : State} (s : State) (hk : Keeps s₀ s) : KeepsO s₀ (execTunnelTimeout s) := by
  unfold execTunnelTimeout
  try dsimp only
  repeat' first | (intro _) | with_reducible assumption | with_reducible apply KeepsO.next | with_reducible apply State.live_keeps | with_reducible apply State.runTo_keeps | with_reducible apply State.tunnelStale_keeps | with_reducible apply foldl_keeps | with_reducible apply ite_keeps | with_reducible apply iteO_keeps | split | with_reducible rfl | with_reducible apply And.intro | (dsimp only [id]; with_reducible assumption)

theorem execTunnelRecvTimeout_keeps {s₀ : State} (s : State) (hk : Keeps s₀ s) : KeepsO s₀ (execTunnelRecvTimeout s) := by
  unfold execTunnelRecvTimeout
  try dsimp only
  repeat' first | (intro _) | with_reducible assumption | with_reducible apply KeepsO.next | with_reducible apply State.live_keeps | with_reducible apply State.runTo_keeps | with_reducible apply State.modTun_keeps | with_reducible apply State.complete_keeps | with_reducible apply foldl_keeps | with_reducible apply ite_keeps | with_reducible apply iteO_keeps | split | with_reducible rfl | with_reducible apply And.intro | (dsimp only [id]; with_reducible assumption)

end Sys2Proof.Machine
end

