-- ==== Sys2Proof/Laws/KeepsWindow.lean ====
section
/-! SUPPORT. What the operations of Machine/Window.lean keep: the queue, the variant, the canonical form of the stores. -/
namespace Sys2Proof.Machine

theorem State.windowWrite_keeps {s₀ : State} (m : Master) (addr : Nat) (bytes : List Byte) (t : State) (hk : Keeps s₀ t) : Keeps s₀ (State.windowWrite m addr bytes t) := by
  unfold State.windowWrite
  try dsimp only
  repeat' first | (intro _) | with_reducible assumption | with_reducible apply State.memWriteList_keeps | with_reducible apply State.freeze_keeps | with_reducible apply State.firewallDrop_keeps | with_reducible apply foldl_keeps | with_reducible apply ite_keeps | split | with_reducible rfl | with_reducible apply And.intro | (dsimp only [id]; with_reducible assumption)

theorem State.regionWrite_keeps {s₀ : State} (g : Region) (m : Master) (addr : Nat) (bytes : List Byte) (t : State) (hk : Keeps s₀ t) : Keeps s₀ (State.regionWrite g m addr bytes t) := by
  unfold State.regionWrite
  try dsimp only
  repeat' first | (intro _) | with_reducible assumption | with_reducible apply State.firewallDrop_keeps | with_reducible apply State.sramWrite_keeps | with_reducible apply foldl_keeps | with_reducible apply ite_keeps | split | with_reducible rfl | with_reducible apply And.intro | (dsimp only [id]; with_reducible assumption)

theorem execWindowAccess_keeps {s₀ : State} (m : Master) (g : Region) (write : Bool) (addr : Nat) (bytes : List Byte) (s : State) (hk : Keeps s₀ s) : KeepsO s₀ (execWindowAccess m g write addr bytes s) := by
  unfold execWindowAccess
  try dsimp only
  repeat' first | (intro _) | with_reducible assumption | with_reducible apply State.beats_keeps | with_reducible apply KeepsO.next | with_reducible apply State.live_keeps | with_reducible apply State.transact_keeps | with_reducible apply State.windowWrite_keeps | with_reducible apply State.regionWrite_keeps | with_reducible apply State.memWriteList_keeps | with_reducible apply State.freeze_keeps | with_reducible apply State.firewallDrop_keeps | with_reducible apply foldl_keeps | with_reducible apply ite_keeps | with_reducible apply iteO_keeps | split | with_reducible rfl | with_reducible apply And.intro | (dsimp only [id]; with_reducible assumption)

theorem State.moveRun_keeps {s₀ : State} (r : Ring) (d : Desc) (src dst : PageOwner) (s : State) (hk : Keeps s₀ s) : Keeps s₀ (State.moveRun r d src dst s) := by
  unfold State.moveRun
  try dsimp only
  repeat' first | (intro _) | with_reducible assumption | with_reducible apply State.go_keeps | with_reducible apply State.passPage_keeps | with_reducible apply State.complete_keeps | with_reducible apply foldl_keeps | with_reducible apply ite_keeps | split | with_reducible rfl | with_reducible apply And.intro | (dsimp only [id]; with_reducible assumption)

theorem execWinClaim_keeps {s₀ : State} (r : Ring) (d : Desc) (s : State) (hk : Keeps s₀ s) : KeepsO s₀ (execWinClaim r d s) := by
  unfold execWinClaim
  try dsimp only
  repeat' first | (intro _) | with_reducible assumption | with_reducible apply KeepsO.next | with_reducible apply State.work_keeps | with_reducible apply State.moveRun_keeps | with_reducible apply foldl_keeps | with_reducible apply ite_keeps | with_reducible apply iteO_keeps | split | with_reducible rfl | with_reducible apply And.intro | (dsimp only [id]; with_reducible assumption)

theorem execWinRelease_keeps {s₀ : State} (r : Ring) (d : Desc) (s : State) (hk : Keeps s₀ s) : KeepsO s₀ (execWinRelease r d s) := by
  unfold execWinRelease
  try dsimp only
  repeat' first | (intro _) | with_reducible assumption | with_reducible apply KeepsO.next | with_reducible apply State.work_keeps | with_reducible apply State.moveRun_keeps | with_reducible apply foldl_keeps | with_reducible apply ite_keeps | with_reducible apply iteO_keeps | split | with_reducible rfl | with_reducible apply And.intro | (dsimp only [id]; with_reducible assumption)

theorem execWinPartWrite_keeps {s₀ : State} (m : Master) (w : Word) (s : State) (hk : Keeps s₀ s) : KeepsO s₀ (execWinPartWrite m w s) := by
  unfold execWinPartWrite
  try dsimp only
  repeat' first | (intro _) | with_reducible assumption | with_reducible apply KeepsO.next | with_reducible apply State.live_keeps | with_reducible apply State.guardedWrite_keeps | with_reducible apply State.modWin_keeps | with_reducible apply State.raise_keeps | with_reducible apply foldl_keeps | with_reducible apply ite_keeps | with_reducible apply iteO_keeps | split | with_reducible rfl | with_reducible apply And.intro | (dsimp only [id]; with_reducible assumption)

theorem execWinOwnRead_keeps {s₀ : State} (f : Fn) (s : State) (hk : Keeps s₀ s) : KeepsO s₀ (execWinOwnRead f s) := by
  unfold execWinOwnRead
  try dsimp only
  repeat' first | (intro _) | with_reducible assumption | with_reducible apply KeepsO.next | with_reducible apply State.live_keeps | with_reducible apply State.transact_keeps | with_reducible apply State.modWin_keeps | with_reducible apply foldl_keeps | with_reducible apply ite_keeps | with_reducible apply iteO_keeps | split | with_reducible rfl | with_reducible apply And.intro | (dsimp only [id]; with_reducible assumption)

theorem State.unfreezeRing_keeps {s₀ : State} (r : Ring) (s : State) (hk : Keeps s₀ s) : Keeps s₀ (State.unfreezeRing r s) := by
  unfold State.unfreezeRing
  try dsimp only
  repeat' first | (intro _) | with_reducible assumption | with_reducible apply State.modRing_keeps | with_reducible apply State.ringGo_keeps | with_reducible apply foldl_keeps | with_reducible apply ite_keeps | split | with_reducible rfl | with_reducible apply And.intro | (dsimp only [id]; with_reducible assumption)

theorem State.releaseFreeze_keeps {s₀ : State} (token : Word) (s : State) (hk : Keeps s₀ s) : Keeps s₀ (State.releaseFreeze token s) := by
  unfold State.releaseFreeze
  try dsimp only
  repeat' first | (intro _) | with_reducible assumption | with_reducible apply State.raise_keeps | with_reducible apply State.modFrz_keeps | with_reducible apply State.forAll_keeps | with_reducible apply State.unfreezeRing_keeps | with_reducible apply foldl_keeps | with_reducible apply ite_keeps | split | with_reducible rfl | with_reducible apply And.intro | (dsimp only [id]; with_reducible assumption)

theorem execFrzReleaseWrite_keeps {s₀ : State} (m : Master) (w : Word) (s : State) (hk : Keeps s₀ s) : KeepsO s₀ (execFrzReleaseWrite m w s) := by
  unfold execFrzReleaseWrite
  try dsimp only
  repeat' first | (intro _) | with_reducible assumption | with_reducible apply KeepsO.next | with_reducible apply State.live_keeps | with_reducible apply State.firewallDrop_keeps | with_reducible apply State.guardedWrite_keeps | with_reducible apply State.releaseFreeze_keeps | with_reducible apply foldl_keeps | with_reducible apply ite_keeps | with_reducible apply iteO_keeps | split | with_reducible rfl | with_reducible apply And.intro | (dsimp only [id]; with_reducible assumption)

end Sys2Proof.Machine
end

