-- ==== Sys2Proof/Laws/KeepsDelivery.lean ====
section
/-! SUPPORT. What the operations of Machine/Delivery.lean keep: the queue, the variant, the canonical form of the stores. -/
namespace Sys2Proof.Machine

theorem State.fillBuckets_keeps {s₀ : State} (r : Ring) (s : State) (hk : Keeps s₀ s) : Keeps s₀ (State.fillBuckets r s) := by
  unfold State.fillBuckets
  try dsimp only
  repeat' first | (intro _) | with_reducible assumption | with_reducible apply State.modRing_keeps | with_reducible apply State.modDlv_keeps | with_reducible apply foldl_keeps | with_reducible apply ite_keeps | split | with_reducible rfl | with_reducible apply And.intro | (dsimp only [id]; with_reducible assumption)

theorem State.refuseComp_keeps {s₀ : State} (r : Ring) (d : Desc) (st : CStatus) (detail : Half) (result : Word) (s : State) (hk : Keeps s₀ s) : Keeps s₀ (State.refuseComp r d st detail result s) := by
  unfold State.refuseComp
  try dsimp only
  repeat' first | (intro _) | with_reducible assumption | with_reducible apply State.modRing_keeps | with_reducible apply State.modRingF_keeps | with_reducible apply State.raise_keeps | with_reducible apply foldl_keeps | with_reducible apply ite_keeps | split | with_reducible rfl | with_reducible apply And.intro | (dsimp only [id]; with_reducible assumption)

theorem State.undecide_keeps {s₀ : State} (r : Ring) (x : Committing) (s : State) (hk : Keeps s₀ s) : Keeps s₀ (State.undecide r x s) := by
  unfold State.undecide
  try dsimp only
  repeat' first | (intro _) | with_reducible assumption | with_reducible apply State.fillBuckets_keeps | with_reducible apply State.modRing_keeps | with_reducible apply State.modDlv_keeps | with_reducible apply State.passPages_keeps | with_reducible apply foldl_keeps | with_reducible apply ite_keeps | split | with_reducible rfl | with_reducible apply And.intro | (dsimp only [id]; with_reducible assumption)

theorem State.shadowA_keeps {s₀ : State} (r : Ring) (s : State) (hk : Keeps s₀ s) : Keeps s₀ (State.shadowA r s) := by
  unfold State.shadowA
  try dsimp only
  repeat' first | (intro _) | with_reducible assumption | with_reducible apply State.writeShadow_keeps | with_reducible apply foldl_keeps | with_reducible apply ite_keeps | split | with_reducible rfl | with_reducible apply And.intro | (dsimp only [id]; with_reducible assumption)

theorem State.accept_keeps {s₀ : State} (r : Ring) (x : Committing) (s : State) (hk : Keeps s₀ s) : Keeps s₀ (State.accept r x s) := by
  unfold State.accept
  try dsimp only
  repeat' first | (intro _) | with_reducible assumption | with_reducible apply State.modDlv_keeps | with_reducible apply State.modRingF_keeps | with_reducible apply foldl_keeps | with_reducible apply ite_keeps | split | with_reducible rfl | with_reducible apply And.intro | (dsimp only [id]; with_reducible assumption)

theorem execAcceptanceCommit_keeps {s₀ : State} (r : Ring) (verified : Bool) (s : State) (hk : Keeps s₀ s) : KeepsO s₀ (execAcceptanceCommit r verified s) := by
  unfold execAcceptanceCommit
  try dsimp only
  repeat' first | (intro _) | with_reducible assumption | with_reducible apply KeepsO.next | with_reducible apply State.live_keeps | with_reducible apply State.modRing_keeps | with_reducible apply State.accept_keeps | with_reducible apply State.shadowA_keeps | with_reducible apply State.modDlv_keeps | with_reducible apply State.undecide_keeps | with_reducible apply State.refuseComp_keeps | with_reducible apply foldl_keeps | with_reducible apply ite_keeps | with_reducible apply iteO_keeps | split | with_reducible rfl | with_reducible apply And.intro | (dsimp only [id]; with_reducible assumption)

theorem State.stopEngine_keeps {s₀ : State} (s : State) (hk : Keeps s₀ s) : Keeps s₀ (State.stopEngine s) := by
  unfold State.stopEngine
  try dsimp only
  repeat' first | (intro _) | with_reducible assumption | with_reducible apply State.forAll_keeps | with_reducible apply State.modRing_keeps | with_reducible apply State.accept_keeps | with_reducible apply State.modSlot_keeps | with_reducible apply State.shadowA_keeps | with_reducible apply State.undecide_keeps | with_reducible apply foldl_keeps | with_reducible apply ite_keeps | split | with_reducible rfl | with_reducible apply And.intro | (dsimp only [id]; with_reducible assumption)

theorem execJournalRetry_keeps {s₀ : State} (verified : Bool) (s : State) (hk : Keeps s₀ s) : KeepsO s₀ (execJournalRetry verified s) := by
  unfold execJournalRetry
  try dsimp only
  repeat' first | (intro _) | with_reducible assumption | with_reducible apply KeepsO.next | with_reducible apply State.live_keeps | with_reducible apply State.runTo_keeps | with_reducible apply State.modDlv_keeps | with_reducible apply foldl_keeps | with_reducible apply ite_keeps | with_reducible apply iteO_keeps | split | with_reducible rfl | with_reducible apply And.intro | (dsimp only [id]; with_reducible assumption)

theorem execNotBeforeReached_keeps {s₀ : State} (r : Ring) (seq : DWord) (s : State) (hk : Keeps s₀ s) : KeepsO s₀ (execNotBeforeReached r seq s) := by
  unfold execNotBeforeReached
  try dsimp only
  repeat' first | (intro _) | with_reducible assumption | with_reducible apply KeepsO.next | with_reducible apply State.live_keeps | with_reducible apply State.runToFleet_keeps | with_reducible apply State.modSlot_keeps | with_reducible apply foldl_keeps | with_reducible apply ite_keeps | with_reducible apply iteO_keeps | split | with_reducible rfl | with_reducible apply And.intro | (dsimp only [id]; with_reducible assumption)

theorem execDlvRingForget_keeps {s₀ : State} (r : Ring) (d : Desc) (s : State) (hk : Keeps s₀ s) : KeepsO s₀ (execDlvRingForget r d s) := by
  unfold execDlvRingForget
  try dsimp only
  repeat' first | (intro _) | with_reducible assumption | with_reducible apply KeepsO.next | with_reducible apply State.work_keeps | with_reducible apply State.complete_keeps | with_reducible apply State.modDlv_keeps | with_reducible apply State.modRing_keeps | with_reducible apply foldl_keeps | with_reducible apply ite_keeps | with_reducible apply iteO_keeps | split | with_reducible rfl | with_reducible apply And.intro | (dsimp only [id]; with_reducible assumption)

theorem State.recoverSlot_keeps {s₀ : State} (r : Ring) (start : Nat) (j : JSlot) (s : State) (hk : Keeps s₀ s) : Keeps s₀ (State.recoverSlot r start j s) := by
  unfold State.recoverSlot
  try dsimp only
  repeat' first | (intro _) | with_reducible assumption | with_reducible apply State.completeAt_keeps | with_reducible apply State.modRingF_keeps | with_reducible apply State.modSlot_keeps | with_reducible apply foldl_keeps | with_reducible apply ite_keeps | split | with_reducible rfl | with_reducible apply And.intro | (dsimp only [id]; with_reducible assumption)

theorem State.recoverCarrier_keeps {s₀ : State} (k : Fin 4) (s : State) (hk : Keeps s₀ s) : Keeps s₀ (State.recoverCarrier k s) := by
  unfold State.recoverCarrier
  try dsimp only
  repeat' first | (intro _) | with_reducible assumption | with_reducible apply State.modDlv_keeps | with_reducible apply State.forAll_keeps | with_reducible apply State.recoverSlot_keeps | with_reducible apply foldl_keeps | with_reducible apply ite_keeps | split | with_reducible rfl | with_reducible apply And.intro | (dsimp only [id]; with_reducible assumption)

theorem State.recoverAll_keeps {s₀ : State} (s : State) (hk : Keeps s₀ s) : Keeps s₀ (State.recoverAll s) := by
  unfold State.recoverAll
  try dsimp only
  repeat' first | (intro _) | with_reducible assumption | with_reducible apply State.forAll_keeps | with_reducible apply State.recoverCarrier_keeps | with_reducible apply foldl_keeps | with_reducible apply ite_keeps | split | with_reducible rfl | with_reducible apply And.intro | (dsimp only [id]; with_reducible assumption)

theorem execJournalRecovery_keeps {s₀ : State} (s : State) (hk : Keeps s₀ s) : KeepsO s₀ (execJournalRecovery s) := by
  unfold execJournalRecovery
  try dsimp only
  repeat' first | (intro _) | with_reducible assumption | with_reducible apply KeepsO.next | with_reducible apply State.live_keeps | with_reducible apply State.forAll_keeps | with_reducible apply State.modRingF_keeps | with_reducible apply State.recoverAll_keeps | with_reducible apply foldl_keeps | with_reducible apply ite_keeps | with_reducible apply iteO_keeps | split | with_reducible rfl | with_reducible apply And.intro | (dsimp only [id]; with_reducible assumption)

theorem State.noteReset_keeps {s₀ : State} (ks : List (Fin 4)) (engine : Bool) (s : State) (hk : Keeps s₀ s) : Keeps s₀ (State.noteReset ks engine s) := by
  unfold State.noteReset
  try dsimp only
  repeat' first | (intro _) | with_reducible assumption | with_reducible apply State.modDlv_keeps | with_reducible apply State.forAll_keeps | with_reducible apply foldl_keeps | with_reducible apply ite_keeps | split | with_reducible rfl | with_reducible apply And.intro | (dsimp only [id]; with_reducible assumption)

end Sys2Proof.Machine
end

