-- ==== Sys2Proof/Laws/KeepsBattery.lean ====
section
/-! SUPPORT. What the operations of Machine/Battery.lean keep: the queue, the variant, the canonical form of the stores. -/
namespace Sys2Proof.Machine

theorem State.batStore_keeps {s₀ : State} (s : State) (hk : Keeps s₀ s) : Keeps s₀ (State.batStore s) := by
  unfold State.batStore
  try dsimp only
  repeat' first | (intro _) | with_reducible assumption | with_reducible apply State.modBat_keeps | with_reducible apply foldl_keeps | with_reducible apply ite_keeps | split | with_reducible rfl | with_reducible apply And.intro | (dsimp only [id]; with_reducible assumption)

theorem State.setSoc_keeps {s₀ : State} (soc : Nat) (s : State) (hk : Keeps s₀ s) : Keeps s₀ (State.setSoc soc s) := by
  unfold State.setSoc
  try dsimp only
  repeat' first | (intro _) | with_reducible assumption | with_reducible apply State.modBat_keeps | with_reducible apply foldl_keeps | with_reducible apply ite_keeps | split | with_reducible rfl | with_reducible apply And.intro | (dsimp only [id]; with_reducible assumption)

theorem State.trueRefTaken_keeps {s₀ : State} (soc ur : Nat) (s : State) (hk : Keeps s₀ s) : Keeps s₀ (State.trueRefTaken soc ur s) := by
  unfold State.trueRefTaken
  try dsimp only
  repeat' first | (intro _) | with_reducible assumption | with_reducible apply State.setSoc_keeps | with_reducible apply State.modBat_keeps | with_reducible apply State.raise_keeps | with_reducible apply State.batStore_keeps | with_reducible apply foldl_keeps | with_reducible apply ite_keeps | split | with_reducible rfl | with_reducible apply And.intro | (dsimp only [id]; with_reducible assumption)

theorem State.measureCapacity_keeps {s₀ : State} (b : BatCfg) (s : State) (hk : Keeps s₀ s) : Keeps s₀ (State.measureCapacity b s) := by
  unfold State.measureCapacity
  try dsimp only
  repeat' first | (intro _) | with_reducible assumption | with_reducible apply State.modBat_keeps | with_reducible apply foldl_keeps | with_reducible apply ite_keeps | split | with_reducible rfl | with_reducible apply And.intro | (dsimp only [id]; with_reducible assumption)

theorem State.endDischarge_keeps {s₀ : State} (b : BatCfg) (s : State) (hk : Keeps s₀ s) : Keeps s₀ (State.endDischarge b s) := by
  unfold State.endDischarge
  try dsimp only
  repeat' first | (intro _) | with_reducible assumption | with_reducible apply State.modBat_keeps | with_reducible apply State.trueRefTaken_keeps | with_reducible apply foldl_keeps | with_reducible apply ite_keeps | split | with_reducible rfl | with_reducible apply And.intro | (dsimp only [id]; with_reducible assumption)

theorem State.batEnds_keeps {s₀ : State} (b : BatCfg) (s : State) (hk : Keeps s₀ s) : Keeps s₀ (State.batEnds b s) := by
  unfold State.batEnds
  try dsimp only
  repeat' first | (intro _) | with_reducible assumption | with_reducible apply State.endDischarge_keeps | with_reducible apply State.modBat_keeps | with_reducible apply foldl_keeps | with_reducible apply ite_keeps | split | with_reducible rfl | with_reducible apply And.intro | (dsimp only [id]; with_reducible assumption)

theorem State.endNote_keeps {s₀ : State} (b : BatCfg) (s : State) (hk : Keeps s₀ s) : Keeps s₀ (State.endNote b s) := by
  unfold State.endNote
  try dsimp only
  repeat' first | (intro _) | with_reducible assumption | with_reducible apply State.modBat_keeps | with_reducible apply foldl_keeps | with_reducible apply ite_keeps | split | with_reducible rfl | with_reducible apply And.intro | (dsimp only [id]; with_reducible assumption)

theorem State.heldEnd_keeps {s₀ : State} (detail : Half) (s : State) (hk : Keeps s₀ s) : Keeps s₀ (State.heldEnd detail s) := by
  unfold State.heldEnd
  try dsimp only
  repeat' first | (intro _) | with_reducible assumption | with_reducible apply State.completeAt_keeps | with_reducible apply State.modBat_keeps | with_reducible apply foldl_keeps | with_reducible apply ite_keeps | split | with_reducible rfl | with_reducible apply And.intro | (dsimp only [id]; with_reducible assumption)

theorem State.heldAbort_keeps {s₀ : State} (s : State) (hk : Keeps s₀ s) : Keeps s₀ (State.heldAbort s) := by
  unfold State.heldAbort
  try dsimp only
  repeat' first | (intro _) | with_reducible assumption | with_reducible apply State.heldEnd_keeps | with_reducible apply State.raise_keeps | with_reducible apply foldl_keeps | with_reducible apply ite_keeps | split | with_reducible rfl | with_reducible apply And.intro | (dsimp only [id]; with_reducible assumption)

theorem State.heldCheck_keeps {s₀ : State} (s : State) (hk : Keeps s₀ s) : Keeps s₀ (State.heldCheck s) := by
  unfold State.heldCheck
  try dsimp only
  repeat' first | (intro _) | with_reducible assumption | with_reducible apply State.heldAbort_keeps | with_reducible apply foldl_keeps | with_reducible apply ite_keeps | split | with_reducible rfl | with_reducible apply And.intro | (dsimp only [id]; with_reducible assumption)

theorem State.heldStart_keeps {s₀ : State} (s : State) (hk : Keeps s₀ s) : Keeps s₀ (State.heldStart s) := by
  unfold State.heldStart
  try dsimp only
  repeat' first | (intro _) | with_reducible assumption | with_reducible apply State.modBat_keeps | with_reducible apply foldl_keeps | with_reducible apply ite_keeps | split | with_reducible rfl | with_reducible apply And.intro | (dsimp only [id]; with_reducible assumption)

theorem State.heldAsk_keeps {s₀ : State} (b : BatCfg) (s : State) (hk : Keeps s₀ s) : Keeps s₀ (State.heldAsk b s) := by
  unfold State.heldAsk
  try dsimp only
  repeat' first | (intro _) | with_reducible assumption | with_reducible apply State.modBat_keeps | with_reducible apply foldl_keeps | with_reducible apply ite_keeps | split | with_reducible rfl | with_reducible apply And.intro | (dsimp only [id]; with_reducible assumption)

theorem execHeldStepStart_keeps {s₀ : State} (s : State) (hk : Keeps s₀ s) : KeepsO s₀ (execHeldStepStart s) := by
  unfold execHeldStepStart
  try dsimp only
  repeat' first | (intro _) | with_reducible assumption | with_reducible apply KeepsO.next | with_reducible apply State.live_keeps | with_reducible apply State.runToFleet_keeps | with_reducible apply State.runToOffset_keeps | with_reducible apply State.heldStart_keeps | with_reducible apply foldl_keeps | with_reducible apply ite_keeps | with_reducible apply iteO_keeps | split | with_reducible rfl | with_reducible apply And.intro | (dsimp only [id]; with_reducible assumption)

theorem execHeldDone_keeps {s₀ : State} (s : State) (hk : Keeps s₀ s) : KeepsO s₀ (execHeldDone s) := by
  unfold execHeldDone
  try dsimp only
  repeat' first | (intro _) | with_reducible assumption | with_reducible apply KeepsO.next | with_reducible apply State.live_keeps | with_reducible apply State.runToFleet_keeps | with_reducible apply State.trueRefTaken_keeps | with_reducible apply State.modBat_keeps | with_reducible apply State.raise_keeps | with_reducible apply State.heldEnd_keeps | with_reducible apply foldl_keeps | with_reducible apply ite_keeps | with_reducible apply iteO_keeps | split | with_reducible rfl | with_reducible apply And.intro | (dsimp only [id]; with_reducible assumption)

theorem State.raiseLevels_keeps {s₀ : State} (base old new : Nat) (s : State) (hk : Keeps s₀ s) : Keeps s₀ (State.raiseLevels base old new s) := by
  unfold State.raiseLevels
  try dsimp only
  repeat' first | (intro _) | with_reducible assumption | with_reducible apply State.raise_keeps | with_reducible apply foldl_keeps | with_reducible apply ite_keeps | split | with_reducible rfl | with_reducible apply And.intro | (dsimp only [id]; with_reducible assumption)

theorem State.batWarn_keeps {s₀ : State} (b : BatCfg) (s : State) (hk : Keeps s₀ s) : Keeps s₀ (State.batWarn b s) := by
  unfold State.batWarn
  try dsimp only
  repeat' first | (intro _) | with_reducible assumption | with_reducible apply State.modBat_keeps | with_reducible apply State.raiseLevels_keeps | with_reducible apply foldl_keeps | with_reducible apply ite_keeps | split | with_reducible rfl | with_reducible apply And.intro | (dsimp only [id]; with_reducible assumption)

theorem State.batSample_keeps {s₀ : State} (v i : Int) (s : State) (hk : Keeps s₀ s) : Keeps s₀ (State.batSample v i s) := by
  unfold State.batSample
  try dsimp only
  repeat' first | (intro _) | with_reducible assumption | with_reducible apply State.modBat_keeps | with_reducible apply foldl_keeps | with_reducible apply ite_keeps | split | with_reducible rfl | with_reducible apply And.intro | (dsimp only [id]; with_reducible assumption)

theorem State.batTick_keeps {s₀ : State} (s : State) (hk : Keeps s₀ s) : Keeps s₀ (State.batTick s) := by
  unfold State.batTick
  try dsimp only
  repeat' first | (intro _) | with_reducible assumption | with_reducible apply State.modBat_keeps | with_reducible apply foldl_keeps | with_reducible apply ite_keeps | split | with_reducible rfl | with_reducible apply And.intro | (dsimp only [id]; with_reducible assumption)

theorem State.batCount_keeps {s₀ : State} (b : BatCfg) (s : State) (hk : Keeps s₀ s) : Keeps s₀ (State.batCount b s) := by
  unfold State.batCount
  try dsimp only
  repeat' first | (intro _) | with_reducible assumption | with_reducible apply State.modBat_keeps | with_reducible apply State.raise_keeps | with_reducible apply foldl_keeps | with_reducible apply ite_keeps | split | with_reducible rfl | with_reducible apply And.intro | (dsimp only [id]; with_reducible assumption)

theorem State.refNote_keeps {s₀ : State} (b : BatCfg) (old : Int) (s : State) (hk : Keeps s₀ s) : Keeps s₀ (State.refNote b old s) := by
  unfold State.refNote
  try dsimp only
  repeat' first | (intro _) | with_reducible assumption | with_reducible apply State.modBat_keeps | with_reducible apply foldl_keeps | with_reducible apply ite_keeps | split | with_reducible rfl | with_reducible apply And.intro | (dsimp only [id]; with_reducible assumption)

theorem State.batRefs_keeps {s₀ : State} (b : BatCfg) (s : State) (hk : Keeps s₀ s) : Keeps s₀ (State.batRefs b s) := by
  unfold State.batRefs
  try dsimp only
  repeat' first | (intro _) | with_reducible assumption | with_reducible apply State.measureCapacity_keeps | with_reducible apply State.trueRefTaken_keeps | with_reducible apply State.modBat_keeps | with_reducible apply State.setSoc_keeps | with_reducible apply foldl_keeps | with_reducible apply ite_keeps | split | with_reducible rfl | with_reducible apply And.intro | (dsimp only [id]; with_reducible assumption)

theorem State.batRestart_keeps {s₀ : State} (b : BatCfg) (s : State) (hk : Keeps s₀ s) : Keeps s₀ (State.batRestart b s) := by
  unfold State.batRestart
  try dsimp only
  repeat' first | (intro _) | with_reducible assumption | with_reducible apply State.modBat_keeps | with_reducible apply State.raise_keeps | with_reducible apply foldl_keeps | with_reducible apply ite_keeps | split | with_reducible rfl | with_reducible apply And.intro | (dsimp only [id]; with_reducible assumption)

theorem State.batRound_keeps {s₀ : State} (s : State) (hk : Keeps s₀ s) : Keeps s₀ (State.batRound s) := by
  unfold State.batRound
  try dsimp only
  repeat' first | (intro _) | with_reducible assumption | with_reducible apply State.modBat_keeps | with_reducible apply State.batRestart_keeps | with_reducible apply State.setSoc_keeps | with_reducible apply State.batCount_keeps | with_reducible apply State.refNote_keeps | with_reducible apply State.endNote_keeps | with_reducible apply State.batEnds_keeps | with_reducible apply State.batRefs_keeps | with_reducible apply State.raise_keeps | with_reducible apply State.batWarn_keeps | with_reducible apply State.heldCheck_keeps | with_reducible apply State.heldAsk_keeps | with_reducible apply State.batStore_keeps | with_reducible apply foldl_keeps | with_reducible apply ite_keeps | split | with_reducible rfl | with_reducible apply And.intro | (dsimp only [id]; with_reducible assumption)

theorem execBatteryEnd_keeps {s₀ : State} (s : State) (hk : Keeps s₀ s) : KeepsO s₀ (execBatteryEnd s) := by
  unfold execBatteryEnd
  try dsimp only
  repeat' first | (intro _) | with_reducible assumption | with_reducible apply KeepsO.next | with_reducible apply State.live_keeps | with_reducible apply State.runTo_keeps | with_reducible apply State.batEnds_keeps | with_reducible apply State.heldCheck_keeps | with_reducible apply foldl_keeps | with_reducible apply ite_keeps | with_reducible apply iteO_keeps | split | with_reducible rfl | with_reducible apply And.intro | (dsimp only [id]; with_reducible assumption)

theorem execBatteryHistoryWrite_keeps {s₀ : State} (s : State) (hk : Keeps s₀ s) : KeepsO s₀ (execBatteryHistoryWrite s) := by
  unfold execBatteryHistoryWrite
  try dsimp only
  repeat' first | (intro _) | with_reducible assumption | with_reducible apply KeepsO.next | with_reducible apply State.live_keeps | with_reducible apply State.runTo_keeps | with_reducible apply State.batStore_keeps | with_reducible apply State.modBat_keeps | with_reducible apply foldl_keeps | with_reducible apply ite_keeps | with_reducible apply iteO_keeps | split | with_reducible rfl | with_reducible apply And.intro | (dsimp only [id]; with_reducible assumption)

theorem execStepMeasurement_keeps {s₀ : State} (v1 i1 v2 i2 : Int) (spread : Nat) (s : State) (hk : Keeps s₀ s) : KeepsO s₀ (execStepMeasurement v1 i1 v2 i2 spread s) := by
  unfold execStepMeasurement
  try dsimp only
  repeat' first | (intro _) | with_reducible assumption | with_reducible apply KeepsO.next | with_reducible apply State.live_keeps | with_reducible apply State.runTo_keeps | with_reducible apply State.modBat_keeps | with_reducible apply foldl_keeps | with_reducible apply ite_keeps | with_reducible apply iteO_keeps | split | with_reducible rfl | with_reducible apply And.intro | (dsimp only [id]; with_reducible assumption)

theorem State.batLatch_keeps {s₀ : State} (s : State) (hk : Keeps s₀ s) : Keeps s₀ (State.batLatch s) := by
  unfold State.batLatch
  try dsimp only
  repeat' first | (intro _) | with_reducible assumption | with_reducible apply State.modBat_keeps | with_reducible apply foldl_keeps | with_reducible apply ite_keeps | split | with_reducible rfl | with_reducible apply And.intro | (dsimp only [id]; with_reducible assumption)

theorem State.batGrantSet_keeps {s₀ : State} (g : Int) (s : State) (hk : Keeps s₀ s) : Keeps s₀ (State.batGrantSet g s) := by
  unfold State.batGrantSet
  try dsimp only
  repeat' first | (intro _) | with_reducible assumption | with_reducible apply State.useFree_keeps | with_reducible apply State.modBat_keeps | with_reducible apply foldl_keeps | with_reducible apply ite_keeps | split | with_reducible rfl | with_reducible apply And.intro | (dsimp only [id]; with_reducible assumption)

theorem execBakEstimate_keeps {s₀ : State} (s : State) (hk : Keeps s₀ s) : KeepsO s₀ (execBakEstimate s) := by
  unfold execBakEstimate
  try dsimp only
  repeat' first | (intro _) | with_reducible assumption | with_reducible apply KeepsO.next | with_reducible apply State.live_keeps | with_reducible apply State.runTo_keeps | with_reducible apply State.modBat_keeps | with_reducible apply State.raise_keeps | with_reducible apply foldl_keeps | with_reducible apply ite_keeps | with_reducible apply iteO_keeps | split | with_reducible rfl | with_reducible apply And.intro | (dsimp only [id]; with_reducible assumption)

theorem execBatHeldStep_keeps {s₀ : State} (r : Ring) (d : Desc) (s : State) (hk : Keeps s₀ s) : KeepsO s₀ (execBatHeldStep r d s) := by
  unfold execBatHeldStep
  try dsimp only
  repeat' first | (intro _) | with_reducible assumption | with_reducible apply KeepsO.next | with_reducible apply State.work_keeps | with_reducible apply State.modBat_keeps | with_reducible apply foldl_keeps | with_reducible apply ite_keeps | with_reducible apply iteO_keeps | split | with_reducible rfl | with_reducible apply And.intro | (dsimp only [id]; with_reducible assumption)

theorem execBatShip_keeps {s₀ : State} (r : Ring) (d : Desc) (s : State) (hk : Keeps s₀ s) : KeepsO s₀ (execBatShip r d s) := by
  unfold execBatShip
  try dsimp only
  repeat' first | (intro _) | with_reducible assumption | with_reducible apply KeepsO.next | with_reducible apply State.work_keeps | with_reducible apply State.modBat_keeps | with_reducible apply State.complete_keeps | with_reducible apply foldl_keeps | with_reducible apply ite_keeps | with_reducible apply iteO_keeps | split | with_reducible rfl | with_reducible apply And.intro | (dsimp only [id]; with_reducible assumption)

end Sys2Proof.Machine
end

