-- ==== Sys2Proof/Laws/KeepsMatrix.lean ====
section
/-! SUPPORT. What the operations of Machine/Matrix.lean keep: the queue, the variant, the canonical form of the stores. -/
namespace Sys2Proof.Machine

theorem State.mtxClose_keeps {s₀ : State} (k : Nat) (n : Phase) (s : State) (hk : Keeps s₀ s) : Keeps s₀ (State.mtxClose k n s) := by
  unfold State.mtxClose
  try dsimp only
  repeat' first | (intro _) | with_reducible assumption | with_reducible apply State.hold_keeps | with_reducible apply State.modMtx_keeps | with_reducible apply foldl_keeps | with_reducible apply ite_keeps | split | with_reducible rfl | with_reducible apply And.intro | (dsimp only [id]; with_reducible assumption)

theorem State.passMtx_keeps {s₀ : State} (k : Nat) (n : Phase) (s : State) (hk : Keeps s₀ s) : Keeps s₀ (State.passMtx k n s) := by
  unfold State.passMtx
  try dsimp only
  repeat' first | (intro _) | with_reducible assumption | with_reducible apply State.modMtx_keeps | with_reducible apply foldl_keeps | with_reducible apply ite_keeps | split | with_reducible rfl | with_reducible apply And.intro | (dsimp only [id]; with_reducible assumption)

theorem State.mtxOpen_keeps {s₀ : State} (k : Nat) (n : Phase) (s : State) (hk : Keeps s₀ s) : Keeps s₀ (State.mtxOpen k n s) := by
  unfold State.mtxOpen
  try dsimp only
  repeat' first | (intro _) | with_reducible assumption | with_reducible apply State.modMtx_keeps | with_reducible apply foldl_keeps | with_reducible apply ite_keeps | split | with_reducible rfl | with_reducible apply And.intro | (dsimp only [id]; with_reducible assumption)

theorem State.setMove_keeps {s₀ : State} (n : Phase) (v : Option MoveSt) (s : State) (hk : Keeps s₀ s) : Keeps s₀ (State.setMove n v s) := by
  unfold State.setMove
  try dsimp only
  repeat' first | (intro _) | with_reducible assumption | with_reducible apply State.modMtx_keeps | with_reducible apply foldl_keeps | with_reducible apply ite_keeps | split | with_reducible rfl | with_reducible apply And.intro | (dsimp only [id]; with_reducible assumption)

theorem State.assign_keeps {s₀ : State} (n : Phase) (o : Option Outlet) (s : State) (hk : Keeps s₀ s) : Keeps s₀ (State.assign n o s) := by
  unfold State.assign
  try dsimp only
  repeat' first | (intro _) | with_reducible assumption | with_reducible apply State.modMtx_keeps | with_reducible apply foldl_keeps | with_reducible apply ite_keeps | split | with_reducible rfl | with_reducible apply And.intro | (dsimp only [id]; with_reducible assumption)

theorem State.moveClose_keeps {s₀ : State} (n : Phase) (src : Option Outlet) (dst : Outlet) (homing : Bool) (s : State) (hk : Keeps s₀ s) : Keeps s₀ (State.moveClose n src dst homing s) := by
  unfold State.moveClose
  try dsimp only
  repeat' first | (intro _) | with_reducible assumption | with_reducible apply State.setMove_keeps | with_reducible apply State.mtxClose_keeps | with_reducible apply foldl_keeps | with_reducible apply ite_keeps | split | with_reducible rfl | with_reducible apply And.intro | (dsimp only [id]; with_reducible assumption)

theorem State.moveStart_keeps {s₀ : State} (n : Phase) (dst : Outlet) (s : State) (hk : Keeps s₀ s) : Keeps s₀ (State.moveStart n dst s) := by
  unfold State.moveStart
  try dsimp only
  repeat' first | (intro _) | with_reducible assumption | with_reducible apply State.moveClose_keeps | with_reducible apply State.setMove_keeps | with_reducible apply State.applyMasks_keeps | with_reducible apply State.relimit_keeps | with_reducible apply foldl_keeps | with_reducible apply ite_keeps | split | with_reducible rfl | with_reducible apply And.intro | (dsimp only [id]; with_reducible assumption)

theorem State.moveJoin_keeps {s₀ : State} (n : Phase) (v : MoveSt) (s : State) (hk : Keeps s₀ s) : Keeps s₀ (State.moveJoin n v s) := by
  unfold State.moveJoin
  try dsimp only
  repeat' first | (intro _) | with_reducible assumption | with_reducible apply State.setMove_keeps | with_reducible apply State.restMasks_keeps | with_reducible apply State.assign_keeps | with_reducible apply State.relimit_keeps | with_reducible apply State.checkReady_keeps | with_reducible apply foldl_keeps | with_reducible apply ite_keeps | split | with_reducible rfl | with_reducible apply And.intro | (dsimp only [id]; with_reducible assumption)

theorem State.moveCount_keeps {s₀ : State} (n : Phase) (s : State) (hk : Keeps s₀ s) : Keeps s₀ (State.moveCount n s) := by
  unfold State.moveCount
  try dsimp only
  repeat' first | (intro _) | with_reducible assumption | with_reducible apply State.setMove_keeps | with_reducible apply State.assign_keeps | with_reducible apply State.joinGroup_keeps | with_reducible apply State.checkReady_keeps | with_reducible apply foldl_keeps | with_reducible apply ite_keeps | split | with_reducible rfl | with_reducible apply And.intro | (dsimp only [id]; with_reducible assumption)

theorem State.moveAbandon_keeps {s₀ : State} (n : Phase) (src dst : Outlet) (s : State) (hk : Keeps s₀ s) : Keeps s₀ (State.moveAbandon n src dst s) := by
  unfold State.moveAbandon
  try dsimp only
  repeat' first | (intro _) | with_reducible assumption | with_reducible apply State.setMove_keeps | with_reducible apply State.restMasks_keeps | with_reducible apply State.relimit_keeps | with_reducible apply State.raise_keeps | with_reducible apply foldl_keeps | with_reducible apply ite_keeps | split | with_reducible rfl | with_reducible apply And.intro | (dsimp only [id]; with_reducible assumption)

theorem State.matrixWeld_keeps {s₀ : State} (n : Phase) (o : Outlet) (s : State) (hk : Keeps s₀ s) : Keeps s₀ (State.matrixWeld n o s) := by
  unfold State.matrixWeld
  try dsimp only
  repeat' first | (intro _) | with_reducible assumption | with_reducible apply State.modMtx_keeps | with_reducible apply State.retire_keeps | with_reducible apply State.raise_keeps | with_reducible apply State.checkReady_keeps | with_reducible apply foldl_keeps | with_reducible apply ite_keeps | split | with_reducible rfl | with_reducible apply And.intro | (dsimp only [id]; with_reducible assumption)

theorem State.moveFail_keeps {s₀ : State} (n : Phase) (dst : Outlet) (s : State) (hk : Keeps s₀ s) : Keeps s₀ (State.moveFail n dst s) := by
  unfold State.moveFail
  try dsimp only
  repeat' first | (intro _) | with_reducible assumption | with_reducible apply State.mtxOpen_keeps | with_reducible apply State.setMove_keeps | with_reducible apply State.assign_keeps | with_reducible apply State.restMasks_keeps | with_reducible apply State.raise_keeps | with_reducible apply State.checkReady_keeps | with_reducible apply foldl_keeps | with_reducible apply ite_keeps | split | with_reducible rfl | with_reducible apply And.intro | (dsimp only [id]; with_reducible assumption)

theorem State.moveMiss_keeps {s₀ : State} (n : Phase) (s : State) (hk : Keeps s₀ s) : Keeps s₀ (State.moveMiss n s) := by
  unfold State.moveMiss
  try dsimp only
  repeat' first | (intro _) | with_reducible assumption | with_reducible apply State.moveAbandon_keeps | with_reducible apply State.matrixWeld_keeps | with_reducible apply State.moveFail_keeps | with_reducible apply foldl_keeps | with_reducible apply ite_keeps | split | with_reducible rfl | with_reducible apply And.intro | (dsimp only [id]; with_reducible assumption)

theorem execMoveTimeout_keeps {s₀ : State} (n : Phase) (s : State) (hk : Keeps s₀ s) : KeepsO s₀ (execMoveTimeout n s) := by
  unfold execMoveTimeout
  try dsimp only
  repeat' first | (intro _) | with_reducible assumption | with_reducible apply KeepsO.next | with_reducible apply State.live_keeps | with_reducible apply State.runTo_keeps | with_reducible apply State.moveMiss_keeps | with_reducible apply foldl_keeps | with_reducible apply ite_keeps | with_reducible apply iteO_keeps | split | with_reducible rfl | with_reducible apply And.intro | (dsimp only [id]; with_reducible assumption)

theorem State.moveOpen_keeps {s₀ : State} (n : Phase) (s : State) (hk : Keeps s₀ s) : Keeps s₀ (State.moveOpen n s) := by
  unfold State.moveOpen
  try dsimp only
  repeat' first | (intro _) | with_reducible assumption | with_reducible apply State.setMove_keeps | with_reducible apply State.mtxOpen_keeps | with_reducible apply foldl_keeps | with_reducible apply ite_keeps | split | with_reducible rfl | with_reducible apply And.intro | (dsimp only [id]; with_reducible assumption)

theorem execMoveCurrentZero_keeps {s₀ : State} (n : Phase) (s : State) (hk : Keeps s₀ s) : KeepsO s₀ (execMoveCurrentZero n s) := by
  unfold execMoveCurrentZero
  try dsimp only
  repeat' first | (intro _) | with_reducible assumption | with_reducible apply KeepsO.next | with_reducible apply State.live_keeps | with_reducible apply State.moveOpen_keeps | with_reducible apply foldl_keeps | with_reducible apply ite_keeps | with_reducible apply iteO_keeps | split | with_reducible rfl | with_reducible apply And.intro | (dsimp only [id]; with_reducible assumption)

theorem execMatrixFeedback_keeps {s₀ : State} (k : HkChan) (closed : Bool) (s : State) (hk : Keeps s₀ s) : KeepsO s₀ (execMatrixFeedback k closed s) := by
  unfold execMatrixFeedback
  try dsimp only
  repeat' first | (intro _) | with_reducible assumption | with_reducible apply KeepsO.next | with_reducible apply State.live_keeps | with_reducible apply State.modMtx_keeps | with_reducible apply State.moveClose_keeps | with_reducible apply State.moveJoin_keeps | with_reducible apply State.matrixWeld_keeps | with_reducible apply foldl_keeps | with_reducible apply ite_keeps | with_reducible apply iteO_keeps | split | with_reducible rfl | with_reducible apply And.intro | (dsimp only [id]; with_reducible assumption)

theorem State.serve_keeps {s₀ : State} (o : Outlet) (s : State) (hk : Keeps s₀ s) : Keeps s₀ (State.serve o s) := by
  unfold State.serve
  try dsimp only
  repeat' first | (intro _) | with_reducible assumption | with_reducible apply State.forAll_keeps | with_reducible apply State.moveStart_keeps | with_reducible apply foldl_keeps | with_reducible apply ite_keeps | split | with_reducible rfl | with_reducible apply And.intro | (dsimp only [id]; with_reducible assumption)

theorem State.moveDecide_keeps {s₀ : State} (s : State) (hk : Keeps s₀ s) : Keeps s₀ (State.moveDecide s) := by
  unfold State.moveDecide
  try dsimp only
  repeat' first | (intro _) | with_reducible assumption | with_reducible apply State.forAll_keeps | with_reducible apply State.serve_keeps | with_reducible apply foldl_keeps | with_reducible apply ite_keeps | split | with_reducible rfl | with_reducible apply And.intro | (dsimp only [id]; with_reducible assumption)

theorem State.moveStops_keeps {s₀ : State} (s : State) (hk : Keeps s₀ s) : Keeps s₀ (State.moveStops s) := by
  unfold State.moveStops
  try dsimp only
  repeat' first | (intro _) | with_reducible assumption | with_reducible apply State.forAll_keeps | with_reducible apply State.endMove_keeps | with_reducible apply State.restMasks_keeps | with_reducible apply State.checkReady_keeps | with_reducible apply foldl_keeps | with_reducible apply ite_keeps | split | with_reducible rfl | with_reducible apply And.intro | (dsimp only [id]; with_reducible assumption)

theorem State.homeStart_keeps {s₀ : State} (s : State) (hk : Keeps s₀ s) : Keeps s₀ (State.homeStart s) := by
  unfold State.homeStart
  try dsimp only
  repeat' first | (intro _) | with_reducible assumption | with_reducible apply State.forAll_keeps | with_reducible apply State.moveClose_keeps | with_reducible apply State.checkReady_keeps | with_reducible apply foldl_keeps | with_reducible apply ite_keeps | split | with_reducible rfl | with_reducible apply And.intro | (dsimp only [id]; with_reducible assumption)

end Sys2Proof.Machine
end

