-- ==== Sys2Proof/Laws/KeepsThermal.lean ====
section
/-! SUPPORT. What the operations of Machine/Thermal.lean keep: the queue, the variant, the canonical form of the stores. -/
namespace Sys2Proof.Machine

theorem State.hkLoad_keeps {s₀ : State} (inp : HkIn) (s : State) (hk : Keeps s₀ s) : Keeps s₀ (State.hkLoad inp s) := by
  unfold State.hkLoad
  try dsimp only
  repeat' first | (intro _) | with_reducible assumption | with_reducible apply State.modThm_keeps | with_reducible apply State.raise_keeps | with_reducible apply foldl_keeps | with_reducible apply ite_keeps | split | with_reducible rfl | with_reducible apply And.intro | (dsimp only [id]; with_reducible assumption)

theorem State.loopFlow_keeps {s₀ : State} (l : Fin 4) (s : State) (hk : Keeps s₀ s) : Keeps s₀ (State.loopFlow l s) := by
  unfold State.loopFlow
  try dsimp only
  repeat' first | (intro _) | with_reducible assumption | with_reducible apply State.modThm_keeps | with_reducible apply State.raise_keeps | with_reducible apply foldl_keeps | with_reducible apply ite_keeps | split | with_reducible rfl | with_reducible apply And.intro | (dsimp only [id]; with_reducible assumption)

theorem execFlowFault_keeps {s₀ : State} (l : Fin 4) (s : State) (hk : Keeps s₀ s) : KeepsO s₀ (execFlowFault l s) := by
  unfold execFlowFault
  try dsimp only
  repeat' first | (intro _) | with_reducible assumption | with_reducible apply KeepsO.next | with_reducible apply State.live_keeps | with_reducible apply State.runTo_keeps | with_reducible apply State.loopFlow_keeps | with_reducible apply foldl_keeps | with_reducible apply ite_keeps | with_reducible apply iteO_keeps | split | with_reducible rfl | with_reducible apply And.intro | (dsimp only [id]; with_reducible assumption)

theorem State.setAux_keeps {s₀ : State} (a : Aux) (period duty : Nat) (s : State) (hk : Keeps s₀ s) : Keeps s₀ (State.setAux a period duty s) := by
  unfold State.setAux
  try dsimp only
  repeat' first | (intro _) | with_reducible assumption | with_reducible apply State.modAux_keeps | with_reducible apply State.auxCommit_keeps | with_reducible apply foldl_keeps | with_reducible apply ite_keeps | split | with_reducible rfl | with_reducible apply And.intro | (dsimp only [id]; with_reducible assumption)

theorem State.setDuties_keeps {s₀ : State} (s : State) (hk : Keeps s₀ s) : Keeps s₀ (State.setDuties s) := by
  unfold State.setDuties
  try dsimp only
  repeat' first | (intro _) | with_reducible assumption | with_reducible apply State.forAll_keeps | with_reducible apply State.useFree_keeps | with_reducible apply State.modThm_keeps | with_reducible apply State.setAux_keeps | with_reducible apply foldl_keeps | with_reducible apply ite_keeps | split | with_reducible rfl | with_reducible apply And.intro | (dsimp only [id]; with_reducible assumption)

theorem State.writeFailsafe_keeps {s₀ : State} (s : State) (hk : Keeps s₀ s) : Keeps s₀ (State.writeFailsafe s) := by
  unfold State.writeFailsafe
  try dsimp only
  repeat' first | (intro _) | with_reducible assumption | with_reducible apply State.forAll_keeps | with_reducible apply State.modAux_keeps | with_reducible apply foldl_keeps | with_reducible apply ite_keeps | split | with_reducible rfl | with_reducible apply And.intro | (dsimp only [id]; with_reducible assumption)

theorem execDrivePoll_keeps {s₀ : State} (n : Fin 8) (s : State) (hk : Keeps s₀ s) : KeepsO s₀ (execDrivePoll n s) := by
  unfold execDrivePoll
  try dsimp only
  repeat' first | (intro _) | with_reducible assumption | with_reducible apply KeepsO.next | with_reducible apply State.live_keeps | with_reducible apply State.runTo_keeps | with_reducible apply State.modThm_keeps | with_reducible apply foldl_keeps | with_reducible apply ite_keeps | with_reducible apply iteO_keeps | split | with_reducible rfl | with_reducible apply And.intro | (dsimp only [id]; with_reducible assumption)

theorem execDriveResponse_keeps {s₀ : State} (n : Fin 8) (flow : Option Nat) (temp : Option Int) (s : State) (hk : Keeps s₀ s) : KeepsO s₀ (execDriveResponse n flow temp s) := by
  unfold execDriveResponse
  try dsimp only
  repeat' first | (intro _) | with_reducible assumption | with_reducible apply KeepsO.next | with_reducible apply State.live_keeps | with_reducible apply State.modThm_keeps | with_reducible apply foldl_keeps | with_reducible apply ite_keeps | with_reducible apply iteO_keeps | split | with_reducible rfl | with_reducible apply And.intro | (dsimp only [id]; with_reducible assumption)

theorem execDriveResponseTimeout_keeps {s₀ : State} (n : Fin 8) (s : State) (hk : Keeps s₀ s) : KeepsO s₀ (execDriveResponseTimeout n s) := by
  unfold execDriveResponseTimeout
  try dsimp only
  repeat' first | (intro _) | with_reducible assumption | with_reducible apply KeepsO.next | with_reducible apply State.live_keeps | with_reducible apply State.runTo_keeps | with_reducible apply State.modThm_keeps | with_reducible apply State.raise_keeps | with_reducible apply State.forAll_keeps | with_reducible apply State.loopFlow_keeps | with_reducible apply foldl_keeps | with_reducible apply ite_keeps | with_reducible apply iteO_keeps | split | with_reducible rfl | with_reducible apply And.intro | (dsimp only [id]; with_reducible assumption)

theorem State.feather_keeps {s₀ : State} (o : Outlet) (s : State) (hk : Keeps s₀ s) : Keeps s₀ (State.feather o s) := by
  unfold State.feather
  try dsimp only
  repeat' first | (intro _) | with_reducible assumption | with_reducible apply State.modThm_keeps | with_reducible apply State.raise_keeps | with_reducible apply foldl_keeps | with_reducible apply ite_keeps | split | with_reducible rfl | with_reducible apply And.intro | (dsimp only [id]; with_reducible assumption)

theorem State.hardLimit_keeps {s₀ : State} (o : Outlet) (s : State) (hk : Keeps s₀ s) : Keeps s₀ (State.hardLimit o s) := by
  unfold State.hardLimit
  try dsimp only
  repeat' first | (intro _) | with_reducible assumption | with_reducible apply State.modThm_keeps | with_reducible apply State.raise_keeps | with_reducible apply State.raiseOut_keeps | with_reducible apply State.clearOut_keeps | with_reducible apply foldl_keeps | with_reducible apply ite_keeps | split | with_reducible rfl | with_reducible apply And.intro | (dsimp only [id]; with_reducible assumption)

theorem State.dieRound_keeps {s₀ : State} (s : State) (hk : Keeps s₀ s) : Keeps s₀ (State.dieRound s) := by
  unfold State.dieRound
  try dsimp only
  repeat' first | (intro _) | with_reducible assumption | with_reducible apply State.modThm_keeps | with_reducible apply State.stopAllOutlets_keeps | with_reducible apply State.raise_keeps | with_reducible apply State.clearGlb_keeps | with_reducible apply foldl_keeps | with_reducible apply ite_keeps | split | with_reducible rfl | with_reducible apply And.intro | (dsimp only [id]; with_reducible assumption)

theorem State.dieSettle_keeps {s₀ : State} (s : State) (hk : Keeps s₀ s) : Keeps s₀ (State.dieSettle s) := by
  unfold State.dieSettle
  try dsimp only
  repeat' first | (intro _) | with_reducible assumption | with_reducible apply State.clearAllEn_keeps | with_reducible apply State.modThm_keeps | with_reducible apply foldl_keeps | with_reducible apply ite_keeps | split | with_reducible rfl | with_reducible apply And.intro | (dsimp only [id]; with_reducible assumption)

theorem execDieTrip_keeps {s₀ : State} (temp : Int) (s : State) (hk : Keeps s₀ s) : KeepsO s₀ (execDieTrip temp s) := by
  unfold execDieTrip
  try dsimp only
  repeat' first | (intro _) | with_reducible assumption | with_reducible apply KeepsO.next | with_reducible apply State.live_keeps | with_reducible apply State.modThm_keeps | with_reducible apply State.raise_keeps | with_reducible apply State.raiseGlb_keeps | with_reducible apply foldl_keeps | with_reducible apply ite_keeps | with_reducible apply iteO_keeps | split | with_reducible rfl | with_reducible apply And.intro | (dsimp only [id]; with_reducible assumption)

theorem State.flushWaiting_keeps {s₀ : State} (s : State) (hk : Keeps s₀ s) : Keeps s₀ (State.flushWaiting s) := by
  unfold State.flushWaiting
  try dsimp only
  repeat' first | (intro _) | with_reducible assumption | with_reducible apply State.storeRec_keeps | with_reducible apply State.modDia_keeps | with_reducible apply State.modDlv_keeps | with_reducible apply foldl_keeps | with_reducible apply ite_keeps | split | with_reducible rfl | with_reducible apply And.intro | (dsimp only [id]; with_reducible assumption)

theorem State.mramWindow_keeps {s₀ : State} (s : State) (hk : Keeps s₀ s) : Keeps s₀ (State.mramWindow s) := by
  unfold State.mramWindow
  try dsimp only
  repeat' first | (intro _) | with_reducible assumption | with_reducible apply State.modThm_keeps | with_reducible apply State.raise_keeps | with_reducible apply State.flushWaiting_keeps | with_reducible apply foldl_keeps | with_reducible apply ite_keeps | split | with_reducible rfl | with_reducible apply And.intro | (dsimp only [id]; with_reducible assumption)

theorem State.batWindowEval_keeps {s₀ : State} (s : State) (hk : Keeps s₀ s) : Keeps s₀ (State.batWindowEval s) := by
  unfold State.batWindowEval
  try dsimp only
  repeat' first | (intro _) | with_reducible assumption | with_reducible apply State.modThm_keeps | with_reducible apply State.raise_keeps | with_reducible apply foldl_keeps | with_reducible apply ite_keeps | split | with_reducible rfl | with_reducible apply And.intro | (dsimp only [id]; with_reducible assumption)

theorem State.bakWindow_keeps {s₀ : State} (s : State) (hk : Keeps s₀ s) : Keeps s₀ (State.bakWindow s) := by
  unfold State.bakWindow
  try dsimp only
  repeat' first | (intro _) | with_reducible assumption | with_reducible apply State.modThm_keeps | with_reducible apply State.modPwr_keeps | with_reducible apply State.raise_keeps | with_reducible apply foldl_keeps | with_reducible apply ite_keeps | split | with_reducible rfl | with_reducible apply And.intro | (dsimp only [id]; with_reducible assumption)

theorem State.heatSink_keeps {s₀ : State} (n : Phase) (s : State) (hk : Keeps s₀ s) : Keeps s₀ (State.heatSink n s) := by
  unfold State.heatSink
  try dsimp only
  repeat' first | (intro _) | with_reducible assumption | with_reducible apply State.modRegCh_keeps | with_reducible apply State.raise_keeps | with_reducible apply foldl_keeps | with_reducible apply ite_keeps | split | with_reducible rfl | with_reducible apply And.intro | (dsimp only [id]; with_reducible assumption)

theorem State.heatSinkTick_keeps {s₀ : State} (n : Phase) (s : State) (hk : Keeps s₀ s) : Keeps s₀ (State.heatSinkTick n s) := by
  unfold State.heatSinkTick
  try dsimp only
  repeat' first | (intro _) | with_reducible assumption | with_reducible apply State.retire_keeps | with_reducible apply State.modRegCh_keeps | with_reducible apply State.phaseBack_keeps | with_reducible apply State.releaseMasks_keeps | with_reducible apply State.relimit_keeps | with_reducible apply foldl_keeps | with_reducible apply ite_keeps | split | with_reducible rfl | with_reducible apply And.intro | (dsimp only [id]; with_reducible assumption)

theorem State.thermalRound_keeps {s₀ : State} (inp : HkIn) (s : State) (hk : Keeps s₀ s) : Keeps s₀ (State.thermalRound inp s) := by
  unfold State.thermalRound
  try dsimp only
  repeat' first | (intro _) | with_reducible assumption | with_reducible apply State.hkLoad_keeps | with_reducible apply State.forAll_keeps | with_reducible apply State.heatSink_keeps | with_reducible apply State.dieRound_keeps | with_reducible apply State.loopFlow_keeps | with_reducible apply State.feather_keeps | with_reducible apply State.hardLimit_keeps | with_reducible apply State.setDuties_keeps | with_reducible apply State.mramWindow_keeps | with_reducible apply State.batWindowEval_keeps | with_reducible apply State.bakWindow_keeps | with_reducible apply foldl_keeps | with_reducible apply ite_keeps | split | with_reducible rfl | with_reducible apply And.intro | (dsimp only [id]; with_reducible assumption)

end Sys2Proof.Machine
end

