-- ==== Sys2Proof/Laws/KeepsMetrology.lean ====
section
/-! SUPPORT. What the operations of Machine/Metrology.lean keep: the queue, the variant, the canonical form of the stores. -/
namespace Sys2Proof.Machine

theorem State.setShifts_keeps {s₀ : State} (s : State) (hk : Keeps s₀ s) : Keeps s₀ (State.setShifts s) := by
  unfold State.setShifts
  try dsimp only
  repeat' first | (intro _) | with_reducible assumption | with_reducible apply State.modMet_keeps | with_reducible apply foldl_keeps | with_reducible apply ite_keeps | split | with_reducible rfl | with_reducible apply And.intro | (dsimp only [id]; with_reducible assumption)

theorem State.laneTerms_keeps {s₀ : State} (s : State) (hk : Keeps s₀ s) : Keeps s₀ (State.laneTerms s) := by
  unfold State.laneTerms
  try dsimp only
  repeat' first | (intro _) | with_reducible assumption | with_reducible apply State.modMet_keeps | with_reducible apply State.setShifts_keeps | with_reducible apply State.cond_keeps | with_reducible apply State.raise_keeps | with_reducible apply foldl_keeps | with_reducible apply ite_keeps | split | with_reducible rfl | with_reducible apply And.intro | (dsimp only [id]; with_reducible assumption)

theorem State.withErr_keeps {s₀ : State} (f : State → State) (s : State) (hf : ∀ t, Keeps s₀ t → Keeps s₀ (f t)) (hk : Keeps s₀ s) : Keeps s₀ (State.withErr f s) := by
  unfold State.withErr
  try dsimp only
  repeat' first | (intro _) | with_reducible assumption | with_reducible apply State.cond_keeps | with_reducible apply State.raise_keeps | apply hf | with_reducible apply foldl_keeps | with_reducible apply ite_keeps | split | with_reducible rfl | with_reducible apply And.intro | (dsimp only [id]; with_reducible assumption)

theorem State.laneBad_keeps {s₀ : State} (n : MLane) (s : State) (hk : Keeps s₀ s) : Keeps s₀ (State.laneBad n s) := by
  unfold State.laneBad
  try dsimp only
  repeat' first | (intro _) | with_reducible assumption | with_reducible apply State.modMet_keeps | with_reducible apply foldl_keeps | with_reducible apply ite_keeps | split | with_reducible rfl | with_reducible apply And.intro | (dsimp only [id]; with_reducible assumption)

theorem execLaneFault_keeps {s₀ : State} (n : MLane) (bits : List Bool) (s : State) (hk : Keeps s₀ s) : KeepsO s₀ (execLaneFault n bits s) := by
  unfold execLaneFault
  try dsimp only
  repeat' first | (intro _) | with_reducible assumption | with_reducible apply KeepsO.next | with_reducible apply State.live_keeps | with_reducible apply State.laneBad_keeps | with_reducible apply State.modDia_keeps | with_reducible apply State.withErr_keeps | with_reducible apply State.modMet_keeps | with_reducible apply State.raiseAt_keeps | with_reducible apply foldl_keeps | with_reducible apply ite_keeps | with_reducible apply iteO_keeps | split | with_reducible rfl | with_reducible apply And.intro | (dsimp only [id]; with_reducible assumption)

theorem execLaneClear_keeps {s₀ : State} (n : MLane) (s : State) (hk : Keeps s₀ s) : KeepsO s₀ (execLaneClear n s) := by
  unfold execLaneClear
  try dsimp only
  repeat' first | (intro _) | with_reducible assumption | with_reducible apply KeepsO.next | with_reducible apply State.live_keeps | with_reducible apply State.runTo_keeps | with_reducible apply State.modMet_keeps | with_reducible apply State.raiseAt_keeps | with_reducible apply foldl_keeps | with_reducible apply ite_keeps | with_reducible apply iteO_keeps | split | with_reducible rfl | with_reducible apply And.intro | (dsimp only [id]; with_reducible assumption)

theorem State.capturePut_keeps {s₀ : State} (b : Byte) (s : State) (hk : Keeps s₀ s) : Keeps s₀ (State.capturePut b s) := by
  unfold State.capturePut
  try dsimp only
  repeat' first | (intro _) | with_reducible assumption | with_reducible apply State.memWrite_keeps | with_reducible apply State.modMet_keeps | with_reducible apply foldl_keeps | with_reducible apply ite_keeps | split | with_reducible rfl | with_reducible apply And.intro | (dsimp only [id]; with_reducible assumption)

theorem State.captureFeed_keeps {s₀ : State} (v : Vector Int 24) (x : LegalIn) (s : State) (hk : Keeps s₀ s) : Keeps s₀ (State.captureFeed v x s) := by
  unfold State.captureFeed
  try dsimp only
  repeat' first | (intro _) | with_reducible assumption | with_reducible apply State.capturePut_keeps | with_reducible apply State.modMet_keeps | with_reducible apply foldl_keeps | with_reducible apply ite_keeps | split | with_reducible rfl | with_reducible apply And.intro | (dsimp only [id]; with_reducible assumption)

theorem execLegalSample_keeps {s₀ : State} (x : LegalIn) (s : State) (hk : Keeps s₀ s) : KeepsO s₀ (execLegalSample x s) := by
  unfold execLegalSample
  try dsimp only
  repeat' first | (intro _) | with_reducible assumption | with_reducible apply KeepsO.next | with_reducible apply State.live_keeps | with_reducible apply State.runTo_keeps | with_reducible apply State.modMet_keeps | with_reducible apply State.batSample_keeps | with_reducible apply State.captureFeed_keeps | with_reducible apply foldl_keeps | with_reducible apply ite_keeps | with_reducible apply iteO_keeps | split | with_reducible rfl | with_reducible apply And.intro | (dsimp only [id]; with_reducible assumption)

theorem State.liveRecord_keeps {s₀ : State} (tick : Nat) (s : State) (hk : Keeps s₀ s) : Keeps s₀ (State.liveRecord tick s) := by
  unfold State.liveRecord
  try dsimp only
  repeat' first | (intro _) | with_reducible assumption | with_reducible apply State.modMet_keeps | with_reducible apply State.live_keeps | with_reducible apply foldl_keeps | with_reducible apply ite_keeps | split | with_reducible rfl | with_reducible apply And.intro | (dsimp only [id]; with_reducible assumption)

theorem State.modCore_keeps {s₀ : State} (f : BilCore → BilCore) (s : State) (hk : Keeps s₀ s) : Keeps s₀ (State.modCore f s) := by
  unfold State.modCore
  try dsimp only
  repeat' first | (intro _) | with_reducible assumption | with_reducible apply State.modBil_keeps | with_reducible apply foldl_keeps | with_reducible apply ite_keeps | split | with_reducible rfl | with_reducible apply And.intro | (dsimp only [id]; with_reducible assumption)

theorem State.netNote_keeps {s₀ : State} (k : Fin 9) (e : Int) (negative : Bool) (s : State) (hk : Keeps s₀ s) : Keeps s₀ (State.netNote k e negative s) := by
  unfold State.netNote
  try dsimp only
  repeat' first | (intro _) | with_reducible assumption | with_reducible apply State.modMet_keeps | with_reducible apply State.cond_keeps | with_reducible apply State.modCore_keeps | with_reducible apply State.modBil_keeps | with_reducible apply foldl_keeps | with_reducible apply ite_keeps | split | with_reducible rfl | with_reducible apply And.intro | (dsimp only [id]; with_reducible assumption)

theorem State.closeOutlet_keeps {s₀ : State} (o : Outlet) (s : State) (hk : Keeps s₀ s) : Keeps s₀ (State.closeOutlet o s) := by
  unfold State.closeOutlet
  try dsimp only
  repeat' first | (intro _) | with_reducible assumption | with_reducible apply State.netNote_keeps | with_reducible apply State.modCore_keeps | with_reducible apply State.modMet_keeps | with_reducible apply foldl_keeps | with_reducible apply ite_keeps | split | with_reducible rfl | with_reducible apply And.intro | (dsimp only [id]; with_reducible assumption)

theorem State.closeGrid_keeps {s₀ : State} (s : State) (hk : Keeps s₀ s) : Keeps s₀ (State.closeGrid s) := by
  unfold State.closeGrid
  try dsimp only
  repeat' first | (intro _) | with_reducible assumption | with_reducible apply State.netNote_keeps | with_reducible apply State.modCore_keeps | with_reducible apply State.modMet_keeps | with_reducible apply foldl_keeps | with_reducible apply ite_keeps | split | with_reducible rfl | with_reducible apply And.intro | (dsimp only [id]; with_reducible assumption)

theorem State.closeNets_keeps {s₀ : State} (s : State) (hk : Keeps s₀ s) : Keeps s₀ (State.closeNets s) := by
  unfold State.closeNets
  try dsimp only
  repeat' first | (intro _) | with_reducible assumption | with_reducible apply State.forAll_keeps | with_reducible apply State.closeOutlet_keeps | with_reducible apply State.closeGrid_keeps | with_reducible apply State.cond_keeps | with_reducible apply State.modCore_keeps | with_reducible apply foldl_keeps | with_reducible apply ite_keeps | split | with_reducible rfl | with_reducible apply And.intro | (dsimp only [id]; with_reducible assumption)

theorem State.publish_keeps {s₀ : State} (cause : Word) (instant : Nat) (s : State) (hk : Keeps s₀ s) : Keeps s₀ (State.publish cause instant s) := by
  unfold State.publish
  try dsimp only
  repeat' first | (intro _) | with_reducible assumption | with_reducible apply State.modMet_keeps | with_reducible apply foldl_keeps | with_reducible apply ite_keeps | split | with_reducible rfl | with_reducible apply And.intro | (dsimp only [id]; with_reducible assumption)

theorem State.closeLate_keeps {s₀ : State} (n : Int) (s : State) (hk : Keeps s₀ s) : Keeps s₀ (State.closeLate n s) := by
  unfold State.closeLate
  try dsimp only
  repeat' first | (intro _) | with_reducible assumption | with_reducible apply State.modCore_keeps | with_reducible apply State.cond_keeps | with_reducible apply State.modBil_keeps | with_reducible apply foldl_keeps | with_reducible apply ite_keeps | split | with_reducible rfl | with_reducible apply And.intro | (dsimp only [id]; with_reducible assumption)

theorem execGridWindowEnd_keeps {s₀ : State} (g : GridIn) (s : State) (hk : Keeps s₀ s) : KeepsO s₀ (execGridWindowEnd g s) := by
  unfold execGridWindowEnd
  try dsimp only
  repeat' first | (intro _) | with_reducible assumption | with_reducible apply KeepsO.next | with_reducible apply State.live_keeps | with_reducible apply State.cond_keeps | with_reducible apply State.closeLate_keeps | with_reducible apply State.modMet_keeps | with_reducible apply State.raise_keeps | with_reducible apply State.setShifts_keeps | with_reducible apply foldl_keeps | with_reducible apply ite_keeps | with_reducible apply iteO_keeps | split | with_reducible rfl | with_reducible apply And.intro | (dsimp only [id]; with_reducible assumption)

theorem State.tamperPost_keeps {s₀ : State} (y : Fin 9) (t : Nat) (s : State) (hk : Keeps s₀ s) : Keeps s₀ (State.tamperPost y t s) := by
  unfold State.tamperPost
  try dsimp only
  repeat' first | (intro _) | with_reducible assumption | with_reducible apply State.modBil_keeps | with_reducible apply State.raiseAt_keeps | with_reducible apply foldl_keeps | with_reducible apply ite_keeps | split | with_reducible rfl | with_reducible apply And.intro | (dsimp only [id]; with_reducible assumption)

theorem State.tamperEvent_keeps {s₀ : State} (y : Fin 9) (t : Nat) (s : State) (hk : Keeps s₀ s) : Keeps s₀ (State.tamperEvent y t s) := by
  unfold State.tamperEvent
  try dsimp only
  repeat' first | (intro _) | with_reducible assumption | with_reducible apply State.hold_keeps | with_reducible apply State.tamperPost_keeps | with_reducible apply State.modBil_keeps | with_reducible apply foldl_keeps | with_reducible apply ite_keeps | split | with_reducible rfl | with_reducible apply And.intro | (dsimp only [id]; with_reducible assumption)

theorem State.tamperFlush_keeps {s₀ : State} (s : State) (hk : Keeps s₀ s) : Keeps s₀ (State.tamperFlush s) := by
  unfold State.tamperFlush
  try dsimp only
  repeat' first | (intro _) | with_reducible assumption | with_reducible apply State.hold_keeps | with_reducible apply State.tamperPost_keeps | with_reducible apply State.modBil_keeps | with_reducible apply foldl_keeps | with_reducible apply ite_keeps | split | with_reducible rfl | with_reducible apply And.intro | (dsimp only [id]; with_reducible assumption)

theorem State.revDeclare_keeps {s₀ : State} (k : Fin 9) (s : State) (hk : Keeps s₀ s) : Keeps s₀ (State.revDeclare k s) := by
  unfold State.revDeclare
  try dsimp only
  repeat' first | (intro _) | with_reducible assumption | with_reducible apply State.modMet_keeps | with_reducible apply State.raiseAt_keeps | with_reducible apply State.tamperEvent_keeps | with_reducible apply foldl_keeps | with_reducible apply ite_keeps | split | with_reducible rfl | with_reducible apply And.intro | (dsimp only [id]; with_reducible assumption)

theorem State.revSecond_keeps {s₀ : State} (s : State) (hk : Keeps s₀ s) : Keeps s₀ (State.revSecond s) := by
  unfold State.revSecond
  try dsimp only
  repeat' first | (intro _) | with_reducible assumption | with_reducible apply State.forAll_keeps | with_reducible apply State.modMet_keeps | with_reducible apply State.revDeclare_keeps | with_reducible apply foldl_keeps | with_reducible apply ite_keeps | split | with_reducible rfl | with_reducible apply And.intro | (dsimp only [id]; with_reducible assumption)

theorem execReversedSensor_keeps {s₀ : State} (i : Fin 9) (s : State) (hk : Keeps s₀ s) : KeepsO s₀ (execReversedSensor i s) := by
  unfold execReversedSensor
  try dsimp only
  repeat' first | (intro _) | with_reducible assumption | with_reducible apply KeepsO.next | with_reducible apply State.live_keeps | with_reducible apply State.revDeclare_keeps | with_reducible apply foldl_keeps | with_reducible apply ite_keeps | with_reducible apply iteO_keeps | split | with_reducible rfl | with_reducible apply And.intro | (dsimp only [id]; with_reducible assumption)

theorem State.burstStep_keeps {s₀ : State} (b : Burst) (k : Nat) (s : State) (hk : Keeps s₀ s) : Keeps s₀ (State.burstStep b k s) := by
  unfold State.burstStep
  try dsimp only
  repeat' first | (intro _) | with_reducible assumption | with_reducible apply State.runCycles_keeps | with_reducible apply State.modPwr_keeps | with_reducible apply foldl_keeps | with_reducible apply ite_keeps | split | with_reducible rfl | with_reducible apply And.intro | (dsimp only [id]; with_reducible assumption)

theorem State.darkSecond_keeps {s₀ : State} (sec : Nat) (o : Outlet) (samples : Vector Int 32) (t : State) (hk : Keeps s₀ t) : Keeps s₀ (State.darkSecond sec o samples t) := by
  unfold State.darkSecond
  try dsimp only
  repeat' first | (intro _) | with_reducible assumption | with_reducible apply State.modMet_keeps | with_reducible apply foldl_keeps | with_reducible apply ite_keeps | split | with_reducible rfl | with_reducible apply And.intro | (dsimp only [id]; with_reducible assumption)

theorem execDarkBurst_keeps {s₀ : State} (samples : Vector (Vector Int 32) 8) (s : State) (hk : Keeps s₀ s) : KeepsO s₀ (execDarkBurst samples s) := by
  unfold execDarkBurst
  try dsimp only
  repeat' first | (intro _) | with_reducible assumption | with_reducible apply KeepsO.next | with_reducible apply State.hold_keeps | with_reducible apply State.runToFleet_keeps | with_reducible apply State.burstStep_keeps | with_reducible apply State.forAll_keeps | with_reducible apply State.darkSecond_keeps | with_reducible apply State.modMet_keeps | with_reducible apply foldl_keeps | with_reducible apply ite_keeps | with_reducible apply iteO_keeps | split | with_reducible rfl | with_reducible apply And.intro | (dsimp only [id]; with_reducible assumption)

theorem State.darkRestore_keeps {s₀ : State} (s : State) (hk : Keeps s₀ s) : Keeps s₀ (State.darkRestore s) := by
  unfold State.darkRestore
  try dsimp only
  repeat' first | (intro _) | with_reducible assumption | with_reducible apply State.forAll_keeps | with_reducible apply State.tamperPost_keeps | with_reducible apply State.raiseAt_keeps | with_reducible apply State.modMet_keeps | with_reducible apply foldl_keeps | with_reducible apply ite_keeps | split | with_reducible rfl | with_reducible apply And.intro | (dsimp only [id]; with_reducible assumption)

theorem execMetCapture_keeps {s₀ : State} (r : Ring) (d : Desc) (s : State) (hk : Keeps s₀ s) : KeepsO s₀ (execMetCapture r d s) := by
  unfold execMetCapture
  try dsimp only
  repeat' first | (intro _) | with_reducible assumption | with_reducible apply KeepsO.next | with_reducible apply State.work_keeps | with_reducible apply State.modMet_keeps | with_reducible apply foldl_keeps | with_reducible apply ite_keeps | with_reducible apply iteO_keeps | split | with_reducible rfl | with_reducible apply And.intro | (dsimp only [id]; with_reducible assumption)

theorem execCaptureDone_keeps {s₀ : State} (s : State) (hk : Keeps s₀ s) : KeepsO s₀ (execCaptureDone s) := by
  unfold execCaptureDone
  try dsimp only
  repeat' first | (intro _) | with_reducible assumption | with_reducible apply KeepsO.next | with_reducible apply State.live_keeps | with_reducible apply State.modMet_keeps | with_reducible apply State.raise_keeps | with_reducible apply State.completeAt_keeps | with_reducible apply foldl_keeps | with_reducible apply ite_keeps | with_reducible apply iteO_keeps | split | with_reducible rfl | with_reducible apply And.intro | (dsimp only [id]; with_reducible assumption)

end Sys2Proof.Machine
end

