-- ==== Sys2Proof/Laws/KeepsKeys.lean ====
section
/-! SUPPORT. What the operations of Machine/Keys.lean keep: the queue, the variant, the canonical form of the stores. -/
namespace Sys2Proof.Machine

theorem State.effect_keeps {s₀ : State} (r : Ring) (d : Desc) (f : State → Effect) (s : State) (hf : ∀ t, Keeps s₀ t → Keeps s₀ (f t).1) (hk : Keeps s₀ s) : Keeps s₀ (State.effect r d f s) := by
  unfold State.effect
  try dsimp only
  repeat' first | (intro _) | with_reducible assumption | with_reducible apply State.complete_keeps | apply hf | with_reducible apply foldl_keeps | with_reducible apply ite_keeps | split | with_reducible rfl | with_reducible apply And.intro | (dsimp only [id]; with_reducible assumption)

theorem State.putSlot_keeps {s₀ : State} (i : Nat) (k : Option KeySlot) (s : State) (hk : Keeps s₀ s) : Keeps s₀ (State.putSlot i k s) := by
  unfold State.putSlot
  try dsimp only
  repeat' first | (intro _) | with_reducible assumption | with_reducible apply State.modKey_keeps | with_reducible apply foldl_keeps | with_reducible apply ite_keeps | split | with_reducible rfl | with_reducible apply And.intro | (dsimp only [id]; with_reducible assumption)

theorem State.slotWrite_keeps {s₀ : State} (d : Desc) (s : State) (hk : Keeps s₀ s) : Keeps s₀ (State.slotWrite d s).1 := by
  unfold State.slotWrite
  try dsimp only
  repeat' first | (intro _) | with_reducible assumption | with_reducible apply State.putSlot_keeps | with_reducible apply foldl_keeps | with_reducible apply ite_keeps | split | with_reducible rfl | with_reducible apply And.intro | (dsimp only [id]; with_reducible assumption)

theorem execKeySlotWrite_keeps {s₀ : State} (r : Ring) (d : Desc) (s : State) (hk : Keeps s₀ s) : KeepsO s₀ (execKeySlotWrite r d s) := by
  unfold execKeySlotWrite
  try dsimp only
  repeat' first | (intro _) | with_reducible assumption | with_reducible apply KeepsO.next | with_reducible apply State.work_keeps | with_reducible apply State.effect_keeps | with_reducible apply State.slotWrite_keeps | with_reducible apply foldl_keeps | with_reducible apply ite_keeps | with_reducible apply iteO_keeps | split | with_reducible rfl | with_reducible apply And.intro | (dsimp only [id]; with_reducible assumption)

theorem State.slotErase_keeps {s₀ : State} (d : Desc) (s : State) (hk : Keeps s₀ s) : Keeps s₀ (State.slotErase d s).1 := by
  unfold State.slotErase
  try dsimp only
  repeat' first | (intro _) | with_reducible assumption | with_reducible apply State.putSlot_keeps | with_reducible apply foldl_keeps | with_reducible apply ite_keeps | split | with_reducible rfl | with_reducible apply And.intro | (dsimp only [id]; with_reducible assumption)

theorem execKeySlotErase_keeps {s₀ : State} (r : Ring) (d : Desc) (s : State) (hk : Keeps s₀ s) : KeepsO s₀ (execKeySlotErase r d s) := by
  unfold execKeySlotErase
  try dsimp only
  repeat' first | (intro _) | with_reducible assumption | with_reducible apply KeepsO.next | with_reducible apply State.work_keeps | with_reducible apply State.effect_keeps | with_reducible apply State.slotErase_keeps | with_reducible apply foldl_keeps | with_reducible apply ite_keeps | with_reducible apply iteO_keeps | split | with_reducible rfl | with_reducible apply And.intro | (dsimp only [id]; with_reducible assumption)

theorem State.otpWrite_keeps {s₀ : State} (d : Desc) (verified : Bool) (s : State) (hk : Keeps s₀ s) : Keeps s₀ (State.otpWrite d verified s).1 := by
  unfold State.otpWrite
  try dsimp only
  repeat' first | (intro _) | with_reducible assumption | with_reducible apply State.useFree_keeps | with_reducible apply State.modKey_keeps | with_reducible apply State.cond_keeps | with_reducible apply State.raise_keeps | with_reducible apply foldl_keeps | with_reducible apply ite_keeps | split | with_reducible rfl | with_reducible apply And.intro | (dsimp only [id]; with_reducible assumption)

theorem execKeyOtpWrite_keeps {s₀ : State} (r : Ring) (d : Desc) (verified : Bool) (s : State) (hk : Keeps s₀ s) : KeepsO s₀ (execKeyOtpWrite r d verified s) := by
  unfold execKeyOtpWrite
  try dsimp only
  repeat' first | (intro _) | with_reducible assumption | with_reducible apply KeepsO.next | with_reducible apply State.work_keeps | with_reducible apply State.effect_keeps | with_reducible apply State.otpWrite_keeps | with_reducible apply foldl_keeps | with_reducible apply ite_keeps | with_reducible apply iteO_keeps | split | with_reducible rfl | with_reducible apply And.intro | (dsimp only [id]; with_reducible assumption)

theorem State.anchorSet_keeps {s₀ : State} (d : Desc) (s : State) (hk : Keeps s₀ s) : Keeps s₀ (State.anchorSet d s).1 := by
  unfold State.anchorSet
  try dsimp only
  repeat' first | (intro _) | with_reducible assumption | with_reducible apply State.putSlot_keeps | with_reducible apply State.useFree_keeps | with_reducible apply State.modKey_keeps | with_reducible apply foldl_keeps | with_reducible apply ite_keeps | split | with_reducible rfl | with_reducible apply And.intro | (dsimp only [id]; with_reducible assumption)

theorem execKeyAnchorSet_keeps {s₀ : State} (r : Ring) (d : Desc) (s : State) (hk : Keeps s₀ s) : KeepsO s₀ (execKeyAnchorSet r d s) := by
  unfold execKeyAnchorSet
  try dsimp only
  repeat' first | (intro _) | with_reducible assumption | with_reducible apply KeepsO.next | with_reducible apply State.work_keeps | with_reducible apply State.effect_keeps | with_reducible apply State.anchorSet_keeps | with_reducible apply foldl_keeps | with_reducible apply ite_keeps | with_reducible apply iteO_keeps | split | with_reducible rfl | with_reducible apply And.intro | (dsimp only [id]; with_reducible assumption)

theorem State.legacySet_keeps {s₀ : State} (d : Desc) (s : State) (hk : Keeps s₀ s) : Keeps s₀ (State.legacySet d s).1 := by
  unfold State.legacySet
  try dsimp only
  repeat' first | (intro _) | with_reducible assumption | with_reducible apply State.modKey_keeps | with_reducible apply foldl_keeps | with_reducible apply ite_keeps | split | with_reducible rfl | with_reducible apply And.intro | (dsimp only [id]; with_reducible assumption)

theorem execKeyLegacySet_keeps {s₀ : State} (r : Ring) (d : Desc) (s : State) (hk : Keeps s₀ s) : KeepsO s₀ (execKeyLegacySet r d s) := by
  unfold execKeyLegacySet
  try dsimp only
  repeat' first | (intro _) | with_reducible assumption | with_reducible apply KeepsO.next | with_reducible apply State.work_keeps | with_reducible apply State.effect_keeps | with_reducible apply State.legacySet_keeps | with_reducible apply foldl_keeps | with_reducible apply ite_keeps | with_reducible apply iteO_keeps | split | with_reducible rfl | with_reducible apply And.intro | (dsimp only [id]; with_reducible assumption)

theorem State.certFetch_keeps {s₀ : State} (d : Desc) (s : State) (hk : Keeps s₀ s) : Keeps s₀ (State.certFetch d s).1 := by
  unfold State.certFetch
  try dsimp only
  repeat' first | (intro _) | with_reducible assumption | with_reducible apply State.writePages_keeps | with_reducible apply State.useFree_keeps | with_reducible apply foldl_keeps | with_reducible apply ite_keeps | split | with_reducible rfl | with_reducible apply And.intro | (dsimp only [id]; with_reducible assumption)

theorem execKeyCertFetch_keeps {s₀ : State} (r : Ring) (d : Desc) (s : State) (hk : Keeps s₀ s) : KeepsO s₀ (execKeyCertFetch r d s) := by
  unfold execKeyCertFetch
  try dsimp only
  repeat' first | (intro _) | with_reducible assumption | with_reducible apply KeepsO.next | with_reducible apply State.work_keeps | with_reducible apply State.effect_keeps | with_reducible apply State.certFetch_keeps | with_reducible apply foldl_keeps | with_reducible apply ite_keeps | with_reducible apply iteO_keeps | split | with_reducible rfl | with_reducible apply And.intro | (dsimp only [id]; with_reducible assumption)

theorem State.quote_keeps {s₀ : State} (d : Desc) (s : State) (hk : Keeps s₀ s) : Keeps s₀ (State.quote d s).1 := by
  unfold State.quote
  try dsimp only
  repeat' first | (intro _) | with_reducible assumption | with_reducible apply State.writePages_keeps | with_reducible apply State.modKey_keeps | with_reducible apply foldl_keeps | with_reducible apply ite_keeps | split | with_reducible rfl | with_reducible apply And.intro | (dsimp only [id]; with_reducible assumption)

theorem execKeyQuote_keeps {s₀ : State} (r : Ring) (d : Desc) (s : State) (hk : Keeps s₀ s) : KeepsO s₀ (execKeyQuote r d s) := by
  unfold execKeyQuote
  try dsimp only
  repeat' first | (intro _) | with_reducible assumption | with_reducible apply KeepsO.next | with_reducible apply State.work_keeps | with_reducible apply State.effect_keeps | with_reducible apply State.quote_keeps | with_reducible apply foldl_keeps | with_reducible apply ite_keeps | with_reducible apply iteO_keeps | split | with_reducible rfl | with_reducible apply And.intro | (dsimp only [id]; with_reducible assumption)

theorem State.caddyServe_keeps {s₀ : State} (q : Fin 4) (x : CaddyReq) (s : State) (hk : Keeps s₀ s) : Keeps s₀ (State.caddyServe q x s) := by
  unfold State.caddyServe
  try dsimp only
  repeat' first | (intro _) | with_reducible assumption | with_reducible apply State.modKey_keeps | with_reducible apply State.raise_keeps | with_reducible apply State.cond_keeps | with_reducible apply foldl_keeps | with_reducible apply ite_keeps | split | with_reducible rfl | with_reducible apply And.intro | (dsimp only [id]; with_reducible assumption)

theorem State.serveNext_keeps {s₀ : State} (s : State) (hk : Keeps s₀ s) : Keeps s₀ (State.serveNext s) := by
  unfold State.serveNext
  try dsimp only
  repeat' first | (intro _) | with_reducible assumption | with_reducible apply State.modKey_keeps | with_reducible apply State.caddyServe_keeps | with_reducible apply foldl_keeps | with_reducible apply ite_keeps | split | with_reducible rfl | with_reducible apply And.intro | (dsimp only [id]; with_reducible assumption)

theorem State.caddyJoin_keeps {s₀ : State} (q : Fin 4) (x : CaddyReq) (s : State) (hk : Keeps s₀ s) : Keeps s₀ (State.caddyJoin q x s) := by
  unfold State.caddyJoin
  try dsimp only
  repeat' first | (intro _) | with_reducible assumption | with_reducible apply State.modKey_keeps | with_reducible apply foldl_keeps | with_reducible apply ite_keeps | split | with_reducible rfl | with_reducible apply And.intro | (dsimp only [id]; with_reducible assumption)

theorem execCaddyRequest_keeps {s₀ : State} (arrivals : List (Fin 4 × CaddyReq)) (s : State) (hk : Keeps s₀ s) : KeepsO s₀ (execCaddyRequest arrivals s) := by
  unfold execCaddyRequest
  try dsimp only
  repeat' first | (intro _) | with_reducible assumption | with_reducible apply KeepsO.next | with_reducible apply State.live_keeps | with_reducible apply State.caddyJoin_keeps | with_reducible apply State.serveNext_keeps | with_reducible apply State.modKey_keeps | with_reducible apply foldl_keeps | with_reducible apply ite_keeps | with_reducible apply iteO_keeps | split | with_reducible rfl | with_reducible apply And.intro | (dsimp only [id]; with_reducible assumption)

theorem execKeyTamper_keeps {s₀ : State} (x : TamperIn) (s : State) (hk : Keeps s₀ s) : KeepsO s₀ (execKeyTamper x s) := by
  unfold execKeyTamper
  try dsimp only
  repeat' first | (intro _) | with_reducible assumption | with_reducible apply KeepsO.next | with_reducible apply State.modKey_keeps | with_reducible apply State.raiseAt_keeps | with_reducible apply State.cond_keeps | with_reducible apply State.tamperEvent_keeps | with_reducible apply foldl_keeps | with_reducible apply ite_keeps | with_reducible apply iteO_keeps | split | with_reducible rfl | with_reducible apply And.intro | (dsimp only [id]; with_reducible assumption)

end Sys2Proof.Machine
end

