-- ==== Sys2Proof/Laws/KeepsConfiguration.lean ====
section
/-! SUPPORT. What the operations of Machine/Configuration.lean keep: the queue, the variant, the canonical form of the stores. -/
namespace Sys2Proof.Machine

theorem State.sendReport_keeps {s₀ : State} (s : State) (hk : Keeps s₀ s) : Keeps s₀ (State.sendReport s) := by
  unfold State.sendReport
  try dsimp only
  repeat' first | (intro _) | with_reducible assumption | with_reducible apply State.sendCfg_keeps | with_reducible apply State.modCfg_keeps | with_reducible apply foldl_keeps | with_reducible apply ite_keeps | split | with_reducible rfl | with_reducible apply And.intro | (dsimp only [id]; with_reducible assumption)

theorem execStageReport_keeps {s₀ : State} (s : State) (hk : Keeps s₀ s) : KeepsO s₀ (execStageReport s) := by
  unfold execStageReport
  try dsimp only
  repeat' first | (intro _) | with_reducible assumption | with_reducible apply KeepsO.next | with_reducible apply State.live_keeps | with_reducible apply State.runTo_keeps | with_reducible apply State.sendReport_keeps | with_reducible apply foldl_keeps | with_reducible apply ite_keeps | with_reducible apply iteO_keeps | split | with_reducible rfl | with_reducible apply And.intro | (dsimp only [id]; with_reducible assumption)

theorem execStageReportReceive_keeps {s₀ : State} (h : Hdr) (status : BitVec 4) (pair : Pair) (s : State) (hk : Keeps s₀ s) : KeepsO s₀ (execStageReportReceive h status pair s) := by
  unfold execStageReportReceive
  try dsimp only
  repeat' first | (intro _) | with_reducible assumption | with_reducible apply KeepsO.next | with_reducible apply State.live_keeps | with_reducible apply State.takeMsg_keeps | with_reducible apply State.modCfg_keeps | with_reducible apply foldl_keeps | with_reducible apply ite_keeps | with_reducible apply iteO_keeps | split | with_reducible rfl | with_reducible apply And.intro | (dsimp only [id]; with_reducible assumption)

theorem State.catchUpCheck_keeps {s₀ : State} (s : State) (hk : Keeps s₀ s) : Keeps s₀ (State.catchUpCheck s) := by
  unfold State.catchUpCheck
  try dsimp only
  repeat' first | (intro _) | with_reducible assumption | with_reducible apply State.modCfg_keeps | with_reducible apply foldl_keeps | with_reducible apply ite_keeps | split | with_reducible rfl | with_reducible apply And.intro | (dsimp only [id]; with_reducible assumption)

theorem State.stage_keeps {s₀ : State} (crew part : List Byte) (who : Option (Ring × DWord)) (s : State) (hk : Keeps s₀ s) : Keeps s₀ (State.stage crew part who s) := by
  unfold State.stage
  try dsimp only
  repeat' first | (intro _) | with_reducible assumption | with_reducible apply State.complete_keeps | with_reducible apply State.useFree_keeps | with_reducible apply State.modCfg_keeps | with_reducible apply State.sendReport_keeps | with_reducible apply foldl_keeps | with_reducible apply ite_keeps | split | with_reducible rfl | with_reducible apply And.intro | (dsimp only [id]; with_reducible assumption)

theorem execCfgStage_keeps {s₀ : State} (r : Ring) (d : Desc) (s : State) (hk : Keeps s₀ s) : KeepsO s₀ (execCfgStage r d s) := by
  unfold execCfgStage
  try dsimp only
  repeat' first | (intro _) | with_reducible assumption | with_reducible apply KeepsO.next | with_reducible apply State.work_keeps | with_reducible apply State.complete_keeps | with_reducible apply State.stage_keeps | with_reducible apply foldl_keeps | with_reducible apply ite_keeps | with_reducible apply iteO_keeps | split | with_reducible rfl | with_reducible apply And.intro | (dsimp only [id]; with_reducible assumption)

theorem execStageVerifyDone_keeps {s₀ : State} (sigOk : Bool) (s : State) (hk : Keeps s₀ s) : KeepsO s₀ (execStageVerifyDone sigOk s) := by
  unfold execStageVerifyDone
  try dsimp only
  repeat' first | (intro _) | with_reducible assumption | with_reducible apply KeepsO.next | with_reducible apply State.live_keeps | with_reducible apply State.modCfg_keeps | with_reducible apply State.raise_keeps | with_reducible apply State.catchUpCheck_keeps | with_reducible apply State.complete_keeps | with_reducible apply State.sendReport_keeps | with_reducible apply foldl_keeps | with_reducible apply ite_keeps | with_reducible apply iteO_keeps | split | with_reducible rfl | with_reducible apply And.intro | (dsimp only [id]; with_reducible assumption)

theorem execCfgStageCancel_keeps {s₀ : State} (r : Ring) (d : Desc) (s : State) (hk : Keeps s₀ s) : KeepsO s₀ (execCfgStageCancel r d s) := by
  unfold execCfgStageCancel
  try dsimp only
  repeat' first | (intro _) | with_reducible assumption | with_reducible apply KeepsO.next | with_reducible apply State.work_keeps | with_reducible apply State.complete_keeps | with_reducible apply State.modCfg_keeps | with_reducible apply State.sendReport_keeps | with_reducible apply foldl_keeps | with_reducible apply ite_keeps | with_reducible apply iteO_keeps | split | with_reducible rfl | with_reducible apply And.intro | (dsimp only [id]; with_reducible assumption)

theorem State.noteActRound_keeps {s₀ : State} (a : Nat) (s : State) (hk : Keeps s₀ s) : Keeps s₀ (State.noteActRound a s) := by
  unfold State.noteActRound
  try dsimp only
  repeat' first | (intro _) | with_reducible assumption | with_reducible apply State.modCfg_keeps | with_reducible apply State.raise_keeps | with_reducible apply foldl_keeps | with_reducible apply ite_keeps | split | with_reducible rfl | with_reducible apply And.intro | (dsimp only [id]; with_reducible assumption)

theorem State.clearAnnouncement_keeps {s₀ : State} (s : State) (hk : Keeps s₀ s) : Keeps s₀ (State.clearAnnouncement s) := by
  unfold State.clearAnnouncement
  try dsimp only
  repeat' first | (intro _) | with_reducible assumption | with_reducible apply State.modCfg_keeps | with_reducible apply State.raise_keeps | with_reducible apply foldl_keeps | with_reducible apply ite_keeps | split | with_reducible rfl | with_reducible apply And.intro | (dsimp only [id]; with_reducible assumption)

theorem State.cancelActivation_keeps {s₀ : State} (s : State) (hk : Keeps s₀ s) : Keeps s₀ (State.cancelActivation s) := by
  unfold State.cancelActivation
  try dsimp only
  repeat' first | (intro _) | with_reducible assumption | with_reducible apply State.modCfg_keeps | with_reducible apply State.complete_keeps | with_reducible apply State.clearAnnouncement_keeps | with_reducible apply foldl_keeps | with_reducible apply ite_keeps | split | with_reducible rfl | with_reducible apply And.intro | (dsimp only [id]; with_reducible assumption)

theorem State.childFrames_keeps {s₀ : State} (seq : Word) (src : CtrlId) (hops limit : Byte) (body : Payload) (s : State) (hk : Keeps s₀ s) : Keeps s₀ (State.childFrames seq src hops limit body s) := by
  unfold State.childFrames
  try dsimp only
  repeat' first | (intro _) | with_reducible assumption | with_reducible apply State.forAll_keeps | with_reducible apply State.handOver_keeps | with_reducible apply foldl_keeps | with_reducible apply ite_keeps | split | with_reducible rfl | with_reducible apply And.intro | (dsimp only [id]; with_reducible assumption)

theorem State.sendAnnounce_keeps {s₀ : State} (p : Pair) (a : Nat) (s : State) (hk : Keeps s₀ s) : Keeps s₀ (State.sendAnnounce p a s) := by
  unfold State.sendAnnounce
  try dsimp only
  repeat' first | (intro _) | with_reducible assumption | with_reducible apply State.childFrames_keeps | with_reducible apply State.modRgt_keeps | with_reducible apply State.modCfg_keeps | with_reducible apply State.forAll_keeps | with_reducible apply State.sendFrame_keeps | with_reducible apply foldl_keeps | with_reducible apply ite_keeps | split | with_reducible rfl | with_reducible apply And.intro | (dsimp only [id]; with_reducible assumption)

theorem State.activationCheck_keeps {s₀ : State} (s : State) (hk : Keeps s₀ s) : Keeps s₀ (State.activationCheck s) := by
  unfold State.activationCheck
  try dsimp only
  repeat' first | (intro _) | with_reducible assumption | with_reducible apply State.modCfg_keeps | with_reducible apply State.noteActRound_keeps | with_reducible apply State.sendAnnounce_keeps | with_reducible apply foldl_keeps | with_reducible apply ite_keeps | split | with_reducible rfl | with_reducible apply And.intro | (dsimp only [id]; with_reducible assumption)

theorem execCfgActivate_keeps {s₀ : State} (r : Ring) (d : Desc) (s : State) (hk : Keeps s₀ s) : KeepsO s₀ (execCfgActivate r d s) := by
  unfold execCfgActivate
  try dsimp only
  repeat' first | (intro _) | with_reducible assumption | with_reducible apply KeepsO.next | with_reducible apply State.work_keeps | with_reducible apply State.modCfg_keeps | with_reducible apply foldl_keeps | with_reducible apply ite_keeps | with_reducible apply iteO_keeps | split | with_reducible rfl | with_reducible apply And.intro | (dsimp only [id]; with_reducible assumption)

theorem execActivationTimeout_keeps {s₀ : State} (s : State) (hk : Keeps s₀ s) : KeepsO s₀ (execActivationTimeout s) := by
  unfold execActivationTimeout
  try dsimp only
  repeat' first | (intro _) | with_reducible assumption | with_reducible apply KeepsO.next | with_reducible apply State.live_keeps | with_reducible apply State.runToFleet_keeps | with_reducible apply State.journal_keeps | with_reducible apply State.modCfg_keeps | with_reducible apply State.complete_keeps | with_reducible apply foldl_keeps | with_reducible apply ite_keeps | with_reducible apply iteO_keeps | split | with_reducible rfl | with_reducible apply And.intro | (dsimp only [id]; with_reducible assumption)

theorem execAnnounce_keeps {s₀ : State} (s : State) (hk : Keeps s₀ s) : KeepsO s₀ (execAnnounce s) := by
  unfold execAnnounce
  try dsimp only
  repeat' first | (intro _) | with_reducible assumption | with_reducible apply KeepsO.next | with_reducible apply State.live_keeps | with_reducible apply State.runToFleet_keeps | with_reducible apply State.sendAnnounce_keeps | with_reducible apply foldl_keeps | with_reducible apply ite_keeps | with_reducible apply iteO_keeps | split | with_reducible rfl | with_reducible apply And.intro | (dsimp only [id]; with_reducible assumption)

theorem execAnnounceReceive_keeps {s₀ : State} (h : Hdr) (pair : Pair) (round : Nat) (s : State) (hk : Keeps s₀ s) : KeepsO s₀ (execAnnounceReceive h pair round s) := by
  unfold execAnnounceReceive
  try dsimp only
  repeat' first | (intro _) | with_reducible assumption | with_reducible apply KeepsO.next | with_reducible apply State.live_keeps | with_reducible apply State.takeMsg_keeps | with_reducible apply State.modCfg_keeps | with_reducible apply State.noteActRound_keeps | with_reducible apply State.childFrames_keeps | with_reducible apply State.forAll_keeps | with_reducible apply State.modPort_keeps | with_reducible apply foldl_keeps | with_reducible apply ite_keeps | with_reducible apply iteO_keeps | split | with_reducible rfl | with_reducible apply And.intro | (dsimp only [id]; with_reducible assumption)

theorem State.adopt_keeps {s₀ : State} (catchUp : Bool) (s : State) (hk : Keeps s₀ s) : Keeps s₀ (State.adopt catchUp s) := by
  unfold State.adopt
  try dsimp only
  repeat' first | (intro _) | with_reducible assumption | with_reducible apply State.modCfg_keeps | with_reducible apply State.modAlc_keeps | with_reducible apply State.modRgt_keeps | with_reducible apply State.writeFailsafe_keeps | with_reducible apply State.batRestart_keeps | with_reducible apply State.modBat_keeps | with_reducible apply State.phaseSettings_keeps | with_reducible apply State.raise_keeps | with_reducible apply State.recompute_keeps | with_reducible apply State.sendReport_keeps | with_reducible apply foldl_keeps | with_reducible apply ite_keeps | split | with_reducible rfl | with_reducible apply And.intro | (dsimp only [id]; with_reducible assumption)

theorem execAdopted_keeps {s₀ : State} (s : State) (hk : Keeps s₀ s) : KeepsO s₀ (execAdopted s) := by
  unfold execAdopted
  try dsimp only
  repeat' first | (intro _) | with_reducible assumption | with_reducible apply KeepsO.next | with_reducible apply State.live_keeps | with_reducible apply State.runToFleet_keeps | with_reducible apply State.adopt_keeps | with_reducible apply State.raise_keeps | with_reducible apply State.modCfg_keeps | with_reducible apply State.completeAt_keeps | with_reducible apply State.complete_keeps | with_reducible apply foldl_keeps | with_reducible apply ite_keeps | with_reducible apply iteO_keeps | split | with_reducible rfl | with_reducible apply And.intro | (dsimp only [id]; with_reducible assumption)

theorem execCatchUp_keeps {s₀ : State} (s : State) (hk : Keeps s₀ s) : KeepsO s₀ (execCatchUp s) := by
  unfold execCatchUp
  try dsimp only
  repeat' first | (intro _) | with_reducible assumption | with_reducible apply KeepsO.next | with_reducible apply State.live_keeps | with_reducible apply State.runToFleet_keeps | with_reducible apply State.adopt_keeps | with_reducible apply State.modCfg_keeps | with_reducible apply foldl_keeps | with_reducible apply ite_keeps | with_reducible apply iteO_keeps | split | with_reducible rfl | with_reducible apply And.intro | (dsimp only [id]; with_reducible assumption)

end Sys2Proof.Machine
end

