-- ==== Sys2Proof/Laws/KeepsSafetyFn.lean ====
section
/-! SUPPORT. What the operations of Machine/SafetyFn.lean keep: the queue, the variant, the canonical form of the stores. -/
namespace Sys2Proof.Machine

theorem State.siteSources_keeps {s₀ : State} (s : State) (hk : Keeps s₀ s) : Keeps s₀ (State.siteSources s) := by
  unfold State.siteSources
  try dsimp only
  repeat' first | (intro _) | with_reducible assumption | with_reducible apply State.raiseGlb_keeps | with_reducible apply State.forAll_keeps | with_reducible apply State.raiseSto_keeps | with_reducible apply State.clearGlb_keeps | with_reducible apply State.clearSto_keeps | with_reducible apply foldl_keeps | with_reducible apply ite_keeps | split | with_reducible rfl | with_reducible apply And.intro | (dsimp only [id]; with_reducible assumption)

theorem State.siteChanged_keeps {s₀ : State} (e : List StopEntry) (s : State) (hk : Keeps s₀ s) : Keeps s₀ (State.siteChanged e s) := by
  unfold State.siteChanged
  try dsimp only
  repeat' first | (intro _) | with_reducible assumption | with_reducible apply State.modSaf_keeps | with_reducible apply foldl_keeps | with_reducible apply ite_keeps | split | with_reducible rfl | with_reducible apply And.intro | (dsimp only [id]; with_reducible assumption)

theorem State.siteOverflow_keeps {s₀ : State} (s : State) (hk : Keeps s₀ s) : Keeps s₀ (State.siteOverflow s) := by
  unfold State.siteOverflow
  try dsimp only
  repeat' first | (intro _) | with_reducible assumption | with_reducible apply State.modSaf_keeps | with_reducible apply State.raise_keeps | with_reducible apply State.siteSources_keeps | with_reducible apply foldl_keeps | with_reducible apply ite_keeps | split | with_reducible rfl | with_reducible apply And.intro | (dsimp only [id]; with_reducible assumption)

theorem State.holdStop_keeps {s₀ : State} (origin : CtrlId) (number : Half) (pairs : BitVec 4) (s : State) (hk : Keeps s₀ s) : Keeps s₀ (State.holdStop origin number pairs s) := by
  unfold State.holdStop
  try dsimp only
  repeat' first | (intro _) | with_reducible assumption | with_reducible apply State.siteOverflow_keeps | with_reducible apply State.modSaf_keeps | with_reducible apply State.raise_keeps | with_reducible apply State.journal_keeps | with_reducible apply State.siteChanged_keeps | with_reducible apply State.siteSources_keeps | with_reducible apply foldl_keeps | with_reducible apply ite_keeps | split | with_reducible rfl | with_reducible apply And.intro | (dsimp only [id]; with_reducible assumption)

theorem State.originate_keeps {s₀ : State} (pairs : BitVec 4) (s : State) (hk : Keeps s₀ s) : Keeps s₀ (State.originate pairs s) := by
  unfold State.originate
  try dsimp only
  repeat' first | (intro _) | with_reducible assumption | with_reducible apply State.siteOverflow_keeps | with_reducible apply State.holdStop_keeps | with_reducible apply State.modSaf_keeps | with_reducible apply foldl_keeps | with_reducible apply ite_keeps | split | with_reducible rfl | with_reducible apply And.intro | (dsimp only [id]; with_reducible assumption)

theorem State.recordRelease_keeps {s₀ : State} (origin : CtrlId) (number : Half) (s : State) (hk : Keeps s₀ s) : Keeps s₀ (State.recordRelease origin number s) := by
  unfold State.recordRelease
  try dsimp only
  repeat' first | (intro _) | with_reducible assumption | with_reducible apply State.modSaf_keeps | with_reducible apply foldl_keeps | with_reducible apply ite_keeps | split | with_reducible rfl | with_reducible apply And.intro | (dsimp only [id]; with_reducible assumption)

theorem State.dropStop_keeps {s₀ : State} (origin : CtrlId) (number : Half) (s : State) (hk : Keeps s₀ s) : Keeps s₀ (State.dropStop origin number s) := by
  unfold State.dropStop
  try dsimp only
  repeat' first | (intro _) | with_reducible assumption | with_reducible apply State.modSaf_keeps | with_reducible apply State.raise_keeps | with_reducible apply State.journal_keeps | with_reducible apply foldl_keeps | with_reducible apply ite_keeps | split | with_reducible rfl | with_reducible apply And.intro | (dsimp only [id]; with_reducible assumption)

theorem State.releaseStop_keeps {s₀ : State} (origin : CtrlId) (number : Half) (s : State) (hk : Keeps s₀ s) : Keeps s₀ (State.releaseStop origin number s) := by
  unfold State.releaseStop
  try dsimp only
  repeat' first | (intro _) | with_reducible assumption | with_reducible apply State.dropStop_keeps | with_reducible apply State.recordRelease_keeps | with_reducible apply State.modSaf_keeps | with_reducible apply State.siteChanged_keeps | with_reducible apply State.siteSources_keeps | with_reducible apply foldl_keeps | with_reducible apply ite_keeps | split | with_reducible rfl | with_reducible apply And.intro | (dsimp only [id]; with_reducible assumption)

theorem State.dropAnnounced_keeps {s₀ : State} (s : State) (hk : Keeps s₀ s) : Keeps s₀ (State.dropAnnounced s) := by
  unfold State.dropAnnounced
  try dsimp only
  repeat' first | (intro _) | with_reducible assumption | with_reducible apply State.modSaf_keeps | with_reducible apply foldl_keeps | with_reducible apply ite_keeps | split | with_reducible rfl | with_reducible apply And.intro | (dsimp only [id]; with_reducible assumption)

theorem execReleaseAnnounceEnd_keeps {s₀ : State} (origin : CtrlId) (s : State) (hk : Keeps s₀ s) : KeepsO s₀ (execReleaseAnnounceEnd origin s) := by
  unfold execReleaseAnnounceEnd
  try dsimp only
  repeat' first | (intro _) | with_reducible assumption | with_reducible apply KeepsO.next | with_reducible apply State.live_keeps | with_reducible apply State.runToFleet_keeps | with_reducible apply State.dropAnnounced_keeps | with_reducible apply foldl_keeps | with_reducible apply ite_keeps | with_reducible apply iteO_keeps | split | with_reducible rfl | with_reducible apply And.intro | (dsimp only [id]; with_reducible assumption)

theorem State.siteEval_keeps {s₀ : State} (s : State) (hk : Keeps s₀ s) : Keeps s₀ (State.siteEval s) := by
  unfold State.siteEval
  try dsimp only
  repeat' first | (intro _) | with_reducible assumption | with_reducible apply State.modSaf_keeps | with_reducible apply State.raise_keeps | with_reducible apply State.raiseGlb_keeps | with_reducible apply State.clearGlb_keeps | with_reducible apply foldl_keeps | with_reducible apply ite_keeps | split | with_reducible rfl | with_reducible apply And.intro | (dsimp only [id]; with_reducible assumption)

theorem State.countReject_keeps {s₀ : State} (v : Nat) (s : State) (hk : Keeps s₀ s) : Keeps s₀ (State.countReject v s) := by
  unfold State.countReject
  try dsimp only
  repeat' first | (intro _) | with_reducible assumption | with_reducible apply State.modSaf_keeps | with_reducible apply foldl_keeps | with_reducible apply ite_keeps | split | with_reducible rfl | with_reducible apply And.intro | (dsimp only [id]; with_reducible assumption)

theorem State.heartbeat_keeps {s₀ : State} (triggered : Bool) (s : State) (hk : Keeps s₀ s) : Keeps s₀ (State.heartbeat triggered s) := by
  unfold State.heartbeat
  try dsimp only
  repeat' first | (intro _) | with_reducible assumption | with_reducible apply State.forAll_keeps | with_reducible apply State.modSaf_keeps | with_reducible apply State.sendFrame_keeps | with_reducible apply foldl_keeps | with_reducible apply ite_keeps | split | with_reducible rfl | with_reducible apply And.intro | (dsimp only [id]; with_reducible assumption)

theorem State.flushTrig_keeps {s₀ : State} (s : State) (hk : Keeps s₀ s) : Keeps s₀ (State.flushTrig s) := by
  unfold State.flushTrig
  try dsimp only
  repeat' first | (intro _) | with_reducible assumption | with_reducible apply State.heartbeat_keeps | with_reducible apply foldl_keeps | with_reducible apply ite_keeps | split | with_reducible rfl | with_reducible apply And.intro | (dsimp only [id]; with_reducible assumption)

theorem execHeartbeatSend_keeps {s₀ : State} (triggered : Bool) (s : State) (hk : Keeps s₀ s) : KeepsO s₀ (execHeartbeatSend triggered s) := by
  unfold execHeartbeatSend
  try dsimp only
  repeat' first | (intro _) | with_reducible assumption | with_reducible apply KeepsO.next | with_reducible apply State.live_keeps | with_reducible apply State.flushTrig_keeps | with_reducible apply State.runToOffset_keeps | with_reducible apply State.dropAnnounced_keeps | with_reducible apply State.heartbeat_keeps | with_reducible apply foldl_keeps | with_reducible apply ite_keeps | with_reducible apply iteO_keeps | split | with_reducible rfl | with_reducible apply And.intro | (dsimp only [id]; with_reducible assumption)

theorem State.stopEntry_keeps {s₀ : State} (e : StopEntry) (s : State) (hk : Keeps s₀ s) : Keeps s₀ (State.stopEntry e s) := by
  unfold State.stopEntry
  try dsimp only
  repeat' first | (intro _) | with_reducible assumption | with_reducible apply State.releaseStop_keeps | with_reducible apply State.recordRelease_keeps | with_reducible apply State.modSaf_keeps | with_reducible apply State.holdStop_keeps | with_reducible apply foldl_keeps | with_reducible apply ite_keeps | split | with_reducible rfl | with_reducible apply And.intro | (dsimp only [id]; with_reducible assumption)

theorem execHeartbeatReceive_keeps {s₀ : State} (p : Port) (h : Hdr) (f : SafeFrame) (s : State) (hk : Keeps s₀ s) : KeepsO s₀ (execHeartbeatReceive p h f s) := by
  unfold execHeartbeatReceive
  try dsimp only
  repeat' first | (intro _) | with_reducible assumption | with_reducible apply KeepsO.next | with_reducible apply State.live_keeps | with_reducible apply State.rx_keeps | with_reducible apply State.modPort_keeps | with_reducible apply State.modSaf_keeps | with_reducible apply State.countReject_keeps | with_reducible apply State.siteEval_keeps | with_reducible apply State.stopEntry_keeps | with_reducible apply State.flushTrig_keeps | with_reducible apply foldl_keeps | with_reducible apply ite_keeps | with_reducible apply iteO_keeps | split | with_reducible rfl | with_reducible apply And.intro | (dsimp only [id]; with_reducible assumption)

theorem State.expireConn_keeps {s₀ : State} (got : Nat) (s : State) (hk : Keeps s₀ s) : Keeps s₀ (State.expireConn got s) := by
  unfold State.expireConn
  try dsimp only
  repeat' first | (intro _) | with_reducible assumption | with_reducible apply State.modSaf_keeps | with_reducible apply State.raise_keeps | with_reducible apply foldl_keeps | with_reducible apply ite_keeps | split | with_reducible rfl | with_reducible apply And.intro | (dsimp only [id]; with_reducible assumption)

theorem execConnExpired_keeps {s₀ : State} (p : Fin 8) (s : State) (hk : Keeps s₀ s) : KeepsO s₀ (execConnExpired p s) := by
  unfold execConnExpired
  try dsimp only
  repeat' first | (intro _) | with_reducible assumption | with_reducible apply KeepsO.next | with_reducible apply State.live_keeps | with_reducible apply State.runToFleet_keeps | with_reducible apply State.modSaf_keeps | with_reducible apply State.expireConn_keeps | with_reducible apply State.siteEval_keeps | with_reducible apply State.raiseSto_keeps | with_reducible apply foldl_keeps | with_reducible apply ite_keeps | with_reducible apply iteO_keeps | split | with_reducible rfl | with_reducible apply And.intro | (dsimp only [id]; with_reducible assumption)

theorem execAcdFrameSend_keeps {s₀ : State} (a : Acd) (s : State) (hk : Keeps s₀ s) : KeepsO s₀ (execAcdFrameSend a s) := by
  unfold execAcdFrameSend
  try dsimp only
  repeat' first | (intro _) | with_reducible assumption | with_reducible apply KeepsO.next | with_reducible apply State.live_keeps | with_reducible apply State.runTo_keeps | with_reducible apply State.modSaf_keeps | with_reducible apply foldl_keeps | with_reducible apply ite_keeps | with_reducible apply iteO_keeps | split | with_reducible rfl | with_reducible apply And.intro | (dsimp only [id]; with_reducible assumption)

theorem execAcdFrameReceive_keeps {s₀ : State} (a : Acd) (f : SafeFrame) (s : State) (hk : Keeps s₀ s) : KeepsO s₀ (execAcdFrameReceive a f s) := by
  unfold execAcdFrameReceive
  try dsimp only
  repeat' first | (intro _) | with_reducible assumption | with_reducible apply KeepsO.next | with_reducible apply State.live_keeps | with_reducible apply State.modSaf_keeps | with_reducible apply State.countReject_keeps | with_reducible apply State.clearSto_keeps | with_reducible apply foldl_keeps | with_reducible apply ite_keeps | with_reducible apply iteO_keeps | split | with_reducible rfl | with_reducible apply And.intro | (dsimp only [id]; with_reducible assumption)

theorem State.estopSources_keeps {s₀ : State} (s : State) (hk : Keeps s₀ s) : Keeps s₀ (State.estopSources s) := by
  unfold State.estopSources
  try dsimp only
  repeat' first | (intro _) | with_reducible assumption | with_reducible apply State.raiseGlb_keeps | with_reducible apply State.clearGlb_keeps | with_reducible apply State.forAll_keeps | with_reducible apply State.raiseOut_keeps | with_reducible apply State.clearOut_keeps | with_reducible apply State.raiseSto_keeps | with_reducible apply State.clearSto_keeps | with_reducible apply foldl_keeps | with_reducible apply ite_keeps | split | with_reducible rfl | with_reducible apply And.intro | (dsimp only [id]; with_reducible assumption)

theorem State.estopEval_keeps {s₀ : State} (e : Fin 4) (s : State) (hk : Keeps s₀ s) : Keeps s₀ (State.estopEval e s) := by
  unfold State.estopEval
  try dsimp only
  repeat' first | (intro _) | with_reducible assumption | with_reducible apply State.modSaf_keeps | with_reducible apply State.raiseAt_keeps | with_reducible apply State.estopSources_keeps | with_reducible apply State.originate_keeps | with_reducible apply foldl_keeps | with_reducible apply ite_keeps | split | with_reducible rfl | with_reducible apply And.intro | (dsimp only [id]; with_reducible assumption)

theorem State.estopLevels_keeps {s₀ : State} (e : Fin 4) (a b : Bool) (s : State) (hk : Keeps s₀ s) : Keeps s₀ (State.estopLevels e a b s) := by
  unfold State.estopLevels
  try dsimp only
  repeat' first | (intro _) | with_reducible assumption | with_reducible apply State.modSaf_keeps | with_reducible apply foldl_keeps | with_reducible apply ite_keeps | split | with_reducible rfl | with_reducible apply And.intro | (dsimp only [id]; with_reducible assumption)

theorem execEstop_keeps {s₀ : State} (e : Fin 4) (a b : Bool) (held : Nat) (s : State) (hk : Keeps s₀ s) : KeepsO s₀ (execEstop e a b held s) := by
  unfold execEstop
  try dsimp only
  repeat' first | (intro _) | with_reducible assumption | with_reducible apply KeepsO.next | with_reducible apply State.live_keeps | with_reducible apply State.estopLevels_keeps | with_reducible apply State.estopEval_keeps | with_reducible apply State.flushTrig_keeps | with_reducible apply foldl_keeps | with_reducible apply ite_keeps | with_reducible apply iteO_keeps | split | with_reducible rfl | with_reducible apply And.intro | (dsimp only [id]; with_reducible assumption)

theorem execEstopDiscrepancy_keeps {s₀ : State} (e : Fin 4) (s : State) (hk : Keeps s₀ s) : KeepsO s₀ (execEstopDiscrepancy e s) := by
  unfold execEstopDiscrepancy
  try dsimp only
  repeat' first | (intro _) | with_reducible assumption | with_reducible apply KeepsO.next | with_reducible apply State.live_keeps | with_reducible apply State.runTo_keeps | with_reducible apply State.modSaf_keeps | with_reducible apply State.raiseAt_keeps | with_reducible apply foldl_keeps | with_reducible apply ite_keeps | with_reducible apply iteO_keeps | split | with_reducible rfl | with_reducible apply And.intro | (dsimp only [id]; with_reducible assumption)

theorem execContactorRelease_keeps {s₀ : State} (o : Outlet) (s : State) (hk : Keeps s₀ s) : KeepsO s₀ (execContactorRelease o s) := by
  unfold execContactorRelease
  try dsimp only
  repeat' first | (intro _) | with_reducible assumption | with_reducible apply KeepsO.next | with_reducible apply State.live_keeps | with_reducible apply State.runTo_keeps | with_reducible apply State.setDrives_keeps | with_reducible apply foldl_keeps | with_reducible apply ite_keeps | with_reducible apply iteO_keeps | split | with_reducible rfl | with_reducible apply And.intro | (dsimp only [id]; with_reducible assumption)

theorem execPermitLost_keeps {s₀ : State} (o : Outlet) (s : State) (hk : Keeps s₀ s) : KeepsO s₀ (execPermitLost o s) := by
  unfold execPermitLost
  try dsimp only
  repeat' first | (intro _) | with_reducible assumption | with_reducible apply KeepsO.next | with_reducible apply State.live_keeps | with_reducible apply State.runTo_keeps | with_reducible apply State.setDrives_keeps | with_reducible apply foldl_keeps | with_reducible apply ite_keeps | with_reducible apply iteO_keeps | split | with_reducible rfl | with_reducible apply And.intro | (dsimp only [id]; with_reducible assumption)

theorem State.setGatePad_keeps {s₀ : State} (n : Phase) (pad : Option Bool) (s : State) (hk : Keeps s₀ s) : Keeps s₀ (State.setGatePad n pad s) := by
  unfold State.setGatePad
  try dsimp only
  repeat' first | (intro _) | with_reducible assumption | with_reducible apply State.modSaf_keeps | with_reducible apply foldl_keeps | with_reducible apply ite_keeps | split | with_reducible rfl | with_reducible apply And.intro | (dsimp only [id]; with_reducible assumption)

theorem State.setStoPads_keeps {s₀ : State} (a : Acd) (padA padB : Option Bool) (s : State) (hk : Keeps s₀ s) : Keeps s₀ (State.setStoPads a padA padB s) := by
  unfold State.setStoPads
  try dsimp only
  repeat' first | (intro _) | with_reducible assumption | with_reducible apply State.modSaf_keeps | with_reducible apply foldl_keeps | with_reducible apply ite_keeps | split | with_reducible rfl | with_reducible apply And.intro | (dsimp only [id]; with_reducible assumption)

theorem execGenFault_keeps {s₀ : State} (n : Phase) (pad : Option Bool) (s : State) (hk : Keeps s₀ s) : KeepsO s₀ (execGenFault n pad s) := by
  unfold execGenFault
  try dsimp only
  repeat' first | (intro _) | with_reducible assumption | with_reducible apply KeepsO.next | with_reducible apply State.live_keeps | with_reducible apply State.setGatePad_keeps | with_reducible apply State.runTo_keeps | with_reducible apply State.modSaf_keeps | with_reducible apply State.raiseAt_keeps | with_reducible apply State.raiseGlb_keeps | with_reducible apply foldl_keeps | with_reducible apply ite_keeps | with_reducible apply iteO_keeps | split | with_reducible rfl | with_reducible apply And.intro | (dsimp only [id]; with_reducible assumption)

theorem execStoFault_keeps {s₀ : State} (a : Acd) (padA padB : Option Bool) (s : State) (hk : Keeps s₀ s) : KeepsO s₀ (execStoFault a padA padB s) := by
  unfold execStoFault
  try dsimp only
  repeat' first | (intro _) | with_reducible assumption | with_reducible apply KeepsO.next | with_reducible apply State.live_keeps | with_reducible apply State.setStoPads_keeps | with_reducible apply State.runTo_keeps | with_reducible apply State.modSaf_keeps | with_reducible apply State.raiseAt_keeps | with_reducible apply State.raiseSto_keeps | with_reducible apply foldl_keeps | with_reducible apply ite_keeps | with_reducible apply iteO_keeps | split | with_reducible rfl | with_reducible apply And.intro | (dsimp only [id]; with_reducible assumption)

theorem execBrkPulseEnd_keeps {s₀ : State} (s : State) (hk : Keeps s₀ s) : KeepsO s₀ (execBrkPulseEnd s) := by
  unfold execBrkPulseEnd
  try dsimp only
  repeat' first | (intro _) | with_reducible assumption | with_reducible apply KeepsO.next | with_reducible apply State.live_keeps | with_reducible apply State.runTo_keeps | with_reducible apply State.modSaf_keeps | with_reducible apply foldl_keeps | with_reducible apply ite_keeps | with_reducible apply iteO_keeps | split | with_reducible rfl | with_reducible apply And.intro | (dsimp only [id]; with_reducible assumption)

theorem State.imdNote_keeps {s₀ : State} (o : Outlet) (s : State) (hk : Keeps s₀ s) : Keeps s₀ (State.imdNote o s) := by
  unfold State.imdNote
  try dsimp only
  repeat' first | (intro _) | with_reducible assumption | with_reducible apply State.modSaf_keeps | with_reducible apply foldl_keeps | with_reducible apply ite_keeps | split | with_reducible rfl | with_reducible apply And.intro | (dsimp only [id]; with_reducible assumption)

theorem State.imdAct_keeps {s₀ : State} (o : Outlet) (s : State) (hk : Keeps s₀ s) : Keeps s₀ (State.imdAct o s) := by
  unfold State.imdAct
  try dsimp only
  repeat' first | (intro _) | with_reducible assumption | with_reducible apply State.modSaf_keeps | with_reducible apply State.raiseAt_keeps | with_reducible apply State.raiseOut_keeps | with_reducible apply foldl_keeps | with_reducible apply ite_keeps | split | with_reducible rfl | with_reducible apply And.intro | (dsimp only [id]; with_reducible assumption)

theorem execImdFault_keeps {s₀ : State} (o : Outlet) (s : State) (hk : Keeps s₀ s) : KeepsO s₀ (execImdFault o s) := by
  unfold execImdFault
  try dsimp only
  repeat' first | (intro _) | with_reducible assumption | with_reducible apply KeepsO.next | with_reducible apply State.live_keeps | with_reducible apply State.runTo_keeps | with_reducible apply State.imdAct_keeps | with_reducible apply foldl_keeps | with_reducible apply ite_keeps | with_reducible apply iteO_keeps | split | with_reducible rfl | with_reducible apply And.intro | (dsimp only [id]; with_reducible assumption)

theorem execTickTokenLost_keeps {s₀ : State} (s : State) (hk : Keeps s₀ s) : KeepsO s₀ (execTickTokenLost s) := by
  unfold execTickTokenLost
  try dsimp only
  repeat' first | (intro _) | with_reducible assumption | with_reducible apply KeepsO.next | with_reducible apply State.live_keeps | with_reducible apply State.runToFleet_keeps | with_reducible apply State.modSaf_keeps | with_reducible apply State.raiseGlb_keeps | with_reducible apply State.syncControlFault_keeps | with_reducible apply foldl_keeps | with_reducible apply ite_keeps | with_reducible apply iteO_keeps | split | with_reducible rfl | with_reducible apply And.intro | (dsimp only [id]; with_reducible assumption)

theorem execSupplyFault_keeps {s₀ : State} (x : Rails) (s : State) (hk : Keeps s₀ s) : KeepsO s₀ (execSupplyFault x s) := by
  unfold execSupplyFault
  try dsimp only
  repeat' first | (intro _) | with_reducible assumption | with_reducible apply KeepsO.next | with_reducible apply State.live_keeps | with_reducible apply State.modSaf_keeps | with_reducible apply State.raiseGlb_keeps | with_reducible apply State.syncControlFault_keeps | with_reducible apply foldl_keeps | with_reducible apply ite_keeps | with_reducible apply iteO_keeps | split | with_reducible rfl | with_reducible apply And.intro | (dsimp only [id]; with_reducible assumption)

theorem execSupplyRecovered_keeps {s₀ : State} (x : Rails) (s : State) (hk : Keeps s₀ s) : KeepsO s₀ (execSupplyRecovered x s) := by
  unfold execSupplyRecovered
  try dsimp only
  repeat' first | (intro _) | with_reducible assumption | with_reducible apply KeepsO.next | with_reducible apply State.live_keeps | with_reducible apply State.modSaf_keeps | with_reducible apply State.clearGlb_keeps | with_reducible apply State.syncControlFault_keeps | with_reducible apply foldl_keeps | with_reducible apply ite_keeps | with_reducible apply iteO_keeps | split | with_reducible rfl | with_reducible apply And.intro | (dsimp only [id]; with_reducible assumption)

theorem execSafSeoDemand_keeps {s₀ : State} (r : Ring) (d : Desc) (s : State) (hk : Keeps s₀ s) : KeepsO s₀ (execSafSeoDemand r d s) := by
  unfold execSafSeoDemand
  try dsimp only
  repeat' first | (intro _) | with_reducible assumption | with_reducible apply KeepsO.next | with_reducible apply State.work_keeps | with_reducible apply State.modSaf_keeps | with_reducible apply State.raiseOut_keeps | with_reducible apply State.raiseGlb_keeps | with_reducible apply State.complete_keeps | with_reducible apply foldl_keeps | with_reducible apply ite_keeps | with_reducible apply iteO_keeps | split | with_reducible rfl | with_reducible apply And.intro | (dsimp only [id]; with_reducible assumption)

theorem execSafStoDemand_keeps {s₀ : State} (r : Ring) (d : Desc) (s : State) (hk : Keeps s₀ s) : KeepsO s₀ (execSafStoDemand r d s) := by
  unfold execSafStoDemand
  try dsimp only
  repeat' first | (intro _) | with_reducible assumption | with_reducible apply KeepsO.next | with_reducible apply State.work_keeps | with_reducible apply State.modSaf_keeps | with_reducible apply State.raiseSto_keeps | with_reducible apply State.forAll_keeps | with_reducible apply State.complete_keeps | with_reducible apply foldl_keeps | with_reducible apply ite_keeps | with_reducible apply iteO_keeps | split | with_reducible rfl | with_reducible apply And.intro | (dsimp only [id]; with_reducible assumption)

theorem execSafSiteStop_keeps {s₀ : State} (r : Ring) (d : Desc) (s : State) (hk : Keeps s₀ s) : KeepsO s₀ (execSafSiteStop r d s) := by
  unfold execSafSiteStop
  try dsimp only
  repeat' first | (intro _) | with_reducible assumption | with_reducible apply KeepsO.next | with_reducible apply State.work_keeps | with_reducible apply State.originate_keeps | with_reducible apply State.flushTrig_keeps | with_reducible apply State.complete_keeps | with_reducible apply foldl_keeps | with_reducible apply ite_keeps | with_reducible apply iteO_keeps | split | with_reducible rfl | with_reducible apply And.intro | (dsimp only [id]; with_reducible assumption)

theorem State.resetHost_keeps {s₀ : State} (target : Word) (pos : Nat) (s : State) (hk : Keeps s₀ s) : Keeps s₀ (State.resetHost target pos s).1 := by
  unfold State.resetHost
  dsimp only
  repeat' first | (intro _) | with_reducible assumption | with_reducible apply State.forAll_keeps | with_reducible apply State.clearOut_keeps | with_reducible apply State.clearGlb_keeps | with_reducible apply foldl_keeps | with_reducible apply ite_keeps | split | with_reducible rfl | with_reducible apply And.intro

theorem State.resetSto_keeps {s₀ : State} (target : Word) (pos : Nat) (s : State) (hk : Keeps s₀ s) : Keeps s₀ (State.resetSto target pos s).1 := by
  unfold State.resetSto
  dsimp only
  repeat' first | (intro _) | with_reducible assumption | with_reducible apply State.forAll_keeps | with_reducible apply State.clearSto_keeps | with_reducible apply foldl_keeps | with_reducible apply ite_keeps | split | with_reducible rfl | with_reducible apply And.intro

theorem State.resetEstop_keeps {s₀ : State} (target : Word) (s : State) (hk : Keeps s₀ s) : Keeps s₀ (State.resetEstop target s).1 := by
  unfold State.resetEstop
  dsimp only
  repeat' first | (intro _) | with_reducible assumption | with_reducible apply State.estopSources_keeps | with_reducible apply State.forAll_keeps | with_reducible apply State.modSaf_keeps | with_reducible apply foldl_keeps | with_reducible apply ite_keeps | split | with_reducible rfl | with_reducible apply And.intro

theorem State.resetContact_keeps {s₀ : State} (target : Word) (s : State) (hk : Keeps s₀ s) : Keeps s₀ (State.resetContact target s).1 := by
  unfold State.resetContact
  dsimp only
  repeat' first | (intro _) | with_reducible assumption | with_reducible apply State.forAll_keeps | with_reducible apply State.clearOut_keeps | with_reducible apply State.modSaf_keeps | with_reducible apply State.clearGlb_keeps | with_reducible apply foldl_keeps | with_reducible apply ite_keeps | split | with_reducible rfl | with_reducible apply And.intro

theorem State.resetSite_keeps {s₀ : State} (s : State) (hk : Keeps s₀ s) : Keeps s₀ (State.resetSite s).1 := by
  unfold State.resetSite
  dsimp only
  repeat' first | (intro _) | with_reducible assumption | with_reducible apply State.siteSources_keeps | with_reducible apply State.modSaf_keeps | with_reducible apply State.releaseStop_keeps | with_reducible apply State.siteChanged_keeps | with_reducible apply State.dropStop_keeps | with_reducible apply foldl_keeps | with_reducible apply ite_keeps | split | with_reducible rfl | with_reducible apply And.intro

theorem State.resetReadback_keeps {s₀ : State} (target : Word) (s : State) (hk : Keeps s₀ s) : Keeps s₀ (State.resetReadback target s).1 := by
  unfold State.resetReadback
  dsimp only
  repeat' first | (intro _) | with_reducible assumption | with_reducible apply State.forAll_keeps | with_reducible apply State.clearSto_keeps | with_reducible apply State.modSaf_keeps | with_reducible apply State.clearGlb_keeps | with_reducible apply foldl_keeps | with_reducible apply ite_keeps | split | with_reducible rfl | with_reducible apply And.intro

theorem execSafReset_keeps {s₀ : State} (r : Ring) (d : Desc) (s : State) (hk : Keeps s₀ s) : KeepsO s₀ (execSafReset r d s) := by
  unfold execSafReset
  apply KeepsO.next
  apply State.work_keeps _ _ _ _ _ hk
  intro t ht
  dsimp only
  apply State.complete_keeps
  apply State.flushTrig_keeps
  have one : ∀ (k : Nat) (g : State → State × Bool) (u : State × Word), (∀ t, Keeps s₀ t → Keeps s₀ (g t).1) → Keeps s₀ u.1 →
      Keeps s₀ (if (!(d.b 24).getLsbD k) = true then u else ((g u.1).1, if (g u.1).2 = true then u.2 ||| bit 32 k else u.2)).1 := by
    intro k g u hg hu
    split
    · exact hu
    · exact hg u.1 hu
  refine one 5 _ _ (fun t h => State.resetReadback_keeps _ t h) ?_
  refine one 4 _ _ (fun t h => State.resetSite_keeps t h) ?_
  refine one 3 _ _ (fun t h => State.resetContact_keeps _ t h) ?_
  refine one 2 _ _ (fun t h => State.resetEstop_keeps _ t h) ?_
  refine one 1 _ _ (fun t h => State.resetSto_keeps _ _ t h) ?_
  refine one 0 _ _ (fun t h => State.resetHost_keeps _ _ t h) ?_
  exact State.runToFleet_keeps _ t ht

end Sys2Proof.Machine
end

