-- ==== Sys2Proof/Laws/KeepsAllocation.lean ====
section
/-! SUPPORT. What the operations of Machine/Allocation.lean keep: the queue, the variant, the canonical form of the stores. -/
namespace Sys2Proof.Machine

theorem State.buildCurves_keeps {s₀ : State} (round : Nat) (s : State) (hk : Keeps s₀ s) : Keeps s₀ (State.buildCurves round s) := by
  unfold State.buildCurves
  try dsimp only
  repeat' first | (intro _) | with_reducible assumption | with_reducible apply State.modAlc_keeps | with_reducible apply foldl_keeps | with_reducible apply ite_keeps | split | with_reducible rfl | with_reducible apply And.intro | (dsimp only [id]; with_reducible assumption)

theorem State.needCurves_keeps {s₀ : State} (round : Nat) (s : State) (hk : Keeps s₀ s) : Keeps s₀ (State.needCurves round s) := by
  unfold State.needCurves
  try dsimp only
  repeat' first | (intro _) | with_reducible assumption | with_reducible apply State.buildCurves_keeps | with_reducible apply foldl_keeps | with_reducible apply ite_keeps | split | with_reducible rfl | with_reducible apply And.intro | (dsimp only [id]; with_reducible assumption)

theorem State.oweChanges_keeps {s₀ : State} (round : Nat) (s : State) (hk : Keeps s₀ s) : Keeps s₀ (State.oweChanges round s) := by
  unfold State.oweChanges
  try dsimp only
  repeat' first | (intro _) | with_reducible assumption | with_reducible apply State.modAlc_keeps | with_reducible apply foldl_keeps | with_reducible apply ite_keeps | split | with_reducible rfl | with_reducible apply And.intro | (dsimp only [id]; with_reducible assumption)

theorem State.endDrill_keeps {s₀ : State} (d : Nat) (s : State) (hk : Keeps s₀ s) : Keeps s₀ (State.endDrill d s) := by
  unfold State.endDrill
  try dsimp only
  repeat' first | (intro _) | with_reducible assumption | with_reducible apply State.modAlc_keeps | with_reducible apply State.modRgt_keeps | with_reducible apply State.recompute_keeps | with_reducible apply State.raise_keeps | with_reducible apply State.complete_keeps | with_reducible apply foldl_keeps | with_reducible apply ite_keeps | split | with_reducible rfl | with_reducible apply And.intro | (dsimp only [id]; with_reducible assumption)

theorem State.restoreTrees_keeps {s₀ : State} (s : State) (hk : Keeps s₀ s) : Keeps s₀ (State.restoreTrees s) := by
  unfold State.restoreTrees
  try dsimp only
  repeat' first | (intro _) | with_reducible assumption | with_reducible apply State.modRgt_keeps | with_reducible apply foldl_keeps | with_reducible apply ite_keeps | split | with_reducible rfl | with_reducible apply And.intro | (dsimp only [id]; with_reducible assumption)

theorem State.restoreRoles_keeps {s₀ : State} (s : State) (hk : Keeps s₀ s) : Keeps s₀ (State.restoreRoles s) := by
  unfold State.restoreRoles
  try dsimp only
  repeat' first | (intro _) | with_reducible assumption | with_reducible apply State.restoreTrees_keeps | with_reducible apply State.modAlc_keeps | with_reducible apply State.modRgt_keeps | with_reducible apply State.modClk_keeps | with_reducible apply State.recompute_keeps | with_reducible apply State.raise_keeps | with_reducible apply State.complete_keeps | with_reducible apply foldl_keeps | with_reducible apply ite_keeps | split | with_reducible rfl | with_reducible apply And.intro | (dsimp only [id]; with_reducible assumption)

theorem State.cede_keeps {s₀ : State} (s : State) (hk : Keeps s₀ s) : Keeps s₀ (State.cede s) := by
  unfold State.cede
  try dsimp only
  repeat' first | (intro _) | with_reducible assumption | with_reducible apply State.modAlc_keeps | with_reducible apply State.modRgt_keeps | with_reducible apply State.raise_keeps | with_reducible apply foldl_keeps | with_reducible apply ite_keeps | split | with_reducible rfl | with_reducible apply And.intro | (dsimp only [id]; with_reducible assumption)

theorem State.restoreSelf_keeps {s₀ : State} (s : State) (hk : Keeps s₀ s) : Keeps s₀ (State.restoreSelf s) := by
  unfold State.restoreSelf
  try dsimp only
  repeat' first | (intro _) | with_reducible assumption | with_reducible apply State.modAlc_keeps | with_reducible apply State.complete_keeps | with_reducible apply foldl_keeps | with_reducible apply ite_keeps | split | with_reducible rfl | with_reducible apply And.intro | (dsimp only [id]; with_reducible assumption)

theorem State.alcSync_keeps {s₀ : State} (s : State) (hk : Keeps s₀ s) : Keeps s₀ (State.alcSync s) := by
  unfold State.alcSync
  try dsimp only
  repeat' first | (intro _) | with_reducible assumption | with_reducible apply State.cede_keeps | with_reducible apply State.treeSync_keeps | with_reducible apply State.restoreSelf_keeps | with_reducible apply State.restoreRoles_keeps | with_reducible apply State.endDrill_keeps | with_reducible apply State.modRgt_keeps | with_reducible apply State.recompute_keeps | with_reducible apply foldl_keeps | with_reducible apply ite_keeps | split | with_reducible rfl | with_reducible apply And.intro | (dsimp only [id]; with_reducible assumption)

theorem State.cancelDrill_keeps {s₀ : State} (s : State) (hk : Keeps s₀ s) : Keeps s₀ (State.cancelDrill s) := by
  unfold State.cancelDrill
  try dsimp only
  repeat' first | (intro _) | with_reducible assumption | with_reducible apply State.modAlc_keeps | with_reducible apply State.complete_keeps | with_reducible apply foldl_keeps | with_reducible apply ite_keeps | split | with_reducible rfl | with_reducible apply And.intro | (dsimp only [id]; with_reducible assumption)

theorem execDrillRound_keeps {s₀ : State} (s : State) (hk : Keeps s₀ s) : KeepsO s₀ (execDrillRound s) := by
  unfold execDrillRound
  try dsimp only
  repeat' first | (intro _) | with_reducible assumption | with_reducible apply KeepsO.next | with_reducible apply State.live_keeps | with_reducible apply State.runToFleet_keeps | with_reducible apply State.alcSync_keeps | with_reducible apply foldl_keeps | with_reducible apply ite_keeps | with_reducible apply iteO_keeps | split | with_reducible rfl | with_reducible apply And.intro | (dsimp only [id]; with_reducible assumption)

theorem execRoleRestoreRound_keeps {s₀ : State} (s : State) (hk : Keeps s₀ s) : KeepsO s₀ (execRoleRestoreRound s) := by
  unfold execRoleRestoreRound
  try dsimp only
  repeat' first | (intro _) | with_reducible assumption | with_reducible apply KeepsO.next | with_reducible apply State.live_keeps | with_reducible apply State.runToFleet_keeps | with_reducible apply State.alcSync_keeps | with_reducible apply foldl_keeps | with_reducible apply ite_keeps | with_reducible apply iteO_keeps | split | with_reducible rfl | with_reducible apply And.intro | (dsimp only [id]; with_reducible assumption)

theorem State.tallyPort_keeps {s₀ : State} (round : Nat) (p : Port) (acc : State × Up) (hk : Keeps s₀ acc.1) :
    Keeps s₀ (State.tallyPort round p acc).1 := by
  obtain ⟨s, u⟩ := acc
  have hs : Keeps s₀ s := hk
  unfold State.tallyPort
  dsimp only
  repeat' first | with_reducible assumption | with_reducible apply State.modChild_keeps | with_reducible apply State.raise_keeps | with_reducible apply ite_keeps | split

theorem State.tally_keeps {s₀ : State} (round : Nat) (s : State) (hk : Keeps s₀ s) : Keeps s₀ (State.tally round s).1 := by
  unfold State.tally
  dsimp only
  have fold : ∀ (l : List Port) (acc : State × Up), Keeps s₀ acc.1 → Keeps s₀ (l.foldl (fun acc p => State.tallyPort round p acc) acc).1 := by
    intro l
    induction l with
    | nil => intro acc h; exact h
    | cons p t ih => intro acc h; exact ih _ (State.tallyPort_keeps round p acc h)
  apply fold
  dsimp only
  exact State.modAlc_keeps _ (State.oweChanges_keeps _ _ (State.needCurves_keeps _ _ hk))

theorem execUpSend_keeps {s₀ : State} (s : State) (hk : Keeps s₀ s) : KeepsO s₀ (execUpSend s) := by
  unfold execUpSend
  try dsimp only
  repeat' first | (intro _) | with_reducible assumption | with_reducible apply KeepsO.next | with_reducible apply State.live_keeps | with_reducible apply State.runToOffset_keeps | with_reducible apply State.alcSync_keeps | with_reducible apply State.tally_keeps | with_reducible apply State.sendFrame_keeps | with_reducible apply foldl_keeps | with_reducible apply ite_keeps | with_reducible apply iteO_keeps | split | with_reducible rfl | with_reducible apply And.intro | (dsimp only [id]; with_reducible assumption)

theorem State.lateChild_keeps {s₀ : State} (s : State) (hk : Keeps s₀ s) : Keeps s₀ (State.lateChild s) := by
  unfold State.lateChild
  try dsimp only
  repeat' first | (intro _) | with_reducible assumption | with_reducible apply State.modAlc_keeps | with_reducible apply State.raise_keeps | with_reducible apply foldl_keeps | with_reducible apply ite_keeps | split | with_reducible rfl | with_reducible apply And.intro | (dsimp only [id]; with_reducible assumption)

theorem execUpReceive_keeps {s₀ : State} (p : Port) (h : Hdr) (u : Up) (s : State) (hk : Keeps s₀ s) : KeepsO s₀ (execUpReceive p h u s) := by
  unfold execUpReceive
  try dsimp only
  repeat' first | (intro _) | with_reducible assumption | with_reducible apply KeepsO.next | with_reducible apply State.live_keeps | with_reducible apply State.alcSync_keeps | with_reducible apply State.rx_keeps | with_reducible apply State.lateChild_keeps | with_reducible apply State.modChild_keeps | with_reducible apply foldl_keeps | with_reducible apply ite_keeps | with_reducible apply iteO_keeps | split | with_reducible rfl | with_reducible apply And.intro | (dsimp only [id]; with_reducible assumption)

theorem State.noteDown_keeps {s₀ : State} (d : Down) (s : State) (hk : Keeps s₀ s) : Keeps s₀ (State.noteDown d s) := by
  unfold State.noteDown
  try dsimp only
  repeat' first | (intro _) | with_reducible assumption | with_reducible apply State.modAlc_keeps | with_reducible apply State.forAll_keeps | with_reducible apply State.modChild_keeps | with_reducible apply State.noteActRound_keeps | with_reducible apply State.clearAnnouncement_keeps | with_reducible apply foldl_keeps | with_reducible apply ite_keeps | split | with_reducible rfl | with_reducible apply And.intro | (dsimp only [id]; with_reducible assumption)

theorem State.forwardDown_keeps {s₀ : State} (f : Frame) (d : Down) (s : State) (hk : Keeps s₀ s) : Keeps s₀ (State.forwardDown f d s) := by
  unfold State.forwardDown
  try dsimp only
  repeat' first | (intro _) | with_reducible assumption | with_reducible apply State.forAll_keeps | with_reducible apply State.handOver_keeps | with_reducible apply State.modChild_keeps | with_reducible apply State.modAlc_keeps | with_reducible apply State.modPort_keeps | with_reducible apply foldl_keeps | with_reducible apply ite_keeps | split | with_reducible rfl | with_reducible apply And.intro | (dsimp only [id]; with_reducible assumption)

theorem State.spreadTakeover_keeps {s₀ : State} (f : Frame) (s : State) (hk : Keeps s₀ s) : Keeps s₀ (State.spreadTakeover f s) := by
  unfold State.spreadTakeover
  try dsimp only
  repeat' first | (intro _) | with_reducible assumption | with_reducible apply State.forAll_keeps | with_reducible apply State.handOver_keeps | with_reducible apply State.modPort_keeps | with_reducible apply foldl_keeps | with_reducible apply ite_keeps | split | with_reducible rfl | with_reducible apply And.intro | (dsimp only [id]; with_reducible assumption)

theorem State.usedSeq_keeps {s₀ : State} (s : State) (hk : Keeps s₀ s) : Keeps s₀ (State.usedSeq s) := by
  unfold State.usedSeq
  try dsimp only
  repeat' first | (intro _) | with_reducible assumption | with_reducible apply State.modRgt_keeps | with_reducible apply foldl_keeps | with_reducible apply ite_keeps | split | with_reducible rfl | with_reducible apply And.intro | (dsimp only [id]; with_reducible assumption)

theorem State.followBow_keeps {s₀ : State} (s : State) (hk : Keeps s₀ s) : Keeps s₀ (State.followBow s) := by
  unfold State.followBow
  try dsimp only
  repeat' first | (intro _) | with_reducible assumption | with_reducible apply State.modRgt_keeps | with_reducible apply State.cancelDrill_keeps | with_reducible apply State.raise_keeps | with_reducible apply foldl_keeps | with_reducible apply ite_keeps | split | with_reducible rfl | with_reducible apply And.intro | (dsimp only [id]; with_reducible assumption)

theorem State.demote_keeps {s₀ : State} (s : State) (hk : Keeps s₀ s) : Keeps s₀ (State.demote s) := by
  unfold State.demote
  try dsimp only
  repeat' first | (intro _) | with_reducible assumption | with_reducible apply State.modAlc_keeps | with_reducible apply State.cancelActivation_keeps | with_reducible apply State.cancelDrill_keeps | with_reducible apply State.modRgt_keeps | with_reducible apply foldl_keeps | with_reducible apply ite_keeps | split | with_reducible rfl | with_reducible apply And.intro | (dsimp only [id]; with_reducible assumption)

theorem State.cutThrough_keeps {s₀ : State} (p : Port) (h : Hdr) (f : Frame) (d : Down) (s : State) (hk : Keeps s₀ s) : Keeps s₀ (State.cutThrough p h f d s) := by
  unfold State.cutThrough
  try dsimp only
  repeat' first | (intro _) | with_reducible assumption | with_reducible apply State.spreadTakeover_keeps | with_reducible apply State.forAll_keeps | with_reducible apply State.handOver_keeps | with_reducible apply foldl_keeps | with_reducible apply ite_keeps | split | with_reducible rfl | with_reducible apply And.intro | (dsimp only [id]; with_reducible assumption)

theorem execDownReceive_keeps {s₀ : State} (p : Port) (h : Hdr) (d : Down) (s : State) (hk : Keeps s₀ s) : KeepsO s₀ (execDownReceive p h d s) := by
  unfold execDownReceive
  try dsimp only
  repeat' first | (intro _) | with_reducible assumption | with_reducible apply KeepsO.next | with_reducible apply State.live_keeps | with_reducible apply State.alcSync_keeps | with_reducible apply State.rx_keeps | with_reducible apply State.demote_keeps | with_reducible apply State.noteDown_keeps | with_reducible apply State.spreadTakeover_keeps | with_reducible apply State.followBow_keeps | with_reducible apply State.forwardDown_keeps | with_reducible apply State.modAlc_keeps | with_reducible apply State.cutThrough_keeps | with_reducible apply foldl_keeps | with_reducible apply ite_keeps | with_reducible apply iteO_keeps | split | with_reducible rfl | with_reducible apply And.intro | (dsimp only [id]; with_reducible assumption)

theorem State.mirrorTo_keeps {s₀ : State} (c : CtrlId) (m : Mirror) (s : State) (hk : Keeps s₀ s) : Keeps s₀ (State.mirrorTo c m s) := by
  unfold State.mirrorTo
  try dsimp only
  repeat' first | (intro _) | with_reducible assumption | with_reducible apply State.sendFrame_keeps | with_reducible apply foldl_keeps | with_reducible apply ite_keeps | split | with_reducible rfl | with_reducible apply And.intro | (dsimp only [id]; with_reducible assumption)

theorem State.mirrorUmpire_keeps {s₀ : State} (m : Mirror) (s : State) (hk : Keeps s₀ s) : Keeps s₀ (State.mirrorUmpire m s) := by
  unfold State.mirrorUmpire
  try dsimp only
  repeat' first | (intro _) | with_reducible assumption | with_reducible apply State.mirrorTo_keeps | with_reducible apply foldl_keeps | with_reducible apply ite_keeps | split | with_reducible rfl | with_reducible apply And.intro | (dsimp only [id]; with_reducible assumption)

theorem State.noteHeard_keeps {s₀ : State} (n : Nat) (s : State) (hk : Keeps s₀ s) : Keeps s₀ (State.noteHeard n s) := by
  unfold State.noteHeard
  try dsimp only
  repeat' first | (intro _) | with_reducible assumption | with_reducible apply State.modRgt_keeps | with_reducible apply foldl_keeps | with_reducible apply ite_keeps | split | with_reducible rfl | with_reducible apply And.intro | (dsimp only [id]; with_reducible assumption)

theorem State.search_keeps {s₀ : State} (s : State) (hk : Keeps s₀ s) : Keeps s₀ (State.search s) := by
  unfold State.search
  try dsimp only
  repeat' first | (intro _) | with_reducible assumption | with_reducible apply State.tally_keeps | with_reducible apply State.noteHeard_keeps | with_reducible apply State.modAlc_keeps | with_reducible apply State.activationCheck_keeps | with_reducible apply State.usedSeq_keeps | with_reducible apply State.forwardDown_keeps | with_reducible apply State.noteDown_keeps | with_reducible apply State.mirrorUmpire_keeps | with_reducible apply State.mirrorTo_keeps | with_reducible apply State.live_keeps | with_reducible apply State.runToOffset_keeps | with_reducible apply State.alcSync_keeps | with_reducible apply State.runToFleet_keeps | with_reducible apply foldl_keeps | with_reducible apply ite_keeps | split | with_reducible rfl | with_reducible apply And.intro | (dsimp only [id]; with_reducible assumption)

theorem execSearch_keeps {s₀ : State} (s : State) (hk : Keeps s₀ s) : KeepsO s₀ (execSearch s) := by
  unfold execSearch
  try dsimp only
  repeat' first | (intro _) | with_reducible assumption | with_reducible apply KeepsO.next | with_reducible apply State.live_keeps | with_reducible apply State.runToOffset_keeps | with_reducible apply State.alcSync_keeps | with_reducible apply State.runToFleet_keeps | with_reducible apply State.search_keeps | with_reducible apply foldl_keeps | with_reducible apply ite_keeps | with_reducible apply iteO_keeps | split | with_reducible rfl | with_reducible apply And.intro | (dsimp only [id]; with_reducible assumption)

theorem execMirrorReceive_keeps {s₀ : State} (p : Port) (h : Hdr) (m : Mirror) (s : State) (hk : Keeps s₀ s) : KeepsO s₀ (execMirrorReceive p h m s) := by
  unfold execMirrorReceive
  try dsimp only
  repeat' first | (intro _) | with_reducible assumption | with_reducible apply KeepsO.next | with_reducible apply State.live_keeps | with_reducible apply State.alcSync_keeps | with_reducible apply State.rx_keeps | with_reducible apply State.modAlc_keeps | with_reducible apply State.mirrorUmpire_keeps | with_reducible apply State.demote_keeps | with_reducible apply State.modPort_keeps | with_reducible apply foldl_keeps | with_reducible apply ite_keeps | with_reducible apply iteO_keeps | split | with_reducible rfl | with_reducible apply And.intro | (dsimp only [id]; with_reducible assumption)

theorem State.umpireJudge_keeps {s₀ : State} (bow : CtrlId) (d b : Option AlcResult) (m : Option Up) (t : State) (hk : Keeps s₀ t) : Keeps s₀ (State.umpireJudge bow d b m t) := by
  unfold State.umpireJudge
  try dsimp only
  repeat' first | (intro _) | with_reducible assumption | with_reducible apply State.modAlc_keeps | with_reducible apply State.mirrorTo_keeps | with_reducible apply State.raise_keeps | with_reducible apply State.demote_keeps | with_reducible apply State.live_keeps | with_reducible apply State.runToOffset_keeps | with_reducible apply State.alcSync_keeps | with_reducible apply foldl_keeps | with_reducible apply ite_keeps | split | with_reducible rfl | with_reducible apply And.intro | (dsimp only [id]; with_reducible assumption)

theorem execUmpireDecide_keeps {s₀ : State} (s : State) (hk : Keeps s₀ s) : KeepsO s₀ (execUmpireDecide s) := by
  unfold execUmpireDecide
  try dsimp only
  repeat' first | (intro _) | with_reducible assumption | with_reducible apply KeepsO.next | with_reducible apply State.live_keeps | with_reducible apply State.runToOffset_keeps | with_reducible apply State.alcSync_keeps | with_reducible apply State.raise_keeps | with_reducible apply State.umpireJudge_keeps | with_reducible apply State.modAlc_keeps | with_reducible apply State.demote_keeps | with_reducible apply foldl_keeps | with_reducible apply ite_keeps | with_reducible apply iteO_keeps | split | with_reducible rfl | with_reducible apply And.intro | (dsimp only [id]; with_reducible assumption)

theorem execTakeover_keeps {s₀ : State} (s : State) (hk : Keeps s₀ s) : KeepsO s₀ (execTakeover s) := by
  unfold execTakeover
  try dsimp only
  repeat' first | (intro _) | with_reducible assumption | with_reducible apply KeepsO.next | with_reducible apply State.live_keeps | with_reducible apply State.modAlc_keeps | with_reducible apply State.runToFleet_keeps | with_reducible apply State.usedSeq_keeps | with_reducible apply State.spreadTakeover_keeps | with_reducible apply State.noteDown_keeps | with_reducible apply State.cancelActivation_keeps | with_reducible apply State.followBow_keeps | with_reducible apply State.alcSync_keeps | with_reducible apply foldl_keeps | with_reducible apply ite_keeps | with_reducible apply iteO_keeps | split | with_reducible rfl | with_reducible apply And.intro | (dsimp only [id]; with_reducible assumption)

theorem State.bowWatch_keeps {s₀ : State} (s : State) (hk : Keeps s₀ s) : Keeps s₀ (State.bowWatch s) := by
  unfold State.bowWatch
  try dsimp only
  repeat' first | (intro _) | with_reducible assumption | with_reducible apply State.modAlc_keeps | with_reducible apply State.raise_keeps | with_reducible apply foldl_keeps | with_reducible apply ite_keeps | split | with_reducible rfl | with_reducible apply And.intro | (dsimp only [id]; with_reducible assumption)

theorem execDownEvaluate_keeps {s₀ : State} (s : State) (hk : Keeps s₀ s) : KeepsO s₀ (execDownEvaluate s) := by
  unfold execDownEvaluate
  try dsimp only
  repeat' first | (intro _) | with_reducible assumption | with_reducible apply KeepsO.next | with_reducible apply State.live_keeps | with_reducible apply State.runToOffset_keeps | with_reducible apply State.alcSync_keeps | with_reducible apply State.modAlc_keeps | with_reducible apply State.catchUpCheck_keeps | with_reducible apply State.bowWatch_keeps | with_reducible apply State.siteEval_keeps | with_reducible apply foldl_keeps | with_reducible apply ite_keeps | with_reducible apply iteO_keeps | split | with_reducible rfl | with_reducible apply And.intro | (dsimp only [id]; with_reducible assumption)

theorem State.setGrants_keeps {s₀ : State} (demand supply : Nat) (p : Parts) (s : State) (hk : Keeps s₀ s) : Keeps s₀ (State.setGrants demand supply p s) := by
  unfold State.setGrants
  try dsimp only
  repeat' first | (intro _) | with_reducible assumption | with_reducible apply State.modAlc_keeps | with_reducible apply State.heldAbort_keeps | with_reducible apply State.batGrantSet_keeps | with_reducible apply foldl_keeps | with_reducible apply ite_keeps | split | with_reducible rfl | with_reducible apply And.intro | (dsimp only [id]; with_reducible assumption)

theorem State.applyDown_keeps {s₀ : State} (d : Down) (s : State) (hk : Keeps s₀ s) : Keeps s₀ (State.applyDown d s) := by
  unfold State.applyDown
  try dsimp only
  repeat' first | (intro _) | with_reducible assumption | with_reducible apply State.modAlc_keeps | with_reducible apply State.raise_keeps | with_reducible apply State.setGrants_keeps | with_reducible apply foldl_keeps | with_reducible apply ite_keeps | split | with_reducible rfl | with_reducible apply And.intro | (dsimp only [id]; with_reducible assumption)

theorem State.fallbackSplit_keeps {s₀ : State} (s : State) (hk : Keeps s₀ s) : Keeps s₀ (State.fallbackSplit s) := by
  unfold State.fallbackSplit
  try dsimp only
  repeat' first | (intro _) | with_reducible assumption | with_reducible apply State.needCurves_keeps | with_reducible apply State.setGrants_keeps | with_reducible apply foldl_keeps | with_reducible apply ite_keeps | split | with_reducible rfl | with_reducible apply And.intro | (dsimp only [id]; with_reducible assumption)

theorem State.rampApply_keeps {s₀ : State} (s : State) (hk : Keeps s₀ s) : Keeps s₀ (State.rampApply s) := by
  unfold State.rampApply
  try dsimp only
  repeat' first | (intro _) | with_reducible assumption | with_reducible apply State.modAlc_keeps | with_reducible apply State.fallbackSplit_keeps | with_reducible apply foldl_keeps | with_reducible apply ite_keeps | split | with_reducible rfl | with_reducible apply And.intro | (dsimp only [id]; with_reducible assumption)

theorem State.alcAct_keeps {s₀ : State} (s : State) (hk : Keeps s₀ s) : Keeps s₀ (State.alcAct s) := by
  unfold State.alcAct
  try dsimp only
  repeat' first | (intro _) | with_reducible assumption | with_reducible apply State.modAlc_keeps | with_reducible apply State.raise_keeps | with_reducible apply State.forAll_keeps | with_reducible apply State.modOut_keeps | with_reducible apply State.applyDown_keeps | with_reducible apply State.rampApply_keeps | with_reducible apply foldl_keeps | with_reducible apply ite_keeps | split | with_reducible rfl | with_reducible apply And.intro | (dsimp only [id]; with_reducible assumption)

theorem State.noteShares_keeps {s₀ : State} (s : State) (hk : Keeps s₀ s) : Keeps s₀ (State.noteShares s) := by
  unfold State.noteShares
  try dsimp only
  repeat' first | (intro _) | with_reducible assumption | with_reducible apply State.forAll_keeps | with_reducible apply State.modChild_keeps | with_reducible apply foldl_keeps | with_reducible apply ite_keeps | split | with_reducible rfl | with_reducible apply And.intro | (dsimp only [id]; with_reducible assumption)

theorem State.applyClamps_keeps {s₀ : State} (s : State) (hk : Keeps s₀ s) : Keeps s₀ (State.applyClamps s) := by
  unfold State.applyClamps
  try dsimp only
  repeat' first | (intro _) | with_reducible assumption | with_reducible apply State.forAll_keeps | with_reducible apply State.limitTick_keeps | with_reducible apply State.modRegCh_keeps | with_reducible apply State.modReg_keeps | with_reducible apply State.transferClamps_keeps | with_reducible apply foldl_keeps | with_reducible apply ite_keeps | split | with_reducible rfl | with_reducible apply And.intro | (dsimp only [id]; with_reducible assumption)

theorem State.reversalCheck_keeps {s₀ : State} (o : Outlet) (s : State) (hk : Keeps s₀ s) : Keeps s₀ (State.reversalCheck o s) := by
  unfold State.reversalCheck
  try dsimp only
  repeat' first | (intro _) | with_reducible assumption | with_reducible apply State.modOut_keeps | with_reducible apply foldl_keeps | with_reducible apply ite_keeps | split | with_reducible rfl | with_reducible apply And.intro | (dsimp only [id]; with_reducible assumption)

theorem State.capsDone_keeps {s₀ : State} (s : State) (hk : Keeps s₀ s) : Keeps s₀ (State.capsDone s) := by
  unfold State.capsDone
  try dsimp only
  repeat' first | (intro _) | with_reducible assumption | with_reducible apply State.modAlc_keeps | with_reducible apply State.complete_keeps | with_reducible apply foldl_keeps | with_reducible apply ite_keeps | split | with_reducible rfl | with_reducible apply And.intro | (dsimp only [id]; with_reducible assumption)

theorem execApplyInstant_keeps {s₀ : State} (s : State) (hk : Keeps s₀ s) : KeepsO s₀ (execApplyInstant s) := by
  unfold execApplyInstant
  try dsimp only
  repeat' first | (intro _) | with_reducible assumption | with_reducible apply KeepsO.next | with_reducible apply State.live_keeps | with_reducible apply State.runToOffset_keeps | with_reducible apply State.alcSync_keeps | with_reducible apply State.noteShares_keeps | with_reducible apply State.alcAct_keeps | with_reducible apply State.heldCheck_keeps | with_reducible apply State.heldStart_keeps | with_reducible apply State.forAll_keeps | with_reducible apply State.reversalCheck_keeps | with_reducible apply State.applyClamps_keeps | with_reducible apply State.capsDone_keeps | with_reducible apply State.writeGrant_keeps | with_reducible apply State.siteEval_keeps | with_reducible apply foldl_keeps | with_reducible apply ite_keeps | with_reducible apply iteO_keeps | split | with_reducible rfl | with_reducible apply And.intro | (dsimp only [id]; with_reducible assumption)

theorem State.curtailSampled_keeps {s₀ : State} (c1 c0 : Bool) (s : State) (hk : Keeps s₀ s) : Keeps s₀ (State.curtailSampled c1 c0 s) := by
  unfold State.curtailSampled
  try dsimp only
  repeat' first | (intro _) | with_reducible assumption | with_reducible apply State.runTo_keeps | with_reducible apply State.modAlc_keeps | with_reducible apply State.raise_keeps | with_reducible apply foldl_keeps | with_reducible apply ite_keeps | split | with_reducible rfl | with_reducible apply And.intro | (dsimp only [id]; with_reducible assumption)

theorem execCurtailChange_keeps {s₀ : State} (samples : List (Bool × Bool)) (s : State) (hk : Keeps s₀ s) : KeepsO s₀ (execCurtailChange samples s) := by
  unfold execCurtailChange
  try dsimp only
  repeat' first | (intro _) | with_reducible assumption | with_reducible apply KeepsO.next | with_reducible apply State.live_keeps | with_reducible apply State.curtailSampled_keeps | with_reducible apply State.modAlc_keeps | with_reducible apply State.raise_keeps | with_reducible apply foldl_keeps | with_reducible apply ite_keeps | with_reducible apply iteO_keeps | split | with_reducible rfl | with_reducible apply And.intro | (dsimp only [id]; with_reducible assumption)

theorem execAlcSetCap_keeps {s₀ : State} (r : Ring) (d : Desc) (s : State) (hk : Keeps s₀ s) : KeepsO s₀ (execAlcSetCap r d s) := by
  unfold execAlcSetCap
  try dsimp only
  repeat' first | (intro _) | with_reducible assumption | with_reducible apply KeepsO.next | with_reducible apply State.work_keeps | with_reducible apply State.modAlc_keeps | with_reducible apply foldl_keeps | with_reducible apply ite_keeps | with_reducible apply iteO_keeps | split | with_reducible rfl | with_reducible apply And.intro | (dsimp only [id]; with_reducible assumption)

theorem execAlcDrill_keeps {s₀ : State} (r : Ring) (d : Desc) (s : State) (hk : Keeps s₀ s) : KeepsO s₀ (execAlcDrill r d s) := by
  unfold execAlcDrill
  try dsimp only
  repeat' first | (intro _) | with_reducible assumption | with_reducible apply KeepsO.next | with_reducible apply State.work_keeps | with_reducible apply State.complete_keeps | with_reducible apply State.modAlc_keeps | with_reducible apply foldl_keeps | with_reducible apply ite_keeps | with_reducible apply iteO_keeps | split | with_reducible rfl | with_reducible apply And.intro | (dsimp only [id]; with_reducible assumption)

theorem execAlcTakeover_keeps {s₀ : State} (r : Ring) (d : Desc) (s : State) (hk : Keeps s₀ s) : KeepsO s₀ (execAlcTakeover r d s) := by
  unfold execAlcTakeover
  try dsimp only
  repeat' first | (intro _) | with_reducible assumption | with_reducible apply KeepsO.next | with_reducible apply State.work_keeps | with_reducible apply State.modAlc_keeps | with_reducible apply State.complete_keeps | with_reducible apply foldl_keeps | with_reducible apply ite_keeps | with_reducible apply iteO_keeps | split | with_reducible rfl | with_reducible apply And.intro | (dsimp only [id]; with_reducible assumption)

theorem execAlcRoleRestore_keeps {s₀ : State} (r : Ring) (d : Desc) (s : State) (hk : Keeps s₀ s) : KeepsO s₀ (execAlcRoleRestore r d s) := by
  unfold execAlcRoleRestore
  try dsimp only
  repeat' first | (intro _) | with_reducible assumption | with_reducible apply KeepsO.next | with_reducible apply State.work_keeps | with_reducible apply State.complete_keeps | with_reducible apply State.modAlc_keeps | with_reducible apply foldl_keeps | with_reducible apply ite_keeps | with_reducible apply iteO_keeps | split | with_reducible rfl | with_reducible apply And.intro | (dsimp only [id]; with_reducible assumption)

theorem execAlcHoldClear_keeps {s₀ : State} (r : Ring) (d : Desc) (s : State) (hk : Keeps s₀ s) : KeepsO s₀ (execAlcHoldClear r d s) := by
  unfold execAlcHoldClear
  try dsimp only
  repeat' first | (intro _) | with_reducible assumption | with_reducible apply KeepsO.next | with_reducible apply State.work_keeps | with_reducible apply State.modChild_keeps | with_reducible apply State.complete_keeps | with_reducible apply foldl_keeps | with_reducible apply ite_keeps | with_reducible apply iteO_keeps | split | with_reducible rfl | with_reducible apply And.intro | (dsimp only [id]; with_reducible assumption)

end Sys2Proof.Machine
end

