-- ==== Sys2Proof/Laws/KeepsBilling.lean ====
section
/-! SUPPORT. What the operations of Machine/Billing.lean keep: the queue, the variant, the canonical form of the stores. -/
namespace Sys2Proof.Machine

theorem State.closeInterval_keeps {s₀ : State} (t : Nat) (s : State) (hk : Keeps s₀ s) : Keeps s₀ (State.closeInterval t s) := by
  unfold State.closeInterval
  try dsimp only
  repeat' first | (intro _) | with_reducible assumption | with_reducible apply State.modBil_keeps | with_reducible apply State.modCore_keeps | with_reducible apply State.useFree_keeps | with_reducible apply State.raise_keeps | with_reducible apply foldl_keeps | with_reducible apply ite_keeps | split | with_reducible rfl | with_reducible apply And.intro | (dsimp only [id]; with_reducible assumption)

theorem State.openInterval_keeps {s₀ : State} (t : Nat) (w : Int) (flags : BitVec 8) (s : State) (hk : Keeps s₀ s) : Keeps s₀ (State.openInterval t w flags s) := by
  unfold State.openInterval
  try dsimp only
  repeat' first | (intro _) | with_reducible assumption | with_reducible apply State.modCore_keeps | with_reducible apply foldl_keeps | with_reducible apply ite_keeps | split | with_reducible rfl | with_reducible apply And.intro | (dsimp only [id]; with_reducible assumption)

theorem State.closeCycle_keeps {s₀ : State} (t : Nat) (s : State) (hk : Keeps s₀ s) : Keeps s₀ (State.closeCycle t s) := by
  unfold State.closeCycle
  try dsimp only
  repeat' first | (intro _) | with_reducible assumption | with_reducible apply State.modBil_keeps | with_reducible apply State.modCore_keeps | with_reducible apply State.raise_keeps | with_reducible apply foldl_keeps | with_reducible apply ite_keeps | split | with_reducible rfl | with_reducible apply And.intro | (dsimp only [id]; with_reducible assumption)

theorem State.setTariff_keeps {s₀ : State} (n : Nat) (dynamic hold : Bool) (s : State) (hk : Keeps s₀ s) : Keeps s₀ (State.setTariff n dynamic hold s) := by
  unfold State.setTariff
  try dsimp only
  repeat' first | (intro _) | with_reducible assumption | with_reducible apply State.hold_keeps | with_reducible apply State.modCore_keeps | with_reducible apply State.cond_keeps | with_reducible apply State.raise_keeps | with_reducible apply foldl_keeps | with_reducible apply ite_keeps | split | with_reducible rfl | with_reducible apply And.intro | (dsimp only [id]; with_reducible assumption)

theorem State.scheduleTariff_keeps {s₀ : State} (last w : Int) (s : State) (hk : Keeps s₀ s) : Keeps s₀ (State.scheduleTariff last w s) := by
  unfold State.scheduleTariff
  try dsimp only
  repeat' first | (intro _) | with_reducible assumption | with_reducible apply State.hold_keeps | with_reducible apply State.setTariff_keeps | with_reducible apply foldl_keeps | with_reducible apply ite_keeps | split | with_reducible rfl | with_reducible apply And.intro | (dsimp only [id]; with_reducible assumption)

theorem State.boundaryTariff_keeps {s₀ : State} (t : Nat) (w : Int) (s : State) (hk : Keeps s₀ s) : Keeps s₀ (State.boundaryTariff t w s) := by
  unfold State.boundaryTariff
  try dsimp only
  repeat' first | (intro _) | with_reducible assumption | with_reducible apply State.takeUp_keeps | with_reducible apply State.completeAt_keeps | with_reducible apply State.scheduleTariff_keeps | with_reducible apply State.setTariff_keeps | with_reducible apply foldl_keeps | with_reducible apply ite_keeps | split | with_reducible rfl | with_reducible apply And.intro | (dsimp only [id]; with_reducible assumption)

theorem State.boundary_keeps {s₀ : State} (t : Nat) (w : Int) (flags : BitVec 8) (s : State) (hk : Keeps s₀ s) : Keeps s₀ (State.boundary t w flags s) := by
  unfold State.boundary
  try dsimp only
  repeat' first | (intro _) | with_reducible assumption | with_reducible apply State.modCore_keeps | with_reducible apply State.closeInterval_keeps | with_reducible apply State.cond_keeps | with_reducible apply State.closeCycle_keeps | with_reducible apply State.boundaryTariff_keeps | with_reducible apply State.openInterval_keeps | with_reducible apply foldl_keeps | with_reducible apply ite_keeps | split | with_reducible rfl | with_reducible apply And.intro | (dsimp only [id]; with_reducible assumption)

theorem State.postReceipt_keeps {s₀ : State} (o : Outlet) (t : Nat) (reason : Byte) (s : State) (hk : Keeps s₀ s) : Keeps s₀ (State.postReceipt o t reason s) := by
  unfold State.postReceipt
  try dsimp only
  repeat' first | (intro _) | with_reducible assumption | with_reducible apply State.modBil_keeps | with_reducible apply foldl_keeps | with_reducible apply ite_keeps | split | with_reducible rfl | with_reducible apply And.intro | (dsimp only [id]; with_reducible assumption)

theorem State.takeSignal_keeps {s₀ : State} (x : Outlet × Bool × Word × Nat × Byte) (s : State) (hk : Keeps s₀ s) : Keeps s₀ (State.takeSignal x s) := by
  unfold State.takeSignal
  try dsimp only
  repeat' first | (intro _) | with_reducible assumption | with_reducible apply State.modMet_keeps | with_reducible apply State.postReceipt_keeps | with_reducible apply foldl_keeps | with_reducible apply ite_keeps | split | with_reducible rfl | with_reducible apply And.intro | (dsimp only [id]; with_reducible assumption)

theorem execReceiptReady_keeps {s₀ : State} (number : Nat) (signed verified : Bool) (s : State) (hk : Keeps s₀ s) : KeepsO s₀ (execReceiptReady number signed verified s) := by
  unfold execReceiptReady
  try dsimp only
  repeat' first | (intro _) | with_reducible assumption | with_reducible apply KeepsO.next | with_reducible apply State.withErr_keeps | with_reducible apply State.modBil_keeps | with_reducible apply State.modKey_keeps | with_reducible apply State.raise_keeps | with_reducible apply State.cond_keeps | with_reducible apply foldl_keeps | with_reducible apply ite_keeps | with_reducible apply iteO_keeps | split | with_reducible rfl | with_reducible apply And.intro | (dsimp only [id]; with_reducible assumption)

theorem execBilReceiptFetch_keeps {s₀ : State} (r : Ring) (d : Desc) (s : State) (hk : Keeps s₀ s) : KeepsO s₀ (execBilReceiptFetch r d s) := by
  unfold execBilReceiptFetch
  try dsimp only
  repeat' first | (intro _) | with_reducible assumption | with_reducible apply KeepsO.next | with_reducible apply State.work_keeps | with_reducible apply State.memWriteList_keeps | with_reducible apply State.complete_keeps | with_reducible apply foldl_keeps | with_reducible apply ite_keeps | with_reducible apply iteO_keeps | split | with_reducible rfl | with_reducible apply And.intro | (dsimp only [id]; with_reducible assumption)

theorem execBilExport_keeps {s₀ : State} (r : Ring) (d : Desc) (s : State) (hk : Keeps s₀ s) : KeepsO s₀ (execBilExport r d s) := by
  unfold execBilExport
  try dsimp only
  repeat' first | (intro _) | with_reducible assumption | with_reducible apply KeepsO.next | with_reducible apply State.work_keeps | with_reducible apply State.modBil_keeps | with_reducible apply foldl_keeps | with_reducible apply ite_keeps | with_reducible apply iteO_keeps | split | with_reducible rfl | with_reducible apply And.intro | (dsimp only [id]; with_reducible assumption)

theorem State.exportAt_keeps {s₀ : State} (t : Nat) (s : State) (hk : Keeps s₀ s) : Keeps s₀ (State.exportAt t s) := by
  unfold State.exportAt
  try dsimp only
  repeat' first | (intro _) | with_reducible assumption | with_reducible apply State.writePages_keeps | with_reducible apply State.modBil_keeps | with_reducible apply State.completeAt_keeps | with_reducible apply foldl_keeps | with_reducible apply ite_keeps | split | with_reducible rfl | with_reducible apply And.intro | (dsimp only [id]; with_reducible assumption)

theorem State.dispSend_keeps {s₀ : State} (c : DisplayCfg) (kind code : Nat) (text : List Byte) (s : State) (hk : Keeps s₀ s) : Keeps s₀ (State.dispSend c kind code text s) := by
  unfold State.dispSend
  try dsimp only
  repeat' first | (intro _) | with_reducible assumption | with_reducible apply State.modBil_keeps | with_reducible apply foldl_keeps | with_reducible apply ite_keeps | split | with_reducible rfl | with_reducible apply And.intro | (dsimp only [id]; with_reducible assumption)

theorem State.dispShow_keeps {s₀ : State} (k : Fin 8) (s : State) (hk : Keeps s₀ s) : Keeps s₀ (State.dispShow k s) := by
  unfold State.dispShow
  try dsimp only
  repeat' first | (intro _) | with_reducible assumption | with_reducible apply State.dispSend_keeps | with_reducible apply foldl_keeps | with_reducible apply ite_keeps | split | with_reducible rfl | with_reducible apply And.intro | (dsimp only [id]; with_reducible assumption)

theorem State.dispStart_keeps {s₀ : State} (k : Fin 8) (s : State) (hk : Keeps s₀ s) : Keeps s₀ (State.dispStart k s) := by
  unfold State.dispStart
  try dsimp only
  repeat' first | (intro _) | with_reducible assumption | with_reducible apply State.modBil_keeps | with_reducible apply State.dispShow_keeps | with_reducible apply foldl_keeps | with_reducible apply ite_keeps | split | with_reducible rfl | with_reducible apply And.intro | (dsimp only [id]; with_reducible assumption)

theorem execDisplayDwell_keeps {s₀ : State} (o : Fin 8) (s : State) (hk : Keeps s₀ s) : KeepsO s₀ (execDisplayDwell o s) := by
  unfold execDisplayDwell
  try dsimp only
  repeat' first | (intro _) | with_reducible assumption | with_reducible apply KeepsO.next | with_reducible apply State.dispStart_keeps | with_reducible apply State.runTo_keeps | with_reducible apply State.modBil_keeps | with_reducible apply State.dispShow_keeps | with_reducible apply foldl_keeps | with_reducible apply ite_keeps | with_reducible apply iteO_keeps | split | with_reducible rfl | with_reducible apply And.intro | (dsimp only [id]; with_reducible assumption)

theorem State.dispRefresh_keeps {s₀ : State} (s : State) (hk : Keeps s₀ s) : Keeps s₀ (State.dispRefresh s) := by
  unfold State.dispRefresh
  try dsimp only
  repeat' first | (intro _) | with_reducible assumption | with_reducible apply State.forAll_keeps | with_reducible apply State.dispShow_keeps | with_reducible apply foldl_keeps | with_reducible apply ite_keeps | split | with_reducible rfl | with_reducible apply And.intro | (dsimp only [id]; with_reducible assumption)

theorem execDisplayPoll_keeps {s₀ : State} (o : Fin 8) (s : State) (hk : Keeps s₀ s) : KeepsO s₀ (execDisplayPoll o s) := by
  unfold execDisplayPoll
  try dsimp only
  repeat' first | (intro _) | with_reducible assumption | with_reducible apply KeepsO.next | with_reducible apply State.runTo_keeps | with_reducible apply State.modBil_keeps | with_reducible apply State.dispSend_keeps | with_reducible apply foldl_keeps | with_reducible apply ite_keeps | with_reducible apply iteO_keeps | split | with_reducible rfl | with_reducible apply And.intro | (dsimp only [id]; with_reducible assumption)

theorem execDisplayAnswer_keeps {s₀ : State} (o : Fin 8) (bytes : List Byte) (s : State) (hk : Keeps s₀ s) : KeepsO s₀ (execDisplayAnswer o bytes s) := by
  unfold execDisplayAnswer
  try dsimp only
  repeat' first | (intro _) | with_reducible assumption | with_reducible apply KeepsO.next | with_reducible apply State.modBil_keeps | with_reducible apply State.runTo_keeps | with_reducible apply State.withErr_keeps | with_reducible apply State.raise_keeps | with_reducible apply foldl_keeps | with_reducible apply ite_keeps | with_reducible apply iteO_keeps | split | with_reducible rfl | with_reducible apply And.intro | (dsimp only [id]; with_reducible assumption)

theorem State.secondWork_keeps {s₀ : State} (s : State) (hk : Keeps s₀ s) : Keeps s₀ (State.secondWork s) := by
  unfold State.secondWork
  try dsimp only
  repeat' first | (intro _) | with_reducible assumption | with_reducible apply State.modMet_keeps | with_reducible apply State.revSecond_keeps | with_reducible apply foldl_keeps | with_reducible apply ite_keeps | split | with_reducible rfl | with_reducible apply And.intro | (dsimp only [id]; with_reducible assumption)

theorem State.adoptLegal_keeps {s₀ : State} (s : State) (hk : Keeps s₀ s) : Keeps s₀ (State.adoptLegal s) := by
  unfold State.adoptLegal
  try dsimp only
  repeat' first | (intro _) | with_reducible assumption | with_reducible apply State.modCfg_keeps | with_reducible apply State.noteStep_keeps | with_reducible apply State.modCore_keeps | with_reducible apply State.setShifts_keeps | with_reducible apply State.raise_keeps | with_reducible apply foldl_keeps | with_reducible apply ite_keeps | split | with_reducible rfl | with_reducible apply And.intro | (dsimp only [id]; with_reducible assumption)

theorem State.instant_keeps {s₀ : State} (t : Nat) (second interval : Bool) (sig : List (Outlet × Bool × Word × Nat × Byte)) (s : State) (hk : Keeps s₀ s) : Keeps s₀ (State.instant t second interval sig s) := by
  unfold State.instant
  try dsimp only
  repeat' first | (intro _) | with_reducible assumption | with_reducible apply State.closeNets_keeps | with_reducible apply State.closeOutlet_keeps | with_reducible apply State.cond_keeps | with_reducible apply State.boundary_keeps | with_reducible apply State.modMet_keeps | with_reducible apply State.takeSignal_keeps | with_reducible apply State.secondWork_keeps | with_reducible apply State.adoptLegal_keeps | with_reducible apply State.publish_keeps | with_reducible apply State.exportAt_keeps | with_reducible apply State.tamperFlush_keeps | with_reducible apply State.darkRestore_keeps | with_reducible apply State.dispRefresh_keeps | with_reducible apply foldl_keeps | with_reducible apply ite_keeps | split | with_reducible rfl | with_reducible apply And.intro | (dsimp only [id]; with_reducible assumption)

theorem execSecondBoundary_keeps {s₀ : State} (s : State) (hk : Keeps s₀ s) : KeepsO s₀ (execSecondBoundary s) := by
  unfold execSecondBoundary
  try dsimp only
  repeat' first | (intro _) | with_reducible assumption | with_reducible apply KeepsO.next | with_reducible apply State.modMet_keeps | with_reducible apply State.runToFleet_keeps | with_reducible apply State.cond_keeps | with_reducible apply State.modClk_keeps | with_reducible apply State.instant_keeps | with_reducible apply State.modBil_keeps | with_reducible apply foldl_keeps | with_reducible apply ite_keeps | with_reducible apply iteO_keeps | split | with_reducible rfl | with_reducible apply And.intro | (dsimp only [id]; with_reducible assumption)

theorem State.intervalInstant_keeps {s₀ : State} (s : State) (hk : Keeps s₀ s) : Keeps s₀ (State.intervalInstant s) := by
  unfold State.intervalInstant
  try dsimp only
  repeat' first | (intro _) | with_reducible assumption | with_reducible apply State.runToFleet_keeps | with_reducible apply State.instant_keeps | with_reducible apply State.cond_keeps | with_reducible apply State.modMet_keeps | with_reducible apply foldl_keeps | with_reducible apply ite_keeps | split | with_reducible rfl | with_reducible apply And.intro | (dsimp only [id]; with_reducible assumption)

theorem execIntervalEnd_keeps {s₀ : State} (s : State) (hk : Keeps s₀ s) : KeepsO s₀ (execIntervalEnd s) := by
  unfold execIntervalEnd
  try dsimp only
  repeat' first | (intro _) | with_reducible assumption | with_reducible apply KeepsO.next | with_reducible apply State.modBil_keeps | with_reducible apply State.intervalInstant_keeps | with_reducible apply foldl_keeps | with_reducible apply ite_keeps | with_reducible apply iteO_keeps | split | with_reducible rfl | with_reducible apply And.intro | (dsimp only [id]; with_reducible assumption)

theorem execSessionEvent_keeps {s₀ : State} (o : Outlet) (start : Bool) (s : State) (hk : Keeps s₀ s) : KeepsO s₀ (execSessionEvent o start s) := by
  unfold execSessionEvent
  try dsimp only
  repeat' first | (intro _) | with_reducible assumption | with_reducible apply KeepsO.next | with_reducible apply State.instant_keeps | with_reducible apply State.cond_keeps | with_reducible apply State.modMet_keeps | with_reducible apply State.modBil_keeps | with_reducible apply foldl_keeps | with_reducible apply ite_keeps | with_reducible apply iteO_keeps | split | with_reducible rfl | with_reducible apply And.intro | (dsimp only [id]; with_reducible assumption)

theorem execBilTariffSet_keeps {s₀ : State} (r : Ring) (d : Desc) (s : State) (hk : Keeps s₀ s) : KeepsO s₀ (execBilTariffSet r d s) := by
  unfold execBilTariffSet
  try dsimp only
  repeat' first | (intro _) | with_reducible assumption | with_reducible apply KeepsO.next | with_reducible apply State.intervalInstant_keeps | with_reducible apply State.modBil_keeps | with_reducible apply foldl_keeps | with_reducible apply ite_keeps | with_reducible apply iteO_keeps | split | with_reducible rfl | with_reducible apply And.intro | (dsimp only [id]; with_reducible assumption)

theorem State.clockStepAt_keeps {s₀ : State} (x : StepRec) (t : Nat) (s : State) (hk : Keeps s₀ s) : Keeps s₀ (State.clockStepAt x t s) := by
  unfold State.clockStepAt
  try dsimp only
  repeat' first | (intro _) | with_reducible assumption | with_reducible apply State.modCore_keeps | with_reducible apply State.closeInterval_keeps | with_reducible apply State.cond_keeps | with_reducible apply State.closeCycle_keeps | with_reducible apply State.modBil_keeps | with_reducible apply State.tamperEvent_keeps | with_reducible apply State.modMet_keeps | with_reducible apply State.raise_keeps | with_reducible apply State.journal_keeps | with_reducible apply State.scheduleTariff_keeps | with_reducible apply State.openInterval_keeps | with_reducible apply foldl_keeps | with_reducible apply ite_keeps | split | with_reducible rfl | with_reducible apply And.intro | (dsimp only [id]; with_reducible assumption)

theorem execClockStep_keeps {s₀ : State} (s : State) (hk : Keeps s₀ s) : KeepsO s₀ (execClockStep s) := by
  unfold execClockStep
  try dsimp only
  repeat' first | (intro _) | with_reducible assumption | with_reducible apply KeepsO.next | with_reducible apply State.modBil_keeps | with_reducible apply State.closeNets_keeps | with_reducible apply State.clockStepAt_keeps | with_reducible apply State.publish_keeps | with_reducible apply State.exportAt_keeps | with_reducible apply foldl_keeps | with_reducible apply ite_keeps | with_reducible apply iteO_keeps | split | with_reducible rfl | with_reducible apply And.intro | (dsimp only [id]; with_reducible assumption)

theorem State.commit_keeps {s₀ : State} (t : Nat) (s : State) (hk : Keeps s₀ s) : Keeps s₀ (State.commit t s) := by
  unfold State.commit
  try dsimp only
  repeat' first | (intro _) | with_reducible assumption | with_reducible apply State.cond_keeps | with_reducible apply State.modBil_keeps | with_reducible apply foldl_keeps | with_reducible apply ite_keeps | split | with_reducible rfl | with_reducible apply And.intro | (dsimp only [id]; with_reducible assumption)

theorem State.legalWarning_keeps {s₀ : State} (s : State) (hk : Keeps s₀ s) : Keeps s₀ (State.legalWarning s) := by
  unfold State.legalWarning
  try dsimp only
  repeat' first | (intro _) | with_reducible assumption | with_reducible apply State.instant_keeps | with_reducible apply State.closeNets_keeps | with_reducible apply State.publish_keeps | with_reducible apply State.commit_keeps | with_reducible apply foldl_keeps | with_reducible apply ite_keeps | split | with_reducible rfl | with_reducible apply And.intro | (dsimp only [id]; with_reducible assumption)

theorem State.outageRun_keeps {s₀ : State} (upTo fuel n : Nat) (first : Bool) (s : State) (hk : Keeps s₀ s) :
    Keeps s₀ (State.outageRun upTo fuel n first s) := by
  induction fuel generalizing n first s with
  | zero => exact hk
  | succ k ih =>
    unfold State.outageRun
    dsimp only
    split
    · exact hk
    · apply ih
      repeat' first | with_reducible assumption | with_reducible apply State.boundary_keeps | with_reducible apply State.modBil_keeps | split

theorem State.legalRestore_keeps {s₀ : State} (aonOk : Bool) (slots : BitVec 2) (warned : Bool) (s : State) (hk : Keeps s₀ s) : Keeps s₀ (State.legalRestore aonOk slots warned s) := by
  unfold State.legalRestore
  try dsimp only
  repeat' first | (intro _) | with_reducible assumption | with_reducible apply State.modBil_keeps | with_reducible apply State.withErr_keeps | with_reducible apply State.modMet_keeps | with_reducible apply State.outageRun_keeps | with_reducible apply State.raise_keeps | with_reducible apply foldl_keeps | with_reducible apply ite_keeps | split | with_reducible rfl | with_reducible apply And.intro | (dsimp only [id]; with_reducible assumption)

theorem State.legalFirst_keeps {s₀ : State} (s : State) (hk : Keeps s₀ s) : Keeps s₀ (State.legalFirst s) := by
  unfold State.legalFirst
  try dsimp only
  repeat' first | (intro _) | with_reducible assumption | with_reducible apply State.modMet_keeps | with_reducible apply State.modCore_keeps | with_reducible apply State.openInterval_keeps | with_reducible apply foldl_keeps | with_reducible apply ite_keeps | split | with_reducible rfl | with_reducible apply And.intro | (dsimp only [id]; with_reducible assumption)

theorem State.armTamper_keeps {s₀ : State} (y : Fin 3) (on : Bool) (s : State) (hk : Keeps s₀ s) : Keeps s₀ (State.armTamper y on s) := by
  unfold State.armTamper
  try dsimp only
  repeat' first | (intro _) | with_reducible assumption | with_reducible apply State.modBil_keeps | with_reducible apply foldl_keeps | with_reducible apply ite_keeps | split | with_reducible rfl | with_reducible apply And.intro | (dsimp only [id]; with_reducible assumption)

theorem execTamper_keeps {s₀ : State} (y : Fin 3) (low : Bool) (held : Nat) (s : State) (hk : Keeps s₀ s) : KeepsO s₀ (execTamper y low held s) := by
  unfold execTamper
  try dsimp only
  repeat' first | (intro _) | with_reducible assumption | with_reducible apply KeepsO.next | with_reducible apply State.armTamper_keeps | with_reducible apply State.tamperEvent_keeps | with_reducible apply foldl_keeps | with_reducible apply ite_keeps | with_reducible apply iteO_keeps | split | with_reducible rfl | with_reducible apply And.intro | (dsimp only [id]; with_reducible assumption)

end Sys2Proof.Machine
end

