-- ==== Sys2Proof/Laws/KeepsLanes.lean ====
section
/-! SUPPORT. What the operations of Machine/Lanes.lean keep: the queue, the variant, the canonical form of the stores. -/
namespace Sys2Proof.Machine

theorem State.landGated_keeps {s₀ : State} (s : State) (w : GatedWrite) (hk : Keeps s₀ s) : Keeps s₀ (State.landGated s w) := by
  cases w
  · exact State.passClose_keeps _ s hk
  · exact State.passMtx_keeps _ _ s hk
  · exact State.pwmStartMask_keeps _ s hk
  · exact State.passRegEn_keeps _ s hk

theorem State.discardGated_keeps {s₀ : State} (s : State) (hk : Keeps s₀ s) : Keeps s₀ (State.discardGated s) :=
  State.modLne_keeps _ hk

theorem State.releaseGated_keeps {s₀ : State} (s : State) (hk : Keeps s₀ s) : Keeps s₀ (State.releaseGated s) :=
  foldl_keeps _ _ (fun t w => State.landGated_keeps t w) (State.discardGated_keeps s hk)

theorem State.releaseUnchecked_keeps {s₀ : State} (s : State) (hk : Keeps s₀ s) : Keeps s₀ (State.releaseUnchecked s) :=
  foldl_keeps _ _ (fun t w => State.landGated_keeps t w) (State.discardGated_keeps s hk)

theorem State.refreshClamps_keeps {s₀ : State} (s : State) (hk : Keeps s₀ s) : Keeps s₀ (State.refreshClamps s) := by
  unfold State.refreshClamps
  try dsimp only
  repeat' first | (intro _) | with_reducible assumption | with_reducible apply State.forAll_keeps | with_reducible apply State.modRegCh_keeps | with_reducible apply State.modReg_keeps | with_reducible apply foldl_keeps | with_reducible apply ite_keeps | split | with_reducible rfl | with_reducible apply And.intro | (dsimp only [id]; with_reducible assumption)

theorem State.refreshOutputs_keeps {s₀ : State} (s : State) (hk : Keeps s₀ s) : Keeps s₀ (State.refreshOutputs s) := by
  unfold State.refreshOutputs
  try dsimp only
  repeat' first | (intro _) | with_reducible assumption | with_reducible apply State.forAll_keeps | with_reducible apply State.laneClose_keeps | with_reducible apply State.startGroup_keeps | with_reducible apply State.interleave_keeps | with_reducible apply State.writeGrant_keeps | with_reducible apply State.refreshClamps_keeps | with_reducible apply State.mtxClose_keeps | with_reducible apply foldl_keeps | with_reducible apply ite_keeps | split | with_reducible rfl | with_reducible apply And.intro | (dsimp only [id]; with_reducible assumption)

theorem State.restartLane_keeps {s₀ : State} (l : Fin 2) (s : State) (hk : Keeps s₀ s) : Keeps s₀ (State.restartLane l s) := by
  unfold State.restartLane
  try dsimp only
  repeat' first | (intro _) | with_reducible assumption | with_reducible apply State.sramClear_keeps | with_reducible apply State.modLne_keeps | with_reducible apply foldl_keeps | with_reducible apply ite_keeps | split | with_reducible rfl | with_reducible apply And.intro | (dsimp only [id]; with_reducible assumption)

theorem State.abandonResync_keeps {s₀ : State} (s : State) (hk : Keeps s₀ s) : Keeps s₀ (State.abandonResync s) := by
  unfold State.abandonResync
  try dsimp only
  repeat' first | (intro _) | with_reducible assumption | with_reducible apply State.forAll_keeps | with_reducible apply State.restartLane_keeps | with_reducible apply foldl_keeps | with_reducible apply ite_keeps | split | with_reducible rfl | with_reducible apply And.intro | (dsimp only [id]; with_reducible assumption)

theorem State.takeoverClamps_keeps {s₀ : State} (s : State) (hk : Keeps s₀ s) : Keeps s₀ (State.takeoverClamps s) := by
  unfold State.takeoverClamps
  try dsimp only
  repeat' first | (intro _) | with_reducible assumption | with_reducible apply State.forAll_keeps | with_reducible apply State.modRegCh_keeps | with_reducible apply State.raise_keeps | with_reducible apply foldl_keeps | with_reducible apply ite_keeps | split | with_reducible rfl | with_reducible apply And.intro | (dsimp only [id]; with_reducible assumption)

theorem State.takeOver_keeps {s₀ : State} (s : State) (hk : Keeps s₀ s) : Keeps s₀ (State.takeOver s) := by
  unfold State.takeOver
  try dsimp only
  repeat' first | (intro _) | with_reducible assumption | with_reducible apply State.modLne_keeps | with_reducible apply State.pwmDiscard_keeps | with_reducible apply State.takeoverClamps_keeps | with_reducible apply State.restartLane_keeps | with_reducible apply foldl_keeps | with_reducible apply ite_keeps | split | with_reducible rfl | with_reducible apply And.intro | (dsimp only [id]; with_reducible assumption)

theorem State.nameLane_keeps {s₀ : State} (b : Bool) (s : State) (hk : Keeps s₀ s) : Keeps s₀ (State.nameLane b s) := by
  unfold State.nameLane
  try dsimp only
  repeat' first | (intro _) | with_reducible assumption | with_reducible apply State.modLne_keeps | with_reducible apply State.raise_keeps | with_reducible apply foldl_keeps | with_reducible apply ite_keeps | split | with_reducible rfl | with_reducible apply And.intro | (dsimp only [id]; with_reducible assumption)

theorem execLaneTakeover_keeps {s₀ : State} (s : State) (hk : Keeps s₀ s) : KeepsO s₀ (execLaneTakeover s) := by
  unfold execLaneTakeover
  try dsimp only
  repeat' first | (intro _) | with_reducible assumption | with_reducible apply KeepsO.next | with_reducible apply State.live_keeps | with_reducible apply State.sramCopy_keeps | with_reducible apply State.runToFleet_keeps | with_reducible apply State.takeOver_keeps | with_reducible apply foldl_keeps | with_reducible apply ite_keeps | with_reducible apply iteO_keeps | split | with_reducible rfl | with_reducible apply And.intro | (dsimp only [id]; with_reducible assumption)

theorem State.coxStop_keeps {s₀ : State} (s : State) (hk : Keeps s₀ s) : Keeps s₀ (State.coxStop s) := by
  unfold State.coxStop
  try dsimp only
  repeat' first | (intro _) | with_reducible assumption | with_reducible apply State.modLne_keeps | with_reducible apply State.raise_keeps | with_reducible apply State.abandonResync_keeps | with_reducible apply foldl_keeps | with_reducible apply ite_keeps | split | with_reducible rfl | with_reducible apply And.intro | (dsimp only [id]; with_reducible assumption)

theorem State.drillEnd_keeps {s₀ : State} (pass : Bool) (drives : Bool) (s : State) (hk : Keeps s₀ s) : Keeps s₀ (State.drillEnd pass drives s) := by
  unfold State.drillEnd
  try dsimp only
  repeat' first | (intro _) | with_reducible assumption | with_reducible apply State.modLne_keeps | with_reducible apply State.raise_keeps | with_reducible apply State.completeAt_keeps | with_reducible apply foldl_keeps | with_reducible apply ite_keeps | split | with_reducible rfl | with_reducible apply And.intro | (dsimp only [id]; with_reducible assumption)

theorem State.tickMatch_keeps {s₀ : State} (w : Vector Word 28) (s : State) (hk : Keeps s₀ s) : Keeps s₀ (State.tickMatch w s) := by
  unfold State.tickMatch
  try dsimp only
  repeat' first | (intro _) | with_reducible assumption | with_reducible apply State.releaseGated_keeps | with_reducible apply State.modLne_keeps | with_reducible apply State.drillEnd_keeps | with_reducible apply foldl_keeps | with_reducible apply ite_keeps | split | with_reducible rfl | with_reducible apply And.intro | (dsimp only [id]; with_reducible assumption)

theorem State.verdict_keeps {s₀ : State} (bad : Fin 2) (cause : Nat) (w : Option (Vector Word 28)) (s : State) (hk : Keeps s₀ s) : Keeps s₀ (State.verdict bad cause w s) := by
  unfold State.verdict
  try dsimp only
  repeat' first | (intro _) | with_reducible assumption | with_reducible apply State.modLne_keeps | with_reducible apply State.nameLane_keeps | with_reducible apply State.drillEnd_keeps | with_reducible apply foldl_keeps | with_reducible apply ite_keeps | split | with_reducible rfl | with_reducible apply And.intro | (dsimp only [id]; with_reducible assumption)

theorem State.tickMismatch_keeps {s₀ : State} (a b : Option (Vector Word 28)) (landing : DWord) (s : State) (hk : Keeps s₀ s) : Keeps s₀ (State.tickMismatch a b landing s) := by
  unfold State.tickMismatch
  try dsimp only
  repeat' first | (intro _) | with_reducible assumption | with_reducible apply State.modLne_keeps | with_reducible apply State.raise_keeps | with_reducible apply State.discardGated_keeps | with_reducible apply State.verdict_keeps | with_reducible apply State.coxStop_keeps | with_reducible apply State.drillEnd_keeps | with_reducible apply State.live_keeps | with_reducible apply State.sramCopy_keeps | with_reducible apply State.runToFleet_keeps | with_reducible apply State.tickMatch_keeps | with_reducible apply foldl_keeps | with_reducible apply ite_keeps | split | with_reducible rfl | with_reducible apply And.intro | (dsimp only [id]; with_reducible assumption)

theorem State.compareTick_keeps {s₀ : State} (a b : Option (Vector Word 28)) (landing : DWord) (s : State) (hk : Keeps s₀ s) : Keeps s₀ (State.compareTick a b landing s) := by
  unfold State.compareTick
  try dsimp only
  repeat' first | (intro _) | with_reducible assumption | with_reducible apply State.tickMatch_keeps | with_reducible apply State.tickMismatch_keeps | with_reducible apply State.discardGated_keeps | with_reducible apply State.coxStop_keeps | with_reducible apply State.live_keeps | with_reducible apply State.sramCopy_keeps | with_reducible apply State.runToFleet_keeps | with_reducible apply State.modLne_keeps | with_reducible apply State.raise_keeps | with_reducible apply State.verdict_keeps | with_reducible apply State.drillEnd_keeps | with_reducible apply foldl_keeps | with_reducible apply ite_keeps | split | with_reducible rfl | with_reducible apply And.intro | (dsimp only [id]; with_reducible assumption)

theorem State.kickCox_keeps {s₀ : State} (s : State) (hk : Keeps s₀ s) : Keeps s₀ (State.kickCox s) := by
  unfold State.kickCox
  try dsimp only
  repeat' first | (intro _) | with_reducible assumption | with_reducible apply State.modLne_keeps | with_reducible apply State.live_keeps | with_reducible apply State.sramCopy_keeps | with_reducible apply State.runToFleet_keeps | with_reducible apply State.tickMatch_keeps | with_reducible apply State.raise_keeps | with_reducible apply State.discardGated_keeps | with_reducible apply State.verdict_keeps | with_reducible apply State.coxStop_keeps | with_reducible apply State.drillEnd_keeps | with_reducible apply foldl_keeps | with_reducible apply ite_keeps | split | with_reducible rfl | with_reducible apply And.intro | (dsimp only [id]; with_reducible assumption)

theorem execTickCompare_keeps {s₀ : State} (a b : Option TickRec) (landed : List (Word × Word)) (s : State) (hk : Keeps s₀ s) : KeepsO s₀ (execTickCompare a b landed s) := by
  unfold execTickCompare
  try dsimp only
  repeat' first | (intro _) | with_reducible assumption | with_reducible apply KeepsO.next | with_reducible apply State.live_keeps | with_reducible apply State.sramCopy_keeps | with_reducible apply State.runToFleet_keeps | with_reducible apply State.kickCox_keeps | with_reducible apply State.compareTick_keeps | with_reducible apply State.modLne_keeps | with_reducible apply State.tickMatch_keeps | with_reducible apply State.raise_keeps | with_reducible apply State.discardGated_keeps | with_reducible apply State.verdict_keeps | with_reducible apply State.coxStop_keeps | with_reducible apply State.drillEnd_keeps | with_reducible apply foldl_keeps | with_reducible apply ite_keeps | with_reducible apply iteO_keeps | split | with_reducible rfl | with_reducible apply And.intro | (dsimp only [id]; with_reducible assumption)

theorem execTokenGateStop_keeps {s₀ : State} (s : State) (hk : Keeps s₀ s) : KeepsO s₀ (execTokenGateStop s) := by
  unfold execTokenGateStop
  try dsimp only
  repeat' first | (intro _) | with_reducible assumption | with_reducible apply KeepsO.next | with_reducible apply State.live_keeps | with_reducible apply State.runTo_keeps | with_reducible apply State.modLne_keeps | with_reducible apply foldl_keeps | with_reducible apply ite_keeps | with_reducible apply iteO_keeps | split | with_reducible rfl | with_reducible apply And.intro | (dsimp only [id]; with_reducible assumption)

theorem execCoxDead_keeps {s₀ : State} (s : State) (hk : Keeps s₀ s) : KeepsO s₀ (execCoxDead s) := by
  unfold execCoxDead
  try dsimp only
  repeat' first | (intro _) | with_reducible assumption | with_reducible apply KeepsO.next | with_reducible apply State.live_keeps | with_reducible apply State.runTo_keeps | with_reducible apply State.releaseUnchecked_keeps | with_reducible apply State.modLne_keeps | with_reducible apply State.raise_keeps | with_reducible apply foldl_keeps | with_reducible apply ite_keeps | with_reducible apply iteO_keeps | split | with_reducible rfl | with_reducible apply And.intro | (dsimp only [id]; with_reducible assumption)

theorem State.laneDead_keeps {s₀ : State} (l : Fin 2) (s : State) (hk : Keeps s₀ s) : Keeps s₀ (State.laneDead l s) := by
  unfold State.laneDead
  try dsimp only
  repeat' first | (intro _) | with_reducible assumption | with_reducible apply State.modLne_keeps | with_reducible apply State.raise_keeps | with_reducible apply foldl_keeps | with_reducible apply ite_keeps | split | with_reducible rfl | with_reducible apply And.intro | (dsimp only [id]; with_reducible assumption)

theorem execRestartComplete_keeps {s₀ : State} (lane : Fin 2) (ok : Bool) (s : State) (hk : Keeps s₀ s) : KeepsO s₀ (execRestartComplete lane ok s) := by
  unfold execRestartComplete
  try dsimp only
  repeat' first | (intro _) | with_reducible assumption | with_reducible apply KeepsO.next | with_reducible apply State.live_keeps | with_reducible apply State.laneDead_keeps | with_reducible apply State.modLne_keeps | with_reducible apply foldl_keeps | with_reducible apply ite_keeps | with_reducible apply iteO_keeps | split | with_reducible rfl | with_reducible apply And.intro | (dsimp only [id]; with_reducible assumption)

theorem execRestartTimeout_keeps {s₀ : State} (lane : Fin 2) (s : State) (hk : Keeps s₀ s) : KeepsO s₀ (execRestartTimeout lane s) := by
  unfold execRestartTimeout
  try dsimp only
  repeat' first | (intro _) | with_reducible assumption | with_reducible apply KeepsO.next | with_reducible apply State.live_keeps | with_reducible apply State.runTo_keeps | with_reducible apply State.laneDead_keeps | with_reducible apply foldl_keeps | with_reducible apply ite_keeps | with_reducible apply iteO_keeps | split | with_reducible rfl | with_reducible apply And.intro | (dsimp only [id]; with_reducible assumption)

theorem execResynced_keeps {s₀ : State} (lane : Fin 2) (s : State) (hk : Keeps s₀ s) : KeepsO s₀ (execResynced lane s) := by
  unfold execResynced
  try dsimp only
  repeat' first | (intro _) | with_reducible assumption | with_reducible apply KeepsO.next | with_reducible apply State.live_keeps | with_reducible apply State.sramCopy_keeps | with_reducible apply State.runToFleet_keeps | with_reducible apply State.modLne_keeps | with_reducible apply State.raise_keeps | with_reducible apply foldl_keeps | with_reducible apply ite_keeps | with_reducible apply iteO_keeps | split | with_reducible rfl | with_reducible apply And.intro | (dsimp only [id]; with_reducible assumption)

theorem execDrillTick_keeps {s₀ : State} (s : State) (hk : Keeps s₀ s) : KeepsO s₀ (execDrillTick s) := by
  unfold execDrillTick
  try dsimp only
  repeat' first | (intro _) | with_reducible assumption | with_reducible apply KeepsO.next | with_reducible apply State.live_keeps | with_reducible apply State.runTo_keeps | with_reducible apply State.sramCopy_keeps | with_reducible apply State.runToFleet_keeps | with_reducible apply State.modLne_keeps | with_reducible apply State.nameLane_keeps | with_reducible apply State.takeOver_keeps | with_reducible apply State.drillEnd_keeps | with_reducible apply foldl_keeps | with_reducible apply ite_keeps | with_reducible apply iteO_keeps | split | with_reducible rfl | with_reducible apply And.intro | (dsimp only [id]; with_reducible assumption)

theorem execLneSwapDrill_keeps {s₀ : State} (r : Ring) (d : Desc) (s : State) (hk : Keeps s₀ s) : KeepsO s₀ (execLneSwapDrill r d s) := by
  unfold execLneSwapDrill
  try dsimp only
  repeat' first | (intro _) | with_reducible assumption | with_reducible apply KeepsO.next | with_reducible apply State.work_keeps | with_reducible apply State.complete_keeps | with_reducible apply State.modLne_keeps | with_reducible apply foldl_keeps | with_reducible apply ite_keeps | with_reducible apply iteO_keeps | split | with_reducible rfl | with_reducible apply And.intro | (dsimp only [id]; with_reducible assumption)

theorem execLneLaneRestore_keeps {s₀ : State} (r : Ring) (d : Desc) (s : State) (hk : Keeps s₀ s) : KeepsO s₀ (execLneLaneRestore r d s) := by
  unfold execLneLaneRestore
  try dsimp only
  repeat' first | (intro _) | with_reducible assumption | with_reducible apply KeepsO.next | with_reducible apply State.work_keeps | with_reducible apply State.modLne_keeps | with_reducible apply State.restartLane_keeps | with_reducible apply State.complete_keeps | with_reducible apply foldl_keeps | with_reducible apply ite_keeps | with_reducible apply iteO_keeps | split | with_reducible rfl | with_reducible apply And.intro | (dsimp only [id]; with_reducible assumption)

end Sys2Proof.Machine
end

