-- ==== Sys2Proof/Laws/KeepsLifeCycle.lean ====
section
/-! SUPPORT. What the operations of Machine/LifeCycle.lean keep: the queue, the variant, the canonical form of the stores. -/
namespace Sys2Proof.Machine

theorem State.refreshIdentity_keeps {s₀ : State} (s : State) (hk : Keeps s₀ s) : Keeps s₀ (State.refreshIdentity s) := by
  unfold State.refreshIdentity
  try dsimp only
  repeat' first | (intro _) | with_reducible assumption | with_reducible apply State.modKey_keeps | with_reducible apply foldl_keeps | with_reducible apply ite_keeps | split | with_reducible rfl | with_reducible apply And.intro | (dsimp only [id]; with_reducible assumption)

theorem State.useNonce_keeps {s₀ : State} (a : Auth) (s : State) (hk : Keeps s₀ s) : Keeps s₀ (State.useNonce a s) := by
  unfold State.useNonce
  try dsimp only
  repeat' first | (intro _) | with_reducible assumption | with_reducible apply State.modLcs_keeps | with_reducible apply foldl_keeps | with_reducible apply ite_keeps | split | with_reducible rfl | with_reducible apply And.intro | (dsimp only [id]; with_reducible assumption)

theorem State.authFailed_keeps {s₀ : State} (s : State) (hk : Keeps s₀ s) : Keeps s₀ (State.authFailed s) := by
  unfold State.authFailed
  try dsimp only
  repeat' first | (intro _) | with_reducible assumption | with_reducible apply State.modLcs_keeps | with_reducible apply State.raise_keeps | with_reducible apply foldl_keeps | with_reducible apply ite_keeps | split | with_reducible rfl | with_reducible apply And.intro | (dsimp only [id]; with_reducible assumption)

theorem State.sealLegal_keeps {s₀ : State} (meter : BitVec 128) (s : State) (hk : Keeps s₀ s) : Keeps s₀ (State.sealLegal meter s) := by
  unfold State.sealLegal
  try dsimp only
  repeat' first | (intro _) | with_reducible assumption | with_reducible apply State.modBil_keeps | with_reducible apply State.modCfg_keeps | with_reducible apply foldl_keeps | with_reducible apply ite_keeps | split | with_reducible rfl | with_reducible apply And.intro | (dsimp only [id]; with_reducible assumption)

theorem State.transitionKeys_keeps {s₀ : State} (enrol : Bool) (s : State) (hk : Keeps s₀ s) : Keeps s₀ (State.transitionKeys enrol s) := by
  unfold State.transitionKeys
  try dsimp only
  repeat' first | (intro _) | with_reducible assumption | with_reducible apply State.cond_keeps | with_reducible apply State.modKey_keeps | with_reducible apply State.raise_keeps | with_reducible apply State.refreshIdentity_keeps | with_reducible apply foldl_keeps | with_reducible apply ite_keeps | split | with_reducible rfl | with_reducible apply And.intro | (dsimp only [id]; with_reducible assumption)

theorem State.dropKeyWork_keeps {s₀ : State} (s : State) (hk : Keeps s₀ s) : Keeps s₀ (State.dropKeyWork s) := by
  unfold State.dropKeyWork
  try dsimp only
  repeat' first | (intro _) | with_reducible assumption | with_reducible apply State.forAll_keeps | with_reducible apply State.completeAt_keeps | with_reducible apply State.modRingF_keeps | with_reducible apply foldl_keeps | with_reducible apply ite_keeps | split | with_reducible rfl | with_reducible apply And.intro | (dsimp only [id]; with_reducible assumption)

theorem State.transition_keeps {s₀ : State} (target : LcState) (meter : BitVec 128) (s : State) (hk : Keeps s₀ s) : Keeps s₀ (State.transition target meter s) := by
  unfold State.transition
  try dsimp only
  repeat' first | (intro _) | with_reducible assumption | with_reducible apply State.cond_keeps | with_reducible apply State.sealLegal_keeps | with_reducible apply State.modLcs_keeps | with_reducible apply State.modCfg_keeps | with_reducible apply State.transitionKeys_keeps | with_reducible apply State.dropKeyWork_keeps | with_reducible apply State.raise_keeps | with_reducible apply foldl_keeps | with_reducible apply ite_keeps | split | with_reducible rfl | with_reducible apply And.intro | (dsimp only [id]; with_reducible assumption)

theorem execLcsTransition_keeps {s₀ : State} (r : Ring) (d : Desc) (s : State) (hk : Keeps s₀ s) : KeepsO s₀ (execLcsTransition r d s) := by
  unfold execLcsTransition
  try dsimp only
  repeat' first | (intro _) | with_reducible assumption | with_reducible apply KeepsO.next | with_reducible apply State.work_keeps | with_reducible apply State.modLcs_keeps | with_reducible apply State.complete_keeps | with_reducible apply State.transition_keeps | with_reducible apply foldl_keeps | with_reducible apply ite_keeps | with_reducible apply iteO_keeps | split | with_reducible rfl | with_reducible apply And.intro | (dsimp only [id]; with_reducible assumption)

theorem State.eraseLegal_keeps {s₀ : State} (s : State) (hk : Keeps s₀ s) : Keeps s₀ (State.eraseLegal s) := by
  unfold State.eraseLegal
  try dsimp only
  repeat' first | (intro _) | with_reducible assumption | with_reducible apply State.modBil_keeps | with_reducible apply State.modCfg_keeps | with_reducible apply foldl_keeps | with_reducible apply ite_keeps | split | with_reducible rfl | with_reducible apply And.intro | (dsimp only [id]; with_reducible assumption)

theorem execBilErase_keeps {s₀ : State} (r : Ring) (d : Desc) (s : State) (hk : Keeps s₀ s) : KeepsO s₀ (execBilErase r d s) := by
  unfold execBilErase
  try dsimp only
  repeat' first | (intro _) | with_reducible assumption | with_reducible apply KeepsO.next | with_reducible apply State.work_keeps | with_reducible apply State.eraseLegal_keeps | with_reducible apply State.complete_keeps | with_reducible apply State.transition_keeps | with_reducible apply State.modLcs_keeps | with_reducible apply foldl_keeps | with_reducible apply ite_keeps | with_reducible apply iteO_keeps | split | with_reducible rfl | with_reducible apply And.intro | (dsimp only [id]; with_reducible assumption)

theorem State.openPort_keeps {s₀ : State} (auth : List Byte) (s : State) (hk : Keeps s₀ s) : Keeps s₀ (State.openPort auth s) := by
  unfold State.openPort
  try dsimp only
  repeat' first | (intro _) | with_reducible assumption | with_reducible apply State.modLcs_keeps | with_reducible apply State.modKey_keeps | with_reducible apply State.refreshIdentity_keeps | with_reducible apply State.raise_keeps | with_reducible apply foldl_keeps | with_reducible apply ite_keeps | split | with_reducible rfl | with_reducible apply And.intro | (dsimp only [id]; with_reducible assumption)

theorem execLcsPortOpen_keeps {s₀ : State} (r : Ring) (d : Desc) (s : State) (hk : Keeps s₀ s) : KeepsO s₀ (execLcsPortOpen r d s) := by
  unfold execLcsPortOpen
  try dsimp only
  repeat' first | (intro _) | with_reducible assumption | with_reducible apply KeepsO.next | with_reducible apply State.work_keeps | with_reducible apply State.openPort_keeps | with_reducible apply State.complete_keeps | with_reducible apply foldl_keeps | with_reducible apply ite_keeps | with_reducible apply iteO_keeps | split | with_reducible rfl | with_reducible apply And.intro | (dsimp only [id]; with_reducible assumption)

theorem execLcsPortClose_keeps {s₀ : State} (r : Ring) (d : Desc) (s : State) (hk : Keeps s₀ s) : KeepsO s₀ (execLcsPortClose r d s) := by
  unfold execLcsPortClose
  try dsimp only
  repeat' first | (intro _) | with_reducible assumption | with_reducible apply KeepsO.next | with_reducible apply State.work_keeps | with_reducible apply State.modLcs_keeps | with_reducible apply State.complete_keeps | with_reducible apply foldl_keeps | with_reducible apply ite_keeps | with_reducible apply iteO_keeps | split | with_reducible rfl | with_reducible apply And.intro | (dsimp only [id]; with_reducible assumption)

theorem execLcsPortAuthWrite_keeps {s₀ : State} (m : Master) (w : Word) (sigOk : Bool) (s : State) (hk : Keeps s₀ s) : KeepsO s₀ (execLcsPortAuthWrite m w sigOk s) := by
  unfold execLcsPortAuthWrite
  try dsimp only
  repeat' first | (intro _) | with_reducible assumption | with_reducible apply KeepsO.next | with_reducible apply State.live_keeps | with_reducible apply State.guardedWrite_keeps | with_reducible apply State.modLcs_keeps | with_reducible apply State.useNonce_keeps | with_reducible apply State.openPort_keeps | with_reducible apply State.authFailed_keeps | with_reducible apply foldl_keeps | with_reducible apply ite_keeps | with_reducible apply iteO_keeps | split | with_reducible rfl | with_reducible apply And.intro | (dsimp only [id]; with_reducible assumption)

theorem execLcsChallenge_keeps {s₀ : State} (r : Ring) (d : Desc) (s : State) (hk : Keeps s₀ s) : KeepsO s₀ (execLcsChallenge r d s) := by
  unfold execLcsChallenge
  try dsimp only
  repeat' first | (intro _) | with_reducible assumption | with_reducible apply KeepsO.next | with_reducible apply State.work_keeps | with_reducible apply State.useFree_keeps | with_reducible apply State.modLcs_keeps | with_reducible apply State.writePages_keeps | with_reducible apply State.complete_keeps | with_reducible apply foldl_keeps | with_reducible apply ite_keeps | with_reducible apply iteO_keeps | split | with_reducible rfl | with_reducible apply And.intro | (dsimp only [id]; with_reducible assumption)

theorem execLcsPolicySet_keeps {s₀ : State} (r : Ring) (d : Desc) (s : State) (hk : Keeps s₀ s) : KeepsO s₀ (execLcsPolicySet r d s) := by
  unfold execLcsPolicySet
  try dsimp only
  repeat' first | (intro _) | with_reducible assumption | with_reducible apply KeepsO.next | with_reducible apply State.work_keeps | with_reducible apply State.modLcs_keeps | with_reducible apply State.completeAt_keeps | with_reducible apply foldl_keeps | with_reducible apply ite_keeps | with_reducible apply iteO_keeps | split | with_reducible rfl | with_reducible apply And.intro | (dsimp only [id]; with_reducible assumption)

theorem execLcsLock_keeps {s₀ : State} (r : Ring) (d : Desc) (s : State) (hk : Keeps s₀ s) : KeepsO s₀ (execLcsLock r d s) := by
  unfold execLcsLock
  try dsimp only
  repeat' first | (intro _) | with_reducible assumption | with_reducible apply KeepsO.next | with_reducible apply State.work_keeps | with_reducible apply State.modLcs_keeps | with_reducible apply State.complete_keeps | with_reducible apply foldl_keeps | with_reducible apply ite_keeps | with_reducible apply iteO_keeps | split | with_reducible rfl | with_reducible apply And.intro | (dsimp only [id]; with_reducible assumption)

theorem State.modImg_keeps {s₀ : State} (k : Fin 6) (f : ImgKind → ImgKind) (s : State) (hk : Keeps s₀ s) : Keeps s₀ (State.modImg k f s) := by
  unfold State.modImg
  try dsimp only
  repeat' first | (intro _) | with_reducible assumption | with_reducible apply State.modLcs_keeps | with_reducible apply foldl_keeps | with_reducible apply ite_keeps | split | with_reducible rfl | with_reducible apply And.intro | (dsimp only [id]; with_reducible assumption)

theorem State.imageWrite_keeps {s₀ : State} (who : Option Ring) (seq : DWord) (d : Desc) (s : State) (hk : Keeps s₀ s) : Keeps s₀ (State.imageWrite who seq d s) := by
  unfold State.imageWrite
  try dsimp only
  repeat' first | (intro _) | with_reducible assumption | with_reducible apply State.modLcs_keeps | with_reducible apply foldl_keeps | with_reducible apply ite_keeps | split | with_reducible rfl | with_reducible apply And.intro | (dsimp only [id]; with_reducible assumption)

theorem execLcsImageWrite_keeps {s₀ : State} (r : Ring) (d : Desc) (s : State) (hk : Keeps s₀ s) : KeepsO s₀ (execLcsImageWrite r d s) := by
  unfold execLcsImageWrite
  try dsimp only
  repeat' first | (intro _) | with_reducible assumption | with_reducible apply KeepsO.next | with_reducible apply State.work_keeps | with_reducible apply State.imageWrite_keeps | with_reducible apply foldl_keeps | with_reducible apply ite_keeps | with_reducible apply iteO_keeps | split | with_reducible rfl | with_reducible apply And.intro | (dsimp only [id]; with_reducible assumption)

theorem execImageVerifyDone_keeps {s₀ : State} (ok : Bool) (s : State) (hk : Keeps s₀ s) : KeepsO s₀ (execImageVerifyDone ok s) := by
  unfold execImageVerifyDone
  try dsimp only
  repeat' first | (intro _) | with_reducible assumption | with_reducible apply KeepsO.next | with_reducible apply State.live_keeps | with_reducible apply State.modLcs_keeps | with_reducible apply State.complete_keeps | with_reducible apply foldl_keeps | with_reducible apply ite_keeps | with_reducible apply iteO_keeps | split | with_reducible rfl | with_reducible apply And.intro | (dsimp only [id]; with_reducible assumption)

theorem State.imageConfirm_keeps {s₀ : State} (d : Desc) (s : State) (hk : Keeps s₀ s) : Keeps s₀ (State.imageConfirm d s).1 := by
  unfold State.imageConfirm
  try dsimp only
  repeat' first | (intro _) | with_reducible assumption | with_reducible apply State.modImg_keeps | with_reducible apply State.cond_keeps | with_reducible apply State.raise_keeps | with_reducible apply foldl_keeps | with_reducible apply ite_keeps | split | with_reducible rfl | with_reducible apply And.intro | (dsimp only [id]; with_reducible assumption)

theorem execLcsImageConfirm_keeps {s₀ : State} (r : Ring) (d : Desc) (s : State) (hk : Keeps s₀ s) : KeepsO s₀ (execLcsImageConfirm r d s) := by
  unfold execLcsImageConfirm
  try dsimp only
  repeat' first | (intro _) | with_reducible assumption | with_reducible apply KeepsO.next | with_reducible apply State.work_keeps | with_reducible apply State.effect_keeps | with_reducible apply State.imageConfirm_keeps | with_reducible apply foldl_keeps | with_reducible apply ite_keeps | with_reducible apply iteO_keeps | split | with_reducible rfl | with_reducible apply And.intro | (dsimp only [id]; with_reducible assumption)

theorem State.imagePrefer_keeps {s₀ : State} (k : Fin 6) (s : State) (hk : Keeps s₀ s) : Keeps s₀ (State.imagePrefer k s) := by
  unfold State.imagePrefer
  try dsimp only
  repeat' first | (intro _) | with_reducible assumption | with_reducible apply State.modImg_keeps | with_reducible apply foldl_keeps | with_reducible apply ite_keeps | split | with_reducible rfl | with_reducible apply And.intro | (dsimp only [id]; with_reducible assumption)

theorem State.bootKind_keeps {s₀ : State} (k : Fin 6) (s : State) (hk : Keeps s₀ s) : Keeps s₀ (State.bootKind k s) := by
  unfold State.bootKind
  try dsimp only
  repeat' first | (intro _) | with_reducible assumption | with_reducible apply State.modImg_keeps | with_reducible apply State.cond_keeps | with_reducible apply State.raiseAt_keeps | with_reducible apply State.modLcs_keeps | with_reducible apply State.tamperEvent_keeps | with_reducible apply foldl_keeps | with_reducible apply ite_keeps | split | with_reducible rfl | with_reducible apply And.intro | (dsimp only [id]; with_reducible assumption)

theorem State.bootEnd_keeps {s₀ : State} (s : State) (hk : Keeps s₀ s) : Keeps s₀ (State.bootEnd s) := by
  unfold State.bootEnd
  try dsimp only
  repeat' first | (intro _) | with_reducible assumption | with_reducible apply State.modKey_keeps | with_reducible apply State.refreshIdentity_keeps | with_reducible apply foldl_keeps | with_reducible apply ite_keeps | split | with_reducible rfl | with_reducible apply And.intro | (dsimp only [id]; with_reducible assumption)

end Sys2Proof.Machine
end

