-- ==== Sys2Proof/Laws/KeepsPower.lean ====
section
/-! SUPPORT. What the operations of Machine/Power.lean keep: the queue, the variant, the canonical form of the stores. -/
namespace Sys2Proof.Machine

theorem State.mramAfterReset_keeps {s₀ : State} (td : Int) (s : State) (hk : Keeps s₀ s) : Keeps s₀ (State.mramAfterReset td s) := by
  unfold State.mramAfterReset
  try dsimp only
  repeat' first | (intro _) | with_reducible assumption | with_reducible apply State.modThm_keeps | with_reducible apply State.mramWindow_keeps | with_reducible apply State.flushWaiting_keeps | with_reducible apply foldl_keeps | with_reducible apply ite_keeps | split | with_reducible rfl | with_reducible apply And.intro | (dsimp only [id]; with_reducible assumption)

theorem State.safetyLow_keeps {s₀ : State} (s : State) (hk : Keeps s₀ s) : Keeps s₀ (State.safetyLow s) := by
  unfold State.safetyLow
  try dsimp only
  repeat' first | (intro _) | with_reducible assumption | with_reducible apply State.modSaf_keeps | with_reducible apply State.forAll_keeps | with_reducible apply State.setDrives_keeps | with_reducible apply foldl_keeps | with_reducible apply ite_keeps | split | with_reducible rfl | with_reducible apply And.intro | (dsimp only [id]; with_reducible assumption)

theorem State.dropQueue_keeps {s₀ : State} (q : Fin 4) (s : State) (hk : Keeps s₀ s) : Keeps s₀ (State.dropQueue q s) := by
  unfold State.dropQueue
  try dsimp only
  repeat' first | (intro _) | with_reducible assumption | with_reducible apply State.modKey_keeps | with_reducible apply foldl_keeps | with_reducible apply ite_keeps | split | with_reducible rfl | with_reducible apply And.intro | (dsimp only [id]; with_reducible assumption)

theorem State.controlReset_keeps {s₀ : State} (s : State) (hk : Keeps s₀ s) : Keeps s₀ (State.controlReset s) := by
  unfold State.controlReset
  try dsimp only
  repeat' first | (intro _) | with_reducible assumption | with_reducible apply State.raiseGlb_keeps | with_reducible apply State.syncControlFault_keeps | with_reducible apply State.safetyLow_keeps | with_reducible apply State.pwmReset_keeps | with_reducible apply State.modEv_keeps | with_reducible apply State.sramClear_keeps | with_reducible apply State.dropQueue_keeps | with_reducible apply State.mramAfterReset_keeps | with_reducible apply State.forAll_keeps | with_reducible apply State.modVclCh_keeps | with_reducible apply State.cond_keeps | with_reducible apply State.modVcl_keeps | with_reducible apply foldl_keeps | with_reducible apply ite_keeps | split | with_reducible rfl | with_reducible apply And.intro | with_reducible apply Keeps.written | (dsimp only [id]; with_reducible assumption)

theorem State.dataReset_keeps {s₀ : State} (s : State) (hk : Keeps s₀ s) : Keeps s₀ (State.dataReset s) := by
  unfold State.dataReset
  try dsimp only
  repeat' first | (intro _) | with_reducible assumption | with_reducible apply State.modEv_keeps | with_reducible apply State.sramClear_keeps | with_reducible apply State.dropQueue_keeps | with_reducible apply foldl_keeps | with_reducible apply ite_keeps | split | with_reducible rfl | with_reducible apply And.intro | with_reducible apply Keeps.written | (dsimp only [id]; with_reducible assumption)

theorem State.loseActivation_keeps {s₀ : State} (s : State) (hk : Keeps s₀ s) : Keeps s₀ (State.loseActivation s) := by
  unfold State.loseActivation
  try dsimp only
  repeat' first | (intro _) | with_reducible assumption | with_reducible apply State.modCfg_keeps | with_reducible apply State.complete_keeps | with_reducible apply foldl_keeps | with_reducible apply ite_keeps | split | with_reducible rfl | with_reducible apply And.intro | (dsimp only [id]; with_reducible assumption)

theorem State.mgmtReset_keeps {s₀ : State} (s : State) (hk : Keeps s₀ s) : Keeps s₀ (State.mgmtReset s) := by
  unfold State.mgmtReset
  try dsimp only
  repeat' first | (intro _) | with_reducible assumption | with_reducible apply State.modEv_keeps | with_reducible apply State.sramClear_keeps | with_reducible apply State.dropQueue_keeps | with_reducible apply foldl_keeps | with_reducible apply ite_keeps | split | with_reducible rfl | with_reducible apply And.intro | with_reducible apply Keeps.written | (dsimp only [id]; with_reducible assumption)

theorem State.blocksReset_keeps {s₀ : State} (p : Plane) (s : State) (hk : Keeps s₀ s) : Keeps s₀ (State.blocksReset p s) := by
  unfold State.blocksReset
  try dsimp only
  repeat' first | (intro _) | with_reducible assumption | with_reducible apply State.loseActivation_keeps | with_reducible apply State.controlReset_keeps | with_reducible apply State.dataReset_keeps | with_reducible apply State.mgmtReset_keeps | with_reducible apply foldl_keeps | with_reducible apply ite_keeps | split | with_reducible rfl | with_reducible apply And.intro | (dsimp only [id]; with_reducible assumption)

theorem State.bootAll_keeps {s₀ : State} (ks : List (Fin 6)) (s : State) (hk : Keeps s₀ s) : Keeps s₀ (State.bootAll ks s) := by
  unfold State.bootAll
  try dsimp only
  repeat' first | (intro _) | with_reducible assumption | with_reducible apply State.bootKind_keeps | with_reducible apply State.complete_keeps | with_reducible apply State.modLcs_keeps | with_reducible apply foldl_keeps | with_reducible apply ite_keeps | split | with_reducible rfl | with_reducible apply And.intro | (dsimp only [id]; with_reducible assumption)

theorem State.planeReset_keeps {s₀ : State} (p : Plane) (s : State) (hk : Keeps s₀ s) : Keeps s₀ (State.planeReset p s) := by
  unfold State.planeReset
  try dsimp only
  repeat' first | (intro _) | with_reducible assumption | with_reducible apply State.noteReset_keeps | with_reducible apply State.blocksReset_keeps | with_reducible apply State.modRingF_keeps | with_reducible apply State.bootAll_keeps | with_reducible apply State.bootEnd_keeps | with_reducible apply State.modPwr_keeps | with_reducible apply foldl_keeps | with_reducible apply ite_keeps | split | with_reducible rfl | with_reducible apply And.intro | (dsimp only [id]; with_reducible assumption)

theorem execPlaneReset_keeps {s₀ : State} (p : Plane) (s : State) (hk : Keeps s₀ s) : KeepsO s₀ (execPlaneReset p s) := by
  unfold execPlaneReset
  try dsimp only
  repeat' first | (intro _) | with_reducible assumption | with_reducible apply KeepsO.next | with_reducible apply State.planeReset_keeps | with_reducible apply foldl_keeps | with_reducible apply ite_keeps | with_reducible apply iteO_keeps | split | with_reducible rfl | with_reducible apply And.intro | (dsimp only [id]; with_reducible assumption)

theorem execReadyTimeout_keeps {s₀ : State} (kind : Fin 6) (s : State) (hk : Keeps s₀ s) : KeepsO s₀ (execReadyTimeout kind s) := by
  unfold execReadyTimeout
  try dsimp only
  repeat' first | (intro _) | with_reducible assumption | with_reducible apply KeepsO.next | with_reducible apply State.runTo_keeps | with_reducible apply State.planeReset_keeps | with_reducible apply foldl_keeps | with_reducible apply ite_keeps | with_reducible apply iteO_keeps | split | with_reducible rfl | with_reducible apply And.intro | (dsimp only [id]; with_reducible assumption)

theorem execLcsImageActivate_keeps {s₀ : State} (r : Ring) (d : Desc) (s : State) (hk : Keeps s₀ s) : KeepsO s₀ (execLcsImageActivate r d s) := by
  unfold execLcsImageActivate
  try dsimp only
  repeat' first | (intro _) | with_reducible assumption | with_reducible apply KeepsO.next | with_reducible apply State.work_keeps | with_reducible apply State.imagePrefer_keeps | with_reducible apply State.modLcs_keeps | with_reducible apply State.planeReset_keeps | with_reducible apply foldl_keeps | with_reducible apply ite_keeps | with_reducible apply iteO_keeps | split | with_reducible rfl | with_reducible apply And.intro | (dsimp only [id]; with_reducible assumption)

theorem State.planeStarts_keeps {s₀ : State} (p : Plane) (s : State) (hk : Keeps s₀ s) : Keeps s₀ (State.planeStarts p s) := by
  unfold State.planeStarts
  try dsimp only
  repeat' first | (intro _) | with_reducible assumption | with_reducible apply State.modRgt_keeps | with_reducible apply State.modAlc_keeps | with_reducible apply State.modLne_keeps | with_reducible apply State.modPwr_keeps | with_reducible apply State.safetyUpdate_keeps | with_reducible apply State.homeStart_keeps | with_reducible apply foldl_keeps | with_reducible apply ite_keeps | split | with_reducible rfl | with_reducible apply And.intro | (dsimp only [id]; with_reducible assumption)

theorem State.readyNow_keeps {s₀ : State} (p : Plane) (s : State) (hk : Keeps s₀ s) : Keeps s₀ (State.readyNow p s) := by
  unfold State.readyNow
  try dsimp only
  repeat' first | (intro _) | with_reducible assumption | with_reducible apply State.modImg_keeps | with_reducible apply State.planeStarts_keeps | with_reducible apply State.cond_keeps | with_reducible apply State.raiseAt_keeps | with_reducible apply State.complete_keeps | with_reducible apply State.modPwr_keeps | with_reducible apply State.recoverCarrier_keeps | with_reducible apply State.checkReady_keeps | with_reducible apply foldl_keeps | with_reducible apply ite_keeps | split | with_reducible rfl | with_reducible apply And.intro | (dsimp only [id]; with_reducible assumption)

theorem execPlaneReady_keeps {s₀ : State} (p : Plane) (integrator : Bool) (s : State) (hk : Keeps s₀ s) : KeepsO s₀ (execPlaneReady p integrator s) := by
  unfold execPlaneReady
  try dsimp only
  repeat' first | (intro _) | with_reducible assumption | with_reducible apply KeepsO.next | with_reducible apply State.modImg_keeps | with_reducible apply State.modPwr_keeps | with_reducible apply State.readyNow_keeps | with_reducible apply foldl_keeps | with_reducible apply ite_keeps | with_reducible apply iteO_keeps | split | with_reducible rfl | with_reducible apply And.intro | (dsimp only [id]; with_reducible assumption)

theorem State.warmEnter_keeps {s₀ : State} (cause : BitVec 3) (s : State) (hk : Keeps s₀ s) : Keeps s₀ (State.warmEnter cause s) := by
  unfold State.warmEnter
  apply State.modEv_keeps
  have h1 : Keeps s₀ (State.mgmtReset (State.dataReset (State.controlReset (State.noteReset [0, 1, 2] true (State.stopEngine s))))) :=
    State.mgmtReset_keeps _ (State.dataReset_keeps _ (State.controlReset_keeps _ (State.noteReset_keeps _ _ _ (State.stopEngine_keeps _ hk))))
  dsimp only
  generalize State.mgmtReset (State.dataReset (State.controlReset (State.noteReset [0, 1, 2] true (State.stopEngine s)))) = x at h1 ⊢
  exact h1.trans ⟨rfl, rfl, fun w => w⟩

theorem State.warmBoot_keeps {s₀ : State} (s : State) (hk : Keeps s₀ s) : Keeps s₀ (State.warmBoot s) := by
  unfold State.warmBoot
  try dsimp only
  repeat' first | (intro _) | with_reducible assumption | with_reducible apply State.modClk_keeps | with_reducible apply State.clearGlb_keeps | with_reducible apply State.modLcs_keeps | with_reducible apply State.modKey_keeps | with_reducible apply State.bootAll_keeps | with_reducible apply State.bootEnd_keeps | with_reducible apply foldl_keeps | with_reducible apply ite_keeps | split | with_reducible rfl | with_reducible apply And.intro | (dsimp only [id]; with_reducible assumption)

theorem State.warmReset_keeps {s₀ : State} (cause : BitVec 3) (s : State) (hk : Keeps s₀ s) : Keeps s₀ (State.warmReset cause s) := by
  unfold State.warmReset
  try dsimp only
  repeat' first | (intro _) | with_reducible assumption | with_reducible apply State.warmEnter_keeps | with_reducible apply State.modClk_keeps | with_reducible apply State.warmBoot_keeps | with_reducible apply foldl_keeps | with_reducible apply ite_keeps | split | with_reducible rfl | with_reducible apply And.intro | (dsimp only [id]; with_reducible assumption)

theorem execWarmReset_keeps {s₀ : State} (clockFault : Bool) (held : Nat) (s : State) (hk : Keeps s₀ s) : KeepsO s₀ (execWarmReset clockFault held s) := by
  unfold execWarmReset
  try dsimp only
  repeat' first | (intro _) | with_reducible assumption | with_reducible apply KeepsO.next | with_reducible apply State.cond_keeps | with_reducible apply State.warmReset_keeps | with_reducible apply foldl_keeps | with_reducible apply ite_keeps | with_reducible apply iteO_keeps | split | with_reducible rfl | with_reducible apply And.intro | (dsimp only [id]; with_reducible assumption)

theorem State.clockFaultAct_keeps {s₀ : State} (s : State) (hk : Keeps s₀ s) : Keeps s₀ (State.clockFaultAct s) := by
  unfold State.clockFaultAct
  try dsimp only
  repeat' first | (intro _) | with_reducible assumption | with_reducible apply State.raiseGlb_keeps | with_reducible apply State.syncControlFault_keeps | with_reducible apply State.forAll_keeps | with_reducible apply State.setDrives_keeps | with_reducible apply State.modAux_keeps | with_reducible apply State.modClk_keeps | with_reducible apply State.stopEngine_keeps | with_reducible apply State.modPwr_keeps | with_reducible apply State.cond_keeps | with_reducible apply State.legalWarning_keeps | with_reducible apply foldl_keeps | with_reducible apply ite_keeps | split | with_reducible rfl | with_reducible apply And.intro | (dsimp only [id]; with_reducible assumption)

theorem execRootLost_keeps {s₀ : State} (gap : Nat) (locked : Bool) (s : State) (hk : Keeps s₀ s) : KeepsO s₀ (execRootLost gap locked s) := by
  unfold execRootLost
  try dsimp only
  repeat' first | (intro _) | with_reducible assumption | with_reducible apply KeepsO.next | with_reducible apply State.modClk_keeps | with_reducible apply State.raise_keeps | with_reducible apply State.cond_keeps | with_reducible apply State.clockFaultAct_keeps | with_reducible apply foldl_keeps | with_reducible apply ite_keeps | with_reducible apply iteO_keeps | split | with_reducible rfl | with_reducible apply And.intro | (dsimp only [id]; with_reducible assumption)

theorem execDriftCheck_keeps {s₀ : State} (edges : Nat) (s : State) (hk : Keeps s₀ s) : KeepsO s₀ (execDriftCheck edges s) := by
  unfold execDriftCheck
  try dsimp only
  repeat' first | (intro _) | with_reducible assumption | with_reducible apply KeepsO.next | with_reducible apply State.modClk_keeps | with_reducible apply State.raise_keeps | with_reducible apply State.cond_keeps | with_reducible apply State.clockFaultAct_keeps | with_reducible apply foldl_keeps | with_reducible apply ite_keeps | with_reducible apply iteO_keeps | split | with_reducible rfl | with_reducible apply And.intro | (dsimp only [id]; with_reducible assumption)

theorem execXtalFail_keeps {s₀ : State} (freq : Nat) (s : State) (hk : Keeps s₀ s) : KeepsO s₀ (execXtalFail freq s) := by
  unfold execXtalFail
  try dsimp only
  repeat' first | (intro _) | with_reducible assumption | with_reducible apply KeepsO.next | with_reducible apply State.modClk_keeps | with_reducible apply State.raise_keeps | with_reducible apply foldl_keeps | with_reducible apply ite_keeps | with_reducible apply iteO_keeps | split | with_reducible rfl | with_reducible apply And.intro | (dsimp only [id]; with_reducible assumption)

theorem execClockFaultReset_keeps {s₀ : State} (s : State) (hk : Keeps s₀ s) : KeepsO s₀ (execClockFaultReset s) := by
  unfold execClockFaultReset
  try dsimp only
  repeat' first | (intro _) | with_reducible assumption | with_reducible apply KeepsO.next | with_reducible apply State.runTo_keeps | with_reducible apply State.warmReset_keeps | with_reducible apply foldl_keeps | with_reducible apply ite_keeps | with_reducible apply iteO_keeps | split | with_reducible rfl | with_reducible apply And.intro | (dsimp only [id]; with_reducible assumption)

theorem execRootRecovered_keeps {s₀ : State} (held : Nat) (locked : Bool) (s : State) (hk : Keeps s₀ s) : KeepsO s₀ (execRootRecovered held locked s) := by
  unfold execRootRecovered
  try dsimp only
  repeat' first | (intro _) | with_reducible assumption | with_reducible apply KeepsO.next | with_reducible apply State.modClk_keeps | with_reducible apply State.warmBoot_keeps | with_reducible apply foldl_keeps | with_reducible apply ite_keeps | with_reducible apply iteO_keeps | split | with_reducible rfl | with_reducible apply And.intro | (dsimp only [id]; with_reducible assumption)

theorem execPowerFailWarning_keeps {s₀ : State} (pfw : Bool) (x : Rails) (s : State) (hk : Keeps s₀ s) : KeepsO s₀ (execPowerFailWarning pfw x s) := by
  unfold execPowerFailWarning
  try dsimp only
  repeat' first | (intro _) | with_reducible assumption | with_reducible apply KeepsO.next | with_reducible apply State.legalWarning_keeps | with_reducible apply State.cond_keeps | with_reducible apply State.batStore_keeps | with_reducible apply State.stopEngine_keeps | with_reducible apply State.modPwr_keeps | with_reducible apply State.stopAllOutlets_keeps | with_reducible apply State.raise_keeps | with_reducible apply foldl_keeps | with_reducible apply ite_keeps | with_reducible apply iteO_keeps | split | with_reducible rfl | with_reducible apply And.intro | (dsimp only [id]; with_reducible assumption)

theorem execPfwRecovered_keeps {s₀ : State} (pfw : Bool) (x : Rails) (s : State) (hk : Keeps s₀ s) : KeepsO s₀ (execPfwRecovered pfw x s) := by
  unfold execPfwRecovered
  try dsimp only
  repeat' first | (intro _) | with_reducible assumption | with_reducible apply KeepsO.next | with_reducible apply State.modPwr_keeps | with_reducible apply State.raise_keeps | with_reducible apply foldl_keeps | with_reducible apply ite_keeps | with_reducible apply iteO_keeps | split | with_reducible rfl | with_reducible apply And.intro | with_reducible apply Keeps.written | (dsimp only [id]; with_reducible assumption)

theorem execHoldEntry_keeps {s₀ : State} (x : Rails) (s : State) (hk : Keeps s₀ s) : KeepsO s₀ (execHoldEntry x s) := by
  unfold execHoldEntry
  try dsimp only
  repeat' first | (intro _) | with_reducible assumption | with_reducible apply KeepsO.next | with_reducible apply State.safetyLow_keeps | with_reducible apply State.modPwr_keeps | with_reducible apply State.hold_keeps | with_reducible apply State.modBil_keeps | with_reducible apply State.modClk_keeps | with_reducible apply foldl_keeps | with_reducible apply ite_keeps | with_reducible apply iteO_keeps | split | with_reducible rfl | with_reducible apply And.intro | (dsimp only [id]; with_reducible assumption)

theorem State.aonGone_keeps {s₀ : State} (s : State) (hk : Keeps s₀ s) : Keeps s₀ (State.aonGone s) := by
  unfold State.aonGone
  try dsimp only
  repeat' first | (intro _) | with_reducible assumption | with_reducible apply State.cond_keeps | with_reducible apply State.modKey_keeps | with_reducible apply foldl_keeps | with_reducible apply ite_keeps | split | with_reducible rfl | with_reducible apply And.intro | (dsimp only [id]; with_reducible assumption)

theorem execAonStop_keeps {s₀ : State} (vbak : Nat) (s : State) (hk : Keeps s₀ s) : KeepsO s₀ (execAonStop vbak s) := by
  unfold execAonStop
  try dsimp only
  repeat' first | (intro _) | with_reducible assumption | with_reducible apply KeepsO.next | with_reducible apply State.hold_keeps | with_reducible apply State.aonGone_keeps | with_reducible apply State.modPwr_keeps | with_reducible apply foldl_keeps | with_reducible apply ite_keeps | with_reducible apply iteO_keeps | split | with_reducible rfl | with_reducible apply And.intro | (dsimp only [id]; with_reducible assumption)

theorem execBakChargerMode_keeps {s₀ : State} (vbak : Half) (microamps : Nat) (s : State) (hk : Keeps s₀ s) : KeepsO s₀ (execBakChargerMode vbak microamps s) := by
  unfold execBakChargerMode
  try dsimp only
  repeat' first | (intro _) | with_reducible assumption | with_reducible apply KeepsO.next | with_reducible apply State.modPwr_keeps | with_reducible apply foldl_keeps | with_reducible apply ite_keeps | with_reducible apply iteO_keeps | split | with_reducible rfl | with_reducible apply And.intro | (dsimp only [id]; with_reducible assumption)

theorem State.caddyCold_keeps {s₀ : State} (s : State) (hk : Keeps s₀ s) : Keeps s₀ (State.caddyCold s) := by
  unfold State.caddyCold
  try dsimp only
  repeat' first | (intro _) | with_reducible assumption | with_reducible apply State.useFree_keeps | with_reducible apply State.modKey_keeps | with_reducible apply State.cond_keeps | with_reducible apply State.raise_keeps | with_reducible apply foldl_keeps | with_reducible apply ite_keeps | split | with_reducible rfl | with_reducible apply And.intro | (dsimp only [id]; with_reducible assumption)

theorem State.legalStart_keeps {s₀ : State} (aon : Bool) (slots : BitVec 2) (warned : Bool) (s : State) (hk : Keeps s₀ s) : Keeps s₀ (State.legalStart aon slots warned s) := by
  unfold State.legalStart
  try dsimp only
  repeat' first | (intro _) | with_reducible assumption | with_reducible apply State.modBil_keeps | with_reducible apply State.modImg_keeps | with_reducible apply State.modPwr_keeps | with_reducible apply State.legalFirst_keeps | with_reducible apply State.legalRestore_keeps | with_reducible apply State.forAll_keeps | with_reducible apply State.signalMet_keeps | with_reducible apply State.darkRestore_keeps | with_reducible apply foldl_keeps | with_reducible apply ite_keeps | split | with_reducible rfl | with_reducible apply And.intro | (dsimp only [id]; with_reducible assumption)

/-- Cleared private SRAM is canonical. -/
theorem sram_cold_wf : ∀ g : Fin 8, Memory.wf ((Vector.replicate 8 ([] : List (Nat × Byte))).get g) := by decide

theorem State.coldState_keeps {s₀ : State} (source : BitVec 3) (aon : Bool) (estopA estopB : BitVec 4) (s : State) (hk : Keeps s₀ s) : Keeps s₀ (State.coldState source aon estopA estopB s) := by
  unfold State.coldState
  dsimp only
  exact hk.trans ⟨rfl, rfl, fun _ => ⟨rfl, rfl, sram_cold_wf⟩⟩

theorem State.coldStart_keeps {s₀ : State} (source : BitVec 3) (aonOk : Bool) (slots : BitVec 2) (estopA estopB : BitVec 4) (s : State) (hk : Keeps s₀ s) : Keeps s₀ (State.coldStart source aonOk slots estopA estopB s) := by
  unfold State.coldStart
  try dsimp only
  repeat' first | (intro _) | with_reducible assumption | with_reducible apply State.stopEngine_keeps | with_reducible apply State.coldState_keeps | with_reducible apply State.useFree_keeps | with_reducible apply State.cond_keeps | with_reducible apply State.aonGone_keeps | with_reducible apply State.noteReset_keeps | with_reducible apply State.caddyCold_keeps | with_reducible apply State.modLcs_keeps | with_reducible apply State.mramAfterReset_keeps | with_reducible apply State.bootAll_keeps | with_reducible apply State.bootEnd_keeps | with_reducible apply State.legalStart_keeps | with_reducible apply State.raise_keeps | with_reducible apply foldl_keeps | with_reducible apply ite_keeps | split | with_reducible rfl | with_reducible apply And.intro | (dsimp only [id]; with_reducible assumption)

theorem execColdReset_keeps {s₀ : State} (source : BitVec 3) (held : Nat) (aonOk : Bool) (slots : BitVec 2) (estopA estopB : BitVec 4) (s : State) (hk : Keeps s₀ s) : KeepsO s₀ (execColdReset source held aonOk slots estopA estopB s) := by
  unfold execColdReset
  try dsimp only
  repeat' first | (intro _) | with_reducible assumption | with_reducible apply KeepsO.next | with_reducible apply State.coldStart_keeps | with_reducible apply foldl_keeps | with_reducible apply ite_keeps | with_reducible apply iteO_keeps | split | with_reducible rfl | with_reducible apply And.intro | with_reducible apply Keeps.written | (dsimp only [id]; with_reducible assumption)

theorem execPwrReset_keeps {s₀ : State} (r : Ring) (d : Desc) (s : State) (hk : Keeps s₀ s) : KeepsO s₀ (execPwrReset r d s) := by
  unfold execPwrReset
  try dsimp only
  repeat' first | (intro _) | with_reducible assumption | with_reducible apply KeepsO.next | with_reducible apply State.work_keeps | with_reducible apply State.modPwr_keeps | with_reducible apply State.planeReset_keeps | with_reducible apply State.warmReset_keeps | with_reducible apply foldl_keeps | with_reducible apply ite_keeps | with_reducible apply iteO_keeps | split | with_reducible rfl | with_reducible apply And.intro | (dsimp only [id]; with_reducible assumption)

theorem execPwrIdle_keeps {s₀ : State} (r : Ring) (d : Desc) (s : State) (hk : Keeps s₀ s) : KeepsO s₀ (execPwrIdle r d s) := by
  unfold execPwrIdle
  try dsimp only
  repeat' first | (intro _) | with_reducible assumption | with_reducible apply KeepsO.next | with_reducible apply State.work_keeps | with_reducible apply State.complete_keeps | with_reducible apply State.clearAllEn_keeps | with_reducible apply State.modPwr_keeps | with_reducible apply foldl_keeps | with_reducible apply ite_keeps | with_reducible apply iteO_keeps | split | with_reducible rfl | with_reducible apply And.intro | with_reducible apply Keeps.written | (dsimp only [id]; with_reducible assumption)

theorem execPwrRun_keeps {s₀ : State} (r : Ring) (d : Desc) (s : State) (hk : Keeps s₀ s) : KeepsO s₀ (execPwrRun r d s) := by
  unfold execPwrRun
  try dsimp only
  repeat' first | (intro _) | with_reducible assumption | with_reducible apply KeepsO.next | with_reducible apply State.work_keeps | with_reducible apply State.modPwr_keeps | with_reducible apply State.complete_keeps | with_reducible apply foldl_keeps | with_reducible apply ite_keeps | with_reducible apply iteO_keeps | split | with_reducible rfl | with_reducible apply And.intro | (dsimp only [id]; with_reducible assumption)

end Sys2Proof.Machine
end

