-- ==== Sys2Proof/Laws/KeepsDiagnostics.lean ====
section
/-! SUPPORT. What the operations of Machine/Diagnostics.lean keep: the queue, the variant, the canonical form of the stores. -/
namespace Sys2Proof.Machine

theorem State.laneRound_keeps {s₀ : State} (inp : HkIn) (s : State) (hk : Keeps s₀ s) : Keeps s₀ (State.laneRound inp s) := by
  unfold State.laneRound
  try dsimp only
  repeat' first | (intro _) | with_reducible assumption | with_reducible apply State.modDia_keeps | with_reducible apply State.cond_keeps | with_reducible apply State.raise_keeps | with_reducible apply foldl_keeps | with_reducible apply ite_keeps | split | with_reducible rfl | with_reducible apply And.intro | (dsimp only [id]; with_reducible assumption)

theorem State.spreadRound_keeps {s₀ : State} (s : State) (hk : Keeps s₀ s) : Keeps s₀ (State.spreadRound s) := by
  unfold State.spreadRound
  try dsimp only
  repeat' first | (intro _) | with_reducible assumption | with_reducible apply State.modDia_keeps | with_reducible apply State.raise_keeps | with_reducible apply foldl_keeps | with_reducible apply ite_keeps | split | with_reducible rfl | with_reducible apply And.intro | (dsimp only [id]; with_reducible assumption)

theorem State.driftRound_keeps {s₀ : State} (s : State) (hk : Keeps s₀ s) : Keeps s₀ (State.driftRound s) := by
  unfold State.driftRound
  try dsimp only
  repeat' first | (intro _) | with_reducible assumption | with_reducible apply State.modDia_keeps | with_reducible apply foldl_keeps | with_reducible apply ite_keeps | split | with_reducible rfl | with_reducible apply And.intro | (dsimp only [id]; with_reducible assumption)

theorem State.diaRound_keeps {s₀ : State} (inp : HkIn) (s : State) (hk : Keeps s₀ s) : Keeps s₀ (State.diaRound inp s) := by
  unfold State.diaRound
  try dsimp only
  repeat' first | (intro _) | with_reducible assumption | with_reducible apply State.laneRound_keeps | with_reducible apply State.spreadRound_keeps | with_reducible apply State.driftRound_keeps | with_reducible apply foldl_keeps | with_reducible apply ite_keeps | split | with_reducible rfl | with_reducible apply And.intro | (dsimp only [id]; with_reducible assumption)

theorem State.driftFlag_keeps {s₀ : State} (i : Fin 16) (s : State) (hk : Keeps s₀ s) : Keeps s₀ (State.driftFlag i s) := by
  unfold State.driftFlag
  try dsimp only
  repeat' first | (intro _) | with_reducible assumption | with_reducible apply State.modDia_keeps | with_reducible apply State.raise_keeps | with_reducible apply foldl_keeps | with_reducible apply ite_keeps | split | with_reducible rfl | with_reducible apply And.intro | (dsimp only [id]; with_reducible assumption)

theorem execDriftWindow_keeps {s₀ : State} (s : State) (hk : Keeps s₀ s) : KeepsO s₀ (execDriftWindow s) := by
  unfold execDriftWindow
  try dsimp only
  repeat' first | (intro _) | with_reducible assumption | with_reducible apply KeepsO.next | with_reducible apply State.live_keeps | with_reducible apply State.runTo_keeps | with_reducible apply State.modDia_keeps | with_reducible apply State.forAll_keeps | with_reducible apply State.driftFlag_keeps | with_reducible apply foldl_keeps | with_reducible apply ite_keeps | with_reducible apply iteO_keeps | split | with_reducible rfl | with_reducible apply And.intro | (dsimp only [id]; with_reducible assumption)

theorem State.fillPage_keeps {s₀ : State} (ref : Word) (bytes : List Byte) (s : State) (hk : Keeps s₀ s) : Keeps s₀ (State.fillPage ref bytes s) := by
  unfold State.fillPage
  try dsimp only
  repeat' first | (intro _) | with_reducible assumption | with_reducible apply State.memWriteList_keeps | with_reducible apply foldl_keeps | with_reducible apply ite_keeps | split | with_reducible rfl | with_reducible apply And.intro | (dsimp only [id]; with_reducible assumption)

theorem execDiaHealth_keeps {s₀ : State} (r : Ring) (d : Desc) (s : State) (hk : Keeps s₀ s) : KeepsO s₀ (execDiaHealth r d s) := by
  unfold execDiaHealth
  try dsimp only
  repeat' first | (intro _) | with_reducible assumption | with_reducible apply KeepsO.next | with_reducible apply State.work_keeps | with_reducible apply State.fillPage_keeps | with_reducible apply State.complete_keeps | with_reducible apply foldl_keeps | with_reducible apply ite_keeps | with_reducible apply iteO_keeps | split | with_reducible rfl | with_reducible apply And.intro | (dsimp only [id]; with_reducible assumption)

theorem execDiaExport_keeps {s₀ : State} (r : Ring) (d : Desc) (s : State) (hk : Keeps s₀ s) : KeepsO s₀ (execDiaExport r d s) := by
  unfold execDiaExport
  try dsimp only
  repeat' first | (intro _) | with_reducible assumption | with_reducible apply KeepsO.next | with_reducible apply State.work_keeps | with_reducible apply State.writePages_keeps | with_reducible apply State.complete_keeps | with_reducible apply foldl_keeps | with_reducible apply ite_keeps | with_reducible apply iteO_keeps | split | with_reducible rfl | with_reducible apply And.intro | (dsimp only [id]; with_reducible assumption)

theorem execDiaRemote_keeps {s₀ : State} (r : Ring) (d : Desc) (s : State) (hk : Keeps s₀ s) : KeepsO s₀ (execDiaRemote r d s) := by
  unfold execDiaRemote
  try dsimp only
  repeat' first | (intro _) | with_reducible assumption | with_reducible apply KeepsO.next | with_reducible apply State.work_keeps | with_reducible apply State.sendCfg_keeps | with_reducible apply State.modDia_keeps | with_reducible apply foldl_keeps | with_reducible apply ite_keeps | with_reducible apply iteO_keeps | split | with_reducible rfl | with_reducible apply And.intro | (dsimp only [id]; with_reducible assumption)

theorem execDiaRemoteTimeout_keeps {s₀ : State} (s : State) (hk : Keeps s₀ s) : KeepsO s₀ (execDiaRemoteTimeout s) := by
  unfold execDiaRemoteTimeout
  try dsimp only
  repeat' first | (intro _) | with_reducible assumption | with_reducible apply KeepsO.next | with_reducible apply State.live_keeps | with_reducible apply State.runTo_keeps | with_reducible apply State.modDia_keeps | with_reducible apply State.complete_keeps | with_reducible apply foldl_keeps | with_reducible apply ite_keeps | with_reducible apply iteO_keeps | split | with_reducible rfl | with_reducible apply And.intro | (dsimp only [id]; with_reducible assumption)

theorem execDiagRequest_keeps {s₀ : State} (p : Port) (h : Hdr) (id : CtrlId) (crew : BitVec 4) (reqId : Word) (s : State) (hk : Keeps s₀ s) : KeepsO s₀ (execDiagRequest p h id crew reqId s) := by
  unfold execDiagRequest
  try dsimp only
  repeat' first | (intro _) | with_reducible assumption | with_reducible apply KeepsO.next | with_reducible apply State.live_keeps | with_reducible apply State.rxClass_keeps | with_reducible apply State.takeMsg_keeps | with_reducible apply State.sendCfg_keeps | with_reducible apply State.modDia_keeps | with_reducible apply State.raise_keeps | with_reducible apply foldl_keeps | with_reducible apply ite_keeps | with_reducible apply iteO_keeps | split | with_reducible rfl | with_reducible apply And.intro | (dsimp only [id]; with_reducible assumption)

theorem execDiagReply_keeps {s₀ : State} (p : Port) (h : Hdr) (reqId : Word) (record : List Byte) (s : State) (hk : Keeps s₀ s) : KeepsO s₀ (execDiagReply p h reqId record s) := by
  unfold execDiagReply
  try dsimp only
  repeat' first | (intro _) | with_reducible assumption | with_reducible apply KeepsO.next | with_reducible apply State.live_keeps | with_reducible apply State.rxClass_keeps | with_reducible apply State.takeMsg_keeps | with_reducible apply State.modDia_keeps | with_reducible apply State.fillPage_keeps | with_reducible apply State.complete_keeps | with_reducible apply foldl_keeps | with_reducible apply ite_keeps | with_reducible apply iteO_keeps | split | with_reducible rfl | with_reducible apply And.intro | (dsimp only [id]; with_reducible assumption)

end Sys2Proof.Machine
end

