-- ==== Sys2Proof/Laws/KeepsDecide.lean ====
section
/-! SUPPORT. What the operations of Machine/Decide.lean keep: the queue, the variant, the canonical form of the stores. -/
namespace Sys2Proof.Machine

theorem State.verifyAuth_keeps {s₀ : State} (d : Desc) (op : OpName) (sigOk : Bool) (s : State) (hk : Keeps s₀ s) : Keeps s₀ (State.verifyAuth d op sigOk s) := by
  unfold State.verifyAuth
  try dsimp only
  repeat' first | (intro _) | with_reducible assumption | with_reducible apply State.cond_keeps | with_reducible apply State.authFailed_keeps | with_reducible apply State.useNonce_keeps | with_reducible apply foldl_keeps | with_reducible apply ite_keeps | split | with_reducible rfl | with_reducible apply And.intro | (dsimp only [id]; with_reducible assumption)

theorem State.passFetch_keeps {s₀ : State} (r : Ring) (s : State) (hk : Keeps s₀ s) : Keeps s₀ (State.passFetch r s) := by
  unfold State.passFetch
  try dsimp only
  repeat' first | (intro _) | with_reducible assumption | with_reducible apply State.modRing_keeps | with_reducible apply State.shadowA_keeps | with_reducible apply foldl_keeps | with_reducible apply ite_keeps | split | with_reducible rfl | with_reducible apply And.intro | (dsimp only [id]; with_reducible assumption)

theorem State.passNamed_keeps {s₀ : State} (r : Ring) (d : Desc) (pages : List (Fin 4096)) (s : State) (hk : Keeps s₀ s) : Keeps s₀ (State.passNamed r d pages s) := by
  unfold State.passNamed
  try dsimp only
  repeat' first | (intro _) | with_reducible assumption | with_reducible apply State.passPages_keeps | with_reducible apply foldl_keeps | with_reducible apply ite_keeps | split | with_reducible rfl | with_reducible apply And.intro | (dsimp only [id]; with_reducible assumption)

theorem State.decided_keeps {s₀ : State} (r : Ring) (d : Desc) (x : Decision) (s : State) (hk : Keeps s₀ s) : Keeps s₀ (State.decided r d s x) := by
  unfold State.decided
  repeat' first | (intro _) | with_reducible assumption | with_reducible apply State.refuseComp_keeps | with_reducible apply State.passFetch_keeps | with_reducible apply State.modRing_keeps | with_reducible apply State.freeze_keeps | with_reducible apply State.modDlv_keeps | with_reducible apply State.passNamed_keeps | with_reducible apply foldl_keeps | with_reducible apply ite_keeps | split | with_reducible rfl | with_reducible apply And.intro

theorem execDescriptorDecide_keeps {s₀ : State} (r : Ring) (d : Desc) (contentOk : Bool) (s : State) (hk : Keeps s₀ s) : KeepsO s₀ (execDescriptorDecide r d contentOk s) := by
  unfold execDescriptorDecide
  try dsimp only
  repeat' first | (intro _) | with_reducible assumption | with_reducible apply KeepsO.next | with_reducible apply State.live_keeps | with_reducible apply State.fillBuckets_keeps | with_reducible apply State.modRing_keeps | with_reducible apply State.go_keeps | with_reducible apply State.verifyAuth_keeps | with_reducible apply State.decided_keeps | with_reducible apply foldl_keeps | with_reducible apply ite_keeps | with_reducible apply iteO_keeps | split | with_reducible rfl | with_reducible apply And.intro | (dsimp only [id]; with_reducible assumption)

theorem State.policyEffect_keeps {s₀ : State} (d : Desc) (contentOk : Bool) (op : OpName) (s : State) (hk : Keeps s₀ s) : Keeps s₀ (State.policyEffect d contentOk op s) := by
  unfold State.policyEffect
  try dsimp only
  repeat' first | (intro _) | with_reducible assumption | with_reducible apply State.slotWrite_keeps | with_reducible apply State.slotErase_keeps | with_reducible apply State.otpWrite_keeps | with_reducible apply State.anchorSet_keeps | with_reducible apply State.legacySet_keeps | with_reducible apply State.quote_keeps | with_reducible apply State.certFetch_keeps | with_reducible apply State.imageWrite_keeps | with_reducible apply State.imageConfirm_keeps | with_reducible apply State.imagePrefer_keeps | with_reducible apply State.planeReset_keeps | with_reducible apply foldl_keeps | with_reducible apply ite_keeps | split | with_reducible rfl | with_reducible apply And.intro | (dsimp only [id]; with_reducible assumption)

theorem State.policyDesc_keeps {s₀ : State} (d : Desc) (contentOk : Bool) (s : State) (hk : Keeps s₀ s) : Keeps s₀ (State.policyDesc d contentOk s) := by
  unfold State.policyDesc
  try dsimp only
  repeat' first | (intro _) | with_reducible assumption | with_reducible apply State.policyEffect_keeps | with_reducible apply foldl_keeps | with_reducible apply ite_keeps | split | with_reducible rfl | with_reducible apply And.intro | (dsimp only [id]; with_reducible assumption)

theorem execPolicyAction_keeps {s₀ : State} (act : PolicyAct) (s : State) (hk : Keeps s₀ s) : KeepsO s₀ (execPolicyAction act s) := by
  unfold execPolicyAction
  try dsimp only
  repeat' first | (intro _) | with_reducible assumption | with_reducible apply KeepsO.next | with_reducible apply State.live_keeps | with_reducible apply State.releaseFreeze_keeps | with_reducible apply State.firewallDrop_keeps | with_reducible apply State.stage_keeps | with_reducible apply State.policyDesc_keeps | with_reducible apply foldl_keeps | with_reducible apply ite_keeps | with_reducible apply iteO_keeps | split | with_reducible rfl | with_reducible apply And.intro | (dsimp only [id]; with_reducible assumption)

end Sys2Proof.Machine
end

