-- ==== Sys2Proof/Laws/KeepsRegisters.lean ====
section
/-! SUPPORT. What the operations of Machine/Registers.lean keep: the queue, the variant, the canonical form of the stores. -/
namespace Sys2Proof.Machine

theorem State.badAccess_keeps {s₀ : State} (m : Master) (s : State) (hk : Keeps s₀ s) : Keeps s₀ (State.badAccess m s) := by
  unfold State.badAccess
  try dsimp only
  repeat' first | (intro _) | with_reducible assumption | with_reducible apply State.modRingF_keeps | with_reducible apply State.raise_keeps | with_reducible apply foldl_keeps | with_reducible apply ite_keeps | split | with_reducible rfl | with_reducible apply And.intro | (dsimp only [id]; with_reducible assumption)

theorem State.access_keeps {s₀ : State} (m : Master) (off : Nat) (f : State → State) (s : State) (hf : ∀ t, Keeps s₀ t → Keeps s₀ (f t)) (hk : Keeps s₀ s) : Keeps s₀ (State.access m off f s) := by
  unfold State.access
  try dsimp only
  repeat' first | (intro _) | with_reducible assumption | with_reducible apply State.transact_keeps | with_reducible apply State.badAccess_keeps | apply hf | with_reducible apply foldl_keeps | with_reducible apply ite_keeps | split | with_reducible rfl | with_reducible apply And.intro | (dsimp only [id]; with_reducible assumption)

theorem State.unmapped_keeps {s₀ : State} (m : Master) (off : Nat) (s : State) (hk : Keeps s₀ s) : Keeps s₀ (State.unmapped m off s) := by
  unfold State.unmapped
  try dsimp only
  repeat' first | (intro _) | with_reducible assumption | with_reducible apply State.modGlb_keeps | with_reducible apply foldl_keeps | with_reducible apply ite_keeps | split | with_reducible rfl | with_reducible apply And.intro | (dsimp only [id]; with_reducible assumption)

theorem State.latchRead_keeps {s₀ : State} (m : Master) (off : Nat) (s : State) (hk : Keeps s₀ s) : Keeps s₀ (State.latchRead m off s) := by
  unfold State.latchRead
  try dsimp only
  repeat' first | (intro _) | with_reducible assumption | with_reducible apply State.modGlb_keeps | with_reducible apply State.unmapped_keeps | with_reducible apply foldl_keeps | with_reducible apply ite_keeps | split | with_reducible rfl | with_reducible apply And.intro | (dsimp only [id]; with_reducible assumption)

theorem execLoWordRead_keeps {s₀ : State} (m : Master) (off : Nat) (s : State) (hk : Keeps s₀ s) : KeepsO s₀ (execLoWordRead m off s) := by
  unfold execLoWordRead
  try dsimp only
  repeat' first | (intro _) | with_reducible assumption | with_reducible apply KeepsO.next | with_reducible apply State.live_keeps | with_reducible apply State.access_keeps | with_reducible apply State.latchRead_keeps | with_reducible apply foldl_keeps | with_reducible apply ite_keeps | with_reducible apply iteO_keeps | split | with_reducible rfl | with_reducible apply And.intro | (dsimp only [id]; with_reducible assumption)

theorem execUnmappedAccess_keeps {s₀ : State} (m : Master) (off : Nat) (_write : Bool) (s : State) (hk : Keeps s₀ s) : KeepsO s₀ (execUnmappedAccess m off _write s) := by
  unfold execUnmappedAccess
  try dsimp only
  repeat' first | (intro _) | with_reducible assumption | with_reducible apply KeepsO.next | with_reducible apply State.live_keeps | with_reducible apply State.access_keeps | with_reducible apply State.unmapped_keeps | with_reducible apply foldl_keeps | with_reducible apply ite_keeps | with_reducible apply iteO_keeps | split | with_reducible rfl | with_reducible apply And.intro | (dsimp only [id]; with_reducible assumption)

theorem State.clearEv_keeps {s₀ : State} (e : EvSrc) (w : Word) (s : State) (hk : Keeps s₀ s) : Keeps s₀ (State.clearEv e w s) := by
  unfold State.clearEv
  try dsimp only
  repeat' first | (intro _) | with_reducible assumption | with_reducible apply State.evSet_keeps | with_reducible apply foldl_keeps | with_reducible apply ite_keeps | split | with_reducible rfl | with_reducible apply And.intro | (dsimp only [id]; with_reducible assumption)

theorem State.setEvEn_keeps {s₀ : State} (e : EvSrc) (w : Word) (s : State) (hk : Keeps s₀ s) : Keeps s₀ (State.setEvEn e w s) := by
  unfold State.setEvEn
  try dsimp only
  repeat' first | (intro _) | with_reducible assumption | with_reducible apply State.evSet_keeps | with_reducible apply foldl_keeps | with_reducible apply ite_keeps | split | with_reducible rfl | with_reducible apply And.intro | (dsimp only [id]; with_reducible assumption)

/-- Every row's effect keeps it. -/
def RowsKeep (s₀ : State) (rows : List WriteRow) : Prop := ∀ x ∈ rows, ∀ t, Keeps s₀ t → Keeps s₀ (x.act t)

theorem RowsKeep.nil {s₀ : State} : RowsKeep s₀ [] := by intro x hx; cases hx

theorem RowsKeep.cons {s₀ : State} {off : Nat} {ok : Bool} {act : State → State} {rows : List WriteRow}
    (h : ∀ t, Keeps s₀ t → Keeps s₀ (act t)) (hr : RowsKeep s₀ rows) : RowsKeep s₀ (⟨off, ok, act⟩ :: rows) := by
  intro x hx
  rcases List.mem_cons.1 hx with rfl | hx
  · exact h
  · exact hr x hx

theorem RowsKeep.append {s₀ : State} {a b : List WriteRow} (ha : RowsKeep s₀ a) (hb : RowsKeep s₀ b) : RowsKeep s₀ (a ++ b) := by
  intro x hx
  rcases List.mem_append.1 hx with hx | hx
  · exact ha x hx
  · exact hb x hx

theorem RowsKeep.flatMap {s₀ : State} {α : Type} {l : List α} {f : α → List WriteRow} (h : ∀ a, RowsKeep s₀ (f a)) :
    RowsKeep s₀ (l.flatMap f) := by
  intro x hx
  obtain ⟨a, _, hx⟩ := List.mem_flatMap.1 hx
  exact h a x hx

theorem RowsKeep.map {s₀ : State} {α : Type} {l : List α} {f : α → WriteRow} (h : ∀ a t, Keeps s₀ t → Keeps s₀ ((f a).act t)) :
    RowsKeep s₀ (l.map f) := by
  intro x hx
  obtain ⟨a, _, rfl⟩ := List.mem_map.1 hx
  exact h a

theorem RowsKeep.ite {s₀ : State} {c : Prop} [Decidable c] {a b : List WriteRow} (ha : RowsKeep s₀ a) (hb : RowsKeep s₀ b) :
    RowsKeep s₀ (if c then a else b) := by
  split
  · exact ha
  · exact hb

theorem evRows_keep {s₀ : State} (off : Nat) (e : EvSrc) (ok : Bool) (w : Word) : RowsKeep s₀ (evRows off e ok w) := by
  unfold evRows
  exact .cons (fun t h => State.clearEv_keeps e w t h) (.cons (fun t h => State.setEvEn_keeps e w t h) .nil)

theorem State.writeRows_keeps {s₀ : State} (m : Master) (up present free : Bool) (off : Nat) (rows : List WriteRow) (s : State)
    (hr : RowsKeep s₀ rows) (hk : Keeps s₀ s) : Keeps s₀ (State.writeRows m up present free off rows s) := by
  unfold State.writeRows
  split
  · rename_i x hx
    exact State.checkedWrite_keeps _ _ _ _ _ _ _ (hr x (List.mem_of_find?_eq_some hx)) hk
  · exact State.checkedWrite_keeps _ _ _ _ _ _ _ (fun t h => h) hk

theorem State.writeGlb_keeps {s₀ : State} (m : Master) (off : Nat) (w : Word) (s : State) (hk : Keeps s₀ s) : Keeps s₀ (State.writeGlb m off w s) := by
  unfold State.writeGlb
  try dsimp only
  repeat' first | (intro _) | with_reducible assumption | with_reducible apply State.modGlb_keeps | with_reducible apply foldl_keeps | with_reducible apply ite_keeps | split | with_reducible rfl | with_reducible apply And.intro | (dsimp only [id]; with_reducible assumption)

theorem State.writeClk_keeps {s₀ : State} (m : Master) (off : Nat) (w : Word) (s : State) (hk : Keeps s₀ s) : Keeps s₀ (State.writeClk m off w s) := by
  unfold State.writeClk
  try dsimp only
  repeat' first | with_reducible apply RowsKeep.nil | with_reducible apply RowsKeep.ite | with_reducible apply RowsKeep.cons | with_reducible apply RowsKeep.append | with_reducible apply RowsKeep.flatMap | with_reducible apply RowsKeep.map | with_reducible apply evRows_keep | with_reducible apply State.writeRows_keeps | with_reducible apply State.modClk_keeps | with_reducible apply ringRows_keep | with_reducible apply ringFnRows_keep | with_reducible apply portRows_keep | with_reducible apply pwmRows_keep | with_reducible apply auxRows_keep | with_reducible apply regRows_keep | with_reducible apply outRows_keep | with_reducible apply vclRows_keep | with_reducible apply safRows_keep | (intro _) | with_reducible assumption | with_reducible apply ite_keeps | split | with_reducible rfl | with_reducible apply And.intro | (dsimp only [id]; with_reducible assumption)

theorem State.writePwr_keeps {s₀ : State} (m : Master) (off : Nat) (w : Word) (s : State) (hk : Keeps s₀ s) : Keeps s₀ (State.writePwr m off w s) := by
  unfold State.writePwr
  try dsimp only
  repeat' first | with_reducible apply RowsKeep.nil | with_reducible apply RowsKeep.ite | with_reducible apply RowsKeep.cons | with_reducible apply RowsKeep.append | with_reducible apply RowsKeep.flatMap | with_reducible apply RowsKeep.map | with_reducible apply evRows_keep | with_reducible apply State.writeRows_keeps | with_reducible apply State.modPwr_keeps | with_reducible apply ringRows_keep | with_reducible apply ringFnRows_keep | with_reducible apply portRows_keep | with_reducible apply pwmRows_keep | with_reducible apply auxRows_keep | with_reducible apply regRows_keep | with_reducible apply outRows_keep | with_reducible apply vclRows_keep | with_reducible apply safRows_keep | (intro _) | with_reducible assumption | with_reducible apply ite_keeps | split | with_reducible rfl | with_reducible apply And.intro | (dsimp only [id]; with_reducible assumption)

theorem ringRows_keep {s₀ : State} (r : Ring) (k : Bool) (w : Word) : RowsKeep s₀ (ringRows r k w) := by
  unfold ringRows
  try dsimp only
  repeat' first | with_reducible apply RowsKeep.nil | with_reducible apply RowsKeep.ite | with_reducible apply RowsKeep.cons | with_reducible apply RowsKeep.append | with_reducible apply RowsKeep.flatMap | with_reducible apply RowsKeep.map | with_reducible apply evRows_keep | with_reducible apply State.modRing_keeps | (intro _) | with_reducible assumption | with_reducible apply ite_keeps | split | with_reducible rfl | with_reducible apply And.intro | (dsimp only [id]; with_reducible assumption)

theorem ringFnRows_keep {s₀ : State} (f : Fn) (w : Word) : RowsKeep s₀ (ringFnRows f w) := by
  unfold ringFnRows
  try dsimp only
  repeat' first | with_reducible apply RowsKeep.nil | with_reducible apply RowsKeep.ite | with_reducible apply RowsKeep.cons | with_reducible apply RowsKeep.append | with_reducible apply RowsKeep.flatMap | with_reducible apply RowsKeep.map | with_reducible apply evRows_keep | with_reducible apply State.modRingF_keeps | (intro _) | with_reducible assumption | with_reducible apply ite_keeps | split | with_reducible rfl | with_reducible apply And.intro | (dsimp only [id]; with_reducible assumption)

theorem State.writeRing_keeps {s₀ : State} (m : Master) (off : Nat) (w : Word) (s : State) (hk : Keeps s₀ s) : Keeps s₀ (State.writeRing m off w s) := by
  unfold State.writeRing
  try dsimp only
  repeat' first | with_reducible apply RowsKeep.nil | with_reducible apply RowsKeep.ite | with_reducible apply RowsKeep.cons | with_reducible apply RowsKeep.append | with_reducible apply RowsKeep.flatMap | with_reducible apply RowsKeep.map | with_reducible apply evRows_keep | with_reducible apply State.writeRows_keeps | with_reducible apply ringRows_keep | with_reducible apply ringFnRows_keep | with_reducible apply portRows_keep | with_reducible apply pwmRows_keep | with_reducible apply auxRows_keep | with_reducible apply regRows_keep | with_reducible apply outRows_keep | with_reducible apply vclRows_keep | with_reducible apply safRows_keep | (intro _) | with_reducible assumption | with_reducible apply ite_keeps | split | with_reducible rfl | with_reducible apply And.intro | (dsimp only [id]; with_reducible assumption)

theorem State.writeWin_keeps {s₀ : State} (m : Master) (off : Nat) (w : Word) (s : State) (hk : Keeps s₀ s) : Keeps s₀ (State.writeWin m off w s) := by
  unfold State.writeWin
  try dsimp only
  repeat' first | with_reducible apply RowsKeep.nil | with_reducible apply RowsKeep.ite | with_reducible apply RowsKeep.cons | with_reducible apply RowsKeep.append | with_reducible apply RowsKeep.flatMap | with_reducible apply RowsKeep.map | with_reducible apply evRows_keep | with_reducible apply State.writeRows_keeps | with_reducible apply State.modWin_keeps | with_reducible apply ringRows_keep | with_reducible apply ringFnRows_keep | with_reducible apply portRows_keep | with_reducible apply pwmRows_keep | with_reducible apply auxRows_keep | with_reducible apply regRows_keep | with_reducible apply outRows_keep | with_reducible apply vclRows_keep | with_reducible apply safRows_keep | (intro _) | with_reducible assumption | with_reducible apply ite_keeps | split | with_reducible rfl | with_reducible apply And.intro | (dsimp only [id]; with_reducible assumption)

theorem State.writeFrz_keeps {s₀ : State} (m : Master) (off : Nat) (w : Word) (s : State) (hk : Keeps s₀ s) : Keeps s₀ (State.writeFrz m off w s) := by
  unfold State.writeFrz
  try dsimp only
  repeat' first | with_reducible apply RowsKeep.nil | with_reducible apply RowsKeep.ite | with_reducible apply RowsKeep.cons | with_reducible apply RowsKeep.append | with_reducible apply RowsKeep.flatMap | with_reducible apply RowsKeep.map | with_reducible apply evRows_keep | with_reducible apply State.writeRows_keeps | with_reducible apply State.modFrz_keeps | with_reducible apply ringRows_keep | with_reducible apply ringFnRows_keep | with_reducible apply portRows_keep | with_reducible apply pwmRows_keep | with_reducible apply auxRows_keep | with_reducible apply regRows_keep | with_reducible apply outRows_keep | with_reducible apply vclRows_keep | with_reducible apply safRows_keep | (intro _) | with_reducible assumption | with_reducible apply ite_keeps | split | with_reducible rfl | with_reducible apply And.intro | (dsimp only [id]; with_reducible assumption)

theorem State.msixWrite_keeps {s₀ : State} (v : IrqVec) (k : Nat) (w : Word) (s : State) (hk : Keeps s₀ s) : Keeps s₀ (State.msixWrite v k w s) := by
  unfold State.msixWrite
  try dsimp only
  repeat' first | (intro _) | with_reducible assumption | with_reducible apply State.modIrq_keeps | with_reducible apply State.modHost_keeps | with_reducible apply foldl_keeps | with_reducible apply ite_keeps | split | with_reducible rfl | with_reducible apply And.intro | (dsimp only [id]; with_reducible assumption)

theorem State.writeIrq_keeps {s₀ : State} (m : Master) (off : Nat) (w : Word) (s : State) (hk : Keeps s₀ s) : Keeps s₀ (State.writeIrq m off w s) := by
  unfold State.writeIrq
  try dsimp only
  repeat' first | (intro _) | with_reducible assumption | with_reducible apply State.checkedWrite_keeps | with_reducible apply State.msixWrite_keeps | with_reducible apply State.modIrq_keeps | with_reducible apply foldl_keeps | with_reducible apply ite_keeps | split | with_reducible rfl | with_reducible apply And.intro | (dsimp only [id]; with_reducible assumption)

theorem portRows_keep {s₀ : State} (p : Port) (k lock : Bool) (w : Word) : RowsKeep s₀ (portRows p k lock w) := by
  unfold portRows
  try dsimp only
  repeat' first | with_reducible apply RowsKeep.nil | with_reducible apply RowsKeep.ite | with_reducible apply RowsKeep.cons | with_reducible apply RowsKeep.append | with_reducible apply RowsKeep.flatMap | with_reducible apply RowsKeep.map | with_reducible apply evRows_keep | with_reducible apply State.modPort_keeps | (intro _) | with_reducible assumption | with_reducible apply ite_keeps | split | with_reducible rfl | with_reducible apply And.intro | (dsimp only [id]; with_reducible assumption)

theorem State.writeRgt_keeps {s₀ : State} (m : Master) (off : Nat) (w : Word) (s : State) (hk : Keeps s₀ s) : Keeps s₀ (State.writeRgt m off w s) := by
  unfold State.writeRgt
  try dsimp only
  repeat' first | with_reducible apply RowsKeep.nil | with_reducible apply RowsKeep.ite | with_reducible apply RowsKeep.cons | with_reducible apply RowsKeep.append | with_reducible apply RowsKeep.flatMap | with_reducible apply RowsKeep.map | with_reducible apply evRows_keep | with_reducible apply State.writeRows_keeps | with_reducible apply State.modRgt_keeps | with_reducible apply State.checkedWrite_keeps | with_reducible apply ringRows_keep | with_reducible apply ringFnRows_keep | with_reducible apply portRows_keep | with_reducible apply pwmRows_keep | with_reducible apply auxRows_keep | with_reducible apply regRows_keep | with_reducible apply outRows_keep | with_reducible apply vclRows_keep | with_reducible apply safRows_keep | (intro _) | with_reducible assumption | with_reducible apply ite_keeps | split | with_reducible rfl | with_reducible apply And.intro | (dsimp only [id]; with_reducible assumption)

theorem State.writeAlc_keeps {s₀ : State} (m : Master) (off : Nat) (w : Word) (s : State) (hk : Keeps s₀ s) : Keeps s₀ (State.writeAlc m off w s) := by
  unfold State.writeAlc
  try dsimp only
  repeat' first | with_reducible apply RowsKeep.nil | with_reducible apply RowsKeep.ite | with_reducible apply RowsKeep.cons | with_reducible apply RowsKeep.append | with_reducible apply RowsKeep.flatMap | with_reducible apply RowsKeep.map | with_reducible apply evRows_keep | with_reducible apply State.writeRows_keeps | with_reducible apply State.modAlc_keeps | with_reducible apply ringRows_keep | with_reducible apply ringFnRows_keep | with_reducible apply portRows_keep | with_reducible apply pwmRows_keep | with_reducible apply auxRows_keep | with_reducible apply regRows_keep | with_reducible apply outRows_keep | with_reducible apply vclRows_keep | with_reducible apply safRows_keep | (intro _) | with_reducible assumption | with_reducible apply ite_keeps | split | with_reducible rfl | with_reducible apply And.intro | (dsimp only [id]; with_reducible assumption)

theorem State.writeCfg_keeps {s₀ : State} (m : Master) (off : Nat) (w : Word) (s : State) (hk : Keeps s₀ s) : Keeps s₀ (State.writeCfg m off w s) := by
  unfold State.writeCfg
  try dsimp only
  repeat' first | with_reducible apply RowsKeep.nil | with_reducible apply RowsKeep.ite | with_reducible apply RowsKeep.cons | with_reducible apply RowsKeep.append | with_reducible apply RowsKeep.flatMap | with_reducible apply RowsKeep.map | with_reducible apply evRows_keep | with_reducible apply State.writeRows_keeps | with_reducible apply State.modCfg_keeps | with_reducible apply ringRows_keep | with_reducible apply ringFnRows_keep | with_reducible apply portRows_keep | with_reducible apply pwmRows_keep | with_reducible apply auxRows_keep | with_reducible apply regRows_keep | with_reducible apply outRows_keep | with_reducible apply vclRows_keep | with_reducible apply safRows_keep | (intro _) | with_reducible assumption | with_reducible apply ite_keeps | split | with_reducible rfl | with_reducible apply And.intro | (dsimp only [id]; with_reducible assumption)

theorem pwmRows_keep {s₀ : State} (n : Phase) (k : Bool) (w : Word) : RowsKeep s₀ (pwmRows n k w) := by
  unfold pwmRows
  try dsimp only
  repeat' first | with_reducible apply RowsKeep.nil | with_reducible apply RowsKeep.ite | with_reducible apply RowsKeep.cons | with_reducible apply RowsKeep.append | with_reducible apply RowsKeep.flatMap | with_reducible apply RowsKeep.map | with_reducible apply evRows_keep | with_reducible apply State.restMasks_keeps | with_reducible apply State.modCh_keeps | with_reducible apply State.releaseMasks_keeps | with_reducible apply State.clearEv_keeps | with_reducible apply State.setEvEn_keeps | (intro _) | with_reducible assumption | with_reducible apply ite_keeps | split | with_reducible rfl | with_reducible apply And.intro | (dsimp only [id]; with_reducible assumption)

theorem auxRows_keep {s₀ : State} (a : Aux) (k : Bool) (w : Word) : RowsKeep s₀ (auxRows a k w) := by
  unfold auxRows
  try dsimp only
  repeat' first | with_reducible apply RowsKeep.nil | with_reducible apply RowsKeep.ite | with_reducible apply RowsKeep.cons | with_reducible apply RowsKeep.append | with_reducible apply RowsKeep.flatMap | with_reducible apply RowsKeep.map | with_reducible apply evRows_keep | with_reducible apply State.modAux_keeps | (intro _) | with_reducible assumption | with_reducible apply ite_keeps | split | with_reducible rfl | with_reducible apply And.intro | (dsimp only [id]; with_reducible assumption)

theorem State.writePwm_keeps {s₀ : State} (m : Master) (off : Nat) (w : Word) (s : State) (hk : Keeps s₀ s) : Keeps s₀ (State.writePwm m off w s) := by
  unfold State.writePwm
  try dsimp only
  repeat' first | with_reducible apply RowsKeep.nil | with_reducible apply RowsKeep.ite | with_reducible apply RowsKeep.cons | with_reducible apply RowsKeep.append | with_reducible apply RowsKeep.flatMap | with_reducible apply RowsKeep.map | with_reducible apply evRows_keep | with_reducible apply State.writeRows_keeps | with_reducible apply State.modPwm_keeps | with_reducible apply ringRows_keep | with_reducible apply ringFnRows_keep | with_reducible apply portRows_keep | with_reducible apply pwmRows_keep | with_reducible apply auxRows_keep | with_reducible apply regRows_keep | with_reducible apply outRows_keep | with_reducible apply vclRows_keep | with_reducible apply safRows_keep | (intro _) | with_reducible assumption | with_reducible apply ite_keeps | split | with_reducible rfl | with_reducible apply And.intro | (dsimp only [id]; with_reducible assumption)

theorem regRows_keep {s₀ : State} (n : Phase) (k any : Bool) (w : Word) : RowsKeep s₀ (regRows n k any w) := by
  unfold regRows
  try dsimp only
  repeat' first | with_reducible apply RowsKeep.nil | with_reducible apply RowsKeep.ite | with_reducible apply RowsKeep.cons | with_reducible apply RowsKeep.append | with_reducible apply RowsKeep.flatMap | with_reducible apply RowsKeep.map | with_reducible apply evRows_keep | with_reducible apply State.modCode_keeps | with_reducible apply State.modRegCh_keeps | with_reducible apply State.holdLow_keeps | (intro _) | with_reducible assumption | with_reducible apply ite_keeps | split | with_reducible rfl | with_reducible apply And.intro | (dsimp only [id]; with_reducible assumption)

theorem State.writeReg_keeps {s₀ : State} (m : Master) (off : Nat) (w : Word) (s : State) (hk : Keeps s₀ s) : Keeps s₀ (State.writeReg m off w s) := by
  unfold State.writeReg
  try dsimp only
  repeat' first | with_reducible apply RowsKeep.nil | with_reducible apply RowsKeep.ite | with_reducible apply RowsKeep.cons | with_reducible apply RowsKeep.append | with_reducible apply RowsKeep.flatMap | with_reducible apply RowsKeep.map | with_reducible apply evRows_keep | with_reducible apply State.writeRows_keeps | with_reducible apply State.modReg_keeps | with_reducible apply ringRows_keep | with_reducible apply ringFnRows_keep | with_reducible apply portRows_keep | with_reducible apply pwmRows_keep | with_reducible apply auxRows_keep | with_reducible apply regRows_keep | with_reducible apply outRows_keep | with_reducible apply vclRows_keep | with_reducible apply safRows_keep | (intro _) | with_reducible assumption | with_reducible apply ite_keeps | split | with_reducible rfl | with_reducible apply And.intro | (dsimp only [id]; with_reducible assumption)

theorem outRows_keep {s₀ : State} (o : Outlet) (k : Bool) (w : Word) : RowsKeep s₀ (outRows o k w) := by
  unfold outRows
  try dsimp only
  repeat' first | with_reducible apply RowsKeep.nil | with_reducible apply RowsKeep.ite | with_reducible apply RowsKeep.cons | with_reducible apply RowsKeep.append | with_reducible apply RowsKeep.flatMap | with_reducible apply RowsKeep.map | with_reducible apply evRows_keep | with_reducible apply State.modOut_keeps | (intro _) | with_reducible assumption | with_reducible apply ite_keeps | split | with_reducible rfl | with_reducible apply And.intro | (dsimp only [id]; with_reducible assumption)

theorem State.writeOut_keeps {s₀ : State} (m : Master) (off : Nat) (w : Word) (s : State) (hk : Keeps s₀ s) : Keeps s₀ (State.writeOut m off w s) := by
  unfold State.writeOut
  try dsimp only
  repeat' first | with_reducible apply RowsKeep.nil | with_reducible apply RowsKeep.ite | with_reducible apply RowsKeep.cons | with_reducible apply RowsKeep.append | with_reducible apply RowsKeep.flatMap | with_reducible apply RowsKeep.map | with_reducible apply evRows_keep | with_reducible apply State.writeRows_keeps | with_reducible apply State.checkedWrite_keeps | with_reducible apply ringRows_keep | with_reducible apply ringFnRows_keep | with_reducible apply portRows_keep | with_reducible apply pwmRows_keep | with_reducible apply auxRows_keep | with_reducible apply regRows_keep | with_reducible apply outRows_keep | with_reducible apply vclRows_keep | with_reducible apply safRows_keep | (intro _) | with_reducible assumption | with_reducible apply ite_keeps | split | with_reducible rfl | with_reducible apply And.intro | (dsimp only [id]; with_reducible assumption)

theorem vclRows_keep {s₀ : State} (o : Outlet) (k any : Bool) (w : Word) : RowsKeep s₀ (vclRows o k any w) := by
  unfold vclRows
  try dsimp only
  repeat' first | with_reducible apply RowsKeep.nil | with_reducible apply RowsKeep.ite | with_reducible apply RowsKeep.cons | with_reducible apply RowsKeep.append | with_reducible apply RowsKeep.flatMap | with_reducible apply RowsKeep.map | with_reducible apply evRows_keep | with_reducible apply State.modVclCh_keeps | (intro _) | with_reducible assumption | with_reducible apply ite_keeps | split | with_reducible rfl | with_reducible apply And.intro | (dsimp only [id]; with_reducible assumption)

theorem State.writeVcl_keeps {s₀ : State} (m : Master) (off : Nat) (w : Word) (s : State) (hk : Keeps s₀ s) : Keeps s₀ (State.writeVcl m off w s) := by
  unfold State.writeVcl
  try dsimp only
  repeat' first | with_reducible apply RowsKeep.nil | with_reducible apply RowsKeep.ite | with_reducible apply RowsKeep.cons | with_reducible apply RowsKeep.append | with_reducible apply RowsKeep.flatMap | with_reducible apply RowsKeep.map | with_reducible apply evRows_keep | with_reducible apply State.writeRows_keeps | with_reducible apply State.modVcl_keeps | with_reducible apply ringRows_keep | with_reducible apply ringFnRows_keep | with_reducible apply portRows_keep | with_reducible apply pwmRows_keep | with_reducible apply auxRows_keep | with_reducible apply regRows_keep | with_reducible apply outRows_keep | with_reducible apply vclRows_keep | with_reducible apply safRows_keep | (intro _) | with_reducible assumption | with_reducible apply ite_keeps | split | with_reducible rfl | with_reducible apply And.intro | (dsimp only [id]; with_reducible assumption)

theorem State.writeThm_keeps {s₀ : State} (m : Master) (off : Nat) (w : Word) (s : State) (hk : Keeps s₀ s) : Keeps s₀ (State.writeThm m off w s) := by
  unfold State.writeThm
  try dsimp only
  repeat' first | with_reducible apply RowsKeep.nil | with_reducible apply RowsKeep.ite | with_reducible apply RowsKeep.cons | with_reducible apply RowsKeep.append | with_reducible apply RowsKeep.flatMap | with_reducible apply RowsKeep.map | with_reducible apply evRows_keep | with_reducible apply State.writeRows_keeps | with_reducible apply State.modThm_keeps | with_reducible apply ringRows_keep | with_reducible apply ringFnRows_keep | with_reducible apply portRows_keep | with_reducible apply pwmRows_keep | with_reducible apply auxRows_keep | with_reducible apply regRows_keep | with_reducible apply outRows_keep | with_reducible apply vclRows_keep | with_reducible apply safRows_keep | (intro _) | with_reducible assumption | with_reducible apply ite_keeps | split | with_reducible rfl | with_reducible apply And.intro | (dsimp only [id]; with_reducible assumption)

theorem State.writeAcdCtrl_keeps {s₀ : State} (a : Acd) (w : Word) (s : State) (hk : Keeps s₀ s) : Keeps s₀ (State.writeAcdCtrl a w s) := by
  unfold State.writeAcdCtrl
  try dsimp only
  repeat' first | (intro _) | with_reducible assumption | with_reducible apply State.useFree_keeps | with_reducible apply State.modSaf_keeps | with_reducible apply foldl_keeps | with_reducible apply ite_keeps | split | with_reducible rfl | with_reducible apply And.intro | (dsimp only [id]; with_reducible assumption)

theorem State.writeSiteCtrl_keeps {s₀ : State} (w : Word) (s : State) (hk : Keeps s₀ s) : Keeps s₀ (State.writeSiteCtrl w s) := by
  unfold State.writeSiteCtrl
  try dsimp only
  repeat' first | (intro _) | with_reducible assumption | with_reducible apply State.modSaf_keeps | with_reducible apply State.siteEval_keeps | with_reducible apply foldl_keeps | with_reducible apply ite_keeps | split | with_reducible rfl | with_reducible apply And.intro | (dsimp only [id]; with_reducible assumption)

theorem State.writeEstopMap_keeps {s₀ : State} (e : Fin 4) (w : Word) (s : State) (hk : Keeps s₀ s) : Keeps s₀ (State.writeEstopMap e w s) := by
  unfold State.writeEstopMap
  try dsimp only
  repeat' first | (intro _) | with_reducible assumption | with_reducible apply State.modSaf_keeps | with_reducible apply State.estopEval_keeps | with_reducible apply State.estopSources_keeps | with_reducible apply foldl_keeps | with_reducible apply ite_keeps | split | with_reducible rfl | with_reducible apply And.intro | (dsimp only [id]; with_reducible assumption)

theorem safRows_keep {s₀ : State} (m : Master) (lock : Bool) (w : Word) : RowsKeep s₀ (safRows m lock w) := by
  unfold safRows
  try dsimp only
  repeat' first | with_reducible apply RowsKeep.nil | with_reducible apply RowsKeep.ite | with_reducible apply RowsKeep.cons | with_reducible apply RowsKeep.append | with_reducible apply RowsKeep.flatMap | with_reducible apply RowsKeep.map | with_reducible apply evRows_keep | with_reducible apply State.modSaf_keeps | with_reducible apply State.writeSiteCtrl_keeps | with_reducible apply State.writeEstopMap_keeps | with_reducible apply State.writeAcdCtrl_keeps | (intro _) | with_reducible assumption | with_reducible apply ite_keeps | split | with_reducible rfl | with_reducible apply And.intro | (dsimp only [id]; with_reducible assumption)

theorem State.writeSaf_keeps {s₀ : State} (m : Master) (off : Nat) (w : Word) (s : State) (hk : Keeps s₀ s) : Keeps s₀ (State.writeSaf m off w s) := by
  unfold State.writeSaf
  try dsimp only
  repeat' first | with_reducible apply RowsKeep.nil | with_reducible apply RowsKeep.ite | with_reducible apply RowsKeep.cons | with_reducible apply RowsKeep.append | with_reducible apply RowsKeep.flatMap | with_reducible apply RowsKeep.map | with_reducible apply evRows_keep | with_reducible apply State.writeRows_keeps | with_reducible apply ringRows_keep | with_reducible apply ringFnRows_keep | with_reducible apply portRows_keep | with_reducible apply pwmRows_keep | with_reducible apply auxRows_keep | with_reducible apply regRows_keep | with_reducible apply outRows_keep | with_reducible apply vclRows_keep | with_reducible apply safRows_keep | (intro _) | with_reducible assumption | with_reducible apply ite_keeps | split | with_reducible rfl | with_reducible apply And.intro | (dsimp only [id]; with_reducible assumption)

theorem State.writeLne_keeps {s₀ : State} (m : Master) (off : Nat) (w : Word) (s : State) (hk : Keeps s₀ s) : Keeps s₀ (State.writeLne m off w s) := by
  unfold State.writeLne
  try dsimp only
  repeat' first | with_reducible apply RowsKeep.nil | with_reducible apply RowsKeep.ite | with_reducible apply RowsKeep.cons | with_reducible apply RowsKeep.append | with_reducible apply RowsKeep.flatMap | with_reducible apply RowsKeep.map | with_reducible apply evRows_keep | with_reducible apply State.writeRows_keeps | with_reducible apply State.modLne_keeps | with_reducible apply ringRows_keep | with_reducible apply ringFnRows_keep | with_reducible apply portRows_keep | with_reducible apply pwmRows_keep | with_reducible apply auxRows_keep | with_reducible apply regRows_keep | with_reducible apply outRows_keep | with_reducible apply vclRows_keep | with_reducible apply safRows_keep | (intro _) | with_reducible assumption | with_reducible apply ite_keeps | split | with_reducible rfl | with_reducible apply And.intro | (dsimp only [id]; with_reducible assumption)

theorem State.calAttempt_keeps {s₀ : State} (s : State) (hk : Keeps s₀ s) : Keeps s₀ (State.calAttempt s) := by
  unfold State.calAttempt
  try dsimp only
  repeat' first | (intro _) | with_reducible assumption | with_reducible apply State.tamperEvent_keeps | with_reducible apply foldl_keeps | with_reducible apply ite_keeps | split | with_reducible rfl | with_reducible apply And.intro | (dsimp only [id]; with_reducible assumption)

theorem State.ignoredWrite_keeps {s₀ : State} (m : Master) (off : Nat) (s : State) (hk : Keeps s₀ s) : Keeps s₀ (State.ignoredWrite m off s) := by
  unfold State.ignoredWrite
  try dsimp only
  repeat' first | (intro _) | with_reducible assumption | with_reducible apply State.checkedWrite_keeps | with_reducible apply foldl_keeps | with_reducible apply ite_keeps | split | with_reducible rfl | with_reducible apply And.intro | (dsimp only [id]; with_reducible assumption)

theorem State.snapWrite_keeps {s₀ : State} (m : Master) (off : Nat) (w : Word) (s : State) (hk : Keeps s₀ s) : Keeps s₀ (State.snapWrite m off w s) := by
  unfold State.snapWrite
  try dsimp only
  repeat' first | (intro _) | with_reducible assumption | with_reducible apply State.freeze_keeps | with_reducible apply State.firewallDrop_keeps | with_reducible apply foldl_keeps | with_reducible apply ite_keeps | split | with_reducible rfl | with_reducible apply And.intro | (dsimp only [id]; with_reducible assumption)

theorem State.writeMet_keeps {s₀ : State} (m : Master) (off : Nat) (w : Word) (s : State) (hk : Keeps s₀ s) : Keeps s₀ (State.writeMet m off w s) := by
  unfold State.writeMet
  try dsimp only
  repeat' first | with_reducible apply RowsKeep.nil | with_reducible apply RowsKeep.ite | with_reducible apply RowsKeep.cons | with_reducible apply RowsKeep.append | with_reducible apply RowsKeep.flatMap | with_reducible apply RowsKeep.map | with_reducible apply evRows_keep | with_reducible apply State.writeRows_keeps | with_reducible apply State.snapWrite_keeps | with_reducible apply State.calAttempt_keeps | with_reducible apply State.ignoredWrite_keeps | with_reducible apply ringRows_keep | with_reducible apply ringFnRows_keep | with_reducible apply portRows_keep | with_reducible apply pwmRows_keep | with_reducible apply auxRows_keep | with_reducible apply regRows_keep | with_reducible apply outRows_keep | with_reducible apply vclRows_keep | with_reducible apply safRows_keep | (intro _) | with_reducible assumption | with_reducible apply ite_keeps | split | with_reducible rfl | with_reducible apply And.intro | (dsimp only [id]; with_reducible assumption)

theorem State.writeBil_keeps {s₀ : State} (m : Master) (off : Nat) (w : Word) (s : State) (hk : Keeps s₀ s) : Keeps s₀ (State.writeBil m off w s) := by
  unfold State.writeBil
  try dsimp only
  repeat' first | with_reducible apply RowsKeep.nil | with_reducible apply RowsKeep.ite | with_reducible apply RowsKeep.cons | with_reducible apply RowsKeep.append | with_reducible apply RowsKeep.flatMap | with_reducible apply RowsKeep.map | with_reducible apply evRows_keep | with_reducible apply State.writeRows_keeps | with_reducible apply State.calAttempt_keeps | with_reducible apply State.ignoredWrite_keeps | with_reducible apply ringRows_keep | with_reducible apply ringFnRows_keep | with_reducible apply portRows_keep | with_reducible apply pwmRows_keep | with_reducible apply auxRows_keep | with_reducible apply regRows_keep | with_reducible apply outRows_keep | with_reducible apply vclRows_keep | with_reducible apply safRows_keep | (intro _) | with_reducible assumption | with_reducible apply ite_keeps | split | with_reducible rfl | with_reducible apply And.intro | (dsimp only [id]; with_reducible assumption)

theorem State.writeBat_keeps {s₀ : State} (m : Master) (off : Nat) (w : Word) (s : State) (hk : Keeps s₀ s) : Keeps s₀ (State.writeBat m off w s) := by
  unfold State.writeBat
  try dsimp only
  repeat' first | with_reducible apply RowsKeep.nil | with_reducible apply RowsKeep.ite | with_reducible apply RowsKeep.cons | with_reducible apply RowsKeep.append | with_reducible apply RowsKeep.flatMap | with_reducible apply RowsKeep.map | with_reducible apply evRows_keep | with_reducible apply State.writeRows_keeps | with_reducible apply State.modBat_keeps | with_reducible apply ringRows_keep | with_reducible apply ringFnRows_keep | with_reducible apply portRows_keep | with_reducible apply pwmRows_keep | with_reducible apply auxRows_keep | with_reducible apply regRows_keep | with_reducible apply outRows_keep | with_reducible apply vclRows_keep | with_reducible apply safRows_keep | (intro _) | with_reducible assumption | with_reducible apply ite_keeps | split | with_reducible rfl | with_reducible apply And.intro | (dsimp only [id]; with_reducible assumption)

theorem State.writeKey_keeps {s₀ : State} (m : Master) (off : Nat) (w : Word) (s : State) (hk : Keeps s₀ s) : Keeps s₀ (State.writeKey m off w s) := by
  unfold State.writeKey
  try dsimp only
  repeat' first | with_reducible apply RowsKeep.nil | with_reducible apply RowsKeep.ite | with_reducible apply RowsKeep.cons | with_reducible apply RowsKeep.append | with_reducible apply RowsKeep.flatMap | with_reducible apply RowsKeep.map | with_reducible apply evRows_keep | with_reducible apply State.writeRows_keeps | with_reducible apply State.modKey_keeps | with_reducible apply ringRows_keep | with_reducible apply ringFnRows_keep | with_reducible apply portRows_keep | with_reducible apply pwmRows_keep | with_reducible apply auxRows_keep | with_reducible apply regRows_keep | with_reducible apply outRows_keep | with_reducible apply vclRows_keep | with_reducible apply safRows_keep | (intro _) | with_reducible assumption | with_reducible apply ite_keeps | split | with_reducible rfl | with_reducible apply And.intro | (dsimp only [id]; with_reducible assumption)

theorem State.writeLcs_keeps {s₀ : State} (m : Master) (off : Nat) (w : Word) (s : State) (hk : Keeps s₀ s) : Keeps s₀ (State.writeLcs m off w s) := by
  unfold State.writeLcs
  try dsimp only
  repeat' first | with_reducible apply RowsKeep.nil | with_reducible apply RowsKeep.ite | with_reducible apply RowsKeep.cons | with_reducible apply RowsKeep.append | with_reducible apply RowsKeep.flatMap | with_reducible apply RowsKeep.map | with_reducible apply evRows_keep | with_reducible apply State.writeRows_keeps | with_reducible apply State.modLcs_keeps | with_reducible apply ringRows_keep | with_reducible apply ringFnRows_keep | with_reducible apply portRows_keep | with_reducible apply pwmRows_keep | with_reducible apply auxRows_keep | with_reducible apply regRows_keep | with_reducible apply outRows_keep | with_reducible apply vclRows_keep | with_reducible apply safRows_keep | (intro _) | with_reducible assumption | with_reducible apply ite_keeps | split | with_reducible rfl | with_reducible apply And.intro | (dsimp only [id]; with_reducible assumption)

theorem State.writeDia_keeps {s₀ : State} (m : Master) (off : Nat) (w : Word) (s : State) (hk : Keeps s₀ s) : Keeps s₀ (State.writeDia m off w s) := by
  unfold State.writeDia
  try dsimp only
  repeat' first | with_reducible apply RowsKeep.nil | with_reducible apply RowsKeep.ite | with_reducible apply RowsKeep.cons | with_reducible apply RowsKeep.append | with_reducible apply RowsKeep.flatMap | with_reducible apply RowsKeep.map | with_reducible apply evRows_keep | with_reducible apply State.writeRows_keeps | with_reducible apply State.modDia_keeps | with_reducible apply ringRows_keep | with_reducible apply ringFnRows_keep | with_reducible apply portRows_keep | with_reducible apply pwmRows_keep | with_reducible apply auxRows_keep | with_reducible apply regRows_keep | with_reducible apply outRows_keep | with_reducible apply vclRows_keep | with_reducible apply safRows_keep | (intro _) | with_reducible assumption | with_reducible apply ite_keeps | split | with_reducible rfl | with_reducible apply And.intro | (dsimp only [id]; with_reducible assumption)

theorem State.writeAssigned_keeps {s₀ : State} (m : Master) (off : Nat) (w : Word) (s : State) (hk : Keeps s₀ s) : Keeps s₀ (State.writeAssigned m off w s) := by
  unfold State.writeAssigned
  try dsimp only
  repeat' first | (intro _) | with_reducible assumption | with_reducible apply State.writeGlb_keeps | with_reducible apply State.writeClk_keeps | with_reducible apply State.writePwr_keeps | with_reducible apply State.writeRing_keeps | with_reducible apply State.writeWin_keeps | with_reducible apply State.writeFrz_keeps | with_reducible apply State.writeRgt_keeps | with_reducible apply State.writeAlc_keeps | with_reducible apply State.writeCfg_keeps | with_reducible apply State.writePwm_keeps | with_reducible apply State.writeReg_keeps | with_reducible apply State.writeOut_keeps | with_reducible apply State.writeVcl_keeps | with_reducible apply State.writeThm_keeps | with_reducible apply State.writeSaf_keeps | with_reducible apply State.writeLne_keeps | with_reducible apply State.writeMet_keeps | with_reducible apply State.writeBil_keeps | with_reducible apply State.writeBat_keeps | with_reducible apply State.writeKey_keeps | with_reducible apply State.writeLcs_keeps | with_reducible apply State.writeDia_keeps | with_reducible apply State.writeIrq_keeps | with_reducible apply foldl_keeps | with_reducible apply ite_keeps | split | with_reducible rfl | with_reducible apply And.intro | (dsimp only [id]; with_reducible assumption)

theorem rowWrite_keeps {s₀ : State} (m : Master) (off : Nat) (w : Word) (s : State) (hk : Keeps s₀ s) (x : Host.Outcome State Fault Refusal)
    (h : rowWrite m off w s = some x) : KeepsO s₀ x := by
  unfold rowWrite at h
  dsimp only at h
  repeat' split at h
  all_goals first
    | (cases h; done)
    | (cases h
       first | with_reducible apply execRingCtrlWrite_keeps | with_reducible apply execWinPartWrite_keeps | with_reducible apply execFrzReleaseWrite_keeps | with_reducible apply execPortEnWrite_keeps | with_reducible apply execPwmCtrlWrite_keeps | with_reducible apply execPwmCommit_keeps | with_reducible apply execPwmShadowWrite_keeps | with_reducible apply execPwmAuxCtrlWrite_keeps | with_reducible apply execPwmAuxCommit_keeps | with_reducible apply execPwmStart_keeps | with_reducible apply execPwmDtMinWrite_keeps | with_reducible apply execPwmGroupCommit_keeps | with_reducible apply execRegApplyArm_keeps | with_reducible apply execRegCtrlWrite_keeps | with_reducible apply execLcsPortAuthWrite_keeps
       first | exact hk | exact State.cond_keeps _ _ (fun _ h => State.useFree_keeps h) hk)

theorem execRegisterWrite_keeps {s₀ : State} (m : Master) (off : Nat) (w : Word) (s : State) (hk : Keeps s₀ s) : KeepsO s₀ (execRegisterWrite m off w s) := by
  unfold execRegisterWrite
  split
  · rename_i x hx
    split at hx
    · exact rowWrite_keeps m off w s hk _ hx
    · cases hx
  · apply State.live_keeps _ _ hk
    intro t ht
    apply State.access_keeps _ _ _ _ _ ht
    intro u hu
    split
    · exact State.unmapped_keeps _ _ _ hu
    · exact State.writeAssigned_keeps _ _ _ _ hu

end Sys2Proof.Machine
end

