-- ==== Sys2Proof/Laws/KeepsTick.lean ====
section
/-! SUPPORT. What the operations of Machine/Tick.lean keep: the queue, the variant, the canonical form of the stores. -/
namespace Sys2Proof.Machine

theorem State.sampleTick_keeps {s₀ : State} (sense : Vector (Vector Int 8) 24) (s : State) (hk : Keeps s₀ s) : Keeps s₀ (State.sampleTick sense s) := by
  unfold State.sampleTick
  try dsimp only
  repeat' first | (intro _) | with_reducible assumption | with_reducible apply State.forAll_keeps | with_reducible apply State.modRegCh_keeps | with_reducible apply foldl_keeps | with_reducible apply ite_keeps | split | with_reducible rfl | with_reducible apply And.intro | (dsimp only [id]; with_reducible assumption)

theorem State.latchInputs_keeps {s₀ : State} (inp : TickIn) (s : State) (hk : Keeps s₀ s) : Keeps s₀ (State.latchInputs inp s) := by
  unfold State.latchInputs
  try dsimp only
  repeat' first | (intro _) | with_reducible assumption | with_reducible apply State.forAll_keeps | with_reducible apply State.modOut_keeps | with_reducible apply State.modSaf_keeps | with_reducible apply State.modAlc_keeps | with_reducible apply foldl_keeps | with_reducible apply ite_keeps | split | with_reducible rfl | with_reducible apply And.intro | (dsimp only [id]; with_reducible assumption)

theorem State.releaseTick_keeps {s₀ : State} (o : Outlet) (s : State) (hk : Keeps s₀ s) : Keeps s₀ (State.releaseTick o s) := by
  unfold State.releaseTick
  try dsimp only
  repeat' first | (intro _) | with_reducible assumption | with_reducible apply State.setDrives_keeps | with_reducible apply foldl_keeps | with_reducible apply ite_keeps | split | with_reducible rfl | with_reducible apply And.intro | (dsimp only [id]; with_reducible assumption)

theorem State.fbFault_keeps {s₀ : State} (o : Outlet) (w : Fin 2) (s : State) (hk : Keeps s₀ s) : Keeps s₀ (State.fbFault o w s) := by
  unfold State.fbFault
  try dsimp only
  repeat' first | (intro _) | with_reducible assumption | with_reducible apply State.weldPath_keeps | with_reducible apply State.modSaf_keeps | with_reducible apply State.raiseAt_keeps | with_reducible apply State.raiseOut_keeps | with_reducible apply foldl_keeps | with_reducible apply ite_keeps | split | with_reducible rfl | with_reducible apply And.intro | (dsimp only [id]; with_reducible assumption)

theorem State.feedbackTick_keeps {s₀ : State} (o : Outlet) (s : State) (hk : Keeps s₀ s) : Keeps s₀ (State.feedbackTick o s) := by
  unfold State.feedbackTick
  try dsimp only
  repeat' first | (intro _) | with_reducible assumption | with_reducible apply State.modOut_keeps | with_reducible apply State.forAll_keeps | with_reducible apply State.fbFault_keeps | with_reducible apply foldl_keeps | with_reducible apply ite_keeps | split | with_reducible rfl | with_reducible apply And.intro | (dsimp only [id]; with_reducible assumption)

theorem State.gatesTick_keeps {s₀ : State} (s : State) (hk : Keeps s₀ s) : Keeps s₀ (State.gatesTick s) := by
  unfold State.gatesTick
  try dsimp only
  repeat' first | (intro _) | with_reducible assumption | with_reducible apply State.modSaf_keeps | with_reducible apply foldl_keeps | with_reducible apply ite_keeps | split | with_reducible rfl | with_reducible apply And.intro | (dsimp only [id]; with_reducible assumption)

theorem State.stoTick_keeps {s₀ : State} (s : State) (hk : Keeps s₀ s) : Keeps s₀ (State.stoTick s) := by
  unfold State.stoTick
  try dsimp only
  repeat' first | (intro _) | with_reducible assumption | with_reducible apply State.forAll_keeps | with_reducible apply State.modSaf_keeps | with_reducible apply foldl_keeps | with_reducible apply ite_keeps | split | with_reducible rfl | with_reducible apply And.intro | (dsimp only [id]; with_reducible assumption)

theorem State.tokenTick_keeps {s₀ : State} (s : State) (hk : Keeps s₀ s) : Keeps s₀ (State.tokenTick s) := by
  unfold State.tokenTick
  try dsimp only
  repeat' first | (intro _) | with_reducible assumption | with_reducible apply State.modSaf_keeps | with_reducible apply State.clearGlb_keeps | with_reducible apply State.syncControlFault_keeps | with_reducible apply State.raiseGlb_keeps | with_reducible apply foldl_keeps | with_reducible apply ite_keeps | split | with_reducible rfl | with_reducible apply And.intro | (dsimp only [id]; with_reducible assumption)

theorem State.safetyTick_keeps {s₀ : State} (s : State) (hk : Keeps s₀ s) : Keeps s₀ (State.safetyTick s) := by
  unfold State.safetyTick
  try dsimp only
  repeat' first | (intro _) | with_reducible assumption | with_reducible apply State.forAll_keeps | with_reducible apply State.releaseTick_keeps | with_reducible apply State.feedbackTick_keeps | with_reducible apply State.imdNote_keeps | with_reducible apply State.imdAct_keeps | with_reducible apply State.siteEval_keeps | with_reducible apply State.gatesTick_keeps | with_reducible apply State.stoTick_keeps | with_reducible apply foldl_keeps | with_reducible apply ite_keeps | split | with_reducible rfl | with_reducible apply And.intro | (dsimp only [id]; with_reducible assumption)

theorem State.retireTick_keeps {s₀ : State} (n : Phase) (s : State) (hk : Keeps s₀ s) : Keeps s₀ (State.retireTick n s) := by
  unfold State.retireTick
  try dsimp only
  repeat' first | (intro _) | with_reducible assumption | with_reducible apply State.retire_keeps | with_reducible apply foldl_keeps | with_reducible apply ite_keeps | split | with_reducible rfl | with_reducible apply And.intro | (dsimp only [id]; with_reducible assumption)

theorem State.senseTick_keeps {s₀ : State} (n : Phase) (s : State) (hk : Keeps s₀ s) : Keeps s₀ (State.senseTick n s) := by
  unfold State.senseTick
  try dsimp only
  repeat' first | (intro _) | with_reducible assumption | with_reducible apply State.modRegCh_keeps | with_reducible apply foldl_keeps | with_reducible apply ite_keeps | split | with_reducible rfl | with_reducible apply And.intro | (dsimp only [id]; with_reducible assumption)

theorem State.slopeTick_keeps {s₀ : State} (n : Phase) (s : State) (hk : Keeps s₀ s) : Keeps s₀ (State.slopeTick n s) := by
  unfold State.slopeTick
  try dsimp only
  repeat' first | (intro _) | with_reducible assumption | with_reducible apply State.modRegCh_keeps | with_reducible apply foldl_keeps | with_reducible apply ite_keeps | split | with_reducible rfl | with_reducible apply And.intro | (dsimp only [id]; with_reducible assumption)

theorem State.outletTick_keeps {s₀ : State} (o : Outlet) (s : State) (hk : Keeps s₀ s) : Keeps s₀ (State.outletTick o s) := by
  unfold State.outletTick
  try dsimp only
  repeat' first | (intro _) | with_reducible assumption | with_reducible apply State.sessionTick_keeps | with_reducible apply State.limitTick_keeps | with_reducible apply State.rampAbort_keeps | with_reducible apply State.pauseEnd_keeps | with_reducible apply State.startTick_keeps | with_reducible apply State.outerLoop_keeps | with_reducible apply foldl_keeps | with_reducible apply ite_keeps | split | with_reducible rfl | with_reducible apply And.intro | (dsimp only [id]; with_reducible assumption)

theorem State.movesTick_keeps {s₀ : State} (s : State) (hk : Keeps s₀ s) : Keeps s₀ (State.movesTick s) := by
  unfold State.movesTick
  try dsimp only
  repeat' first | (intro _) | with_reducible assumption | with_reducible apply State.moveStops_keeps | with_reducible apply State.forAll_keeps | with_reducible apply State.moveOpen_keeps | with_reducible apply State.moveMiss_keeps | with_reducible apply State.moveDecide_keeps | with_reducible apply foldl_keeps | with_reducible apply ite_keeps | split | with_reducible rfl | with_reducible apply And.intro | (dsimp only [id]; with_reducible assumption)

theorem State.feedTick_keeps {s₀ : State} (t : Nat) (s : State) (hk : Keeps s₀ s) : Keeps s₀ (State.feedTick t s) := by
  unfold State.feedTick
  try dsimp only
  repeat' first | (intro _) | with_reducible assumption | with_reducible apply State.batLatch_keeps | with_reducible apply State.buildCurves_keeps | with_reducible apply foldl_keeps | with_reducible apply ite_keeps | split | with_reducible rfl | with_reducible apply And.intro | (dsimp only [id]; with_reducible assumption)

theorem State.stopTick_keeps {s₀ : State} (s : State) (hk : Keeps s₀ s) : Keeps s₀ (State.stopTick s) := by
  unfold State.stopTick
  try dsimp only
  repeat' first | (intro _) | with_reducible assumption | with_reducible apply State.stopAllOutlets_keeps | with_reducible apply foldl_keeps | with_reducible apply ite_keeps | split | with_reducible rfl | with_reducible apply And.intro | (dsimp only [id]; with_reducible assumption)

theorem State.stopDone_keeps {s₀ : State} (s : State) (hk : Keeps s₀ s) : Keeps s₀ (State.stopDone s) := by
  unfold State.stopDone
  try dsimp only
  repeat' first | (intro _) | with_reducible assumption | with_reducible apply State.clearAllEn_keeps | with_reducible apply State.dieSettle_keeps | with_reducible apply foldl_keeps | with_reducible apply ite_keeps | split | with_reducible rfl | with_reducible apply And.intro | (dsimp only [id]; with_reducible assumption)

theorem State.lanesTick_keeps {s₀ : State} (k : Nat) (s : State) (hk : Keeps s₀ s) : Keeps s₀ (State.lanesTick k s) := by
  unfold State.lanesTick
  try dsimp only
  repeat' first | (intro _) | with_reducible assumption | with_reducible apply State.takeOver_keeps | with_reducible apply State.modLne_keeps | with_reducible apply State.refreshOutputs_keeps | with_reducible apply State.forAll_keeps | with_reducible apply State.moveCount_keeps | with_reducible apply State.latchSlot_keeps | with_reducible apply State.retireTick_keeps | with_reducible apply State.heatSinkTick_keeps | with_reducible apply State.senseTick_keeps | with_reducible apply State.slopeTick_keeps | with_reducible apply State.feedTick_keeps | with_reducible apply State.heldCheck_keeps | with_reducible apply State.stopTick_keeps | with_reducible apply State.outletTick_keeps | with_reducible apply State.movesTick_keeps | with_reducible apply State.stopDone_keeps | with_reducible apply foldl_keeps | with_reducible apply ite_keeps | split | with_reducible rfl | with_reducible apply And.intro | (dsimp only [id]; with_reducible assumption)

theorem execControlTick_keeps {s₀ : State} (inp : TickIn) (s : State) (hk : Keeps s₀ s) : KeepsO s₀ (execControlTick inp s) := by
  unfold execControlTick
  try dsimp only
  repeat' first | (intro _) | with_reducible assumption | with_reducible apply KeepsO.next | with_reducible apply State.live_keeps | with_reducible apply State.runToFleet_keeps | with_reducible apply State.modLne_keeps | with_reducible apply State.liveRecord_keeps | with_reducible apply State.sampleTick_keeps | with_reducible apply State.latchInputs_keeps | with_reducible apply State.batTick_keeps | with_reducible apply State.tokenTick_keeps | with_reducible apply State.lanesTick_keeps | with_reducible apply State.safetyTick_keeps | with_reducible apply State.flushTrig_keeps | with_reducible apply foldl_keeps | with_reducible apply ite_keeps | with_reducible apply iteO_keeps | split | with_reducible rfl | with_reducible apply And.intro | (dsimp only [id]; with_reducible assumption)

theorem execHousekeepingRoundEnd_keeps {s₀ : State} (inp : HkIn) (s : State) (hk : Keeps s₀ s) : KeepsO s₀ (execHousekeepingRoundEnd inp s) := by
  unfold execHousekeepingRoundEnd
  try dsimp only
  repeat' first | (intro _) | with_reducible assumption | with_reducible apply KeepsO.next | with_reducible apply State.live_keeps | with_reducible apply State.runToFleet_keeps | with_reducible apply State.modThm_keeps | with_reducible apply State.thermalRound_keeps | with_reducible apply State.laneTerms_keeps | with_reducible apply State.batRound_keeps | with_reducible apply State.forAll_keeps | with_reducible apply State.modOut_keeps | with_reducible apply State.diaRound_keeps | with_reducible apply foldl_keeps | with_reducible apply ite_keeps | with_reducible apply iteO_keeps | split | with_reducible rfl | with_reducible apply And.intro | (dsimp only [id]; with_reducible assumption)

end Sys2Proof.Machine
end

