-- ==== Sys2Proof/Laws/Ops.lean ====
section
/-! SUPPORT. What the shared operations do: one lemma for each case of each. -/
namespace Sys2Proof.Machine

variable {s : State}

/-! ### The main supply -/

theorem State.live_supplied (f : State → State) (h : s.supplied = true) : s.live f = .next (f s) := by simp [State.live, h]
theorem State.live_unsupplied (f : State → State) (h : s.supplied = false) : s.live f = .next s := by simp [State.live, h]

/-! ### Register writes -/

theorem State.transact_free {m : Master} (f : State → State) (h : s.frozen m = false) : s.transact m f = f (s.beat m) := by
  simp [State.transact, h]
theorem State.transact_frozen {m : Master} (f : State → State) (h : s.frozen m = true) : s.transact m f = s.dropFrozen m := by
  simp [State.transact, h]

theorem State.laneOrPf0_notInteg {m : Master} (h : s.laneOrPf0 m = true) : m.isInteg = false := by
  cases m <;> first | rfl | simp [State.laneOrPf0] at h

theorem State.guardedWrite_granted {m : Master} {off : Nat} (f : State → State) (hz : s.frozen m = false) (hi : m.isInteg = false) :
    s.guardedWrite m true true true off f = f (s.beat m) := by simp [State.guardedWrite, State.checkedWrite, State.transact, hz, hi]
theorem State.guardedWrite_frozen {m : Master} {up present ok : Bool} {off : Nat} (f : State → State) (hz : s.frozen m = true) :
    s.guardedWrite m up present ok off f = s.dropFrozen m := by simp [State.guardedWrite, State.checkedWrite, State.transact, hz]
theorem State.guardedWrite_absent {m : Master} {up ok : Bool} {off : Nat} (f : State → State) (hz : s.frozen m = false) :
    s.guardedWrite m up false ok off f = s.beat m := by simp [State.guardedWrite, State.checkedWrite, State.transact, hz]
theorem State.guardedWrite_down {m : Master} {ok : Bool} {off : Nat} (f : State → State) (hz : s.frozen m = false) :
    s.guardedWrite m false true ok off f = (s.beat m).countResetDrop m := by simp [State.guardedWrite, State.checkedWrite, State.transact, hz]
theorem State.guardedWrite_integ {m : Master} {ok : Bool} {off : Nat} (f : State → State) (hz : s.frozen m = false) (hi : m.isInteg = true) :
    s.guardedWrite m true true ok off f = (s.beat m).freeze m (integCause off) (BitVec.ofNat 32 off) := by
  simp [State.guardedWrite, State.checkedWrite, State.transact, hz, hi]
theorem State.guardedWrite_denied {m : Master} {off : Nat} (f : State → State) (hz : s.frozen m = false) (hi : m.isInteg = false) :
    s.guardedWrite m true true false off f = (s.beat m).lockedWrite m off := by simp [State.guardedWrite, State.checkedWrite, State.transact, hz, hi]

/-! ### The work of a descriptor -/

theorem State.work_due {r : Ring} {d : Desc} (f : State → State) (h : s.due r d = true) : s.work r d f = f (s.takeUp r d) := by
  simp [State.work, h]
theorem State.work_notDue {r : Ring} {d : Desc} (f : State → State) (h : s.due r d = false) : s.work r d f = s := by simp [State.work, h]

/-! ### Frames taken in -/

theorem State.rx_takesIn {p : Port} {h : Hdr} (f : State → State) (a : s.takesIn p h = true) : s.rx p h f = f (s.received p h) := by
  simp only [State.takesIn, Bool.and_eq_true, Bool.or_eq_true, bne_iff_ne, beq_iff_eq, Bool.not_eq_true'] at a
  obtain ⟨⟨⟨⟨h1, h2⟩, h3⟩, h4⟩, h5⟩ := a
  have e1 : (s.codeErrors p h.codeErrs).rgt = s.rgt := rfl
  unfold State.rx
  dsimp only
  rw [e1, if_neg (by rcases h1 with h1 | h1 <;> rw [h1] <;> decide), if_neg (by simp [h2]), if_neg (by simp [h3]),
    if_neg (by simp [h4, h5])]
  rfl

theorem State.received_carries (c : RgtClass) (p : Port) (h : Hdr) :
    ((s.received p h).rgt.port.get p).carries c = (s.rgt.port.get p).carries c := by
  simp [State.received, State.modPort, State.codeErrors, State.modDia, PortSt.carries]

theorem State.rxClass_accepts {c : RgtClass} {p : Port} {h : Hdr} (f : State → State) (a : s.accepts c p h = true) :
    s.rxClass c p h f = f (s.received p h) := by
  simp only [State.accepts, Bool.and_eq_true] at a
  unfold State.rxClass
  rw [State.rx_takesIn _ a.1]
  exact if_pos (by rw [State.received_carries]; exact a.2)

/-! ### Time -/

@[simp] theorem State.runCycles_cycle (k : Nat) : (s.runCycles k).clk.cycle = s.clk.cycle + k := rfl
@[simp] theorem State.runCycles_fleet (k : Nat) : (s.runCycles k).clk.fleetFix = s.clk.fleetFix + k * s.clk.rate := rfl
theorem State.runTo_cycle (due : Nat) : (s.runTo due).clk.cycle = max s.clk.cycle due := by
  simp only [State.runTo, State.runCycles_cycle]; omega
theorem State.runCycles_zero : s.runCycles 0 = s := by
  simp only [State.runCycles, Nat.zero_mul, Nat.add_zero, if_true]
theorem State.runTo_passed {due : Nat} (h : due ≤ s.clk.cycle) : s.runTo due = s := by
  simp only [State.runTo, Nat.sub_eq_zero_of_le h, State.runCycles_zero]

/-- Time touches nothing but the clock and what the Regatta ports send. -/
@[simp] theorem State.runCycles_frame (k : Nat) :
    (s.runCycles k).pwr = s.pwr ∧ (s.runCycles k).ev = s.ev ∧ (s.runCycles k).irq = s.irq ∧ (s.runCycles k).ring = s.ring ∧
    (s.runCycles k).ringF = s.ringF ∧ (s.runCycles k).dlv = s.dlv ∧ (s.runCycles k).win = s.win ∧ (s.runCycles k).frz = s.frz ∧
    (s.runCycles k).dia = s.dia ∧ (s.runCycles k).glb = s.glb ∧ (s.runCycles k).tun = s.tun ∧ (s.runCycles k).hostOut = s.hostOut ∧
    (s.runCycles k).rgt = s.rgt ∧ (s.runCycles k).alc = s.alc ∧ (s.runCycles k).cfg = s.cfg ∧ (s.runCycles k).jn = s.jn ∧
    (s.runCycles k).pwm = s.pwm ∧ (s.runCycles k).reg = s.reg ∧ (s.runCycles k).out = s.out ∧ (s.runCycles k).mtx = s.mtx ∧
    (s.runCycles k).vcl = s.vcl ∧ (s.runCycles k).thm = s.thm ∧ (s.runCycles k).saf = s.saf ∧ (s.runCycles k).lne = s.lne ∧
    (s.runCycles k).met = s.met ∧ (s.runCycles k).bil = s.bil ∧ (s.runCycles k).bat = s.bat ∧ (s.runCycles k).key = s.key ∧
    (s.runCycles k).lcs = s.lcs ∧ (s.runCycles k).free = s.free ∧ (s.runCycles k).pending = s.pending ∧ (s.runCycles k).sram = s.sram :=
  ⟨rfl, rfl, rfl, rfl, rfl, rfl, rfl, rfl, rfl, rfl, rfl, rfl, rfl, rfl, rfl, rfl, rfl, rfl, rfl, rfl, rfl, rfl, rfl, rfl, rfl, rfl, rfl, rfl, rfl, rfl, rfl, rfl⟩
/-- Time touches nothing but the clock and what the Regatta ports send. -/
@[simp] theorem State.runTo_frame (due : Nat) :
    (s.runTo due).pwr = s.pwr ∧ (s.runTo due).ev = s.ev ∧ (s.runTo due).irq = s.irq ∧ (s.runTo due).ring = s.ring ∧
    (s.runTo due).ringF = s.ringF ∧ (s.runTo due).dlv = s.dlv ∧ (s.runTo due).win = s.win ∧ (s.runTo due).frz = s.frz ∧
    (s.runTo due).dia = s.dia ∧ (s.runTo due).glb = s.glb ∧ (s.runTo due).tun = s.tun ∧ (s.runTo due).hostOut = s.hostOut ∧
    (s.runTo due).rgt = s.rgt ∧ (s.runTo due).alc = s.alc ∧ (s.runTo due).cfg = s.cfg ∧ (s.runTo due).jn = s.jn ∧
    (s.runTo due).pwm = s.pwm ∧ (s.runTo due).reg = s.reg ∧ (s.runTo due).out = s.out ∧ (s.runTo due).mtx = s.mtx ∧
    (s.runTo due).vcl = s.vcl ∧ (s.runTo due).thm = s.thm ∧ (s.runTo due).saf = s.saf ∧ (s.runTo due).lne = s.lne ∧
    (s.runTo due).met = s.met ∧ (s.runTo due).bil = s.bil ∧ (s.runTo due).bat = s.bat ∧ (s.runTo due).key = s.key ∧
    (s.runTo due).lcs = s.lcs ∧ (s.runTo due).free = s.free ∧ (s.runTo due).pending = s.pending ∧ (s.runTo due).sram = s.sram :=
  by
  unfold State.runTo
  exact State.runCycles_frame _
/-- Time touches nothing but the clock and what the Regatta ports send. -/
@[simp] theorem State.runToFleet_frame (t : Nat) :
    (s.runToFleet t).pwr = s.pwr ∧ (s.runToFleet t).ev = s.ev ∧ (s.runToFleet t).irq = s.irq ∧ (s.runToFleet t).ring = s.ring ∧
    (s.runToFleet t).ringF = s.ringF ∧ (s.runToFleet t).dlv = s.dlv ∧ (s.runToFleet t).win = s.win ∧ (s.runToFleet t).frz = s.frz ∧
    (s.runToFleet t).dia = s.dia ∧ (s.runToFleet t).glb = s.glb ∧ (s.runToFleet t).tun = s.tun ∧ (s.runToFleet t).hostOut = s.hostOut ∧
    (s.runToFleet t).rgt = s.rgt ∧ (s.runToFleet t).alc = s.alc ∧ (s.runToFleet t).cfg = s.cfg ∧ (s.runToFleet t).jn = s.jn ∧
    (s.runToFleet t).pwm = s.pwm ∧ (s.runToFleet t).reg = s.reg ∧ (s.runToFleet t).out = s.out ∧ (s.runToFleet t).mtx = s.mtx ∧
    (s.runToFleet t).vcl = s.vcl ∧ (s.runToFleet t).thm = s.thm ∧ (s.runToFleet t).saf = s.saf ∧ (s.runToFleet t).lne = s.lne ∧
    (s.runToFleet t).met = s.met ∧ (s.runToFleet t).bil = s.bil ∧ (s.runToFleet t).bat = s.bat ∧ (s.runToFleet t).key = s.key ∧
    (s.runToFleet t).lcs = s.lcs ∧ (s.runToFleet t).free = s.free ∧ (s.runToFleet t).pending = s.pending ∧ (s.runToFleet t).sram = s.sram :=
  by
  unfold State.runToFleet
  exact State.runCycles_frame _
/-- Time touches nothing but the clock and what the Regatta ports send. -/
@[simp] theorem State.runToOffset_frame (off : Nat) :
    (s.runToOffset off).pwr = s.pwr ∧ (s.runToOffset off).ev = s.ev ∧ (s.runToOffset off).irq = s.irq ∧
    (s.runToOffset off).ring = s.ring ∧ (s.runToOffset off).ringF = s.ringF ∧ (s.runToOffset off).dlv = s.dlv ∧
    (s.runToOffset off).win = s.win ∧ (s.runToOffset off).frz = s.frz ∧ (s.runToOffset off).dia = s.dia ∧
    (s.runToOffset off).glb = s.glb ∧ (s.runToOffset off).tun = s.tun ∧ (s.runToOffset off).hostOut = s.hostOut ∧
    (s.runToOffset off).rgt = s.rgt ∧ (s.runToOffset off).alc = s.alc ∧ (s.runToOffset off).cfg = s.cfg ∧ (s.runToOffset off).jn = s.jn ∧
    (s.runToOffset off).pwm = s.pwm ∧ (s.runToOffset off).reg = s.reg ∧ (s.runToOffset off).out = s.out ∧
    (s.runToOffset off).mtx = s.mtx ∧ (s.runToOffset off).vcl = s.vcl ∧ (s.runToOffset off).thm = s.thm ∧
    (s.runToOffset off).saf = s.saf ∧ (s.runToOffset off).lne = s.lne ∧ (s.runToOffset off).met = s.met ∧
    (s.runToOffset off).bil = s.bil ∧ (s.runToOffset off).bat = s.bat ∧ (s.runToOffset off).key = s.key ∧
    (s.runToOffset off).lcs = s.lcs ∧ (s.runToOffset off).free = s.free ∧ (s.runToOffset off).pending = s.pending ∧ (s.runToOffset off).sram = s.sram :=
  by
  unfold State.runToOffset
  exact State.runToFleet_frame _

/-- A turn of the wheel passes at the most the beats that it may count. -/
theorem arbitrate_le (o : Owner) (n k : Nat) (l : List Owner) : arbitrate o n k l ≤ n := by
  induction n generalizing k l with
  | zero => exact Nat.le_refl 0
  | succ n ih =>
    unfold arbitrate
    split
    · split
      · omega
      · have := ih (k + 1) (l.erase ‹Owner›); omega
    · omega

/-- A beat of a master is time that passes: at least the cycle of the beat, and at the most 16 before it. -/
theorem State.beat_runs (m : Master) : ∃ k, 1 ≤ k ∧ k ≤ 17 ∧ s.beat m = s.runCycles k :=
  ⟨_, Nat.le_add_left 1 _, Nat.succ_le_succ (arbitrate_le _ _ _ _), rfl⟩

/-- With no other request the master's beat is the next cycle. -/
theorem State.beat_alone (m : Master) (h : s.requests = []) : s.beat m = s.runCycles 1 := by
  have key : ∀ (o : Owner) (k n : Nat), arbitrate o n k [] = 0 := by
    intro o k n
    cases n with
    | zero => rfl
    | succ n =>
      unfold arbitrate
      split
      · rename_i x hx
        have := List.find?_some hx
        have hxo : x = o := by simpa using this
        simp [hxo]
      · rfl
  unfold State.beat
  rw [h, key]

/-- A beat touches nothing but the clock and what the Regatta ports send. -/
@[simp] theorem State.beat_frame (m : Master) :
    (s.beat m).pwr = s.pwr ∧ (s.beat m).ev = s.ev ∧ (s.beat m).irq = s.irq ∧ (s.beat m).ring = s.ring ∧ (s.beat m).ringF = s.ringF ∧
    (s.beat m).dlv = s.dlv ∧ (s.beat m).win = s.win ∧ (s.beat m).frz = s.frz ∧ (s.beat m).dia = s.dia ∧ (s.beat m).glb = s.glb ∧
    (s.beat m).tun = s.tun ∧ (s.beat m).hostOut = s.hostOut ∧ (s.beat m).rgt = s.rgt ∧ (s.beat m).alc = s.alc ∧ (s.beat m).cfg = s.cfg ∧
    (s.beat m).jn = s.jn ∧ (s.beat m).pwm = s.pwm ∧ (s.beat m).reg = s.reg ∧ (s.beat m).out = s.out ∧ (s.beat m).mtx = s.mtx ∧
    (s.beat m).vcl = s.vcl ∧ (s.beat m).thm = s.thm ∧ (s.beat m).saf = s.saf ∧ (s.beat m).lne = s.lne ∧ (s.beat m).met = s.met ∧
    (s.beat m).bil = s.bil ∧ (s.beat m).bat = s.bat ∧ (s.beat m).key = s.key ∧ (s.beat m).lcs = s.lcs ∧ (s.beat m).free = s.free ∧
    (s.beat m).pending = s.pending ∧ (s.beat m).sram = s.sram := by
  unfold State.beat
  exact State.runCycles_frame _

/-- A beat is time that passes. -/
theorem State.beat_onlyTime (m : Master) : OnlyTime s (s.beat m) := rfl

/-- Several beats touch nothing else either. -/
theorem State.beats_frame (n : Nat) (m : Master) :
    (s.beats n m).win = s.win ∧ (s.beats n m).frz = s.frz ∧ (s.beats n m).sram = s.sram ∧ (s.beats n m).lcs = s.lcs ∧
    OnlyTime s (s.beats n m) := by
  induction n generalizing s with
  | zero => exact ⟨rfl, rfl, rfl, rfl, rfl⟩
  | succ n ih =>
    obtain ⟨h1, h2, h3, h4, h5⟩ := ih (s := s.beat m)
    refine ⟨h1.trans (by simp), h2.trans (by simp), h3.trans (by simp), h4.trans (by simp), ?_⟩
    have e : OnlyTime s (s.beat m) := State.beat_onlyTime m
    unfold OnlyTime at h5 e ⊢
    exact (congrArg (fun x : State => { x with clk := { x.clk with cycle := s.clk.cycle, fleetFix := s.clk.fleetFix }, line := s.line }) h5).trans e

/-! ### Memory of the window -/

theorem State.memRead_memWrite_same (a : Nat) (b : Byte) (h : Memory.wf s.win.mem) : (s.memWrite a b).memRead a = b :=
  sparseGet_put_same 0 s.win.mem a b h
theorem State.memRead_memWrite_other (a a' : Nat) (b : Byte) (h : a' ≠ a) : (s.memWrite a b).memRead a' = s.memRead a' :=
  sparseGet_put_other 0 s.win.mem a a' b h

theorem State.memWriteList_other (a x : Nat) (l : List Byte) (h : x < a ∨ a + l.length ≤ x) : (s.memWriteList a l).memRead x = s.memRead x := by
  induction l generalizing a s with
  | nil => rfl
  | cons b l ih =>
    rw [List.length_cons] at h
    exact (ih (s := s.memWrite a b) (a + 1) (by omega)).trans (State.memRead_memWrite_other _ _ _ (by omega))
theorem State.memWriteList_same (a i : Nat) (l : List Byte) (h : i < l.length) (hw : Memory.wf s.win.mem) :
    (s.memWriteList a l).memRead (a + i) = l[i] := by
  induction l generalizing a s i with
  | nil => exact absurd h (Nat.not_lt_zero _)
  | cons b l ih =>
    rw [List.length_cons] at h
    cases i with
    | zero =>
      exact (State.memWriteList_other (s := s.memWrite a b) (a + 1) a l (by omega)).trans (State.memRead_memWrite_same a b hw)
    | succ i =>
      have e := ih (s := s.memWrite a b) (a + 1) i (by omega) (sparsePut_wf 0 s.win.mem a b hw)
      rw [Nat.add_right_comm, Nat.add_assoc] at e
      exact e
/-- A run of writes changes nothing but the window's memory. -/
theorem State.memWriteList_frame (a : Nat) (l : List Byte) :
    { s.memWriteList a l with win := { (s.memWriteList a l).win with mem := s.win.mem } } = s := by
  induction l generalizing a s with
  | nil => rfl
  | cons b l ih =>
    have e := ih (s := s.memWrite a b) (a + 1)
    have e2 : { s.memWriteList a (b :: l) with win := { (s.memWriteList a (b :: l)).win with mem := s.win.mem } } =
        { (s.memWrite a b) with win := { (s.memWrite a b).win with mem := s.win.mem } } := by
      show { (s.memWrite a b).memWriteList (a + 1) l with win := { ((s.memWrite a b).memWriteList (a + 1) l).win with mem := s.win.mem } } = _
      generalize (s.memWrite a b).memWriteList (a + 1) l = u at *
      rw [← e]
    exact e2

/-! ### Events -/

theorem OnlyEvents.refl : OnlyEvents s s := rfl

theorem OnlyEvents.trans {t u : State} (a : OnlyEvents s t) (b : OnlyEvents t u) : OnlyEvents s u := by
  unfold OnlyEvents at *
  calc State.quietAs s u = State.quietAs s (State.quietAs t u) := rfl
    _ = State.quietAs s t := by rw [b]
    _ = s := a

theorem OnlyEvents.clk {t : State} (h : OnlyEvents s t) : t.clk = s.clk := (show t.clk = (State.quietAs s t).clk from rfl).trans (by rw [h])
theorem OnlyEvents.pwr {t : State} (h : OnlyEvents s t) : t.pwr = s.pwr := (show t.pwr = (State.quietAs s t).pwr from rfl).trans (by rw [h])
theorem OnlyEvents.ring {t : State} (h : OnlyEvents s t) : t.ring = s.ring := (show t.ring = (State.quietAs s t).ring from rfl).trans (by rw [h])
theorem OnlyEvents.ringF {t : State} (h : OnlyEvents s t) : t.ringF = s.ringF := (show t.ringF = (State.quietAs s t).ringF from rfl).trans (by rw [h])
theorem OnlyEvents.dlv {t : State} (h : OnlyEvents s t) : t.dlv = s.dlv := (show t.dlv = (State.quietAs s t).dlv from rfl).trans (by rw [h])
theorem OnlyEvents.win {t : State} (h : OnlyEvents s t) : t.win = s.win := (show t.win = (State.quietAs s t).win from rfl).trans (by rw [h])
theorem OnlyEvents.line {t : State} (h : OnlyEvents s t) : t.line = s.line := (show t.line = (State.quietAs s t).line from rfl).trans (by rw [h])
theorem OnlyEvents.sram {t : State} (h : OnlyEvents s t) : t.sram = s.sram := (show t.sram = (State.quietAs s t).sram from rfl).trans (by rw [h])
theorem OnlyEvents.frz {t : State} (h : OnlyEvents s t) : t.frz = s.frz := (show t.frz = (State.quietAs s t).frz from rfl).trans (by rw [h])
theorem OnlyEvents.glb {t : State} (h : OnlyEvents s t) : t.glb = s.glb := (show t.glb = (State.quietAs s t).glb from rfl).trans (by rw [h])
theorem OnlyEvents.tun {t : State} (h : OnlyEvents s t) : t.tun = s.tun := (show t.tun = (State.quietAs s t).tun from rfl).trans (by rw [h])
theorem OnlyEvents.rgt {t : State} (h : OnlyEvents s t) : t.rgt = s.rgt := (show t.rgt = (State.quietAs s t).rgt from rfl).trans (by rw [h])
theorem OnlyEvents.alc {t : State} (h : OnlyEvents s t) : t.alc = s.alc := (show t.alc = (State.quietAs s t).alc from rfl).trans (by rw [h])
theorem OnlyEvents.cfg {t : State} (h : OnlyEvents s t) : t.cfg = s.cfg := (show t.cfg = (State.quietAs s t).cfg from rfl).trans (by rw [h])
theorem OnlyEvents.jn {t : State} (h : OnlyEvents s t) : t.jn = s.jn := (show t.jn = (State.quietAs s t).jn from rfl).trans (by rw [h])
theorem OnlyEvents.pwm {t : State} (h : OnlyEvents s t) : t.pwm = s.pwm := (show t.pwm = (State.quietAs s t).pwm from rfl).trans (by rw [h])
theorem OnlyEvents.reg {t : State} (h : OnlyEvents s t) : t.reg = s.reg := (show t.reg = (State.quietAs s t).reg from rfl).trans (by rw [h])
theorem OnlyEvents.out {t : State} (h : OnlyEvents s t) : t.out = s.out := (show t.out = (State.quietAs s t).out from rfl).trans (by rw [h])
theorem OnlyEvents.mtx {t : State} (h : OnlyEvents s t) : t.mtx = s.mtx := (show t.mtx = (State.quietAs s t).mtx from rfl).trans (by rw [h])
theorem OnlyEvents.vcl {t : State} (h : OnlyEvents s t) : t.vcl = s.vcl := (show t.vcl = (State.quietAs s t).vcl from rfl).trans (by rw [h])
theorem OnlyEvents.saf {t : State} (h : OnlyEvents s t) : t.saf = s.saf := (show t.saf = (State.quietAs s t).saf from rfl).trans (by rw [h])
theorem OnlyEvents.lne {t : State} (h : OnlyEvents s t) : t.lne = s.lne := (show t.lne = (State.quietAs s t).lne from rfl).trans (by rw [h])
theorem OnlyEvents.met {t : State} (h : OnlyEvents s t) : t.met = s.met := (show t.met = (State.quietAs s t).met from rfl).trans (by rw [h])
theorem OnlyEvents.bil {t : State} (h : OnlyEvents s t) : t.bil = s.bil := (show t.bil = (State.quietAs s t).bil from rfl).trans (by rw [h])
theorem OnlyEvents.bat {t : State} (h : OnlyEvents s t) : t.bat = s.bat := (show t.bat = (State.quietAs s t).bat from rfl).trans (by rw [h])
theorem OnlyEvents.key {t : State} (h : OnlyEvents s t) : t.key = s.key := (show t.key = (State.quietAs s t).key from rfl).trans (by rw [h])
theorem OnlyEvents.lcs {t : State} (h : OnlyEvents s t) : t.lcs = s.lcs := (show t.lcs = (State.quietAs s t).lcs from rfl).trans (by rw [h])
theorem OnlyEvents.free {t : State} (h : OnlyEvents s t) : t.free = s.free := (show t.free = (State.quietAs s t).free from rfl).trans (by rw [h])
theorem OnlyEvents.pending {t : State} (h : OnlyEvents s t) : t.pending = s.pending := (show t.pending = (State.quietAs s t).pending from rfl).trans (by rw [h])

theorem OnlyEvents.storeRec (r : JRec) : OnlyEvents s (s.storeRec r) := by
  unfold State.storeRec
  split
  · split <;> rfl
  · rfl

theorem OnlyEvents.journal (block code subject a b origin : Nat) : OnlyEvents s (s.journal block code subject a b origin) := by
  unfold State.journal
  dsimp only
  split
  · split
    · rfl
    · exact OnlyEvents.trans (t := State.modDia _ s) rfl (OnlyEvents.storeRec _)
  · exact OnlyEvents.trans (t := State.modDia _ s) rfl (OnlyEvents.storeRec _)

theorem OnlyEvents.sendMsi (v : IrqVec) : OnlyEvents s (s.sendMsi v) := by
  unfold State.sendMsi
  split <;> rfl

theorem OnlyEvents.irqItem (v : IrqVec) (now : Bool) : OnlyEvents s (s.irqItem v now) := by
  unfold State.irqItem
  dsimp only
  split
  · exact OnlyEvents.trans (t := State.modIrq v _ s) rfl (OnlyEvents.sendMsi _)
  · rfl

theorem OnlyEvents.raise (e : EvSrc) (b : Nat) : OnlyEvents s (s.raise e b) := by
  unfold State.raise
  have h : OnlyEvents s ((s.evSet e { s.evGet e with flags := (s.evGet e).flags ||| bit 32 b }).journal e.block b e.subject 0 0 e.origin) :=
    OnlyEvents.trans (t := s.evSet e { s.evGet e with flags := (s.evGet e).flags ||| bit 32 b }) rfl (OnlyEvents.journal ..)
  dsimp only
  split
  · exact h.trans (OnlyEvents.irqItem _ _)
  · exact h

theorem OnlyEvents.raiseAt (e : EvSrc) (b subject a v : Nat) : OnlyEvents s (s.raiseAt e b subject a v) := by
  unfold State.raiseAt
  have h : OnlyEvents s ((s.evSet e { s.evGet e with flags := (s.evGet e).flags ||| bit 32 b }).journal e.block b subject a v e.origin) :=
    OnlyEvents.trans (t := s.evSet e { s.evGet e with flags := (s.evGet e).flags ||| bit 32 b }) rfl (OnlyEvents.journal ..)
  dsimp only
  split
  · exact h.trans (OnlyEvents.irqItem _ _)
  · exact h

theorem State.storeRec_ev (r : JRec) : (s.storeRec r).ev = s.ev := by unfold State.storeRec; split <;> (try split) <;> rfl
theorem State.journal_ev (block code subject a b origin : Nat) : (s.journal block code subject a b origin).ev = s.ev := by
  unfold State.journal
  dsimp only
  split
  · split
    · rfl
    · rw [State.storeRec_ev]; rfl
  · rw [State.storeRec_ev]; rfl
theorem State.sendMsi_ev (v : IrqVec) : (s.sendMsi v).ev = s.ev := by unfold State.sendMsi; split <;> rfl
theorem State.irqItem_ev (v : IrqVec) (now : Bool) : (s.irqItem v now).ev = s.ev := by
  unfold State.irqItem
  dsimp only
  split
  · rw [State.sendMsi_ev]; rfl
  · rfl
theorem State.raise_ev (e : EvSrc) (b : Nat) :
    (s.raise e b).ev = s.ev.set { s.evGet e with flags := (s.evGet e).flags ||| bit 32 b } e := by
  unfold State.raise
  dsimp only
  split
  · rw [State.irqItem_ev, State.journal_ev]; rfl
  · rw [State.journal_ev]; rfl

theorem State.raiseAt_ev (e : EvSrc) (b subject a v : Nat) :
    (s.raiseAt e b subject a v).ev = (s.evSet e { s.evGet e with flags := (s.evGet e).flags ||| bit 32 b }).ev := by
  unfold State.raiseAt
  dsimp only
  split
  · rw [State.irqItem_ev, State.journal_ev]
  · rw [State.journal_ev]

theorem State.evGet_ev {t : State} (e : EvSrc) (h : s.ev = t.ev) : s.evGet e = t.evGet e := by cases e <;> simp [State.evGet, h]

theorem State.evGet_set_same (e : EvSrc) (v : EvReg) : (s.evSet e v).evGet e = v := by
  cases e <;> simp [State.evSet, State.evGet, State.modEv, EvRegs.set]
theorem State.evGet_set_other (e e' : EvSrc) (v : EvReg) (h : e' ≠ e) : (s.evSet e v).evGet e' = s.evGet e' := by
  cases e <;> cases e' <;> simp_all [State.evSet, State.evGet, State.modEv, EvRegs.set, vmod_other, Ne.symm]

theorem State.raise_flags (e : EvSrc) (b : Nat) : ((s.raise e b).evGet e).flags = (s.evGet e).flags ||| bit 32 b := by
  rw [State.evGet_ev (t := s.evSet e { s.evGet e with flags := (s.evGet e).flags ||| bit 32 b }) e (State.raise_ev e b),
    State.evGet_set_same]
theorem State.raise_other (e e' : EvSrc) (b : Nat) (h : e' ≠ e) : (s.raise e b).evGet e' = s.evGet e' := by
  rw [State.evGet_ev (t := s.evSet e { s.evGet e with flags := (s.evGet e).flags ||| bit 32 b }) e' (State.raise_ev e b),
    State.evGet_set_other _ _ _ h]

/-! ### Two updates of one block are one -/

theorem State.modClk_modClk (f g : Clk → Clk) : (s.modClk f).modClk g = s.modClk fun x => g (f x) := rfl
theorem State.modPwr_modPwr (f g : Pwr → Pwr) : (s.modPwr f).modPwr g = s.modPwr fun x => g (f x) := rfl
theorem State.modEv_modEv (f g : EvRegs → EvRegs) : (s.modEv f).modEv g = s.modEv fun x => g (f x) := rfl
theorem State.modDlv_modDlv (f g : Dlv → Dlv) : (s.modDlv f).modDlv g = s.modDlv fun x => g (f x) := rfl
theorem State.modWin_modWin (f g : Win → Win) : (s.modWin f).modWin g = s.modWin fun x => g (f x) := rfl
theorem State.modFrz_modFrz (f g : Frz → Frz) : (s.modFrz f).modFrz g = s.modFrz fun x => g (f x) := rfl
theorem State.modDia_modDia (f g : Dia → Dia) : (s.modDia f).modDia g = s.modDia fun x => g (f x) := rfl
theorem State.modGlb_modGlb (f g : Glb → Glb) : (s.modGlb f).modGlb g = s.modGlb fun x => g (f x) := rfl
theorem State.modTun_modTun (f g : Tunnel → Tunnel) : (s.modTun f).modTun g = s.modTun fun x => g (f x) := rfl
theorem State.modHost_modHost (f g : HostOut → HostOut) : (s.modHost f).modHost g = s.modHost fun x => g (f x) := rfl
theorem State.modRgt_modRgt (f g : Rgt → Rgt) : (s.modRgt f).modRgt g = s.modRgt fun x => g (f x) := rfl
theorem State.modAlc_modAlc (f g : Alc → Alc) : (s.modAlc f).modAlc g = s.modAlc fun x => g (f x) := rfl
theorem State.modCfg_modCfg (f g : Cfg → Cfg) : (s.modCfg f).modCfg g = s.modCfg fun x => g (f x) := rfl
theorem State.modPwm_modPwm (f g : Pwm → Pwm) : (s.modPwm f).modPwm g = s.modPwm fun x => g (f x) := rfl
theorem State.modReg_modReg (f g : Reg → Reg) : (s.modReg f).modReg g = s.modReg fun x => g (f x) := rfl
theorem State.modMtx_modMtx (f g : Mtx → Mtx) : (s.modMtx f).modMtx g = s.modMtx fun x => g (f x) := rfl
theorem State.modVcl_modVcl (f g : Vcl → Vcl) : (s.modVcl f).modVcl g = s.modVcl fun x => g (f x) := rfl
theorem State.modThm_modThm (f g : Thm → Thm) : (s.modThm f).modThm g = s.modThm fun x => g (f x) := rfl
theorem State.modSaf_modSaf (f g : Saf → Saf) : (s.modSaf f).modSaf g = s.modSaf fun x => g (f x) := rfl
theorem State.modLne_modLne (f g : Lne → Lne) : (s.modLne f).modLne g = s.modLne fun x => g (f x) := rfl
theorem State.modMet_modMet (f g : Met → Met) : (s.modMet f).modMet g = s.modMet fun x => g (f x) := rfl
theorem State.modBil_modBil (f g : Bil → Bil) : (s.modBil f).modBil g = s.modBil fun x => g (f x) := rfl
theorem State.modBat_modBat (f g : Bat → Bat) : (s.modBat f).modBat g = s.modBat fun x => g (f x) := rfl
theorem State.modKey_modKey (f g : Key → Key) : (s.modKey f).modKey g = s.modKey fun x => g (f x) := rfl
theorem State.modLcs_modLcs (f g : Lcs → Lcs) : (s.modLcs f).modLcs g = s.modLcs fun x => g (f x) := rfl
theorem State.modIrq_modIrq (i : IrqVec) (f g : Irq → Irq) : (s.modIrq i f).modIrq i g = s.modIrq i fun x => g (f x) := by
  simp only [State.modIrq, vmod_vmod]
theorem State.modRing_modRing (i : Ring) (f g : RingSt → RingSt) : (s.modRing i f).modRing i g = s.modRing i fun x => g (f x) := by
  simp only [State.modRing, vmod_vmod]
theorem State.modRingF_modRingF (i : Fn) (f g : RingFn → RingFn) : (s.modRingF i f).modRingF i g = s.modRingF i fun x => g (f x) := by
  simp only [State.modRingF, vmod_vmod]
theorem State.modPort_modPort (i : Port) (f g : PortSt → PortSt) : (s.modPort i f).modPort i g = s.modPort i fun x => g (f x) := by
  simp only [State.modPort, vmod_vmod]
theorem State.modLine_modLine (i : Port) (f g : LineSt → LineSt) : (s.modLine i f).modLine i g = s.modLine i fun x => g (f x) := by
  simp only [State.modLine, vmod_vmod]
theorem State.modChild_modChild (i : Port) (f g : ChildSt → ChildSt) : (s.modChild i f).modChild i g = s.modChild i fun x => g (f x) := by
  simp only [State.modChild, vmod_vmod]
theorem State.modJn_modJn (i : Outlet) (f g : JnSt → JnSt) : (s.modJn i f).modJn i g = s.modJn i fun x => g (f x) := by
  simp only [State.modJn, vmod_vmod]
theorem State.modCh_modCh (i : Phase) (f g : PwmCh → PwmCh) : (s.modCh i f).modCh i g = s.modCh i fun x => g (f x) := by
  simp only [State.modCh, vmod_vmod]
theorem State.modAux_modAux (i : Aux) (f g : AuxCh → AuxCh) : (s.modAux i f).modAux i g = s.modAux i fun x => g (f x) := by
  simp only [State.modAux, vmod_vmod]
theorem State.modRegCh_modRegCh (i : Phase) (f g : RegCh → RegCh) : (s.modRegCh i f).modRegCh i g = s.modRegCh i fun x => g (f x) := by
  simp only [State.modRegCh, vmod_vmod]
theorem State.modStart_modStart (i : Outlet) (f g : StartM → StartM) : (s.modStart i f).modStart i g = s.modStart i fun x => g (f x) := by
  simp only [State.modStart, vmod_vmod]
theorem State.modOut_modOut (i : Outlet) (f g : OutSt → OutSt) : (s.modOut i f).modOut i g = s.modOut i fun x => g (f x) := by
  simp only [State.modOut, vmod_vmod]
theorem State.modVclCh_modVclCh (i : Outlet) (f g : VclSt → VclSt) : (s.modVclCh i f).modVclCh i g = s.modVclCh i fun x => g (f x) := by
  simp only [State.modVclCh, vmod_vmod]

/-! ### Two updates that agree on the instance are one -/

theorem State.modIrq_congr (i : IrqVec) (f g : Irq → Irq) (h : f (s.irq.get i) = g (s.irq.get i)) : s.modIrq i f = s.modIrq i g := by
  simp only [State.modIrq, vmod_congr _ _ _ _ h]
theorem State.modRing_congr (i : Ring) (f g : RingSt → RingSt) (h : f (s.ring.get i) = g (s.ring.get i)) : s.modRing i f = s.modRing i g := by
  simp only [State.modRing, vmod_congr _ _ _ _ h]
theorem State.modRingF_congr (i : Fn) (f g : RingFn → RingFn) (h : f (s.ringF.get i) = g (s.ringF.get i)) : s.modRingF i f = s.modRingF i g := by
  simp only [State.modRingF, vmod_congr _ _ _ _ h]
theorem State.modPort_congr (i : Port) (f g : PortSt → PortSt) (h : f (s.rgt.port.get i) = g (s.rgt.port.get i)) : s.modPort i f = s.modPort i g := by
  simp only [State.modPort, vmod_congr _ _ _ _ h]
theorem State.modChild_congr (i : Port) (f g : ChildSt → ChildSt) (h : f (s.alc.child.get i) = g (s.alc.child.get i)) : s.modChild i f = s.modChild i g := by
  simp only [State.modChild, vmod_congr _ _ _ _ h]
theorem State.modJn_congr (i : Outlet) (f g : JnSt → JnSt) (h : f (s.jn.get i) = g (s.jn.get i)) : s.modJn i f = s.modJn i g := by
  simp only [State.modJn, vmod_congr _ _ _ _ h]
theorem State.modCh_congr (i : Phase) (f g : PwmCh → PwmCh) (h : f (s.pwm.ch.get i) = g (s.pwm.ch.get i)) : s.modCh i f = s.modCh i g := by
  simp only [State.modCh, vmod_congr _ _ _ _ h]
theorem State.modAux_congr (i : Aux) (f g : AuxCh → AuxCh) (h : f (s.pwm.aux.get i) = g (s.pwm.aux.get i)) : s.modAux i f = s.modAux i g := by
  simp only [State.modAux, vmod_congr _ _ _ _ h]
theorem State.modRegCh_congr (i : Phase) (f g : RegCh → RegCh) (h : f (s.reg.ch.get i) = g (s.reg.ch.get i)) : s.modRegCh i f = s.modRegCh i g := by
  simp only [State.modRegCh, vmod_congr _ _ _ _ h]
theorem State.modStart_congr (i : Outlet) (f g : StartM → StartM) (h : f (s.reg.start.get i) = g (s.reg.start.get i)) : s.modStart i f = s.modStart i g := by
  simp only [State.modStart, vmod_congr _ _ _ _ h]
theorem State.modOut_congr (i : Outlet) (f g : OutSt → OutSt) (h : f (s.out.get i) = g (s.out.get i)) : s.modOut i f = s.modOut i g := by
  simp only [State.modOut, vmod_congr _ _ _ _ h]
theorem State.modVclCh_congr (i : Outlet) (f g : VclSt → VclSt) (h : f (s.vcl.ch.get i) = g (s.vcl.ch.get i)) : s.modVclCh i f = s.modVclCh i g := by
  simp only [State.modVclCh, vmod_congr _ _ _ _ h]

/-! ### A change for every instance -/

/-- What a loop over all instances leaves in one of them, where each turn touches its own instance alone and leaves the context. -/
theorem State.forAll_view {n : Nat} {α γ : Type} (f : Fin n → State → State) (ctx : State → γ) (view : Fin n → State → α)
    (g : Fin n → γ → α → α) (hc : ∀ i t, ctx (f i t) = ctx t)
    (hv : ∀ i k t, view k (f i t) = if i = k then g k (ctx t) (view k t) else view k t) (k : Fin n) :
    view k (s.forAll f) = g k (ctx s) (view k s) := by
  have key : ∀ (l : List (Fin n)) (t : State), l.Nodup →
      view k (l.foldl (fun t i => f i t) t) = if k ∈ l then g k (ctx t) (view k t) else view k t := by
    intro l
    induction l with
    | nil => intro t _; simp
    | cons i u ih =>
      intro t hl
      have hn := List.nodup_cons.mp hl
      rw [List.foldl_cons, ih _ hn.2, hc]
      by_cases e : i = k
      · subst e; simp [hn.1, hv]
      · have e' : ¬ k = i := fun h => e h.symm
        simp [hv, e, e']
  have := key (List.finRange n) s nodup_range
  simpa [State.forAll] using this

/-- What every turn of a loop keeps, the loop keeps. -/
theorem State.forAll_induct {n : Nat} (f : Fin n → State → State) (P : State → Prop) (hf : ∀ i t, P t → P (f i t)) (h : P s) :
    P (s.forAll f) := by
  have key : ∀ (l : List (Fin n)) (t : State), P t → P (l.foldl (fun t i => f i t) t) := by
    intro l
    induction l with
    | nil => intro t h; exact h
    | cons i u ih => intro t h; exact ih _ (hf i t h)
  exact key _ _ h

/-! ### Views that do not depend on time -/

theorem State.runTo_outCfg (k : Nat) (o : Outlet) : (s.runTo k).outCfg o = s.outCfg o := by
  unfold State.outCfg State.hasOutlet; simp only [State.runTo_frame]
theorem State.runToFleet_outCfg (k : Nat) (o : Outlet) : (s.runToFleet k).outCfg o = s.outCfg o := by
  unfold State.outCfg State.hasOutlet; simp only [State.runToFleet_frame]
theorem State.runTo_counts (k : Nat) (o : Outlet) : (s.runTo k).counts o = s.counts o := by
  funext n
  unfold State.counts State.inGroup State.laneFaulty State.phaseCfg State.hasPhase
  simp only [State.runTo_frame]
theorem State.runTo_mOf (k : Nat) (o : Outlet) : (s.runTo k).mOf o = s.mOf o := by unfold State.mOf; rw [State.runTo_counts]
theorem State.runTo_group (k : Nat) (o : Outlet) : (s.runTo k).group o = s.group o := by unfold State.group; rw [State.runTo_counts]

theorem le_ceilDiv_mul (a b : Nat) (h : 0 < b) : a ≤ ceilDiv a b * b := by
  unfold ceilDiv
  have h1 := Nat.div_add_mod (a + b - 1) b
  have h2 := Nat.mod_lt (a + b - 1) h
  rw [Nat.mul_comm]
  omega
/-- While fleet time runs, time run up to a fleet time has reached it. -/
theorem State.runToFleet_reaches (t : Nat) (h : 0 < s.clk.rate) : t ≤ (s.runToFleet t).now := by
  show t ≤ (s.clk.fleetFix + ceilDiv (t * 2 ^ 32 - s.clk.fleetFix) s.clk.rate * s.clk.rate) / 2 ^ 32
  rw [Nat.le_div_iff_mul_le (Nat.two_pow_pos 32)]
  have := le_ceilDiv_mul (t * 2 ^ 32 - s.clk.fleetFix) s.clk.rate h
  omega

end Sys2Proof.Machine
end

