-- ==== Sys2Proof/Machine/Balls.lean ====
section
/-! DEFINITION. The balls: the groups with their banks and unused states, the balls that the model drives, and what each ball shows
(00 R2; 23 R508-R510). -/
namespace Sys2Proof

/-- The supply bank of a ball (23 R509). -/
inductive Bank where
  | io33 | io18 | a18 | a33 | s09 | aon
deriving DecidableEq, Repr

/-- What a ball shows: a driven level, the control pilot's 1 kHz at 5 %, high impedance, a transmitter or receiver that is off, a resistor to the
bank's ground or supply, a tie to 0.90 V or to AVSS, an input that reads as 0; `signal` is a ball in use by its owning block whose level
the model does not hold. -/
inductive BallState where
  | low | high | pilot1k | highZ | off | pullDown | pullUp | tied090 | avss | zero | signal
deriving DecidableEq, Repr

/-- A signal ball of 23 R508, by its name. The pairs and buses of one interface go by one name, with its direction. -/
inductive Ball where
  | pwmH (n : Phase) | pwmL (n : Phase) | cs (n : Phase) | gateEn (n : Phase) | auxPwm (a : Aux)
  | ocpDrv (o : Outlet) | ocmDrv (o : Outlet) | ocpFb (o : Outlet) | ocmFb (o : Outlet)
  | mtxDrv (k : HkChan) | mtxFb (k : HkChan) | imdAlm (o : Outlet)
  | cpDrv (i : Fin 8) | cpSns (i : Fin 8) | pltIn (i : Fin 8) | pltOut (i : Fin 8)
  | plcTx (o : Outlet) | plcRx (o : Outlet) | t1s (o : Outlet) | vcanTx (o : Outlet) | vcanRx (o : Outlet)
  | mcanTx (d : Acd) | mcanRx (d : Acd) | rgtTx (p : Port) | rgtRx (p : Port) | rgtLos (p : Port) | sfp (p : Port)
  | pcie | sgmiiTx (e : Fin 2) | sgmiiRx (e : Fin 2) | mdc | mdio
  | modDat (n : MLane) | modClk (j : Fin 4) | auxPwr | hkIn (c : HkChan)
  | dspTx (j : Fin 2) | dspRx (j : Fin 2) | dspDe (j : Fin 2) | cbTx | cbRx | cbDe
  | xspi | mkIn | mkTdo | brkTrip | estop (e : Fin 4) | stoA (d : Acd) | stoB (d : Acd) | curtail (j : Fin 2)
  | mtr (j : Fin 3) | meshDrv (j : Fin 4) | meshRet (j : Fin 4) | tamperSw (j : Fin 2) | pps | clock (j : Fin 3) | reset (j : Fin 3)
deriving DecidableEq, Repr

/-- The bank of a ball (23 R508). -/
def Ball.bank : Ball → Bank
  | .cs _ | .plcTx _ | .plcRx _ => .a18
  | .cpSns _ | .hkIn _ => .a33
  | .rgtTx _ | .rgtRx _ | .sgmiiTx _ | .sgmiiRx _ | .pcie => .s09
  | .mdc | .mdio | .xspi | .mkIn | .mkTdo => .io18
  | .clock j => if j = 0 then .io18 else .aon
  | .mtr _ | .meshDrv _ | .meshRet _ | .tamperSw _ => .aon
  | _ => .io33

/-- The unused state of a ball (23 R508). For the groups without one, the host's lanes, the boot flash and the clocks, a signal. -/
def Ball.unused : Ball → BallState
  | .pwmH _ | .pwmL _ | .gateEn _ | .auxPwm _ | .ocpDrv _ | .ocmDrv _ | .mtxDrv _ | .cpDrv _ | .pltOut _ | .modClk _ | .auxPwr => .low
  | .dspDe _ | .cbDe | .brkTrip | .stoA _ | .stoB _ | .meshDrv _ | .mdc => .low
  | .cs _ => .tied090
  | .cpSns _ => .avss
  | .plcTx _ | .plcRx _ | .rgtTx _ | .rgtRx _ | .sgmiiTx _ | .sgmiiRx _ => .off
  | .t1s _ | .sfp _ | .mkTdo => .highZ
  | .vcanTx _ | .mcanTx _ | .dspTx _ | .cbTx => .high
  | .vcanRx _ | .mcanRx _ | .dspRx _ | .cbRx | .mdio | .mtr _ | .meshRet _ | .tamperSw _ | .reset _ => .pullUp
  | .ocpFb _ | .ocmFb _ | .mtxFb _ | .imdAlm _ | .pltIn _ | .rgtLos _ | .modDat _ | .estop _ | .curtail _ | .pps | .mkIn => .pullDown
  | .hkIn _ => .zero
  | .pcie | .xspi | .clock _ => .signal

/-- A ball keeps its function in HOLD: the burst's supply and clock, and the always-on bank (23 R509, R519, R520). -/
def Ball.inHold : Ball → Bool
  | .auxPwr | .modClk _ | .modDat _ | .mtr _ | .meshDrv _ | .meshRet _ | .tamperSw _ | .clock _ => true
  | _ => false

end Sys2Proof

namespace Sys2Proof.Machine

/-- The variant has the ball's resource (00 R1). -/
def State.hasBall (s : State) : Ball → Bool
  | .pwmH n | .pwmL n | .cs n | .gateEn n => s.hasPhase n
  | .ocpDrv o | .ocmDrv o | .ocpFb o | .ocmFb o | .imdAlm o | .plcTx o | .plcRx o | .t1s o | .vcanTx o | .vcanRx o => s.hasOutlet o
  | .cpDrv i | .cpSns i | .pltIn i | .pltOut i => s.hasOutlet i
  | .modDat n => s.hasLane n
  | .meshDrv _ | .meshRet _ | .tamperSw _ => s.glb.variant == .a8t
  | _ => true

/-- What CP_DRV[i] and PLT_OUT[i] show for an outlet (07 R176-R178; 08 R203): kind 0 -12 V in OFF and FAULT, +12 V in IDLE, 1 kHz elsewhere;
the relay of kind 2, and the device's side of the charge-enable loop of kind 1, from PLUGGED to RELEASED. The second relay of CHAdeMO is the
data plane's. The pin of kind 1 is DEDUCED (log entry 164). -/
def OutState.engaged : OutState → Bool
  | .off | .idle | .fault => false
  | _ => true

def cpDrive (kind : BitVec 2) (st : OutState) (chademo : Bool) : BallState :=
  if kind = 0 then (if st.pilotPwm then .pilot1k else if st = .idle then .high else .low)
  else if kind = 1 then (if st.engaged then .high else .low)
  else if st.engaged && chademo then .signal else .low

def pltDrive (kind : BitVec 2) (st : OutState) : BallState := if kind = 2 && st.engaged then .high else .low

def lvl (b : Bool) : BallState := if b then .high else .low

/-- The level of a ball whose resource is present and powered, where the model holds it. -/
def State.ballUsed (s : State) : Ball → BallState
  | .pwmH n => lvl (s.balls n).1
  | .pwmL n => lvl (s.balls n).2
  | .gateEn n => lvl (s.gatePin n)
  | .auxPwm a => lvl (s.auxBall a)
  | .ocpDrv o => lvl (s.saf.ocp.getLsbD o.val)
  | .ocmDrv o => lvl (s.saf.ocm.getLsbD o.val)
  | .mtxDrv k => lvl (s.mtx.drv.getLsbD k.val)
  | .cpDrv i =>
    match s.pilotOutlet i with
    | some (o, c) => if s.pwr.controlReady then cpDrive c.kind (s.out.get o).st (s.vcl.ch.get o).chademo else .low
    | none => .low
  | .pltOut i =>
    match s.pilotOutlet i with
    | some (o, c) => if s.pwr.controlReady then pltDrive c.kind (s.out.get o).st else .low
    | none => .low
  | .auxPwr => lvl s.auxPower
  | .modClk _ => if s.modClock then .signal else .low
  | .brkTrip => lvl s.saf.brkTrip
  | .stoA d => lvl (s.stoPin ⟨d.val, by omega⟩)
  | .stoB d => lvl (s.stoPin ⟨d.val + 4, by omega⟩)
  | _ => .signal

/-- What a ball shows: its unused state for an absent resource, permanently, and while the supply of its owning block is off; what its owner
drives otherwise (00 R2; 23 R510). -/
def State.ball (s : State) (b : Ball) : BallState :=
  if s.hasBall b && (s.supplied || b.inHold) then s.ballUsed b else b.unused

end Sys2Proof.Machine
end

