-- ==== Sys2Proof/Tests/Slice0.lean ====
section
/-! SUPPORT. Ill-formed commands that the check refuses, small runs of single commands against the manual's words, and for each statement of
Certificates/Slice0/Obligations.lean states and operands that meet the hypotheses of its clauses. -/
namespace Sys2Proof.Tests
open Sys2Proof Sys2Proof.Machine

/-! ### Small states -/

/-- The block with every plane and the legal domain in service. -/
def live : State :=
  { State.reset with
    pwr := { Pwr.cold with legalReady := true, mgmtReady := true, controlReady := true, dataReady := true, integratorReady := true },
    bil := { Bil.cold with legalUp := true } }

/-- An outlets entry of kind 0. -/
def oc : OutletCfg := ⟨0, 1, 3, 1000, 500, 500, none, 100, 1000, 100, 50, 1000, 100, 0, true⟩
/-- A battery section. -/
def bc : BatCfg :=
  { capacity := 100, chgP := 100, disP := 100, chgI := 1000, disI := 1000, vEoc := 4200, vEod := 3000, lo := 1000, hi := 9000, eff := 98,
    bc := 1, bs := 1, d1 := 0, d2 := 0, d3 := 0, c1 := 0, c2 := 0, c3 := 0, restI := 10, restS := 60, taperI := 50, quasi := 10, growth := 1,
    degradedH := 100, heldEn := true, chans := [], temps := [0, 25], ocv := [], z := [] }

/-- As `live`, with outlet 0 fitted, two contactors of phase 0, a drive and a battery configured. -/
def fit : State :=
  live.modCfg fun c => { c with active := { c.active with
    outlets := vmod c.active.outlets 0 fun _ => some oc,
    matrix := [⟨0, 0, 10, 10, true⟩, ⟨0, 1, 10, 10, false⟩],
    battery := some bc,
    thermal := { c.active.thermal with drives := vmod c.active.thermal.drives 0 fun _ => some ⟨1, 2, some 3, none⟩ } } }

/-- A descriptor with sequence 1, its payload in bytes 24-31. -/
def desc (op : Half) (target : Word) (p : BitVec 64) : Desc := ⟨1, op, 0, 0, target, 0, p.setWidth 320⟩

/-- The state with a descriptor handed over on a ring and not yet taken up. -/
def holds (r : Ring) (d : Desc) (s : State) : State :=
  s.modDlv fun v => { v with slots := vmod v.slots r fun _ => [⟨d.seq, d, .handed, none, false, 0, 0, false, 0, [], false, false⟩] }

/-- A frame header from controller `src` of crew 0 to everyone. -/
def hdr (src : CtrlId) : Hdr := ⟨src, 0, none, 1, 0, 12, false, false, 0, 44, true, false, 0, 0⟩

/-- What an admitted neighbour of crew 0 tells. -/
def helloOf (id : CtrlId) : Probe := ⟨id, 0, 0, 0, none, none, 0, 0, 0, 0, true, true⟩

/-- As `s`, with port 0 ACTIVE in a role, its neighbour `id`. -/
def linked (role : PortRole) (id : CtrlId) (s : State) : State :=
  s.modPort 0 fun x => { x with en := true, st := .active, role := role, probe := some (helloOf id) }

def role (r : RgtRole) (s : State) : State := s.modRgt fun g => { g with role := r }
def out0 (st : OutState) (s : State) : State := s.modOut 0 fun x => { x with st := st }

/-! ### The check of operands -/

theorem test_wellFormed_offset : WellFormed (.registerWrite .lane 0x100000 0) = false ∧ WellFormed (.loWordRead .lane 0x100004) = false ∧
    WellFormed (.unmappedAccess .lane 0x100000 true) = false ∧ WellFormed (.registerWrite .lane 0xFFFFC 0) = true := by decide
theorem test_wellFormed_window : WellFormed (.windowAccess .lane .window true 0xFFF [0, 0]) = false ∧ WellFormed (.windowAccess .lane .window true 0x1000000 [0]) = false ∧
    WellFormed (.windowAccess .lane .window true 0xFFF [0]) = true := by decide
theorem test_wellFormed_demand : WellFormed (.demandWrite .lane 0 0 0 .zero) = false ∧ WellFormed (.demandWrite .lane 0 1 0 .zero) = true := by decide
theorem test_wellFormed_segment : WellFormed (.cfgSegmentReceive 0 (hdr 1) 1 1 1 1 []) = false ∧ WellFormed (.cfgSegmentReceive 0 (hdr 1) 1 1 0 65 []) = false ∧
    WellFormed (.cfgSegmentReceive 0 (hdr 1) 1 1 63 64 []) = true := by decide
theorem test_wellFormed_tunnel : WellFormed (.tunnelReceive 0 (hdr 1) 0 1 0 34 1 []) = false ∧ WellFormed (.tunnelReceive 0 (hdr 1) 0 1 0 1 0 []) = false ∧
    WellFormed (.tunnelReceive 0 (hdr 1) 0 1 32 33 65536 []) = true := by decide

/-- The table gives no row any bits, so no word spells a command, and the queue stays as it is. -/
theorem test_noWords : decodeTableWord 32 5 = none ∧ (State.reset.withFetchWord 32 5).pending = [] := by decide

/-! ### Witnesses -/

theorem witness_AStepRunsTheFrontCommand : State.reset.pending = [] := by decide
theorem witness_EveryStepKeepsTheStoresSound : StoresWf State.reset ∧ step State.reset = .next (State.reset.runCycles 1) := ⟨⟨rfl, rfl, by decide⟩, rfl⟩
theorem witness_NothingActsUnsuppliedOrBeforeItsTime :
    (let s := State.reset.modPwr fun w => { w with mode := .hold }
     s.supplied = false ∧ s.bil.legalUp = false ∧ actsUnsupplied .search = false ∧ carried .search = none) ∧
    carried (.ringNop 0 (desc 0 0 0)) = some (0, desc 0 0 0) ∧ live.due 0 (desc 0 0 0) = false ∧
    (holds 0 (desc 0 0 0) live).due 0 (desc 0 0 0) = true := by decide
theorem witness_AFrozenMastersAccessIsDroppedAndCounted :
    (let s := live.modFrz fun z => { z with m := vmod z.m 0 fun x => { x with frozen := true } }
     s.supplied = true ∧ s.frozen (.pf 0) = true) ∧ (Master.pf 0).code = some 0 ∧
    accessBy (.registerWrite (.pf 0) 0x70200 0) = some (.pf 0) ∧ accessBy (.loWordRead (.pf 0) 3) = some (.pf 0) := by decide
theorem witness_AnEventSetsItsFlagAndWritesOneRecord :
    ((live.evGet .clk).en.getLsbD 0 = false ∧ live.dia.keys = [] ∧ live.thm.mramBlocked = false) ∧
    (let s := live.modDia fun d => { d with keys := [⟨1, 0, 0, 0, 0⟩] }
     (s.dia.keys.find? fun k => k.block == EvSrc.block .clk && k.code == 0 && k.subject == EvSrc.subject .clk) = some ⟨1, 0, 0, 0, 0⟩ ∧
     s.now < 0 + 100000000 ∧ neverSuppressed (EvSrc.block .clk) = false) ∧ neverSuppressed (EvSrc.block .saf) = true := by decide

def up0 : Up := ⟨0, ⟨0, 0⟩, 1, 0, 0, false, 0, 0, 0, [], [], .replicate 64 0, .replicate 64 0⟩
def down (byBow drill : Bool) (orig : CtrlId) : Down :=
  ⟨0, ⟨0, 0, false, 0, 0⟩, byBow, false, drill, false, ⟨0, 0⟩, orig, 0, 0, 0, 0, 0, 0, [], 0⟩
/-- A member with its parent on port 0 and a child, whose UP it has taken, on port 1. -/
def member : State :=
  ((role .member (linked .parent 5 live)).modPort 1 fun x => { x with role := .child }).modChild 1 fun x => { x with taken := some up0 }

theorem witness_ADownIsForwardedWhereAnUpWasTallied :
    member.supplied = true ∧ member.pwr.controlReady = true ∧ member.alcSync.takesIn 0 (hdr 5) = true ∧
    (let t := member.alcSync.received 0 (hdr 5)
     t.rgt.role ≠ .stroke ∧ t.downKind 0 (down false false 0) = some .normal ∧ (t.rgt.port.get 1).role = .child ∧
     (t.alc.child.get 1).taken = some up0 ∧ up0.round = (down false false 0).round) ∧
    (let s := (member.modRgt fun g => { g with swapped := true }).modAlc fun a => { a with bow := some 7 }
     s.alcSync.takesIn 0 (hdr 5) = true ∧ (s.alcSync.received 0 (hdr 5)).downKind 0 (down true true 7) = some .drill) := by decide

def joinBody (ok : Bool) (id : CtrlId) (crew : BitVec 4) (time : Nat) : JoinBody := ⟨id, crew, ⟨0, 0⟩, time, 0, ok⟩
theorem witness_ControllersJoinAndLeave :
    (let s := linked .guest 5 live
     s.supplied = true ∧ s.rgt.role = .notAdmitted ∧ (s.peer 0).isSome = true ∧ (∀ q : Port, q < 0 → s.peer q = none)) ∧
    (∀ p : Port, live.peer p = none) ∧
    (let s := live.modRgt fun g => { g with joining := true, lastRefuse := 2, lastJoin := some 0 }
     s.rgt.joining = true ∧ s.rgt.lastRefuse ≠ 0 ∧ s.rgt.lastJoin = some 0) ∧
    (let s := role .stroke (linked .guest 5 live)
     let listed := s.cfg.active.lists 0 0
     s.accepts .cfg 0 (hdr 5) = true ∧ s.forMe (hdr 5) = true ∧ s.rgt.role = .stroke ∧ s.cfg.active.lists 1 0 = false ∧ listed = true ∧
     (s.rgt.members.any fun m => m.id == 0) = false ∧ s.rgt.crew ≠ 1 ∧ 1000000000 < (((2000000000 : Nat) : Int) - s.now).natAbs ∧
     ¬ 1000000000 < (((1000000000 : Nat) : Int) - s.now).natAbs) ∧
    (let s := (role .stroke (linked .guest 5 live)).modRgt fun g => { g with members := [⟨0, 0, some 4, 0⟩], removeRound := some 3 }
     (s.rgt.members.any fun m => m.id == 0) = true ∧ (s.received 0 (hdr 5)).joinReason (joinBody true 0 0 0) = 3 ∧
     s.rgt.removeRound.toList ++ s.rgt.members.filterMap (·.removal) = [3, 4]) ∧
    (live.modRgt fun g => { g with admitRound := some 3 }).rgt.admitRound = some 3 ∧ live.rgt.admitRound = none := by decide

/-- A header to another controller. -/
def hdrTo (src dst : CtrlId) : Hdr := { hdr src with dest := some (dst, 0) }
theorem witness_MessagesAreForwardedAndAssembled :
    (let s := (linked .parent 5 live).modRgt fun g => { g with guests := [(8, 0)], route := vmod g.route 2 fun _ => 0x9 }
     s.supplied = true ∧ s.forMe (hdrTo 5 8) = false ∧ s.accepts .cfg 0 (hdrTo 5 8) = true ∧ s.accepts .data 0 (hdrTo 5 16) = true ∧
     (s.received 0 (hdrTo 5 8)).routeTo 8 = none ∧ (s.received 0 (hdrTo 5 16)).routeTo 16 = some 1 ∧
     ((s.received 0 (hdrTo 5 16)).rgt.port.get 1).carries .data = false ∧ ((s.received 0 (hdrTo 5 8)).rgt.port.get 0).carries .cfg = true ∧
     (Payload.other .cfg 9 []).defined = false ∧ s.takesIn 0 (hdrTo 5 8) = true ∧ (Payload.segment 1 1 0 1 []).cls = .cfg) ∧
    (let s := linked .parent 5 live
     s.accepts .cfg 0 (hdr 5) = true ∧ s.forMe (hdr 5) = true ∧ cfgSegmentOk 63 64 [] = true ∧ cfgSegmentOk 64 64 [] = false ∧ s.rgt.asm = []) ∧
    (let s := live.modRgt fun g => { g with asm := [⟨5, 1, 1, 2, [], 0⟩], joining := true, role := .bow }
     s.rgt.asm = [⟨5, 1, 1, 2, [], 0⟩] ∧ s.rgt.joining = true ∧ s.rgt.role = .bow) ∧ (1 : CtrlId) ≠ live.rgt.id ∧
    (let s := role .member live
     s.rgt.role ≠ .bow ∧ s.cfg.active.umpire ≠ .ctrl s.rgt.id ∧ s.rgt.joining = false ∧ s.admitted = true ∧ s.rgt.role ≠ .stroke) ∧
    (let s := role .stroke live |>.modRgt fun g => { g with members := [⟨7, 0, none, 3⟩] }
     (7 : CtrlId) ≠ s.rgt.id ∧ (s.rgt.members.find? fun m => m.id == 7) = some ⟨7, 0, none, 3⟩ ∧ (s.rgt.members.find? fun m => m.id == 8) = none) := by decide

theorem witness_ReceivedFramesAreJudgedFirst :
    live.supplied = true ∧ arrival (.probeReceive 0 (hdr 5) (helloOf 5)) = some (0, hdr 5) ∧ (live.rgt.port.get 0).st = .off ∧
    ((linked .parent 5 live).rgt.port.get 0).st = .active ∧ ({ hdr 5 with aborted := true } : Hdr).aborted = true ∧
    ({ hdr 5 with crcOk := false } : Hdr).crcOk = false ∧ ({ hdr 5 with hops := 12 } : Hdr).hops = (hdr 5).hopLimit ∧
    (hdr 5).framed = true ∧ ({ hdr 5 with eof := 45 } : Hdr).framed = false := by decide

theorem witness_PortsFollowTheirStateMachine :
    (live.supplied = true ∧ live.frozen (.pf 2) = false ∧ Master.isMgmt (.pf 2) = true ∧ Master.isInteg (.pf 2) = false ∧ live.lcs.lock = false ∧
     live.pwr.controlReady = true ∧ (live.rgt.port.get 0).en = false ∧ (1#32).getLsbD 0 = true ∧ (0#32).getLsbD 0 = false ∧ (live.rgt.port.get 0).st = .off) ∧
    ((linked .parent 5 live).rgt.port.get 0).en = true ∧ ((linked .parent 5 live).rgt.port.get 0).st = .active ∧
    (live.modPort 0 fun x => { x with st := .acquire }).rgt.port.get 0 = { PortSt.cold with st := .acquire } ∧
    (let s := live.modPort 0 fun x => { x with st := .hello, probeRounds := 8 }
     (s.rgt.port.get 0).st = .hello ∧ 8 ≤ (s.rgt.port.get 0).probeRounds ∧ s.takesIn 0 (hdr 5) = true) := by decide

/-- A Stroke whose external source, PTP port 0, gave a time. -/
def sourced (tai : Int) : State := role .stroke live |>.modRgt fun g => { g with srcSel := 1, srcTai := some (tai, 0) }
theorem witness_FleetTimeFollowsItsSources :
    (live.rgt.port.get 0).st = .off ∧
    (let s := role .member (linked .parent 5 live) |>.modRgt fun g => { g with parent := some 0, sync := 1 }
     (s.rgt.port.get 0).st = .active ∧ s.timeParent = some 0 ∧ s.rgt.role ≠ .stroke ∧ s.admitted = true ∧ s.rgt.sync = 1) ∧
    (let o : Int := (((20000 : Nat) : Int) - 0 - 0) / 2
     5000 < o.natAbs) ∧ (let o : Int := (((10000 : Nat) : Int) - 0 - 0) / 2; o.natAbs ≤ 5000) ∧
    (let s := linked .parent 5 live
     s.timeParent = some 0 ∧ s.admitted = false) ∧
    (let s := role .stroke live
     s.rgt.formed = false ∧ s.rgt.members = [] ∧ s.rgt.id = s.cfg.active.stroke ∧ (s.runToOffset 0).srcNow = none ∧ s.rgt.pendCorr = none ∧
     (s.runTo (s.rgt.lastTaiCheck + sec 1)).srcNow = none) ∧
    ((sourced 5).runToOffset 0).srcNow = some 5 ∧
    (let s := sourced 5
     let t := s.runTo (s.rgt.lastTaiCheck + sec 1)
     t.srcNow = some 1000000004 ∧ ((1000000004 : Int) - (t.now + s.rgt.taiCorr)).natAbs ≤ s.clockStepLimit) ∧
    (let s := sourced 5000000005
     let t := s.runTo (s.rgt.lastTaiCheck + sec 1)
     t.srcNow = some 6000000004 ∧ s.clockStepLimit < ((6000000004 : Int) - (t.now + s.rgt.taiCorr)).natAbs) ∧
    (let s := (sourced 5).modRgt fun g => { g with ptpDelay := some 100, ptpWait := some (4, 9), ptpSync := some (7, 8), p2p := true }
     s.rgt.ptpDelay = some 100 ∧ s.rgt.ppsEn = false ∧ s.rgt.ptpWait = some (4, 9) ∧ s.rgt.ptpSync = some (7, 8) ∧ s.rgt.p2p = true) ∧
    ((sourced 5).modRgt fun g => { g with ppsEn := true }).rgt.ppsEn = true ∧ (sourced 5).rgt.p2p = false ∧ (sourced 5).rgt.ptpDelay = none ∧
    live.tun.tod = [] ∧
    (sourced 5).srcNow = some 5 ∧ (sourced 5).rgt.srcSel.toNat = (0 : Fin 2).val + 1 ∧ (0 : Byte) = (sourced 5).rgt.ptpDomain ∧ (sourced 5).rgt.srcTai.isSome = true ∧
    (let s := live.modRgt fun g => { g with pendCorr := some (3, 9), switchAt := some 2, ppsEn := true, role := .stroke, ppsTod := some 7 }
     s.rgt.pendCorr = some (3, 9) ∧ s.rgt.switchAt = some 2 ∧ s.rgt.ppsEn = true ∧ s.rgt.srcSel = 0 ∧ s.rgt.ppsTod.map Int.ofNat = some 7) ∧
    live.rgt.switchAt = none := by decide

theorem witness_AnAllocationRoundRuns :
    State.reset.supplied = true ∧ State.reset.pwr.controlReady = false ∧ live.pwr.controlReady = true ∧ live.rgt.role = .notAdmitted ∧
    member.rgt.role ≠ .notAdmitted ∧
    (let s := member.modRgt fun g => { g with strokeDist := 12, parent := some 0 }
     s.alcSync.isRoot = false ∧ s.rgt.outOfTime = false ∧ s.rootDist ≤ 12 ∧ s.rootPort = some 0) ∧
    ((role .stroke live).isRoot = true ∧ (role .stroke live).searchDone = false) ∧
    (let s := (((role .stroke live).modAlc fun a => { a with downValid := some (down false false 0) }).runToOffset 85000).alcSync
     s.alc.downValid = some (down false false 0) ∧ (down false false 0).round = s.round ∧ (down false false 0).originator = s.rgt.id ∧ s.isRoot = true) ∧
    ((role .stroke live).runToOffset 85000).alcSync.alc.downValid = none ∧
    (let s := member.modRgt fun g => { g with strokeDist := 12, parent := some 0 }
     let t := (s.runToOffset s.alcSync.upOffset).alcSync
     t.isRoot = false ∧ t.rgt.outOfTime = false ∧ t.rootDist ≤ 12 ∧ t.rootPort = some 0) ∧
    (let s := role .stroke (linked .child 5 live)
     let v := s.alcSync.received 0 (hdr 5)
     (s.alcSync.rgt.port.get 0).role = .child ∧ (s.alcSync.rgt.port.get 0).carries .alloc = true ∧ s.alcSync.takesIn 0 (hdr 5) = true ∧
     v.now ≤ v.roundStart + 80000 ∧ v.isRoot = true ∧ up0.round = v.round ∧ v.neighbourId (some 0) = some (hdr 5).src ∧
     monotone (fun a b => decide (b ≤ a)) up0.d = true ∧ monotone (fun a b => decide (a ≤ b)) up0.s = true) ∧
    (let s := role .stroke (linked .parent 5 live)
     let t := s.alcSync.received 0 (hdr 5)
     s.alcSync.takesIn 0 (hdr 5) = true ∧ t.rgt.role = .stroke ∧ (down true false 9).byBow = true ∧ (down true false 9).crew = t.rgt.crew ∧
     (down true false 9).originator ≠ t.rgt.id ∧ t.downKind 0 (down true false 0) = none ∧ t.demote.downKind 0 (down true false 9) = none) ∧
    (let s := (member.modAlc fun a => { a with bow := some 9 }).modRgt fun g => { g with bowParentPort := some 0 }
     (s.alcSync.received 0 (hdr 5)).demote.downKind 0 (down true false 9) = some .takeover) := by decide +kernel

theorem witness_BowAndUmpireWatchTheStroke :
    State.reset.pwr.controlReady = false ∧
    (let s := linked .parent 0 (live.modRgt fun g => { g with id := 4, role := .bow }) |>.modAlc fun a => { a with bow := some 4 }
     let t := s.alcSync.received 0 (hdr 0)
     s.alcSync.takesIn 0 (hdr 0) = true ∧ t.peer 0 = some (helloOf 0) ∧ (helloOf 0).id = (hdr 0).src ∧ t.forMe (hdr 0) = true ∧
     t.rgt.swapped = false ∧ t.alc.stroke = (hdr 0).src ∧ 0 = t.round ∧ t.alc.bow = some t.rgt.id ∧ t.rgt.role = .bow) ∧
    (let s := (role .bow live).modAlc fun a => { a with named := some 3 }
     s.alc.named = some 3 ∧ s.rgt.role = .bow) ∧
    (let s := live.modAlc fun a => { a with demoteAt := some 2 }
     s.alc.named = none ∧ s.alc.demoteAt = some 2) ∧ live.alc.demoteAt = none ∧ live.alc.named = none ∧ live.isUmpire = false := by decide

/-- The Umpire of a crew with Stroke 5 on port 1 and Bow 4 on port 0. -/
def umpire (f : Alc → Alc) : State :=
  (((((role .member (linked .alternate 4 live)).modPort 1 fun x => { x with en := true, st := .active, role := .parent, probe := some (helloOf 5) }).modCfg
    fun c => { c with active := { c.active with umpire := .ctrl 0 } }).modAlc fun a => { a with bow := some 4, stroke := 5 }).modAlc f)
/-- As the Umpire decides. -/
def atDecision (s : State) : State := (s.runToOffset 130000).alcSync
def resOf (n : Nat) : AlcResult := ⟨BitVec.ofNat 6 n, 0, false, 0, 0⟩
theorem witness_BowAndUmpireWatchTheStroke_umpire :
    (let s := umpire id
     let t := atDecision s
     s.supplied = true ∧ s.pwr.controlReady = true ∧ s.isUmpire = true ∧ t.alc.bow = some 4 ∧ t.portTo 4 = some 0 ∧ t.portTo t.alc.stroke = some 1 ∧
     t.rgt.swapped = false ∧ ofRound t.round t.alc.strokeDown = none) ∧
    (atDecision (umpire fun a => { a with bow := none })).alc.bow = none ∧ (atDecision (umpire fun a => { a with bow := some 9 })).portTo 9 = none ∧
    (let t := atDecision (umpire fun a => { a with silent := 1 })
     ofRound t.round t.alc.strokeDown = none ∧ ofRound t.round t.alc.mirrorSum = none ∧ t.alc.silent + 1 = 2) ∧
    (let t := atDecision (umpire fun a => { a with strokeDown := some (0, resOf 1), mirrorResult := some (0, resOf 2) })
     let own := t.resultOf up0
     t.round = 0 ∧ ofRound t.round t.alc.strokeDown = some (resOf 1) ∧ ofRound t.round t.alc.mirrorResult = some (resOf 2) ∧ resOf 1 ≠ resOf 2 ∧
     (ofRound t.round t.alc.mirrorSum).map t.resultOf = none ∧
     (let v := atDecision (umpire fun a => { a with strokeDown := some (0, resOf 1), mirrorResult := some (0, own), mirrorSum := some (0, up0) })
      (ofRound v.round v.alc.mirrorSum).map v.resultOf = ofRound v.round v.alc.mirrorResult ∧ resOf 1 ≠ own) ∧
     (let v := atDecision (umpire fun a => { a with strokeDown := some (0, own), mirrorResult := some (0, resOf 2), mirrorSum := some (0, up0) })
      (ofRound v.round v.alc.mirrorSum).map v.resultOf = ofRound v.round v.alc.strokeDown ∧ own ≠ resOf 2)) := by decide +kernel

theorem witness_AllocationCommandsAct :
    live.supplied = true ∧ live.alc.curtail = 0 ∧ live.alc.curtailSample ≠ 1 ∧ live.alc.drillRound = none ∧
    (let s := live.modAlc fun a => { a with curtailSample := 1 }
     BitVec.ofBool false ++ BitVec.ofBool true = s.alc.curtailSample ∧ BitVec.ofBool false ++ BitVec.ofBool true ≠ s.alc.curtail) ∧
    (let s := live.modAlc fun a => { a with drillRound := some 4, drillWait := some (0, 9), restore := some (4, 0, 9) }
     s.alc.drillRound = some 4 ∧ s.alc.strokeByBow = false ∧ s.rgt.swapped = false ∧ s.alc.drillWait = some (0, 9) ∧ s.alc.restore = some (4, 0, 9) ∧
     (holds 0 (desc 0 0 0) s).due 0 (desc 0 0 0) = true) ∧
    (live.modAlc fun a => { a with strokeByBow := true }).alc.strokeByBow = true ∧ (live.modRgt fun g => { g with swapped := true }).rgt.swapped = true ∧
    (holds 0 (desc 0 0 0) live).due 0 (desc 0 0 0) = true ∧ live.alc.drillWait = none ∧ live.alc.restore = none ∧
    (role .stroke live).isRoot = true ∧ live.isRoot = false := by decide

/-- A section of an image: type, body padded to a multiple of 8 (04 R103). -/
def sect (kind : Nat) (body : List Byte) : List Byte :=
  leBytes 4 kind ++ leBytes 4 body.length ++ body ++ List.replicate ((8 - body.length % 8) % 8) 0
/-- The header of an image without flags (04 R102). -/
def header (kind epoch len w16 w18 n alg : Nat) : List Byte :=
  leBytes 4 0x434C4843 ++ leBytes 2 1 ++ leBytes 2 kind ++ leBytes 4 epoch ++ leBytes 4 len ++ leBytes 2 w16 ++ leBytes 2 w18 ++ leBytes 2 n ++
  leBytes 2 alg ++ List.replicate 8 0 ++ List.replicate 32 0
def le2 (l : List Nat) : List Byte := l.flatMap (leBytes 2)
/-- The sections of a controller part with one outlet of kind 0 and its one phase (04 R107, R119; 06 R146, R147; 07 R173, R175; 09 R222). -/
def partSections : List Byte :=
  sect 0x101 (List.replicate 48 0 ++ leBytes 4 1) ++
  sect 0x102 ([1, 0, 0, 0, 0, 0, 0, 0, 0, 0, 0, 2] ++ le2 [500, 0, 0] ++ [255, 10] ++ le2 [100, 0, 0, 1000, 10] ++ List.replicate 10 0) ++
  sect 0x103 (leBytes 4 4800 ++ leBytes 2 24 ++ [1, 3] ++ le2 [1, 10, 10] ++ [1, 0] ++ [0, 1] ++ le2 [100, 10, 0, 40, 1000, 0, 1, 0, 1, 0xFFFF, 0]) ++
  sect 0x104 [1, 0, 0, 0, 0, 0, 0, 0, 0, 0, 1, 1, 1, 0, 0, 0] ++
  sect 0x105 ([0, 0, 0, 0] ++ leBytes 2 2000 ++ [0, 0, 0, 0, 0, 0, 0, 1, 255, 0]) ++
  sect 0x107 [0, 0, 0, 0]
def partImage (epoch variants : Nat) : List Byte := header 2 epoch (64 + partSections.length) 0 variants 6 0 ++ partSections
/-- The sections of a crew image with one member, whose part has a digest (04 R105, R106, R108). -/
def crewSections (part : Digest) : List Byte :=
  sect 1 (le2 [0, 0xFFFF, 0xFFFF, 1] ++ List.replicate 36 0 ++ leBytes 32 part.toNat) ++
  sect 2 (List.replicate 16 0) ++
  sect 3 ([1, 0, 0, 0, 0, 0, 0, 0] ++ List.replicate 16 0)
def crewImage (epoch : Nat) (part : Digest) : List Byte :=
  header 1 epoch (64 + (crewSections 0).length) 0 0 3 44 ++ crewSections part ++ leBytes 4 2420 ++ List.replicate 2420 0
/-- The crew image that lists the digest of the part of epoch 1 for the A8T. -/
def img : List Byte := crewImage 1 (imageDigest (partImage 1 4))
theorem images_frame : (framing 1 img).isSome = true ∧ (framing 2 (partImage 1 4)).isSome = true := by decide +kernel
/-- The two images read as a whole; the part names what the A8T has and the A2 is not, and a dead time below 4,096 taps is no legal one then. -/
theorem images_read : ((framing 1 img).all fun cs => (framing 2 (partImage 1 4)).all fun ps =>
    (decodeImage .a8t 24 img (partImage 1 4) cs ps).isSome && (decodeImage .a8t 4095 img (partImage 1 4) cs ps).isNone &&
    resourcesPresent .a8t (partImage 1 4) ps && !resourcesPresent .a2 (partImage 1 4) ps) = true := by decide +kernel
set_option maxRecDepth 200000 in
theorem images_members : ((framing 1 img).map fun cs => memberEntries ((bodyOf cs 1).getD [])) =
   some [⟨0, 0, digestAt (leBytes 32 (imageDigest (partImage 1 4)).toNat) 0⟩] := rfl
/-- The images pass every check of 04 R110 but those of the anchor, the signature, the variant and the dead time. -/
theorem images_pass : ∃ cs ps m, framing 1 img = some cs ∧ framing 2 (partImage 1 4) = some ps ∧
    ((memberEntries ((bodyOf cs 1).getD [])).find? fun m => m.identity == 0) = some m ∧
    imageDigest (partImage 1 4) = m.part ∧ u16 (partImage 1 4) 16 % 4096 = m.id.toNat ∧ u32 (partImage 1 4) 8 = u32 img 8 ∧ u32 img 8 = 1 ∧
    (decodeImage .a8t 24 img (partImage 1 4) cs ps).isSome = true ∧ (decodeImage .a8t 4095 img (partImage 1 4) cs ps).isNone = true ∧
    resourcesPresent .a8t (partImage 1 4) ps = true ∧ resourcesPresent .a2 (partImage 1 4) ps = false := by
  obtain ⟨cs, hc⟩ := Option.isSome_iff_exists.1 images_frame.1
  obtain ⟨ps, hp⟩ := Option.isSome_iff_exists.1 images_frame.2
  have h1 := images_read
  have h2 := images_members
  rw [hc, hp] at h1
  rw [hc] at h2
  simp only [Option.all_some, Bool.and_eq_true, Bool.not_eq_true'] at h1
  obtain ⟨⟨⟨h3, h4⟩, h5⟩, h6⟩ := h1
  have h7 : memberEntries ((bodyOf cs 1).getD []) = [⟨0, 0, digestAt (leBytes 32 (imageDigest (partImage 1 4)).toNat) 0⟩] := Option.some.inj h2
  refine ⟨cs, ps, ⟨0, 0, digestAt (leBytes 32 (imageDigest (partImage 1 4)).toNat) 0⟩, hc, hp, (by rw [h7]; rfl), (digestAt_leBytes _).symm, (by decide +kernel), (by decide +kernel), (by decide +kernel), h3, h4, h5, h6⟩

/-- A staged copy whose verification runs, on a controller whose configuration-signing anchor has digest 0. -/
def staged (crew part : List Byte) (v : Variant) (dtMin : Half) : State :=
  ((((live.putSlot 16 (some ⟨4, 0, 1, live.lcs.st.code, live.lcs.nt, List.replicate 64 0⟩)).modKey fun k =>
    { k with stateDigest := 0, anchors := vmod k.anchors 0 fun _ => some ⟨65, [], 0, 16⟩ }).modGlb fun g => { g with variant := v }).modPwm fun p => { p with dtMin := dtMin.setWidth 12 }).modCfg
    fun c => { c with stagedStatus := 1, stageWait := some (40, 7), staged := some ⟨true, crew, part, none⟩ }
theorem witness_StagingIsVerifiedInOrder :
    (holds 40 (desc 0 0 0) live).due 40 (desc 0 0 0) = true ∧ live.cfg.stageWait = none ∧ live.cfg.actRound = none ∧
    (live.modCfg fun c => { c with actRound := some 3 }).cfg.actRound.isSome = true ∧
    (let s := staged [] [] .a8t 24
     (holds 40 (desc 0 0 0) s).due 40 (desc 0 0 0) = true ∧ s.supplied = true ∧
     s.cfg.stageWait = some (40, 7) ∧ s.cfg.stagedStatus = 1 ∧ s.thm.mramBlocked = false ∧ s.rgt.role = .notAdmitted) ∧
    framing 1 [] = none ∧ live.cfg.staged = none ∧ (role .stroke live).rgt.role = .stroke ∧ (role .stroke live).forMe (hdr 5) = true := by decide
/-- With `images_pass`: a copy that passes, one of a part for another variant, one whose dead time the lane forbids; and what fails a check before. -/
theorem witness_StagingIsVerifiedInOrder_checks :
    (let s := staged img (partImage 1 4) .a8t 24
     s.anchor 1 = some ⟨65, [], 0, 16⟩ ∧ digestAt img 32 = 0 ∧ s.key.stateDigest = 0 ∧ s.rgt.role = .notAdmitted ∧ s.cfg.active.pair.epoch.toNat < 1 ∧
     s.glb.variant = .a8t ∧ s.pwm.dtMin.toNat = 24 ∧ img.length ≤ 524288 ∧ (partImage 1 4).length ≤ 131072) ∧
    (staged img (partImage 1 4) .a2 24).glb.variant = .a2 ∧ (staged img (partImage 1 4) .a8t 4095).pwm.dtMin.toNat = 4095 ∧
    live.anchor 1 = none ∧ (live.modKey fun k => { k with stateDigest := 1 }).key.stateDigest = 1 ∧
    (framing 2 (partImage 2 4)).isSome = true ∧ u32 (partImage 2 4) 8 = 2 ∧ 524288 < (List.replicate 524289 (0 : Byte)).length := by
  refine ⟨by decide +kernel, by decide +kernel, by decide +kernel, by decide +kernel, rfl, by decide +kernel, by decide +kernel, ?_⟩
  rw [List.length_replicate]; decide

def waiting (announced : Option Nat) : ActWait := ⟨40, 7, ⟨1, 9⟩, 4000, 0, announced⟩
theorem witness_ActivationsAreAnnouncedAndAdopted :
    (holds 40 (desc 0 0 0) live).due 40 (desc 0 0 0) = true ∧
    (let s := (role .stroke live).modCfg fun c => { c with act := some (waiting (some 100)), lastAnnounce := some 0, actRound := some 100 }
     s.cfg.act = some (waiting (some 100)) ∧ (waiting (some 100)).announced = some 100 ∧ s.cfg.lastAnnounce = some 0 ∧ s.rgt.role = .stroke ∧ 8 + 8 ≤ 100 ∧
     s.cfg.actRound = some 100 ∧ s.cfg.annPair = none) ∧
    (live.modCfg fun c => { c with act := some (waiting none) }).cfg.act = some (waiting none) ∧ (waiting none).announced = none ∧
    ((hdr 0).crew = live.rgt.crew ∧ (hdr 0).src = live.alc.stroke ∧ live.rgt.role ≠ .stroke ∧ live.round ≤ 0) ∧ (hdr 3).src ≠ live.alc.stroke ∧
    (let s := live.modCfg fun c => { c with actRound := some 6, staged := some ⟨true, [], [], some c.active⟩, annPair := some (c.stagedPair, 6) }
     s.cfg.actRound = some 6 ∧ s.pwr.controlReady = true ∧ (s.cfg.staged.bind (·.img)).isSome = true ∧ s.cfg.annPair = some (s.cfg.stagedPair, 6) ∧
     s.cfg.act = none) ∧
    (let s := live.modCfg fun c => { c with stagedStatus := 2, catchUpRound := some 0 }
     s.cfg.catchUpRound = some 0 ∧ (s.runToFleet (0 * Config.roundNs + 150000)).catchUpHolds = true) ∧ (live.catchUpHolds = false ∧ live.cfg.catchUpRound = none ∧ live.cfg.actRound = none) := by decide

theorem witness_PwmSetupWritesTakeTheirFields :
    live.reaches (.pf 0) = true ∧ live.reaches .lane = true ∧ live.pwr.controlReady = true ∧ live.laneOrPf0 (.pf 0) = true ∧ live.laneOrPf0 .lane = true ∧
    live.hasPhase 0 = true ∧ live.hasPhase 23 = true ∧ live.lcs.lock = false := by decide

/-- Phase 0 with a valid shadow set, every part written. -/
def shadowed : State := live.modCh 0 fun c => { c with en := true, written := 0b11111, shadow := ⟨0x12C, 0, 0x96, 48, 0b0101, 0b0101⟩ }
theorem witness_PwmCommitChecksInOrder :
    shadowed.reaches (.pf 0) = true ∧ shadowed.pwr.controlReady = true ∧ shadowed.laneOrPf0 (.pf 0) = true ∧ shadowed.hasPhase 0 = true ∧
    commitResult shadowed.pwm.dtMin (shadowed.pwm.ch.get 0) = 0 ∧ commitResult live.pwm.dtMin (live.pwm.ch.get 0) = 6 := by decide
theorem witness_PwmGroupCommitIsAllOrNothing :
    (let s := shadowed.modPwm fun p => { p with groupMask := 1 }
     s.reaches (.pf 0) = true ∧ s.laneOrPf0 (.pf 0) = true ∧ s.pwm.groupMask.getLsbD 0 = true ∧ commitResult s.pwm.dtMin (s.pwm.ch.get 0) = 0) ∧
    (let s := shadowed.modPwm fun p => { p with groupMask := 3 }
     s.pwm.groupMask.getLsbD 1 = true ∧ s.hasPhase 1 = true ∧ commitResult s.pwm.dtMin (s.pwm.ch.get 1) ≠ 0) := by decide

/-- Phase 0 in the course of a period. -/
def pulsing (ideal : Bool) : State :=
  (shadowed.modCh 0 fun c => { c with active := c.shadow, hasActive := true, running := true, begun := true, bound := 4800, ideal := ideal, cmode := true, off := if ideal then 1 else 0 }).modRegCh 0 fun r => { r with en := true }
theorem witness_PwmStartsTransfersAndBoundaries :
    (shadowed.supplied = true ∧ shadowed.frozen (.pf 0) = false ∧ shadowed.laneOrPf0 (.pf 0) = true ∧ (.pf 0 : Master) ≠ .lane) ∧
    (shadowed.frozen .lane = false ∧ shadowed.laneOrPf0 .lane = true ∧ shadowed.lne.coxDead = false ∧
     (shadowed.modLne fun x => { x with coxDead := true }).lne.coxDead = true) ∧
    (let s := shadowed.modCh 0 fun c => { c with hasActive := true, pend := some ⟨c.shadow, 3, 0⟩ }
     (s.pwm.ch.get 0).running = false ∧ (s.pwm.ch.get 0).en = true ∧ (s.pwm.ch.get 0).hasActive = true ∧ (s.pwm.ch.get 0).pend.isSome = true ∧
     (1#32).getLsbD 0 = true) ∧ ((pulsing true).pwm.ch.get 0).running = true ∧
    (let s := live.modAux 0 fun c => { c with en := true, shadow := ⟨2, 1⟩, running := true }
     (s.pwm.aux.get 0).en = true ∧ 2 ≤ (s.pwm.aux.get 0).shadow.period.toNat ∧ (s.pwm.aux.get 0).shadow.duty.toNat < (s.pwm.aux.get 0).shadow.period.toNat ∧
     (s.pwm.aux.get 0).running = true ∧ (s.pwm.aux.get 0).begun = false) ∧
    (let s := live.modAux 0 fun c => { c with en := true, shadow := ⟨2, 2⟩, written := 1, pend := some ⟨⟨2, 1⟩, 3, 0⟩ }
     (s.pwm.aux.get 0).running = false ∧ (s.pwm.aux.get 0).pend = some ⟨⟨2, 1⟩, 3, 0⟩ ∧ (s.pwm.aux.get 0).written.getLsbD 1 = false ∧
     (s.pwm.aux.get 0).written.getLsbD 0 = true ∧ (s.pwm.aux.get 0).shadow.period.toNat ≤ (s.pwm.aux.get 0).shadow.duty.toNat) ∧
    (let s := live.modAux 0 fun c => { c with en := true, shadow := ⟨1, 0⟩ }
     (s.pwm.aux.get 0).en = true ∧ (s.pwm.aux.get 0).shadow.period.toNat < 2) ∧
    (let s := live.modAux 0 fun c => { c with en := true, shadow := ⟨2, 0⟩, running := true, begun := true }
     (s.pwm.aux.get 0).running = true ∧ (s.pwm.aux.get 0).begun = true ∧ (s.pwm.aux.get 0).written.getLsbD 0 = false) ∧ (live.pwm.aux.get 0).running = false ∧ (live.pwm.aux.get 0).en = false := by decide
theorem witness_PwmPulsesRiseAndEnd :
    (let s := (pulsing true).modRegCh 0 fun r => { r with peak := 100, inForce := 100, dmax := 9000, dir := false, slope := 0, blank := 2 }
     let c := s.pwm.ch.get 0
     let r := s.reg.ch.get 0
     s.supplied = true ∧ c.running = true ∧ c.begun = true ∧ c.cmode = true ∧ r.en = true ∧ nextCompare c = some (2400, true) ∧ c.ideal = true ∧
     r.effective ≠ 0 ∧ c.since ≤ 1000 ∧ r.reaches (1000 - c.since) 25600 = true ∧ r.reaches (1000 - c.since) 25599 = false ∧
     c.blanked r.blank c.since 1000 = false ∧ c.blanked r.blank c.since (c.since + 48) = true ∧
     1000 / 16 ≤ min (c.since + r.dmax.toNat * tapsOf c.active.period / 10000) (c.bound - tapsOf c.active.period + 2400) / 16) ∧
    (let s := (pulsing false).modRegCh 0 fun r => { r with peak := 100, inForce := 100, dir := false, blank := 2, slope := 0, lastEnd := some ⟨0, 2400, 0, 0⟩ }
     let c := s.pwm.ch.get 0
     let r := s.reg.ch.get 0
     c.ideal = false ∧ r.lastEnd = some ⟨0, 2400, 0, 0⟩ ∧ r.reaches (2410 - 0) 25600 = true ∧ c.blanked r.blank 0 2410 = false ∧ 2410 / 16 = 2400 / 16) ∧
    (let c := (pulsing false).pwm.ch.get 0
     nextCompare c = some (0, false) ∧ c.ideal = false) ∧ ((pulsing false).reg.ch.get 0).effective = 0 ∧ (live.pwm.ch.get 0).running = false := by decide

theorem witness_ClampsTransferAtTheApplyInstant :
    live.supplied = true ∧ live.frozen (.pf 0) = false ∧ live.pwr.controlReady = true ∧ live.laneOrPf0 (.pf 0) = true ∧
    (live.beat (.pf 0)).now < (setHi live.reg.applyTime (1 : Word)).toNat ∧ (setHi live.reg.applyTime (0 : Word)).toNat ≤ (live.beat (.pf 0)).now ∧
    (let s := (live.modReg fun r => { r with armed := true }).modRegCh 0 fun c => { c with shadowSet := true }
     s.reg.armed = true ∧ (s.reg.ch.get 0).shadowSet = true) := by decide

theorem witness_PhaseLossAndStartUpTimers :
    (live.hasPhase 0 = true ∧ live.frozen (.pf 0) = false ∧ live.laneOrPf0 (.pf 0) = true ∧ (2#32).getLsbD 1 ≠ (live.reg.ch.get 0).dir) ∧
    (live.frozen .lane = false ∧ live.laneOrPf0 .lane = true ∧ (3#32).getLsbD 0 = true ∧ (live.reg.ch.get 0).en = false ∧ live.lne.coxDead = false) ∧
    ((-2047 : Int).natAbs = 2047 ∧ (2046 : Int).natAbs ≠ 2047) ∧
    ((pulsing true).pwm.ch.get 0).running = true ∧ (pulsing true).saf.overcurrent.getLsbD 0 = false ∧ ((pulsing true).reg.ch.get 0).retired = false ∧
    (holds 0 (desc 0 5 0) live).due 0 (desc 0 5 0) = true ∧ (desc 0 5 0).target.toNat = (5 : Phase).val ∧
    (let s := live.modStart 0 fun x => { x with st := .track, ratiometric := true, errSince := some 3 }
     (s.reg.start.get 0).st = .track ∧ (s.reg.start.get 0).ratiometric = true ∧ (s.reg.start.get 0).errSince = some 3 ∧
     ratioError 0 4000 100 0 (s.runTo (3 + ms 10)).clk.cycle = true ∧ ratioError 400 4000 100 0 (s.runTo (3 + ms 10)).clk.cycle = false) ∧
    (let s := live.modStart 0 fun x => { x with st := .ramp, attempt := 4 }
     (s.reg.start.get 0).st = .ramp ∧ (s.out.get 0).vs < 100) ∧
    (let s := (live.modCfg fun c => { c with active := { c.active with phases := vmod c.active.phases 0 fun _ => some ⟨0, 1000, 100, 100, 100, 0, 1, 1, 1, 1, 1⟩ } })
     (s.modMtx fun m => { m with assigned := vmod m.assigned 0 fun _ => some 0 }).mOf 0 = 1) ∧
    (live.modStart 0 fun x => { x with st := .pause }).reg.start.get 0 = { StartM.cold with st := .pause } := by decide

/-- Ring 0 holds a descriptor for outlet 0 that is due, outlet 0 being in a state of its machine. -/
def asked (st : OutState) : State := holds 0 (desc 0 0 0) (out0 st fit)
theorem witness_SessionCommandsAct :
    (asked .off).due 0 (desc 0 0 0) = true ∧ (desc 0 0 0).target.toNat = (0 : Outlet).val ∧ ((asked .off).out.get 0).st = .off ∧
    ((asked .off).outCfg 0).isSome = true ∧ (asked .off).bil.legalUp = true ∧ ((asked .idle).out.get 0).st ≠ .off ∧
    (let s := holds 0 (desc 0 0 9) ((out0 .energy fit).modOut 0 fun x => { x with session := 9 })
     s.due 0 (desc 0 0 9) = true ∧ (s.out.get 0).st.stoppable = true ∧ (s.out.get 0).session = (desc 0 0 9).w 24 ∧ (desc 0 0 9).w 24 ≠ 0) ∧
    (let s := (asked .fault).modSaf fun f => { f with srcGlb := 0 }
     (s.out.get 0).st = .fault ∧ s.seoOut 0 = false ∧ s.bothOpen 0 = true ∧ s.due 0 (desc 0 0 0) = true) := by decide

theorem witness_ContactorsOpenAndAreProved :
    (let s := (out0 .stopping fit).modOut 0 fun x => { x with cur := 50 }
     s.supplied = true ∧ (s.out.get 0).st = .stopping ∧ (s.out.get 0).cur.natAbs ≤ 50) ∧
    ((out0 .closing fit).hasOutlet 0 = true ∧ ((out0 .closing fit).out.get 0).st = .closing ∧ (out0 .closing fit).outCfg 0 = some oc) ∧
    ((out0 .opening fit).out.get 0).st = .opening ∧ (fit.out.get 0).st ≠ .closing ∧ (fit.out.get 0).st ≠ .opening ∧
    (let s := (out0 .weldCheck fit).modOut 0 fun x => { x with vs := 599, vv := 600, reason := 8 }
     s.pwr.controlReady = true ∧ (s.out.get 0).st = .weldCheck ∧ (s.out.get 0).vs < 600 ∧ 600 ≤ (s.out.get 0).vv ∧ (s.out.get 0).reason = 8) ∧
    (let s := out0 .weldCheck fit
     (s.out.get 0).vs < 600 ∧ (s.out.get 0).vvSeen = false ∧ (s.out.get 0).reason ≠ 8) ∧
    (let s := (out0 .weldCheck fit).modOut 0 fun x => { x with vs := 600 }
     600 ≤ (s.out.get 0).vs ∧ (s.out.get 0).weldSince = none) := by decide

theorem witness_RecordsAndTheCableCheckDecide :
    fit.supplied = true ∧ fit.hasOutlet 0 = true ∧ fit.pwr.dataReady = true ∧ State.reset.pwr.dataReady = false ∧
    (Master.app 0).demands = true ∧ Master.lane.demands = false ∧ fit.frozen (.app 0) = false ∧
    (let s := fit.modJn 0 fun j => { j with validAt := some 3, latched := some .zero }
     (s.jn.get 0).validAt = some 3 ∧ s.pwr.controlReady = true ∧ (s.outCfg 0).isSome = true ∧ (s.jn.get 0).latched.isSome = true ∧ 0 < s.clk.rate ∧
     s.bil.legalUp = true ∧ s.lcs.returnPending = false ∧ (s.out.get 0).grantStatus ≠ 3 ∧
     ((s.modOut 0 fun x => { x with grantStatus := 3 }).out.get 0).grantStatus = 3) ∧ fit.outCfg 0 = some oc ∧
    (let s := (out0 .cableCheck fit).modOut 0 fun x => { x with holdAt := some 4 }
     (s.out.get 0).holdAt = some 4 ∧ (s.out.get 0).st = .cableCheck ∧ (s.reg.start.get 0).trackError = false ∧ (s.out.get 0).isoGood = true) ∧
    ((fit.modStart 0 fun x => { x with trackError := true }).reg.start.get 0).trackError = true ∧
    ((fit.modOut 0 fun x => { x with isoGood := false }).out.get 0).isoGood = false ∧ ((out0 .precharge fit).out.get 0).st = .precharge := by decide

/-- Phase 0 in a move from outlet 0 to outlet 1 at a step. -/
def moving (step : Nat) : State := fit.modMtx fun m => { m with move := vmod m.move 0 fun _ => some ⟨some 0, 1, step, 0, false⟩ }
theorem witness_ReversalsAlarmsAndMovesStep :
    (fit.hasOutlet 0 = true ∧ fit.pwr.controlReady = true ∧ ((out0 .energy fit).out.get 0).st = .energy ∧ (fit.out.get 0).st ≠ .energy) ∧
    (let s := (out0 .energy fit).modOut 0 fun x => { x with rev := true, cur := -50 }
     (s.out.get 0).rev = true ∧ (s.out.get 0).cur.natAbs ≤ 50) ∧
    (let s := (moving 2).modRegCh 0 fun c => { c with tickSampled := true }
     s.mtx.move.get 0 = some ⟨some 0, 1, 2, 0, false⟩ ∧ s.currentZero 0 = true ∧ s.mtxFind 0 0 = some (0, ⟨0, 0, 10, 10, true⟩)) ∧
    ((moving 3).mtx.move.get 0 = some ⟨some 0, 1, 3, 0, false⟩ ∧ (moving 3).cfg.active.matrix[(0 : HkChan).val]? = some ⟨0, 0, 10, 10, true⟩) ∧
    (let s := (moving 4).modMtx fun m => { m with drv := 2 }
     s.mtx.move.get 0 = some ⟨some 0, 1, 4, 0, false⟩ ∧ s.cfg.active.matrix[(1 : HkChan).val]? = some ⟨0, 1, 10, 10, false⟩ ∧ s.mtx.drv.getLsbD 1 = true) ∧
    (fit.mtx.move.get 0 = none ∧ fit.mtx.drv.getLsbD 0 = false ∧ fit.mtx.disabled.getLsbD 0 = false) := by decide

/-- Outlet 0 of `fit` with its link state changed, a vehicle plugged in. -/
def link0 (f : VclSt → VclSt) : State := (fit.modOut 0 fun x => { x with cls := 1 }).modVclCh 0 f
theorem witness_VehicleLinksComeUp :
    live.pilotOutlet 0 = none ∧ fit.pilotOutlet 0 = some (0, oc) ∧ fit.outCfg 0 = some oc ∧
    pilotClass oc.kind (fit.out.get 0).drivingPwm (.cp 2400 0) = some 1 ∧ pilotClass oc.kind (fit.out.get 0).drivingPwm (.cp 2700 0) = some 0 ∧
    pilotClass oc.kind true (.cp 2400 0) = some 6 ∧
    (let s := fit.modOut 0 fun x => { x with pilotSeen := 1, pilotRun := 2 }
     min 3 ((s.out.get 0).pilotRun + 1) = 3 ∧ (s.out.get 0).pilotSeen = 1 ∧
     (let t := (s.modOut 0 fun y => { y with pilotSeen := 1, pilotRun := 3 }).pilotTo 0 1
      t.vclUp 0 = true ∧ s.plugged 0 = false ∧ t.plugged 0 = true ∧ (t.pilotTo 0 1).plugged 0 = t.plugged 0 ∧ (t.pilotTo 0 0).plugged 0 = false)) ∧
    ((fit.modPwr fun w => { w with dataReady := false }).pilotTo 0 1).vclUp 0 = false ∧
    ((link0 id).plugged 0 = true ∧ ((link0 id).pilotTo 0 0).plugged 0 = false) ∧
    (let s := link0 fun v => { v with link := 1 }
     s.supplied = true ∧ s.vclUp 0 = true ∧ (s.vcl.ch.get 0).link = 1 ∧ (40 : Byte).toNat ≤ (s.vcl.ch.get 0).slacThreshold.toNat ∧
     (s.vcl.ch.get 0).slacThreshold.toNat < (41 : Byte).toNat) ∧
    (let s := link0 fun v => { v with link := 2, ctrl := 0x3FF }
     s.outCfg 0 = some oc ∧ s.plugged 0 = true ∧ (s.vcl.ch.get 0).carrierMissing = false ∧ (s.vcl.ch.get 0).proto = 0 ∧ (s.vcl.ch.get 0).link = 2 ∧
     (s.vcl.ch.get 0).choose 0 0xFF ≠ 0 ∧ (s.vcl.ch.get 0).choose 0 0 = 0) ∧
    (let s := (fit.modCfg fun c => { c with active := { c.active with outlets := vmod c.active.outlets 0 fun _ => some { oc with kind := 2 } } }).modVclCh 0
       fun v => { v with proto := 5, permit := true }
     s.vclUp 0 = true ∧ s.outCfg 0 = some { oc with kind := 2 } ∧ (s.vcl.ch.get 0).proto = 5 ∧ (s.vcl.ch.get 0).permit = true) ∧
    (fit.vcl.ch.get 0).permit = false := by decide

theorem witness_VehicleMessagesMakeRecordsAndAnswers :
    (let s := link0 fun v => { v with proto := 3 }
     s.vclUp 0 = true ∧ s.plugged 0 = true ∧ (s.vcl.ch.get 0).carrierMissing = false ∧ (s.vcl.ch.get 0).proto ≠ 0 ∧ (s.vcl.ch.get 0).proto ≠ 2) ∧
    ((out0 .energy fit).out.get 0).st.refreshed = true ∧
    (let s := (out0 .energy fit).modVclCh 0 fun v => { v with session := 5, authSince := some 3 }
     s.vclUp 0 = true ∧ (s.out.get 0).st = .energy ∧ (s.vcl.ch.get 0).session ≠ 0 ∧ (s.vcl.ch.get 0).stopReq = false ∧ (s.vcl.ch.get 0).authSince = some 3) ∧
    ((link0 fun v => { v with proto := 5 }).vcl.ch.get 0).isCan = true ∧ ((link0 fun v => { v with proto := 6 }).vcl.ch.get 0).isCan = true ∧
    fit.frozen (.pf 1) = false ∧ fit.pwr.dataReady = true := by decide

theorem witness_HostDescriptorsReachTheVehicleSession :
    (let s := holds 16 (desc 0 0 9) (link0 fun v => { v with session := 9, items := [(0, [1])] })
     s.due 16 (desc 0 0 9) = true ∧ (desc 0 0 9).target.toNat = (0 : Outlet).val ∧ (s.vcl.ch.get 0).session = (desc 0 0 9).w 24 ∧ (desc 0 0 9).w 24 ≠ 0 ∧
     (s.vcl.ch.get 0).authFailed = false ∧ (desc 0 0 9).b 28 = 0 ∧ s.vclItem (desc 0 0 9) = some [1]) ∧
    (desc 0 0 0x100000009).b 28 ≠ 0 ∧ (fit.vcl.ch.get 0).session ≠ (desc 0 0 9).w 24 := by decide

/-- Drive 0 of `fit` polled at cycle 3. -/
def polled (f : DriveSt → DriveSt) : State := fit.modThm fun z => { z with drive := vmod z.drive 0 fun x => f { x with polled := some 3 } }
theorem witness_DrivesAndLoopsAreWatched :
    (fit.supplied = true ∧ (fit.thm.loop.get 0).belowSince = none ∧ fit.cfg.active.thermal.drives.get 0 = some ⟨1, 2, some 3, none⟩ ∧ fit.pwr.controlReady = true) ∧
    (let s := fit.modThm fun z => { z with loop := vmod z.loop 0 fun x => { x with belowSince := some 2 } }
     (s.thm.loop.get 0).belowSince = some 2) ∧
    (((polled id).thm.drive.get 0).polled = some 3 ∧ (polled id).clk.cycle < 3 + ms 20 ∧ ((polled id).thm.drive.get 0).fault = false ∧
     ((polled id).thm.drive.get 0).misses < 2) ∧
    (let s := (polled fun x => { x with misses := 2 }).modClk fun c => { c with cycle := 3 + ms 20 }
     (s.thm.drive.get 0).polled = some 3 ∧ 3 + ms 20 ≤ s.clk.cycle ∧ 2 ≤ (s.thm.drive.get 0).misses) ∧
    ((polled fun x => { x with fault := true }).thm.drive.get 0).fault = true ∧ (13700 : Int) ≤ 13700 ∧ (13299 : Int) < 13300 := by decide

theorem witness_SafetyFaultsRaiseTheirSources :
    (live.supplied = true ∧ live.hasPhase 0 = true ∧ live.saf.genFault.getLsbD 0 = false ∧ live.saf.stoFault.getLsbD 0 = false ∧
     some true = some (!live.saf.gateEn.getLsbD 0) ∧ some true = some (!live.saf.stoCmd.getLsbD 0) ∧
     (let x : Rails := ⟨739, 3000, 2000⟩
      ¬ (740 ≤ x.core ∧ x.core ≤ 880 ∧ 3000 ≤ x.io) ∧ 2000 ≤ x.held) ∧
     (let x : Rails := ⟨880, 3000, 10000000⟩
      (740 ≤ x.core ∧ x.core ≤ 880 ∧ 3000 ≤ x.io) ∧ 10000000 ≤ x.held)) ∧
    (let s := live.modSaf fun f => { f with imdSince := vmod f.imdSince 0 fun _ => some 3, srcGlb := 0b1000000 }
     s.saf.imdSince.get 0 = some 3 ∧ s.saf.imdFault.getLsbD 0 = false ∧ s.saf.srcGlb.getLsbD 5 = false ∧ s.saf.srcGlb.getLsbD 6 = true) ∧
    (holds 0 (desc 0 3 0) live).due 0 (desc 0 3 0) = true ∧ (desc 0 3 0).target.toNat = (3 : Outlet).val ∧ (desc 0 3 0).target.toNat = (3 : Acd).val ∧
    8 ≤ (desc 0 255 0).target.toNat ∧ (holds 0 (desc 0 255 0) live).due 0 (desc 0 255 0) = true := by decide

theorem witness_StopInputsAndReleasesAct :
    (live.supplied = true ∧ (live.estopLevels 0 true true).estopLow 0 = false ∧ live.saf.brkTrip = false) ∧
    (let s := live.modSaf fun f => { f with estopMap := vmod f.estopMap 0 fun _ => 0xE001 }
     (s.estopLevels 0 false false).estopLow 0 = true ∧ (s.estopLevels 0 false false).saf.latched.getLsbD 0 = false ∧ s.estopSite 0 = true ∧ live.estopSite 0 = false) ∧
    (let s := (live.modSaf fun f => { f with disagree := vmod f.disagree 0 fun _ => some 3, seoSince := vmod f.seoSince 0 fun _ => some 3, brkTrip := true })
     s.saf.disagree.get 0 = some 3 ∧ s.saf.discrepancy.getLsbD 0 = false ∧ s.saf.seoSince.get 0 = some 3 ∧ s.seoOut 0 = true ∧ s.saf.brkTrip = true) ∧
    (let s := fit.modSaf fun f => { f with permitSince := vmod f.permitSince 0 fun _ => some 3 }
     s.outCfg 0 = some oc ∧ s.saf.permitSince.get 0 = some 3 ∧ s.saf.permit.get 0 = false) ∧
    (holds 0 (desc 0 255 0x3F) live).due 0 (desc 0 255 0x3F) = true := by decide

def safeFrame (conn seq : Word) : SafeFrame := SafeFrame.make conn seq 0 [0, 0]
theorem witness_SafeFramesAreJudged :
    live.supplied = true ∧
    (let s := linked .parent 5 live
     s.safeArrives 0 { hdr 5 with hopLocal := true } = true ∧ s.safeArrives 0 (hdr 5) = false) ∧
    (let s := live.modSaf fun f => { f with conn := vmod f.conn 0 fun x => { x with got := 2 }, siteMaxAge := 0 }
     (s.saf.conn.get 0).got ≠ 0 ∧ (s.saf.conn.get 0).lastTime + s.saf.siteMaxAge.toNat * 1000000 ≤ (s.runToFleet 0).now) ∧
    (let s := live.modSaf fun f => { f with acd := vmod f.acd 0 fun x => { x with en := true, conn := { x.conn with got := 1 } } }
     (s.saf.acd.get 0).conn.got ≠ 0 ∧
     (let age := (s.saf.acd.get 0).maxAge.toNat * 1000000
      (s.saf.acd.get 0).conn.lastTime + age ≤ (s.runToFleet ((s.saf.acd.get 0).conn.lastTime + age)).now) ∧ (s.saf.acd.get 0).en = true ∧ 1 ≤ (s.saf.acd.get 0).conn.got ∧
     safeVerdict (s.saf.acd.get 0).conn (connAcd 3 0 s.rgt.id) ((s.saf.acd.get 0).maxAge.toNat * 1000000) s.now (safeFrame (connAcd 3 0 0) 7) = 0 ∧
     safeVerdict (s.saf.acd.get 0).conn (connAcd 3 0 s.rgt.id) ((s.saf.acd.get 0).maxAge.toNat * 1000000) s.now (safeFrame 0 7) ≠ 0) ∧
    (live.saf.acd.get 0).conn.got = 0 ∧
    (let s := live.modSaf fun f => { f with announcing := [⟨5, 1, 9⟩] }
     (s.saf.announcing.find? fun a => a.origin == 5) = some ⟨5, 1, 9⟩) := by decide +kernel

theorem witness_SafeEnergyOffDropsTheGates :
    live.saf.srcGlb.getLsbD 5 = true ∧ live.saf.srcGlb.getLsbD (0 : Fin 10).val = false ∧ live.saf.srcGlb.getLsbD (9 : Fin 10).val = false ∧
    (live.saf.srcOut.get 0).getLsbD (5 : Fin 6).val = false ∧
    ((live.modSaf fun f => { f with srcOut := vmod f.srcOut 0 fun _ => 1 }).saf.srcOut.get 0).getLsbD 0 = true ∧
    ((moving 2).mtx.move.get 0).isSome = true := by decide

/-- Both lanes in step in tick 0. -/
def ticking : State := live.modLne fun x => { x with ticked := true }
def rec0 : TickRec := ⟨0, 0, 0, [], [], .replicate 8 0, .replicate 24 0⟩
theorem witness_CoxComparesAndTheRefereeJudges :
    (ticking.supplied = true ∧ ticking.pwr.controlReady = true ∧ ticking.lne.ticked = true ∧ ticking.lne.coxDead = false ∧ ticking.lne.stopped = false ∧
     ticking.laneIn 0 = true ∧ ticking.laneIn 1 = true ∧ ticking.recsAgree (some (tickRecWords rec0)) none (writeDigest []) = false ∧
     ticking.recsAgree (some (tickRecWords rec0)) (some (tickRecWords { rec0 with lane := 1 })) (writeDigest []) = true ∧ ticking.lne.tokenStopped = false) ∧
    (let s := ticking.modLne fun x => { x with stopped := true, coxDead := true }
     s.lne.stopped = true ∧ s.lne.coxDead = true) ∧
    (let s := ticking.modLne fun x => { x with state := vmod x.state 0 fun _ => .restarting }
     let t := (s.runToFleet (s.lne.tick * 20000 + 15000)).kickCox
     s.laneIn 0 = false ∧ t.referee 1 none (writeDigest []) ≠ 0 ∧ t.referee 1 (some (tickRecWords { rec0 with lane := 1 })) (writeDigest []) = 0) := by
  decide +kernel

theorem witness_LanesRestartResyncAndDrill :
    (live.supplied = true ∧ live.lne.nextDriving = none ∧ (live.modLne fun x => { x with nextDriving := some true }).lne.nextDriving.isSome = true) ∧
    (let s := live.modLne fun x => { x with state := #v[.restarting, .resync], restartTimes := vmod x.restartTimes 0 fun _ => [0, 0, 0] }
     s.lne.state.get 0 = .restarting ∧ s.lne.state.get 1 = .resync ∧ 3 ≤ ((s.lne.restartTimes.get 0).filter fun t => decide (s.clk.cycle < t + sec 1)).length) ∧
    ((live.lne.restartTimes.get 0).filter fun t => decide (live.clk.cycle < t + sec 1)).length < 3 ∧
    (let s := live.modLne fun x => { x with drill := some (0, 7, 3) }
     s.lne.drill = some (0, 7, 3) ∧ s.lne.drillLeft = 0 ∧ s.pwr.controlReady = true ∧ s.laneIn 0 = true ∧ s.laneIn 1 = true) ∧
    ((holds 0 (desc 0 0 1) live).due 0 (desc 0 0 1) = true ∧ live.lne.drill = none ∧ ((desc 0 0 1).b 24).toNat = (1 : Fin 2).val) ∧
    (let s := live.modLne fun x => { x with state := #v[.inStep, .dead] }
     s.lne.state.get 1 = .dead ∧ s.lne.stopped = false ∧ live.lne.state.get 1 ≠ .dead) := by decide

theorem witness_ALegalSampleEntersEveryNet :
    live.supplied = true ∧ live.hasOutlet 7 = true ∧ live.met.capture = none ∧ live.met.laneFault.getLsbD 0 = false ∧
    (let s := live.modGlb fun g => { g with variant := .a2 }
     s.hasOutlet 1 = true ∧ s.hasOutlet 2 = false) := by decide

theorem witness_LanesWindowsAndCapturesAreNoted :
    (live.supplied = true ∧ live.hasLane 0 = true ∧ live.met.laneFault.getLsbD 0 = false ∧
     (List.replicate 200 true).length = 200 ∧ 196 < (List.replicate 200 true).count true ∧
     (let b := List.replicate 196 true ++ List.replicate 4 false
      4 ≤ b.count true ∧ b.count true ≤ 196) ∧ (live.modMet fun m => { m with laneFault := 1 }).met.laneFault.getLsbD 0 = true) ∧
    (let s := live.modMet fun m => { m with revRun := vmod (vmod m.revRun 0 fun _ => 10) 8 fun _ => 60 }
     s.met.reversed.getLsbD 0 = false ∧ 10 ≤ s.met.revRun.get 0 ∧ s.met.reversed.getLsbD 8 = false ∧ 60 ≤ s.met.revRun.get 8) ∧ live.met.revRun.get 0 < 10 ∧
    (let s := live.modMet fun m => { m with capture := some ⟨0, 7, 1, false, [], 0, none⟩ }
     s.met.capture = some ⟨0, 7, 1, false, [], 0, none⟩ ∧ 0 = ([] : List Word).length * 4096) ∧ 0 ≠ ([0] : List Word).length * 4096 ∧
    (live.modPwr fun w => { w with mode := .hold }).pwr.mode = .hold ∧ live.pwr.mode ≠ .hold ∧ (holds 0 (desc 0 0 0) live).due 0 (desc 0 0 0) = true := by decide +kernel

theorem witness_LegalInstantsAreProcessedOnce :
    live.legalOn = true ∧ State.reset.legalOn = false ∧ consumedAt live.met.doneAt live.now = false ∧ consumedAt live.bil.doneAt live.now = false ∧
    consumedAt (some 0) live.now = true ∧
    (let s := live.modMet fun m => { m with signals := [(0, true, 5, 3, 0)] }
     (s.met.signals.find? fun y => y.1 == 0 && y.2.1 == true) = some (0, true, 5, 3, 0) ∧ (s.met.second + 1) * 1000000000 ≠ 3) ∧
    (live.modBil fun b => { b with stepPend := [⟨0, 9, 1⟩] }).bil.stepPend = [⟨0, 9, 1⟩] ∧ (live.modPwr fun w => { w with mode := .ship }).pwr.mode = .ship ∧
    live.pwr.mode ≠ .ship ∧ live.bil.tamperArm.getLsbD 2 = true ∧
    (live.modBil fun b => { b with tamperArm := 0 }).bil.tamperArm.getLsbD 2 = false := by decide

theorem witness_ANetClosePostsWholeMilliwattHours :
    live.hasOutlet 0 = true ∧ (live.modGlb fun g => { g with variant := .a4 }).hasOutlet 4 = false := by decide

def dcfg : DisplayCfg := ⟨0, 1, 0, 5, []⟩
def receipt7 : Receipt := ⟨7, 0, .none, 0, 0, 0, 0, 0, 0, 0, 0, 0, true⟩
theorem witness_ReceiptsExportsAndDisplaysAct :
    (let s := live.modBil fun b => { b with unsignedR := [receipt7], receipts := [receipt7] }
     s.bil.legalUp = true ∧ (s.bil.unsignedR.find? fun y => y.number == 7) = some receipt7 ∧ (s.bil.unsignedR.find? fun y => y.number == 8) = none ∧
     (holds 0 (desc 0x0D00 0 7) s).due 0 (desc 0x0D00 0 7) = true ∧ s.receipt? ((desc 0x0D00 0 7).w 24) = some receipt7) ∧
    ((1 : Byte).getLsbD 0 = true ∧ ([] : List Byte).length ≠ 4) ∧
    (let s := live.modBil fun b => { b with disp := vmod b.disp 0 fun x => { x with entry := some dcfg, waiting := some 3, missed := 2 } }
     (s.bil.disp.get 0).entry = some dcfg ∧ s.legalOn = true ∧ (s.bil.disp.get 0).waiting = some 3 ∧ 2 ≤ (s.bil.disp.get 0).missed ∧
     s.bil.dispFaulty &&& dispBit dcfg = 0 ∧ (s.bil.disp.get 0).item + 1 < (DispSt.codes dcfg).length) ∧
    (DispSt.codes dcfg).length ≤ 100 ∧ (live.bil.disp.get 0).entry = none ∧ (live.bil.disp.get 0).missed < 2 ∧ State.reset.bil.legalUp = false := by decide

theorem witness_HeldStepsAndBatteryTimers :
    (let s := (fit.modBat fun x => { x with heldReq := some ([(0, 7)], 0), heldRun := some ⟨[], 0, 5⟩, eodSince := some 3, meas := some 3, present := true }).modAlc
       fun a => { a with st := .normal }
     s.supplied = true ∧ s.bat.heldReq = some ([(0, 7)], 0) ∧ s.alc.st = .normal ∧ s.bat.heldRun = some ⟨[], 0, 5⟩ ∧ s.cfg.active.battery = some bc ∧
     (s.bat.eodSince <|> s.bat.eocSince) = some 3 ∧ s.bat.meas = some 3 ∧ s.bat.present = true) ∧
    live.pwr.mode = .run ∧ bakEstimate (BitVec.ofNat 16 (live.thm.supply.get 5)).toNat < 20 ∧ live.bat.bakLow = false ∧ (live.modBat fun x => { x with bakLow := true }).bat.bakLow = true ∧ bakEstimate 0 < 20 ∧ 20 ≤ bakEstimate 2700 ∧
    live.bat.heldReq = none ∧ (holds 0 (desc 0 0 0) live).due 0 (desc 0 0 0) = true := by decide

/-- A ring of PF0 that runs. -/
def ringing (st : RingState) : State := live.modRing 0 fun q => { q with st := st, en := true, p := 2, q := 1 }
theorem witness_DoorbellsAndRingStatesMove :
    (live.supplied = true ∧ live.frozen (.pf 0) = false ∧ ringFn 0 = 0 ∧ ringFn 15 = 0 ∧ ringFn 16 ≠ 0 ∧ (live.ring.get 0).st = .disabled ∧
     ((ringing .held).ring.get 0).st = .held ∧ ((ringing .frozen).ring.get 0).st = .frozen) ∧
    (let q := (ringing .running).ring.get 0
     q.st = .running ∧ ((16 : Word) - q.a).toNat ≤ q.entries ∧ q.entries < ((17 : Word) - q.a).toNat ∧ (q.q - (1 : Word)).toNat ≤ q.entries ∧
     ((1 : Word) - q.c).toNat ≤ (q.q - q.c).toNat ∧ (q.q - q.c).toNat < ((2 : Word) - q.c).toNat) ∧
    (let q := (ringing .draining).ring.get 0
     q.st = .draining ∧ q.outstanding = 0 ∧ q.committing = [] ∧ q.refusals = []) := by decide

def done7 : Comp := ⟨1, .done, false, 0, 0, 0, 0⟩
theorem witness_CompletionsTunnelsAndInterruptsAct :
    (let s := live.modDlv fun v => { v with slots := vmod v.slots 0 fun _ => [⟨1, desc 0 0 0, .completed, some done7, true, 0, 0, false, 0, [], false, false⟩] }
     s.supplied = true ∧ s.nextComp 0 = .original ⟨1, desc 0 0 0, .completed, some done7, true, 0, 0, false, 0, [], false, false⟩ done7) ∧ live.nextComp 0 = .none ∧
    (let s := live.modIrq 1 fun q => { q with timer := some 3 }
     (s.irq.get 1).timer = some 3) ∧
    (let s := live.modTun fun x => { x with parts := [⟨5, 0, 1, 8, 2, [], 0⟩], recv := [⟨0, 7, 0, 1, 16, 0⟩] }
     s.tun.parts = [⟨5, 0, 1, 8, 2, [], 0⟩] ∧ s.tun.recv = [⟨0, 7, 0, 1, 16, 0⟩]) ∧
    (holds 0 (desc 0 0 0) live).due 0 (desc 0 0 0) = true ∧ live.fenceFree (desc 0 0 0) = true ∧
    (let s := live.modDlv fun v => { v with slots := vmod v.slots 0 fun _ => [⟨1, desc 0 0 0, .handed, none, false, 0, 0, false, 0, [], false, false⟩] }
     s.fenceFree (desc 0 0 0) = (fenceRing (desc 0 0 0) != 0 || fenceSeq (desc 0 0 0) != 1)) ∧
    live.routeTo 5 = none ∧ (live.modRgt fun g => { g with route := vmod g.route 0 fun _ => 0x00900000 }).routeTo 5 = some 1 := by decide

theorem witness_AWindowWriteLandsOnlyOnItsMastersPages :
    live.reaches (.pf 0) = true ∧ live.mayAccess (.pf 0) 0 = false ∧
    (let s := live.setPage 0 ⟨.host, 0, 0⟩
     s.mayAccess (.pf 0) ((4095 + 0) / 4096) = true ∧ s.mayAccess (.pf 0) ((4095 + 1) / 4096) = false ∧ StoresWf s) ∧
    live.reaches .mgmt = true ∧ (Region.priv .mgmt).writer .mgmt = true ∧ (Region.priv .mgmt).writer (.pf 0) = false ∧ Region.eventJournal.writer .mgmt = true := by
  refine ⟨by decide, by decide, ⟨by decide, by decide, rfl, rfl, by decide⟩, by decide, by decide, by decide, by decide⟩

theorem witness_WindowDescriptorsAndRegistersAct :
    (holds 0 (desc 0 0 0x0001000F) live).due 0 (desc 0 0 0x0001000F) = true ∧ live.reaches (.pf 2) = true ∧ live.lcs.lock = false ∧
    live.partOk 16 32 = true ∧ live.partOk 15 32 = false ∧ live.partOk 16 4081 = false ∧ live.permitted 0 = false ∧
    (live.modLcs fun l => { l with policy := some 1 }).permitted 0 = true ∧ (∀ c : Fin 24, (live.frz.m.get c).frozen = false) ∧ live.reaches (.pf 1) = true := by decide

theorem witness_ACommitAcceptsInOrder :
    (let s := live.modRing 0 fun q => { q with committing := [⟨0, desc 0 0 0, []⟩] }
     s.supplied = true ∧ (s.ring.get 0).committing = [⟨0, desc 0 0 0, []⟩]) ∧ (live.ring.get 0).committing = [] ∧
    (live.modDlv fun v => { v with fault := true }).dlv.fault = true ∧ live.dlv.fault = false ∧
    (let d : Desc := { desc 0 0 0 with cls := 3, notBefore := 9 }
     let s := live.modDlv fun v => { v with slots := vmod v.slots 0 fun _ => [⟨1, d, .accepted, none, false, 0, 0, false, 0, [], false, false⟩] }
     s.slot? 0 1 = some ⟨1, d, .accepted, none, false, 0, 0, false, 0, [], false, false⟩ ∧ d.cls = 3) ∧ live.carrierReady 0 (desc 0 0 0) = true ∧
    State.reset.carrierReady 0 (desc 0 0 0) = false ∧
    ((holds 40 (desc 0 3 0) live).due 40 (desc 0 3 0) = true ∧ (desc 0 3 0).target.toNat = (3 : Ring).val ∧ (live.ring.get 3).st = .disabled ∧
     live.dlv.slots.get 3 = []) := by decide

/-- Ring 0 with a descriptor posted and its function recovered. -/
def posted : State := (ringing .running).modRingF 0 fun x => { x with recovering := false }
theorem witness_AFetchedDescriptorIsDecidedOnce :
    (posted.supplied = true ∧ posted.canFetch 0 = true ∧ live.canFetch 0 = false) ∧
    (posted.modLcs fun l => { l with policy := some 0b0111 }).permitted 1 = true ∧ live.pwr.mgmtReady = true ∧ live.lcs.recovery = false ∧ live.refStage = false ∧
    live.journalClosed = false ∧ live.permitted 1 = false ∧ (opRow? 0x1201).isSome = true := by decide

theorem witness_TheCaddyServesItsCommands :
    (holds 40 (desc 0 0 1) live).due 40 (desc 0 0 1) = true ∧ ((desc 0 0 1).b 24).toNat = (1 : Fin 16).val ∧ (live.key.otp.get 1).programmed = false ∧
    ((desc 0 0 1).b 24).toNat = (0 : Fin 4).val + 1 ∧ live.supplied = true ∧ (live.key.queues.get 0).length < 16 ∧
    16 ≤ ((live.modKey fun k => { k with queues := vmod k.queues 0 fun _ => List.replicate 16 ⟨1, 0⟩ }).key.queues.get 0).length ∧
    (let s := live.modKey fun k => { k with queues := vmod k.queues 2 fun _ => [⟨1, 0⟩] }
     s.nextQueue = some 2 ∧ s.key.queues.get 2 = [⟨1, 0⟩]) ∧ live.nextQueue = none ∧
    live.tamperCause ⟨#v[1, 0], #v[0, 1], false, 20, 2500, 800, 0, 0⟩ = 1 ∧ live.tamperCause ⟨#v[1, 0], #v[0, 0], false, 20, 2500, 800, 0, 0⟩ = 0 ∧
    live.glb.variant = .a8t ∧ live.pwr.mode ≠ .ship ∧ (live.modGlb fun g => { g with variant := .a4 }).glb.variant ≠ .a8t ∧ live.key.birthCert = true := by decide

theorem witness_TransitionsPortsAndPoliciesAct :
    (holds 40 (desc 0 0 1) live).due 40 (desc 0 0 1) = true ∧ live.lcs.st ≠ .service ∧ live.lcs.st ≠ .scrap ∧ live.lcs.returnPending = false ∧
    lcOfCode 3 = some .ret ∧ lcOfCode 2 = some .service ∧
    (let s := live.modLcs fun l => { l with st := .service, returnPending := true, returnWait := some (40, 7) }
     s.lcs.st = .service ∧ s.lcs.returnPending = true ∧ s.lcs.returnWait = some (40, 7)) ∧
    (live.modLcs fun l => { l with st := .scrap }).lcs.st = .scrap ∧ live.supplied = true ∧ (live.lcs.portAuth ++ leBytes 4 (5 : Word).toNat).length < 68 ∧
    (let s := live.modLcs fun l => { l with portAuth := List.replicate 68 0 }
     let l := s.lcs.portAuth ++ leBytes 4 (0 : Word).toNat
     68 ≤ l.length ∧ 68 + field l 64 4 ≤ l.length) := by decide

theorem witness_ImagesAreWrittenTriedAndConfirmed :
    (holds 40 (desc 0 0 0x0101) live).due 40 (desc 0 0 0x0101) = true ∧ (desc 0 0 0x0101).b 25 = 1 ∧ Fin.ofNat 6 ((desc 0 0 0x0101).b 24).toNat = (1 : Fin 6) ∧
    (desc 0 0 1).b 25 ≠ 1 ∧ (live.lcs.img.get 1).running.index.toNat ≤ 63 ∧ live.lcs.writing = [] ∧ live.supplied = true ∧
    (let s := live.modLcs fun l => { l with writing := [⟨some 40, 7, 1, true, .empty⟩] }
     s.lcs.writing = [⟨some 40, 7, 1, true, .empty⟩]) := by decide

theorem witness_ClockFaultsHoldTheBlock :
    live.supplied = true ∧ live.clk.rootLost = false ∧ live.clk.faultSince = none ∧ live.clk.xtalFail = false ∧ live.clk.resetHeld = false ∧
    22 ≤ (((48850 : Nat) : Int) - 48828).natAbs ∧ ¬ 22 ≤ (((48849 : Nat) : Int) - 48828).natAbs ∧
    32768 < 20 * (((31129 : Nat) : Int) - 32768).natAbs ∧ ¬ 32768 < 20 * (((31130 : Nat) : Int) - 32768).natAbs ∧
    (let s := live.modClk fun c => { c with rootLost := true, faultSince := some 3, resetHeld := true, xtalFail := true, drift := true, xtalGood := some 0 }
     s.clk.xtalGood = some 0 ∧ s.clk.cycle < 0 + sec 1 ∧ 0 + sec 1 ≤ (s.modClk fun c => { c with cycle := sec 1 }).clk.cycle ∧ live.clk.xtalGood = none ∧
     s.clk.rootLost = true ∧ s.clk.faultSince = some 3 ∧ s.clk.resetHeld = true ∧ s.clk.xtalFail = true ∧ s.clk.drift = true) := by decide

theorem witness_ResetsAndReadyReportsAct :
    (live.pwr.mode ≠ .hold ∧ live.pwr.mode ≠ .ship ∧ (live.modPwr fun w => { w with mode := .hold }).pwr.mode = .hold) ∧
    live.supplied = true ∧ live.clk.resetHeld = false ∧ live.clk.faultSince = none ∧
    (let s := State.reset.modLcs fun l => { l with img := vmod l.img (kindOf .control) fun g => { g with since := some 3 } }
     (s.lcs.img.get (kindOf .control)).since = some 3 ∧ s.planeReady .control = false ∧ live.planeReady .control = true ∧ (s.lcs.img.get 5).since = none) ∧
    (live.modClk fun c => { c with resetHeld := true }).clk.resetHeld = true ∧ (live.modClk fun c => { c with faultSince := some 1 }).clk.faultSince.isSome = true ∧
    ((holds 40 (desc 0 0 4) live).due 40 (desc 0 0 4) = true ∧ ((desc 0 0 4).b 24).toNat = 4 ∧ (∀ o : Outlet, (live.out.get o).st = .off) ∧
     live.hasOutlet 0 = true ∧ ((out0 .idle live).out.get 0).st ≠ .off) := by decide

theorem witness_PowerFailuresEnterHold :
    (let x : Rails := ⟨800, 3099, 2000⟩
     x.io < 3100 ∧ 2000 ≤ x.held) ∧ (let x : Rails := ⟨800, 3150, 10000000⟩
     3150 ≤ x.io ∧ 10000000 ≤ x.held) ∧ (let x : Rails := ⟨699, 2900, 0⟩
     x.core < 700) ∧
    live.supplied = true ∧ live.pwr.pfw = false ∧ (live.modPwr fun w => { w with pfw := true, bakMode := .constCurrent }).pwr.pfw = true ∧ live.thm.bakBlocked = false ∧
    live.pwr.bakMode = .off ∧ (2599 : Half).toNat < 2600 ∧ 2600 ≤ (2600 : Half).toNat ∧ (2699 : Half).toNat < 2700 ∧
    (live.modThm fun t => { t with bakBlocked := true }).thm.bakBlocked = true ∧ (live.modPwr fun w => { w with bakMode := .constVoltage }).pwr.bakMode = .constVoltage ∧
    (live.modPwr fun w => { w with mode := .hold }).pwr.mode = .hold ∧ live.glb.variant = .a8t ∧ live.pwr.mode ≠ .hold := by decide

theorem witness_DriftHealthAndRemoteRecordsAct :
    live.supplied = true ∧ live.dia.remote = [] ∧
    (let s := live.modDia fun d => { d with remote := [⟨40, 7, 5, 2, 16, 0⟩] }
     s.dia.remote = [⟨40, 7, 5, 2, 16, 0⟩]) ∧
    (let s := (linked .parent 5 live).modRgt fun g => { g with route := vmod g.route 0 fun _ => 0x00900000 }
     s.accepts .cfg 0 (hdr 5) = true ∧ s.forMe (hdr 5) = true ∧ s.forMe (hdrTo 5 9) = false ∧ s.accepts .cfg 0 (hdrTo 5 9) = true ∧ s.pwr.mgmtReady = true ∧
     ((s.received 0 (hdr 5)).takeMsg 0x20).requesterOk 0 5 0 = true ∧ (((s.received 0 (hdr 5)).takeMsg 0x20).routeTo 5).isSome = true) ∧
    (holds 40 (desc 0 0 0) live).due 40 (desc 0 0 0) = true ∧ ((desc 0 0 0).q 24).toNat = 0 := by decide

theorem witness_RegisterAccessesLatchClearAndCount :
    live.reaches (.pf 2) = true ∧ live.reaches (.pf 0) = true ∧ live.pwr.mgmtReady = true ∧ live.pwr.controlReady = true ∧ (live.beat (.pf 2)).regAt (.pf 2) 0xFFFFC = none ∧
    (live.beat (.pf 2)).regAt (.pf 2) 0x1010 = some (.w 0) ∧ (live.beat (.pf 2)).regAt (.pf 2) 0x10020 = some (.lo 0) ∧ (live.beat (.pf 2)).sees (.pf 2) 0x10020 = true ∧
    0xFFFFC % 4 = 0 ∧ 0x1001 % 4 ≠ 0 := by decide

theorem witness_TicksAndHousekeepingRoundsRun :
    live.supplied = true ∧ live.now ≤ 0 * 20000 ∧ live.lne.ticked = false ∧
    (live.now % Config.hkNs ≠ 0 ∨ live.now / Config.hkNs ≤ live.thm.hkEnd) ∧ live.pwr.controlReady = true ∧ State.reset.pwr.controlReady = false := by decide

/-- A ring enabled for every class, with a fetched descriptor. -/
def enabledRing : State := posted.modRing 0 fun q => { q with exp := 1, classes := 31 }

theorem witness_decisions :
    enabledRing.decision 0 (desc 0x0F01 0 0) true = .accept [] ∧ enabledRing.decision 0 { desc 0x0F01 0 0 with cls := 7 } true = .refuse .malformed 3 0 ∧
    (enabledRing.modRing 0 fun q => { q with exp := 5 }).decision 0 (desc 0x0F01 0 0) true = .refuse .state 4 0 := by decide

/-! ### Single commands against the manual -/

/-- The next state of a command. -/
def after (c : Instr) (s : State) : State := match exec c s with | .next t => t | _ => s

/-- 05 R133: a commit of a channel that is not enabled is refused with result 6; the smallest period is 4,800 taps. -/
theorem test_pwmCommit_disabled : ((after (.pwmCommit (.pf 0) 0 3) live).pwm.ch.get 0).lastResult = 6 := by decide
theorem test_pwmCommit_period :
    ((after (.pwmCommit (.pf 0) 0 3) (shadowed.modCh 0 fun c => { c with shadow := { c.shadow with period := ofTaps 4799 } })).pwm.ch.get 0).lastResult = 2 := by decide
/-- 05 R135: one bad channel refuses the others with result 5. -/
theorem test_pwmGroupCommit_other :
    ((after (.pwmGroupCommit (.pf 0) 3) (shadowed.modPwm fun p => { p with groupMask := 3 })).pwm.ch.get 0).lastResult = 5 := by decide
/-- 05 R130: the least dead time is 24. -/
theorem test_pwmDtMin : (after (.pwmDtMinWrite (.pf 0) 7) live).pwm.dtMin = 24 := by decide
/-- 16 R395, R402: a write to a FREE page freezes the function that makes it, and lands nowhere. -/
theorem test_windowAccess_breach :
    (after (.windowAccess (.pf 0) .window true 0 [7]) live).frozen (.pf 0) = true ∧ (after (.windowAccess (.pf 0) .window true 0 [7]) live).memRead 0 = 0 := by decide +kernel
/-- 16 R395: the last byte of a host page takes a write of its function. -/
theorem test_windowAccess_last : (after (.windowAccess (.pf 0) .window true 4095 [7]) (live.setPage 0 ⟨.host, 0, 0⟩)).memRead 4095 = 7 := by decide
/-- 16 R407: a partition with fewer than 16 pages leaves `WIN_PART` as it was. -/
theorem test_winPart_small : (after (.winPartWrite (.pf 2) 0x0020000F) live).win.pf1First = 256 := by decide
/-- 16 R399: a claimed page is owned by the host with the next generation. -/
theorem test_winClaim : (after (.winClaim 0 (desc 0 0 0x00010005)) (holds 0 (desc 0 0 0x00010005) live)).page 5 = ⟨.host, 1, 0⟩ := by decide
/-- 15 R370: a doorbell of a disabled ring is kept; a foreign ring's is a breach. -/
theorem test_ringDbSq_kept : ((after (.ringDbSq (.pf 0) 0 5) live).ring.get 0).keptSq = some 5 := by decide
theorem test_ringDbSq_breach : (after (.ringDbSq (.pf 0) 16 5) live).frozen (.pf 0) = true := by decide +kernel
/-- 02 R49: EN takes a port from OFF to ACQUIRE, sync from there to HELLO. -/
theorem test_portEn : ((after (.portEnWrite (.pf 2) 1 1) live).rgt.port.get 1).st = .acquire := by decide
theorem test_portEn_locked : ((after (.portEnWrite (.pf 2) 1 1) (live.modLcs fun l => { l with lock := true })).rgt.port.get 1).st = .off := by decide +kernel
/-- 02 R40: a frame whose checksum fails is counted and discarded. -/
theorem test_probe_crc : ((after (.probeReceive 0 { hdr 5 with crcOk := false } (helloOf 5)) (linked .parent 5 live)).rgt.port.get 0).cntCrc = 1 := by decide
/-- 03 R81: the level of the CURTAIL pins. -/
theorem test_curtail : (after (.curtailChange [(true, false), (true, false)]) live).alc.curtail = 2 ∧
    (after (.curtailChange [(true, false)]) live).alc.curtail = 0 := by decide
/-- 03 R98: `ALC_SET_CAP` takes the cap of bytes 24-27. -/
theorem test_setCap : (after (.alcSetCap 0 (desc 0 0 77)) (holds 0 (desc 0 0 77) live)).alc.cap = 77 := by decide
/-- 04 R110: a copy whose signature fails ends with status 3. -/
theorem test_stageVerify_signature : (after (.stageVerifyDone false) (staged img (partImage 1 4) .a8t 24)).cfg.stagedStatus = 3 := by decide +kernel
/-- 10 R254: the check value of the CRC-32C over "123456789"; 11 R276: that of the CRC-64. -/
theorem test_crc32c : crc32c [0x31, 0x32, 0x33, 0x34, 0x35, 0x36, 0x37, 0x38, 0x39] = 0xE3069283 := by decide +kernel
theorem test_crc64 : crc64 [0x31, 0x32, 0x33, 0x34, 0x35, 0x36, 0x37, 0x38, 0x39] = 0x6C40DF5F0B497347 := by decide +kernel
/-- 04 R103: a byte of padding that is not zero makes an image malformed. -/
theorem test_framing_padding : sections 1 (leBytes 4 1 ++ leBytes 4 1 ++ [7, 0, 0, 0, 0, 0, 0, 1]) = none ∧
    sections 1 (leBytes 4 1 ++ leBytes 4 1 ++ [7, 0, 0, 0, 0, 0, 0, 0]) = some [⟨1, false, [7]⟩] := by decide
/-- 06 R155: a write of a time that has passed transfers the clamps at once. -/
theorem test_applyArm_late :
    ((after (.regApplyArm (.pf 0) 0) (live.modRegCh 0 fun c => { c with shadow := 9, shadowSet := true })).reg.ch.get 0).inForce = 9 := by decide +kernel
/-- 01 R23: a record of another size than 32 bytes is counted as malformed and not taken. -/
theorem test_demandWrite_size : ((after (.demandWrite (.app 0) 0 31 0 .zero) fit).out.get 0).cntMalformed = 1 := by decide +kernel
/-- 08 R206: session identities never come to 0. -/
theorem test_sessionNext_wraps : (after (.vclSessionNextRead (.pf 1)) (live.modVcl fun v => { v with sessionNext := 0xFFFFFFFF })).vcl.sessionNext = 1 := by decide
/-- 08 R211: the mean attenuation is kept. -/
theorem test_slac_mean : ((after (.slacMatch 0 41) (link0 fun v => { v with link := 1 })).vcl.ch.get 0).slacMean = 41 := by decide
/-- 09 R224: the third answer missed in succession is a drive fault. -/
theorem test_drive_third : ((after (.driveResponseTimeout 0) (polled fun x => { x with misses := 2 })).thm.drive.get 0).fault = true := by decide
/-- 10 R241: a GATE_EN pin held low against its command raises the global source and drops every gate. -/
theorem test_genFault : (after (.genFault 3 (some false)) (live.modSaf fun f => { f with gateEn := BitVec.allOnes 24 })).saf.gateEn = 0 := by decide +kernel
/-- 10 R268: a demand for outlet 255 is global. -/
theorem test_seoDemand_global : (after (.safSeoDemand 0 (desc 0 255 0)) (holds 0 (desc 0 255 0) live)).saf.srcGlb.getLsbD 0 = true := by decide +kernel
/-- 11 R281: the fourth start within a second leaves the lane DEAD. -/
theorem test_restart_fourth :
    ((after (.restartComplete 0 true) (live.modLne fun x =>
      { x with state := vmod x.state 0 fun _ => .restarting, restartTimes := vmod x.restartTimes 0 fun _ => [0, 0, 0] })).lne.state.get 0) = .dead := by decide
/-- 12 R297: a faulty lane is noted with its net. -/
theorem test_laneFault : (after (.laneFault 0 (List.replicate 200 false)) live).met.laneFault = 1 := by decide +kernel
/-- 14 R360: a cell at 0 V is below 20 %. -/
theorem test_bakEstimate : (after .bakEstimate live).bat.bakLow = true := by decide
/-- 18 R428: a tamper cause zeroes the key memory of the A8T alone. -/
theorem test_keyTamper : (after (.keyTamper ⟨#v[1, 0], #v[0, 1], false, 20, 2500, 800, 0, 0⟩) live).key.zeroized = true ∧
    (after (.keyTamper ⟨#v[1, 0], #v[0, 1], false, 20, 2500, 800, 0, 0⟩) (live.modGlb fun g => { g with variant := .a4 })).key.zeroized = false := by decide
/-- 19 R458: `LCS_LOCK` sets configuration lock. -/
theorem test_lock : (after (.lcsLock 40 (desc 0 0 0)) (holds 40 (desc 0 0 0) live)).lcs.lock = true := by decide
/-- 20 R468: 22 edges beyond 48,828 are a drift fault, 21 are none. -/
theorem test_drift : (after (.driftCheck 48850) live).clk.drift = true ∧ (after (.driftCheck 48849) live).clk.drift = false := by decide +kernel
/-- 20 R475: the warning and the fall of the rail enter HOLD. -/
theorem test_hold : (after (.holdEntry ⟨800, 2899, 0⟩) (live.modPwr fun w => { w with pfw := true })).pwr.mode = .hold := by decide
/-- 22 R501: an access to unassigned space is counted for its master. -/
theorem test_unmapped : ((after (.unmappedAccess (.pf 2) 0xFFFFC false) live).glb.bank.get 2).cntUnmapped = 1 := by decide
/-- 00 R8: an enable write takes the bits that the block has. -/
theorem test_eventEnable : (after (.registerWrite (.pf 2) 0x100C 0xFFFFFFFF) live).ev.clk.en = evMask .clk := by decide

/-- 07 R179: two equal classifications change nothing, the third makes the pilot state. -/
theorem test_pilot_filter :
    (let x : PilotSample := .cp 2400 0
     ((after (.pilotChange 0 [x, x]) fit).out.get 0).cls = (fit.out.get 0).cls ∧ ((after (.pilotChange 0 [x, x, x]) fit).out.get 0).cls = 1) := by decide +kernel
/-- 02 R37: sync takes 1,024 valid groups after a comma-aligned IDLE. -/
theorem test_sync_groups :
    (let s := live.modPort 0 fun x => { x with en := true, st := .acquire }
     ((after (.syncAcquired 0 true 1023) s).rgt.port.get 0).st = .acquire ∧ ((after (.syncAcquired 0 true 1024) s).rgt.port.get 0).st = .hello) := by decide +kernel
/-- 01 R18: a seventeenth request of a queue is refused. -/
theorem test_caddy_full :
    ((after (.caddyRequest (List.replicate 17 (0, ⟨5, 0⟩))) live).key.queues.get 0).length = 15 := by decide +kernel
/-- 11 R274: the lane's start is held until Cox finds the records of the tick matched. -/
theorem test_gated_held : (after (.pwmStart .lane 1) shadowed).lne.held = [.start 1] ∧ ((after (.pwmStart .lane 1) shadowed).pwm.ch.get 0).running = false := by
  decide +kernel
theorem test_gated_lands :
    (let s := ticking.modLne fun x => { x with held := [.regEn 0] }
     ((after (.tickCompare (some rec0) (some { rec0 with lane := 1 }) []) s).reg.ch.get 0).en = true ∧
     ((after (.tickCompare (some rec0) none []) s).reg.ch.get 0).en = false) := by decide +kernel

end Sys2Proof.Tests
end

section
/-! Register accesses at their beat: reads that latch, unassigned space, event registers (00 R8, R9; 15 R366; 22 R500, R501). -/
namespace Sys2Proof.Machine

variable {s t : State} {m : Master} {off : Nat}

/-! ### Accesses of a master that is carried out -/

theorem State.reaches_iff : s.reaches m = true ↔ s.supplied = true ∧ s.frozen m = false := by simp [State.reaches]

/-- With the supply there and the master not frozen, an access acts at the master's beat. -/
theorem State.live_access (f : State → State) (h : s.reaches m = true) :
    s.live (fun s => s.access m off f) = .next (if off % 4 ≠ 0 then (s.beat m).badAccess m else f (s.beat m)) := by
  obtain ⟨hs, hz⟩ := State.reaches_iff.mp h
  rw [State.live_supplied _ hs, State.access, State.transact_free _ hz]

theorem State.live_access_aligned (f : State → State) (h : s.reaches m = true) (ha : off % 4 = 0) :
    s.live (fun s => s.access m off f) = .next (f (s.beat m)) := by
  rw [State.live_access f h, if_neg (fun hn => hn ha)]

theorem State.live_access_unaligned (f : State → State) (h : s.reaches m = true) (ha : off % 4 ≠ 0) :
    s.live (fun s => s.access m off f) = .next ((s.beat m).badAccess m) := by
  rw [State.live_access f h, if_pos ha]

/-! ### What a read latches -/

theorem State.latchRead_lo {v : DWord} (hr : s.regAt m off = some (.lo v)) (hv : s.sees m off = true) :
    s.latchRead m off = s.modGlb fun g =>
      { g with bank := vmod g.bank m.bank fun b => { b with latches := sparsePut 0 b.latches off (hi32 v) } } := by
  simp only [State.latchRead, hr, hv, if_true]

theorem State.latchRead_word {v : Word} (hr : s.regAt m off = some (.w v)) : s.latchRead m off = s := by
  simp only [State.latchRead, hr]

theorem State.latchRead_unassigned (hr : s.regAt m off = none) : s.latchRead m off = s.unmapped m off := by
  simp only [State.latchRead, hr]

theorem exec_loWordRead (h : s.reaches m = true) (ha : off % 4 = 0) :
    exec (.loWordRead m off) s = .next ((s.beat m).latchRead m off) :=
  State.live_access_aligned (·.latchRead m off) h ha

theorem exec_loWordRead_unaligned (h : s.reaches m = true) (ha : off % 4 ≠ 0) :
    exec (.loWordRead m off) s = .next ((s.beat m).badAccess m) :=
  State.live_access_unaligned (·.latchRead m off) h ha

/-! ### Accesses to unassigned space -/

theorem exec_unmappedAccess (h : s.reaches m = true) (ha : off % 4 = 0) (wr : Bool) :
    exec (.unmappedAccess m off wr) s =
      .next (if ((s.beat m).regAt m off).isNone then (s.beat m).unmapped m off else s.beat m) :=
  State.live_access_aligned (fun t => if (t.regAt m off).isNone then t.unmapped m off else t) h ha

theorem exec_unmappedAccess_unaligned (h : s.reaches m = true) (ha : off % 4 ≠ 0) (wr : Bool) :
    exec (.unmappedAccess m off wr) s = .next ((s.beat m).badAccess m) :=
  State.live_access_unaligned (fun t => if (t.regAt m off).isNone then t.unmapped m off else t) h ha

/-! ### Writes -/

/-- A write to an assigned register that is no row of the table by itself follows the block's rules. -/
theorem exec_registerWrite_assigned {w : Word} (h : s.reaches m = true) (ha : off % 4 = 0) (hrow : rowWrite m off w s = none)
    (hr : (s.beat m).regAt m off ≠ none) :
    exec (.registerWrite m off w) s = .next ((s.beat m).writeAssigned m off w) := by
  obtain ⟨v, hv⟩ := Option.ne_none_iff_exists'.mp hr
  show execRegisterWrite m off w s = _
  rw [execRegisterWrite, if_pos ha, hrow]
  dsimp only
  rw [State.live_access_aligned _ h ha, hv]

theorem exec_registerWrite_unaligned {w : Word} (h : s.reaches m = true) (ha : off % 4 ≠ 0) :
    exec (.registerWrite m off w) s = .next ((s.beat m).badAccess m) := by
  show execRegisterWrite m off w s = _
  rw [execRegisterWrite, if_neg ha]
  exact State.live_access_unaligned _ h ha

/-! ### Event registers (00 R8, R9) -/

/-- A granted row of a block that is up, for a master that is no integrator core. -/
theorem State.writeRows_granted {up free : Bool} {rows : List WriteRow} {x : WriteRow} (hu : up = true) (hi : m.isInteg = false)
    (hx : (rows.find? fun y => y.off == off) = some x) (hk : x.ok = true) :
    t.writeRows m up true free off rows = x.act t := by
  simp [State.writeRows, hx, State.checkedWrite, hu, hi, hk]

/-- The rows of an event register in front of a block's others. -/
theorem find_evRows_flags {e : EvSrc} {k : Bool} {w : Word} (rest : List WriteRow) :
    ((evRows off e k w ++ rest).find? fun y => y.off == off) = some ⟨off, k, (·.clearEv e w)⟩ := by
  simp [evRows]

theorem find_evRows_enables {e : EvSrc} {k : Bool} {w : Word} (rest : List WriteRow) :
    ((evRows off e k w ++ rest).find? fun y => y.off == off + 4) = some ⟨off + 4, k, (·.setEvEn e w)⟩ := by
  simp [evRows]

/-- What 00 R8 and R9 say of a block's event register at `off` and the enable register behind it, for a write of master `m` in state `t`:
the offsets show the two registers, no row of the command table takes them, and the block's rules clear and enable. -/
structure EventBlock (t : State) (m : Master) (off : Nat) (e : EvSrc) : Prop where
  aligned : off % 4 = 0
  showsFlags : t.regAt m off = some (.w (t.evGet e).flags)
  showsEnables : t.regAt m (off + 4) = some (.w (t.evGet e).en)
  noRow : ∀ w s, rowWrite m off w s = none ∧ rowWrite m (off + 4) w s = none
  clears : ∀ w, t.writeAssigned m off w = t.clearEv e w
  enables : ∀ w, t.writeAssigned m (off + 4) w = t.setEvEn e w

theorem clk_eventBlock : EventBlock t (.pf 2) 0x1008 .clk :=
  ⟨rfl, rfl, rfl, fun _ _ => ⟨rfl, rfl⟩,
    fun w => (rfl : _ = t.writeClk _ _ w).trans (State.writeRows_granted rfl rfl (find_evRows_flags _) rfl),
    fun w => (rfl : _ = t.writeClk _ _ w).trans (State.writeRows_granted rfl rfl (find_evRows_enables _) rfl)⟩

theorem pwr_eventBlock : EventBlock t (.pf 2) 0x2020 .pwr :=
  ⟨rfl, rfl, rfl, fun _ _ => ⟨rfl, rfl⟩,
    fun w => (rfl : _ = t.writePwr _ _ w).trans (State.writeRows_granted rfl rfl (find_evRows_flags _) rfl),
    fun w => (rfl : _ = t.writePwr _ _ w).trans (State.writeRows_granted rfl rfl (find_evRows_enables _) rfl)⟩

theorem key_eventBlock : EventBlock t (.pf 2) 0x68060 .key :=
  ⟨rfl, rfl, rfl, fun _ _ => ⟨rfl, rfl⟩,
    fun w => (rfl : _ = t.writeKey _ _ w).trans (State.writeRows_granted rfl rfl (find_evRows_flags _) rfl),
    fun w => (rfl : _ = t.writeKey _ _ w).trans (State.writeRows_granted rfl rfl (find_evRows_enables _) rfl)⟩

/-- The rows of the SAF block hold those of its event register behind the setup registers. -/
theorem saf_eventBlock : EventBlock t (.pf 0) 0x40200 .saf :=
  ⟨rfl, rfl, rfl, fun _ _ => ⟨rfl, rfl⟩,
    fun w => (rfl : _ = t.writeRows (.pf 0) true true false 0x40200 (safRows (.pf 0) t.lcs.lock w)).trans
      (State.writeRows_granted (x := ⟨0x40200, true, (·.clearEv .saf w)⟩) rfl rfl rfl rfl),
    fun w => (rfl : _ = t.writeRows (.pf 0) true true false 0x40204 (safRows (.pf 0) t.lcs.lock w)).trans
      (State.writeRows_granted (x := ⟨0x40204, true, (·.setEvEn .saf w)⟩) rfl rfl rfl rfl)⟩

/-- Every function may write the event register of MET. -/
theorem met_eventBlock (f : Fn) : EventBlock t (.pf f) 0x50010 .met :=
  ⟨rfl, rfl, rfl, fun _ _ => ⟨rfl, rfl⟩,
    fun w => (rfl : _ = t.writeRows (.pf f) true true true 0x50010 (evRows 0x50010 .met true w ++ [])).trans
      (State.writeRows_granted rfl rfl (find_evRows_flags []) rfl),
    fun w => (rfl : _ = t.writeRows (.pf f) true true true (0x50010 + 4) (evRows 0x50010 .met true w ++ [])).trans
      (State.writeRows_granted rfl rfl (find_evRows_enables []) rfl)⟩

/-- Every function may write the event register of BIL. -/
theorem bil_eventBlock (f : Fn) : EventBlock t (.pf f) 0x58050 .bil :=
  ⟨rfl, rfl, rfl, fun _ _ => ⟨rfl, rfl⟩,
    fun w => (rfl : _ = t.writeRows (.pf f) true true true 0x58050 (evRows 0x58050 .bil true w ++ [])).trans
      (State.writeRows_granted rfl rfl (find_evRows_flags []) rfl),
    fun w => (rfl : _ = t.writeRows (.pf f) true true true (0x58050 + 4) (evRows 0x58050 .bil true w ++ [])).trans
      (State.writeRows_granted rfl rfl (find_evRows_enables []) rfl)⟩

theorem lcs_eventBlock (hu : t.pwr.mgmtReady = true) : EventBlock t (.pf 2) 0x70300 .lcs :=
  ⟨rfl, rfl, rfl, fun _ _ => ⟨rfl, rfl⟩,
    fun w => (rfl : _ = t.writeLcs _ _ w).trans (State.writeRows_granted hu rfl (find_evRows_flags _) rfl),
    fun w => (rfl : _ = t.writeLcs _ _ w).trans (State.writeRows_granted hu rfl (find_evRows_enables _) rfl)⟩

theorem dia_eventBlock (hu : t.pwr.mgmtReady = true) : EventBlock t (.pf 2) 0x78020 .dia :=
  ⟨rfl, rfl, rfl, fun _ _ => ⟨rfl, rfl⟩,
    fun w => (rfl : _ = t.writeDia _ _ w).trans (State.writeRows_granted hu rfl (find_evRows_flags _) rfl),
    fun w => (rfl : _ = t.writeDia _ _ w).trans (State.writeRows_granted hu rfl (find_evRows_enables _) rfl)⟩

theorem lne_eventBlock (hu : t.pwr.controlReady = true) : EventBlock t (.pf 0) 0x44020 .lne :=
  ⟨rfl, rfl, rfl, fun _ _ => ⟨rfl, rfl⟩,
    fun w => (rfl : _ = t.writeLne _ _ w).trans (State.writeRows_granted hu rfl (find_evRows_flags _) rfl),
    fun w => (rfl : _ = t.writeLne _ _ w).trans (State.writeRows_granted hu rfl (find_evRows_enables _) rfl)⟩

theorem bat_eventBlock (hu : t.pwr.controlReady = true) : EventBlock t (.pf 0) 0x60040 .bat :=
  ⟨rfl, rfl, rfl, fun _ _ => ⟨rfl, rfl⟩,
    fun w => (rfl : _ = t.writeBat _ _ w).trans (State.writeRows_granted hu rfl (find_evRows_flags _) rfl),
    fun w => (rfl : _ = t.writeBat _ _ w).trans (State.writeRows_granted hu rfl (find_evRows_enables _) rfl)⟩

/-- The masters and offsets of O59's list are event registers that the master may write. -/
theorem eventBlock_of_listed {e : EvSrc}
    (h : (m, off, e) ∈ [(.pf 2, 0x1008, .clk), (.pf 2, 0x2020, .pwr), (.pf 2, 0x68060, .key), (.pf 0, 0x40200, .saf), (.pf 0, 0x50010, .met),
        (.pf 1, 0x50010, .met), (.pf 2, 0x50010, .met), (.pf 0, 0x58050, .bil), (.pf 1, 0x58050, .bil), (.pf 2, 0x58050, .bil)] ∨
      (t.pwr.mgmtReady = true ∧ (m, off, e) ∈ [(.pf 2, 0x70300, .lcs), (.pf 2, 0x78020, .dia)]) ∨
      (t.pwr.controlReady = true ∧ (m, off, e) ∈ [(.pf 0, 0x44020, .lne), (.pf 0, 0x60040, .bat)])) :
    EventBlock t m off e := by
  simp only [List.mem_cons, Prod.mk.injEq, List.not_mem_nil, or_false] at h
  rcases h with (⟨rfl, rfl, rfl⟩ | ⟨rfl, rfl, rfl⟩ | ⟨rfl, rfl, rfl⟩ | ⟨rfl, rfl, rfl⟩ | ⟨rfl, rfl, rfl⟩ | ⟨rfl, rfl, rfl⟩ |
    ⟨rfl, rfl, rfl⟩ | ⟨rfl, rfl, rfl⟩ | ⟨rfl, rfl, rfl⟩ | ⟨rfl, rfl, rfl⟩) | ⟨hu, ⟨rfl, rfl, rfl⟩ | ⟨rfl, rfl, rfl⟩⟩ |
    ⟨hu, ⟨rfl, rfl, rfl⟩ | ⟨rfl, rfl, rfl⟩⟩
  · exact clk_eventBlock
  · exact pwr_eventBlock
  · exact key_eventBlock
  · exact saf_eventBlock
  · exact met_eventBlock 0
  · exact met_eventBlock 1
  · exact met_eventBlock 2
  · exact bil_eventBlock 0
  · exact bil_eventBlock 1
  · exact bil_eventBlock 2
  · exact lcs_eventBlock hu
  · exact dia_eventBlock hu
  · exact lne_eventBlock hu
  · exact bat_eventBlock hu

/-- REGISTER_WRITE to the event register clears the flags written 1, at the master's beat. -/
theorem EventBlock.exec_flags {e : EvSrc} (hb : EventBlock (s.beat m) m off e) (h : s.reaches m = true) (w : Word) :
    exec (.registerWrite m off w) s = .next ((s.beat m).evSet e { s.evGet e with flags := (s.evGet e).flags &&& ~~~ w }) := by
  rw [exec_registerWrite_assigned h hb.aligned (hb.noRow w s).1 (by simp [hb.showsFlags]), hb.clears, State.clearEv,
    State.evGet_ev (t := s) e (by simp), w1c]

/-- REGISTER_WRITE to the enable register stores the bits that the block defines. -/
theorem EventBlock.exec_enables {e : EvSrc} (hb : EventBlock (s.beat m) m off e) (h : s.reaches m = true) (w : Word) :
    exec (.registerWrite m (off + 4) w) s = .next ((s.beat m).evSet e { s.evGet e with en := w &&& evMask e }) := by
  have ha : (off + 4) % 4 = 0 := by rw [Nat.add_mod_right, hb.aligned]
  rw [exec_registerWrite_assigned h ha (hb.noRow w s).2 (by simp [hb.showsEnables]), hb.enables, State.setEvEn,
    State.evGet_ev (t := s) e (by simp)]

/-- Settles O59: each command takes its beat and then acts by the case of its offset, an event register of the list, a register that the
map assigns, unassigned space, or an offset that is not aligned. -/
theorem registerAccessesLatchClearAndCount : Obligations.RegisterAccessesLatchClearAndCount := by
  unfold Obligations.RegisterAccessesLatchClearAndCount
  intro s
  refine ⟨fun m off e w h hl => ?_, fun m off h ha => ⟨fun v hr hv => ?_, fun v hr => ?_, fun hr => ⟨?_, fun wr => ?_⟩, fun hr wr => ?_⟩,
    fun f off wr w h ha => ⟨?_, ?_, ?_⟩⟩
  · have hb : EventBlock (s.beat m) m off e := eventBlock_of_listed (by simpa using hl)
    exact ⟨hb.exec_flags h w, hb.exec_enables h w⟩
  · rw [exec_loWordRead h ha, State.latchRead_lo hr hv]
  · rw [exec_loWordRead h ha, State.latchRead_word hr]
  · rw [exec_loWordRead h ha, State.latchRead_unassigned hr, State.unmapped]
  · rw [exec_unmappedAccess h ha, hr, State.unmapped]
    rfl
  · rw [exec_unmappedAccess h ha, if_neg (by simpa using hr)]
  · exact exec_loWordRead_unaligned h ha
  · exact exec_unmappedAccess_unaligned h ha wr
  · exact exec_registerWrite_unaligned h ha

end Sys2Proof.Machine
end

section
/-! Demand records, their expiry, and the ends of the cable check and of the precharge (01 R14, R23, R27, R32; 07 R180, R184, R185). -/
namespace Sys2Proof.Machine

variable {s : State} {m : Master} {o : Outlet}

/-! ### Time run up to an instant -/

theorem State.le_runTo_cycle (due : Nat) : due ≤ (s.runTo due).clk.cycle := by
  rw [State.runTo_cycle]; exact Nat.le_max_right ..

/-! ### Demand writes (01 R14, R23, R32) -/

theorem State.beat_hasOutlet : (s.beat m).hasOutlet o = s.hasOutlet o := by simp only [State.hasOutlet, State.beat_frame]

/-- A write of a master that is not frozen, to an outlet of the variant with the data plane up, acts by the rights of its master and the form of
the record. -/
theorem exec_demandWrite_up {len off : Nat} {d : Demand} (hs : s.supplied = true) (hz : s.frozen m = false) (ho : s.hasOutlet o = true)
    (hd : s.pwr.dataReady = true) :
    exec (.demandWrite m o len off d) s = .next (
      if m.demands = false then (s.beat m).firewallDrop m (32 * o.val + off) 0
      else if len = 32 ∧ off % 32 = 0 then (s.beat m).demandBeat o d
      else (s.beat m).modOut o fun x => { x with cntMalformed := satInc x.cntMalformed }) := by
  show execDemandWrite m o len off d s = _
  rw [execDemandWrite, State.live_supplied _ hs, State.transact_free _ hz]
  simp [State.beat_hasOutlet, ho, hd]

/-- Nothing is written while the data plane is down. -/
theorem exec_demandWrite_down {len off : Nat} {d : Demand} (hs : s.supplied = true) (hz : s.frozen m = false)
    (hd : s.pwr.dataReady = false) : exec (.demandWrite m o len off d) s = .next (s.beat m) := by
  show execDemandWrite m o len off d s = _
  rw [execDemandWrite, State.live_supplied _ hs, State.transact_free _ hz, if_pos (by simp [hd])]

/-! ### Expiry (01 R27; 07 R180) -/

/-- The grant status of a fitted outlet whose latched record is too old. -/
theorem State.statusOf_recordOld (hc : (s.outCfg o).isSome = true) (hl : (s.jn.get o).latched.isSome = true) (hr : s.recordOld o = true) :
    s.statusOf o = if s.bil.legalUp = true ∧ s.lcs.returnPending = false then 3 else 2 := by
  obtain ⟨c, hc⟩ := Option.isSome_iff_exists.mp hc
  obtain ⟨r, hl⟩ := Option.isSome_iff_exists.mp hl
  simp only [State.statusOf, hc, hl, hr, if_true]
  cases s.bil.legalUp <;> cases s.lcs.returnPending <;> rfl

theorem State.setStatus_kept (h : (s.out.get o).grantStatus = s.statusOf o) : s.setStatus o = s := by
  rw [State.setStatus, if_pos h.symm]

theorem State.setStatus_changed (h : (s.out.get o).grantStatus ≠ s.statusOf o) :
    s.setStatus o = (s.modOut o fun x => { x with grantStatus := s.statusOf o }).writeGrant o := by
  rw [State.setStatus, if_neg (Ne.symm h)]

/-- The state at the expiry of the record that was valid at fleet time `v`. -/
def State.expired (o : Outlet) (v : Nat) (s : State) : State :=
  (s.runToFleet (v + 500000000)).modJn o fun j => { j with expired := true }

theorem State.expired_recordOld {v : Nat} (hv : (s.jn.get o).validAt = some v) (hr : 0 < s.clk.rate) : (s.expired o v).recordOld o = true := by
  have hj : ((s.expired o v).jn.get o).validAt = some v := by simp [State.expired, State.modJn, hv]
  have hn : (s.expired o v).now = (s.runToFleet (v + 500000000)).now := by simp only [State.now, State.expired, State.modJn_frame]
  rw [State.recordOld, hj]
  dsimp only
  rw [hn, decide_eq_true_eq]
  exact State.runToFleet_reaches _ hr

theorem State.expired_statusOf {v : Nat} (hv : (s.jn.get o).validAt = some v) (hc : (s.outCfg o).isSome = true)
    (hl : (s.jn.get o).latched.isSome = true) (hr : 0 < s.clk.rate) :
    (s.expired o v).statusOf o = if s.bil.legalUp = true ∧ s.lcs.returnPending = false then 3 else 2 := by
  have hc' : ((s.expired o v).outCfg o).isSome = true := by
    simpa [State.expired, State.modJn, State.outCfg, State.hasOutlet] using hc
  have hl' : ((s.expired o v).jn.get o).latched.isSome = true := by simp [State.expired, State.modJn, hl]
  rw [State.statusOf_recordOld hc' hl' (State.expired_recordOld hv hr)]
  simp [State.expired, State.modJn]

theorem State.expired_grantStatus (v : Nat) : ((s.expired o v).out.get o).grantStatus = (s.out.get o).grantStatus := by
  simp [State.expired, State.modJn]

theorem exec_recordExpired {v : Nat} (hs : s.supplied = true) (hv : (s.jn.get o).validAt = some v) (hp : s.pwr.controlReady = true)
    (hc : (s.outCfg o).isSome = true) : exec (.recordExpired o) s = .next ((s.expired o v).setStatus o) := by
  show execRecordExpired o s = _
  rw [execRecordExpired, State.live_supplied _ hs, hv]
  dsimp only
  rw [if_pos (by rw [hp, hc]; rfl), State.expired]

/-! ### Cable check and precharge (07 R184, R185) -/

/-- The end of the hold: a track error, else good insulation, decides. -/
theorem exec_cableCheckDone {c : OutletCfg} {h : Nat} (hs : s.supplied = true) (hc : s.outCfg o = some c)
    (hh : (s.out.get o).holdAt = some h) (hst : (s.out.get o).st = .cableCheck) :
    let t := s.runTo (h + ms c.holdMs)
    exec (.cableCheckDone o) s = .next (
      if (s.reg.start.get o).trackError then t.toFault o 6
      else if (s.out.get o).isoGood then (t.stopUp o).go o .precharge
      else t) := by
  have hle : ¬ (s.runTo (h + ms c.holdMs)).clk.cycle < h + ms c.holdMs := Nat.not_lt.mpr (State.le_runTo_cycle _)
  show execCableCheckDone o s = _
  rw [execCableCheckDone, State.live_supplied _ hs, hc, hh]
  dsimp only
  rw [if_pos hst, State.cableDone, State.runTo_outCfg, hc]
  simp [hh, hst, hle]

theorem exec_cableCheckTimeout {c : OutletCfg} (hs : s.supplied = true) (hc : s.outCfg o = some c) (hst : (s.out.get o).st = .cableCheck) :
    exec (.cableCheckTimeout o) s = .next ((s.runTo (s.cableLimit o c)).toFault o 6) := by
  have hl : (s.runTo (s.cableLimit o c)).cableLimit o c = s.cableLimit o c := by
    simp only [State.cableLimit, State.runTo_frame]
  show execCableCheckTimeout o s = _
  rw [execCableCheckTimeout, State.live_supplied _ hs, hc]
  dsimp only
  rw [if_pos hst, State.cableTimeout, State.runTo_outCfg, hc]
  simp [hl, hst, State.le_runTo_cycle]

theorem exec_prechargeTimeout {c : OutletCfg} (hs : s.supplied = true) (hc : s.outCfg o = some c) (hst : (s.out.get o).st = .precharge) :
    exec (.prechargeTimeout o) s = .next (((s.runTo ((s.out.get o).since + ms c.prechargeMs)).stopUp o).finish o .released 7) := by
  show execPrechargeTimeout o s = _
  rw [execPrechargeTimeout, State.live_supplied _ hs, hc]
  dsimp only
  rw [if_pos hst, State.prechargeEnd, State.runTo_outCfg, hc]
  simp [hst, State.le_runTo_cycle]

/-- Settles O28: demand writes by the right of their master and their form, the expiry by the status that it gives, the timers by their instants. -/
theorem recordsAndTheCableCheckDecide : Obligations.RecordsAndTheCableCheckDecide := by
  unfold Obligations.RecordsAndTheCableCheckDecide
  intro s o hs
  refine ⟨fun m len off d hz ho hd => ⟨fun hm hl ha => ?_, fun hm hbad => ?_, fun hm => ?_⟩, fun m len off d hz hd => exec_demandWrite_down hs hz hd,
    fun v hv hp hc hl hr => ?_, fun c hc => ⟨fun h hh hst => ⟨fun ht => ?_, fun ht hi => ?_, fun ht hi => ?_⟩,
      exec_cableCheckTimeout hs hc, exec_prechargeTimeout hs hc⟩⟩
  · rw [exec_demandWrite_up hs hz ho hd, if_neg (by simp [hm]), if_pos ⟨hl, ha⟩, State.demandBeat]
  · rw [exec_demandWrite_up hs hz ho hd, if_neg (by simp [hm]), if_neg (by omega)]
  · rw [exec_demandWrite_up hs hz ho hd, if_pos hm]
  · have hst := State.expired_statusOf hv hc hl hr
    have hg := State.expired_grantStatus (s := s) (o := o) v
    refine ⟨fun hne => ?_, fun heq => ?_⟩
    · rw [exec_recordExpired hs hv hp hc, State.setStatus_changed (by rw [hg, hst]; exact hne), hst]
      rfl
    · rw [exec_recordExpired hs hv hp hc, State.setStatus_kept (by rw [hg, hst]; exact heq)]
      rfl
  · rw [exec_cableCheckDone hs hc hh hst, if_pos ht]
  · rw [exec_cableCheckDone hs hc hh hst, if_neg (by simp [ht]), if_pos hi]
  · rw [exec_cableCheckDone hs hc hh hst, if_neg (by simp [ht]), if_neg (by simp [hi])]

end Sys2Proof.Machine
end

section
/-! What the caddy's commands do: descriptors, requests, tamper (01 R18; 18 R428, R432-R439). -/
namespace Sys2Proof.Machine

variable {s : State} {r : Ring} {d : Desc}

/-! ### Descriptors -/

/-- A due descriptor's effect acts on the state that took it up and gives detail and result of its completion. -/
theorem State.work_effect_due (f : State → Effect) (h : s.due r d = true) :
    s.work r d (·.effect r d f) = (f (s.takeUp r d)).1.complete r d.seq (f (s.takeUp r d)).2.1 (f (s.takeUp r d)).2.2 :=
  State.work_due _ h

/-- A due descriptor whose effect is known is completed with that effect. -/
theorem State.next_work_effect {f : State → Effect} {t : State} {detail : Half} {result : Word} (h : s.due r d = true)
    (hf : f (s.takeUp r d) = (t, detail, result)) :
    (.next (s.work r d (·.effect r d f)) : Host.Outcome State Fault Refusal) = .next (t.complete r d.seq detail result) := by
  rw [State.work_effect_due f h, hf]

/-! ### OTP slots (18 R437) -/

theorem otpIx_of_toNat {i : Fin 16} (h : (d.b 24).toNat = i.val) : otpIx d = i :=
  Fin.ext (by rw [otpIx, h]; exact Nat.mod_eq_of_lt i.isLt)

/-- What KEY_OTP_WRITE leaves in a slot; the read-back decides `void`. -/
def State.otpSlotOf (s : State) (d : Desc) (void : Bool) : OtpSlot :=
  ⟨bitsOf (d.b 25) 0 4, bitsOf (d.b 26) 0 4, BitVec.ofNat 4 (Config.freeNat s.free), bitsOf (d.b 27) 0 5, void, true,
    slotData (s.pageBytes (d.w 28) 64)⟩

/-- A slot that is not programmed takes the content. -/
theorem State.otpWrite_unprogrammed {i : Fin 16} (hi : (d.b 24).toNat = i.val) (hp : (s.key.otp.get i).programmed = false) (verified : Bool) :
    s.otpWrite d verified =
      ((s.useFree.modKey fun k => { k with otp := vmod k.otp i fun _ => s.otpSlotOf d (!verified) }).cond (!verified) (·.raise .key 5), 0,
        if verified then 0 else 1) := by
  have hv : vmod s.key.otp i (fun o => if o.programmed then o else s.otpSlotOf d (!verified)) =
      vmod s.key.otp i fun _ => s.otpSlotOf d (!verified) := vmod_congr _ _ _ _ (by rw [hp]; rfl)
  have hk : (s.useFree.modKey fun k => { k with otp := vmod k.otp i fun o => if o.programmed then o else s.otpSlotOf d (!verified) }) =
      s.useFree.modKey fun k => { k with otp := vmod k.otp i fun _ => s.otpSlotOf d (!verified) } :=
    congrArg (fun v => s.useFree.modKey fun k => { k with otp := v }) hv
  rw [← hk, ← otpIx_of_toNat hi]
  rfl

/-! ### Anchors (18 R435) -/

theorem anchorIx_of_toNat {i : Fin 4} (h : (d.b 24).toNat = i.val + 1) : (Fin.ofNat 4 ((d.b 24).toNat - 1) : Fin 4) = i :=
  Fin.ext (by rw [h]; exact Nat.mod_eq_of_lt i.isLt)

/-- KEY_ANCHOR_SET of a role puts the key's digest into the role's slot and the key into the role's anchor. -/
theorem State.anchorSet_role {i : Fin 4} (h : (d.b 24).toNat = i.val + 1) :
    s.anchorSet d =
      let key := s.pageBytes (d.w 28) (keyLength (d.b 25).toNat)
      let g := Config.sha3 key
      let k := s.anchorSlot i
      ((s.putSlot k (some ⟨4, 0, BitVec.ofNat 4 (d.b 24).toNat, s.lcs.st.code, s.lcs.nt, slotData (leBytes 32 g.toNat)⟩)).useFree.modKey fun x =>
        { x with anchors := vmod x.anchors i fun _ => some ⟨d.b 25, key, g, k⟩ }, 0, BitVec.ofNat 32 k) := by
  simp only [State.anchorSet, anchorIx_of_toNat h]
  rw [h]

theorem State.certFetch_item {item : List Byte} (h : s.certItem d = some item) :
    s.certFetch d = ((s.writePages [d.w 28] item).useFree, 0, BitVec.ofNat 32 item.length) := by
  rw [State.certFetch, h]

/-! ### Requests (01 R18) -/

theorem exec_caddyRequest (h : s.supplied = true) (arrivals : List (Fin 4 × CaddyReq)) :
    exec (.caddyRequest arrivals) s = .next (arrivals.foldl (fun t a => t.caddyJoin a.1 a.2) s).serveNext := by
  show execCaddyRequest arrivals s = _
  rw [execCaddyRequest, State.live_supplied _ h]

theorem State.serveNext_idle (h : s.nextQueue = none) : s.serveNext = s := by rw [State.serveNext, h]

theorem State.serveNext_front {q : Fin 4} {x : CaddyReq} {rest : List CaddyReq} (hq : s.nextQueue = some q)
    (hx : s.key.queues.get q = x :: rest) :
    s.serveNext = (s.modKey fun k => { k with queues := vmod k.queues q fun _ => rest, turn := Fin.ofNat 4 (q.val + 1) }).caddyServe q x := by
  simp only [State.serveNext, hq, hx]

/-! ### Tamper (18 R428) -/

/-- The bit of a cause that shows. -/
def tamperFlag (k : Nat) (p : Bool) : BitVec 5 := if p = true then bit 5 k else 0

/-- The five causes of 18 R428: mesh, light, temperature, voltage, switch. -/
theorem State.tamperCause_eq (s : State) (x : TamperIn) :
    s.tamperCause x = tamperFlag 0 (decide (x.drive.get 0 ≠ x.ret.get 0 ∧ x.drive.get 1 ≠ x.ret.get 1)) ||| tamperFlag 1 x.light |||
      tamperFlag 2 (decide (x.temp < -50 ∨ 135 < x.temp)) |||
      tamperFlag 3 (decide (x.vbak < 1300 ∨ 3000 < x.vbak ∨ (s.supplied = true ∧ x.core < 600))) |||
      tamperFlag 4 (decide (x.swLow &&& s.key.swEn ≠ 0 ∧ 100000 ≤ x.swHeld)) := by
  simp only [State.tamperCause, tamperFlag, bne, Bool.decide_and, Bool.decide_or, Bool.or_assoc, Bool.decide_eq_true, ne_eq, decide_not,
    Bool.beq_eq_decide_eq]

/-- A cause zeroes the key memory of an A8T outside SHIP; a mesh cause leaves its tamper record too. -/
theorem exec_keyTamper_zeroizes {x : TamperIn} (hv : s.glb.variant = .a8t) (hc : s.tamperCause x ≠ 0) (hm : s.pwr.mode ≠ .ship) :
    exec (.keyTamper x) s =
      let t := (s.modKey fun k => { k with tamper := k.tamper ||| s.tamperCause x, zeroized := true, rootOk := false }).raiseAt
        .key 0 0 (s.tamperCause x).toNat 0
      .next (if (s.tamperCause x).getLsbD 0 = true then t.tamperEvent 8 s.now else t) := by
  show execKeyTamper x s = _
  rw [execKeyTamper]
  dsimp only
  rw [if_neg (by simpa using ⟨⟨hv, hc⟩, hm⟩), State.cond]

theorem exec_keyTamper_idle {x : TamperIn} (h : s.glb.variant ≠ .a8t ∨ s.tamperCause x = 0 ∨ s.pwr.mode = .ship) :
    exec (.keyTamper x) s = .next s := by
  show execKeyTamper x s = _
  rw [execKeyTamper]
  dsimp only
  rw [if_pos (by simpa [or_assoc] using h)]

/-- Settles O52: each descriptor by its effect, the requests by the queue in turn, tamper by its causes. -/
theorem theCaddyServesItsCommands : Obligations.TheCaddyServesItsCommands := by
  unfold Obligations.TheCaddyServesItsCommands
  intro s
  refine ⟨fun r d h => ?_, fun h arrivals => ?_, fun x => ?_⟩
  · refine ⟨State.next_work_effect h rfl, State.next_work_effect h rfl, fun i hi hp => ?_, fun i hi => ?_, State.next_work_effect h rfl,
      fun item hitem => State.next_work_effect h (State.certFetch_item hitem), State.next_work_effect h rfl⟩
    · exact ⟨BitVec.ofNat 4 (Config.freeNat s.free), State.next_work_effect h (State.otpWrite_unprogrammed (s := s.takeUp r d) hi hp true),
        State.next_work_effect h (State.otpWrite_unprogrammed (s := s.takeUp r d) hi hp false)⟩
    · exact State.next_work_effect h (State.anchorSet_role hi)
  · exact ⟨exec_caddyRequest h arrivals, State.serveNext_idle, fun q x rest hq hx => State.serveNext_front hq hx⟩
  · intro flag c
    have hc : c = s.tamperCause x := (State.tamperCause_eq s x).symm
    clear_value c
    subst hc
    exact ⟨exec_keyTamper_zeroizes, exec_keyTamper_idle⟩

end Sys2Proof.Machine
end

section
/-! What becomes of a frame that arrives: the checks that discard it, in their order (02 R38-R41, R49; 21 R488). -/
namespace Sys2Proof.Machine

variable {s : State} {p : Port} {h : Hdr}

/-! ### The checks of a frame -/

/-- The port is in HELLO or ACTIVE, where it judges the frames that arrive (02 R49). -/
def State.listens (s : State) (p : Port) : Prop := (s.rgt.port.get p).st = .hello ∨ (s.rgt.port.get p).st = .active

/-- At a port that does not listen only the invalid code groups of a frame are counted. -/
theorem State.rx_deaf (f : State → State) (hp : ¬ s.listens p) : s.rx p h f = s.codeErrors p h.codeErrs := by
  rw [State.listens, not_or] at hp
  obtain ⟨hh, ha⟩ := hp
  rw [State.rx]
  exact if_pos (by simpa [State.codeErrors] using ⟨hh, ha⟩)

/-- A port that listens judges a frame by its ABORT, then its checksum, then its hops and length. -/
theorem State.rx_listens (f : State → State) (hp : s.listens p) :
    s.rx p h f =
      if h.aborted then (s.codeErrors p h.codeErrs).modPort p fun t => { t with cntAbort := satInc t.cntAbort }
      else if !h.crcOk then (s.codeErrors p h.codeErrs).modPort p fun t => { t with cntCrc := satInc t.cntCrc }
      else if h.hops = h.hopLimit || !h.framed then (s.codeErrors p h.codeErrs).modPort p fun t => { t with cntDrop := satInc t.cntDrop }
      else f (s.received p h) := by
  rw [State.rx]
  exact if_neg (by rcases hp with hp | hp <;> simp [State.codeErrors, hp])

/-- Every command that is the arrival of a frame hands its frame to the checks. -/
theorem exec_arrival {c : Instr} (hs : s.supplied = true) (hc : arrival c = some (p, h)) :
    ∃ f : State → State, exec c s = .next (s.rx p h f) := by
  unfold arrival at hc
  split at hc <;> cases hc <;> exact ⟨_, State.live_supplied _ hs⟩

/-- Settles O11: the command hands its frame to the checks, and each check that fails ends the matter. -/
theorem receivedFramesAreJudgedFirst : Obligations.ReceivedFramesAreJudgedFirst := by
  unfold Obligations.ReceivedFramesAreJudgedFirst
  intro s c p h hs hc
  obtain ⟨f, hf⟩ := exec_arrival hs hc
  refine ⟨fun hp => ?_, fun hp ha => ?_, fun hp ha hk => ?_, fun hp ha hk hd => ?_⟩
  · rw [hf, State.rx_deaf f hp]
    rfl
  · rw [hf, State.rx_listens f hp, if_pos ha]
    rfl
  · rw [hf, State.rx_listens f hp, if_neg (by simp [ha]), if_pos (by simp [hk])]
    rfl
  · rw [hf, State.rx_listens f hp, if_neg (by simp [ha]), if_neg (by simp [hk]), if_pos (by simpa using hd)]
    rfl

end Sys2Proof.Machine
end

section
/-! Joining the crew and leaving it (02 R57-R59). -/
namespace Sys2Proof.Machine

variable {s : State} {p : Port} {h : Hdr} {b : JoinBody}

/-! ### What a frame taken in leaves of the state -/

theorem State.received_rgt : (s.received p h).rgt =
    { s.rgt with port := vmod s.rgt.port p fun t => { t with lastValid := s.clk.cycle, echoTx := h.txTime, echoRx := s.now } } := rfl

theorem State.received_forMe : (s.received p h).forMe h = s.forMe h := rfl

/-- A message that leaves the inbox leaves the rest of the link as it is. -/
theorem State.takeMsg_inbox (kind : Half) : ∃ l, s.takeMsg kind = s.modRgt fun g => { g with inbox := l } := by
  cases hi : s.rgt.inbox.findIdx? fun m => m.kind == kind with
  | some i => exact ⟨s.rgt.inbox.eraseIdx i, by simp only [State.takeMsg, State.modRgt, hi]⟩
  | none => exact ⟨s.rgt.inbox, by simp only [State.takeMsg, State.modRgt, hi]⟩

/-! ### JOIN (02 R57) -/

/-- The port by which a controller that is not admitted speaks to its crew. -/
def State.joinPort (s : State) : Option Port := if s.admitted then none else (List.finRange 4).find? fun p => (s.peer p).isSome

theorem State.joinPort_none (hn : s.rgt.role ≠ .notAdmitted ∨ ∀ p, s.peer p = none) : s.joinPort = none := by
  rw [State.joinPort]
  rcases hn with hn | hn
  · exact if_pos (by rw [State.admitted]; exact bne_iff_ne.mpr hn)
  · have hf : ((List.finRange 4).find? fun p => (s.peer p).isSome) = none :=
      List.find?_eq_none.mpr fun q _ => by rw [hn q]; exact Bool.false_ne_true
    rw [hf, ite_self]

/-- A search over all indices in order finds the lowest one. -/
theorem find?_finRange_eq_some_iff {n : Nat} {f : Fin n → Bool} {i : Fin n} :
    (List.finRange n).find? f = some i ↔ f i = true ∧ ∀ j < i, f j = false := by
  rw [List.find?_eq_some_iff_getElem]
  simp only [List.getElem_finRange, List.length_finRange, Bool.not_eq_true']
  constructor
  · rintro ⟨hi, k, hk, rfl, hlow⟩
    exact ⟨hi, fun j hj => hlow j.val hj⟩
  · rintro ⟨hi, hlow⟩
    exact ⟨hi, i.val, i.isLt, rfl, fun j hj => hlow ⟨j, Nat.lt_trans hj i.isLt⟩ hj⟩

/-- It is the lowest port with a crew neighbour. -/
theorem State.joinPort_lowest (hr : s.rgt.role = .notAdmitted) (hp : (s.peer p).isSome = true) (hq : ∀ q < p, s.peer q = none) :
    s.joinPort = some p := by
  rw [State.joinPort, if_neg (by rw [State.admitted, hr]; decide), find?_finRange_eq_some_iff]
  exact ⟨hp, fun q hlt => by rw [hq q hlt]; rfl⟩

theorem State.sendJoin_nowhere (g : Digest) (hn : s.joinPort = none) : s.sendJoin g = s := by
  rw [State.joinPort] at hn
  rw [State.sendJoin, hn]

theorem State.sendJoin_by (g : Digest) (hp : s.joinPort = some p) :
    s.sendJoin g = (s.sendMessage p (some (s.alc.stroke, s.rgt.crew)) (.join ⟨s.rgt.id, s.rgt.crew, s.ownPair, s.now, g, true⟩)).modRgt fun x =>
      { x with joining := true, lastJoin := some s.clk.cycle } := by
  rw [State.joinPort] at hp
  rw [State.sendJoin, hp]
  rfl

theorem exec_join (hs : s.supplied = true) (g : Digest) : exec (.join g) s = .next (s.sendJoin g) := State.live_supplied _ hs

theorem exec_joinRepeat {t : Nat} (hs : s.supplied = true) (g : Digest) (hj : s.rgt.joining = true) (hr : s.rgt.lastRefuse ≠ 0)
    (ht : s.rgt.lastJoin = some t) : exec (.joinRepeat g) s = .next ((s.runTo (t + sec 1)).sendJoin g) := by
  show execJoinRepeat g s = _
  have hb : (s.rgt.joining && s.rgt.lastRefuse != 0) = true := by rw [hj]; exact bne_iff_ne.mpr hr
  rw [execJoinRepeat, State.live_supplied _ hs, hb, ht]

/-! ### The Stroke's answer (02 R58) -/

/-- The reasons to refuse look at the members, the crew, the image and the time alone. -/
theorem State.joinReason_congr {t : State} (hm : t.rgt.members = s.rgt.members) (hc : t.rgt.crew = s.rgt.crew) (hi : t.cfg = s.cfg)
    (ht : t.now = s.now) : t.joinReason b = s.joinReason b := by
  simp only [State.joinReason, hm, hc, hi, ht]

theorem State.joinReason_signature (ho : b.sigOk = false) : s.joinReason b = 1 := by simp [State.joinReason, ho]

theorem State.joinReason_unlisted (ho : b.sigOk = true) (hl : ¬ s.cfg.active.lists b.id b.identity = true) : s.joinReason b = 2 := by
  simp [State.joinReason, ho, hl]

theorem State.joinReason_member (ho : b.sigOk = true) (hl : s.cfg.active.lists b.id b.identity = true)
    (hm : (s.rgt.members.any fun m => m.id == b.id) = true) : s.joinReason b = 3 := by
  rw [State.joinReason, if_neg (by simp [ho]), if_neg (by simp [hl]), if_pos hm]

/-- An identity that is listed and no member is judged by its crew, then by its signing time. -/
theorem State.joinReason_newcomer (ho : b.sigOk = true) (hl : s.cfg.active.lists b.id b.identity = true)
    (hm : ¬ (s.rgt.members.any fun m => m.id == b.id) = true) :
    s.joinReason b = if b.crew ≠ s.rgt.crew then 4 else if 1000000000 < ((b.signTime : Int) - s.now).natAbs then 5 else 0 := by
  rw [State.joinReason, if_neg (by simp [ho]), if_neg (by simp [hl]), if_neg hm]
  simp

/-- The Stroke at which a JOIN has arrived: the message is out of the inbox, and a sender on a GUEST port is noted as a guest. -/
def State.joinArrived (p : Port) (h : Hdr) (b : JoinBody) (s : State) : State :=
  let t := (s.received p h).takeMsg 1
  if (t.rgt.port.get p).role = .guest then t.modRgt fun g => { g with guests := (b.id, p) :: g.guests.filter fun x => x.1 != b.id } else t

/-- Besides the arrival of the frame only the inbox and the guests change. -/
theorem State.joinArrived_notes :
    ∃ l gs, s.joinArrived p h b = (s.received p h).modRgt fun g => { g with inbox := l, guests := gs } := by
  obtain ⟨l, hl⟩ := State.takeMsg_inbox (s := s.received p h) 1
  rw [State.joinArrived, hl]
  split
  · exact ⟨l, (b.id, p) :: s.rgt.guests.filter fun x => x.1 != b.id, rfl⟩
  · exact ⟨l, s.rgt.guests, rfl⟩

theorem State.joinArrived_joinReason : (s.joinArrived p h b).joinReason b = s.joinReason b := by
  obtain ⟨l, gs, hn⟩ := State.joinArrived_notes (s := s) (p := p) (h := h) (b := b)
  have hr : (s.received p h).joinReason b = s.joinReason b := State.joinReason_congr rfl rfl rfl rfl
  rw [hn, ← hr]
  exact State.joinReason_congr rfl rfl rfl rfl

theorem State.joinArrived_round : (s.joinArrived p h b).round = s.round := by
  obtain ⟨l, gs, hn⟩ := State.joinArrived_notes (s := s) (p := p) (h := h) (b := b)
  have hr : (s.received p h).round = s.round := rfl
  rw [hn, ← hr]
  rfl

/-- The Stroke refuses with a reason, or admits from a round that it chooses. -/
theorem exec_joinReceive (hs : s.supplied = true) (ha : s.accepts .cfg p h = true) (hm : s.forMe h = true) (hr : s.rgt.role = .stroke) :
    let u := s.joinArrived p h b
    let r := u.round + 2 + Config.freeNat u.free
    exec (.joinReceive p h b) s = .next (
      if u.joinReason b ≠ 0 then
        (u.sendCfg (b.id, b.crew) (.joinRefuse b.id (BitVec.ofNat 8 (u.joinReason b)))).journal 6 0x43 b.id.toNat (u.joinReason b) b.crew.toNat 0
      else
        ((u.useFree.modRgt fun g => { g with members := g.members ++ [⟨b.id, r, none, r⟩] }).sendCfg (b.id, b.crew) (.joinAck b.id r)).copyAck
          (.joinAck b.id r)) := by
  show execJoinReceive p h b s = _
  rw [execJoinReceive, State.live_supplied _ hs, State.rxClass_accepts _ ha, if_neg (by simp [State.received_rgt, hr, State.received_forMe, hm])]
  rfl

theorem exec_joinReceive_refused {k : Nat} (hs : s.supplied = true) (ha : s.accepts .cfg p h = true) (hm : s.forMe h = true)
    (hr : s.rgt.role = .stroke) (hk : s.joinReason b = k) (h0 : k ≠ 0) :
    exec (.joinReceive p h b) s = .next (((s.joinArrived p h b).sendCfg (b.id, b.crew) (.joinRefuse b.id (BitVec.ofNat 8 k))).journal
      6 0x43 b.id.toNat k b.crew.toNat 0) := by
  rw [exec_joinReceive hs ha hm hr, State.joinArrived_joinReason, hk, if_pos h0]

/-! ### LEAVE and removals (02 R59) -/

theorem exec_leave (hs : s.supplied = true) (ha : s.accepts .cfg p h = true) (hm : s.forMe h = true) (hr : s.rgt.role = .stroke)
    (hk : (s.received p h).joinReason b = 3) (hc : b.crew = s.rgt.crew) (ht : ((b.signTime : Int) - s.now).natAbs ≤ 1000000000) :
    let t := (s.received p h).takeMsg 4
    let r := t.round + 1 + Config.freeNat t.free
    exec (.leave p h b) s = .next (((t.useFree.modRgt fun g =>
      { g with members := g.members.map fun m => if m.id = b.id then { m with removal := some r } else m }).sendCfg (b.id, b.crew)
        (.leaveAck b.id r)).copyAck (.leaveAck b.id r)) := by
  have hn : (s.received p h).now = s.now := rfl
  show execLeave p h b s = _
  rw [execLeave, State.live_supplied _ hs, State.rxClass_accepts _ ha]
  dsimp only
  rw [if_neg (by simp [State.received_rgt, hr, State.received_forMe, hm, hk, hc, hn, ht])]

theorem exec_admissionRound_none (hs : s.supplied = true) (hr : s.rgt.admitRound = none) : exec .admissionRound s = .next s := by
  show execAdmissionRound s = _
  rw [execAdmissionRound, State.live_supplied _ hs, hr]

theorem exec_admissionRound_some {r : Nat} (hs : s.supplied = true) (hr : s.rgt.admitRound = some r) :
    exec .admissionRound s = .next (((s.runToFleet (r * Config.roundNs)).modRgt fun g =>
      { g with role := if s.alc.bow = some s.rgt.id then .bow else .member, admitRound := none, fromRound := r }).recompute) := by
  show execAdmissionRound s = _
  rw [execAdmissionRound, State.live_supplied _ hs, hr]
  simp only [State.memberRole, State.runToFleet_frame]

theorem exec_removalRound {r : Nat} {l : List Nat} (hs : s.supplied = true)
    (hl : s.rgt.removeRound.toList ++ s.rgt.members.filterMap (·.removal) = r :: l) :
    exec .removalRound s = .next (s.runToFleet (l.foldl min r * Config.roundNs)).removals := by
  show execRemovalRound s = _
  rw [execRemovalRound, State.live_supplied _ hs, hl]

/-- Settles O9: the port of a JOIN, the reasons of a refusal in their order, the rounds of admission and removal. -/
theorem controllersJoinAndLeave : Obligations.ControllersJoinAndLeave := by
  unfold Obligations.ControllersJoinAndLeave
  intro s hs
  refine ⟨fun g => ⟨fun hn => ?_, fun p hr hp hq => ?_, fun t hj hr ht => exec_joinRepeat hs g hj hr ht⟩,
    fun p h b ha hm hr => ⟨fun ho => ?_, fun ho hl => ?_, fun ho hl hb => ?_, fun ho hl hb hc => ?_, fun ho hl hb hc hlate => ?_,
      fun ho hl hb hc hlate => ?_⟩,
    fun r hr => exec_admissionRound_some hs hr, exec_admissionRound_none hs, fun p h b ha hm hr hk hc ht => ?_, fun r l hl => exec_removalRound hs hl⟩
  · rw [exec_join hs, State.sendJoin_nowhere g (State.joinPort_none hn)]
  · rw [exec_join hs, State.sendJoin_by g (State.joinPort_lowest hr hp hq)]
  · exact exec_joinReceive_refused hs ha hm hr (State.joinReason_signature ho) (by decide)
  · exact exec_joinReceive_refused hs ha hm hr (State.joinReason_unlisted ho hl) (by decide)
  · exact exec_joinReceive_refused hs ha hm hr (State.joinReason_member ho hl hb) (by decide)
  · exact exec_joinReceive_refused hs ha hm hr ((State.joinReason_newcomer ho hl hb).trans (if_pos hc)) (by decide)
  · have hk : s.joinReason b = 5 := by rw [State.joinReason_newcomer ho hl hb, if_neg (not_not_intro hc), if_pos hlate]
    exact exec_joinReceive_refused hs ha hm hr hk (by decide)
  · have hk : s.joinReason b = 0 := by rw [State.joinReason_newcomer ho hl hb, if_neg (not_not_intro hc), if_neg hlate]
    refine ⟨Config.freeNat (s.joinArrived p h b).free, ?_⟩
    rw [exec_joinReceive hs ha hm hr, State.joinArrived_joinReason, hk, if_neg (not_not_intro rfl), State.joinArrived_round]
    rfl
  · refine ⟨Config.freeNat ((s.received p h).takeMsg 4).free, ?_⟩
    obtain ⟨i, hi⟩ := State.takeMsg_inbox (s := s.received p h) 4
    have hround : ((s.received p h).takeMsg 4).round = s.round := by rw [hi]; rfl
    rw [exec_leave hs ha hm hr hk hc ht, hround]

end Sys2Proof.Machine
end

section
/-! Frames for others, CFG messages in segments, acknowledgements and refusals (02 R39, R43, R56, R57, R59). -/
namespace Sys2Proof.Machine

variable {s : State} {p : Port} {h : Hdr}

/-! ### Forwarding (02 R39, R43, R57) -/

/-- The port by which a frame leaves: for a CFG frame to a guest the GUEST port, otherwise the route. -/
def State.forwardPort (c : RgtClass) (d : CtrlId) (s : State) : Option Port :=
  ((if c = .cfg then s.rgt.guests.find? fun g => g.1 == d else none).map (·.2)) <|> s.routeTo d

theorem State.forwardPort_eq (c : RgtClass) (d : CtrlId) :
    (if c = .cfg then s.cfgPort d else s.routeTo d) = s.forwardPort c d := by
  rw [State.forwardPort]
  split
  · rw [State.cfgPort]
    cases s.rgt.guests.find? fun g => g.1 == d <;> rfl
  · rfl

theorem exec_frameForward_undefined {body : Payload} (hs : s.supplied = true) (hd : body.defined = false) (ht : s.takesIn p h = true) :
    exec (.frameForward p h body) s = .next ((s.received p h).modPort p fun x => { x with cntDrop := satInc x.cntDrop }) := by
  show execFrameForward p h body s = _
  rw [execFrameForward, State.live_supplied _ hs, if_pos (by rw [hd]; rfl), State.rx_takesIn _ ht]

theorem exec_frameForward_kept {body : Payload} (hs : s.supplied = true) (hd : body.defined = true)
    (hk : body.cls = .alloc ∨ body.cls = .safe ∨ s.forMe h = true) : exec (.frameForward p h body) s = .next s := by
  show execFrameForward p h body s = _
  rw [execFrameForward, State.live_supplied _ hs, if_neg (by simp [hd]), if_pos (by simpa [or_assoc] using hk)]

section
variable {body : Payload} {d : CtrlId × BitVec 4} (hs : s.supplied = true) (hd : body.defined = true) (hc : body.cls = .cfg ∨ body.cls = .data)
  (hm : s.forMe h = false) (ha : s.accepts body.cls p h = true) (hdest : h.dest = some d)
include hs hd hc hm ha hdest

/-- A CFG or DATA frame for another controller goes on by its port, one hop further, where that port carries it. -/
theorem exec_frameForward_by {q : Port} (hq : (s.received p h).forwardPort body.cls d.1 = some q) :
    let t := s.received p h
    exec (.frameForward p h body) s = .next (
      if (t.rgt.port.get q).carries body.cls = true ∧ (body.cls = .cfg ∨ t.admitted = true) then
        t.handOver q ⟨h.src, h.crew, h.dest, h.seq, h.hops + 1, h.hopLimit, h.hopLocal, body, false⟩
      else t) := by
  have hn : ¬ (body.cls = .alloc || body.cls = .safe || s.forMe h) = true := by rcases hc with hc | hc <;> simp [hc, hm]
  show execFrameForward p h body s = _
  rw [execFrameForward, State.live_supplied _ hs, if_neg (by simp [hd]), if_neg hn, State.rxClass_accepts _ ha]
  simp only [State.forwardPort_eq, hq, hdest, Bool.and_eq_true, Bool.or_eq_true, decide_eq_true_eq]

/-- Without a port it stays. -/
theorem exec_frameForward_unrouted (hq : (s.received p h).forwardPort body.cls d.1 = none) :
    exec (.frameForward p h body) s = .next (s.received p h) := by
  have hn : ¬ (body.cls = .alloc || body.cls = .safe || s.forMe h) = true := by rcases hc with hc | hc <;> simp [hc, hm]
  show execFrameForward p h body s = _
  rw [execFrameForward, State.live_supplied _ hs, if_neg (by simp [hd]), if_neg hn, State.rxClass_accepts _ ha]
  simp only [State.forwardPort_eq, hq, hdest]

end

/-! ### CFG messages in segments (02 R56) -/

section
variable {kind : Half} {msgId : Word} {index count : Nat} {bytes : List Byte}

theorem exec_cfgSegmentReceive_ignored (hs : s.supplied = true) (ha : s.accepts .cfg p h = true)
    (hi : s.forMe h = false ∨ cfgSegmentOk index count bytes = false) :
    exec (.cfgSegmentReceive p h kind msgId index count bytes) s = .next (s.received p h) := by
  show execCfgSegmentReceive p h kind msgId index count bytes s = _
  rw [execCfgSegmentReceive, State.live_supplied _ hs, State.rxClass_accepts _ ha, if_pos (by simpa [State.received_forMe] using hi)]

/-- The segments of a message that has arrived so far, with a new one. -/
def CfgAsm.withSegment (index : Nat) (bytes : List Byte) (a : CfgAsm) : List (Nat × List Byte) :=
  (index, bytes) :: a.got.filter fun x => x.1 != index

/-- The assembly that a segment belongs to: the one begun, or a new one. -/
def State.assembly (h : Hdr) (kind : Half) (msgId : Word) (count : Nat) (s : State) : CfgAsm :=
  (s.rgt.asm.find? fun a => a.src == h.src && a.msgId == msgId).getD ⟨h.src, msgId, kind, count, [], s.clk.cycle⟩

/-- A segment is stored with its message, or completes it. -/
theorem exec_cfgSegmentReceive_taken (hs : s.supplied = true) (ha : s.accepts .cfg p h = true) (hm : s.forMe h = true)
    (hk : cfgSegmentOk index count bytes = true) :
    let t := (s.received p h).dropStale
    let same : CfgAsm → Bool := fun a => a.src == h.src && a.msgId == msgId
    let old := t.assembly h kind msgId count
    let got := old.withSegment index bytes
    exec (.cfgSegmentReceive p h kind msgId index count bytes) s = .next (
      if got.length = old.count then t.modRgt fun g =>
        { g with asm := g.asm.filter (fun a => !same a),
                 inbox := g.inbox ++ [⟨h.src, msgId, old.kind, ((List.range old.count).map fun i => ((got.find? fun x => x.1 == i).map (·.2)).getD []).flatten⟩] }
      else t.modRgt fun g => { g with asm := { old with got := got } :: g.asm.filter fun a => !same a }) := by
  show execCfgSegmentReceive p h kind msgId index count bytes s = _
  rw [execCfgSegmentReceive, State.live_supplied _ hs, State.rxClass_accepts _ ha, if_neg (by simp [State.received_forMe, hm, hk])]
  rfl

end

theorem exec_cfgMessageTimeout_none (hs : s.supplied = true) (ha : s.rgt.asm = []) : exec .cfgMessageTimeout s = .next s := by
  show execCfgMessageTimeout s = _
  rw [execCfgMessageTimeout, State.live_supplied _ hs, ha]

theorem exec_cfgMessageTimeout_some {a : CfgAsm} {l : List CfgAsm} (hs : s.supplied = true) (ha : s.rgt.asm = a :: l) :
    exec .cfgMessageTimeout s = .next (s.runTo (l.foldl (fun m x => min m x.since) a.since + ms 100)).dropStale := by
  show execCfgMessageTimeout s = _
  rw [execCfgMessageTimeout, State.live_supplied _ hs, ha]

/-! ### Acknowledgements, refusals, removals (02 R57, R59) -/

/-- Taking a message out of the inbox leaves everything that the answers look at. -/
theorem State.takeMsg_frame (kind : Half) :
    (s.takeMsg kind).rgt.id = s.rgt.id ∧ (s.takeMsg kind).rgt.role = s.rgt.role ∧ (s.takeMsg kind).rgt.joining = s.rgt.joining ∧
      (s.takeMsg kind).cfg = s.cfg := by
  obtain ⟨l, hl⟩ := State.takeMsg_inbox (s := s) kind
  rw [hl]
  exact ⟨rfl, rfl, rfl, rfl⟩

theorem exec_joinAck (hs : s.supplied = true) (id : CtrlId) (round : Nat) :
    let t := s.takeMsg 2
    exec (.joinAck id round) s = .next (
      if id = s.rgt.id then
        if s.rgt.joining = true then t.modRgt fun g => { g with admitRound := some round, joining := false, lastRefuse := 0 } else t
      else if s.rgt.role = .bow ∨ s.cfg.active.umpire = .ctrl s.rgt.id then
        t.modRgt fun g => { g with members := ⟨id, round, none, round⟩ :: g.members.filter fun m => m.id != id }
      else t) := by
  show execJoinAck id round s = _
  rw [execJoinAck, State.live_supplied _ hs]
  simp only [State.takeMsg_frame, Bool.or_eq_true, decide_eq_true_eq]

theorem exec_joinRefuse (hs : s.supplied = true) (id : CtrlId) (reason : Byte) :
    exec (.joinRefuse id reason) s = .next (
      if id = s.rgt.id ∧ s.rgt.joining = true then (s.takeMsg 3).modRgt fun g => { g with lastRefuse := reason } else s.takeMsg 3) := by
  show execJoinRefuse id reason s = _
  rw [execJoinRefuse, State.live_supplied _ hs]
  simp only [State.takeMsg_frame, Bool.and_eq_true, decide_eq_true_eq]

theorem exec_leaveAck (hs : s.supplied = true) (id : CtrlId) (round : Nat) :
    exec (.leaveAck id round) s = .next (
      if id = s.rgt.id then (s.takeMsg 5).modRgt fun g => { g with removeRound := some round }
      else (s.takeMsg 5).modRgt fun g =>
        { g with members := g.members.map fun m => if m.id = id then { m with removal := some round } else m }) := by
  show execLeaveAck id round s = _
  rw [execLeaveAck, State.live_supplied _ hs]
  simp only [State.takeMsg_frame]

/-- The controller itself is removed at the end of the rounds without an UP of its own, unless it is the Stroke or no member. -/
theorem exec_memberRemoved_self (hs : s.supplied = true) :
    exec (.memberRemoved s.rgt.id) s = .next (
      if s.admitted = false ∨ s.rgt.role = .stroke then s
      else ((s.runToFleet ((s.alc.upSentRound.getD s.rgt.fromRound + 4001) * Config.roundNs)).modRgt fun g =>
        { g with role := .notAdmitted, removeRound := none }).recompute) := by
  show execMemberRemoved s.rgt.id s = _
  rw [execMemberRemoved, State.live_supplied _ hs, if_pos rfl]
  simp only [Bool.or_eq_true, Bool.not_eq_true', decide_eq_true_eq]

theorem exec_memberRemoved_member {id : CtrlId} {m : MemberRec} (hs : s.supplied = true) (hi : id ≠ s.rgt.id)
    (hm : (s.rgt.members.find? fun m => m.id == id) = some m) :
    exec (.memberRemoved id) s =
      .next ((s.runToFleet ((m.heard + 4001) * Config.roundNs)).modRgt fun g => { g with members := g.members.filter fun m => m.id != id }) := by
  show execMemberRemoved id s = _
  rw [execMemberRemoved, State.live_supplied _ hs, if_neg hi, hm]

theorem exec_memberRemoved_unknown {id : CtrlId} (hs : s.supplied = true) (hi : id ≠ s.rgt.id)
    (hm : (s.rgt.members.find? fun m => m.id == id) = none) : exec (.memberRemoved id) s = .next s := by
  show execMemberRemoved id s = _
  rw [execMemberRemoved, State.live_supplied _ hs, if_neg hi, hm]

/-- Settles O10: each clause is a branch of its command, taken with what the command's lemma says of it. -/
theorem messagesAreForwardedAndAssembled : Obligations.MessagesAreForwardedAndAssembled := by
  unfold Obligations.MessagesAreForwardedAndAssembled
  intro s hs
  refine ⟨fun p h body => ⟨exec_frameForward_undefined hs, exec_frameForward_kept hs, fun hd hc hm ha d hdest => ⟨fun q hq hmay => ?_, fun q hq hmay => ?_,
      exec_frameForward_unrouted hs hd hc hm ha hdest⟩⟩,
    fun p h kind msgId index count bytes ha => ⟨exec_cfgSegmentReceive_ignored hs ha, fun hm hk => ⟨fun hlen => ?_, fun hlen => ?_⟩⟩,
    exec_cfgMessageTimeout_none hs, fun a l => exec_cfgMessageTimeout_some hs,
    fun id round => ⟨fun hi hj => ?_, fun hi hj => ?_, fun hi hw => ?_, fun hi hb hu => ?_⟩, fun id reason => ⟨fun hw => ?_, fun hw => ?_⟩,
    fun id round => ⟨fun hi => ?_, fun hi => ?_⟩,
    fun id => ⟨fun hi ha hr => ?_, fun hi hw => ?_, fun hi m => exec_memberRemoved_member hs hi, exec_memberRemoved_unknown hs⟩⟩
  · exact (exec_frameForward_by hs hd hc hm ha hdest hq).trans (congrArg _ (if_pos hmay))
  · exact (exec_frameForward_by hs hd hc hm ha hdest hq).trans (congrArg _ (if_neg hmay))
  · exact (exec_cfgSegmentReceive_taken hs ha hm hk).trans (congrArg _ (if_pos hlen))
  · exact (exec_cfgSegmentReceive_taken hs ha hm hk).trans (congrArg _ (if_neg hlen))
  · rw [exec_joinAck hs, if_pos hi, if_pos hj]
  · rw [exec_joinAck hs, if_pos hi, if_neg (by simp [hj])]
  · rw [exec_joinAck hs, if_neg hi, if_pos hw]
  · rw [exec_joinAck hs, if_neg hi, if_neg (not_or.mpr ⟨hb, hu⟩)]
  · rw [exec_joinRefuse hs, if_pos hw]
  · rw [exec_joinRefuse hs, if_neg fun hc => hw.elim (· hc.1) fun hj => Bool.false_ne_true (hj.symm.trans hc.2)]
  · rw [exec_leaveAck hs, if_pos hi]
  · rw [exec_leaveAck hs, if_neg hi]
  · rw [hi, exec_memberRemoved_self hs, if_neg (by simp [ha, hr])]
  · rw [hi, exec_memberRemoved_self hs, if_pos hw]

end Sys2Proof.Machine
end

section
/-! The ports: their enables, their state machine and the PROBE frames (02 R37, R48-R50, R54, R67). -/
namespace Sys2Proof.Machine

variable {s : State} {p : Port}

/-! ### Port enables (02 R49, R67) -/

/-- A granted write sets the enables at the master's beat; a port that they switch on or off changes its state. -/
theorem exec_portEnWrite_granted {m : Master} (hs : s.supplied = true) (hz : s.frozen m = false) (hm : m.isMgmt = true)
    (hi : m.isInteg = false) (hl : s.lcs.lock = false) (hr : s.pwr.controlReady = true) (w : Word) :
    let u := (s.beat m).modPort p fun x => { x with en := w.getLsbD 0, media := w.getLsbD 1, allocOk := w.getLsbD 2 }
    exec (.portEnWrite m p w) s = .next (
      if w.getLsbD 0 = true ∧ (s.rgt.port.get p).en = false then u.modPort p fun x => { x with st := .acquire }
      else if w.getLsbD 0 = false ∧ (s.rgt.port.get p).en = true then
        ((u.modPort p fun x => { x with st := .off, probeRounds := 0 }).modLine p LineSt.stop).recompute
      else u.recompute) := by
  show execPortEnWrite m p w s = _
  rw [execPortEnWrite, State.live_supplied _ hs, hr, hm, hl]
  simp only [Bool.not_false, Bool.and_self, State.guardedWrite_granted _ hz hi, State.beat_frame, Bool.and_eq_true, Bool.not_eq_true']

/-! ### Sync, silence, activity (02 R37, R49) -/

theorem exec_syncAcquired (hs : s.supplied = true) (aligned : Bool) (n : Nat) :
    exec (.syncAcquired p aligned n) s = .next (
      if (((s.rgt.port.get p).st = .acquire ∨ (s.rgt.port.get p).st = .down) ∧ aligned = true) ∧ 1024 ≤ n then
        ((s.modPort p fun x => { x with st := .hello, los := false, probeRounds := 0, lastValid := s.clk.cycle }).recompute).sendProbe p true
      else s) := by
  show execSyncAcquired p aligned n s = _
  rw [execSyncAcquired, State.live_supplied _ hs]
  simp only [Bool.and_eq_true, Bool.or_eq_true, decide_eq_true_eq]

theorem exec_syncLost_off (hs : s.supplied = true) (ho : (s.rgt.port.get p).st = .off) (los : Bool) (k : Nat) :
    exec (.syncLost p los k) s = .next s := by
  show execSyncLost p los k s = _
  rw [execSyncLost, State.live_supplied _ hs, if_pos ho]

theorem exec_syncLost_on (hs : s.supplied = true) (ho : (s.rgt.port.get p).st ≠ .off) (los : Bool) (k : Nat) :
    let u := (s.codeErrors p k).modPort p fun x => { x with los := x.los || los }
    exec (.syncLost p los k) s = .next (if los = true ∨ 16 ≤ k then u.portDown p else u) := by
  show execSyncLost p los k s = _
  rw [execSyncLost, State.live_supplied _ hs, if_neg ho]
  simp only [Bool.or_eq_true, decide_eq_true_eq]

theorem exec_neighbourSilent (hs : s.supplied = true) (hp : s.listens p) :
    exec (.neighbourSilent p) s = .next ((s.runTo ((s.rgt.port.get p).lastValid + us 260)).portDown p) := by
  show execNeighbourSilent p s = _
  rw [execNeighbourSilent, State.live_supplied _ hs]
  exact congrArg _ (if_pos (by simpa [State.listens] using hp))

theorem exec_portActive (hs : s.supplied = true) (hp : (s.rgt.port.get p).st = .hello) (hn : 8 ≤ (s.rgt.port.get p).probeRounds) :
    exec (.portActive p) s = .next (s.modPort p fun x => { x with st := .active }).recompute := by
  show execPortActive p s = _
  rw [execPortActive, State.live_supplied _ hs]
  exact congrArg _ (if_pos (by simp [hp, hn]))

theorem exec_probeSend_triggered (hs : s.supplied = true) : exec (.probeSend true) s = .next s.triggerProbe := by
  show execProbeSend true s = _
  rw [execProbeSend, State.live_supplied _ hs, if_pos rfl]

theorem exec_probeSend_round (hs : s.supplied = true) : exec (.probeSend false) s = .next ((s.runToOffset 200000).sendProbes false) := by
  show execProbeSend false s = _
  rw [execProbeSend, State.live_supplied _ hs, if_neg Bool.false_ne_true]

/-! ### PROBE frames (02 R48-R50, R54) -/

/-- The neighbour's PROBE is noted at its port, and its round counted. -/
def State.probeNoted (p : Port) (b : Probe) (s : State) : State :=
  s.modPort p fun x =>
    { x with probe := some b, probeRound := s.round,
             probeRounds := if x.probeRound + 1 = s.round then x.probeRounds + 1
               else if x.probeRound = s.round ∧ x.probeRounds ≠ 0 then x.probeRounds else 1 }

/-- The neighbour on a GUEST port is noted as a guest. -/
def State.guestNoted (p : Port) (b : Probe) (s : State) : State :=
  if (s.rgt.port.get p).role = .guest then s.modRgt fun g => { g with guests := (b.id, p) :: g.guests.filter fun x => x.1 != b.id } else s

/-- The substitution for a child that names another parent ends with the next round. -/
def State.substitutionEnded (p : Port) (b : Probe) (r : Nat) (s : State) : State :=
  if (∃ x, b.strokeParent = some x ∧ x ≠ s.rgt.id) ∧ (s.alc.child.get p).has = true ∧ (s.rgt.port.get p).st = .active then
    s.modChild p fun y => { y with endRound := y.endRound <|> some (r + 1) }
  else s

theorem State.probeNoted_eq (b : Probe) :
    s.probeNoted p b = s.modPort p fun x =>
      { x with probe := some b, probeRound := s.round,
               probeRounds := if x.probeRound + 1 = s.round then x.probeRounds + 1
                 else if x.probeRound = s.round && x.probeRounds != 0 then x.probeRounds else 1 } := by
  simp only [State.probeNoted, Bool.and_eq_true, decide_eq_true_eq, bne_iff_ne]

theorem State.substitutionEnded_none {b : Probe} {r : Nat} (hb : b.strokeParent = none) : s.substitutionEnded p b r = s :=
  if_neg (by simp [hb])

theorem State.substitutionEnded_some {b : Probe} {r : Nat} {x : CtrlId} (hb : b.strokeParent = some x) :
    s.substitutionEnded p b r =
      if x ≠ s.rgt.id && (s.alc.child.get p).has && (s.rgt.port.get p).st = .active then
        s.modChild p fun y => { y with endRound := y.endRound <|> some (r + 1) }
      else s := by
  simp only [State.substitutionEnded, hb, Option.some.injEq, exists_eq_left', and_assoc, Bool.and_eq_true, decide_eq_true_eq]

/-- What a PROBE that a port takes in does, in its order. -/
theorem exec_probeReceive {h : Hdr} (hs : s.supplied = true) (ht : s.takesIn p h = true) (b : Probe) :
    let t := s.received p h
    let t4 := ((((t.probeNoted p b).recompute).passTrigger h (t.rgt.port.get p).probe b t).guestNoted p b).substitutionEnded p b t.round
    exec (.probeReceive p h b) s = .next (if t4.timeParent = some p then t4.takeCorr b else t4) := by
  show execProbeReceive p h b s = _
  rw [execProbeReceive, State.live_supplied _ hs, State.rx_takesIn _ ht]
  cases hb : b.strokeParent with
  | none =>
    rw [State.substitutionEnded_none hb, State.probeNoted_eq]
    rfl
  | some x =>
    rw [State.substitutionEnded_some hb, State.probeNoted_eq]
    rfl

/-- Settles O12: each clause is a branch of its command; a PROBE acts in the stages that its lemma names. -/
theorem portsFollowTheirStateMachine : Obligations.PortsFollowTheirStateMachine := by
  unfold Obligations.PortsFollowTheirStateMachine
  intro s hs p
  refine ⟨fun m w hz hm hi hl hr => ⟨fun hw he => ?_, fun hw he => ?_, fun hw => ?_⟩, fun n hst hn => ?_, fun al n hw => ?_,
    fun los k => ⟨fun ho => exec_syncLost_off hs ho los k, fun ho => ⟨fun hk => ?_, fun hl hk => ?_⟩⟩, exec_neighbourSilent hs, exec_portActive hs,
    exec_probeSend_triggered hs, exec_probeSend_round hs, fun h b ht => exec_probeReceive hs ht b⟩
  · exact (exec_portEnWrite_granted hs hz hm hi hl hr w).trans (congrArg _ (if_pos ⟨hw, he⟩))
  · rw [exec_portEnWrite_granted hs hz hm hi hl hr w, if_neg (by rw [hw]; simp), if_pos ⟨hw, he⟩]
  · rw [exec_portEnWrite_granted hs hz hm hi hl hr w, if_neg (by rw [hw]; simp), if_neg (by rw [hw]; simp)]
  · rw [exec_syncAcquired hs, if_pos ⟨⟨hst, rfl⟩, hn⟩]
  · rw [exec_syncAcquired hs, if_neg (by rcases hw with ⟨ha, hd⟩ | ha | hn <;> simp [*])]
  · rw [exec_syncLost_on hs ho, if_pos hk]
    rfl
  · rw [exec_syncLost_on hs ho, if_neg (by simp [hl, hk])]
    rfl

end Sys2Proof.Machine
end

section
/-! Fleet time: offsets, holdover, forming, corrections, external sources (02 R53, R60, R62-R65; 15 R386). -/
namespace Sys2Proof.Machine

variable {s : State} {p : Port}

theorem State.modRgt_congr {f g : Rgt → Rgt} (h : f s.rgt = g s.rgt) : s.modRgt f = s.modRgt g :=
  congrArg (fun r => { s with rgt := r }) h

theorem State.timeKnown_frame :
    s.timeKnown.clk = s.clk ∧ s.timeKnown.rgt = s.rgt ∧ s.timeKnown.cfg = s.cfg ∧ s.timeKnown.now = s.now ∧ s.timeKnown.round = s.round :=
  ⟨rfl, rfl, rfl, rfl, rfl⟩

/-! ### Offsets and holdover (02 R60, R62) -/

/-- The offset that the four times of a frame give on a port. -/
def offsetOf (x : PortSt) (t1 t2 t3 t4 : Nat) : Int := (((t2 : Int) - t1) - ((t4 : Int) - t3) - x.asym.toInt) / 2

/-- The port stores delay, offset and echo times. -/
def State.offsetStored (p : Port) (t1 t2 t3 t4 : Nat) (s : State) : State :=
  s.modPort p fun x =>
    { x with delay := clampU 32 ((((t2 : Int) - t1) + ((t4 : Int) - t3)) / 2).toNat, offset := clampS 32 (offsetOf (s.rgt.port.get p) t1 t2 t3 t4),
             echoTx := t1, echoRx := t2 }

/-- The offset from the time parent sets the sync status. -/
def State.offsetTaken (o : Int) (s : State) : State :=
  ((s.noteOffset o).modRgt fun g => { g with sync := 1, offsetAbs := clampU 16 o.natAbs }).timeKnown

theorem exec_timeOffsetUpdate_deaf (hs : s.supplied = true) (hp : ¬ s.listens p) (t1 t2 t3 t4 : Nat) :
    exec (.timeOffsetUpdate p t1 t2 t3 t4) s = .next s := by
  rw [State.listens, not_or] at hp
  show execTimeOffsetUpdate p t1 t2 t3 t4 s = _
  rw [execTimeOffsetUpdate, State.live_supplied _ hs]
  exact congrArg _ (if_pos (by simpa using hp))

/-- On a port that listens the offset is stored; from the time parent of a controller that is not the Stroke it steps or slews the clock. -/
theorem exec_timeOffsetUpdate_listens (hs : s.supplied = true) (hp : s.listens p) (t1 t2 t3 t4 : Nat) :
    let o := offsetOf (s.rgt.port.get p) t1 t2 t3 t4
    let u := s.offsetStored p t1 t2 t3 t4
    let v := u.offsetTaken o
    exec (.timeOffsetUpdate p t1 t2 t3 t4) s = .next (
      if u.timeParent ≠ some p ∨ s.rgt.role = .stroke then u
      else if v.admitted = true ∧ 5000 < o.natAbs then
        (v.modRgt fun g => { g with outOfTime := true, stepped := true, inTimeRounds := 0 }).stepFleet (-o)
      else v.modClk fun c => { c with rate := rateFor o Config.roundNs 1000 }) := by
  have hn : ¬ ((s.rgt.port.get p).st != .hello && (s.rgt.port.get p).st != .active) = true := by rcases hp with hp | hp <;> simp [hp]
  show execTimeOffsetUpdate p t1 t2 t3 t4 s = _
  rw [execTimeOffsetUpdate, State.live_supplied _ hs]
  dsimp only
  rw [if_neg hn]
  simp only [Bool.and_eq_true, Bool.or_eq_true, decide_eq_true_eq]
  rfl

theorem exec_timeHoldover_runs (hs : s.supplied = true) (hr : s.rgt.role ≠ .stroke) (hy : s.rgt.sync = 1) :
    exec .timeHoldover s = .next ((s.runToFleet ((s.rgt.offRound + 4) * Config.roundNs)).modRgt fun g => { g with sync := 3 }) := by
  show execTimeHoldover s = _
  rw [execTimeHoldover, State.live_supplied _ hs, if_neg (by simp [hr, hy])]

theorem exec_timeHoldover_idle (hs : s.supplied = true) (hn : s.rgt.role = .stroke ∨ s.rgt.sync ≠ 1) :
    exec .timeHoldover s = .next s := by
  show execTimeHoldover s = _
  rw [execTimeHoldover, State.live_supplied _ hs, if_pos (by simpa using hn)]

/-! ### Forming the crew (02 R63) -/

section
variable (hs : s.supplied = true) (hr : s.rgt.role = .stroke) (hi : s.rgt.id = s.cfg.active.stroke) (hf : s.rgt.formed = false)
  (hm : s.rgt.members = [])
include hs hr hi hf hm

theorem exec_crewForm_source {x : Int} (hx : (s.runToOffset 0).srcNow = some x) :
    let t := s.runToOffset 0
    exec .crewForm s = .next ((t.timeKnown.stepFleet (x - t.rgt.taiCorr - t.now)).modRgt fun g =>
      { g with formed := true, sync := 2, srcTai := some (x, x - g.taiCorr) }) := by
  show execCrewForm s = _
  rw [execCrewForm, State.live_supplied _ hs, if_pos (by simp [hr, hi, hf, hm])]
  dsimp only
  rw [hx]

theorem exec_crewForm_clock (hx : (s.runToOffset 0).srcNow = none) :
    let t := s.runToOffset 0
    exec .crewForm s = .next ((t.useFree.setFleet t.rtcReading).modRgt fun g => { g with formed := true }) := by
  show execCrewForm s = _
  rw [execCrewForm, State.live_supplied _ hs, if_pos (by simp [hr, hi, hf, hm])]
  dsimp only
  rw [hx]

end

/-! ### The TAI correction (02 R64) -/

/-- The Stroke at its next check of the source. -/
def State.taiChecked (s : State) : State :=
  (s.runTo (s.rgt.lastTaiCheck + sec 1)).modRgt fun g => { g with lastTaiCheck := max s.clk.cycle (s.rgt.lastTaiCheck + sec 1) }

theorem State.taiChecked_taiCorr : s.taiChecked.rgt.taiCorr = s.rgt.taiCorr := by
  simp only [State.taiChecked, State.modRgt_rgt, State.runTo_frame]

theorem State.taiChecked_pendCorr : s.taiChecked.rgt.pendCorr = s.rgt.pendCorr := by
  simp only [State.taiChecked, State.modRgt_rgt, State.runTo_frame]

theorem State.taiChecked_cfg : s.taiChecked.cfg = s.cfg := by
  simp only [State.taiChecked, State.modRgt_frame, State.runTo_frame]

theorem exec_taiCheck_other (hs : s.supplied = true) (hr : s.rgt.role ≠ .stroke) : exec .taiCheck s = .next s := by
  show execTaiCheck s = _
  rw [execTaiCheck, State.live_supplied _ hs, if_pos (by simpa using hr)]

theorem State.taiChecked_eq : ((s.runTo (s.rgt.lastTaiCheck + sec 1)).modRgt fun g =>
    { g with lastTaiCheck := max s.clk.cycle (g.lastTaiCheck + sec 1) }) = s.taiChecked :=
  State.modRgt_congr (by simp only [State.runTo_frame])

theorem exec_taiCheck_unsourced (hs : s.supplied = true) (hr : s.rgt.role = .stroke) (hx : s.taiChecked.srcNow = none) :
    exec .taiCheck s = .next s.taiChecked := by
  show execTaiCheck s = _
  rw [execTaiCheck, State.live_supplied _ hs, if_neg (by simp [hr]), State.taiChecked_eq]
  dsimp only
  rw [hx]

/-- With a source time the Stroke slews within the limit of a clock step, or announces a correction where none is pending. -/
theorem exec_taiCheck_sourced {x : Int} (hs : s.supplied = true) (hr : s.rgt.role = .stroke) (hx : s.taiChecked.srcNow = some x) :
    let k := s.taiChecked.timeKnown
    let e := x - ((s.taiChecked.now : Int) + s.rgt.taiCorr)
    exec .taiCheck s = .next (
      if e.natAbs ≤ s.clockStepLimit then k.modClk fun c => { c with rate := rateFor (-e) Config.secondNs 500 }
      else if s.rgt.pendCorr.isNone = true then k.modRgt fun g => { g with pendCorr := some (g.taiCorr + e, s.taiChecked.round + 16) }
      else k) := by
  have hl : s.taiChecked.timeKnown.clockStepLimit = s.clockStepLimit := by
    simp only [State.clockStepLimit, State.timeKnown_frame, State.taiChecked_cfg]
  show execTaiCheck s = _
  rw [execTaiCheck, State.live_supplied _ hs, if_neg (by simp [hr]), State.taiChecked_eq]
  dsimp only
  rw [hx]
  simp only [hl, State.timeKnown_frame, State.taiChecked_taiCorr, State.taiChecked_pendCorr]

theorem exec_taiCorrectionApply_some {c : Int} {r : Nat} (hs : s.supplied = true) (hc : s.rgt.pendCorr = some (c, r)) :
    exec .taiCorrectionApply s = .next ((s.runToFleet (r * Config.roundNs)).setCorr c r) := by
  show execTaiCorrectionApply s = _
  rw [execTaiCorrectionApply, State.live_supplied _ hs, hc]

theorem exec_taiCorrectionApply_none (hs : s.supplied = true) (hc : s.rgt.pendCorr = none) : exec .taiCorrectionApply s = .next s := by
  show execTaiCorrectionApply s = _
  rw [execTaiCorrectionApply, State.live_supplied _ hs, hc]

/-! ### PTP (02 R65) -/

/-- A message counts at the Stroke, on the port and in the domain that are set. -/
theorem exec_ptpMessage (hs : s.supplied = true) (m : Fin 2) (dom : Byte) (x : PtpMsg) :
    exec (.ptpMessage m dom x) s = .next (
      if s.rgt.role = .stroke ∧ s.rgt.srcSel.toNat = m.val + 1 ∧ dom = s.rgt.ptpDomain then s.ptp x else s) := by
  show execPtpMessage m dom x s = _
  rw [execPtpMessage, State.live_supplied _ hs]
  simp only [Bool.and_eq_true, decide_eq_true_eq, and_assoc]

theorem State.ptpSync_unmeasured {t1 rx : Int} (hd : s.rgt.ptpDelay = none) : s.ptpSync t1 rx = s := by rw [State.ptpSync, hd]

/-- With a path delay and no PPS edge, a master's time sets the source. -/
theorem State.ptpSync_source {t1 rx d : Int} (hd : s.rgt.ptpDelay = some d) (he : s.rgt.ppsEn = false) :
    s.ptpSync t1 rx = s.modRgt fun g => { g with ptpTai := some (t1 + d, rx), srcTai := some (t1 + d, rx), sync := 2 } := by
  rw [State.ptpSync, hd]
  exact State.modRgt_congr (by simp [he])

/-- Where the PPS edge gives the instants, it gives their count alone. -/
theorem State.ptpSync_count {t1 rx d : Int} (hd : s.rgt.ptpDelay = some d) (he : s.rgt.ppsEn = true) :
    s.ptpSync t1 rx = s.modRgt fun g => { g with ptpTai := some (t1 + d, rx) } := by
  rw [State.ptpSync, hd]
  exact State.modRgt_congr (by simp [he])

theorem State.ptp_sync (n : Half) (t1 : Int) :
    s.ptp (.sync n (some t1)) = (s.modRgt fun g => { g with ptpSync := some (t1, s.now) }).ptpSync t1 s.now := rfl

theorem State.ptp_followUp {n : Half} {t1 : Int} {rx : Nat} (hw : s.rgt.ptpWait = some (n, rx)) :
    s.ptp (.followUp n t1) = (s.modRgt fun g => { g with ptpWait := none, ptpSync := some (t1, rx) }).ptpSync t1 rx := by
  rw [State.ptp, hw]
  exact if_pos rfl

theorem State.ptp_delayResp {t1 t3 t4 : Int} {t2 : Nat} (hy : s.rgt.ptpSync = some (t1, t2)) (hp : s.rgt.p2p = false) :
    s.ptp (.delayResp t3 t4) = s.modRgt fun g => { g with ptpDelay := some (((t2 : Int) - t1 + (t4 - t3)) / 2) } := by
  rw [State.ptp, hy]
  exact if_neg (by simp [hp])

theorem State.ptp_peerDelay {t1 t2 t3 t4 : Int} (hp : s.rgt.p2p = true) :
    s.ptp (.peerDelay t1 t2 t3 t4) = s.modRgt fun g => { g with ptpDelay := some ((t4 - t1 - (t3 - t2)) / 2) } := if_pos hp

/-! ### PPS (02 R65; 15 R386) -/

/-- The times of day that have waited for 10 ms are completed, and the next edge gets the second of the last. -/
def State.todCompleted (s : State) : State :=
  let old := fun (x : Ring × DWord × DWord × Nat) => decide (x.2.2.2 + 10000000 ≤ s.now)
  (s.tun.tod.filter old).foldl (fun t x => (t.complete x.1 x.2.1 0 0).modRgt fun g => { g with ppsTod := some x.2.2.1.toNat })
    (s.modTun fun t => { t with tod := t.tod.filter fun x => !old x })

theorem exec_ppsEdge_unused (hs : s.supplied = true) (hn : s.todCompleted.rgt.role ≠ .stroke ∨ s.todCompleted.rgt.ppsEn = false) :
    exec .ppsEdge s = .next s.todCompleted := by
  show execPpsEdge s = _
  rw [execPpsEdge, State.live_supplied _ hs]
  have hc : (s.todCompleted.rgt.role != .stroke || !s.todCompleted.rgt.ppsEn) = true := by simpa using hn
  exact congrArg _ (if_pos hc)

/-- At the Stroke with PPS enabled the edge is numbered where a count of seconds is known. -/
theorem exec_ppsEdge_used (hs : s.supplied = true) (hr : s.todCompleted.rgt.role = .stroke) (he : s.todCompleted.rgt.ppsEn = true) :
    (∀ n, s.todCompleted.edgeSecond = some n → exec .ppsEdge s = .next (s.todCompleted.modRgt fun g =>
      { g with srcTai := some (n * Config.secondNs, s.todCompleted.now), ppsTod := some (n + 1).toNat, sync := 2 })) ∧
    (s.todCompleted.edgeSecond = none → exec .ppsEdge s = .next s.todCompleted) := by
  have hx : exec .ppsEdge s = .next (match s.todCompleted.edgeSecond with
      | some n => s.todCompleted.modRgt fun g =>
        { g with srcTai := some (n * Config.secondNs, s.todCompleted.now), ppsTod := some (n + 1).toNat, sync := 2 }
      | none => s.todCompleted) := by
    show execPpsEdge s = _
    rw [execPpsEdge, State.live_supplied _ hs]
    have hc : ¬ (s.todCompleted.rgt.role != .stroke || !s.todCompleted.rgt.ppsEn) = true := by simp [hr, he]
    exact congrArg _ (if_neg hc)
  exact ⟨fun n hn => by rw [hx, hn], fun hn => by rw [hx, hn]⟩

theorem exec_extSourceLost (hs : s.supplied = true) (hr : s.rgt.role = .stroke) (hx : s.rgt.srcTai.isSome = true) :
    exec .extSourceLost s = .next (s.modRgt fun g => { g with srcTai := none, ptpTai := none, srcLost := true, sync := 3 }) := by
  show execExtSourceLost s = _
  rw [execExtSourceLost, State.live_supplied _ hs, if_pos (by simp [hr, hx])]

theorem exec_extSourceLost_idle (hs : s.supplied = true) (hn : s.rgt.role ≠ .stroke ∨ s.rgt.srcTai = none) :
    exec .extSourceLost s = .next s := by
  show execExtSourceLost s = _
  rw [execExtSourceLost, State.live_supplied _ hs, if_neg (by rcases hn with hn | hn <;> simp [hn])]

/-! ### The switch of the trees (02 R53) -/

theorem exec_treeSwitch_some {k : Nat} (hs : s.supplied = true) (hk : s.rgt.switchAt = some k) :
    exec .treeSwitch s = .next (s.runToFleet (k * Config.roundNs)).treeSync := by
  show execTreeSwitch s = _
  rw [execTreeSwitch, State.live_supplied _ hs, hk]

theorem exec_treeSwitch_none (hs : s.supplied = true) (hk : s.rgt.switchAt = none) : exec .treeSwitch s = .next s := by
  show execTreeSwitch s = _
  rw [execTreeSwitch, State.live_supplied _ hs, hk]

/-- Settles O13: each command by the case of its source: the time parent's offset, the source of the Stroke, a PTP message, a PPS edge. -/
theorem fleetTimeFollowsItsSources : Obligations.FleetTimeFollowsItsSources := by
  unfold Obligations.FleetTimeFollowsItsSources
  intro s hs
  refine ⟨fun p t1 t2 t3 t4 => ⟨fun hh ha => exec_timeOffsetUpdate_deaf hs (not_or.mpr ⟨hh, ha⟩) t1 t2 t3 t4, fun hp => ⟨fun hn => ?_,
      fun ht hr => ⟨fun ha ho => ?_, fun hn => ?_⟩⟩⟩,
    exec_timeHoldover_runs hs, exec_timeHoldover_idle hs,
    fun hr hi hf hm => ⟨fun x => exec_crewForm_source hs hr hi hf hm, exec_crewForm_clock hs hr hi hf hm⟩,
    fun hr => ⟨exec_taiCheck_unsourced hs hr, fun x hx => ⟨fun he => ?_, fun he hc => ?_, fun he hc => ?_⟩⟩, exec_taiCheck_other hs,
    fun c r => exec_taiCorrectionApply_some hs, exec_taiCorrectionApply_none hs,
    fun m dom => ⟨fun x hn => ?_, fun ho => ?_⟩, ⟨exec_ppsEdge_unused hs, exec_ppsEdge_used hs⟩, exec_extSourceLost hs,
    exec_extSourceLost_idle hs, fun k => exec_treeSwitch_some hs, exec_treeSwitch_none hs⟩
  · exact (exec_timeOffsetUpdate_listens hs hp t1 t2 t3 t4).trans (congrArg _ (if_pos hn))
  · exact (exec_timeOffsetUpdate_listens hs hp t1 t2 t3 t4).trans
      (congrArg _ ((if_neg (not_or.mpr ⟨not_not_intro ht, hr⟩)).trans (if_pos ⟨ha, ho⟩)))
  · have hn' := fun hw => hn.elim (fun ha => Bool.false_ne_true (ha.symm.trans (And.left hw))) fun ho => Nat.not_lt.mpr ho (And.right hw)
    exact (exec_timeOffsetUpdate_listens hs hp t1 t2 t3 t4).trans
      (congrArg _ ((if_neg (not_or.mpr ⟨not_not_intro ht, hr⟩)).trans (if_neg hn')))
  · exact (exec_taiCheck_sourced hs hr hx).trans (congrArg _ (if_pos he))
  · exact (exec_taiCheck_sourced hs hr hx).trans (congrArg _ ((if_neg (Nat.not_le.mpr he)).trans (if_pos (by simp [hc]))))
  · exact (exec_taiCheck_sourced hs hr hx).trans (congrArg _ ((if_neg (Nat.not_le.mpr he)).trans (if_neg (by simpa [Option.isSome_iff_ne_none] using hc))))
  · rw [exec_ptpMessage hs, if_neg hn]
  · have hx : ∀ x, exec (.ptpMessage m dom x) s = .next (s.ptp x) := fun x => by rw [exec_ptpMessage hs, if_pos ho]
    refine ⟨fun n t1 d hd he => ?_, fun n t1 d hd he => ?_, fun n t1 hd => ?_, fun n => hx _, fun n rx t1 d hw hd he => ?_,
      fun t1 t2 t3 t4 hy hp => ?_, fun t1 t2 t3 t4 hp => ?_⟩
    · rw [hx, State.ptp_sync]
      exact congrArg _ (State.ptpSync_source hd he)
    · rw [hx, State.ptp_sync]
      exact congrArg _ (State.ptpSync_count hd he)
    · rw [hx, State.ptp_sync]
      exact congrArg _ (State.ptpSync_unmeasured hd)
    · rw [hx, State.ptp_followUp hw]
      exact congrArg _ (State.ptpSync_source hd he)
    · rw [hx, State.ptp_delayResp hy hp]
    · rw [hx, State.ptp_peerDelay hp]

end Sys2Proof.Machine
end

section
/-! Safe frames: heartbeats, their judgement, expiry, automated connection devices, releases (02 R44; 10 R253-R257, R259, R261). -/
namespace Sys2Proof.Machine

variable {s : State}

/-! ### Heartbeats (02 R44; 10 R255-R257) -/

theorem exec_heartbeatSend_round (hs : s.supplied = true) :
    exec (.heartbeatSend false) s = .next (((s.runToOffset 205000).dropAnnounced).heartbeat false) := by
  show execHeartbeatSend false s = _
  rw [execHeartbeatSend, State.live_supplied _ hs, if_neg Bool.false_ne_true]

theorem exec_heartbeatSend_triggered (hs : s.supplied = true) : exec (.heartbeatSend true) s = .next s.flushTrig := by
  show execHeartbeatSend true s = _
  rw [execHeartbeatSend, State.live_supplied _ hs, if_pos rfl]

/-- What a heartbeat does that its port has taken in: dropped where R44 turns it away, counted where its verdict rejects it; an accepted one
updates the connection, and on an established one its stop entries act. -/
def State.heartbeatTaken (p : Port) (h : Hdr) (f : SafeFrame) (t : State) : State :=
  if t.safeArrives p h = false then t.modPort p fun x => { x with cntDrop := satInc x.cntDrop }
  else
    let u := t.modPort p fun x => { x with lastSafe := some h.seq }
    let v := safeVerdict (t.saf.conn.get p) (connRegatta t.rgt.crew h.src t.rgt.id) (t.saf.siteMaxAge.toNat * 1000000) t.now f
    let w := u.modSaf fun z => { z with conn := vmod z.conn p fun c => c.after v f }
    if v ≠ 0 then w.countReject v
    else if (w.siteEval.saf.conn.get p).got = 2 then (f.entries.foldl (fun x e => x.stopEntry e) w.siteEval).flushTrig else w.siteEval

theorem exec_heartbeatReceive (hs : s.supplied = true) (p : Port) (h : Hdr) (f : SafeFrame) :
    exec (.heartbeatReceive p h f) s = .next (s.rx p h (State.heartbeatTaken p h f)) := by
  show execHeartbeatReceive p h f s = _
  rw [execHeartbeatReceive, State.live_supplied _ hs]
  simp only [Bool.not_eq_true']
  rfl

/-! ### Connections at their maximum age (10 R250, R256, R260) -/

theorem SafeConn.due_of_aged {c : SafeConn} {age now : Nat} (hg : c.got ≠ 0) (ht : c.lastTime + age ≤ now) : c.due age now = true := by
  simp [SafeConn.due, hg, ht]

/-- A neighbour connection ends at the maximum age of its last accepted frame. -/
theorem exec_connExpired_neighbour {q : Port} {i : Fin 8} (hs : s.supplied = true) (hi : i.val = q.val) (hg : (s.saf.conn.get q).got ≠ 0) :
    let c := s.saf.conn.get q
    let age := s.saf.siteMaxAge.toNat * 1000000
    let t := s.runToFleet (c.lastTime + age)
    c.lastTime + age ≤ t.now →
    exec (.connExpired i) s = .next (((t.modSaf fun f =>
      { f with conn := vmod f.conn q fun x => { x with got := 0, ref := false, expired := x.expired || c.got == 2 } }).expireConn c.got).siteEval) := by
  intro c age t ht
  have hlt : i.val < 4 := hi ▸ q.isLt
  have hq : (⟨i.val, hlt⟩ : Port) = q := Fin.ext hi
  show execConnExpired i s = _
  rw [execConnExpired, State.live_supplied _ hs, dif_pos hlt]
  simp only [hq]
  rw [if_neg hg, if_pos (SafeConn.due_of_aged hg ht)]

/-- The connection of an automated connection device ends the same way, and raises the device's source 4. -/
theorem exec_connExpired_acd {a : Acd} {i : Fin 8} (hs : s.supplied = true) (hi : i.val = a.val + 4) (hg : (s.saf.acd.get a).conn.got ≠ 0) :
    let c := (s.saf.acd.get a).conn
    let age := (s.saf.acd.get a).maxAge.toNat * 1000000
    let t := s.runToFleet (c.lastTime + age)
    c.lastTime + age ≤ t.now →
    exec (.connExpired i) s = .next (((t.modSaf fun f =>
      { f with acd := vmod f.acd a fun x =>
          { x with conn := { x.conn with got := 0, ref := false, expired := x.conn.expired || c.got == 2 } } }).expireConn c.got).raiseSto a 4) := by
  intro c age t ht
  have hge : ¬ i.val < 4 := by omega
  have hlt : i.val - 4 < 4 := by omega
  have ha : (⟨i.val - 4, hlt⟩ : Acd) = a := Fin.ext (by simp [hi])
  show execConnExpired i s = _
  rw [execConnExpired, State.live_supplied _ hs, dif_neg hge]
  simp only [ha]
  rw [if_neg hg, if_pos (SafeConn.due_of_aged hg ht)]

/-! ### Automated connection devices (10 R261) -/

theorem exec_acdFrameSend {a : Acd} (hs : s.supplied = true) (he : (s.saf.acd.get a).en = true) :
    let x := s.saf.acd.get a
    let t := s.runTo (x.lastTx + ms x.period.toNat)
    let b0 : Byte := (if t.saf.srcSto.get a ≠ 0 then 1 else 0) ||| (if t.motionOk a = true then 2 else 0)
    exec (.acdFrameSend a) s = .next (t.modSaf fun f =>
      { f with acd := vmod f.acd a fun x => { x with lastTx := t.clk.cycle, conn := { x.conn with txSeq := x.conn.txSeq + 1 } },
               acdOut := f.acdOut ++ [(a, SafeFrame.make (connAcd 2 a t.rgt.id) (x.conn.txSeq + 1) t.now [b0, BitVec.ofNat 8 (t.out.get x.outlet).st.code])] }) := by
  intro x t b0
  have ht : t.saf = s.saf := by simp only [t, State.runTo_frame]
  have hv : vmod t.saf.acd a (fun y => { y with lastTx := t.clk.cycle, conn := { y.conn with txSeq := x.conn.txSeq + 1 } }) =
      vmod t.saf.acd a fun y => { y with lastTx := t.clk.cycle, conn := { y.conn with txSeq := y.conn.txSeq + 1 } } :=
    vmod_congr _ _ _ _ (by rw [ht])
  show execAcdFrameSend a s = _
  rw [execAcdFrameSend, State.live_supplied _ hs, if_neg (by simp [he])]
  simp only [State.modSaf, ← hv, bne_iff_ne]
  rfl

/-- The device's connection after a verdict. -/
def State.acdJudged (a : Acd) (v : Nat) (f : SafeFrame) (s : State) : State :=
  s.modSaf fun z => { z with acd := vmod z.acd a fun x => { x with conn := x.conn.after v f } }

/-- An accepted frame establishes a connection that had one before it. -/
theorem State.acdJudged_accepted_got {a : Acd} {f : SafeFrame} :
    ((s.acdJudged a 0 f).saf.acd.get a).conn.got = min 2 ((s.saf.acd.get a).conn.got + 1) := by
  simp [State.acdJudged, SafeConn.after]

theorem exec_acdFrameReceive {a : Acd} {f : SafeFrame} (hs : s.supplied = true) (he : (s.saf.acd.get a).en = true) :
    let x := s.saf.acd.get a
    let v := safeVerdict x.conn (connAcd 3 a s.rgt.id) (x.maxAge.toNat * 1000000) s.now f
    let t := s.acdJudged a v f
    exec (.acdFrameReceive a f) s = .next (
      if v ≠ 0 then t.countReject v
      else if (t.saf.acd.get a).conn.got = 2 then
        (t.modSaf fun z => { z with acd := vmod z.acd a fun x => { x with flags := f.b0 } }).clearSto a 4
      else t) := by
  show execAcdFrameReceive a f s = _
  rw [execAcdFrameReceive, State.live_supplied _ hs, if_neg (by simp [he])]
  rfl

/-! ### Releases (10 R259) -/

theorem exec_releaseAnnounceEnd {origin : CtrlId} {x : RelAnn} (hs : s.supplied = true)
    (hx : (s.saf.announcing.find? fun a => a.origin == origin) = some x) :
    exec (.releaseAnnounceEnd origin) s = .next (s.runToFleet (x.rounds * Config.roundNs)).dropAnnounced := by
  show execReleaseAnnounceEnd origin s = _
  rw [execReleaseAnnounceEnd, State.live_supplied _ hs, hx]

/-- Settles O36: heartbeats and device frames by their verdict, connections by their age, releases by their rounds. -/
theorem safeFramesAreJudged : Obligations.SafeFramesAreJudged := by
  unfold Obligations.SafeFramesAreJudged
  intro s hs
  refine ⟨exec_heartbeatSend_round hs, exec_heartbeatSend_triggered hs, fun p h f => exec_heartbeatReceive hs p h f,
    fun q hg => exec_connExpired_neighbour hs rfl hg, fun a hg => exec_connExpired_acd hs rfl hg, fun a he => exec_acdFrameSend hs he,
    fun a f he => ⟨fun hv => ?_, fun hv hg => ?_, fun hv hg => ?_⟩, fun origin x hx => exec_releaseAnnounceEnd hs hx⟩
  · exact (exec_acdFrameReceive hs he).trans (congrArg _ (if_pos hv))
  · have hgot : ((s.acdJudged a 0 f).saf.acd.get a).conn.got = 2 := by
      rw [State.acdJudged_accepted_got]
      omega
    rw [exec_acdFrameReceive hs he, hv, if_neg (not_not_intro rfl), if_pos hgot]
    rfl
  · have hgot : ((s.acdJudged a 0 f).saf.acd.get a).conn.got ≠ 2 := by
      rw [State.acdJudged_accepted_got, hg]
      decide
    rw [exec_acdFrameReceive hs he, hv, if_neg (not_not_intro rfl), if_neg hgot]
    rfl

end Sys2Proof.Machine
end

section
/-! What the commands of an allocation round share, and where a DOWN goes (03 R73, R77, R84, R94, R95). -/
namespace Sys2Proof.Machine

variable {s : State} {p : Port} {h : Hdr} {f : Frame} {d : Down}

/-! ### Frames that the control plane takes in -/

theorem State.takesIn_intact (ht : s.takesIn p h = true) : h.aborted = false ∧ h.crcOk = true := by
  simp only [State.takesIn, Bool.and_eq_true, Bool.not_eq_true'] at ht
  obtain ⟨⟨⟨⟨-, ha⟩, hk⟩, -⟩, -⟩ := ht
  exact ⟨ha, hk⟩

/-! ### Forwarding a DOWN (03 R77) -/

theorem State.tookUp_iff {n : Nat} : s.tookUp p n = true ↔ ∃ u, (s.alc.child.get p).taken = some u ∧ u.round = n := by
  unfold State.tookUp
  cases (s.alc.child.get p).taken <;> simp

/-- A DOWN leaves on the port: it is a CHILD port, and its UP of the round entered the tally. -/
def State.forwardsOn (d : Down) (s : State) (p : Port) : Bool := (s.rgt.port.get p).role = .child && s.tookUp p d.round

/-- A DOWN is withheld on the port: a CHILD port without that UP. -/
def State.withholdsOn (d : Down) (s : State) (p : Port) : Bool := (s.rgt.port.get p).role = .child && !s.tookUp p d.round

/-- The turn of one port in the forwarding of a DOWN. -/
def State.forwardAt (f : Frame) (d : Down) (p : Port) (s : State) : State :=
  if (s.rgt.port.get p).role ≠ .child then s
  else if s.tookUp p d.round then (s.handOver p f).modChild p fun x => { x with forwarded := true }
  else s.modAlc fun a => { a with cntWithheld := satInc a.cntWithheld }

theorem State.forwardDown_eq : s.forwardDown f d = s.forAll (State.forwardAt f d) := rfl

/-- A port's turn leaves what decides on the other ports: their roles and the UPs taken. -/
theorem State.forwardAt_decides :
    (s.forwardAt f d p).forwardsOn d = s.forwardsOn d ∧ (s.forwardAt f d p).withholdsOn d = s.withholdsOn d := by
  have key : (s.forwardAt f d p).rgt = s.rgt ∧ ∀ q, ((s.forwardAt f d p).alc.child.get q).taken = (s.alc.child.get q).taken := by
    unfold State.forwardAt
    split
    · exact ⟨rfl, fun q => rfl⟩
    · split
      · refine ⟨rfl, fun q => ?_⟩
        by_cases hq : p = q
        · subst hq
          simp [State.handOver]
        · simp [State.handOver, vmod_other _ _ _ _ hq]
      · exact ⟨rfl, fun q => rfl⟩
  obtain ⟨hrgt, htaken⟩ := key
  constructor <;> funext q <;> simp only [State.forwardsOn, State.withholdsOn, State.tookUp, hrgt, htaken]

/-- It puts the frame into the port's own queue, where the DOWN leaves there, and into no other. -/
theorem State.forwardAt_waiting (q : Port) :
    ((s.forwardAt f d p).line.get q).waiting =
      if p = q then if s.forwardsOn d q then insertFrame f (s.line.get q).waiting else (s.line.get q).waiting
      else (s.line.get q).waiting := by
  unfold State.forwardAt State.forwardsOn
  by_cases hq : p = q
  · subst hq
    by_cases hc : (s.rgt.port.get p).role = .child
    · cases s.tookUp p d.round <;> simp [hc, State.handOver]
    · simp [hc]
  · rw [if_neg hq]
    split
    · rfl
    · split <;> simp [State.handOver, vmod_other _ _ _ _ hq]

theorem State.forwardAt_cntWithheld :
    (s.forwardAt f d p).alc.cntWithheld = if s.withholdsOn d p then satInc s.alc.cntWithheld else s.alc.cntWithheld := by
  unfold State.forwardAt State.withholdsOn
  by_cases hc : (s.rgt.port.get p).role = .child
  · cases s.tookUp p d.round <;> simp [hc, State.handOver]
  · simp [hc]

theorem State.forwardDown_waiting (q : Port) :
    ((s.forwardDown f d).line.get q).waiting =
      if s.forwardsOn d q then insertFrame f (s.line.get q).waiting else (s.line.get q).waiting :=
  State.forAll_view (State.forwardAt f d) (State.forwardsOn d) (fun q t => (t.line.get q).waiting)
    (fun q ctx l => if ctx q then insertFrame f l else l) (fun _ _ => State.forwardAt_decides.1) (fun _ q _ => State.forwardAt_waiting q) q

/-- Over the turns of a list of ports the count rises once for each of them that withholds. -/
theorem State.foldl_forwardAt_cntWithheld (l : List Port) :
    (l.foldl (fun t p => t.forwardAt f d p) s).alc.cntWithheld =
      (l.filter (s.withholdsOn d)).foldl (fun n _ => satInc n) s.alc.cntWithheld := by
  induction l generalizing s with
  | nil => rfl
  | cons p l ih =>
    rw [List.foldl_cons, ih, State.forwardAt_decides.2, State.forwardAt_cntWithheld]
    cases hp : s.withholdsOn d p
    · rw [List.filter_cons_of_neg (by simp [hp])]
      rfl
    · rw [List.filter_cons_of_pos hp]
      rfl

/-- The count of a DOWN's withheld ports does not depend on the order in which they are named. -/
theorem State.forwardDown_cntWithheld {l : List Port} (hl : l.Nodup) (hm : ∀ p, p ∈ l ↔ s.withholdsOn d p = true) :
    (s.forwardDown f d).alc.cntWithheld = l.foldl (fun n _ => satInc n) s.alc.cntWithheld := by
  have hperm : ((List.finRange 4).filter (s.withholdsOn d)).Perm l :=
    (List.perm_ext_iff_of_nodup (nodup_range.filter _) hl).mpr fun p => by simp [hm p]
  rw [State.forwardDown_eq, State.forAll, State.foldl_forwardAt_cntWithheld, hperm.foldl_eq' (fun _ _ _ _ _ => rfl)]

theorem State.forwardsOn_iff : s.forwardsOn d p = true ↔
    (s.rgt.port.get p).role = .child ∧ ∃ u, (s.alc.child.get p).taken = some u ∧ u.round = d.round := by
  rw [← State.tookUp_iff, State.forwardsOn, Bool.and_eq_true, decide_eq_true_eq]

theorem State.withholdsOn_iff : s.withholdsOn d p = true ↔
    (s.rgt.port.get p).role = .child ∧ ¬ ∃ u, (s.alc.child.get p).taken = some u ∧ u.round = d.round := by
  rw [← State.tookUp_iff, State.withholdsOn, Bool.and_eq_true, decide_eq_true_eq, Bool.not_eq_true', Bool.not_eq_true]

/-- Where a DOWN has gone, from one state to another: what R77 says of the CHILD ports and of the count. -/
def State.DownGoes (f : Frame) (d : Down) (s v : State) : Prop :=
  let tallied := fun p => ∃ u, (s.alc.child.get p).taken = some u ∧ u.round = d.round
  (∀ p, (s.rgt.port.get p).role = .child → tallied p → (v.line.get p).waiting = insertFrame f (s.line.get p).waiting) ∧
  (∀ p, ¬ ((s.rgt.port.get p).role = .child ∧ tallied p) → (v.line.get p).waiting = (s.line.get p).waiting) ∧
  (∀ l : List Port, l.Nodup → (∀ p, p ∈ l ↔ (s.rgt.port.get p).role = .child ∧ ¬ tallied p) →
    v.alc.cntWithheld = l.foldl (fun n _ => satInc n) s.alc.cntWithheld)

theorem State.forwardDown_goes : State.DownGoes f d s (s.forwardDown f d) := by
  refine ⟨fun p hc ht => ?_, fun p hn => ?_, fun l hl hm => ?_⟩
  · rw [State.forwardDown_waiting, if_pos (State.forwardsOn_iff.mpr ⟨hc, ht⟩)]
  · rw [State.forwardDown_waiting, if_neg (mt State.forwardsOn_iff.mp hn)]
  · exact State.forwardDown_cntWithheld hl fun p => (hm p).trans State.withholdsOn_iff.symm

/-- The result that is kept for the Umpire changes nothing of it. -/
theorem State.DownGoes.strokeDown {v : State} (hv : State.DownGoes f d s v) (x : Option (Nat × AlcResult)) :
    State.DownGoes f d s (v.modAlc fun a => { a with strokeDown := x }) := hv

/-! ### A DOWN that arrives (03 R77, R84, R94, R95) -/

/-- The frame as a controller passes it on: one hop further. -/
def relayedDown (h : Hdr) (d : Down) : Frame := ⟨h.src, h.crew, h.dest, h.seq, h.hops + 1, h.hopLimit, h.hopLocal, .down d, false⟩

/-- A DOWN in the Stroke role of this crew by another controller, outside a drill. -/
def State.isRival (d : Down) (s : State) : Prop :=
  d.byBow = true ∧ d.drill = false ∧ d.crew = s.rgt.crew ∧ d.originator ≠ s.rgt.id

theorem State.demote_noStroke (hr : s.rgt.role ≠ .stroke) : s.demote = s := by
  rw [State.demote, if_pos (by simp [hr])]

theorem State.cutThrough_intact (ha : h.aborted = false) (hk : h.crcOk = true) : s.cutThrough p h f d = s := by
  rw [State.cutThrough, if_pos (by simp [ha, hk])]

/-- What a DOWN that its port has taken in does, by its kind. -/
def State.takeDown (p : Port) (f : Frame) (d : Down) (s : State) : State :=
  match s.downKind p d with
  | none => s
  | some .takeover => ((s.noteDown d).spreadTakeover f).followBow
  | some _ =>
    let v := (s.noteDown d).forwardDown f d
    if d.originator = v.alc.stroke then v.modAlc fun a => { a with strokeDown := some (d.round, d.res) } else v

theorem exec_downReceive (hs : s.supplied = true) (hr : s.pwr.controlReady = true) (ht : s.alcSync.takesIn p h = true) :
    let t := s.alcSync.received p h
    (t.isRival d → exec (.downReceive p h d) s = .next (t.demote.takeDown p (relayedDown h d) d)) ∧
    (¬ t.isRival d → exec (.downReceive p h d) s = .next (t.takeDown p (relayedDown h d) d)) := by
  intro t
  obtain ⟨ha, hk⟩ := State.takesIn_intact ht
  have hx : ∀ u, (if d.byBow && !d.drill && d.crew = t.rgt.crew && d.originator ≠ t.rgt.id then t.demote else t) = u →
      exec (.downReceive p h d) s = .next (u.takeDown p (relayedDown h d) d) := by
    intro u hu
    show execDownReceive p h d s = _
    rw [execDownReceive, State.live_supplied _ hs, if_neg (by simp [hr])]
    dsimp only
    rw [State.rx_takesIn _ ht, State.cutThrough_intact ha hk, hu]
    unfold State.takeDown relayedDown
    generalize u.downKind p d = k
    rcases k with _ | _ | _ | _ <;> rfl
  have hb : (d.byBow && !d.drill && decide (d.crew = t.rgt.crew) && decide (d.originator ≠ t.rgt.id)) = true ↔ t.isRival d := by
    simp [State.isRival, and_assoc]
  exact ⟨fun hv => hx _ (if_pos (hb.mpr hv)), fun hv => hx _ (if_neg (mt hb.mp hv))⟩

theorem State.takeDown_discarded (hk : s.downKind p d = none) : s.takeDown p f d = s := by
  rw [State.takeDown, hk]

theorem State.takeDown_takeover (hk : s.downKind p d = some .takeover) :
    s.takeDown p f d = ((s.noteDown d).spreadTakeover f).followBow := by
  rw [State.takeDown, hk]

/-- A DOWN of the trees in force is noted and forwarded; one of the Stroke's is kept for the Umpire. -/
theorem State.takeDown_forwarded (hk : s.downKind p d = some .normal ∨ s.downKind p d = some .drill) :
    let v := (s.noteDown d).forwardDown f d
    s.takeDown p f d = if d.originator = v.alc.stroke then v.modAlc fun a => { a with strokeDown := some (d.round, d.res) } else v := by
  intro v
  rcases hk with hk | hk <;> rw [State.takeDown, hk]

/-- Settles O8: each port's turn concerns its own queue, and the turns that withhold the DOWN are counted; a DOWN that arrives goes the same way. -/
theorem aDownIsForwardedWhereAnUpWasTallied : Obligations.ADownIsForwardedWhereAnUpWasTallied := by
  unfold Obligations.ADownIsForwardedWhereAnUpWasTallied
  refine ⟨fun s f d => State.forwardDown_goes, ?_⟩
  intro s p h d hs hr ht t f hn hk
  have hx : exec (.downReceive p h d) s = .next (t.takeDown p f d) := by
    by_cases hv : t.isRival d
    · have hrole : t.rgt.role ≠ .stroke := fun hrole => hn ⟨hrole, hv⟩
      rw [(exec_downReceive hs hr ht).1 hv, State.demote_noStroke hrole]
      rfl
    · exact (exec_downReceive hs hr ht).2 hv
  have hg : State.DownGoes f d (t.noteDown d) (t.takeDown p f d) := by
    rw [State.takeDown_forwarded hk]
    split
    · exact State.forwardDown_goes.strokeDown _
    · exact State.forwardDown_goes
  exact ⟨_, hx, hg⟩

end Sys2Proof.Machine
end

section
/-! The commands of an allocation round: UP, search, DOWN, evaluation, apply instant (03 R73, R75, R77, R82, R84, R85, R88; 07 R183). -/
namespace Sys2Proof.Machine

variable {s : State} {p : Port} {h : Hdr}

/-! ### Without the control plane, and without admission -/

/-- With the control plane not ready no command of a round does anything. -/
theorem exec_roundCommand_notReady (hs : s.supplied = true) (hr : s.pwr.controlReady = false) (u : Up) (d : Down) :
    exec .upSend s = .next s ∧ exec (.upReceive p h u) s = .next s ∧ exec .search s = .next s ∧ exec (.downReceive p h d) s = .next s ∧
      exec .downEvaluate s = .next s ∧ exec .applyInstant s = .next s := by
  have hn : (!s.pwr.controlReady) = true := by rw [hr]; rfl
  have hna : (!s.pwr.controlReady || !s.admitted) = true := by rw [hn]; rfl
  refine ⟨?_, ?_, ?_, ?_, ?_, ?_⟩
  · show execUpSend s = _
    rw [execUpSend, State.live_supplied _ hs, if_pos hna]
  · show execUpReceive p h u s = _
    rw [execUpReceive, State.live_supplied _ hs, if_pos hn]
  · show execSearch s = _
    rw [execSearch, State.live_supplied _ hs, if_pos hna]
  · show execDownReceive p h d s = _
    rw [execDownReceive, State.live_supplied _ hs, if_pos hn]
  · show execDownEvaluate s = _
    rw [execDownEvaluate, State.live_supplied _ hs, if_pos hn]
  · show execApplyInstant s = _
    rw [execApplyInstant, State.live_supplied _ hs, if_pos hn]

theorem State.admitted_iff : s.admitted = true ↔ s.rgt.role ≠ .notAdmitted := by rw [State.admitted, bne_iff_ne]

/-- A controller that is not admitted sends no UP and does not search. -/
theorem exec_upSend_search_notAdmitted (hs : s.supplied = true) (hn : s.rgt.role = .notAdmitted) :
    exec .upSend s = .next s ∧ exec .search s = .next s := by
  have hna : (!s.pwr.controlReady || !s.admitted) = true := by simp [State.admitted, hn]
  constructor
  · show execUpSend s = _
    rw [execUpSend, State.live_supplied _ hs, if_pos hna]
  · show execSearch s = _
    rw [execSearch, State.live_supplied _ hs, if_pos hna]

section
variable (hs : s.supplied = true) (hr : s.pwr.controlReady = true)
include hs hr

/-! ### UP frames (03 R73, R75) -/

/-- At its send time a member in time tallies the round and sends its UP to its parent; others only reach that time. -/
theorem exec_upSend (hm : s.rgt.role ≠ .notAdmitted) :
    let t := (s.runToOffset s.alcSync.upOffset).alcSync
    (∀ p, t.isRoot = false → t.rgt.outOfTime = false → t.rootDist ≤ 12 → t.rootPort = some p →
      exec .upSend s = .next ((t.tally t.round).1.sendFrame p
        (((t.tally t.round).1.neighbourId (some p)).map fun c => (c, (t.tally t.round).1.rgt.crew)) 1 false (.up (t.tally t.round).2))) ∧
    (t.isRoot = true ∨ t.rgt.outOfTime = true ∨ 12 < t.rootDist ∨ t.rootPort = none → exec .upSend s = .next t) := by
  intro t
  have hna : ¬ (!s.pwr.controlReady || !s.admitted) = true := by simp [hr, State.admitted_iff.mpr hm]
  constructor
  · intro p hroot htime hdist hport
    have hp : (if t.isRoot || t.rgt.outOfTime || 12 < t.rootDist then none else t.rootPort) = some p := by
      simp [hroot, htime, hport, Nat.not_lt.mpr hdist]
    show execUpSend s = _
    rw [execUpSend, State.live_supplied _ hs, if_neg hna]
    dsimp only
    rw [hp]
  · intro hx
    have hp : (if t.isRoot || t.rgt.outOfTime || 12 < t.rootDist then none else t.rootPort) = none := by
      rcases hx with hx | hx | hx | hx <;> simp [hx]
    show execUpSend s = _
    rw [execUpSend, State.live_supplied _ hs, if_neg hna]
    dsimp only
    rw [hp]

/-- An UP of the round on a CHILD port that comes in time, of that child, with falling demand and rising supply, is taken; any other is
counted late. -/
theorem exec_upReceive_child (u : Up) (hc : (s.alcSync.rgt.port.get p).role = .child) (ha : (s.alcSync.rgt.port.get p).carries .alloc = true)
    (ht : s.alcSync.takesIn p h = true) :
    let v := s.alcSync.received p h
    let ok := v.now ≤ v.roundStart + (if v.isRoot = true then 80000 else v.upOffset - 100) ∧ u.round = v.round ∧ v.neighbourId (some p) = some h.src ∧
      monotone (fun a b => decide (b ≤ a)) u.d = true ∧ monotone (fun a b => decide (a ≤ b)) u.s = true
    (ok → exec (.upReceive p h u) s = .next (v.modChild p fun x => { x with taken := some u })) ∧
    (¬ ok → exec (.upReceive p h u) s = .next v.lateChild) := by
  intro v ok
  obtain ⟨hab, hcrc⟩ := State.takesIn_intact ht
  have hok : (decide (v.now ≤ v.roundStart + (if v.isRoot then 80000 else v.upOffset - 100)) && u.round == v.round &&
      v.neighbourId (some p) == some h.src && monotone (fun a b => decide (b ≤ a)) u.d && monotone (fun a b => decide (a ≤ b)) u.s) = true ↔ ok := by
    simp only [Bool.and_eq_true, decide_eq_true_eq, beq_iff_eq, and_assoc, ok]
  have hx : exec (.upReceive p h u) s = .next (if ok then v.modChild p fun x => { x with taken := some u } else v.lateChild) := by
    show execUpReceive p h u s = _
    rw [execUpReceive, State.live_supplied _ hs, if_neg (by simp [hr])]
    dsimp only
    rw [if_neg (by simp [hc, ha]), if_neg (by simp [hab, hcrc]), State.rx_takesIn _ ht]
    exact congrArg Host.Outcome.next (ite_congr (propext hok) (fun _ => rfl) fun _ => rfl)
  exact ⟨fun h => by rw [hx, if_pos h], fun h => by rw [hx, if_neg h]⟩

/-- On another port an UP is only a frame that arrived. -/
theorem exec_upReceive_other (u : Up) (hc : (s.alcSync.rgt.port.get p).role ≠ .child) (ht : s.alcSync.takesIn p h = true) :
    exec (.upReceive p h u) s = .next (s.alcSync.received p h) := by
  show execUpReceive p h u s = _
  rw [execUpReceive, State.live_supplied _ hs, if_neg (by simp [hr])]
  dsimp only
  rw [if_pos (by simp [hc]), State.rx_takesIn _ ht, id]

/-! ### The search (03 R82, R92) -/

/-- The controller that forms the crew sum of the trees in force. -/
def State.rootCtrl (s : State) : Option CtrlId := if s.rgt.swapped = true then s.alc.bow else some s.alc.stroke

/-- The one that searches on it a second time. -/
def State.secondCtrl (s : State) : Option CtrlId := if s.rgt.swapped = true then some s.alc.stroke else s.alc.bow

/-- A MIRROR frame to the second. -/
def State.mirrorSecond (m : Mirror) (s : State) : State :=
  match s.secondCtrl with
  | some c => s.mirrorTo c m
  | none => s

omit hs hr in
theorem State.searchDone_iff :
    s.searchDone = true ↔ ∃ d, s.alc.downValid = some d ∧ d.round = s.round ∧ d.originator = s.rgt.id := by
  unfold State.searchDone
  cases s.alc.downValid <;> simp

theorem exec_search (hm : s.rgt.role ≠ .notAdmitted) :
    let t0 := (s.runToOffset 85000).alcSync
    let t := if t0.searchDone = true then (t0.runToFleet (t0.roundStart + Config.roundNs + 85000)).alcSync else t0
    exec .search s = .next (if t.isRoot = true then t.search else t) := by
  have hna : ¬ (!s.pwr.controlReady || !s.admitted) = true := by simp [hr, State.admitted_iff.mpr hm]
  show execSearch s = _
  rw [execSearch, State.live_supplied _ hs, if_neg hna]

omit hs hr in
/-- The root tallies, forms the DOWN, sends it on and notes it, and mirrors the crew sum to the Umpire and to the second. -/
theorem State.search_eq :
    s.search =
      let t1 := (s.tally s.round).1
      let u := (s.tally s.round).2
      let t2 := (t1.noteHeard s.round).modAlc fun a => { a with sum := some u }
      let t3 := if t2.rgt.swapped = true then t2 else t2.activationCheck
      let d := t3.downOf u
      let t4 := ((t3.usedSeq).forwardDown (t3.newFrame 12 (.down d)) d).noteDown d
      ((t4.modAlc fun a => { a with ownResult := some (d.round, d.res) }).mirrorUmpire (.crewSum u.round u)).mirrorSecond (.crewSum u.round u) := by
  rw [State.search]
  generalize s.tally s.round = x
  obtain ⟨t1, u⟩ := x
  dsimp only
  generalize State.mirrorUmpire _ _ = t6
  unfold State.mirrorSecond State.secondCtrl
  generalize (if t6.rgt.swapped = true then some t6.alc.stroke else t6.alc.bow) = second
  cases second <;> rfl

/-! ### DOWN evaluation and apply instant (03 R85, R88; 07 R183) -/

theorem exec_downEvaluate :
    let t := (s.runToOffset 140000).alcSync
    let t1 := if t.admitted = true then t.modAlc fun a => { a with eval := some (t.round, t.nextAlc) } else t
    exec .downEvaluate s = .next ((if t1.downNow.isSome = true ∨ t1.admitted = false then t1.catchUpCheck else t1).bowWatch).siteEval := by
  intro t t1
  show execDownEvaluate s = _
  rw [execDownEvaluate, State.live_supplied _ hs, if_neg (by simp [hr])]
  dsimp only
  simp only [Bool.or_eq_true, Bool.not_eq_true', t1, t]

theorem exec_applyInstant :
    let t := (s.runToOffset 150000).alcSync
    let t1 := if t.admitted = true then (t.noteShares).alcAct else t
    let t2 := ((t1.heldCheck).heldStart).forAll fun (o : Outlet) u => u.reversalCheck o
    exec .applyInstant s = .next (((t2.applyClamps).capsDone).forAll fun (o : Outlet) u => if u.hasOutlet o = true then u.writeGrant o else u).siteEval := by
  show execApplyInstant s = _
  rw [execApplyInstant, State.live_supplied _ hs, if_neg (by simp [hr])]

end

/-- Settles O14: each clause is a branch of its command; a search that has run in the round is that of the next. -/
theorem anAllocationRoundRuns : Obligations.AnAllocationRoundRuns := by
  unfold Obligations.AnAllocationRoundRuns
  intro s hs
  refine ⟨fun hr p h u d => exec_roundCommand_notReady hs hr u d, fun hr => ⟨exec_upSend_search_notAdmitted hs, fun hm => ?_, fun p h u => ?_,
    fun p h d ht => ?_, exec_downEvaluate hs hr, exec_applyInstant hs hr⟩⟩
  · obtain ⟨hsent, hnone⟩ := exec_upSend hs hr hm
    refine ⟨hsent, hnone, ?_⟩
    intro t0 done ran
    have hran : ∀ t, exec .search s = .next (if t.isRoot = true then t.search else t) → ran t := fun t hx =>
      ⟨fun hroot => by rw [hx, hroot, if_neg Bool.false_ne_true], fun hroot => hx.trans (congrArg _ ((if_pos hroot).trans State.search_eq))⟩
    refine ⟨fun hd => hran _ ?_, fun hd => hran _ ?_⟩
    · rw [exec_search hs hr hm, if_neg (mt State.searchDone_iff.mp hd)]
    · rw [exec_search hs hr hm, if_pos (State.searchDone_iff.mpr hd)]
  · exact ⟨exec_upReceive_child hs hr u, exec_upReceive_other hs hr u⟩
  · intro t f rival kinds
    obtain ⟨hrival, hother⟩ := exec_downReceive (d := d) hs hr ht
    have hkinds : ∀ t, exec (.downReceive p h d) s = .next (t.takeDown p f d) → kinds t := by
      refine fun t hx => ⟨fun hk => ?_, fun hk => ?_, fun hk => ⟨fun ho => ?_, fun ho => ?_⟩⟩
      · rw [hx, State.takeDown_discarded hk]
      · rw [hx, State.takeDown_takeover hk]
      · rw [hx, State.takeDown_forwarded hk, if_pos ho]
      · rw [hx, State.takeDown_forwarded hk, if_neg ho]
    exact ⟨fun hv => hkinds _ (hrival hv), fun hv => hkinds _ (hother hv)⟩

end Sys2Proof.Machine
end

section
/-! Bow and Umpire: MIRROR frames, the verdict on a round, the takeover (02 R41; 03 R91-R94, R96, R97). -/
namespace Sys2Proof.Machine

variable {s : State} {p : Port} {h : Hdr}

/-- Without the control plane neither the MIRROR frames nor the Umpire nor the Bow act. -/
theorem exec_bowCommand_notReady (hs : s.supplied = true) (hr : s.pwr.controlReady = false) (m : Mirror) :
    exec (.mirrorReceive p h m) s = .next s ∧ exec .umpireDecide s = .next s ∧ exec .takeover s = .next s := by
  have hn : (!s.pwr.controlReady) = true := by rw [hr]; rfl
  refine ⟨?_, ?_, ?_⟩
  · show execMirrorReceive p h m s = _
    rw [execMirrorReceive, State.live_supplied _ hs, if_pos hn]
  · show execUmpireDecide s = _
    rw [execUmpireDecide, State.live_supplied _ hs, if_pos (by simp [hr])]
  · show execTakeover s = _
    rw [execTakeover, State.live_supplied _ hs, if_pos hn]

/-! ### MIRROR frames (02 R41; 03 R91-R94) -/

/-- With the control plane ready, a frame that its port takes in acts on the state that follows its arrival. -/
theorem State.live_takesIn (f : State → State) (hs : s.supplied = true) (hr : s.pwr.controlReady = true) (ht : s.alcSync.takesIn p h = true) :
    s.live (fun s => if !s.pwr.controlReady then s else s.alcSync.rx p h f) = .next (f (s.alcSync.received p h)) := by
  rw [State.live_supplied _ hs, if_neg (by simp [hr]), State.rx_takesIn f ht]

/-- A MIRROR frame comes from the port's ACTIVE neighbour and is for this controller. -/
def State.knowsMirror (p : Port) (h : Hdr) (s : State) : Prop := (∃ b, s.peer p = some b ∧ b.id = h.src) ∧ s.forMe h = true

/-- Otherwise it is turned away. -/
def State.turnsMirror (p : Port) (h : Hdr) (s : State) : Bool :=
  (match s.peer p with | some b => b.id != h.src | none => true) || !s.forMe h

theorem State.turnsMirror_iff : s.turnsMirror p h = true ↔ ¬ s.knowsMirror p h := by
  unfold State.turnsMirror State.knowsMirror
  cases s.peer p with
  | none => simp
  | some b => by_cases hid : b.id = h.src <;> simp [hid]

section
variable (hs : s.supplied = true) (hr : s.pwr.controlReady = true) (ht : s.alcSync.takesIn p h = true)
include hs hr ht

theorem exec_mirrorReceive_other (k : Byte) :
    exec (.mirrorReceive p h (.other k)) s = .next ((s.alcSync.received p h).modPort p fun x => { x with cntDrop := satInc x.cntDrop }) := by
  show execMirrorReceive p h (.other k) s = _
  rw [execMirrorReceive]
  exact State.live_takesIn _ hs hr ht

theorem exec_mirrorReceive_unknown (hk : ¬ (s.alcSync.received p h).knowsMirror p h) {m : Mirror} (hm : ∀ k, m ≠ .other k) :
    exec (.mirrorReceive p h m) s = .next (s.alcSync.received p h) := by
  have hx := State.turnsMirror_iff.mpr hk
  show execMirrorReceive p h m s = _
  rw [execMirrorReceive, State.live_takesIn _ hs hr ht]
  cases m with
  | other k => exact absurd rfl (hm k)
  | _ => exact congrArg _ (if_pos hx)

section
variable (hk : (s.alcSync.received p h).knowsMirror p h)
include hk

/-- A crew sum of the round from the root is kept; the second searches on it and sends its result to the Umpire. -/
theorem exec_mirrorReceive_crewSum (n : Nat) (u : Up) :
    let t := s.alcSync.received p h
    let t1 := t.modAlc fun a => { a with mirrorSum := some (n, u), sum := some u }
    exec (.mirrorReceive p h (.crewSum n u)) s = .next (
      if t.rootCtrl ≠ some h.src ∨ n ≠ t.round then t
      else if t.secondCtrl = some t.rgt.id then
        (t1.modAlc fun a => { a with ownResult := some (n, t1.resultOf u) }).mirrorUmpire (.result n (t1.resultOf u))
      else t1) := by
  intro t t1
  have hroot : (decide (t.rootCtrl ≠ some h.src) || decide (n ≠ t.round)) = true ↔ t.rootCtrl ≠ some h.src ∨ n ≠ t.round := by simp
  show execMirrorReceive p h (.crewSum n u) s = _
  rw [execMirrorReceive, State.live_takesIn _ hs hr ht]
  exact congrArg _ ((if_neg fun hx => State.turnsMirror_iff.mp hx hk).trans (ite_congr (propext hroot) (fun _ => rfl) fun _ => rfl))

/-- A result of the round from the second is kept at the Umpire. -/
theorem exec_mirrorReceive_result (n : Nat) (r : AlcResult) :
    let t := s.alcSync.received p h
    exec (.mirrorReceive p h (.result n r)) s = .next (
      if t.secondCtrl = some h.src ∧ n = t.round ∧ t.isUmpire = true then t.modAlc fun a => { a with mirrorResult := some (n, r) } else t) := by
  intro t
  have hsec : (decide (t.secondCtrl = some h.src) && decide (n = t.round) && t.isUmpire) = true ↔
      t.secondCtrl = some h.src ∧ n = t.round ∧ t.isUmpire = true := by simp [and_assoc]
  show execMirrorReceive p h (.result n r) s = _
  rw [execMirrorReceive, State.live_takesIn _ hs hr ht]
  exact congrArg _ ((if_neg fun hx => State.turnsMirror_iff.mp hx hk).trans (ite_congr (propext hsec) (fun _ => rfl) fun _ => rfl))

/-- NAME from the Umpire names the Bow for a round. -/
theorem exec_mirrorReceive_name (n : Nat) (k : Byte) :
    let t := s.alcSync.received p h
    exec (.mirrorReceive p h (.name n k)) s = .next (
      if t.cfg.active.umpire = .ctrl h.src ∧ t.alc.bow = some t.rgt.id ∧ t.rgt.role = .bow then t.modAlc fun a => { a with named := some n } else t) := by
  intro t
  have hbow : (t.cfg.active.umpire == .ctrl h.src && decide (t.alc.bow = some t.rgt.id) && decide (t.rgt.role = .bow)) = true ↔
      t.cfg.active.umpire = .ctrl h.src ∧ t.alc.bow = some t.rgt.id ∧ t.rgt.role = .bow := by simp [and_assoc]
  show execMirrorReceive p h (.name n k) s = _
  rw [execMirrorReceive, State.live_takesIn _ hs hr ht]
  exact congrArg _ ((if_neg fun hx => State.turnsMirror_iff.mp hx hk).trans (ite_congr (propext hbow) (fun _ => rfl) fun _ => rfl))

/-- DEMOTE from the Umpire demotes. -/
theorem exec_mirrorReceive_demote (n : Nat) (k : Byte) :
    let t := s.alcSync.received p h
    exec (.mirrorReceive p h (.demote n k)) s = .next (if t.cfg.active.umpire = .ctrl h.src then t.demote else t) := by
  intro t
  have hump : (t.cfg.active.umpire == .ctrl h.src) = true ↔ t.cfg.active.umpire = .ctrl h.src := by simp
  show execMirrorReceive p h (.demote n k) s = _
  rw [execMirrorReceive, State.live_takesIn _ hs hr ht]
  exact congrArg _ ((if_neg fun hx => State.turnsMirror_iff.mp hx hk).trans (ite_congr (propext hump) (fun _ => rfl) fun _ => rfl))

end

end

end Sys2Proof.Machine
end

section
/-! The Umpire's verdict on a round, and the takeover by the Bow (03 R91, R93, R94, R97). -/
namespace Sys2Proof.Machine

variable {s : State}

/-! ### The verdict on a round (03 R93) -/

section
variable {t : State} {bow : CtrlId} {d b : Option AlcResult} {m : Option Up} {x y : AlcResult}

/-- The rounds in succession in which neither a DOWN of the Stroke nor a crew sum has come, with the one that is judged. -/
def State.silentWith (d : Option AlcResult) (m : Option Up) (t : State) : Nat := if d = none ∧ m = none then t.alc.silent + 1 else 0

/-- The Umpire has counted the silent rounds. -/
def State.silentCounted (d : Option AlcResult) (m : Option Up) (t : State) : State := t.modAlc fun a => { a with silent := t.silentWith d m }

/-- A DOWN beside which no result of the Bow has come is noted. -/
def State.bowMissed (d b : Option AlcResult) (t : State) : State := if d.isSome = true ∧ b = none then t.raise .alc 11 else t

theorem State.silentWith_eq : (if d.isNone && m.isNone then t.alc.silent + 1 else 0) = t.silentWith d m := by simp [State.silentWith]

theorem State.bowMissed_eq : (if d.isSome && b.isNone then t.raise .alc 11 else t) = t.bowMissed d b := by simp [State.bowMissed]

/-- The second silent round names the Bow. -/
theorem State.umpireJudge_silent (hk : t.silentWith d m = 2) :
    t.umpireJudge bow d b m = (((t.silentCounted d m).mirrorTo bow (.name (t.round + 1) 1)).raise .alc 8).bowMissed d b := by
  unfold State.umpireJudge
  dsimp only
  rw [State.bowMissed_eq, State.silentWith_eq, if_pos hk, State.silentCounted]

/-- Nothing follows where a result is missing or both are equal. -/
theorem State.umpireJudge_agreed (hk : t.silentWith d m ≠ 2) (he : d = none ∨ b = none ∨ d = b) :
    t.umpireJudge bow d b m = (t.silentCounted d m).bowMissed d b := by
  unfold State.umpireJudge
  dsimp only
  rw [State.bowMissed_eq, State.silentWith_eq, if_neg hk, State.silentCounted]
  cases d with
  | none => rfl
  | some x =>
    cases b with
    | none => rfl
    | some y =>
      have hxy : x = y := by simpa using he
      exact congrArg _ (if_pos hxy)

/-- Of two results that differ the one that the crew sum gives is right; without either there is no decision. -/
theorem State.umpireJudge_differing (hk : t.silentWith d m ≠ 2) (hd : d = some x) (hb : b = some y) (hxy : x ≠ y) :
    let u := t.silentCounted d m
    t.umpireJudge bow d b m = State.bowMissed d b
      (if m.map u.resultOf = some y then ((u.mirrorTo u.alc.stroke (.demote (t.round + 1) 2)).mirrorTo bow (.name (t.round + 1) 2)).raise .alc 9
      else if m.map u.resultOf = some x then u.raise .alc 10
      else u.raise .alc 12) := by
  intro u
  subst hd hb
  unfold State.umpireJudge
  dsimp only
  rw [State.bowMissed_eq, State.silentWith_eq, if_neg hk, if_neg hxy]
  cases m with
  | none => rfl
  | some v => simp only [Option.map_some, Option.some.injEq, u, State.silentCounted]

/-- The verdict on a round of a drill: only two results that differ say anything. -/
def State.drillJudged (t : State) : State :=
  match t.downResult, ofRound t.round t.alc.mirrorResult with
  | some x, some y => if x = y then t else t.raise .alc 15
  | _, _ => t

theorem State.drillJudged_differing (hd : t.downResult = some x) (hb : ofRound t.round t.alc.mirrorResult = some y) (hxy : x ≠ y) :
    t.drillJudged = t.raise .alc 15 := by
  rw [State.drillJudged, hd, hb]
  exact if_neg hxy

theorem State.drillJudged_agreed (he : ∀ x y, t.downResult = some x → ofRound t.round t.alc.mirrorResult = some y → x = y) :
    t.drillJudged = t := by
  unfold State.drillJudged
  split
  case h_1 x y hd hb => exact if_pos (he x y hd hb)
  case h_2 => rfl

end

/-! ### UMPIRE_DECIDE (03 R91, R93, R97) -/

theorem exec_umpireDecide_other (hs : s.supplied = true) (hu : s.isUmpire = false) : exec .umpireDecide s = .next s := by
  show execUmpireDecide s = _
  rw [execUmpireDecide, State.live_supplied _ hs, if_pos (by simp [hu])]

section
variable (hs : s.supplied = true) (hr : s.pwr.controlReady = true) (hu : s.isUmpire = true)
include hs hr hu

theorem exec_umpireDecide_noBow :
    let t := (s.runToOffset 130000).alcSync
    t.alc.bow = none → exec .umpireDecide s = .next (t.raise .alc 13) := by
  intro t hb
  show execUmpireDecide s = _
  rw [execUmpireDecide, State.live_supplied _ hs, if_neg (by simp [hr, hu])]
  dsimp only
  rw [hb]

/-- Without a port to one of the two the Umpire cannot judge. -/
theorem exec_umpireDecide_unlinked {bow : CtrlId} :
    let t := (s.runToOffset 130000).alcSync
    t.alc.bow = some bow → t.portTo bow = none ∨ t.portTo t.alc.stroke = none → exec .umpireDecide s = .next (t.raise .alc 13) := by
  intro t hb hp
  show execUmpireDecide s = _
  rw [execUmpireDecide, State.live_supplied _ hs, if_neg (by simp [hr, hu])]
  dsimp only
  rw [hb]
  exact congrArg _ (if_pos (by simpa using hp))

/-- Linked to both it judges the round, one of a drill by the results alone. -/
theorem exec_umpireDecide_linked {bow : CtrlId} {p q : Port} :
    let t := (s.runToOffset 130000).alcSync
    t.alc.bow = some bow → t.portTo bow = some p → t.portTo t.alc.stroke = some q →
    exec .umpireDecide s = .next (
      if t.rgt.swapped = true then t.drillJudged
      else t.umpireJudge bow (ofRound t.round t.alc.strokeDown) (ofRound t.round t.alc.mirrorResult) (ofRound t.round t.alc.mirrorSum)) := by
  intro t hb hp hq
  have hl : ¬ ((t.portTo bow).isNone || (t.portTo t.alc.stroke).isNone) = true := by simp [hp, hq]
  show execUmpireDecide s = _
  rw [execUmpireDecide, State.live_supplied _ hs, if_neg (by simp [hr, hu])]
  dsimp only
  rw [hb]
  exact congrArg _ (if_neg hl)

end

/-! ### TAKEOVER (03 R94, R96) -/

/-- The HOLD DOWN with which the Bow takes the Stroke role over. -/
def State.holdDown (t : State) : Down :=
  { round := t.round, res := ⟨0, 0, false, 0, 0⟩, byBow := true, hold := true, drill := false, shed := false, pair := t.ownPair,
    originator := t.rgt.id, crew := t.rgt.crew, members := t.alc.downMembers, absent := t.alc.downAbsent,
    curtail := t.alc.crewCurtail, drillRound := 0, actRound := 0, notices := [], divergent := t.alc.divergent }

section
variable (hs : s.supplied = true) (hr : s.pwr.controlReady = true)
include hs hr

/-- A controller that is named sends the HOLD DOWN of its round and follows itself, if it still is the Bow. -/
theorem exec_takeover_named {m : Nat} (hm : s.alc.named = some m) :
    (s.rgt.role ≠ .bow → exec .takeover s = .next (s.modAlc fun a => { a with named := none })) ∧
    (s.rgt.role = .bow →
      let t := s.runToFleet (m * Config.roundNs + 85000)
      exec .takeover s = .next ((((t.usedSeq).spreadTakeover (t.newFrame 12 (.down t.holdDown))).noteDown t.holdDown).cancelActivation.modAlc fun a =>
        { a with named := none }).followBow) := by
  constructor
  · intro hb
    show execTakeover s = _
    rw [execTakeover, State.live_supplied _ hs, if_neg (by simp [hr]), hm]
    exact congrArg _ (if_pos hb)
  · intro hb t
    show execTakeover s = _
    rw [execTakeover, State.live_supplied _ hs, if_neg (by simp [hr]), hm]
    exact congrArg _ (if_neg (not_not_intro hb))

/-- A demoted Stroke goes to the round from which it is a member. -/
theorem exec_takeover_demoted {k : Nat} (hm : s.alc.named = none) (hk : s.alc.demoteAt = some k) :
    exec .takeover s = .next (s.runToFleet (k * Config.roundNs)).alcSync := by
  show execTakeover s = _
  rw [execTakeover, State.live_supplied _ hs, if_neg (by simp [hr]), hm, hk]

theorem exec_takeover_idle (hm : s.alc.named = none) (hk : s.alc.demoteAt = none) : exec .takeover s = .next s := by
  show execTakeover s = _
  rw [execTakeover, State.live_supplied _ hs, if_neg (by simp [hr]), hm, hk]

end

/-- Settles O15: a MIRROR frame acts by its kind and its sender, the Umpire judges by what has come of the round, the Bow acts where it is named. -/
theorem bowAndUmpireWatchTheStroke : Obligations.BowAndUmpireWatchTheStroke := by
  unfold Obligations.BowAndUmpireWatchTheStroke
  intro s hs
  refine ⟨fun hr p h m => exec_bowCommand_notReady hs hr m, fun hr => ⟨?mirror, exec_umpireDecide_other hs, fun hu => ?umpire, fun m => exec_takeover_named hs hr,
    fun k => exec_takeover_demoted hs hr, exec_takeover_idle hs hr⟩⟩
  case mirror =>
    intro p h ht t known root second
    refine ⟨exec_mirrorReceive_other hs hr ht, fun hk m hm => exec_mirrorReceive_unknown hs hr ht hk hm,
      fun hk => ⟨fun n u => ⟨fun hn => ?_, fun hroot hn => ⟨fun hsec => ?_, fun hsec => ?_⟩⟩, fun n r => ⟨fun hc => ?_, fun hc => ?_⟩,
        fun n k => ⟨fun hc => ?_, fun hc => ?_⟩, fun n k => ⟨fun hc => ?_, fun hc => ?_⟩⟩⟩
    · exact (exec_mirrorReceive_crewSum hs hr ht hk n u).trans (congrArg _ (if_pos hn))
    · have hn' : ¬ (root ≠ some h.src ∨ n ≠ t.round) := by simp [hroot, hn]
      exact (exec_mirrorReceive_crewSum hs hr ht hk n u).trans (congrArg _ ((if_neg hn').trans (if_neg hsec)))
    · have hn' : ¬ (root ≠ some h.src ∨ n ≠ t.round) := by simp [hroot, hn]
      exact (exec_mirrorReceive_crewSum hs hr ht hk n u).trans (congrArg _ ((if_neg hn').trans (if_pos hsec)))
    · exact (exec_mirrorReceive_result hs hr ht hk n r).trans (congrArg _ (if_pos hc))
    · exact (exec_mirrorReceive_result hs hr ht hk n r).trans (congrArg _ (if_neg hc))
    · exact (exec_mirrorReceive_name hs hr ht hk n k).trans (congrArg _ (if_pos hc))
    · exact (exec_mirrorReceive_name hs hr ht hk n k).trans (congrArg _ (if_neg hc))
    · exact (exec_mirrorReceive_demote hs hr ht hk n k).trans (congrArg _ (if_pos hc))
    · exact (exec_mirrorReceive_demote hs hr ht hk n k).trans (congrArg _ (if_neg hc))
  case umpire =>
    intro t n
    refine ⟨exec_umpireDecide_noBow hs hr hu, fun bow => exec_umpireDecide_unlinked hs hr hu, fun bow p q hb hp hq => ?_⟩
    have hx := exec_umpireDecide_linked hs hr hu hb hp hq
    intro b
    refine ⟨fun hw => ?drill, fun hw => ?round⟩
    case drill =>
      have hv := hx.trans (congrArg _ (if_pos hw))
      exact ⟨fun x y hd hm hxy => hv.trans (congrArg _ (State.drillJudged_differing hd hm hxy)),
        fun he => hv.trans (congrArg _ (State.drillJudged_agreed he))⟩
    case round =>
      have hv := hx.trans (congrArg _ (if_neg (Bool.eq_false_iff.mp hw)))
      intro d m k u noted
      refine ⟨fun hk => hv.trans (congrArg _ (State.umpireJudge_silent hk)), fun hk he => hv.trans (congrArg _ (State.umpireJudge_agreed hk he)),
        fun x y hk hd hm hxy => ?_⟩
      have hj := hv.trans (congrArg _ (State.umpireJudge_differing hk hd hm hxy))
      refine ⟨fun hy => ?_, fun hx' => ?_, fun hy hx' => ?_⟩
      · exact hj.trans (congrArg (Host.Outcome.next ∘ noted) (if_pos hy))
      · have hy : ¬ m.map u.resultOf = some y := fun hy => hxy (Option.some.inj (hx'.symm.trans hy))
        exact hj.trans (congrArg (Host.Outcome.next ∘ noted) ((if_neg hy).trans (if_pos hx')))
      · exact hj.trans (congrArg (Host.Outcome.next ∘ noted) ((if_neg hy).trans (if_neg hx')))

end Sys2Proof.Machine
end

section
/-! The CURTAIL pins, drill and restore rounds, the allocation descriptors (03 R78, R81, R87, R96-R98). -/
namespace Sys2Proof.Machine

variable {s : State}

/-! ### The CURTAIL pins (03 R81) -/

/-- The pins have been sampled at the next CLK_TICK edge. -/
def State.curtailNoted (c1 c0 : Bool) (s : State) : State :=
  (s.runTo ((s.clk.cycle / us 1 + 1) * us 1)).modAlc fun a => { a with curtailSample := BitVec.ofBool c1 ++ BitVec.ofBool c0 }

section
variable {c1 c0 : Bool} {level : BitVec 2} (hl : level = BitVec.ofBool c1 ++ BitVec.ofBool c0)
include hl

/-- The second sample of a level that differs makes it the level. -/
theorem State.curtailSampled_second (he : level = s.alc.curtailSample) (hn : level ≠ s.alc.curtail) :
    s.curtailSampled c1 c0 = ((s.curtailNoted c1 c0).modAlc fun a => { a with curtail := level }).raise .alc 16 := by
  subst hl
  exact if_pos (by simp [← he, hn])

theorem State.curtailSampled_other (hn : level ≠ s.alc.curtailSample ∨ level = s.alc.curtail) :
    s.curtailSampled c1 c0 = s.curtailNoted c1 c0 := by
  subst hl
  exact if_neg (by rcases hn with hn | hn <;> simp [hn])

end

theorem State.curtailSampled_supplied (c1 c0 : Bool) : (s.curtailSampled c1 c0).supplied = s.supplied := by
  have hp : (s.curtailSampled c1 c0).pwr = s.pwr := by
    unfold State.curtailSampled
    dsimp only
    split
    · exact (OnlyEvents.raise _ _).pwr.trans (by simp)
    · simp
  rw [State.supplied, hp, State.supplied]

theorem exec_curtailChange_nil (hs : s.supplied = true) : exec (.curtailChange []) s = .next s := by
  show execCurtailChange [] s = _
  rw [execCurtailChange, State.live_supplied _ hs, List.foldl_nil]

/-- The samples act one by one. -/
theorem exec_curtailChange_cons (hs : s.supplied = true) (c1 c0 : Bool) (l : List (Bool × Bool)) :
    exec (.curtailChange ((c1, c0) :: l)) s = exec (.curtailChange l) (s.curtailSampled c1 c0) := by
  show execCurtailChange ((c1, c0) :: l) s = execCurtailChange l (s.curtailSampled c1 c0)
  rw [execCurtailChange, execCurtailChange, State.live_supplied _ hs, State.live_supplied _ ((State.curtailSampled_supplied c1 c0).trans hs),
    List.foldl_cons]

/-! ### Drill and restore rounds (03 R97, R98) -/

section
variable (hs : s.supplied = true)
include hs

theorem exec_drillRound_none (hd : s.alc.drillRound = none) : exec .drillRound s = .next s := by
  show execDrillRound s = _
  rw [execDrillRound, State.live_supplied _ hs, hd]

/-- The start of the drill round, or of the one behind it while the trees are swapped; the drill round of a Bow in the Stroke role is none. -/
theorem exec_drillRound_some {d : Nat} (hd : s.alc.drillRound = some d) :
    exec .drillRound s = .next (
      if s.alc.strokeByBow = true then s
      else (s.runToFleet ((if s.rgt.swapped = true then d + 1 else d) * Config.roundNs)).alcSync) := by
  show execDrillRound s = _
  rw [execDrillRound, State.live_supplied _ hs, hd]

/-- The round in which the roles go back: with a Bow in the Stroke role the announced one, otherwise that of the accepted restore. -/
theorem exec_roleRestoreRound_some {d : Nat} (hd : (if s.alc.strokeByBow = true then s.alc.drillRound else s.alc.restore.map (·.1)) = some d) :
    exec .roleRestoreRound s = .next (s.runToFleet (d * Config.roundNs)).alcSync := by
  show execRoleRestoreRound s = _
  rw [execRoleRestoreRound, State.live_supplied _ hs, hd]

theorem exec_roleRestoreRound_none (hd : (if s.alc.strokeByBow = true then s.alc.drillRound else s.alc.restore.map (·.1)) = none) :
    exec .roleRestoreRound s = .next s := by
  show execRoleRestoreRound s = _
  rw [execRoleRestoreRound, State.live_supplied _ hs, hd]

end

/-! ### The allocation descriptors (03 R78, R87, R96-R98) -/

section
variable {r : Ring} {d : Desc}

/-- A slot of taken-up work is the slot before it, handed over. -/
theorem State.takeUp_slot? (q : DWord) :
    (s.takeUp r d).slot? r q = (s.slot? r q).map fun j => if j.seq = d.seq then { j with st := .handed, tookUp := true } else j := by
  have hseq : ((fun j => j.seq == q) ∘ fun j : JSlot => if j.seq = d.seq then { j with st := .handed, tookUp := true } else j) =
      fun j => j.seq == q := by
    funext j
    rw [Function.comp_apply]
    split <;> rfl
  simp only [State.slot?, State.takeUp, State.modSlot, State.modDlv_dlv, vmod_self, List.find?_map, hseq]

/-- Work that is taken up keeps the instant of its acceptance. -/
theorem State.takeUp_acceptedAt (q : DWord) : (s.takeUp r d).acceptedAt r q = s.acceptedAt r q := by
  unfold State.acceptedAt
  rw [State.takeUp_slot?]
  cases s.slot? r q with
  | none => rfl
  | some j =>
    rw [Option.map_some]
    dsimp only
    split <;> rfl

/-- Taking work up leaves the allocation, the link and the clock. -/
theorem State.takeUp_frame : (s.takeUp r d).alc = s.alc ∧ (s.takeUp r d).rgt = s.rgt ∧ (s.takeUp r d).clk = s.clk := ⟨rfl, rfl, rfl⟩

section
variable (hd : s.due r d = true)
include hd

theorem exec_alcSetCap :
    exec (.alcSetCap r d) s = .next ((s.takeUp r d).modAlc fun a =>
      { a with cap := d.w 24, capWait := a.capWait ++ [⟨r, d.seq, s.round, none, none, false⟩] }) := by
  have hround : (s.takeUp r d).round = s.round := by simp only [State.round, State.now, State.takeUp_frame]
  show execAlcSetCap r d s = _
  rw [execAlcSetCap, State.work_due _ hd, hround]

/-- A drill is announced and waits. -/
theorem exec_alcDrill_first (hw : s.alc.drillWait = none) :
    exec (.alcDrill r d) s = .next ((s.takeUp r d).modAlc fun a => { a with drillRound := some (d.q 24).toNat, drillWait := some (r, d.seq) }) := by
  show execAlcDrill r d s = _
  rw [execAlcDrill, State.work_due _ hd, State.takeUp_frame.1, hw]

/-- An earlier one completes. -/
theorem exec_alcDrill_again {q : Ring} {e : DWord} (hw : s.alc.drillWait = some (q, e)) :
    exec (.alcDrill r d) s = .next (((s.takeUp r d).complete q e 0 0).modAlc fun a =>
      { a with drillRound := some (d.q 24).toNat, drillWait := some (r, d.seq) }) := by
  show execAlcDrill r d s = _
  rw [execAlcDrill, State.work_due _ hd, State.takeUp_frame.1, hw]

theorem exec_alcTakeover :
    exec (.alcTakeover r d) s = .next (((s.takeUp r d).modAlc fun a =>
      { a with named := some (ceilDiv (s.acceptedAt r d.seq + 100000) Config.roundNs) }).complete r d.seq 0 0) := by
  show execAlcTakeover r d s = _
  rw [execAlcTakeover, State.work_due _ hd, State.takeUp_acceptedAt]

/-- A restore is announced and waits; with a Bow in the Stroke role its round is announced as a drill round is. -/
theorem exec_alcRoleRestore_first (hw : s.alc.restore = none) :
    exec (.alcRoleRestore r d) s = .next ((s.takeUp r d).modAlc fun a =>
      { a with restore := some ((d.q 24).toNat, r, d.seq), drillRound := if a.strokeByBow = true then some (d.q 24).toNat else a.drillRound }) := by
  show execAlcRoleRestore r d s = _
  rw [execAlcRoleRestore, State.work_due _ hd]
  dsimp only
  rw [State.takeUp_frame.1, hw]

/-- An earlier one completes. -/
theorem exec_alcRoleRestore_again {n : Nat} {q : Ring} {e : DWord} (hw : s.alc.restore = some (n, q, e)) :
    exec (.alcRoleRestore r d) s = .next (((s.takeUp r d).complete q e 0 0).modAlc fun a =>
      { a with restore := some ((d.q 24).toNat, r, d.seq), drillRound := if a.strokeByBow = true then some (d.q 24).toNat else a.drillRound }) := by
  show execAlcRoleRestore r d s = _
  rw [execAlcRoleRestore, State.work_due _ hd]
  dsimp only
  rw [State.takeUp_frame.1, hw]

/-- The substitution on a port ends with the first round whose send time is late enough after the acceptance. -/
theorem exec_alcHoldClear :
    let send := if s.isRoot = true then 80000 else s.upOffset
    exec (.alcHoldClear r d) s = .next (((s.takeUp r d).modChild (Fin.ofNat 4 d.target.toNat) fun x =>
      { x with endRound := some (ceilDiv (s.acceptedAt r d.seq + 20000 - send) Config.roundNs) }).complete r d.seq 0 0) := by
  have hroot : (s.takeUp r d).isRoot = s.isRoot := by simp only [State.isRoot, State.takeUp_frame]
  have hoff : (s.takeUp r d).upOffset = s.upOffset := by simp only [State.upOffset, State.rootDist, State.takeUp_frame]
  show execAlcHoldClear r d s = _
  rw [execAlcHoldClear, State.work_due _ hd]
  dsimp only
  rw [State.takeUp_acceptedAt, hroot, hoff]

end

end

/-- Settles O16: the samples act one by one, the rounds are reached at their starts, and each due descriptor acts at its take-up. -/
theorem allocationCommandsAct : Obligations.AllocationCommandsAct := by
  unfold Obligations.AllocationCommandsAct
  intro s
  refine ⟨fun hs => ⟨exec_curtailChange_nil hs, ?curtail, fun d hd => ?announced, exec_drillRound_none hs, fun hd hb => ?_, fun n q e hb hw => ?_, fun hb hw => ?_⟩,
    fun r d hd => ⟨exec_alcSetCap hd, exec_alcDrill_first hd, fun q e => exec_alcDrill_again hd, exec_alcTakeover hd, exec_alcRoleRestore_first hd,
      fun n q e => exec_alcRoleRestore_again hd, exec_alcHoldClear hd⟩⟩
  case curtail =>
    intro c1 c0 l level t
    refine ⟨fun he hn => ?_, fun hn => ?_⟩
    · rw [exec_curtailChange_cons hs, State.curtailSampled_second rfl he hn]
      rfl
    · rw [exec_curtailChange_cons hs, State.curtailSampled_other rfl hn]
      rfl
  case announced =>
    refine ⟨fun hb hw => ?_, fun hb hw => ?_, fun hb => ?_, fun hb => exec_roleRestoreRound_some hs (by rw [if_pos hb, hd])⟩
    · rw [exec_drillRound_some hs hd, if_neg (Bool.eq_false_iff.mp hb), if_neg (Bool.eq_false_iff.mp hw)]
    · rw [exec_drillRound_some hs hd, if_neg (Bool.eq_false_iff.mp hb), if_pos hw]
    · rw [exec_drillRound_some hs hd, if_pos hb]
  · exact exec_roleRestoreRound_none hs (by rw [if_pos hb, hd])
  · exact exec_roleRestoreRound_some hs (by rw [if_neg (Bool.eq_false_iff.mp hb), hw, Option.map_some])
  · exact exec_roleRestoreRound_none hs (by rw [if_neg (Bool.eq_false_iff.mp hb), hw, Option.map_none])

end Sys2Proof.Machine
end

section
/-! Staging: the copied images, the checks in their order, reports, cancelling (01 R21; 04 R109-R111; 09 R232). -/
namespace Sys2Proof.Machine

variable {s : State}

/-! ### CFG_STAGE and CFG_STAGE_CANCEL (04 R109) -/

section
variable {r : Ring} {d : Desc} (hd : s.due r d = true)
include hd

/-- An announced activation keeps the staging it is about (01 R21). -/
theorem exec_cfgStage_announced (ha : s.cfg.actRound.isSome = true) :
    exec (.cfgStage r d) s = .next ((s.takeUp r d).complete r d.seq 0 (s.cfg.stagedStatus.setWidth 32)) := by
  show execCfgStage r d s = _
  rw [execCfgStage, State.work_due _ hd]
  exact congrArg Host.Outcome.next (if_pos ha)

/-- The crew image fills the first pages of the list, the part the pages behind it. -/
theorem exec_cfgStage_copied (ha : s.cfg.actRound = none) :
    let n := ceilDiv (d.w 28).toNat 4096
    let refs := s.listRefs (d.w 24) (n + ceilDiv (d.w 32).toNat 4096)
    exec (.cfgStage r d) s = .next ((s.takeUp r d).stage ((s.readPages (refs.take n)).take (d.w 28).toNat)
      ((s.readPages (refs.drop n)).take (d.w 32).toNat) (some (r, d.seq))) := by
  intro n refs
  have hf : ¬ (s.takeUp r d).refStage = true := by
    show ¬ s.cfg.actRound.isSome = true
    rw [ha]
    exact Bool.false_ne_true
  show execCfgStage r d s = _
  rw [execCfgStage, State.work_due _ hd]
  exact congrArg Host.Outcome.next (if_neg hf)

/-- A staging that no verification awaits is emptied. -/
theorem exec_cfgStageCancel_idle (hw : s.cfg.stageWait = none) :
    exec (.cfgStageCancel r d) s = .next ((((s.takeUp r d).modCfg fun c =>
      { c with staged := none, stagedStatus := 0, stagedPair := ⟨0, 0⟩, stageWait := none, catchUpRound := none }).sendReport).complete r d.seq 0 0) := by
  have hw' : (s.takeUp r d).cfg.stageWait = none := hw
  show execCfgStageCancel r d s = _
  rw [execCfgStageCancel, State.work_due _ hd]
  dsimp only
  rw [hw']

/-- The descriptor of a running verification completes first. -/
theorem exec_cfgStageCancel_running {q : Ring} {e : DWord} (hw : s.cfg.stageWait = some (q, e)) :
    exec (.cfgStageCancel r d) s = .next (((((s.takeUp r d).complete q e 0 0).modCfg fun c =>
      { c with staged := none, stagedStatus := 0, stagedPair := ⟨0, 0⟩, stageWait := none, catchUpRound := none }).sendReport).complete r d.seq 0 0) := by
  have hw' : (s.takeUp r d).cfg.stageWait = some (q, e) := hw
  show execCfgStageCancel r d s = _
  rw [execCfgStageCancel, State.work_due _ hd]
  dsimp only
  rw [hw']

end

/-- A staging that replaces no running verification. -/
theorem State.stage_idle {crew part : List Byte} {who : Option (Ring × DWord)} (hw : s.cfg.stageWait = none) :
    s.stage crew part who = (s.modCfg fun c =>
      { c with staged := some ⟨!c.activeB, crew, part, contentsOf s.glb.variant crew part⟩, stagedStatus := 1,
               stagedPair := ⟨BitVec.ofNat 32 (u32 crew 8), imageDigest crew⟩, stageWait := who, catchUpRound := none }).sendReport := by
  rw [State.stage, hw]

/-! ### The checks of a verification (04 R110) -/

section
variable {g : Staged} {cs ps : List Section} {sigOk : Bool}

/-- The entry of this device in the list of members. -/
def State.stageMember (s : State) (cs : List Section) : Option MemberEntry :=
  (memberEntries ((bodyOf cs 1).getD [])).find? fun m => m.identity == s.key.stateDigest

/-- The image names the key that is the anchor for configurations. -/
def State.StageKeyed (s : State) (g : Staged) : Prop := ∃ a, s.anchor 1 = some a ∧ digestAt g.crew 32 = a.digest

/-- The device is a member, of the admitted identity where it has one. -/
def State.StageListed (s : State) (g : Staged) (cs : List Section) : Prop :=
  ∃ m, s.stageMember cs = some m ∧ (s.rgt.role = .notAdmitted ∨ m.id = s.rgt.id ∧ BitVec.ofNat 4 (u16 g.crew 16 / 4096) = s.rgt.crew)

/-- The epoch is past the device's own, or the crew already has this pair. -/
def State.StageNewer (s : State) (g : Staged) : Prop :=
  s.cfg.active.pair.epoch.toNat < u32 g.crew 8 ∨ s.alc.crewPair = some s.cfg.stagedPair

/-- The part is the one that the crew image names for this device. -/
def State.StagePart (s : State) (g : Staged) (cs : List Section) : Prop :=
  ∃ m, s.stageMember cs = some m ∧ imageDigest g.part = m.part ∧ u16 g.part 16 % 4096 = m.id.toNat ∧ u32 g.part 8 = u32 g.crew 8

/-- The part uses only what the variant has. -/
def State.StagePresent (s : State) (g : Staged) (ps : List Section) : Prop := resourcesPresent s.glb.variant g.part ps = true

/-- Every section can be read and lies within its ranges. -/
def State.StageReads (s : State) (g : Staged) (cs ps : List Section) : Prop :=
  (decodeImage s.glb.variant s.pwm.dtMin.toNat g.crew g.part cs ps).isSome = true

theorem State.stageStatus_long (hl : 524288 < g.crew.length ∨ 131072 < g.part.length) : s.stageStatus g sigOk = 9 :=
  if_pos (by simpa using hl)

theorem State.stageStatus_unframed (hl : ¬ (524288 < g.crew.length ∨ 131072 < g.part.length))
    (hf : framing 1 g.crew = none ∨ framing 2 g.part = none) : s.stageStatus g sigOk = 5 := by
  rw [State.stageStatus, if_neg (by simpa using hl)]
  rcases hf with hf | hf
  · rw [hf]
  · rw [hf]
    cases framing 1 g.crew <;> rfl

section
variable (hl : ¬ (524288 < g.crew.length ∨ 131072 < g.part.length)) (hc : framing 1 g.crew = some cs) (hp : framing 2 g.part = some ps)
include hl hc hp

open Classical in
/-- What is short enough and well framed goes through the other checks in turn. -/
theorem State.stageStatus_framed :
    s.stageStatus g sigOk =
      if s.StageKeyed g then
        if sigOk = true then
          if s.StageListed g cs then
            if s.StageNewer g then
              if s.StagePart g cs then
                if s.StagePresent g ps then
                  if s.StageReads g cs ps then 2 else 5
                else 7
              else 8
            else 6
          else 7
        else 3
      else 4 := by
  have hb : s.stageStatus g sigOk =
      if !(s.anchor 1).any fun a => digestAt g.crew 32 == a.digest then 4
      else if !sigOk then 3
      else if !(s.stageMember cs).any fun m => !s.admitted || (m.id == s.rgt.id && BitVec.ofNat 4 (u16 g.crew 16 / 4096) == s.rgt.crew) then 7
      else if !(decide (s.cfg.active.pair.epoch.toNat < u32 g.crew 8) || s.alc.crewPair == some s.cfg.stagedPair) then 6
      else if !(s.stageMember cs).any fun m =>
        decide (imageDigest g.part = m.part) && u16 g.part 16 % 4096 == m.id.toNat && u32 g.part 8 == u32 g.crew 8 then 8
      else if !resourcesPresent s.glb.variant g.part ps then 7
      else if !(decodeImage s.glb.variant s.pwm.dtMin.toNat g.crew g.part cs ps).isSome then 5
      else 2 := by
    rw [State.stageStatus, if_neg (by simpa using hl), hc, hp, Option.not_isSome, State.stageMember]
    dsimp only
    cases s.anchor 1 <;> cases (memberEntries ((bodyOf cs 1).getD [])).find? fun m => m.identity == s.key.stateDigest <;> rfl
  simp only [hb, Bool.not_eq_true', ← Bool.not_eq_true, ite_not, Option.any_eq_true, Bool.and_eq_true, Bool.or_eq_true, beq_iff_eq,
    decide_eq_true_eq, State.admitted_iff, ne_eq, Decidable.not_not, and_assoc,
    State.StageKeyed, State.StageListed, State.StageNewer, State.StagePart, State.StagePresent, State.StageReads]
  congr

theorem State.stageStatus_unkeyed (hk : ¬ s.StageKeyed g) : s.stageStatus g sigOk = 4 := by
  rw [State.stageStatus_framed hl hc hp, if_neg hk]

theorem State.stageStatus_unsigned (hk : s.StageKeyed g) (hv : sigOk = false) : s.stageStatus g sigOk = 3 := by
  rw [State.stageStatus_framed hl hc hp, if_pos hk, if_neg (Bool.eq_false_iff.mp hv)]

theorem State.stageStatus_unlisted (hk : s.StageKeyed g) (hv : sigOk = true) (hm : ¬ s.StageListed g cs) : s.stageStatus g sigOk = 7 := by
  rw [State.stageStatus_framed hl hc hp, if_pos hk, if_pos hv, if_neg hm]

theorem State.stageStatus_older (hk : s.StageKeyed g) (hv : sigOk = true) (hm : s.StageListed g cs) (hn : ¬ s.StageNewer g) :
    s.stageStatus g sigOk = 6 := by
  rw [State.stageStatus_framed hl hc hp, if_pos hk, if_pos hv, if_pos hm, if_neg hn]

theorem State.stageStatus_otherPart (hk : s.StageKeyed g) (hv : sigOk = true) (hm : s.StageListed g cs) (hn : s.StageNewer g)
    (ho : ¬ s.StagePart g cs) : s.stageStatus g sigOk = 8 := by
  rw [State.stageStatus_framed hl hc hp, if_pos hk, if_pos hv, if_pos hm, if_pos hn, if_neg ho]

theorem State.stageStatus_absent (hk : s.StageKeyed g) (hv : sigOk = true) (hm : s.StageListed g cs) (hn : s.StageNewer g)
    (ho : s.StagePart g cs) (hr : ¬ s.StagePresent g ps) : s.stageStatus g sigOk = 7 := by
  rw [State.stageStatus_framed hl hc hp, if_pos hk, if_pos hv, if_pos hm, if_pos hn, if_pos ho, if_neg hr]

theorem State.stageStatus_unreadable (hk : s.StageKeyed g) (hv : sigOk = true) (hm : s.StageListed g cs) (hn : s.StageNewer g)
    (ho : s.StagePart g cs) (hr : s.StagePresent g ps) (hd : ¬ s.StageReads g cs ps) : s.stageStatus g sigOk = 5 := by
  rw [State.stageStatus_framed hl hc hp, if_pos hk, if_pos hv, if_pos hm, if_pos hn, if_pos ho, if_pos hr, if_neg hd]

theorem State.stageStatus_passed (hk : s.StageKeyed g) (hv : sigOk = true) (hm : s.StageListed g cs) (hn : s.StageNewer g)
    (ho : s.StagePart g cs) (hr : s.StagePresent g ps) (hd : s.StageReads g cs ps) : s.stageStatus g sigOk = 2 := by
  rw [State.stageStatus_framed hl hc hp, if_pos hk, if_pos hv, if_pos hm, if_pos hn, if_pos ho, if_pos hr, if_pos hd]

end

end

/-! ### STAGE_VERIFY_DONE (04 R110; 09 R232) -/

section
variable {g : Staged} {sigOk : Bool} {q : Ring} {e : DWord} (hs : s.supplied = true)
include hs

/-- Nothing ends where no verification runs or MRAM writes are forbidden. -/
theorem exec_stageVerifyDone_idle (hi : s.cfg.staged = none ∨ s.cfg.stagedStatus ≠ 1 ∨ s.thm.mramBlocked = true) :
    exec (.stageVerifyDone sigOk) s = .next s := by
  show execStageVerifyDone sigOk s = _
  rw [execStageVerifyDone, State.live_supplied _ hs]
  cases hg : s.cfg.staged with
  | none => rfl
  | some g =>
    have hi' := hi.resolve_left (by simp [hg])
    exact congrArg Host.Outcome.next (if_pos (by simpa using hi'))

variable (hg : s.cfg.staged = some g) (h1 : s.cfg.stagedStatus = 1) (hb : s.thm.mramBlocked = false) (hw : s.cfg.stageWait = some (q, e))
include hg h1 hb hw

/-- A running verification ends with its status, and the descriptor of the staging with it. -/
theorem exec_stageVerifyDone_running {st : StagedStatus} (hst : s.stageStatus g sigOk = st) :
    exec (.stageVerifyDone sigOk) s = .next (((((s.modCfg fun x =>
      { x with stagedStatus := st, cntStageFail := if st = 2 then x.cntStageFail else satInc x.cntStageFail, stageWait := none }).raise
        .cfg (if st = 2 then 0 else 1)).catchUpCheck).complete q e 0 (st.setWidth 32)).sendReport) := by
  subst hst
  show execStageVerifyDone sigOk s = _
  rw [execStageVerifyDone, State.live_supplied _ hs, hg]
  dsimp only
  rw [if_neg (by simp [h1, hb]), hw]

/-- A check that fails is counted and raises the event of a failed staging. -/
theorem exec_stageVerifyDone_failed {st : StagedStatus} (hn : st ≠ 2) (hst : s.stageStatus g sigOk = st) :
    exec (.stageVerifyDone sigOk) s = .next (((((s.modCfg fun x =>
      { x with stagedStatus := st, cntStageFail := satInc x.cntStageFail, stageWait := none }).raise
        .cfg 1).catchUpCheck).complete q e 0 (st.setWidth 32)).sendReport) := by
  simpa only [if_neg hn] using exec_stageVerifyDone_running hs hg h1 hb hw hst

theorem exec_stageVerifyDone_passed (hst : s.stageStatus g sigOk = 2) :
    exec (.stageVerifyDone sigOk) s = .next (((((s.modCfg fun x =>
      { x with stagedStatus := 2, stageWait := none }).raise .cfg 0).catchUpCheck).complete q e 0 2).sendReport) :=
  exec_stageVerifyDone_running hs hg h1 hb hw hst

end

/-! ### Reports (04 R111) -/

section
variable (hs : s.supplied = true)
include hs

theorem exec_stageReport : exec .stageReport s = .next (s.runTo (s.cfg.lastReport + sec 1)).sendReport := by
  show execStageReport s = _
  rw [execStageReport, State.live_supplied _ hs]

/-- The newest report of a member replaces its earlier one at the Stroke. -/
theorem exec_stageReportReceive_kept {h : Hdr} (hr : s.rgt.role = .stroke) (hm : s.forMe h = true) (status : BitVec 4) (pair : Pair) :
    exec (.stageReportReceive h status pair) s = .next ((s.takeMsg 0x10).modCfg fun c =>
      { c with reports := ⟨h.src, status, pair, s.clk.cycle⟩ :: c.reports.filter fun x => x.id != h.src }) := by
  show execStageReportReceive h status pair s = _
  rw [execStageReportReceive, State.live_supplied _ hs, if_neg (by simp [hr, hm])]

theorem exec_stageReportReceive_ignored {h : Hdr} (hn : s.rgt.role ≠ .stroke ∨ s.forMe h = false) (status : BitVec 4) (pair : Pair) :
    exec (.stageReportReceive h status pair) s = .next s := by
  show execStageReportReceive h status pair s = _
  rw [execStageReportReceive, State.live_supplied _ hs, if_pos (by simpa using hn)]

end

/-- Settles O17: a staging is copied or refused by the announcement, and the verification ends with the status of the first check that fails. -/
theorem stagingIsVerifiedInOrder : Obligations.StagingIsVerifiedInOrder := by
  unfold Obligations.StagingIsVerifiedInOrder
  intro s
  refine ⟨fun r d hd => ⟨fun ha hw => ?_, exec_cfgStage_announced hd, exec_cfgStageCancel_idle hd, fun q e => exec_cfgStageCancel_running hd⟩,
    fun hs => ⟨fun g sigOk q e hg h1 hb hw => ?verified, fun c => exec_stageVerifyDone_idle hs, exec_stageReport hs,
      fun h status pair => ⟨fun hr hm => exec_stageReportReceive_kept hs hr hm status pair,
        fun hn => exec_stageReportReceive_ignored hs hn status pair⟩⟩⟩
  · have hw' : (s.takeUp r d).cfg.stageWait = none := hw
    rw [exec_cfgStage_copied hd ha, State.stage_idle hw']
    rfl
  case verified =>
    have fails {st : StagedStatus} (hst : s.stageStatus g sigOk = st) (hn : st ≠ 2) := exec_stageVerifyDone_failed hs hg h1 hb hw hn hst
    refine ⟨fun hl => fails (State.stageStatus_long hl) (by decide), fun hl hf => fails (State.stageStatus_unframed hl hf) (by decide),
      fun cs ps hl hc hp => ⟨fun hk => fails (State.stageStatus_unkeyed hl hc hp hk) (by decide),
        fun hk hv => fails (State.stageStatus_unsigned hl hc hp hk hv) (by decide),
        fun hk hv hm => fails (State.stageStatus_unlisted hl hc hp hk hv hm) (by decide),
        fun hk hv hm hn => fails (State.stageStatus_older hl hc hp hk hv hm hn) (by decide),
        fun hk hv hm hn ho => fails (State.stageStatus_otherPart hl hc hp hk hv hm hn ho) (by decide),
        fun hk hv hm hn ho hr => fails (State.stageStatus_absent hl hc hp hk hv hm hn ho hr) (by decide),
        fun hk hv hm hn ho hr hd => fails (State.stageStatus_unreadable hl hc hp hk hv hm hn ho hr hd) (by decide),
        fun hk hv hm hn ho hr hd => exec_stageVerifyDone_passed hs hg h1 hb hw (State.stageStatus_passed hl hc hp hk hv hm hn ho hr hd)⟩⟩

end Sys2Proof.Machine
end

section
/-! Activation: the wait, its timeout, announcements, adoption and catch-up (04 R112-R116; 21 R487). -/
namespace Sys2Proof.Machine

variable {s : State}

/-! ### The wait for an activation (04 R112) -/

/-- The wait for a pair begins in the round of the take-up; a timeout of 0 is one of 4,000 rounds. -/
theorem exec_cfgActivate {r : Ring} {d : Desc} (hd : s.due r d = true) :
    exec (.cfgActivate r d) s = .next ((s.takeUp r d).modCfg fun c =>
      { c with act := some ⟨r, d.seq, activatePair d, if (d.w 60).toNat = 0 then 4000 else (d.w 60).toNat, (s.takeUp r d).round, none⟩ }) := by
  show execCfgActivate r d s = _
  rw [execCfgActivate, State.work_due _ hd]

section
variable (hs : s.supplied = true)
include hs

section
variable {w : ActWait} (hw : s.cfg.act = some w)
include hw

/-- A wait that has ended in an announcement does not time out. -/
theorem exec_activationTimeout_announced (ha : w.announced.isSome = true) : exec .activationTimeout s = .next s := by
  show execActivationTimeout s = _
  rw [execActivationTimeout, State.live_supplied _ hs, hw]
  exact congrArg Host.Outcome.next (if_pos ha)

/-- A wait without an announcement ends with a record for every member whose report is missing (21 R487). -/
theorem exec_activationTimeout_waiting (ha : w.announced = none) :
    let t := s.runToFleet ((w.start + w.timeout) * Config.roundNs)
    exec .activationTimeout s = .next (((t.crewMembers.filter fun m => !t.reported w.pair m).foldl
      (fun u m => u.journal 8 0x44 m.toNat w.pair.epoch.toNat 0 0) (t.modCfg fun c => { c with act := none })).complete w.ring w.seq 1 0) := by
  intro t
  show execActivationTimeout s = _
  rw [execActivationTimeout, State.live_supplied _ hs, hw]
  exact congrArg Host.Outcome.next (if_neg (by simp [ha]))

/-! ### Announcements (04 R113) -/

section
variable {a n : Nat} (ha : w.announced = some a) (hn : s.cfg.lastAnnounce = some n)
include ha hn

/-- 8 rounds after the last announcement the Stroke repeats it, to be heard 8 rounds before the activation. -/
theorem exec_announce_repeated (hr : s.rgt.role = .stroke) (hl : (s.runToFleet ((n + 8) * Config.roundNs)).round + 8 ≤ a) :
    exec .announce s = .next ((s.runToFleet ((n + 8) * Config.roundNs)).sendAnnounce w.pair a) := by
  show execAnnounce s = _
  rw [execAnnounce, State.live_supplied _ hs, hw, hn]
  dsimp only
  rw [ha]
  exact congrArg Host.Outcome.next (if_pos (by simp [hr, hl]))

theorem exec_announce_over (ho : s.rgt.role ≠ .stroke ∨ a < (s.runToFleet ((n + 8) * Config.roundNs)).round + 8) :
    exec .announce s = .next s := by
  show execAnnounce s = _
  rw [execAnnounce, State.live_supplied _ hs, hw, hn]
  dsimp only
  rw [ha]
  refine congrArg Host.Outcome.next (if_neg fun hb => ?_)
  obtain ⟨hr, hl⟩ := (Bool.and_eq_true_iff).mp hb
  exact ho.elim (fun hn => hn (of_decide_eq_true hr)) fun hn => Nat.not_le_of_lt hn (of_decide_eq_true hl)

end

end

section
variable {h : Hdr} {round : Nat}

/-- A member notes an announcement of its Stroke and passes it on to its children with one more hop. -/
theorem exec_announceReceive_noted (hc : h.crew = s.rgt.crew) (hf : h.src = s.alc.stroke) (hr : s.rgt.role ≠ .stroke) (hn : s.round ≤ round)
    (pair : Pair) :
    exec (.announceReceive h pair round) s =
      .next ((((s.takeMsg 0x11).modCfg fun c => { c with annPair := some (pair, round) }).noteActRound round).childFrames
        h.seq h.src (h.hops + 1) h.hopLimit
        (.segment 0x11 (((s.rgt.inbox.find? fun m => m.kind == 0x11).map (·.msgId)).getD 0) 0 1 (CfgBody.announce pair round).bytes)) := by
  show execAnnounceReceive h pair round s = _
  rw [execAnnounceReceive, State.live_supplied _ hs, if_neg (by simp [hc, hf, hr, hn])]
  cases s.rgt.inbox.find? fun m => m.kind == 0x11 <;> rfl

/-- It ignores those of other crews, from others, at the Stroke itself, and of rounds that are past. -/
theorem exec_announceReceive_ignored (hi : h.crew ≠ s.rgt.crew ∨ h.src ≠ s.alc.stroke ∨ s.rgt.role = .stroke ∨ round < s.round) (pair : Pair) :
    exec (.announceReceive h pair round) s = .next s := by
  show execAnnounceReceive h pair round s = _
  rw [execAnnounceReceive, State.live_supplied _ hs, if_pos (by simpa [or_assoc] using hi)]

end

/-! ### Adoption (04 R114, R115) -/

theorem exec_adopted_none (ha : s.cfg.actRound = none) : exec .adopted s = .next s := by
  show execAdopted s = _
  rw [execAdopted, State.live_supplied _ hs, ha]

end

/-- Waiting for an instant changes nothing of what decides the adoption. -/
theorem State.runToFleet_adopts_iff (t a : Nat) :
    (s.runToFleet t).adopts a = true ↔
      s.pwr.controlReady = true ∧ (s.cfg.staged.bind (·.img)).isSome = true ∧ s.cfg.annPair = some (s.cfg.stagedPair, a) := by
  simp only [State.adopts, State.runToFleet_frame, Bool.and_eq_true, beq_iff_eq, and_assoc]

/-- The apply instant of an announced round: the pair is adopted or missed, and the announcement is cleared. -/
def State.activationPassed (a : Nat) (s : State) : State :=
  let t := s.runToFleet (a * Config.roundNs + 150000)
  (if t.adopts a then t.adopt false else t.raise .cfg 5).modCfg fun c => { c with actRound := none, annPair := none, raisedFor := none }

theorem State.activationPassed_adopted {a : Nat} (ha : (s.runToFleet (a * Config.roundNs + 150000)).adopts a = true) :
    s.activationPassed a = ((s.runToFleet (a * Config.roundNs + 150000)).adopt false).modCfg fun c =>
      { c with actRound := none, annPair := none, raisedFor := none } := by
  rw [State.activationPassed, if_pos ha]

theorem State.activationPassed_missed {a : Nat} (ha : ¬ (s.runToFleet (a * Config.roundNs + 150000)).adopts a = true) :
    s.activationPassed a = ((s.runToFleet (a * Config.roundNs + 150000)).raise .cfg 5).modCfg fun c =>
      { c with actRound := none, annPair := none, raisedFor := none } := by
  rw [State.activationPassed, if_neg ha]

section
variable (hs : s.supplied = true)
include hs

section
variable {a : Nat} (ha : s.cfg.actRound = some a)
include ha

/-- The descriptor at the Stroke completes with the apply instant as its time of effect. -/
theorem exec_adopted_completes {w : ActWait} (hw : (s.activationPassed a).cfg.act = some w) (hn : w.announced = some a) :
    exec .adopted s = .next (((s.activationPassed a).modCfg fun c => { c with act := none }).completeAt
      w.ring w.seq 0 0 (a * Config.roundNs + 150000)) := by
  show execAdopted s = _
  rw [State.activationPassed] at hw ⊢
  rw [execAdopted, State.live_supplied _ hs, ha]
  dsimp only at hw ⊢
  rw [hw]
  exact congrArg Host.Outcome.next (if_pos hn)

/-- No descriptor waits for this round. -/
theorem exec_adopted_unawaited (hw : ∀ w, (s.activationPassed a).cfg.act = some w → w.announced ≠ some a) :
    exec .adopted s = .next (s.activationPassed a) := by
  show execAdopted s = _
  rw [State.activationPassed] at hw ⊢
  rw [execAdopted, State.live_supplied _ hs, ha]
  dsimp only at hw ⊢
  split
  next w hw' => exact congrArg Host.Outcome.next (if_neg (hw w hw'))
  next => rfl

end

/-! ### Catch-up (04 R116) -/

theorem exec_catchUp_none (hr : s.cfg.catchUpRound = none) : exec .catchUp s = .next s := by
  show execCatchUp s = _
  rw [execCatchUp, State.live_supplied _ hs, hr]

section
variable {r : Nat} (hr : s.cfg.catchUpRound = some r)
include hr

theorem exec_catchUp_adopts (hc : (s.runToFleet (r * Config.roundNs + 150000)).catchUpHolds = true) :
    exec .catchUp s = .next ((s.runToFleet (r * Config.roundNs + 150000)).adopt true) := by
  show execCatchUp s = _
  rw [execCatchUp, State.live_supplied _ hs, hr]
  exact congrArg Host.Outcome.next (if_pos hc)

theorem exec_catchUp_lapses (hc : (s.runToFleet (r * Config.roundNs + 150000)).catchUpHolds = false) :
    exec .catchUp s = .next ((s.runToFleet (r * Config.roundNs + 150000)).modCfg fun c => { c with catchUpRound := none }) := by
  show execCatchUp s = _
  rw [execCatchUp, State.live_supplied _ hs, hr]
  exact congrArg Host.Outcome.next (if_neg (Bool.eq_false_iff.mp hc))

end

end

/-- Settles O18: each clause is a branch of its command; an adoption ends alike whether the pair was adopted or missed. -/
theorem activationsAreAnnouncedAndAdopted : Obligations.ActivationsAreAnnouncedAndAdopted := by
  unfold Obligations.ActivationsAreAnnouncedAndAdopted
  intro s
  refine ⟨fun r d hd => exec_cfgActivate hd, fun hs => ⟨fun w hw => ⟨exec_activationTimeout_announced hs hw,
    exec_activationTimeout_waiting hs hw, fun a n ha hn => ⟨exec_announce_repeated hs hw ha hn, exec_announce_over hs hw ha hn⟩⟩,
    fun h pair round => ⟨fun hc hf hr hn => exec_announceReceive_noted hs hc hf hr hn pair, fun hi => exec_announceReceive_ignored hs hi pair⟩,
    fun a ha => ?adopted, exec_adopted_none hs, fun r hr => ⟨exec_catchUp_adopts hs hr, exec_catchUp_lapses hs hr⟩, exec_catchUp_none hs⟩⟩
  case adopted =>
    intro t ok ends
    have ended {v : State} (hv : s.activationPassed a = v.modCfg fun c => { c with actRound := none, annPair := none, raisedFor := none }) :
        ends v := by
      refine ⟨fun w hw hn => ?_, fun w hw hn => ?_, fun hw => ?_⟩ <;> rw [← hv] at hw ⊢
      · exact exec_adopted_completes hs ha hw hn
      · exact exec_adopted_unawaited hs ha fun x hx => by rwa [Option.some.inj (hx.symm.trans hw)]
      · exact exec_adopted_unawaited hs ha fun x hx => absurd (hx.symm.trans hw) (Option.some_ne_none x)
    exact ⟨fun hok => ended (State.activationPassed_adopted ((State.runToFleet_adopts_iff _ a).mpr hok)),
      fun hok => ended (State.activationPassed_missed (mt (State.runToFleet_adopts_iff _ a).mp hok))⟩

end Sys2Proof.Machine
end

section
/-! Granted writes of the PWM block, and its commits: the checks in their order, single and group commits (01 R16; 05 R132, R133, R135, R144). -/
namespace Sys2Proof.Machine

variable {s t u : State} {m : Master} {n : Phase}

/-! ### Writes that are carried out -/

@[simp] theorem State.beat_hasPhase : (s.beat m).hasPhase n = s.hasPhase n := by simp only [State.hasPhase, State.beat_frame]

/-- A write of a master that its block's rule names acts at the master's beat. -/
theorem State.live_guardedWrite_granted (up present ok : State → Bool) {off : Nat} (f : State → State) (hr : s.reaches m = true)
    (hi : m.isInteg = false) (hu : up s = true) (hp : present s = true) (ho : ok s = true) :
    s.live (fun s => s.guardedWrite m (up s) (present s) (ok s) off f) = .next (f (s.beat m)) := by
  obtain ⟨hs, hz⟩ := State.reaches_iff.mp hr
  rw [State.live_supplied _ hs, hu, hp, ho, State.guardedWrite_granted f hz hi]

section
variable (hr : s.reaches m = true) (hc : s.pwr.controlReady = true) (ha : s.laneOrPf0 m = true)
include hr hc ha

/-- A write of the driving lane, or of PF0 before lock, to a register of a fitted phase. -/
theorem State.live_phaseWrite {off : Nat} (f : State → State) (hp : s.hasPhase n = true) :
    s.live (fun s => s.guardedWrite m s.pwr.controlReady (s.hasPhase n) (s.laneOrPf0 m) off f) = .next (f (s.beat m)) :=
  State.live_guardedWrite_granted (·.pwr.controlReady) (·.hasPhase n) (·.laneOrPf0 m) f hr (State.laneOrPf0_notInteg ha) hc hp ha

/-- The same to a register that is not of one phase. -/
theorem State.live_pwmWrite {off : Nat} (f : State → State) :
    s.live (fun s => s.guardedWrite m s.pwr.controlReady true (s.laneOrPf0 m) off f) = .next (f (s.beat m)) :=
  State.live_guardedWrite_granted (·.pwr.controlReady) (fun _ => true) (·.laneOrPf0 m) f hr (State.laneOrPf0_notInteg ha) hc rfl ha

theorem exec_pwmCommit (hp : s.hasPhase n = true) (w : Word) :
    exec (.pwmCommit m n w) s = .next ((s.beat m).pwmCommitOne n (bitsOf w 0 16)) :=
  State.live_phaseWrite hr hc ha _ hp

theorem exec_pwmGroupCommit (w : Word) :
    exec (.pwmGroupCommit m w) s = .next ((s.beat m).pwmGroup s.pwm.groupMask (bitsOf w 0 16)) := by
  refine (State.live_pwmWrite hr hc ha _).trans ?_
  simp only [State.beat_frame]

end

/-! ### Changes of a channel -/

theorem State.modCh_get (f : PwmCh → PwmCh) (k : Phase) :
    (s.modCh n f).pwm.ch.get k = if n = k then f (s.pwm.ch.get k) else s.pwm.ch.get k := by
  rw [State.modCh_pwm]
  split
  case isTrue h => rw [h, vmod_self]
  case isFalse h => exact vmod_other _ _ _ _ h

/-- From `s` to `t` only the PWM block and what announcing events changes. -/
def OnlyPwm (s t : State) : Prop := OnlyEvents { s with pwm := t.pwm } t

theorem OnlyPwm.refl : OnlyPwm s s := OnlyEvents.refl

theorem OnlyPwm.trans (h : OnlyPwm s t) (k : OnlyPwm t u) : OnlyPwm s u := by
  have h' : OnlyEvents { s with pwm := u.pwm } { t with pwm := u.pwm } := by
    unfold OnlyPwm at h
    exact congrArg (State.modPwm fun _ => u.pwm) h
  exact h'.trans k

theorem OnlyPwm.modCh (f : PwmCh → PwmCh) : OnlyPwm s (s.modCh n f) := OnlyEvents.refl

theorem OnlyPwm.raise (e : EvSrc) (b : Nat) : OnlyPwm s (s.raise e b) := by
  have h : OnlyEvents s (s.raise e b) := OnlyEvents.raise e b
  rw [OnlyPwm, h.pwm]
  exact h

/-- A loop of which every turn keeps to the PWM block and to events does so as a whole. -/
theorem OnlyPwm.forAll {k : Nat} {f : Fin k → State → State} (h : ∀ i t, OnlyPwm t (f i t)) : OnlyPwm s (s.forAll f) :=
  State.forAll_induct f (OnlyPwm s) (fun i t ht => ht.trans (h i t)) .refl

/-! ### Commits (05 R132, R133) -/

/-- A channel whose shadow set has been committed at a time in taps. -/
def PwmCh.committed (tag : Half) (taps : Nat) (c : PwmCh) : PwmCh :=
  { c with pend := some ⟨c.shadow, tag, taps⟩, accepted := c.shadow, written := 0, lastResult := 0, cntCommit := satInc c.cntCommit }

/-- A channel whose commit has been refused. -/
def PwmCh.refused (res : BitVec 3) (c : PwmCh) : PwmCh := { c with lastResult := res, cntRefused := satInc c.cntRefused }

/-- An accepted commit announces the replacement of a pending set alone. -/
theorem State.pwmAccept_eq (tag : Half) :
    s.pwmAccept n tag =
      if (s.pwm.ch.get n).pend.isSome then (s.modCh n (·.committed tag s.taps)).raise (.pwm n) 4 else s.modCh n (·.committed tag s.taps) := rfl

theorem State.pwmAccept_pwm (tag : Half) : (s.pwmAccept n tag).pwm = (s.modCh n (·.committed tag s.taps)).pwm := by
  rw [State.pwmAccept_eq]
  split
  · exact (OnlyEvents.raise _ _).pwm
  · rfl

theorem State.pwmAccept_flags (tag : Half) :
    ((s.pwmAccept n tag).evGet (.pwm n)).flags =
      if (s.pwm.ch.get n).pend.isSome then (s.evGet (.pwm n)).flags ||| bit 32 4 else (s.evGet (.pwm n)).flags := by
  rw [State.pwmAccept_eq]
  split
  · exact State.raise_flags _ _
  · rfl

theorem State.pwmAccept_onlyPwm (tag : Half) : OnlyPwm s (s.pwmAccept n tag) := by
  rw [State.pwmAccept_eq]
  split
  · exact (OnlyPwm.modCh _).trans (OnlyPwm.raise _ _)
  · exact OnlyPwm.modCh _

theorem State.pwmRefuse_pwm (res : BitVec 3) : (s.pwmRefuse n res).pwm = (s.modCh n (·.refused res)).pwm := (OnlyEvents.raise _ _).pwm

theorem State.pwmRefuse_flags (res : BitVec 3) :
    ((s.pwmRefuse n res).evGet (.pwm n)).flags = (s.evGet (.pwm n)).flags ||| bit 32 (if res = 1 then 0 else 1) := State.raise_flags _ _

theorem State.pwmRefuse_onlyPwm (res : BitVec 3) : OnlyPwm s (s.pwmRefuse n res) := (OnlyPwm.modCh _).trans (OnlyPwm.raise _ _)

theorem State.pwmCommitOne_accepted {tag : Half} (h : commitResult s.pwm.dtMin (s.pwm.ch.get n) = 0) :
    s.pwmCommitOne n tag = s.pwmAccept n tag := by rw [State.pwmCommitOne, if_pos h]

theorem State.pwmCommitOne_refused {tag : Half} (h : commitResult s.pwm.dtMin (s.pwm.ch.get n) ≠ 0) :
    s.pwmCommitOne n tag = s.pwmRefuse n (commitResult s.pwm.dtMin (s.pwm.ch.get n)) := by rw [State.pwmCommitOne, if_neg h]

/-- The result of the first check that fails. -/
theorem commitResult_eq (dtMin : BitVec 12) (c : PwmCh) :
    commitResult dtMin c =
      if c.en = false then 6 else if tapsOf c.shadow.period < 4800 then 2 else if c.shadow.dt.toNat < dtMin.toNat then 3
      else if !(maskOk c.shadow.comm && maskOk c.shadow.fault) then 4 else if splitUpdate c = true then 1 else 0 := by
  simp only [commitResult, Bool.not_eq_true']

/-- Settles O20: the command commits at its beat, and the commit is accepted or refused by the result of its checks. -/
theorem pwmCommitChecksInOrder : Obligations.PwmCommitChecksInOrder := by
  unfold Obligations.PwmCommitChecksInOrder
  intro s m n w hr hc ha hp c p split res
  have hb : (s.beat m).pwm = s.pwm := by simp only [State.beat_frame]
  have hf : (s.beat m).evGet (.pwm n) = s.evGet (.pwm n) := State.evGet_ev _ (by simp only [State.beat_frame])
  have hres : commitResult (s.beat m).pwm.dtMin ((s.beat m).pwm.ch.get n) = res := by rw [hb]; exact commitResult_eq _ _
  have others (f : PwmCh → PwmCh) (k : Phase) (hk : k ≠ n) : ((s.beat m).modCh n f).pwm.ch.get k = s.pwm.ch.get k := by
    rw [State.modCh_get, if_neg hk.symm, hb]
  have named (f : PwmCh → PwmCh) : ((s.beat m).modCh n f).pwm.ch.get n = f c := by rw [State.modCh_get, if_pos rfl, hb]
  rw [exec_pwmCommit hr hc ha hp w]
  refine ⟨_, rfl, ?_⟩
  by_cases h0 : res = 0
  case pos =>
    rw [State.pwmCommitOne_accepted (hres.trans h0), State.pwmAccept_pwm, State.pwmAccept_flags, hf, named, hb]
    exact ⟨⟨h0.symm, rfl, rfl, fun _ => ⟨rfl, rfl, rfl, rfl, rfl⟩, fun h => absurd h0 h⟩, others _, by rw [State.modCh_pwm, hb],
      State.pwmAccept_pwm (s := s.beat m) _ ▸ State.pwmAccept_onlyPwm _⟩
  case neg =>
    rw [State.pwmCommitOne_refused (fun h => h0 (hres.symm.trans h)), hres, State.pwmRefuse_pwm, State.pwmRefuse_flags, hf, named]
    exact ⟨⟨rfl, rfl, rfl, fun h => absurd h h0, fun _ => ⟨rfl, rfl, rfl, rfl, rfl⟩⟩, others _, by rw [State.modCh_pwm, hb],
      State.pwmRefuse_pwm (s := s.beat m) _ ▸ State.pwmRefuse_onlyPwm _⟩

/-! ### Group commits (05 R135) -/

/-- A group commit names a channel of the variant. -/
def State.groupNames (mask : BitVec 24) (s : State) (n : Phase) : Bool := mask.getLsbD n.val && s.hasPhase n

/-- Every named channel passes its checks. -/
def State.groupPasses (mask : BitVec 24) (s : State) : Bool :=
  (List.finRange 24).all fun n => !s.groupNames mask n || commitResult s.pwm.dtMin (s.pwm.ch.get n) == 0

theorem State.groupPasses_iff (mask : BitVec 24) :
    s.groupPasses mask = true ↔ ∀ n, s.groupNames mask n = true → commitResult s.pwm.dtMin (s.pwm.ch.get n) = 0 := by
  simp only [State.groupPasses, List.all_eq_true, List.mem_finRange, true_implies]
  exact forall_congr' fun n => by cases s.groupNames mask n <;> simp

/-- The turn of a channel in a group commit that began in `s`. -/
def State.groupTurn (mask : BitVec 24) (tag : Half) (s : State) (n : Phase) (t : State) : State :=
  if !s.groupNames mask n then t
  else if s.groupPasses mask then t.pwmAccept n tag
  else t.pwmRefuse n (if commitResult s.pwm.dtMin (s.pwm.ch.get n) = 0 then 5 else commitResult s.pwm.dtMin (s.pwm.ch.get n))

theorem State.pwmGroup_eq (mask : BitVec 24) (tag : Half) : s.pwmGroup mask tag = s.forAll (s.groupTurn mask tag) := rfl

theorem State.groupTurn_onlyPwm (mask : BitVec 24) (tag : Half) : OnlyPwm t (s.groupTurn mask tag n t) := by
  rw [State.groupTurn]
  split
  · exact .refl
  · split
    · exact State.pwmAccept_onlyPwm tag
    · exact State.pwmRefuse_onlyPwm _

/-- What a group commit at a time in taps leaves of a channel. -/
def State.groupCh (mask : BitVec 24) (tag : Half) (s : State) (n : Phase) (taps : Nat) (c : PwmCh) : PwmCh :=
  if !s.groupNames mask n then c
  else if s.groupPasses mask then c.committed tag taps
  else c.refused (if commitResult s.pwm.dtMin (s.pwm.ch.get n) = 0 then 5 else commitResult s.pwm.dtMin (s.pwm.ch.get n))

theorem State.groupTurn_ch (mask : BitVec 24) (tag : Half) (k : Phase) :
    (s.groupTurn mask tag n t).pwm.ch.get k = if n = k then s.groupCh mask tag k t.taps (t.pwm.ch.get k) else t.pwm.ch.get k := by
  rw [State.groupTurn, State.groupCh]
  by_cases hk : n = k
  case pos =>
    subst hk
    rw [if_pos rfl]
    split
    · rfl
    · split
      · rw [State.pwmAccept_pwm, State.modCh_get, if_pos rfl]
      · rw [State.pwmRefuse_pwm, State.modCh_get, if_pos rfl]
  case neg =>
    rw [if_neg hk]
    split
    · rfl
    · split
      · rw [State.pwmAccept_pwm, State.modCh_get, if_neg hk]
      · rw [State.pwmRefuse_pwm, State.modCh_get, if_neg hk]

theorem State.pwmGroup_ch (mask : BitVec 24) (tag : Half) (k : Phase) :
    (s.pwmGroup mask tag).pwm.ch.get k = s.groupCh mask tag k s.taps (s.pwm.ch.get k) := by
  rw [State.pwmGroup_eq]
  exact State.forAll_view (s.groupTurn mask tag) State.taps (fun k t => t.pwm.ch.get k) (s.groupCh mask tag)
    (fun _ _ => congrArg (fun c : Clk => c.cycle * 64 / 5) (State.groupTurn_onlyPwm mask tag).clk)
    (fun _ k _ => State.groupTurn_ch mask tag k) k

/-- Settles O21: each channel takes its turn by whether it is named and whether all that are named pass. -/
theorem pwmGroupCommitIsAllOrNothing : Obligations.PwmGroupCommitIsAllOrNothing := by
  unfold Obligations.PwmGroupCommitIsAllOrNothing
  intro s m w hr hc ha named res
  have hb : (s.beat m).pwm = s.pwm := by simp only [State.beat_frame]
  have hnamed (k : Phase) : (s.beat m).groupNames s.pwm.groupMask k = true ↔ named k := by
    rw [State.groupNames, State.beat_hasPhase, Bool.and_eq_true]
  have hpass : (s.beat m).groupPasses s.pwm.groupMask = true ↔ ∀ n, named n → res n = 0 := by
    simp only [State.groupPasses_iff, hnamed, hb, res]
  refine ⟨_, exec_pwmGroupCommit hr hc ha w, fun k hk => ?_, fun hall k hk => ?_, fun hex k hk => ?_, ?_⟩
  · rw [State.pwmGroup_ch, hb, State.groupCh, if_pos (by simpa using mt (hnamed k).mp hk)]
  · rw [State.pwmGroup_ch, hb, State.groupCh, if_neg (by simpa using (hnamed k).mpr hk), if_pos (hpass.mpr hall), PwmCh.committed]
  · have hno : ¬ (s.beat m).groupPasses s.pwm.groupMask = true := fun h => by
      obtain ⟨n, hn, hbad⟩ := hex
      exact hbad (hpass.mp h n hn)
    rw [State.pwmGroup_ch, hb, State.groupCh, if_neg (by simpa using (hnamed k).mpr hk), if_neg hno, PwmCh.refused, hb]
  · rw [State.pwmGroup_eq]
    exact OnlyPwm.forAll fun _ _ => State.groupTurn_onlyPwm _ _

end Sys2Proof.Machine
end

section
/-! The setup registers of the PWM block: shadow sets, CTRL, the dead-time floor, the auxiliary CTRL (05 R130, R131, R137, R142, R144, R145). -/
namespace Sys2Proof.Machine

variable {s : State} {m : Master} {n : Phase} {a : Aux} {w : Word}

theorem State.runTo_clockFault (due : Nat) : (s.runTo due).clockFault = s.clockFault := rfl

theorem State.turnCh_get (tm : Nat) (f : PwmCh → PwmCh) : (s.turnCh n tm f).pwm.ch.get n = (s.pwm.ch.get n).turn tm f := by
  rw [State.turnCh, State.modCh_get, if_pos rfl]

/-! ### Shadow sets (05 R131) -/

/-- A write of a shadow register changes the fields of that register alone. -/
theorem PwmSet.store_eq (x : PwmSet) (reg : Fin 5) (w : Word) :
    x.store reg w =
      { period := if reg = 0 then bitsOf w 0 20 else x.period, rise := if reg = 1 then bitsOf w 0 20 else x.rise,
        fall := if reg = 2 then bitsOf w 0 20 else x.fall, dt := if reg = 3 then bitsOf w 0 12 else x.dt,
        comm := if reg = 4 then bitsOf w 0 4 else x.comm, fault := if reg = 4 then bitsOf w 4 4 else x.fault } := by
  match reg with
  | 0 | 1 | 2 | 3 | 4 => rfl

section
variable (hr : s.reaches m = true) (hc : s.pwr.controlReady = true) (ha : s.laneOrPf0 m = true)
include hr hc ha

theorem exec_pwmShadowWrite (hp : s.hasPhase n = true) (reg : Fin 5) :
    exec (.pwmShadowWrite m n reg w) s = .next ((s.beat m).modCh n fun c =>
      { c with shadow := c.shadow.store reg w, written := c.written ||| bit 5 reg.val }) :=
  State.live_phaseWrite hr hc ha _ hp

/-! ### CTRL (05 R137, R139) -/

/-- The fields of CTRL, EN apart, as written. -/
def PwmCh.withCtrl (en : Bool) (w : Word) (c : PwmCh) : PwmCh :=
  { c with en := en, polH := w.getLsbD 1, polL := w.getLsbD 2, cmode := w.getLsbD 3, swFault := w.getLsbD 4 }

/-- The fields take the value written, a channel that this disables stops, and the masks follow their sources. -/
theorem exec_pwmCtrlWrite (hp : s.hasPhase n = true) :
    exec (.pwmCtrlWrite m n w) s = .next (((if w.getLsbD 0 then (s.beat m).modCh n (·.withCtrl (w.getLsbD 0) w)
      else ((s.beat m).modCh n (·.withCtrl (w.getLsbD 0) w)).pwmDisable n).applyMasks n).restMasks n) :=
  State.live_phaseWrite hr hc ha _ hp

/-! ### The dead-time floor and the auxiliary CTRL (05 R130, R142, R143) -/

theorem exec_pwmDtMinWrite (hl : s.lcs.lock = false) :
    exec (.pwmDtMinWrite m w) s = .next ((s.beat m).modPwm fun p => { p with dtMin := BitVec.ofNat 12 (max 24 (bitsOf w 0 12).toNat) }) :=
  State.live_guardedWrite_granted (·.pwr.controlReady) (fun _ => true) (fun s => s.laneOrPf0 m && !s.lcs.lock) _ hr
    (State.laneOrPf0_notInteg ha) hc rfl (by rw [ha, hl]; rfl)

/-- An auxiliary channel with the fields of CTRL as written: held if it is enabled under a clock fault, stopped if it is disabled. -/
def AuxCh.withCtrl (fault en : Bool) (w : Word) (c : AuxCh) : AuxCh :=
  let d := { c with en := en, pol := w.getLsbD 1, fsLevel := w.getLsbD 2, heldFs := if c.en then c.heldFs else fault }
  if en then d else { d with running := false, begun := false, inFailsafe := false, heldFs := false }

theorem exec_pwmAuxCtrlWrite :
    exec (.pwmAuxCtrlWrite m a w) s = .next ((s.beat m).modAux a (·.withCtrl (s.beat m).clockFault (w.getLsbD 0) w)) :=
  State.live_pwmWrite hr hc ha _

end

theorem State.pwmStop_running : ((s.pwmStop n).pwm.ch.get n).running = false := by
  simp only [State.pwmStop, State.modRegCh_frame, State.turnCh_get, PwmCh.turn]

/-- A disabled channel does not run, so its masks whose condition has gone are released at once. -/
theorem State.pwmDisable_eq : s.pwmDisable n = ((s.modCh n fun c => { c with en := false }).pwmStop n).releaseMasks n s.taps := by
  rw [State.pwmDisable, State.restMasks, if_neg (by simp [State.pwmStop_running])]
  rfl

/-- Settles O19: each write acts on its fields at its beat, CTRL with the stop that clearing EN brings and the masks that follow. -/
theorem pwmSetupWritesTakeTheirFields : Obligations.PwmSetupWritesTakeTheirFields := by
  unfold Obligations.PwmSetupWritesTakeTheirFields
  intro s m w hr hc ha
  refine ⟨fun n reg hp => ?_, fun n hp he => ?_, fun n hp he => ?_, exec_pwmDtMinWrite hr hc ha, fun a => ⟨fun he => ?_, fun he => ?_⟩⟩
  · rw [exec_pwmShadowWrite hr hc ha hp]
    simp only [PwmSet.store_eq]
  · rw [exec_pwmCtrlWrite hr hc ha hp, he, if_pos rfl, State.restMasks]
    rfl
  · rw [exec_pwmCtrlWrite hr hc ha hp, he, if_neg Bool.false_ne_true, State.pwmDisable_eq, State.modCh_modCh, State.restMasks]
    rfl
  · rw [exec_pwmAuxCtrlWrite hr hc ha, he]
    rfl
  · rw [exec_pwmAuxCtrlWrite hr hc ha, he]
    rfl

end Sys2Proof.Machine
end

section
/-! Starts, transfers of pending sets, period boundaries, commits of auxiliary channels (05 R125, R127, R134, R137, R142, R143; 11 R274). -/
namespace Sys2Proof.Machine

variable {s t : State} {m : Master} {n : Phase} {a : Aux} {w : Word}

/-! ### Starts (05 R137; 11 R274) -/

/-- A channel that waits for its start instant. -/
def PwmCh.started (inst : Nat) (c : PwmCh) : PwmCh :=
  { c with running := true, begun := false, bound := inst, ideal := false, since := inst, blocked := false, off := 0 }

/-- The start instant: the CLK_PWM edge 8 cycles after the write. -/
def State.startInstant (s : State) : Nat := ceilDiv s.taps 16 * 16 + cutoffTaps

/-- The turn of a channel in a start with one instant. -/
def State.startTurn (mask : BitVec 24) (inst : Nat) (n : Phase) (t : State) : State :=
  if !mask.getLsbD n.val || !t.hasPhase n then t
  else if (t.pwm.ch.get n).running then t.raise (.pwm n) 5
  else if (t.pwm.ch.get n).en && (t.pwm.ch.get n).hasActive then t.modCh n (·.started inst)
  else t

theorem State.pwmStartMask_eq (mask : BitVec 24) : s.pwmStartMask mask = s.forAll (State.startTurn mask s.startInstant) := rfl

/-- What a start leaves of a channel and of its event flags. -/
def startView (mask : BitVec 24) (inst : Nat) (k : Phase) (present : Phase → Bool) (x : PwmCh × Word) : PwmCh × Word :=
  if !mask.getLsbD k.val || !present k then x
  else if x.1.running then (x.1, x.2 ||| bit 32 5)
  else if x.1.en && x.1.hasActive then (x.1.started inst, x.2)
  else x

section
variable {mask : BitVec 24} {inst : Nat} {k : Phase} {present : Phase → Bool} {x : PwmCh × Word}

/-- A named channel that the variant has is not passed over. -/
theorem startView_named (hm : mask.getLsbD k.val = true) (hp : present k = true) : ¬ (!mask.getLsbD k.val || !present k) = true := by
  rw [hm, hp]
  exact Bool.false_ne_true

theorem startView_starts (hm : mask.getLsbD k.val = true) (hp : present k = true) (hr : x.1.running = false) (he : x.1.en = true)
    (ha : x.1.hasActive = true) : startView mask inst k present x = (x.1.started inst, x.2) := by
  rw [startView, if_neg (startView_named hm hp), if_neg (ne_true_of_eq_false hr), if_pos (by rw [he, ha]; rfl)]

theorem startView_ignored (hm : mask.getLsbD k.val = true) (hp : present k = true) (hr : x.1.running = true) :
    startView mask inst k present x = (x.1, x.2 ||| bit 32 5) := by
  rw [startView, if_neg (startView_named hm hp), if_pos hr]

theorem startView_stays
    (h : ¬ ((mask.getLsbD k.val = true ∧ present k = true) ∧ x.1.running = false ∧ x.1.en = true ∧ x.1.hasActive = true)) :
    (startView mask inst k present x).1 = x.1 := by
  unfold startView
  split
  · rfl
  · split
    · rfl
    · split
      · rename_i hm hr hea
        exact absurd (by simpa [and_assoc] using And.intro hm (And.intro hr hea)) h
      · rfl

end

/-- A channel with its event flags. -/
def State.chView (k : Phase) (s : State) : PwmCh × Word := (s.pwm.ch.get k, (s.evGet (.pwm k)).flags)

theorem State.raise_chView (k : Phase) :
    (s.raise (.pwm n) 5).chView k = if n = k then ((s.pwm.ch.get k), (s.evGet (.pwm k)).flags ||| bit 32 5) else s.chView k := by
  have hp : (s.raise (.pwm n) 5).pwm = s.pwm := (OnlyEvents.raise _ _).pwm
  rw [State.chView, hp]
  split
  case isTrue h => rw [h, State.raise_flags]
  case isFalse h => rw [State.raise_other _ _ _ (by simpa using Ne.symm h), State.chView]

theorem State.modCh_chView (f : PwmCh → PwmCh) (k : Phase) :
    (s.modCh n f).chView k = if n = k then (f (s.pwm.ch.get k), (s.evGet (.pwm k)).flags) else s.chView k := by
  have he : (s.modCh n f).evGet (.pwm k) = s.evGet (.pwm k) := State.evGet_ev _ rfl
  rw [State.chView, he, State.modCh_get]
  split <;> rfl

theorem State.startTurn_onlyPwm (mask : BitVec 24) (inst : Nat) : OnlyPwm t (t.startTurn mask inst n) := by
  unfold State.startTurn
  split
  · exact .refl
  · split
    · exact OnlyPwm.raise _ _
    · split
      · exact OnlyPwm.modCh _
      · exact .refl

theorem State.startTurn_view (mask : BitVec 24) (inst : Nat) (k : Phase) :
    (t.startTurn mask inst n).chView k = if n = k then startView mask inst k t.hasPhase (t.chView k) else t.chView k := by
  unfold State.startTurn startView
  by_cases hk : n = k
  case pos =>
    subst hk
    rw [if_pos rfl, show t.chView n = (t.pwm.ch.get n, (t.evGet (.pwm n)).flags) from rfl]
    dsimp only
    split
    · rfl
    · split
      · rw [State.raise_chView, if_pos rfl]
      · split
        · rw [State.modCh_chView, if_pos rfl]
        · rfl
  case neg =>
    rw [if_neg hk]
    split
    · rfl
    · split
      · rw [State.raise_chView, if_neg hk]
      · split
        · rw [State.modCh_chView, if_neg hk]
        · rfl

theorem State.pwmStartMask_view (mask : BitVec 24) (k : Phase) :
    (s.pwmStartMask mask).chView k = startView mask s.startInstant k s.hasPhase (s.chView k) := by
  rw [State.pwmStartMask_eq]
  exact State.forAll_view (State.startTurn mask s.startInstant) State.hasPhase State.chView (startView mask s.startInstant)
    (fun _ _ => congrArg (fun (g : Glb) (n : Phase) => decide (n.val < g.variant.phases)) (State.startTurn_onlyPwm mask s.startInstant).glb)
    (fun _ k _ => State.startTurn_view mask s.startInstant k) k

section
variable (hs : s.supplied = true) (hz : s.frozen m = false) (hc : s.pwr.controlReady = true) (ha : s.laneOrPf0 m = true)
include hs hz hc ha

theorem exec_pwmStart :
    exec (.pwmStart m w) s =
      .next (if m = .lane then (s.beat m).gatedStart (bitsOf w 0 24) else (s.beat m).pwmStartMask (bitsOf w 0 24)) :=
  State.live_pwmWrite (State.reaches_iff.mpr ⟨hs, hz⟩) hc ha _

/-- A start of the driving lane is held by its output port. -/
theorem exec_pwmStart_held (hm : m = .lane) (hd : s.lne.coxDead = false) :
    exec (.pwmStart m w) s = .next ((s.beat m).modLne fun l => { l with held := l.held ++ [.start (bitsOf w 0 24)] }) := by
  rw [exec_pwmStart hs hz hc ha, if_pos hm, State.gatedStart, if_neg (by simp [hd])]
  rfl

/-- One of PF0, or with Cox dead, is let through. -/
theorem exec_pwmStart_passed (hd : m = .lane → s.lne.coxDead = true) :
    exec (.pwmStart m w) s = .next ((s.beat m).pwmStartMask (bitsOf w 0 24)) := by
  rw [exec_pwmStart hs hz hc ha]
  split
  case isTrue hm => rw [State.gatedStart, if_pos (by simp only [State.beat_frame, hd hm])]
  case isFalse => rfl

end

/-! ### Transfers (05 R134) -/

theorem PwmCh.transfer_some {c : PwmCh} {p : PwmPending} (hp : c.pend = some p) :
    c.transfer = { c with active := p.set, tag := p.tag, pend := none, hasActive := true } := by rw [PwmCh.transfer, hp]

theorem AuxCh.transfer_some {c : AuxCh} {p : AuxPending} (hp : c.pend = some p) :
    c.transfer = { c with active := p.set, tag := p.tag, pend := none } := by rw [AuxCh.transfer, hp]

theorem exec_pendingTransfer_phase {p : PwmPending} (hs : s.supplied = true) (hr : (s.pwm.ch.get n).running = false)
    (hp : (s.pwm.ch.get n).pend = some p) :
    exec (.pendingTransfer ⟨n.val, by omega⟩) s = .next ((s.runTo (cycleOfTaps (p.since + 128))).modCh n PwmCh.transfer) := by
  show execPendingTransfer _ s = _
  rw [execPendingTransfer, State.live_supplied _ hs, dif_pos n.isLt, hr, hp]
  rfl

theorem exec_pendingTransfer_aux {p : AuxPending} (hs : s.supplied = true) (hr : (s.pwm.aux.get a).running = false)
    (hp : (s.pwm.aux.get a).pend = some p) :
    exec (.pendingTransfer ⟨24 + a.val, by omega⟩) s = .next ((s.runTo (cycleOfTaps (p.since + 128))).modAux a AuxCh.transfer) := by
  have hi : (⟨24 + a.val - 24, by omega⟩ : Aux) = a := Fin.ext (Nat.add_sub_cancel_left ..)
  show execPendingTransfer _ s = _
  rw [execPendingTransfer, State.live_supplied _ hs, dif_neg (by simp)]
  simp only [hi, hr, hp]
  rfl

/-! ### Boundaries of phase channels (05 R125, R127, R134, R139) -/

theorem exec_periodBoundary_phase (hs : s.supplied = true) (samples : Vector Int 8) :
    exec (.periodBoundary ⟨n.val, by omega⟩ samples) s = .next (s.phaseBoundary n samples) := by
  show execPeriodBoundary _ samples s = _
  rw [execPeriodBoundary, State.live_supplied _ hs, dif_pos n.isLt]

theorem exec_periodBoundary_aux (hs : s.supplied = true) (samples : Vector Int 8) :
    exec (.periodBoundary ⟨24 + a.val, by omega⟩ samples) s = .next (s.auxBoundary a) := by
  have hi : (⟨24 + a.val - 24, by omega⟩ : Aux) = a := Fin.ext (Nat.add_sub_cancel_left ..)
  show execPeriodBoundary _ samples s = _
  rw [execPeriodBoundary, State.live_supplied _ hs, dif_neg (by simp)]
  simp only [hi]

theorem State.detect_pwm : (s.detect n).pwm = s.pwm := by
  unfold State.detect
  split <;> rfl

theorem State.turnCh_congr {tm : Nat} {f g : PwmCh → PwmCh} (h : f (s.pwm.ch.get n) = g (s.pwm.ch.get n)) :
    s.turnCh n tm f = s.turnCh n tm g :=
  State.modCh_congr n _ _ (by simp only [PwmCh.turn, h])

/-- The state at the boundary of a channel, with the samples of a period that ends. -/
def State.periodClosed (n : Phase) (samples : Vector Int 8) (s : State) : State :=
  let c := s.pwm.ch.get n
  let t := s.runTo (cycleOfTaps c.bound)
  if c.begun then (t.modRegCh n fun r => (r.sample c.bound samples).closePeriod).detect n else t

theorem State.periodClosed_pwm (samples : Vector Int 8) : (s.periodClosed n samples).pwm = s.pwm := by
  unfold State.periodClosed
  dsimp only
  split
  · rw [State.detect_pwm]
    simp only [State.modRegCh_frame, State.runTo_frame]
  · simp only [State.runTo_frame]

/-- A boundary of a running channel: the period closes, the channel takes its boundary, a pulse that this ends counts, a period opens. -/
theorem State.phaseBoundary_eq (hr : (s.pwm.ch.get n).running = true) (samples : Vector Int 8) :
    let c := s.pwm.ch.get n
    let low := (s.reg.ch.get n).holdsLow
    let d := c.boundary low
    s.phaseBoundary n samples = (((s.periodClosed n samples).turnCh n c.bound fun _ => d).modRegCh n fun r =>
      (if c.ideal && !d.ideal && !low then r.endPulse false c.since c.bound else r).openPeriod c.bound
        (tapsOf d.active.period)).releaseMasks n c.bound := by
  have hd : (s.periodClosed n samples).turnCh n (s.pwm.ch.get n).bound (PwmCh.boundary (s.reg.ch.get n).holdsLow) =
      (s.periodClosed n samples).turnCh n (s.pwm.ch.get n).bound fun _ => (s.pwm.ch.get n).boundary (s.reg.ch.get n).holdsLow :=
    State.turnCh_congr (by rw [State.periodClosed_pwm])
  intro c low d
  rw [State.phaseBoundary]
  dsimp only
  rw [if_neg (by simp [hr])]
  unfold State.periodClosed at hd ⊢
  dsimp only at hd ⊢
  rw [hd, State.turnCh_get]
  rfl

/-- A pending set committed at least 8 CLK_PWM cycles before the boundary comes into force at it. -/
def PwmCh.moves (c : PwmCh) : Bool := match c.pend with | some p => decide (p.since + cutoffTaps ≤ c.bound) | none => false

/-- The set and the tag of the period that begins. -/
def PwmCh.nextSet (c : PwmCh) : PwmSet := match c.pend with | some p => if c.moves = true then p.set else c.active | none => c.active
def PwmCh.nextTag (c : PwmCh) : Half := match c.pend with | some p => if c.moves = true then p.tag else c.tag | none => c.tag

/-- The ideal level that a compare at 0 sets, and the level at the start of the period. -/
def PwmSet.risesAtStart (x : PwmSet) : Bool := tapsOf x.rise == 0 && tapsOf x.fall != 0
def PwmCh.nextLevel (low : Bool) (c : PwmCh) : Bool :=
  !low && (c.nextSet.risesAtStart || (levelAtBoundary c.nextSet && tapsOf c.nextSet.fall != 0 && !c.blocked))

theorem PwmCh.boundary_eq (low : Bool) (c : PwmCh) :
    c.boundary low =
      { c with active := c.nextSet, tag := c.nextTag, pend := if c.moves = true then none else c.pend,
               hasActive := c.hasActive || c.moves, begun := true, off := 1, ideal := c.nextLevel low,
               since := if c.begun && c.ideal = c.nextLevel low then c.since else c.bound,
               blocked := c.blocked && !c.nextSet.risesAtStart, bound := c.bound + tapsOf c.nextSet.period } := by
  unfold PwmCh.boundary PwmCh.nextLevel PwmCh.nextTag PwmCh.nextSet PwmCh.moves PwmSet.risesAtStart
  cases hp : c.pend with
  | none => simp [hp]
  | some p =>
    by_cases hb : p.since + cutoffTaps ≤ c.bound
    · simp [hb, PwmCh.transfer_some hp]
    · simp [hb, hp]

/-! ### Auxiliary channels (05 R142, R143) -/

/-- What an auxiliary commit that passes its checks leaves: it waits for the boundary of a running channel and starts any other. -/
theorem State.auxCommit_passed {tag : Half} (h : auxResult (s.pwm.aux.get a) = 0) :
    s.auxCommit a tag = s.modAux a fun c =>
      let d := { c with pend := some ⟨c.shadow, tag, s.taps⟩, accepted := c.shadow, written := 0, lastResult := 0 }
      if d.running && d.begun then d
      else { d with running := true, begun := false, heldFs := d.heldFs && s.clockFault, bound := ceilDiv s.taps 16 * 16 + cutoffTaps } := by
  simp only [State.auxCommit, h]
  rfl

theorem State.auxCommit_failed {tag : Half} {res : BitVec 3} (h : auxResult (s.pwm.aux.get a) = res) (hn : res ≠ 0) :
    s.auxCommit a tag = s.modAux a fun c => { c with lastResult := res } := by
  simp only [State.auxCommit, h, if_pos hn]

theorem auxResult_disabled {c : AuxCh} (he : c.en = false) : auxResult c = 6 := by simp [auxResult, he]

theorem auxResult_short {c : AuxCh} (he : c.en = true) (hp : c.shadow.period.toNat < 2) : auxResult c = 2 := by simp [auxResult, he, hp]

theorem auxResult_split {c : AuxCh} (he : c.en = true) (hp : 2 ≤ c.shadow.period.toNat) (hd : c.written.getLsbD 1 = false)
    (hw : c.written.getLsbD 0 = true) (hs : c.shadow.period.toNat ≤ c.shadow.duty.toNat) : auxResult c = 1 := by
  simp only [auxResult, he, hd, hw, hs, Nat.not_lt.mpr hp]
  rfl

theorem auxResult_passed {c : AuxCh} (he : c.en = true) (hp : 2 ≤ c.shadow.period.toNat)
    (hs : c.written.getLsbD 1 = true ∨ c.written.getLsbD 0 = false ∨ c.shadow.duty.toNat < c.shadow.period.toNat) : auxResult c = 0 := by
  have hn : ¬ (c.written.getLsbD 0 && !c.written.getLsbD 1 && decide (c.shadow.period.toNat ≤ c.shadow.duty.toNat)) = true := by
    simp only [Bool.and_eq_true, Bool.not_eq_true', decide_eq_true_eq]
    rintro ⟨⟨hw, hd⟩, hle⟩
    rcases hs with h | h | h
    · exact absurd (hd.symm.trans h) Bool.false_ne_true
    · exact absurd (h.symm.trans hw) Bool.false_ne_true
    · exact absurd hle (Nat.not_le.mpr h)
  rw [auxResult, if_neg (by simp [he]), if_neg (Nat.not_lt.mpr hp), if_neg hn]

theorem exec_pwmAuxCommit (hs : s.supplied = true) (hz : s.frozen m = false) (hc : s.pwr.controlReady = true) (ha : s.laneOrPf0 m = true) :
    exec (.pwmAuxCommit m a w) s = .next ((s.beat m).auxCommit a (bitsOf w 0 16)) :=
  State.live_pwmWrite (State.reaches_iff.mpr ⟨hs, hz⟩) hc ha _

/-- The waiting set of an auxiliary channel that its boundary brings into force. -/
def AuxCh.moves (c : AuxCh) : Bool := match c.pend with | some p => decide (p.since + cutoffTaps ≤ c.bound) | none => false
def AuxCh.nextSet (c : AuxCh) : AuxSet := match c.pend with | some p => if c.moves = true then p.set else c.active | none => c.active
def AuxCh.nextTag (c : AuxCh) : Half := match c.pend with | some p => if c.moves = true then p.tag else c.tag | none => c.tag

/-- The channel with the set and the tag of the period that begins. -/
def AuxCh.taken (c : AuxCh) : AuxCh :=
  match c.pend with
  | some p => if p.since + cutoffTaps ≤ c.bound then c.transfer else c
  | none => c

theorem AuxCh.taken_eq (c : AuxCh) :
    c.taken = { c with active := c.nextSet, tag := c.nextTag, pend := if c.moves = true then none else c.pend } := by
  unfold AuxCh.taken AuxCh.nextTag AuxCh.nextSet AuxCh.moves
  cases hp : c.pend with
  | none =>
    simp only [Bool.false_eq_true, if_false]
    rw [← hp]
  | some p =>
    by_cases hb : p.since + cutoffTaps ≤ c.bound
    · simp [hb, AuxCh.transfer_some hp]
    · simp only [hb, decide_false, Bool.false_eq_true, if_false]
      rw [← hp]

theorem State.auxBoundary_eq (hr : (s.pwm.aux.get a).running = true) :
    let d := (s.pwm.aux.get a).taken
    s.auxBoundary a = (s.runTo (cycleOfTaps (s.pwm.aux.get a).bound)).modAux a fun _ =>
      { d with begun := true, inFailsafe := s.noLane, heldFs := d.heldFs && s.clockFault, bound := d.bound + 16 * d.active.period.toNat } := by
  rw [State.auxBoundary]
  dsimp only
  rw [if_neg (by simp [hr])]
  exact State.modAux_congr _ _ _ (by simp only [State.runTo_frame, State.runTo_clockFault, State.noLane]; rfl)

/-- Settles O22: the starts by what they leave of each channel, the transfers and boundaries by the set that they bring into force, the
auxiliary commits by their result. -/
theorem pwmStartsTransfersAndBoundaries : Obligations.PwmStartsTransfersAndBoundaries := by
  unfold Obligations.PwmStartsTransfersAndBoundaries
  intro s hs
  refine ⟨fun m w hz hc ha => ⟨exec_pwmStart_held hs hz hc ha, fun hd => ⟨_, exec_pwmStart_passed hs hz hc ha hd,
    State.pwmStartMask_eq (s := s.beat m) _ ▸ OnlyPwm.forAll fun _ _ => State.startTurn_onlyPwm _ _, ?starts⟩⟩, fun n p hr hp => ?phaseTransfer,
    fun a p hr hp => ?auxTransfer, fun n samples hr => ?phaseBoundary, fun m a w hz hc ha => ?auxCommit, fun a samples hr => ?auxBoundary⟩
  case starts =>
    intro k c named start
    have hm : (bitsOf w 0 24).getLsbD k.val = w.getLsbD k.val := by simp [bitsOf]
    have hv : ((s.beat m).pwmStartMask (bitsOf w 0 24)).chView k = startView (bitsOf w 0 24) start k s.hasPhase (s.chView k) := by
      have hb : (s.beat m).chView k = s.chView k := by
        simp only [State.chView, State.evGet_ev (s := s.beat m) (t := s) _ (by simp only [State.beat_frame]), State.beat_frame]
      rw [State.pwmStartMask_view, hb, show (s.beat m).hasPhase = s.hasPhase from funext fun _ => State.beat_hasPhase]
      rfl
    refine ⟨fun ⟨⟨hw, hp⟩, hr, he, hact⟩ => ?_, fun hno => ?_, fun ⟨⟨hw, hp⟩, hr⟩ => ?_⟩
    · exact congrArg Prod.fst (hv.trans (startView_starts (hm.trans hw) hp hr he hact))
    · exact (congrArg Prod.fst hv).trans (startView_stays (by rwa [hm]))
    · have hf : ((s.beat m).pwmStartMask (bitsOf w 0 24) |>.evGet (.pwm k)).flags = (s.evGet (.pwm k)).flags ||| bit 32 5 :=
        congrArg Prod.snd (hv.trans (startView_ignored (hm.trans hw) hp hr))
      rw [hf, BitVec.getLsbD_or, show (bit 32 5).getLsbD 5 = true from by decide, Bool.or_true]
  case phaseTransfer =>
    rw [exec_pendingTransfer_phase hs hr hp]
    exact congrArg _ (State.modCh_congr n _ _ (PwmCh.transfer_some (by simpa only [State.runTo_frame] using hp)))
  case auxTransfer =>
    rw [exec_pendingTransfer_aux hs hr hp]
    exact congrArg _ (State.modAux_congr a _ _ (AuxCh.transfer_some (by simpa only [State.runTo_frame] using hp)))
  case phaseBoundary =>
    intro c low t1 t2 moved act tag rises l0 level
    rw [exec_periodBoundary_phase hs, State.phaseBoundary_eq hr, PwmCh.boundary_eq]
    rfl
  case auxCommit =>
    intro c b
    have hb : b.pwm = s.pwm := by simp only [b, State.beat_frame]
    rw [exec_pwmAuxCommit hs hz hc ha]
    refine ⟨fun he hp hd => ?_, fun he hp => ?_, fun he hp hd hw hs => ?_, fun he => ?_⟩
    · rw [State.auxCommit_passed (by rw [hb]; exact auxResult_passed he hp hd)]
      refine ⟨fun hr hg => congrArg _ (State.modAux_congr a _ _ ?_), fun hr => congrArg _ (State.modAux_congr a _ _ ?_)⟩
      · exact if_pos (by rw [hb]; simp [hr, hg, c])
      · exact if_neg (by rw [hb]; rcases hr with hr | hr <;> simp [hr, c])
    · exact congrArg _ (State.auxCommit_failed (by rw [hb]; exact auxResult_short he hp) (by decide))
    · exact congrArg _ (State.auxCommit_failed (by rw [hb]; exact auxResult_split he hp hd hw hs) (by decide))
    · exact congrArg _ (State.auxCommit_failed (by rw [hb]; exact auxResult_disabled he) (by decide))
  case auxBoundary =>
    rw [exec_periodBoundary_aux hs, State.auxBoundary_eq hr, AuxCh.taken_eq]
    rfl

end Sys2Proof.Machine
end

section
/-! How the ideal level rises and a pulse ends: compares, trips, the maximum duty (05 R127, R128; 06 R150-R152, R164). -/
namespace Sys2Proof.Machine

variable {s : State} {n : Phase}

/-! ### Compares (05 R127; 06 R150) -/

section
variable (hs : s.supplied = true)
include hs

/-- The falling compare lowers the ideal level, and ends a pulse where it was high. -/
theorem exec_compareEvent_fall {x : Nat} (hr : (s.pwm.ch.get n).running = true) (hb : (s.pwm.ch.get n).begun = true)
    (hx : nextCompare (s.pwm.ch.get n) = some (x, true)) :
    let c := s.pwm.ch.get n
    let tm := c.periodStart + x
    let t := (s.runTo (cycleOfTaps tm)).turnCh n tm fun c =>
      { c with ideal := false, since := if c.ideal = false then c.since else tm, off := x + 1 }
    exec (.compareEvent n) s = .next (if c.ideal then t.modRegCh n (·.endPulse false c.since tm) else t) := by
  show execCompareEvent n s = _
  rw [execCompareEvent, State.live_supplied _ hs]
  dsimp only
  rw [if_neg (by simp [hr, hb]), hx]
  simp only [Bool.not_true, Bool.false_and, Bool.and_true, Bool.true_and]

/-- The rising compare lifts it, unless the regulator holds it low, and ends a block. -/
theorem exec_compareEvent_rise {x : Nat} (hr : (s.pwm.ch.get n).running = true) (hb : (s.pwm.ch.get n).begun = true)
    (hx : nextCompare (s.pwm.ch.get n) = some (x, false)) :
    let tm := (s.pwm.ch.get n).periodStart + x
    let up := !(s.reg.ch.get n).holdsLow
    exec (.compareEvent n) s = .next ((s.runTo (cycleOfTaps tm)).turnCh n tm fun c =>
      { c with ideal := up, since := if c.ideal = up then c.since else tm, blocked := false, off := x + 1 }) := by
  show execCompareEvent n s = _
  rw [execCompareEvent, State.live_supplied _ hs]
  dsimp only
  rw [if_neg (by simp [hr, hb]), hx]
  simp only [Bool.not_false, Bool.true_and, Bool.and_false, Bool.false_and, Bool.false_eq_true, if_false, State.runTo_frame]

/-! ### The maximum duty (06 R152) -/

theorem exec_dmaxLimit (hr : (s.pwm.ch.get n).running = true) (hi : (s.pwm.ch.get n).ideal = true) :
    let c := s.pwm.ch.get n
    let tm := c.dutyEnd (s.reg.ch.get n).dmax
    exec (.dmaxLimit n) s = .next (((s.runTo (cycleOfTaps tm)).turnCh n tm fun c =>
      { c with ideal := false, since := tm, blocked := true }).modRegCh n (·.endPulse false c.since tm)) := by
  show execDmaxLimit n s = _
  rw [execDmaxLimit, State.live_supplied _ hs]
  dsimp only
  rw [if_neg (by simp [hr, hi])]

end

/-! ### Trips (05 R128; 06 R148, R151, R152) -/

/-- The latest end: the maximum duty, or before it the falling compare where that comes next. -/
theorem PwmCh.latestEnd_eq (c : PwmCh) (dmax : BitVec 14) :
    c.latestEnd dmax =
      min (c.dutyEnd dmax) (match nextCompare c with | some (x, true) => c.periodStart + x | _ => c.dutyEnd dmax) := by
  unfold PwmCh.latestEnd
  rcases nextCompare c with _ | ⟨x, falls⟩
  · exact (Nat.min_self _).symm
  · cases falls
    · exact (Nat.min_self _).symm
    · rfl

/-- The comparator of a phase acts. -/
def State.tripEnabled (s : State) (n : Phase) : Bool :=
  (s.pwm.ch.get n).running && (s.pwm.ch.get n).begun && (s.pwm.ch.get n).cmode && (s.reg.ch.get n).en

/-- The sensed current reaches the threshold of a pulse that rose at a time, outside its blanking. -/
def State.trips (s : State) (n : Phase) (tm : Nat) (sense : Int) (rise : Nat) : Bool :=
  decide (rise ≤ tm) && (s.reg.ch.get n).reaches (tm - rise) sense && !(s.pwm.ch.get n).blanked (s.reg.ch.get n).blank rise tm

variable {tm rise : Nat} {sense : Int}

theorem State.tripEnabled_iff :
    s.tripEnabled n = true ↔
      (s.pwm.ch.get n).running = true ∧ (s.pwm.ch.get n).begun = true ∧ (s.pwm.ch.get n).cmode = true ∧ (s.reg.ch.get n).en = true := by
  simp only [State.tripEnabled, Bool.and_eq_true, and_assoc]

theorem State.trips_iff :
    s.trips n tm sense rise = true ↔
      rise ≤ tm ∧ (s.reg.ch.get n).reaches (tm - rise) sense = true ∧
        (s.pwm.ch.get n).blanked (s.reg.ch.get n).blank rise tm = false := by
  simp only [State.trips, Bool.and_eq_true, decide_eq_true_eq, Bool.not_eq_true', and_assoc]

/-- What the enabled comparator does: it ends a high level, or makes the pulse that has just ended a tripped one. -/
def State.tripped (n : Phase) (tm : Nat) (sense : Int) (s : State) : State :=
  let c := s.pwm.ch.get n
  let e := min tm (c.latestEnd (s.reg.ch.get n).dmax)
  if c.ideal then
    if s.trips n tm sense c.since && decide (tm / 16 ≤ c.latestEnd (s.reg.ch.get n).dmax / 16) then
      ((s.runTo (cycleOfTaps e)).turnCh n e fun c => { c with ideal := false, since := e, blocked := true }).modRegCh n (·.endPulse true c.since e)
    else s
  else match (s.reg.ch.get n).lastEnd with
    | some e =>
      if s.trips n tm sense e.rise && tm / 16 = e.ended / 16 then
        ((s.runTo (cycleOfTaps tm)).modCh n fun c => { c with blocked := true }).modRegCh n (·.retrip e)
      else s
    | none => s

theorem exec_comparatorTrip (hs : s.supplied = true) :
    exec (.comparatorTrip n tm sense) s = .next (if s.tripEnabled n then s.tripped n tm sense else s) := by
  show execComparatorTrip n tm sense s = _
  rw [execComparatorTrip, State.live_supplied _ hs]
  cases he : s.tripEnabled n
  case false => exact congrArg _ (if_pos (congrArg not he))
  case true => exact congrArg _ (if_neg (ne_true_of_eq_false (congrArg not he)))

theorem State.tripped_high (hi : (s.pwm.ch.get n).ideal = true) (ht : s.trips n tm sense (s.pwm.ch.get n).since = true)
    (hl : tm / 16 ≤ (s.pwm.ch.get n).latestEnd (s.reg.ch.get n).dmax / 16) :
    let e := min tm ((s.pwm.ch.get n).latestEnd (s.reg.ch.get n).dmax)
    s.tripped n tm sense = ((s.runTo (cycleOfTaps e)).turnCh n e fun c => { c with ideal := false, since := e, blocked := true }).modRegCh n
      (·.endPulse true (s.pwm.ch.get n).since e) := by
  rw [State.tripped, if_pos hi, if_pos (by simp [ht, hl])]

theorem State.tripped_high_stays (hi : (s.pwm.ch.get n).ideal = true)
    (hno : ¬ (s.trips n tm sense (s.pwm.ch.get n).since = true ∧ tm / 16 ≤ (s.pwm.ch.get n).latestEnd (s.reg.ch.get n).dmax / 16)) :
    s.tripped n tm sense = s := by
  rw [State.tripped, if_pos hi, if_neg (by simpa using hno)]

theorem State.tripped_low {e : PulseEnd} (hi : (s.pwm.ch.get n).ideal = false) (he : (s.reg.ch.get n).lastEnd = some e)
    (ht : s.trips n tm sense e.rise = true) (hl : tm / 16 = e.ended / 16) :
    s.tripped n tm sense = ((s.runTo (cycleOfTaps tm)).modCh n fun c => { c with blocked := true }).modRegCh n (·.retrip e) := by
  rw [State.tripped, if_neg (by simp [hi]), he]
  exact if_pos (by simp [ht, hl])

theorem State.tripped_low_stays (hi : (s.pwm.ch.get n).ideal = false)
    (hno : ∀ e, (s.reg.ch.get n).lastEnd = some e → ¬ (s.trips n tm sense e.rise = true ∧ tm / 16 = e.ended / 16)) :
    s.tripped n tm sense = s := by
  rw [State.tripped, if_neg (by simp [hi])]
  split
  case h_1 e he => exact if_neg (by simpa using hno e he)
  case h_2 => rfl

/-- Settles O23: the compares by their direction, trips by the level that they meet, the maximum duty by its instant. -/
theorem pwmPulsesRiseAndEnd : Obligations.PwmPulsesRiseAndEnd := by
  unfold Obligations.PwmPulsesRiseAndEnd
  intro s n hs c r start toFall toRise
  refine ⟨fun x hr hb hx => ⟨fun hi => ?_, fun hi => ?_⟩, fun x hr hb hx => ⟨fun he => ?_, fun he => ?_⟩,
    fun tm sense => ?trip, exec_dmaxLimit hs⟩
  · exact (exec_compareEvent_fall hs hr hb hx).trans (congrArg _ (if_pos hi))
  · exact (exec_compareEvent_fall hs hr hb hx).trans (congrArg _ (if_neg (by simp [c, hi])))
  · rw [exec_compareEvent_rise hs hr hb hx, show (s.reg.ch.get n).holdsLow = false from beq_false_of_ne he]
    rfl
  · rw [exec_compareEvent_rise hs hr hb hx, show (s.reg.ch.get n).holdsLow = true from beq_iff_eq.mpr he]
    rfl
  case trip =>
    intro latest trips enabled
    have hl : (s.pwm.ch.get n).latestEnd (s.reg.ch.get n).dmax = latest := PwmCh.latestEnd_eq c r.dmax
    have ht (rise : Nat) : s.trips n tm sense rise = true ↔ trips rise := State.trips_iff
    have hen : s.tripEnabled n = true ↔ enabled := State.tripEnabled_iff
    have acts (he : enabled) : exec (.comparatorTrip n tm sense) s = .next (s.tripped n tm sense) := by
      rw [exec_comparatorTrip hs, if_pos (hen.mpr he)]
    have idle (h : s.tripped n tm sense = s) : exec (.comparatorTrip n tm sense) s = .next s := by
      rw [exec_comparatorTrip hs, h, ite_self]
    refine ⟨fun he hi hr hc => ?_, fun e he hi hle hr hc => ?_, fun he => ?_, fun hi hno => ?_, fun hi hno => ?_⟩
    · rw [acts he, State.tripped_high hi ((ht _).mpr hr) (by rwa [hl]), hl]
    · rw [acts he, State.tripped_low hi hle ((ht _).mpr hr) hc]
    · rw [exec_comparatorTrip hs, if_neg (mt hen.mp he)]
    · exact idle (State.tripped_high_stays hi (by rwa [ht, hl]))
    · exact idle (State.tripped_low_stays hi (by simpa only [ht] using hno))

end Sys2Proof.Machine
end

section
/-! What the state right after a cold reset from power-on holds (05 R145, 06 R172, 07 R188, 08 R219, 10 R270, 13 R348, 15 R393, 16 R400, R408,
17 R425, 18 R444, 20 R483). -/
namespace Sys2Proof.Machine

/-! ### Registers that share one cold value -/

theorem replicate_get {α : Type} {n : Nat} (a : α) (i : Fin n) : (Vector.replicate n a).get i = a := by
  show (Vector.replicate n a)[i.val] = a
  exact Vector.getElem_replicate i.isLt

theorem State.reset_evGet (e : EvSrc) : State.reset.evGet e = ⟨0, 0⟩ := by
  cases e with
  | ring f => exact replicate_get _ f
  | pwm n | reg n => exact replicate_get _ n
  | out o | vcl o => exact replicate_get _ o
  | clk | pwr | frz | alc | cfg | thm | saf | lne | met | bil | bat | key | lcs | dia => rfl

theorem State.reset_frozen (m : Master) : State.reset.frozen m = false := by
  unfold State.frozen
  split
  case h_1 k _ => exact congrArg FrzM.frozen (replicate_get _ k)
  case h_2 => rfl

theorem State.reset_ring (r : Ring) : State.reset.ring.get r = RingSt.cold r := by
  rw [show State.reset.ring = ringsCold from rfl, ringsCold, vmapIdx_get]

theorem State.reset_ringF (f : Fn) : State.reset.ringF.get f = RingFn.cold := replicate_get _ f
theorem State.reset_irq (v : IrqVec) : State.reset.irq.get v = Irq.cold := replicate_get _ v
theorem State.reset_ch (n : Phase) : State.reset.pwm.ch.get n = PwmCh.cold := replicate_get _ n
theorem State.reset_regCh (n : Phase) : State.reset.reg.ch.get n = RegCh.cold := replicate_get _ n
theorem State.reset_out (o : Outlet) : State.reset.out.get o = OutSt.cold := replicate_get _ o
theorem State.reset_vclCh (o : Outlet) : State.reset.vcl.ch.get o = VclSt.cold := replicate_get _ o

/-- The empty stores are in canonical form. -/
theorem State.reset_storesWf : StoresWf State.reset := ⟨rfl, rfl, sram_cold_wf⟩

/-- Settles O2: the instances by the cold value that they share, the single registers by their own. -/
theorem resetLeavesTheManualsValues : Obligations.ResetLeavesTheManualsValues := by
  unfold Obligations.ResetLeavesTheManualsValues
  intro s
  refine ⟨State.reset_storesWf, rfl, fun _ => rfl, fun _ => rfl, State.reset_frozen, State.reset_evGet,
    fun r => ?ring, fun f => ?ringF, fun v => ?irq, fun n => ?ch, rfl, fun n => ?regCh, fun o => ?out, fun o => ?vclCh, ?rest⟩
  case ring => rw [State.reset_ring]; exact ⟨rfl, rfl, rfl, rfl, rfl, rfl, rfl, rfl⟩
  case ringF => rw [State.reset_ringF]; exact ⟨rfl, rfl⟩
  case irq => rw [State.reset_irq]; exact ⟨rfl, rfl⟩
  case ch => rw [State.reset_ch]; exact ⟨rfl, rfl, rfl⟩
  case regCh => rw [State.reset_regCh]; exact ⟨rfl, rfl, rfl, rfl, rfl⟩
  case out => rw [State.reset_out]; exact ⟨rfl, rfl, rfl⟩
  case vclCh => rw [State.reset_vclCh]; exact ⟨rfl, rfl⟩
  case rest =>
    exact ⟨rfl, rfl, rfl, rfl, rfl, rfl, rfl, rfl, rfl, rfl, rfl, rfl, rfl, rfl, rfl, rfl, rfl, rfl, rfl, rfl, rfl⟩

end Sys2Proof.Machine
end

section
/-! The clamp transfer: every clamp shadow that was written comes into force at once, at the apply instant or late (06 R150, R155, R171). -/
namespace Sys2Proof.Machine

variable {s t : State} {m : Master} {n : Phase}

/-! ### What an effective code of 0 holds low (06 R150) -/

/-- Holding the ideal level low touches the PWM block alone. -/
theorem State.holdLow_pwmOnly : s.holdLow n = { s with pwm := (s.holdLow n).pwm } := by
  unfold State.holdLow
  split <;> rfl

theorem State.holdLow_reg : (s.holdLow n).reg = s.reg := by rw [State.holdLow_pwmOnly]
theorem State.holdLow_ev : (s.holdLow n).ev = s.ev := by rw [State.holdLow_pwmOnly]
theorem State.holdLow_clk : (s.holdLow n).clk = s.clk := by rw [State.holdLow_pwmOnly]

theorem State.holdLow_running : ((s.holdLow n).pwm.ch.get n).running = (s.pwm.ch.get n).running := by
  unfold State.holdLow
  split
  · rw [State.turnCh_get]
    rfl
  · rfl

/-! ### A phase with its event flags -/

/-- The REG registers of a phase with its event flags. -/
def State.regView (k : Phase) (s : State) : RegCh × Word := (s.reg.ch.get k, (s.evGet (.reg k)).flags)

theorem State.regView_ch (k : Phase) : (s.regView k).1 = s.reg.ch.get k := rfl
theorem State.regView_flags (k : Phase) : (s.regView k).2 = (s.evGet (.reg k)).flags := rfl

theorem State.modCode_regView (f : RegCh → RegCh) (k : Phase) :
    (s.modCode n f).regView k = if n = k then (f (s.reg.ch.get k), (s.evGet (.reg k)).flags) else s.regView k := by
  have he : (s.modCode n f).evGet (.reg k) = s.evGet (.reg k) := State.evGet_ev (t := s) _ State.holdLow_ev
  rw [State.regView, he, State.modCode, State.holdLow_reg, State.modRegCh_reg]
  dsimp only
  split
  case isTrue h => rw [h, vmod_self]
  case isFalse h => rw [vmod_other _ _ _ _ h, State.regView]

theorem State.raise_regView (b : Nat) (k : Phase) :
    (s.raise (.reg n) b).regView k = if n = k then (s.reg.ch.get k, (s.evGet (.reg k)).flags ||| bit 32 b) else s.regView k := by
  have hr : (s.raise (.reg n) b).reg = s.reg := (OnlyEvents.raise _ _).reg
  rw [State.regView, hr]
  split
  case isTrue h => rw [h, State.raise_flags]
  case isFalse h => rw [State.raise_other _ _ _ (by simpa using Ne.symm h), State.regView]

/-! ### The transfer (06 R155) -/

/-- A phase whose shadow has come into force. -/
def RegCh.transferred (c : RegCh) : RegCh := { c with inForce := c.shadow, shadowSet := false }

/-- The turn of a phase in a transfer. -/
def State.clampTurn (late : Bool) (n : Phase) (t : State) : State :=
  if !(t.reg.ch.get n).shadowSet then t
  else if late then (t.modCode n RegCh.transferred).raise (.reg n) 5
  else t.modCode n RegCh.transferred

theorem State.transferClamps_eq (late : Bool) :
    s.transferClamps late = (s.forAll (State.clampTurn late)).modReg fun r => { r with armed := false } := rfl

theorem State.disarm_regView (k : Phase) : (s.modReg fun r => { r with armed := false }).regView k = s.regView k := rfl

/-- What a transfer leaves of a phase and of its event flags. -/
def clampView (late : Bool) (x : RegCh × Word) : RegCh × Word :=
  if x.1.shadowSet then (x.1.transferred, if late then x.2 ||| bit 32 5 else x.2) else x

section
variable {late : Bool} {x : RegCh × Word}

theorem clampView_inForce : (clampView late x).1.inForce = if x.1.shadowSet = true then x.1.shadow else x.1.inForce := by
  unfold clampView
  split <;> rfl

theorem clampView_shadowSet : (clampView late x).1.shadowSet = false := by
  unfold clampView
  split
  case isTrue => rfl
  case isFalse h => exact eq_false_of_ne_true h

theorem clampView_lateApply (h : x.1.shadowSet = true) : (clampView true x).2.getLsbD 5 = true := by
  rw [clampView, if_pos h]
  show (x.2 ||| bit 32 5).getLsbD 5 = true
  rw [BitVec.getLsbD_or, show (bit 32 5).getLsbD 5 = true from by decide, Bool.or_true]

end

theorem State.clampTurn_view (late : Bool) (k : Phase) :
    (t.clampTurn late n).regView k = if n = k then clampView late (t.regView k) else t.regView k := by
  by_cases hk : n = k
  case pos =>
    subst hk
    rw [if_pos rfl, State.clampTurn, clampView, show (t.regView n).1 = t.reg.ch.get n from rfl]
    cases hset : (t.reg.ch.get n).shadowSet
    case false => rfl
    case true =>
      have hm : (t.modCode n RegCh.transferred).regView n = ((t.reg.ch.get n).transferred, (t.evGet (.reg n)).flags) := by
        rw [State.modCode_regView, if_pos rfl]
      cases late
      case false => exact hm
      case true =>
        refine (State.raise_regView 5 n).trans ((if_pos rfl).trans ?_)
        exact congrArg (fun v : RegCh × Word => (v.1, v.2 ||| bit 32 5)) hm
  case neg =>
    have hm : (t.modCode n RegCh.transferred).regView k = t.regView k := by rw [State.modCode_regView, if_neg hk]
    rw [if_neg hk, State.clampTurn]
    split
    · rfl
    · split
      · rw [State.raise_regView, if_neg hk, hm]
      · exact hm

theorem State.clampTurn_clk (late : Bool) : (t.clampTurn late n).clk = t.clk := by
  have hm : (t.modCode n RegCh.transferred).clk = t.clk := State.holdLow_clk
  unfold State.clampTurn
  split
  · rfl
  · split
    · exact (OnlyEvents.raise _ _).clk.trans hm
    · exact hm

theorem State.transferClamps_view (late : Bool) (k : Phase) : (s.transferClamps late).regView k = clampView late (s.regView k) := by
  rw [State.transferClamps_eq, State.disarm_regView]
  exact State.forAll_view (State.clampTurn late) (fun _ => ()) State.regView (fun _ _ => clampView late) (fun _ _ => rfl)
    (fun _ k _ => State.clampTurn_view late k) k

theorem State.transferClamps_armed (late : Bool) : (s.transferClamps late).reg.armed = false := by
  rw [State.transferClamps_eq, State.modReg_reg]

/-- A transfer takes no time. -/
theorem State.transferClamps_clk (late : Bool) : (s.transferClamps late).clk = s.clk := by
  rw [State.transferClamps_eq, (State.modReg_frame _ _).1]
  exact State.forAll_induct _ (fun t => t.clk = s.clk) (fun _ _ h => (State.clampTurn_clk late).trans h) rfl

/-- After a transfer no shadow waits, and each clamp in force is the shadow that waited, or what it was. -/
theorem State.transferClamps_clamps (late : Bool) (k : Phase) :
    ((s.transferClamps late).reg.ch.get k).inForce =
        (if (s.reg.ch.get k).shadowSet = true then (s.reg.ch.get k).shadow else (s.reg.ch.get k).inForce) ∧
      ((s.transferClamps late).reg.ch.get k).shadowSet = false := by
  rw [← State.regView_ch, State.transferClamps_view]
  exact ⟨clampView_inForce, clampView_shadowSet⟩

theorem State.transferClamps_lateApply {k : Phase} (h : (s.reg.ch.get k).shadowSet = true) :
    ((s.transferClamps true).evGet (.reg k)).flags.getLsbD 5 = true := by
  rw [← State.regView_flags, State.transferClamps_view]
  exact clampView_lateApply h

/-! ### The commands (06 R155) -/

/-- The REG block with a transfer armed. -/
def Reg.armedAt (time : DWord) (r : Reg) : Reg := { r with applyTime := time, armed := true }

/-- The arming write transfers at once where its time has passed. -/
theorem exec_regApplyArm (hr : s.reaches m = true) (hc : s.pwr.controlReady = true) (ha : s.laneOrPf0 m = true) (w : Word) :
    let time := setHi s.reg.applyTime w
    let b := (s.beat m).modReg (Reg.armedAt time)
    exec (.regApplyArm m w) s = .next (if time.toNat ≤ (s.beat m).now then b.transferClamps true else b) := by
  intro time b
  have hb : (s.beat m).reg = s.reg := by simp only [State.beat_frame]
  refine (State.live_pwmWrite hr hc ha _).trans ?_
  dsimp only
  rw [State.modReg_reg, hb]
  rfl

theorem exec_clampTransfer (hs : s.supplied = true) (ha : s.reg.armed = true) :
    exec .clampTransfer s = .next ((s.runToFleet s.reg.applyTime.toNat).transferClamps false) := by
  show execClampTransfer s = _
  rw [execClampTransfer, State.live_supplied _ hs, if_pos ha]

/-- Settles O24: the arming write by whether its time has passed, and the transfer by what it leaves of each phase. -/
theorem clampsTransferAtTheApplyInstant : Obligations.ClampsTransferAtTheApplyInstant := by
  unfold Obligations.ClampsTransferAtTheApplyInstant
  intro s hs
  refine ⟨fun m w hz hc ha => ?arm, fun ha => ?transfer⟩
  case arm =>
    dsimp only
    have hch : ((s.beat m).modReg (Reg.armedAt (setHi s.reg.applyTime w))).reg.ch = s.reg.ch := by
      simp only [State.modReg_reg, State.beat_frame, Reg.armedAt]
    rw [exec_regApplyArm (State.reaches_iff.mpr ⟨hs, hz⟩) hc ha w]
    refine ⟨fun ht => ?ahead, fun ht => ?late⟩
    case ahead =>
      rw [if_neg (Nat.not_le.mpr ht)]
      rfl
    case late =>
      rw [if_pos ht]
      refine ⟨_, rfl, State.transferClamps_armed _, fun n => ?_⟩
      rw [← hch]
      obtain ⟨hforce, hset⟩ := State.transferClamps_clamps (s := (s.beat m).modReg (Reg.armedAt (setHi s.reg.applyTime w))) true n
      exact ⟨hforce, hset, State.transferClamps_lateApply⟩
  case transfer =>
    have h := State.transferClamps_clamps (s := s.runToFleet s.reg.applyTime.toNat) false
    simp only [State.runToFleet_frame] at h
    exact ⟨_, exec_clampTransfer hs ha, State.transferClamps_armed _, State.transferClamps_clk _, h⟩

end Sys2Proof.Machine
end

section
/-! Direction writes, overcurrent, the return of a phase, and the timers of the start-up machine (06 R148, R153, R161, R163, R167; 10 R247;
11 R274). -/
namespace Sys2Proof.Machine

variable {s : State} {m : Master} {n : Phase} {o : Outlet} {w : Word}

/-! ### CTRL (06 R148, R153; 11 R274) -/

theorem State.modRegCh_self (f : RegCh → RegCh) (h : f (s.reg.ch.get n) = s.reg.ch.get n) : s.modRegCh n f = s := by
  have hv : vmod s.reg.ch n f = s.reg.ch := by
    rw [vmod, h]
    exact Vector.set_getElem_self n.isLt
  rw [State.modRegCh, hv]

/-- The output port gates the setting of EN: the driving lane sets it where it is clear. -/
def State.gatesEn (s : State) (lane : Bool) (n : Phase) (w : Word) : Bool := lane && w.getLsbD 0 && !(s.reg.ch.get n).en

/-- EN and SLOPE_AUTO as written, a gated setting of EN apart. -/
def State.regCtrlFields (lane : Bool) (n : Phase) (w : Word) (s : State) : State :=
  s.modRegCh n fun c => { c with en := w.getLsbD 0 && !s.gatesEn lane n w, slopeAuto := w.getLsbD 2 }

/-- EN and SLOPE_AUTO after a write to CTRL. -/
def State.regCtrlSet (lane : Bool) (n : Phase) (w : Word) (s : State) : State :=
  (s.regCtrlFields lane n w).cond (s.gatesEn lane n w) (·.gatedRegEn n)

/-- The DIR of a write is taken, or ignored on a running channel that it would turn. -/
theorem State.regCtrl_eq (lane : Bool) :
    s.regCtrl lane n w =
      (let t := s.regCtrlSet lane n w
       if w.getLsbD 1 = (t.reg.ch.get n).dir then t
       else if (t.pwm.ch.get n).running then t.raise (.reg n) 4
       else t.modRegCh n fun c => { c with dir := w.getLsbD 1 }).holdLow n := rfl

/-- A gated setting is held by the output port, but let through where Cox is dead. -/
theorem State.regCtrlSet_eq (lane : Bool) :
    s.regCtrlSet lane n w =
      if s.gatesEn lane n w = true then
        if s.lne.coxDead = true then ((s.regCtrlFields lane n w).modRegCh n fun c => { c with en := true }).holdLow n
        else (s.regCtrlFields lane n w).modLne fun l => { l with held := l.held ++ [.regEn n] }
      else s.regCtrlFields lane n w := by
  unfold State.regCtrlSet
  cases hg : s.gatesEn lane n w
  case false => rfl
  case true =>
    have hen : ((s.regCtrlFields lane n w).reg.ch.get n).en = false := by
      simp only [State.regCtrlFields, State.modRegCh_reg, vmod_self, hg, Bool.not_true, Bool.and_false]
    rw [State.cond_true, if_pos rfl, State.gatedRegEn, if_neg (by simp [hen])]
    rfl

/-- It leaves DIR and whether the channel runs. -/
theorem State.regCtrlSet_frame (lane : Bool) :
    ((s.regCtrlSet lane n w).reg.ch.get n).dir = (s.reg.ch.get n).dir ∧
      ((s.regCtrlSet lane n w).pwm.ch.get n).running = (s.pwm.ch.get n).running := by
  have hd : ((s.regCtrlFields lane n w).reg.ch.get n).dir = (s.reg.ch.get n).dir := by
    rw [State.regCtrlFields, State.modRegCh_reg, vmod_self]
  rw [State.regCtrlSet_eq]
  split
  · split
    · rw [State.holdLow_reg, State.holdLow_running, State.modRegCh_reg, vmod_self]
      exact ⟨hd, rfl⟩
    · exact ⟨hd, rfl⟩
  · exact ⟨hd, rfl⟩

theorem State.regCtrl_ignored {lane : Bool} (hd : w.getLsbD 1 ≠ (s.reg.ch.get n).dir) (hr : (s.pwm.ch.get n).running = true) :
    s.regCtrl lane n w = ((s.regCtrlSet lane n w).raise (.reg n) 4).holdLow n := by
  obtain ⟨hdir, hrun⟩ := State.regCtrlSet_frame (s := s) (n := n) (w := w) lane
  rw [State.regCtrl_eq]
  dsimp only
  rw [if_neg (by rwa [hdir]), if_pos (hrun.trans hr)]

theorem State.regCtrl_taken {lane : Bool} (h : w.getLsbD 1 = (s.reg.ch.get n).dir ∨ (s.pwm.ch.get n).running = false) :
    s.regCtrl lane n w = ((s.regCtrlSet lane n w).modRegCh n fun c => { c with dir := w.getLsbD 1 }).holdLow n := by
  obtain ⟨hdir, hrun⟩ := State.regCtrlSet_frame (s := s) (n := n) (w := w) lane
  rw [State.regCtrl_eq]
  dsimp only
  split
  case isTrue hd => rw [State.modRegCh_self _ (by rw [hd])]
  case isFalse hd =>
    have hstop : (s.pwm.ch.get n).running = false := h.resolve_left fun e => hd (e.trans hdir.symm)
    rw [if_neg (by simp [hrun, hstop])]

theorem exec_regCtrlWrite (hr : s.reaches m = true) (hc : s.pwr.controlReady = true) (ha : s.laneOrPf0 m = true) (hp : s.hasPhase n = true) :
    exec (.regCtrlWrite m n w) s = .next ((s.beat m).regCtrl (m == .lane) n w) :=
  State.live_phaseWrite hr hc ha _ hp

/-! ### Overcurrent (06 R154; 10 R247) -/

/-- The overcurrent of a phase is latched, its gates go low, the event is set. -/
def State.overcurrentLatched (n : Phase) (s : State) : State :=
  ((s.modSaf fun f => { f with overcurrent := f.overcurrent ||| bit 24 n.val }).dropGates).raiseAt .saf 11 n.val 0 0

theorem exec_overcurrent {a b : Int} (hs : s.supplied = true) (ha : a.natAbs = 2047) (hb : b.natAbs = 2047) (hp : s.hasPhase n = true)
    (hr : (s.pwm.ch.get n).running = true) (ho : s.saf.overcurrent.getLsbD n.val = false) (ht : (s.reg.ch.get n).retired = false) :
    exec (.overcurrent n a b) s = .next ((s.overcurrentLatched n).retire n 3) := by
  have hreg : (s.overcurrentLatched n).reg = s.reg := (OnlyEvents.raiseAt ..).reg
  show execOvercurrent n a b s = _
  rw [execOvercurrent, State.live_supplied _ hs, if_neg (by rw [ho]; simp [saturated, ha, hb, hp, hr])]
  dsimp only
  rw [← State.overcurrentLatched, hreg, ht, if_neg Bool.false_ne_true]

theorem exec_overcurrent_inRange {a b : Int} (hs : s.supplied = true) (h : a.natAbs ≠ 2047 ∨ b.natAbs ≠ 2047) :
    exec (.overcurrent n a b) s = .next s := by
  have hn : (saturated a && saturated b) = false := by
    rcases h with ha | hb
    · rw [saturated, decide_eq_false ha, Bool.false_and]
    · rw [saturated, saturated, decide_eq_false hb, Bool.and_false]
  show execOvercurrent n a b s = _
  rw [execOvercurrent, State.live_supplied _ hs, if_pos (by simp [hn])]

/-! ### The return of a phase (06 R167) -/

theorem phaseOf_toNat {x : Word} (h : x.toNat = n.val) : phaseOf x = some n := by
  rw [phaseOf, dif_pos (h ▸ n.isLt)]
  exact congrArg some (Fin.ext h)

theorem State.takeUp_nextTick {r : Ring} {d : Desc} : (s.takeUp r d).nextTick = s.nextTick := rfl

theorem exec_regPhaseRestore {r : Ring} {d : Desc} (hd : s.due r d = true) (hn : d.target.toNat = n.val) :
    exec (.regPhaseRestore r d) s =
      .next (((((s.takeUp r d).runToFleet (s.nextTick * Config.tickNs)).modRegCh n fun c =>
        { c with retired := false, detOpen := false, detSense := false, runMeans := [], tripMeans := [] }).modSaf fun f =>
          { f with overcurrent := f.overcurrent &&& ~~~ bit 24 n.val }).phaseBack n |>.complete r d.seq 0 0) := by
  show execRegPhaseRestore r d s = _
  rw [execRegPhaseRestore, State.work_due _ hd, phaseOf_toNat hn, ← State.takeUp_nextTick (r := r) (d := d), ← State.restorePhase]

/-! ### The timers of the start-up machine (06 R161, R163) -/

section
variable (hs : s.supplied = true)
include hs

/-- 10 ms after the onset of an error the error at that instant decides. -/
theorem exec_trackError {since : Nat} (hst : (s.reg.start.get o).st = .track) (hx : (s.reg.start.get o).ratiometric = true)
    (he : (s.reg.start.get o).errSince = some since) :
    exec (.trackError o) s = .next ((s.runTo (since + ms 10)).trackError o) := by
  show execTrackError o s = _
  rw [execTrackError, State.live_supplied _ hs]
  dsimp only
  rw [he]
  exact congrArg _ (if_pos (by simp [hst, hx]))

theorem exec_rampTimeout (hst : (s.reg.start.get o).st = .ramp) :
    exec (.rampTimeout o) s = .next ((s.runTo ((s.reg.start.get o).since + ms 2)).rampAbort o) := by
  show execRampTimeout o s = _
  rw [execRampTimeout, State.live_supplied _ hs, if_pos hst]

theorem exec_pauseTimeout (hst : (s.reg.start.get o).st = .pause) :
    exec (.pauseTimeout o) s = .next ((s.runTo ((s.reg.start.get o).since + ms 500)).pauseEnd o) := by
  show execPauseTimeout o s = _
  rw [execPauseTimeout, State.live_supplied _ hs, if_pos hst]

end

/-- The ratiometric error of an outlet at the instant in progress. -/
def State.ratioErr (s : State) (o : Outlet) : Bool :=
  ratioError (s.out.get o).vs (s.reg.start.get o).target s.cfg.active.hdr.checkRampMs (s.reg.start.get o).t0 s.clk.cycle

/-- An error held for 10 ms is a track error. -/
theorem State.trackError_held {since : Nat} (hst : (s.reg.start.get o).st = .track) (hx : (s.reg.start.get o).ratiometric = true)
    (he : (s.reg.start.get o).errSince = some since) (hc : since + ms 10 ≤ s.clk.cycle) (herr : s.ratioErr o = true) :
    s.trackError o = s.modStart o fun x => { x with trackError := true } := by
  refine State.modStart_congr _ _ _ ?_
  rw [show ratioError _ _ _ _ _ = true from herr]
  simp [StartM.errDue, hst, hx, he, hc]

/-- Where the error has gone its onset is forgotten. -/
theorem State.trackError_gone (herr : s.ratioErr o = false) : s.trackError o = s.modStart o fun x => { x with errSince := none } := by
  refine State.modStart_congr _ _ _ ?_
  rw [show ratioError _ _ _ _ _ = false from herr]
  simp [StartM.errDue]

theorem State.rampAbort_low (hst : (s.reg.start.get o).st = .ramp) (hc : (s.reg.start.get o).since + ms 2 ≤ s.clk.cycle)
    (hv : (s.out.get o).vs < 100) :
    s.rampAbort o = ((s.zeroCodes o).disableGroup o).modStart o fun x =>
      { x with st := if x.attempt < 4 then .pause else .fault, since := s.clk.cycle } := by
  rw [State.rampAbort, if_pos (by simp [hst, hc, hv])]

theorem State.pauseEnd_over (hst : (s.reg.start.get o).st = .pause) (hc : (s.reg.start.get o).since + ms 500 ≤ s.clk.cycle)
    (hm : 0 < s.mOf o) :
    s.pauseEnd o = (((s.group o).foldl (fun u n => u.modRegCh n fun c => { c with shadowSet := false })
      (s.modStart o fun x => { x with st := .ramp, attempt := (s.reg.start.get o).attempt + 1, since := s.clk.cycle, ref := 0 })).startClamps
        o).startGroup o := by
  rw [State.pauseEnd, if_pos (by simp [hst, hc, hm]), State.enterRamp]

/-- Settles O25: a write of CTRL by whether its DIR is taken, overcurrent by its two codes, the restoration at its tick, each timer at its
instant. -/
theorem phaseLossAndStartUpTimers : Obligations.PhaseLossAndStartUpTimers := by
  unfold Obligations.PhaseLossAndStartUpTimers
  intro s hs
  refine ⟨fun m n w hz hc ha hp => ?ctrl, fun n a b ha hb hp hr ho ht => exec_overcurrent hs ha hb hp hr ho ht,
    fun n a b h => exec_overcurrent_inRange hs h, fun r d n hd hn => exec_regPhaseRestore hd hn,
    fun o since hst hx he => ?track, fun o hst hv => ?ramp, fun o hst hm => ?pause⟩
  case ctrl =>
    intro same gated u v
    have hreg : (s.beat m).reg = s.reg := by simp only [State.beat_frame]
    have hpwm : (s.beat m).pwm = s.pwm := by simp only [State.beat_frame]
    have hlne : (s.beat m).lne = s.lne := by simp only [State.beat_frame]
    have hg : (s.beat m).gatesEn (m == .lane) n w = gated := by rw [State.gatesEn, hreg]
    have hv : (s.beat m).regCtrlSet (m == .lane) n w = v := by
      rw [State.regCtrlSet_eq, State.regCtrlFields, hg, hlne]
    rw [exec_regCtrlWrite (State.reaches_iff.mpr ⟨hs, hz⟩) hc ha hp, ← hv]
    refine ⟨fun hd hr => congrArg _ (State.regCtrl_ignored ?_ ?_), fun h => congrArg _ (State.regCtrl_taken ?_)⟩
    · rw [hreg]
      exact beq_eq_false_iff_ne.mp hd
    · rw [hpwm]
      exact hr
    · rw [hreg, hpwm]
      exact h.imp_left beq_iff_eq.mp
  case track =>
    intro t x err
    have hreg : t.reg = s.reg := by simp only [t, State.runTo_frame]
    have hc : since + ms 10 ≤ t.clk.cycle := State.le_runTo_cycle _
    have herr : t.ratioErr o = err := by simp only [State.ratioErr, err, x, t, State.runTo_frame]
    rw [exec_trackError hs hst hx he]
    rw [← hreg] at hst hx he
    exact ⟨fun h => congrArg _ (State.trackError_held hst hx he hc (herr.trans h)),
      fun h => congrArg _ (State.trackError_gone (herr.trans h))⟩
  case ramp =>
    intro t
    have hreg : t.reg = s.reg := by simp only [t, State.runTo_frame]
    have hout : t.out = s.out := by simp only [t, State.runTo_frame]
    have hc : (s.reg.start.get o).since + ms 2 ≤ t.clk.cycle := State.le_runTo_cycle _
    rw [exec_rampTimeout hs hst]
    rw [← hreg] at hst hc
    rw [← hout] at hv
    exact congrArg _ (State.rampAbort_low hst hc hv)
  case pause =>
    intro t
    have hreg : t.reg = s.reg := by simp only [t, State.runTo_frame]
    have hc : (s.reg.start.get o).since + ms 500 ≤ t.clk.cycle := State.le_runTo_cycle _
    have hmt : 0 < t.mOf o := by rwa [State.runTo_mOf]
    have hgroup : t.group o = s.group o := State.runTo_group _ o
    rw [exec_pauseTimeout hs hst]
    rw [← hreg] at hst hc
    have hend := State.pauseEnd_over hst hc hmt
    rw [hgroup, hreg] at hend
    exact congrArg _ hend

end Sys2Proof.Machine
end

section
/-! The session commands: enable, disable, stop, fault clear and session cap of an outlet (07 R181, R184, R195; 15 R377). -/
namespace Sys2Proof.Machine

variable {s : State} {r : Ring} {d : Desc} {o : Outlet}

theorem outletOf_of_toNat {t : Word} (h : t.toNat = o.val) : outletOf t = some o := by
  rw [outletOf, dif_pos (h ▸ o.isLt)]
  exact congrArg some (Fin.ext h)

/-- A session reference is taken where the outlet runs the session that it names. -/
theorem State.refSession_eq_false_iff {id : Word} :
    s.refSession o id = false ↔ (s.out.get o).st.stoppable = true ∧ (s.out.get o).session = id ∧ id ≠ 0 := by
  simp [State.refSession, and_assoc]

theorem State.refFaultClear_eq_false_iff :
    s.refFaultClear o = false ↔ (s.out.get o).st = .fault ∧ s.seoOut o = false ∧ s.bothOpen o = true := by
  simp [State.refFaultClear, and_assoc]

/-! ### The commands by their branches -/

theorem exec_outEnable (hd : s.due r d = true) (ho : d.target.toNat = o.val) :
    exec (.outEnable r d) s = .next (State.outDone r d.seq o (
      if (s.out.get o).st = .off ∧ (s.outCfg o).isSome = true ∧ s.bil.legalUp = true then (s.takeUp r d).go o .idle else s.takeUp r d)) := by
  show execOutEnable r d s = _
  rw [execOutEnable, State.work_due _ hd, outletOf_of_toNat ho]
  simp only [Bool.and_eq_true, decide_eq_true_eq, and_assoc]
  rfl

theorem exec_outDisable (hd : s.due r d = true) (ho : d.target.toNat = o.val) :
    exec (.outDisable r d) s = .next (
      if (s.out.get o).st = .off then (s.takeUp r d).complete r d.seq 0 (s.out.get o).result
      else (s.takeUp r d).modOut o fun x =>
        { x with disNow := x.disNow || d.b 24 == 1, disablePending := x.disablePending || d.b 24 == 0, disWait := x.disWait ++ [(r, d.seq)] }) := by
  show execOutDisable r d s = _
  rw [execOutDisable, State.work_due _ hd, outletOf_of_toNat ho]
  rfl

theorem exec_outStop (hd : s.due r d = true) (ho : d.target.toNat = o.val) :
    exec (.outStop r d) s = .next (
      if s.refSession o (d.w 24) then (s.takeUp r d).complete r d.seq 0 (s.out.get o).result
      else (s.takeUp r d).modOut o fun x => { x with stopNow := true, stopWait := x.stopWait ++ [(r, d.seq)] }) := by
  show execOutStop r d s = _
  rw [execOutStop, State.work_due _ hd, outletOf_of_toNat ho]
  rfl

theorem exec_outFaultClear (hd : s.due r d = true) (ho : d.target.toNat = o.val) :
    exec (.outFaultClear r d) s = .next (State.outDone r d.seq o (
      if s.refFaultClear o then s.takeUp r d else ((s.takeUp r d).clearUp o).go o (if s.plugged o then .plugged else .idle))) := by
  show execOutFaultClear r d s = _
  rw [execOutFaultClear, State.work_due _ hd, outletOf_of_toNat ho]
  rfl

theorem exec_outSessionCap (hd : s.due r d = true) (ho : d.target.toNat = o.val) :
    exec (.outSessionCap r d) s = .next (
      if s.refSession o (d.w 24) then (s.takeUp r d).complete r d.seq 0 (s.out.get o).result
      else ((s.takeUp r d).modOut o fun x => { x with hostCap := d.w 28 }).modAlc fun a =>
        { a with capWait := a.capWait ++ [⟨r, d.seq, s.round, some o, none, false⟩] }) := by
  show execOutSessionCap r d s = _
  rw [execOutSessionCap, State.work_due _ hd, outletOf_of_toNat ho]
  rfl

/-- Settles O26: each command is taken up once, then its guard on the outlet's state or session decides. -/
theorem sessionCommandsAct : Obligations.SessionCommandsAct := by
  unfold Obligations.SessionCommandsAct
  intro s r d o hd ho t x running
  have refused : ¬ running → s.refSession o (d.w 24) = true := fun h => eq_true_of_ne_false (mt State.refSession_eq_false_iff.mp h)
  have taken : running → ¬ s.refSession o (d.w 24) = true := fun h => ne_true_of_eq_false (State.refSession_eq_false_iff.mpr h)
  refine ⟨fun hoff hc hl => ?enable, fun hoff => ?disableOff, fun hon => ?disable, fun h => ?stop, fun h => ?stopGone,
    fun hf hseo hopen => ?faultClear, fun h => ?cap, fun h => ?capGone⟩
  case enable => rw [exec_outEnable hd ho, if_pos ⟨hoff, hc, hl⟩]
  case disableOff => rw [exec_outDisable hd ho, if_pos hoff]
  case disable => rw [exec_outDisable hd ho, if_neg hon]
  case stop => rw [exec_outStop hd ho, if_neg (taken h)]
  case stopGone => rw [exec_outStop hd ho, if_pos (refused h)]
  case faultClear =>
    rw [exec_outFaultClear hd ho, if_neg (ne_true_of_eq_false (State.refFaultClear_eq_false_iff.mpr ⟨hf, hseo, hopen⟩))]
  case cap => rw [exec_outSessionCap hd ho, if_neg (taken h)]
  case capGone => rw [exec_outSessionCap hd ho, if_pos (refused h)]

end Sys2Proof.Machine
end

section
/-! How contactors open and are proved open: stop ramp, feedbacks, deadlines and weld check (07 R184, R186; 10 R245, R246). -/
namespace Sys2Proof.Machine

variable {s : State} {o : Outlet}

/-! ### The end of the stop ramp (07 R184) -/

/-- At no more than 5 A STOPPING ends at once. -/
theorem exec_stopRampEnd_low (hs : s.supplied = true) (hst : (s.out.get o).st = .stopping) (hc : (s.out.get o).cur.natAbs ≤ 50) :
    exec (.stopRampEnd o) s = .next ((((s.stopUp o).laneOpen o).modOut o fun x =>
      { x with openUnderLoad := decide (50 < x.cur.natAbs), weldUnverified := false, weldSince := none, vvSeen := false, ilim := 0 }).go o .opening) := by
  show execStopRampEnd o s = _
  rw [execStopRampEnd, State.live_supplied _ hs, if_pos hst, if_pos hc, State.stopEnd]
  exact congrArg _ (if_pos (by simp [hst, hc]))

/-! ### Feedbacks (07 R184) -/

/-- The state with the levels of an outlet's force-guided feedbacks taken. -/
def State.feedbackTaken (o : Outlet) (plus minus : Bool) (s : State) : State :=
  s.modSaf fun f =>
    { f with fbp := if plus = true then f.fbp ||| bit 8 o.val else f.fbp &&& ~~~ bit 8 o.val,
             fbm := if minus = true then f.fbm ||| bit 8 o.val else f.fbm &&& ~~~ bit 8 o.val }

/-- A bit that is set or cleared reads back as it was written. -/
theorem getLsbD_setBit {w b : Nat} (h : b < w) (x : BitVec w) (v : Bool) :
    (if v = true then x ||| bit w b else x &&& ~~~ bit w b).getLsbD b = v := by
  cases v <;> simp [bit, h]

theorem State.feedbackTaken_bothClosed (plus minus : Bool) : (s.feedbackTaken o plus minus).bothClosed o = (plus && minus) := by
  simp only [State.bothClosed, State.feedbackTaken, State.modSaf_saf, getLsbD_setBit o.isLt]

theorem State.feedbackTaken_bothOpen (plus minus : Bool) : (s.feedbackTaken o plus minus).bothOpen o = (!plus && !minus) := by
  simp only [State.bothOpen, State.feedbackTaken, State.modSaf_saf, getLsbD_setBit o.isLt]

theorem State.feedbackAct_closed (hst : (s.out.get o).st = .closing) (h : s.bothClosed o = true) : s.feedbackAct o = s.toEnergy o := by
  rw [State.feedbackAct, hst]
  exact if_pos h

theorem State.feedbackAct_open (hst : (s.out.get o).st = .opening) (h : s.bothOpen o = true) : s.feedbackAct o = s.go o .weldCheck := by
  rw [State.feedbackAct, hst]
  exact if_pos h

theorem State.feedbackAct_other (hc : (s.out.get o).st ≠ .closing) (ho : (s.out.get o).st ≠ .opening) : s.feedbackAct o = s := by
  unfold State.feedbackAct
  split
  case h_1 h => exact absurd h hc
  case h_2 h => exact absurd h ho
  case h_3 => rfl

theorem exec_contactorFeedback (hs : s.supplied = true) (ho : s.hasOutlet o = true) (plus minus : Bool) :
    exec (.contactorFeedback o plus minus) s = .next ((s.feedbackTaken o plus minus).feedbackAct o) := by
  show execContactorFeedback o plus minus s = _
  rw [execContactorFeedback, State.live_supplied _ hs, if_neg (by simp [ho])]
  rfl

/-! ### Deadlines (07 R184; 10 R245, R246) -/

/-- The state at the contactor deadline of an outlet. -/
def State.atDeadline (o : Outlet) (c : OutletCfg) (s : State) : State := s.runTo ((s.out.get o).since + ms c.deadlineMs)

theorem State.atDeadline_out (c : OutletCfg) : (s.atDeadline o c).out = s.out := by simp only [State.atDeadline, State.runTo_frame]

/-- At the deadline the state that still waits for its feedbacks says which path follows. -/
theorem exec_contactorDeadline {c : OutletCfg} (hs : s.supplied = true) (hc : s.outCfg o = some c)
    (hst : (s.out.get o).st = .closing ∨ (s.out.get o).st = .opening) :
    exec (.contactorDeadline o) s = .next (
      if (s.out.get o).st = .closing then ((s.atDeadline o c).toFault o 9).closeFail o
      else ((s.atDeadline o c).toFault o 10).weldPath o) := by
  have hcfg : (s.atDeadline o c).outCfg o = some c := (State.runTo_outCfg _ o).trans hc
  have hdue : ¬ (s.atDeadline o c).clk.cycle < (s.out.get o).since + ms c.deadlineMs := Nat.not_lt.mpr (State.le_runTo_cycle _)
  show execContactorDeadline o s = _
  rw [execContactorDeadline, State.live_supplied _ hs, hc]
  dsimp only
  rw [if_pos (by simpa using hst)]
  show Host.Outcome.next ((s.atDeadline o c).deadlineAct o) = _
  rw [State.deadlineAct, hcfg]
  dsimp only
  rw [State.atDeadline_out, if_neg hdue]
  rcases hst with h | h
  · rw [h, if_pos rfl]
  · rw [h, if_neg (by decide)]

/-! ### The weld check (07 R184, R186) -/

theorem State.weldAct_pass (hst : (s.out.get o).st = .weldCheck) (hp : s.weldPass o = true) :
    let t := s.modOut o fun x => { x with weldUnverified := decide (x.vv < 600) }
    s.weldAct o = if (s.out.get o).reason = 8 then t.toFault o 8 else t.finish o .released (s.out.get o).reason.toNat := by
  rw [State.weldAct]
  dsimp only
  rw [if_neg (by simp [hst]), if_pos hp]

/-- Without any outcome until its bound the weld check counts as a weld. -/
theorem State.weldAct_timeout (hst : (s.out.get o).st = .weldCheck) (hp : s.weldPass o = false) (hw : (s.out.get o).weldSince = none)
    (hc : (s.out.get o).since + ms 2000 ≤ s.clk.cycle) : s.weldAct o = (s.toFault o 14).weldPath o := by
  rw [State.weldAct]
  dsimp only
  rw [if_neg (by simp [hst]), if_neg (by simp [hp]), if_neg (by simp [hw]), if_pos hc]

theorem State.weldPass_high (hv : 600 ≤ (s.out.get o).vs) : s.weldPass o = false := by
  simp [State.weldPass, Int.not_lt.mpr hv]

/-- What a tick notes of the voltages leaves the state of the machine, its reason and the voltages. -/
theorem State.weldNote_out (hst : (s.out.get o).st = .weldCheck) :
    ((s.weldNote o).out.get o).st = .weldCheck ∧ ((s.weldNote o).out.get o).reason = (s.out.get o).reason ∧
      ((s.weldNote o).out.get o).vs = (s.out.get o).vs ∧ ((s.weldNote o).out.get o).vv = (s.out.get o).vv ∧
      ((s.weldNote o).out.get o).vvSeen = ((s.out.get o).vvSeen || decide (600 ≤ (s.out.get o).vv)) := by
  rw [State.weldNote, if_neg (by simp [hst])]
  simp [hst]

theorem State.weldNote_pwr : (s.weldNote o).pwr = s.pwr := by
  unfold State.weldNote
  split <;> simp

/-- The note of a tick does not take a pass away: a voltage that it notes as seen is the one that lets the check pass. -/
theorem State.weldNote_weldPass (hst : (s.out.get o).st = .weldCheck) : (s.weldNote o).weldPass o = s.weldPass o := by
  obtain ⟨-, -, hvs, hvv, hseen⟩ := State.weldNote_out hst
  rw [State.weldPass, State.weldPass, hvs, hvv, hseen]
  cases decide (600 ≤ (s.out.get o).vv) <;> simp

theorem exec_weldCheck_pass (hs : s.supplied = true) (hr : s.pwr.controlReady = true) (hst : (s.out.get o).st = .weldCheck)
    (hp : s.weldPass o = true) :
    let t := (s.weldNote o).modOut o fun x => { x with weldUnverified := decide (x.vv < 600) }
    exec (.weldCheck o) s = .next (if (s.out.get o).reason = 8 then t.toFault o 8 else t.finish o .released (s.out.get o).reason.toNat) := by
  obtain ⟨hst', hreason, -⟩ := State.weldNote_out hst
  have hp' : (s.weldNote o).weldPass o = true := (State.weldNote_weldPass hst).trans hp
  show execWeldCheck o s = _
  rw [execWeldCheck, State.live_supplied _ hs]
  dsimp only
  rw [if_neg (by simp [State.weldNote_pwr, hr]), if_pos hp', State.weldAct_pass hst' hp', hreason]

theorem exec_weldCheckTimeout (hs : s.supplied = true) (hr : s.pwr.controlReady = true) (hst : (s.out.get o).st = .weldCheck)
    (hv : 600 ≤ (s.out.get o).vs) (hw : (s.out.get o).weldSince = none) :
    exec (.weldCheckTimeout o) s = .next (((s.runTo ((s.out.get o).since + ms 2000)).toFault o 14).weldPath o) := by
  have hout : (s.runTo ((s.out.get o).since + ms 2000)).out = s.out := by simp only [State.runTo_frame]
  show execWeldCheckTimeout o s = _
  rw [execWeldCheckTimeout, State.live_supplied _ hs, if_pos (by simp [hr, hst]),
    State.weldAct_timeout (by rw [hout, hst]) (State.weldPass_high (by rw [hout]; exact hv)) (by rw [hout, hw])
      (by rw [hout]; exact State.le_runTo_cycle _)]

/-- Settles O27: the ramp by its current, feedbacks by the state that waits for them, the deadline at its instant, the weld check by its
voltages. -/
theorem contactorsOpenAndAreProved : Obligations.ContactorsOpenAndAreProved := by
  unfold Obligations.ContactorsOpenAndAreProved
  intro s o hs x
  refine ⟨exec_stopRampEnd_low hs, fun plus minus ho => ?feedback, fun c hc => ⟨fun hst => ?closing, fun hst => ?opening⟩,
    fun hst hr hlow hv => ?weldCheck, fun hst hr hv hw => exec_weldCheckTimeout hs hr hst hv hw⟩
  case feedback =>
    rw [exec_contactorFeedback hs ho]
    refine ⟨fun hst hp hm => ?_, fun hst hp hm => ?_, fun hc ho => ?_⟩
    · exact congrArg _ (State.feedbackAct_closed hst (by rw [State.feedbackTaken_bothClosed, hp, hm]; rfl))
    · exact congrArg _ (State.feedbackAct_open hst (by rw [State.feedbackTaken_bothOpen, hp, hm]; rfl))
    · exact congrArg _ (State.feedbackAct_other hc ho)
  case closing => exact (exec_contactorDeadline hs hc (.inl hst)).trans (congrArg _ (if_pos hst))
  case opening => exact (exec_contactorDeadline hs hc (.inr hst)).trans (congrArg _ (if_neg (by rw [hst]; decide)))
  case weldCheck =>
    have hp : s.weldPass o = true := by simpa [State.weldPass] using ⟨hlow, hv⟩
    have h := exec_weldCheck_pass hs hr hst hp
    exact ⟨fun h8 => h.trans (congrArg _ (if_pos h8)), fun h8 => h.trans (congrArg _ (if_neg h8))⟩

end Sys2Proof.Machine
end

section
/-! The insulation alarm, the current reversal, the steps of a phase move and the matrix feedbacks (07 R175, R185, R190, R191, R193). -/
namespace Sys2Proof.Machine

variable {s : State} {o : Outlet} {n : Phase} {v : MoveSt}

/-! ### Insulation alarm and reversal (07 R185, R193) -/

theorem exec_imdAlarm (hs : s.supplied = true) (ho : s.hasOutlet o = true) :
    let t := s.modOut o fun x => { x with imdLevel := false }
    exec (.imdAlarm o) s = .next (if s.pwr.controlReady = true ∧ (s.out.get o).st = .energy then t.toStopping o 5 else t) := by
  show execImdAlarm o s = _
  rw [execImdAlarm, State.live_supplied _ hs, if_neg (by simp [ho])]
  simp

theorem exec_reversalCurrentZero (hs : s.supplied = true) (hst : (s.out.get o).st = .energy) (hr : (s.out.get o).rev = true)
    (hc : (s.out.get o).cur.natAbs ≤ 50) :
    exec (.reversalCurrentZero o) s = .next (((s.redirect o (!(s.out.get o).exporting)).modOut o fun x =>
      { x with exporting := !x.exporting, rev := false, revAt := some s.clk.cycle, oppositeRun := 0 }).raise (.out o) 8) := by
  show execReversalCurrentZero o s = _
  rw [execReversalCurrentZero, State.live_supplied _ hs]
  exact congrArg _ (if_pos (by simp [hst, hr, hc]))

/-! ### The current condition and the bounds of a move (07 R175, R190, R192) -/

/-- Where a contactor is found depends on the configuration alone. -/
theorem State.mtxFind_congr {t : State} (h : t.cfg = s.cfg) (n : Phase) (o : Outlet) : t.mtxFind n o = s.mtxFind n o := by
  rw [State.mtxFind, State.mtxFind, h]

/-- So does the bound of a step. -/
theorem State.moveBound_congr {t : State} (h : t.cfg = s.cfg) (n : Phase) (v : MoveSt) : t.moveBound n v = s.moveBound n v := by
  have hf : t.mtxFind n = s.mtxFind n := funext (State.mtxFind_congr h n)
  rw [State.moveBound, State.moveBound, hf]

theorem State.setMove_cfg (m : Option MoveSt) : (s.setMove n m).cfg = s.cfg := rfl

theorem exec_moveCurrentZero {a : Outlet} {k : Nat} {e : MtxEntry} (hs : s.supplied = true) (hm : s.mtx.move.get n = some v)
    (ha : v.src = some a) (h2 : v.step = 2) (hz : s.currentZero n = true) (hk : s.mtxFind n a = some (k, e)) :
    exec (.moveCurrentZero n) s = .next ((s.setMove n (some { v with step := 3, since := s.clk.cycle })).mtxOpen k n) := by
  show execMoveCurrentZero n s = _
  rw [execMoveCurrentZero, State.live_supplied _ hs, State.moveOpen, hm]
  simp only [h2, ha, hz, if_true, State.mtxFind_congr (State.setMove_cfg _), hk]

/-- What a missed bound does by the step of the move and its source. -/
def State.moveMissed (n : Phase) (v : MoveSt) (s : State) : State :=
  match v.step, v.src with
  | 2, some a => s.moveAbandon n a v.dst
  | 3, some a => s.matrixWeld n a
  | _, _ => s.moveFail n v.dst

theorem State.moveMiss_over (hm : s.mtx.move.get n = some v) (h5 : v.step ≠ 5) (hc : v.since + s.moveBound n v ≤ s.clk.cycle) :
    s.moveMiss n = s.moveMissed n v := by
  rw [State.moveMiss, hm]
  dsimp only
  rw [if_neg (by simp [hc, h5])]
  rfl

theorem exec_moveTimeout (hs : s.supplied = true) (hm : s.mtx.move.get n = some v) (h5 : v.step ≠ 5) :
    exec (.moveTimeout n) s = .next ((s.runTo (v.since + s.moveBound n v)).moveMissed n v) := by
  have hmtx : (s.runTo (v.since + s.moveBound n v)).mtx = s.mtx := by simp only [State.runTo_frame]
  have hb : (s.runTo (v.since + s.moveBound n v)).moveBound n v = s.moveBound n v := State.moveBound_congr (by simp only [State.runTo_frame]) n v
  show execMoveTimeout n s = _
  rw [execMoveTimeout, State.live_supplied _ hs, hm]
  dsimp only
  rw [if_neg h5, State.moveMiss_over (by rw [hmtx, hm]) h5 (by rw [hb]; exact State.le_runTo_cycle _)]

theorem State.moveMissed_abandons {a : Outlet} (ha : v.src = some a) (h2 : v.step = 2) : s.moveMissed n v = s.moveAbandon n a v.dst := by
  simp only [State.moveMissed, h2, ha]

theorem State.moveMissed_welds {a : Outlet} (ha : v.src = some a) (h3 : v.step = 3) : s.moveMissed n v = s.matrixWeld n a := by
  simp only [State.moveMissed, h3, ha]

theorem State.moveMissed_fails (h4 : v.step = 4) : s.moveMissed n v = s.moveFail n v.dst := by
  simp only [State.moveMissed, h4]

/-! ### Matrix feedbacks (07 R175, R190) -/

/-- The state with the level of a matrix feedback taken. -/
def State.mtxFbTaken (k : HkChan) (closed : Bool) (s : State) : State :=
  s.modMtx fun m => { m with fb := if closed = true then m.fb ||| bit 64 k.val else m.fb &&& ~~~ bit 64 k.val }

section
variable {k : HkChan} {e : MtxEntry} (hs : s.supplied = true) (he : s.cfg.active.matrix[k.val]? = some e)
include hs he

/-- The feedback of a phase in a move acts by the step that waits for it; a close that no step waits for is a matrix weld
where its drive is low. -/
theorem exec_matrixFeedback_moving (hm : s.mtx.move.get e.phase = some v) (closed : Bool) :
    let t := s.mtxFbTaken k closed
    exec (.matrixFeedback k closed) s = .next (
      if v.step = 3 ∧ v.src = some e.outlet then if closed then t else t.moveClose e.phase v.src v.dst v.homing
      else if v.step = 4 ∧ v.dst = e.outlet ∧ s.mtx.drv.getLsbD k.val = true then if closed then t.moveJoin e.phase v else t
      else if closed = true ∧ s.mtx.drv.getLsbD k.val = false then t.matrixWeld e.phase e.outlet
      else t) := by
  show execMatrixFeedback k closed s = _
  rw [execMatrixFeedback, State.live_supplied _ hs]
  simp only [State.mtxFbTaken, State.modMtx_mtx, State.modMtx_frame, he, hm, Bool.and_eq_true, decide_eq_true_eq, beq_iff_eq,
    Bool.not_eq_true', and_assoc]

/-- Outside a move a feedback that shows closed under a low drive is a matrix weld, unless its entry is disabled already. -/
theorem exec_matrixFeedback_settled (hm : s.mtx.move.get e.phase = none) (closed : Bool) :
    let t := s.mtxFbTaken k closed
    exec (.matrixFeedback k closed) s = .next (
      if closed = true ∧ s.mtx.drv.getLsbD k.val = false ∧ s.mtx.disabled.getLsbD k.val = false then t.matrixWeld e.phase e.outlet
      else t) := by
  show execMatrixFeedback k closed s = _
  rw [execMatrixFeedback, State.live_supplied _ hs]
  simp only [State.mtxFbTaken, State.modMtx_mtx, State.modMtx_frame, he, hm, Bool.and_eq_true, Bool.not_eq_true', and_assoc]

end

/-- Settles O29: the alarm and the reversal by the session's state, a move by its step at its bound, a feedback by the move that waits for it. -/
theorem reversalsAlarmsAndMovesStep : Obligations.ReversalsAlarmsAndMovesStep := by
  unfold Obligations.ReversalsAlarmsAndMovesStep
  intro s hs
  refine ⟨fun o ho => ⟨fun hr hst => ?alarm, fun hst => ?alarmOnly⟩, fun o hst hr hc => exec_reversalCurrentZero hs hst hr hc,
    fun n v a hm ha h2 hz k e hk => exec_moveCurrentZero hs hm ha h2 hz hk, fun n v hm => ?timeout, fun k e he => ?feedback⟩
  case alarm => exact (exec_imdAlarm hs ho).trans (congrArg _ (if_pos ⟨hr, hst⟩))
  case alarmOnly => exact (exec_imdAlarm hs ho).trans (congrArg _ (if_neg fun h => hst h.2))
  case timeout =>
    refine ⟨fun a ha h2 => ?_, fun a ha h3 => ?_, fun h4 => ?_⟩
    · rw [exec_moveTimeout hs hm (by omega), State.moveMissed_abandons ha h2]
    · rw [exec_moveTimeout hs hm (by omega), State.moveMissed_welds ha h3]
    · rw [exec_moveTimeout hs hm (by omega), State.moveMissed_fails h4]
  case feedback =>
    refine ⟨fun v hm h3 hsrc => ?opened, fun v hm h4 hdst hdrv => ?joined, fun hm hdrv hdis => ?welded, fun hm => ?levelOnly⟩
    case opened => exact (exec_matrixFeedback_moving hs he hm false).trans (congrArg _ (if_pos ⟨h3, hsrc⟩))
    case joined =>
      exact (exec_matrixFeedback_moving hs he hm true).trans
        (congrArg _ ((if_neg (by simp [h4])).trans (if_pos ⟨h4, hdst, hdrv⟩)))
    case welded => exact (exec_matrixFeedback_settled hs he hm true).trans (congrArg _ (if_pos ⟨rfl, hdrv, hdis⟩))
    case levelOnly => exact (exec_matrixFeedback_settled hs he hm false).trans (congrArg _ (if_neg (by simp)))

end Sys2Proof.Machine
end

section
/-! How a vehicle link comes up: pilot measurements, SLAC, TLS, protocol selection, the permission contact (07 R179; 08 R199, R203, R204, R207,
R211, R213). -/
namespace Sys2Proof.Machine

variable {s : State} {o : Outlet}

/-! ### Pilot measurements (07 R179; 08 R199, R204, R217) -/

theorem exec_pilotChange_unwired {i : Fin 8} (hs : s.supplied = true) (hw : s.pilotOutlet i = none) (samples : List PilotSample) :
    exec (.pilotChange i samples) s = .next s := by
  show execPilotChange i samples s = _
  rw [execPilotChange, State.live_supplied _ hs, hw]

theorem exec_pilotChange_wired {i : Fin 8} {c : OutletCfg} (hs : s.supplied = true) (hw : s.pilotOutlet i = some (o, c))
    (samples : List PilotSample) :
    exec (.pilotChange i samples) s = .next (samples.foldl (fun t x => t.pilotSample o x) s) := by
  show execPilotChange i samples s = _
  rw [execPilotChange, State.live_supplied _ hs, hw]

/-- The run of equal classifications that class `k` makes. -/
def OutSt.runWith (k : BitVec 3) (x : OutSt) : Nat := if x.pilotSeen = k then min 3 (x.pilotRun + 1) else 1

/-- The state with a classification noted. -/
def State.classNoted (o : Outlet) (k : BitVec 3) (s : State) : State :=
  s.modOut o fun x => { x with pilotSeen := k, pilotRun := (s.out.get o).runWith k }

/-- A classification alone moves no plug. -/
theorem State.classNoted_plugged (k : BitVec 3) : (s.classNoted o k).plugged o = s.plugged o := by
  have hc : (s.classNoted o k).outCfg o = s.outCfg o := rfl
  rw [State.plugged, State.plugged, hc]
  simp only [State.classNoted, State.modOut_out, vmod_self]

/-- The class becomes the pilot state at the third equal result in succession. -/
theorem State.classify_class {c : OutletCfg} {x : PilotSample} {k : BitVec 3} (hc : s.outCfg o = some c)
    (hk : pilotClass c.kind (s.out.get o).drivingPwm x = some k) :
    s.classify o x = if (s.out.get o).runWith k = 3 then (s.classNoted o k).pilotTo o k else s.classNoted o k := by
  rw [State.classify, hc]
  dsimp only
  rw [hk]
  rfl

section
variable {x : PilotSample} {t : State} (ht : s.classify o x = t)
include ht

/-- A classification that brings no plug and no unplug to a link in service leaves the link. -/
theorem State.pilotSample_steady (h : t.vclUp o = true → s.plugged o = t.plugged o) : s.pilotSample o x = t := by
  rw [State.pilotSample, ht]
  cases hu : t.vclUp o with
  | false => rfl
  | true => simp [h hu]

theorem State.pilotSample_plugs (hu : t.vclUp o = true) (h0 : s.plugged o = false) (h1 : t.plugged o = true) :
    s.pilotSample o x = t.linkPlugged o := by
  simp [State.pilotSample, ht, hu, h0, h1]

theorem State.pilotSample_unplugs (hu : t.vclUp o = true) (h1 : s.plugged o = true) (h0 : t.plugged o = false) :
    s.pilotSample o x = t.modVclCh o VclSt.unplugged := by
  simp [State.pilotSample, ht, hu, h0, h1]

end

/-! ### SLAC, TLS, selection, permission (08 R203, R204, R207, R211, R213) -/

section
variable (hs : s.supplied = true) (hu : s.vclUp o = true)
include hs hu

theorem exec_slacMatch (hl : (s.vcl.ch.get o).link = 1) (mean : Byte) :
    exec (.slacMatch o mean) s = .next (
      if mean.toNat ≤ (s.vcl.ch.get o).slacThreshold.toNat then
        (((s.modVclCh o fun v => { v with slacMean := mean, link := 2 }).vclSay (.slacKey o (Config.freeNat s.free))).useFree).raise (.vcl o) 0
      else (s.modVclCh o fun v => { v with slacMean := mean }).slacRetry o) := by
  show execSlacMatch o mean s = _
  rw [execSlacMatch, State.live_supplied _ hs, if_neg (by simp [hu, hl])]
  simp only [State.modVclCh_vcl, vmod_self, State.modVclCh_modVclCh]

theorem exec_slacFail (hl : (s.vcl.ch.get o).link = 1) : exec (.slacFail o) s = .next (s.slacRetry o) := by
  show execSlacFail o s = _
  rw [execSlacFail, State.live_supplied _ hs, if_neg (by simp [hu, hl])]

theorem exec_tlsFail : exec (.tlsFail o) s = .next (s.tlsFailed o) := by
  show execTlsFail o s = _
  rw [execTlsFail, State.live_supplied _ hs, if_pos hu]

/-- The first selection of a plug-in, on kind 0 after a match. -/
theorem exec_protoSelected {c : OutletCfg} (hc : s.outCfg o = some c) (hp : s.plugged o = true)
    (hm : (s.vcl.ch.get o).carrierMissing = false) (h0 : (s.vcl.ch.get o).proto = 0)
    (hl : c.kind ≠ 0 ∨ (s.vcl.ch.get o).link = 2 ∨ (s.vcl.ch.get o).link = 3) (offered : Byte) :
    exec (.protoSelected o offered) s = .next (
      if (s.vcl.ch.get o).choose c.kind offered = 0 then (s.slacFailed o).vclSay (.failure o)
      else s.selectProto o ((s.vcl.ch.get o).choose c.kind offered)) := by
  have hready : ¬ (c.kind = 0 && !((s.vcl.ch.get o).link == 2 || (s.vcl.ch.get o).link == 3)) = true := by
    intro h
    simp only [Bool.and_eq_true, decide_eq_true_eq, Bool.not_eq_true', Bool.or_eq_false_iff, beq_eq_false_iff_ne] at h
    obtain ⟨hk, h2, h3⟩ := h
    exact hl.elim (· hk) fun hlink => hlink.elim h2 h3
  show execProtoSelected o offered s = _
  rw [execProtoSelected, State.live_supplied _ hs, hc]
  dsimp only
  rw [if_neg (by simp [hu, hp, hm, h0]), if_neg hready]

/-- On CHAdeMO the contact is part of the record, and its opening is a stop by the vehicle. -/
theorem exec_permitChange_chademo {c : OutletCfg} (hc : s.outCfg o = some c) (hk : c.kind = 2) (h5 : (s.vcl.ch.get o).proto = 5) (closed : Bool) :
    exec (.permitChange o closed) s = .next (((s.modVclCh o fun v => { v with permit := closed }).cond
      ((s.vcl.ch.get o).permit && !closed) (·.vclStop o true)).vclUpdate o) := by
  have hg : (s.vcl.ch.get o).isGbt = false := by rw [VclSt.isGbt, h5]; rfl
  have hch : (s.vcl.ch.get o).isChademo = true := by rw [VclSt.isChademo, h5]; rfl
  show execPermitChange o closed s = _
  rw [execPermitChange, State.live_supplied _ hs, hc]
  dsimp only
  rw [if_neg (by simp [hk, hu, hg]), if_neg (by simp [hch])]

end

/-- Settles O30: a measurement by what its classification changes, a link message by its guard on the link's state. -/
theorem vehicleLinksComeUp : Obligations.VehicleLinksComeUp := by
  unfold Obligations.VehicleLinksComeUp
  intro s o hs v
  refine ⟨fun i samples => ⟨fun hw => exec_pilotChange_unwired hs hw samples, fun c hw => exec_pilotChange_wired hs hw samples⟩,
    fun i c x k hw hc hk => ?pilot, fun hu => ⟨fun mean hl => ?slacMatch, exec_slacFail hs hu, exec_tlsFail hs hu,
      fun c offered hc hp hm h0 hl => ?select, fun c closed hc hk h5 => ?permit⟩⟩
  case pilot =>
    intro run u t
    have hx : exec (.pilotChange i [x]) s = .next (s.pilotSample o x) := exec_pilotChange_wired hs hw [x]
    have third (h3 : run = 3) : s.classify o x = t := (State.classify_class hc hk).trans (if_pos h3)
    refine ⟨fun hn => ?_, fun h3 hd => ?_, fun h3 hu h0 h1 => ?_, fun h3 hu h1 h0 => ?_, fun h3 hu he => ?_⟩
    · have noted : s.classify o x = u := (State.classify_class hc hk).trans (if_neg hn)
      rw [hx, State.pilotSample_steady noted fun _ => (State.classNoted_plugged k).symm]
    · rw [hx, State.pilotSample_steady (third h3) fun hu => absurd hu (by simp [hd])]
    · rw [hx, State.pilotSample_plugs (third h3) hu h0 h1]
    · rw [hx, State.pilotSample_unplugs (third h3) hu h1 h0]
    · rw [hx, State.pilotSample_steady (third h3) fun _ => he]
  case slacMatch =>
    exact ⟨fun hm => (exec_slacMatch hs hu hl mean).trans (congrArg _ (if_pos hm)),
      fun hm => (exec_slacMatch hs hu hl mean).trans (congrArg _ (if_neg (Nat.not_le.mpr hm)))⟩
  case select =>
    exact ⟨fun hn => (exec_protoSelected hs hu hc hp hm h0 hl offered).trans (congrArg _ (if_neg hn)),
      fun hz => (exec_protoSelected hs hu hc hp hm h0 hl offered).trans (congrArg _ (if_pos hz))⟩
  case permit =>
    refine ⟨fun hp hopen => ?_, fun hstays => ?_⟩
    · have opens : (v.permit && !closed) = true := by simp [hp, hopen]
      rw [exec_permitChange_chademo hs hu hc hk h5, opens, State.cond_true, hopen]
    · have stays : (v.permit && !closed) = false :=
        hstays.elim (fun hp => by rw [hp, Bool.false_and]) (fun hclosed => by rw [hclosed, Bool.not_true, Bool.and_false])
      rw [exec_permitChange_chademo hs hu hc hk h5, stays, State.cond_false]

end Sys2Proof.Machine
end

section
/-! What a vehicle's messages, the refresh of its record and the time limits of its link do (08 R205-R210, R215). -/
namespace Sys2Proof.Machine

variable {s : State} {o : Outlet}

/-! ### Messages (08 R205-R209) -/

theorem exec_vehicleMessage (hs : s.supplied = true) (hu : s.vclUp o = true) (hp : s.plugged o = true)
    (hm : (s.vcl.ch.get o).carrierMissing = false) (m : VehMsg) : exec (.vehicleMessage o m) s = .next (s.vehicleSays o m) := by
  show execVehicleMessage o m s = _
  rw [execVehicleMessage, State.live_supplied _ hs, if_neg (by simp [hu, hp, hm])]

/-- A set-up message with a protocol in force that asks for no TLS begins a session. -/
theorem State.vehicleSays_setup (h0 : (s.vcl.ch.get o).proto ≠ 0) (h2 : (s.vcl.ch.get o).proto ≠ 2) :
    s.vehicleSays o .setup = (s.vclSetup o).vclReply o := by
  rw [State.vehicleSays, if_neg h0, decide_eq_false h2, Bool.false_and, Bool.false_and, if_neg Bool.false_ne_true]

/-! ### Records (08 R208; 01 R25) -/

/-- The record that a write at the link's present values brings. -/
def VclSt.nextRecord (v : VclSt) : Demand := { v.recordOf with seq := v.record.seq + 1 }

/-- The slot holds the record, fresh for the next tick latch. -/
theorem State.vclWrite_slot : ((s.vclWrite o).jn.get o).slot = (s.vcl.ch.get o).nextRecord ∧ ((s.vclWrite o).jn.get o).fresh = true ∧
    ((s.vclWrite o).jn.get o).arrived = (s.vclWrite o).clk.cycle := by
  simp [State.vclWrite, State.demandBeat, VclSt.nextRecord]

theorem State.vclWrite_record : ((s.vclWrite o).vcl.ch.get o).record = (s.vcl.ch.get o).nextRecord := by
  simp [State.vclWrite, State.demandBeat, VclSt.nextRecord]

theorem State.vclWrite_otherSlots {k : Outlet} (hk : k ≠ o) : (s.vclWrite o).jn.get k = s.jn.get k := by
  simp [State.vclWrite, State.demandBeat, vmod_other _ _ _ _ hk.symm]

theorem State.vclWrite_clk : (s.vclWrite o).clk = s.clk := rfl

theorem exec_recordRefresh (hs : s.supplied = true) (hu : s.vclUp o = true) (hr : (s.out.get o).st.refreshed = true) :
    exec (.recordRefresh o) s = .next ((s.runTo ((s.vcl.ch.get o).lastWrite + ms 100)).vclWrite o) := by
  show execRecordRefresh o s = _
  rw [execRecordRefresh, State.live_supplied _ hs, if_pos (by simp [hu, hr])]

/-! ### Time limits (08 R210, R215) -/

theorem exec_loopTimeout (hs : s.supplied = true) (hu : s.vclUp o = true) (he : (s.out.get o).st = .energy)
    (hn : (s.vcl.ch.get o).session ≠ 0) (hq : (s.vcl.ch.get o).stopReq = false) :
    exec (.loopTimeout o) s = .next (((((s.runTo (max (s.vcl.ch.get o).lastDemand (s.out.get o).since + sec 1)).modVclCh o fun v =>
      { v with cntTimeout := satInc v.cntTimeout }).raise (.vcl o) 5).vclStop o false).vclUpdate o) := by
  show execLoopTimeout o s = _
  rw [execLoopTimeout, State.live_supplied _ hs]
  exact congrArg _ (if_pos (by simpa [hu, he, hq] using hn))

theorem exec_authTimeout {since : Nat} (hs : s.supplied = true) (hu : s.vclUp o = true) (ha : (s.vcl.ch.get o).authSince = some since) :
    exec (.authTimeout o) s = .next ((s.runTo (since + sec s.vcl.hostWait.toNat)).authFail o) := by
  show execAuthTimeout o s = _
  rw [execAuthTimeout, State.live_supplied _ hs, ha]
  exact congrArg _ (if_pos hu)

theorem exec_chargerFrameSend (hs : s.supplied = true) (hu : s.vclUp o = true) (hc : (s.vcl.ch.get o).isCan = true) :
    let t := s.runTo ((s.vcl.ch.get o).lastFrame + ms (if (s.vcl.ch.get o).isChademo then 100 else 50))
    exec (.chargerFrameSend o) s = .next ((t.modVclCh o fun v => { v with lastFrame := t.clk.cycle }).vclSay (.chargerFrame o (t.vclAnswer o))) := by
  show execChargerFrameSend o s = _
  rw [execChargerFrameSend, State.live_supplied _ hs]
  exact congrArg _ (if_pos (by simp [hu, hc]))

/-! ### Session IDs (08 R206, R218) -/

/-- A read by a function of the host or by the management core, whose views show the block, takes the value. -/
theorem exec_vclSessionNextRead {m : Master} (hs : s.supplied = true) (hz : s.frozen m = false) (hd : s.pwr.dataReady = true)
    (hm : m = .pf 1 ∨ m = .pf 0 ∨ m = .mgmt) : exec (.vclSessionNextRead m) s = .next (s.beat m).takeSessionId.2 := by
  show execVclSessionNextRead m s = _
  unfold execVclSessionNextRead
  rw [State.live_supplied _ hs, State.transact_free _ hz]
  obtain rfl | rfl | rfl := hm <;> exact congrArg _ (if_pos (by simp [hd]))

/-- Settles O31: a message acts by its kind once the link's guard lets it through, a timer at its instant, a read at its beat. -/
theorem vehicleMessagesMakeRecordsAndAnswers : Obligations.VehicleMessagesMakeRecordsAndAnswers := by
  unfold Obligations.VehicleMessagesMakeRecordsAndAnswers
  intro s o hs v
  refine ⟨fun hu hp hm => ?messages, fun hu hr => ?refresh, exec_loopTimeout hs, fun since hu ha => exec_authTimeout hs hu ha,
    exec_chargerFrameSend hs, fun m hz hd hm => exec_vclSessionNextRead hs hz hd hm⟩
  case messages =>
    have acts := exec_vehicleMessage hs hu hp hm
    exact ⟨acts, fun e => acts (.demand e), fun h0 h2 => (acts .setup).trans (congrArg _ (State.vehicleSays_setup h0 h2)), acts .stop, acts .exiError⟩
  case refresh =>
    have hv : (s.runTo (v.lastWrite + ms 100)).vcl = s.vcl := by simp only [State.runTo_frame]
    have hj : (s.runTo (v.lastWrite + ms 100)).jn = s.jn := by simp only [State.runTo_frame]
    obtain ⟨hslot, hfresh, harrived⟩ := State.vclWrite_slot (s := s.runTo (v.lastWrite + ms 100)) (o := o)
    rw [hv] at hslot
    refine ⟨_, exec_recordRefresh hs hu hr, hslot, hfresh, ?record, harrived, ?instant, fun k hk => ?others⟩
    case record => exact State.vclWrite_record.trans (by rw [hv]; rfl)
    case instant => rw [State.vclWrite_clk, State.runTo_cycle]
    case others => rw [State.vclWrite_otherSlots hk, hj]

end Sys2Proof.Machine
end

section
/-! The host's descriptors on the vehicle session that they name (08 R210, R213, R214). -/
namespace Sys2Proof.Machine

variable {s : State} {r : Ring} {d : Desc} {o : Outlet}

/-! ### The session that a descriptor names -/

theorem State.refVclSession_eq_false_iff (ho : d.target.toNat = o.val) :
    s.refVclSession d = false ↔ (s.vcl.ch.get o).session = d.w 24 ∧ d.w 24 ≠ 0 := by
  simp [State.refVclSession, outletOf_of_toNat ho]

/-- Taking a descriptor up touches its slot alone. -/
theorem State.takeUp_refVclSession : (s.takeUp r d).refVclSession d = s.refVclSession d := rfl
theorem State.takeUp_vclItem : (s.takeUp r d).vclItem d = s.vclItem d := rfl
theorem State.takeUp_pageBytes (ref : Word) (len : Nat) : (s.takeUp r d).pageBytes ref len = s.pageBytes ref len := rfl

section
variable (hd : s.due r d = true) (ho : d.target.toNat = o.val)
include hd ho

/-- Work on the session in force acts on the state that took the descriptor up, then completes. -/
theorem State.work_vclWork_inForce (f : Outlet → State → State) (hf : s.refVclSession d = false) :
    (s.work r d fun t => t.vclWork r d f) = (f o (s.takeUp r d)).complete r d.seq 0 0 := by
  rw [State.work_due _ hd, State.vclWork, outletOf_of_toNat ho, State.takeUp_refVclSession, hf]
  rfl

/-- Work on a session that has ended only completes. -/
theorem State.work_vclWork_ended (f : Outlet → State → State) (he : s.refVclSession d = true) :
    (s.work r d fun t => t.vclWork r d f) = (s.takeUp r d).complete r d.seq 0 0 := by
  rw [State.work_due _ hd, State.vclWork, outletOf_of_toNat ho, State.takeUp_refVclSession, he]
  rfl

end

/-! ### VCL_FETCH, VCL_STATION_CHAIN -/

theorem exec_vclFetch_inForce {bs : List Byte} (hd : s.due r d = true) (hf : s.refVclSession d = false) (hb : s.vclItem d = some bs) :
    exec (.vclFetch r d) s = .next (((s.takeUp r d).writePages [d.w 32] bs).complete r d.seq 0 (BitVec.ofNat 32 bs.length)) := by
  show execVclFetch r d s = _
  rw [execVclFetch, State.work_due _ hd, State.takeUp_vclItem, hb, State.takeUp_refVclSession, hf]
  rfl

theorem exec_vclFetch_ended (hd : s.due r d = true) (he : s.refVclSession d = true) :
    exec (.vclFetch r d) s = .next ((s.takeUp r d).complete r d.seq 0 0) := by
  show execVclFetch r d s = _
  rw [execVclFetch, State.work_due _ hd, State.takeUp_vclItem, State.takeUp_refVclSession, he]
  cases s.vclItem d <;> rfl

theorem exec_vclStationChain (hd : s.due r d = true) :
    exec (.vclStationChain r d) s =
      .next (((s.takeUp r d).modVcl fun v => { v with stationChain := s.pageBytes (d.w 28) (d.w 24).toNat }).complete r d.seq 0 0) := by
  show execVclStationChain r d s = _
  rw [execVclStationChain, State.work_due _ hd, State.takeUp_pageBytes]

/-! ### VCL_AUTH (08 R210) -/

/-- An answer to a request that has not timed out grants the authorisation or refuses it. -/
theorem exec_vclAuth_inForce (hd : s.due r d = true) (ho : d.target.toNat = o.val) (hf : s.refVclSession d = false)
    (ha : (s.vcl.ch.get o).authFailed = false) :
    exec (.vclAuth r d) s = .next (State.complete r d.seq 0 0 (
      if d.b 28 = 0 then ((s.takeUp r d).modVclCh o fun v => { v with authGranted := true, authReq := 0, authSince := none }).vclUpdate o
      else (s.takeUp r d).authFail o)) := by
  have ha' : ¬ ((s.takeUp r d).vcl.ch.get o).authFailed = true := ne_true_of_eq_false ha
  show execVclAuth r d s = _
  rw [execVclAuth, State.work_vclWork_inForce hd ho _ hf, if_neg ha']

/-- Settles O32: a session in force takes the effect of the descriptor, one that has ended only its completion. -/
theorem hostDescriptorsReachTheVehicleSession : Obligations.HostDescriptorsReachTheVehicleSession := by
  unfold Obligations.HostDescriptorsReachTheVehicleSession
  intro s r d o hd ho t v done
  refine ⟨fun hv h0 => ?inForce, fun hv => ?ended, exec_vclStationChain hd⟩
  case inForce =>
    have hf : s.refVclSession d = false := (State.refVclSession_eq_false_iff ho).mpr ⟨hv, h0⟩
    have acts (f : Outlet → State → State) := congrArg (Host.Outcome.next (φ := Fault) (ρ := Refusal)) (State.work_vclWork_inForce hd ho f hf)
    exact ⟨acts _, fun ha hg => (exec_vclAuth_inForce hd ho hf ha).trans (by rw [if_pos hg]),
      fun ha hg => (exec_vclAuth_inForce hd ho hf ha).trans (by rw [if_neg hg]),
      fun bs hb => exec_vclFetch_inForce hd hf hb, acts _, acts _⟩
  case ended =>
    have he : s.refVclSession d = true := by
      rw [← Bool.not_eq_false, State.refVclSession_eq_false_iff ho]
      rintro ⟨h, h0⟩
      exact hv.elim (· h) h0
    have completes (f : Outlet → State → State) := congrArg (Host.Outcome.next (φ := Fault) (ρ := Refusal)) (State.work_vclWork_ended hd ho f he)
    exact ⟨completes _, completes _, exec_vclFetch_ended hd he, completes _, completes _⟩

end Sys2Proof.Machine
end

section
/-! The cooling bus, the flow of the loops and the die comparator (09 R224, R225, R230, R234). -/
namespace Sys2Proof.Machine

variable {s : State}

/-! ### Flow faults (09 R225) -/

theorem exec_flowFault_below {l : Fin 4} {since : Nat} (hs : s.supplied = true) (hb : (s.thm.loop.get l).belowSince = some since) :
    exec (.flowFault l) s = .next ((s.runTo (since + sec 2)).loopFlow l) := by
  show execFlowFault l s = _
  rw [execFlowFault, State.live_supplied _ hs, hb]

theorem exec_flowFault_notBelow {l : Fin 4} (hs : s.supplied = true) (hb : (s.thm.loop.get l).belowSince = none) :
    exec (.flowFault l) s = .next (s.loopFlow l) := by
  show execFlowFault l s = _
  rw [execFlowFault, State.live_supplied _ hs, hb]

/-! ### The cooling bus (09 R224) -/

section
variable {n : Fin 8}

/-- What a poll puts on the bus: the speed where it has changed, and reads of the flow and the temperature. -/
def DriveSt.requests (n : Fin 8) (c : ThmDrive) (x : DriveSt) : List (Fin 8 × Nat × Nat × Nat) :=
  (if x.sent = some x.speed then [] else [(n, 6, c.speedReg, x.speed)]) ++
    c.flowReg.toList.map (fun r => (n, 3, r, 1)) ++ c.tempReg.toList.map fun r => (n, 3, r, 1)

theorem exec_drivePoll {c : ThmDrive} (hs : s.supplied = true) (hc : s.cfg.active.thermal.drives.get n = some c)
    (hr : s.pwr.controlReady = true) :
    exec (.drivePoll n) s = .next (
      let t := s.runTo ((s.thm.drive.get n).lastPoll + ms 100)
      t.modThm fun z =>
        { z with busOut := z.busOut ++ (s.thm.drive.get n).requests n c,
                 drive := vmod z.drive n fun x => { x with polled := some t.clk.cycle, lastPoll := t.clk.cycle, sent := some x.speed } }) := by
  show execDrivePoll n s = _
  rw [execDrivePoll, State.live_supplied _ hs, hc, hr]
  simp only [Bool.not_true, Bool.false_eq_true, if_false, State.runTo_frame, DriveSt.requests]

theorem exec_driveResponse_inTime {k : Nat} {flow : Option Nat} {temp : Option Int} (hs : s.supplied = true)
    (hp : (s.thm.drive.get n).polled = some k) (ht : s.clk.cycle < k + ms 20) :
    exec (.driveResponse n flow temp) s = .next (s.modThm fun z =>
      { z with drive := vmod z.drive n fun x => { x with fault := false, misses := 0, polled := none, flow := flow, temp := temp } }) := by
  show execDriveResponse n flow temp s = _
  rw [execDriveResponse, State.live_supplied _ hs, hp]
  exact congrArg _ (if_neg (Nat.not_le_of_lt ht))

theorem exec_driveResponse_late {k : Nat} {flow : Option Nat} {temp : Option Int} (hs : s.supplied = true)
    (hp : (s.thm.drive.get n).polled = some k) (ht : k + ms 20 ≤ s.clk.cycle) :
    exec (.driveResponse n flow temp) s = .next s := by
  show execDriveResponse n flow temp s = _
  rw [execDriveResponse, State.live_supplied _ hs, hp]
  exact congrArg _ (if_pos ht)

/-- The poll of cycle `k` ends without a response: the bus error and the miss are counted, and the fault flag stands as given. -/
def State.missPoll (n : Fin 8) (k : Nat) (fault : Bool) (s : State) : State :=
  (s.runTo (k + ms 20)).modThm fun z =>
    { z with cntBusErr := satInc z.cntBusErr,
             drive := vmod z.drive n fun x => { x with misses := x.misses + 1, polled := none, fault := fault } }

/-- The loops whose flow comes from a drive are evaluated (09 R225, R234). -/
def State.driveLoops (n : Fin 8) (s : State) : State :=
  s.forAll fun (l : Fin 4) u =>
    match u.cfg.active.thermal.loops.get l with
    | some c => if c.flow = .drive n then u.loopFlow l else u
    | none => u

/-- The fault after a miss, its event where it is new, and its effect on the loops. -/
theorem exec_driveResponseTimeout {k : Nat} (hs : s.supplied = true) (hp : (s.thm.drive.get n).polled = some k) :
    exec (.driveResponseTimeout n) s = .next (
      let x := s.thm.drive.get n
      let fault := x.fault || decide (2 ≤ x.misses)
      let t := s.missPoll n k fault
      let u := if fault && !x.fault then t.raise .thm 4 else t
      if fault then u.driveLoops n else u) := by
  show execDriveResponseTimeout n s = _
  rw [execDriveResponseTimeout, State.live_supplied _ hs, hp]
  simp only [State.runTo_frame, State.missPoll]
  rfl

theorem exec_driveResponseTimeout_early {k : Nat} (hs : s.supplied = true) (hp : (s.thm.drive.get n).polled = some k)
    (hf : (s.thm.drive.get n).fault = false) (hm : (s.thm.drive.get n).misses < 2) :
    exec (.driveResponseTimeout n) s = .next (s.missPoll n k false) := by
  rw [exec_driveResponseTimeout hs hp]
  simp [hf, Nat.not_le_of_lt hm]

theorem exec_driveResponseTimeout_third {k : Nat} (hs : s.supplied = true) (hp : (s.thm.drive.get n).polled = some k)
    (hf : (s.thm.drive.get n).fault = false) (hm : 2 ≤ (s.thm.drive.get n).misses) :
    exec (.driveResponseTimeout n) s = .next (((s.missPoll n k true).raise .thm 4).driveLoops n) := by
  rw [exec_driveResponseTimeout hs hp]
  simp [hf, hm]

theorem exec_driveResponseTimeout_inFault {k : Nat} (hs : s.supplied = true) (hp : (s.thm.drive.get n).polled = some k)
    (hf : (s.thm.drive.get n).fault = true) :
    exec (.driveResponseTimeout n) s = .next ((s.missPoll n k true).driveLoops n) := by
  rw [exec_driveResponseTimeout hs hp]
  simp [hf]

end

/-! ### The die comparator (09 R230; log entry 168) -/

/-- The die trip: the demand of global source 3, with the event and the trip held until the device has cooled. -/
def State.dieTrip (s : State) : State :=
  ((s.modThm fun x => { x with dieTripped := true, coolRounds := 0 }).raise .thm 7).raiseGlb 3

theorem le_dieTripAt : 13300 ≤ dieTripAt := by unfold dieTripAt; omega
theorem dieTripAt_le : dieTripAt ≤ 13700 := by unfold dieTripAt; omega

theorem exec_dieTrip_below {temp : Int} (hs : s.supplied = true) (h : temp < dieTripAt) : exec (.dieTrip temp) s = .next s := by
  show execDieTrip temp s = _
  rw [execDieTrip, State.live_supplied _ hs, if_pos h]

theorem exec_dieTrip_reached {temp : Int} (hs : s.supplied = true) (h : dieTripAt ≤ temp) :
    exec (.dieTrip temp) s = .next s.dieTrip := by
  show execDieTrip temp s = _
  rw [execDieTrip, State.live_supplied _ hs, if_neg (Int.not_lt.mpr h)]
  rfl

/-- Settles O33: each command by its branches; the level of the die comparator lies between 133 and 137 degrees. -/
theorem drivesAndLoopsAreWatched : Obligations.DrivesAndLoopsAreWatched := by
  unfold Obligations.DrivesAndLoopsAreWatched
  intro s hs
  refine ⟨fun l since hb => exec_flowFault_below hs hb, fun l hb => exec_flowFault_notBelow hs hb,
    fun n c hc hr => exec_drivePoll hs hc hr,
    fun n k flow temp hp => ⟨exec_driveResponse_inTime hs hp, exec_driveResponse_late hs hp⟩,
    fun n k hp => ⟨exec_driveResponseTimeout_early hs hp, exec_driveResponseTimeout_third hs hp, exec_driveResponseTimeout_inFault hs hp⟩,
    fun temp => ⟨fun h => exec_dieTrip_reached hs (Int.le_trans dieTripAt_le h),
      fun h => exec_dieTrip_below hs (Int.lt_of_lt_of_le h le_dieTripAt), ?between⟩⟩
  case between =>
    by_cases h : temp < dieTripAt
    · exact .inl (exec_dieTrip_below hs h)
    · exact .inr (exec_dieTrip_reached hs (Int.not_lt.mp h))

end Sys2Proof.Machine
end

section
/-! What raising a source of safe energy off does at once (05 R139; 10 R239-R242). -/
namespace Sys2Proof.Machine

variable {s t : State}

/-! ### Sets of phases as bits -/

theorem getLsbD_bit {w b : Nat} (h : b < w) (i : Nat) : (bit w b).getLsbD i = decide (i = b) := by
  simp only [bit, BitVec.getLsbD_shiftLeft, BitVec.getLsbD_one]
  grind

/-- With a bit set a word is not 0. -/
theorem or_bit_ne_zero {w b : Nat} (h : b < w) (x : BitVec w) : x ||| bit w b ≠ 0 := by
  intro h0
  have hb := congrArg (BitVec.getLsbD · b) h0
  simp [-BitVec.getLsbD_eq_getElem, getLsbD_bit h] at hb

/-- A set of phases holds a phase exactly where the predicate does. -/
theorem getLsbD_phaseBits (p : Phase → Bool) (n : Phase) : (phaseBits p).getLsbD n.val = p n := by
  have key : ∀ (l : List Phase) (w : BitVec 24),
      (l.foldl (fun w n => if p n then w ||| bit 24 n.val else w) w).getLsbD n.val = (w.getLsbD n.val || (decide (n ∈ l) && p n)) := by
    intro l
    induction l with
    | nil => simp
    | cons m l ih =>
      intro w
      rw [List.foldl_cons, ih]
      by_cases e : n = m
      · subst e
        cases hp : p n <;> simp [-BitVec.getLsbD_eq_getElem, getLsbD_bit]
      · have e' : n.val ≠ m.val := fun h => e (Fin.ext h)
        cases p m <;> simp [-BitVec.getLsbD_eq_getElem, getLsbD_bit, e, e']
  simpa [phaseBits] using key (List.finRange 24) 0

/-! ### What a change of the PWM block leaves -/

theorem OnlyPwm.reg (h : OnlyPwm s t) : t.reg = s.reg := OnlyEvents.reg (s := { s with pwm := t.pwm }) h
theorem OnlyPwm.out (h : OnlyPwm s t) : t.out = s.out := OnlyEvents.out (s := { s with pwm := t.pwm }) h
theorem OnlyPwm.saf (h : OnlyPwm s t) : t.saf = s.saf := OnlyEvents.saf (s := { s with pwm := t.pwm }) h
theorem OnlyPwm.ring (h : OnlyPwm s t) : t.ring = s.ring := OnlyEvents.ring (s := { s with pwm := t.pwm }) h
theorem OnlyPwm.win (h : OnlyPwm s t) : t.win = s.win := OnlyEvents.win (s := { s with pwm := t.pwm }) h
theorem OnlyPwm.cfg (h : OnlyPwm s t) : t.cfg = s.cfg := OnlyEvents.cfg (s := { s with pwm := t.pwm }) h

/-! ### Mask codes touch the PWM block alone -/

/-- One mask code applied where its source is asserted: a turn of the channel and its event. -/
theorem OnlyPwm.ite_turnCh_raise (c : Bool) (n : Phase) (tm : Nat) (f : PwmCh → PwmCh) (b : Nat) :
    OnlyPwm s (if c then (s.turnCh n tm f).raise (.pwm n) b else s) := by
  have h : OnlyPwm s (s.turnCh n tm f) := OnlyPwm.modCh _
  split
  · exact h.trans (OnlyPwm.raise _ _)
  · exact .refl

theorem OnlyPwm.applyMasks (n : Phase) : OnlyPwm s (s.applyMasks n) :=
  OnlyPwm.trans (OnlyPwm.ite_turnCh_raise ..) (OnlyPwm.ite_turnCh_raise ..)

theorem OnlyPwm.restMasks (n : Phase) : OnlyPwm s (s.restMasks n) := by
  unfold State.restMasks State.releaseMasks
  split
  · exact .refl
  · dsimp only
    split
    · exact .refl
    · exact OnlyPwm.modCh _

theorem State.turnCh_evGet (n : Phase) (tm : Nat) (f : PwmCh → PwmCh) (e : EvSrc) : (s.turnCh n tm f).evGet e = s.evGet e :=
  State.evGet_ev e rfl

/-- Mask codes set events of their channel alone. -/
theorem State.applyMasks_evGet (n : Phase) {e : EvSrc} (h : e ≠ .pwm n) : (s.applyMasks n).evGet e = s.evGet e := by
  unfold State.applyMasks
  dsimp only
  split <;> split <;> simp only [State.raise_other _ _ _ h, State.turnCh_evGet]

theorem State.restMasks_evGet (n : Phase) (e : EvSrc) : (s.restMasks n).evGet e = s.evGet e := by
  unfold State.restMasks State.releaseMasks
  split
  · rfl
  · dsimp only
    split
    · rfl
    · exact State.turnCh_evGet ..

/-! ### The update of the safety outputs -/

theorem OnlyPwm.safetyUpdate : OnlyPwm s.dropGates.markDemands s.safetyUpdate :=
  .forAll fun n _ => (OnlyPwm.applyMasks n).trans (OnlyPwm.restMasks n)

theorem State.safetyUpdate_saf : s.safetyUpdate.saf = s.dropGates.markDemands.saf := OnlyPwm.safetyUpdate.saf

theorem State.safetyUpdate_evGet_saf : s.safetyUpdate.evGet .saf = s.evGet .saf :=
  State.forAll_induct _ (fun t => t.evGet .saf = s.evGet .saf)
    (fun n _ ht => (State.restMasks_evGet n _).trans ((State.applyMasks_evGet n (by simp)).trans ht)) rfl

theorem State.safetyUpdate_frame :
    s.safetyUpdate.reg = s.reg ∧ s.safetyUpdate.out = s.out ∧ s.safetyUpdate.ring = s.ring ∧ s.safetyUpdate.win = s.win ∧
    s.safetyUpdate.cfg = s.cfg :=
  have h : OnlyPwm s.dropGates.markDemands s.safetyUpdate := OnlyPwm.safetyUpdate
  ⟨h.reg, h.out, h.ring, h.win, h.cfg⟩

theorem State.safetyUpdate_saf_frame :
    s.safetyUpdate.saf.srcGlb = s.saf.srcGlb ∧ s.safetyUpdate.saf.srcOut = s.saf.srcOut ∧ s.safetyUpdate.saf.srcSto = s.saf.srcSto ∧
    s.safetyUpdate.saf.ocp = s.saf.ocp ∧ s.safetyUpdate.saf.ocm = s.saf.ocm := by
  rw [State.safetyUpdate_saf]
  exact ⟨rfl, rfl, rfl, rfl, rfl⟩

/-- A gate is high after the update exactly where it was, and neither safe energy off nor an overcurrent blocks its phase. -/
theorem State.safetyUpdate_gateEn (n : Phase) :
    s.safetyUpdate.saf.gateEn.getLsbD n.val =
      (s.saf.gateEn.getLsbD n.val && !(s.blockedPhase n || s.saf.overcurrent.getLsbD n.val)) := by
  have h : s.safetyUpdate.saf.gateEn = s.saf.gateEn &&& ~~~ (phaseBits s.blockedPhase ||| s.saf.overcurrent) :=
    congrArg Saf.gateEn State.safetyUpdate_saf
  rw [h, BitVec.getLsbD_and, BitVec.getLsbD_not, BitVec.getLsbD_or, getLsbD_phaseBits, decide_eq_true n.isLt, Bool.true_and]

theorem State.safetyUpdate_gateEn_blocked {n : Phase} (h : s.blockedPhase n = true) :
    s.safetyUpdate.saf.gateEn.getLsbD n.val = false := by
  rw [State.safetyUpdate_gateEn, h, Bool.true_or, Bool.not_true, Bool.and_false]

theorem State.safetyUpdate_gateEn_le {n : Phase} (h : s.safetyUpdate.saf.gateEn.getLsbD n.val = true) :
    s.saf.gateEn.getLsbD n.val = true :=
  (Bool.and_eq_true_iff.mp (State.safetyUpdate_gateEn n ▸ h)).1

/-- Where safe energy off is demanded the update notes since when. -/
theorem State.safetyUpdate_seoSince {o : Outlet} (h : s.seoOut o = true) : (s.safetyUpdate.saf.seoSince.get o).isSome = true := by
  have e : s.dropGates.seoOut o = true := h
  rw [State.safetyUpdate_saf]
  simp [State.markDemands, e]

/-! ### Phases that safe energy off blocks (10 R240) -/

theorem State.blockedPhase_of_seoGlobal {n : Phase} (h : s.seoGlobal = true) : s.blockedPhase n = true := by
  rw [State.blockedPhase, h, Bool.true_or]

theorem State.blockedPhase_of_inGroup {o : Outlet} {n : Phase} (h : s.seoOut o = true) (hg : s.inGroup o n = true) :
    s.blockedPhase n = true := by
  rw [State.blockedPhase, Bool.or_eq_true, List.any_eq_true]
  exact .inr ⟨o, List.mem_finRange o, by simp [h, hg]⟩

theorem State.blockedPhase_of_move {o : Outlet} {n : Phase} {v : MoveSt} (h : s.seoOut o = true) (hm : s.mtx.move.get n = some v)
    (hv : v.src = some o ∨ v.dst = o) : s.blockedPhase n = true := by
  rw [State.blockedPhase, Bool.or_eq_true, List.any_eq_true]
  exact .inr ⟨o, List.mem_finRange o, by simp [h, hm, hv]⟩

/-! ### Raising a source (10 R239, R241) -/

/-- A global source set with its event, before its effects. -/
def State.setGlb (b : Nat) (s : State) : State :=
  (s.modSaf fun f => { f with srcGlb := f.srcGlb ||| bit 10 b }).raise .saf 1

/-- An outlet's source set with its event, before its effects. -/
def State.setOut (o : Outlet) (b : Nat) (s : State) : State :=
  (s.modSaf fun f => { f with srcOut := vmod f.srcOut o fun x => x ||| bit 6 b }).raiseAt .saf 0 o.val b 0

theorem State.raiseGlb_inForce {b : Nat} (h : s.saf.srcGlb.getLsbD b = true) : s.raiseGlb b = s := if_pos h
theorem State.raiseGlb_new {b : Nat} (h : s.saf.srcGlb.getLsbD b = false) : s.raiseGlb b = (s.setGlb b).safetyUpdate :=
  if_neg (Bool.eq_false_iff.mp h)
theorem State.raiseOut_inForce {o : Outlet} {b : Nat} (h : (s.saf.srcOut.get o).getLsbD b = true) : s.raiseOut o b = s := if_pos h
theorem State.raiseOut_new {o : Outlet} {b : Nat} (h : (s.saf.srcOut.get o).getLsbD b = false) :
    s.raiseOut o b = (s.setOut o b).safetyUpdate :=
  if_neg (Bool.eq_false_iff.mp h)

theorem OnlyEvents.setGlb (b : Nat) : OnlyEvents (s.modSaf fun f => { f with srcGlb := f.srcGlb ||| bit 10 b }) (s.setGlb b) :=
  OnlyEvents.raise ..
theorem OnlyEvents.setOut (o : Outlet) (b : Nat) :
    OnlyEvents (s.modSaf fun f => { f with srcOut := vmod f.srcOut o fun x => x ||| bit 6 b }) (s.setOut o b) :=
  OnlyEvents.raiseAt ..

theorem State.setGlb_flags (b : Nat) : ((s.setGlb b).evGet .saf).flags = (s.evGet .saf).flags ||| bit 32 1 := State.raise_flags ..
theorem State.setOut_flags (o : Outlet) (b : Nat) : ((s.setOut o b).evGet .saf).flags = (s.evGet .saf).flags ||| bit 32 0 := by
  rw [State.setOut, State.evGet_ev _ (State.raiseAt_ev ..), State.evGet_set_same]
  rfl

theorem State.setGlb_seoGlobal (b : Fin 10) : (s.setGlb b.val).seoGlobal = true := by
  rw [State.seoGlobal, (OnlyEvents.setGlb b.val).saf]
  exact bne_iff_ne.mpr (or_bit_ne_zero b.isLt _)

theorem State.setOut_seoOut (o : Outlet) (b : Fin 6) : (s.setOut o b.val).seoOut o = true := by
  rw [State.seoOut, Bool.or_eq_true, (OnlyEvents.setOut o b.val).saf, State.modSaf_saf, vmod_self]
  exact .inr (bne_iff_ne.mpr (or_bit_ne_zero b.isLt _))

/-- Settles O37: a new source is set, its event with it, and the update of the safety outputs does the rest. -/
theorem safeEnergyOffDropsTheGates : Obligations.SafeEnergyOffDropsTheGates := by
  unfold Obligations.SafeEnergyOffDropsTheGates
  intro s
  refine ⟨fun b h => State.raiseGlb_inForce h, fun b h => ?glb, fun o b h => State.raiseOut_inForce h, fun o b h => ?out⟩
  case glb =>
    have hu := OnlyEvents.setGlb (s := s) b.val
    have hg := State.setGlb_seoGlobal (s := s) b
    generalize hs : s.setGlb b.val = u at hu hg
    obtain ⟨hreg, hout, hring, hwin, hcfg⟩ := State.safetyUpdate_frame (s := u)
    obtain ⟨hglb, hsrc, hsto, hocp, hocm⟩ := State.safetyUpdate_saf_frame (s := u)
    rw [hu.saf] at hglb hsrc hsto hocp hocm
    have hfl := (congrArg EvReg.flags (State.safetyUpdate_evGet_saf (s := u))).trans (hs ▸ State.setGlb_flags b.val)
    rw [State.raiseGlb_new h, hs]
    exact ⟨hglb, hsrc, hsto, fun n => State.safetyUpdate_gateEn_blocked (State.blockedPhase_of_seoGlobal hg),
      fun o => State.safetyUpdate_seoSince (by rw [State.seoOut, hg, Bool.true_or]), hfl,
      hreg.trans hu.reg, hout.trans hu.out, hocp, hocm, hring.trans hu.ring, hwin.trans hu.win, hcfg.trans hu.cfg⟩
  case out =>
    have hu := OnlyEvents.setOut (s := s) o b.val
    have ho := State.setOut_seoOut (s := s) o b
    generalize hs : s.setOut o b.val = u at hu ho
    obtain ⟨hreg, hout, hring, hwin, hcfg⟩ := State.safetyUpdate_frame (s := u)
    obtain ⟨hglb, hsrc, hsto, hocp, hocm⟩ := State.safetyUpdate_saf_frame (s := u)
    rw [hu.saf] at hglb hsrc hsto hocp hocm
    have hfl := (congrArg EvReg.flags (State.safetyUpdate_evGet_saf (s := u))).trans (hs ▸ State.setOut_flags o b.val)
    have hin : ∀ n, u.inGroup o n = s.inGroup o n := by
      intro n
      simp only [State.inGroup, State.phaseCfg, State.hasPhase, hu.reg, hu.mtx, hu.cfg, hu.glb]
      rfl
    rw [State.raiseOut_new h, hs]
    refine ⟨hglb, by rw [hsrc]; exact vmod_self .., fun p hp => by rw [hsrc]; exact vmod_other _ _ _ _ hp.symm, hsto,
      fun n hn => State.safetyUpdate_gateEn_blocked (State.blockedPhase_of_inGroup ho ((hin n).trans hn)),
      fun n v hm hv => State.safetyUpdate_gateEn_blocked (State.blockedPhase_of_move ho ((congrArg (·.move.get n) hu.mtx).trans hm) hv),
      fun n hn => ?_, State.safetyUpdate_seoSince ho, hfl,
      hreg.trans hu.reg, hout.trans hu.out, hocp, hocm, hring.trans hu.ring, hwin.trans hu.win, hcfg.trans hu.cfg⟩
    have := State.safetyUpdate_gateEn_le hn
    rwa [hu.saf] at this

end Sys2Proof.Machine
end

section
/-! Faults and safety descriptors that raise sources of safe energy off or STO (10 R239, R241, R248, R250, R251, R258, R262, R268). -/
namespace Sys2Proof.Machine

variable {s : State}

/-! ### Held pads (10 R241, R251; log entry 12) -/

/-- The readback of a pad differs from its command exactly where the pad is held at the other level. -/
theorem getD_bne_iff {pad : Option Bool} {cmd : Bool} : (pad.getD cmd != cmd) = true ↔ pad = some (!cmd) := by
  cases pad <;> cases cmd <;> simp

/-- A pad that follows its command or is held at its level reads back as commanded. -/
theorem getD_bne_eq_false {pad : Option Bool} {cmd : Bool} (h : pad = none ∨ pad = some cmd) : (pad.getD cmd != cmd) = false := by
  rcases h with rfl | rfl <;> simp

theorem State.setGatePad_gateDiffers (n : Phase) (pad : Option Bool) :
    (s.setGatePad n pad).gateDiffers n = (pad.getD (s.saf.gateEn.getLsbD n.val) != s.saf.gateEn.getLsbD n.val) := by
  simp only [State.gateDiffers, State.gatePin, State.setGatePad, State.modSaf_saf, vmod_self]

theorem State.setStoPads_stoDiffers (a : Acd) (padA padB : Option Bool) :
    (s.setStoPads a padA padB).stoDiffers a =
      ((padA.getD (s.saf.stoCmd.getLsbD a.val) != s.saf.stoCmd.getLsbD a.val) ||
       (padB.getD (s.saf.stoCmd.getLsbD (a.val + 4)) != s.saf.stoCmd.getLsbD (a.val + 4))) := by
  have hne : (⟨a.val + 4, by omega⟩ : Fin 8) ≠ ⟨a.val, by omega⟩ := by simp
  simp only [State.stoDiffers, State.stoPin, State.setStoPads, State.modSaf_saf, vmod_self, vmod_other _ _ _ _ hne]

/-- A differing readback of a GATE_EN pin is latched 2 µs later, with its event, and demands safe energy off everywhere. -/
def State.latchGenFault (n : Phase) (s : State) : State :=
  (((s.runTo (s.clk.cycle + us 2)).modSaf fun f => { f with genFault := f.genFault ||| bit 24 n.val }).raiseAt .saf 9 n.val 0 0).raiseGlb 7

/-- A differing readback of a connection device's STO pins is latched 2 µs later, with its event, and demands STO of the device. -/
def State.latchStoFault (a : Acd) (s : State) : State :=
  (((s.runTo (s.clk.cycle + us 2)).modSaf fun f => { f with stoFault := f.stoFault ||| bit 4 a.val }).raiseAt .saf 10 a.val 0 0).raiseSto a 5

section
variable {n : Phase} {pad : Option Bool} (hs : s.supplied = true) (hp : s.hasPhase n = true)
include hs hp

theorem exec_genFault :
    exec (.genFault n pad) s = .next (
      if !(s.setGatePad n pad).gateDiffers n || s.saf.genFault.getLsbD n.val then s.setGatePad n pad
      else (s.setGatePad n pad).latchGenFault n) := by
  show execGenFault n pad s = _
  rw [execGenFault, State.live_supplied _ hs, hp]
  rfl

theorem exec_genFault_differs (hd : pad = some (!s.saf.gateEn.getLsbD n.val)) (hf : s.saf.genFault.getLsbD n.val = false) :
    exec (.genFault n pad) s = .next ((s.setGatePad n pad).latchGenFault n) := by
  rw [exec_genFault hs hp, State.setGatePad_gateDiffers, getD_bne_iff.mpr hd, hf]
  rfl

/-- Where the readback agrees, or the fault is latched already, the pad alone changes. -/
theorem exec_genFault_padAlone
    (h : pad = none ∨ pad = some (s.saf.gateEn.getLsbD n.val) ∨ s.saf.genFault.getLsbD n.val = true) :
    exec (.genFault n pad) s = .next (s.setGatePad n pad) := by
  rw [exec_genFault hs hp, State.setGatePad_gateDiffers]
  refine congrArg _ (if_pos ?_)
  rcases or_assoc.mpr h with h | h
  · rw [getD_bne_eq_false h]
    rfl
  · rw [h, Bool.or_true]

end

section
variable {a : Acd} {padA padB : Option Bool} (hs : s.supplied = true)
include hs

theorem exec_stoFault :
    exec (.stoFault a padA padB) s = .next (
      if !(s.setStoPads a padA padB).stoDiffers a || s.saf.stoFault.getLsbD a.val then s.setStoPads a padA padB
      else (s.setStoPads a padA padB).latchStoFault a) := by
  show execStoFault a padA padB s = _
  rw [execStoFault, State.live_supplied _ hs]
  rfl

theorem exec_stoFault_differs
    (hd : padA = some (!s.saf.stoCmd.getLsbD a.val) ∨ padB = some (!s.saf.stoCmd.getLsbD (a.val + 4)))
    (hf : s.saf.stoFault.getLsbD a.val = false) :
    exec (.stoFault a padA padB) s = .next ((s.setStoPads a padA padB).latchStoFault a) := by
  have hdiff : (s.setStoPads a padA padB).stoDiffers a = true := by
    rw [State.setStoPads_stoDiffers, Bool.or_eq_true]
    exact hd.imp getD_bne_iff.mpr getD_bne_iff.mpr
  rw [exec_stoFault hs, hdiff, hf]
  rfl

/-- Where both readbacks agree, or the fault is latched already, the pads alone change. -/
theorem exec_stoFault_padsAlone
    (h : ((padA = none ∨ padA = some (s.saf.stoCmd.getLsbD a.val)) ∧ (padB = none ∨ padB = some (s.saf.stoCmd.getLsbD (a.val + 4)))) ∨
      s.saf.stoFault.getLsbD a.val = true) :
    exec (.stoFault a padA padB) s = .next (s.setStoPads a padA padB) := by
  rw [exec_stoFault hs, State.setStoPads_stoDiffers]
  refine congrArg _ (if_pos ?_)
  rcases h with ⟨hA, hB⟩ | h
  · rw [getD_bne_eq_false hA, getD_bne_eq_false hB]
    rfl
  · rw [h, Bool.or_true]

end

/-! ### Monitors (10 R248, R262) -/

theorem State.imdAct_due {o : Outlet} {since : Nat} (hi : s.saf.imdSince.get o = some since) (ht : since + sec 1 ≤ s.clk.cycle)
    (hf : s.saf.imdFault.getLsbD o.val = false) :
    s.imdAct o = ((s.modSaf fun f => { f with imdFault := f.imdFault ||| bit 8 o.val }).raiseAt .saf 14 o.val 0 0).raiseOut o 5 := by
  rw [State.imdAct, hi]
  exact if_pos (by rw [decide_eq_true ht, hf]; rfl)

theorem exec_imdFault {o : Outlet} {since : Nat} (hs : s.supplied = true) (hi : s.saf.imdSince.get o = some since) :
    exec (.imdFault o) s = .next ((s.runTo (since + sec 1)).imdAct o) := by
  show execImdFault o s = _
  rw [execImdFault, State.live_supplied _ hs, hi]

/-- At the end of the second the fault is raised, where it is not latched already. -/
theorem exec_imdFault_shown {o : Outlet} {since : Nat} (hs : s.supplied = true) (hi : s.saf.imdSince.get o = some since)
    (hf : s.saf.imdFault.getLsbD o.val = false) :
    exec (.imdFault o) s = .next ((((s.runTo (since + sec 1)).modSaf fun f =>
      { f with imdFault := f.imdFault ||| bit 8 o.val }).raiseAt .saf 14 o.val 0 0).raiseOut o 5) := by
  rw [exec_imdFault hs hi]
  generalize hk : since + sec 1 = k
  have hsaf : (s.runTo k).saf = s.saf := by simp only [State.runTo_frame]
  have ht : since + sec 1 ≤ (s.runTo k).clk.cycle := by
    rw [hk, State.runTo_cycle]
    exact Nat.le_max_right ..
  have hi' : (s.runTo k).saf.imdSince.get o = some since := by rw [hsaf, hi]
  have hf' : (s.runTo k).saf.imdFault.getLsbD o.val = false := by rw [hsaf, hf]
  exact congrArg _ (State.imdAct_due hi' ht hf')

theorem exec_tickTokenLost (hs : s.supplied = true) (h : s.saf.srcGlb.getLsbD 5 = false) :
    exec .tickTokenLost s = .next ((((s.runToFleet ((s.lne.tick + 4 - s.saf.tokenMiss) * Config.tickNs)).modSaf fun f =>
      { f with tokenMiss := 3 }).raiseGlb 5).syncControlFault) := by
  show execTickTokenLost s = _
  rw [execTickTokenLost, State.live_supplied _ hs]
  exact congrArg _ (if_neg (Bool.eq_false_iff.mp h))

theorem railsInRange_iff {x : Rails} : railsInRange x = true ↔ 740 ≤ x.core ∧ x.core ≤ 880 ∧ 3000 ≤ x.io := by
  simp only [railsInRange, Bool.and_eq_true, decide_eq_true_eq, and_assoc]

section
variable {x : Rails} (hs : s.supplied = true)
include hs

theorem exec_supplyFault_out (hr : ¬ railsInRange x = true) (ht : 2000 ≤ x.held) :
    exec (.supplyFault x) s = .next (((s.modSaf fun f => { f with supplyGood := none }).raiseGlb 6).syncControlFault) := by
  show execSupplyFault x s = _
  rw [execSupplyFault, State.live_supplied _ hs]
  exact congrArg _ (if_neg (by simp [hr, ht]))

theorem exec_supplyFault_passing (h : railsInRange x = true ∨ x.held < 2000) : exec (.supplyFault x) s = .next s := by
  show execSupplyFault x s = _
  rw [execSupplyFault, State.live_supplied _ hs]
  exact congrArg _ (if_pos (by simpa using h))

theorem exec_supplyRecovered_good (hr : railsInRange x = true) (ht : 10000000 ≤ x.held) (h6 : s.saf.srcGlb.getLsbD 6 = true) :
    exec (.supplyRecovered x) s =
      .next (((s.modSaf fun f => { f with supplyGood := some s.clk.cycle }).clearGlb 6).syncControlFault) := by
  show execSupplyRecovered x s = _
  rw [execSupplyRecovered, State.live_supplied _ hs, h6, hr, decide_eq_true ht]
  rfl

theorem exec_supplyRecovered_early (h : ¬ railsInRange x = true ∨ x.held < 10000000) : exec (.supplyRecovered x) s = .next s := by
  show execSupplyRecovered x s = _
  rw [execSupplyRecovered, State.live_supplied _ hs]
  refine congrArg _ (if_neg fun hg => ?_)
  simp only [Bool.and_eq_true, decide_eq_true_eq] at hg
  obtain ⟨⟨-, hr⟩, ht⟩ := hg
  exact h.elim (· hr) (Nat.not_lt.mpr ht)

end

/-! ### Safety commands (10 R258, R268) -/

theorem outletOf_eq_none {t : Word} (h : 8 ≤ t.toNat) : outletOf t = none := dif_neg (Nat.not_lt.mpr h)
theorem acdOf_of_toNat {t : Word} {a : Acd} (h : t.toNat = a.val) : acdOf t = some a := by
  rw [acdOf, dif_pos (h ▸ a.isLt)]
  exact congrArg some (Fin.ext h)
theorem acdOf_eq_none {t : Word} (h : 4 ≤ t.toNat) : acdOf t = none := dif_neg (Nat.not_lt.mpr h)

/-- A host demand on an ACD accepted at a journal position, which a later release is measured against (10 R266). -/
def State.hostStoDemand (pos : Nat) (a : Acd) (s : State) : State :=
  (s.modSaf fun f => { f with hostSto := vmod f.hostSto a fun _ => pos }).raiseSto a 0

section
variable {r : Ring} {d : Desc} (hd : s.due r d = true)
include hd

theorem exec_safSeoDemand_outlet {o : Outlet} (ho : d.target.toNat = o.val) :
    exec (.safSeoDemand r d) s = .next (
      let t := s.takeUp r d
      ((t.modSaf fun f => { f with hostOut := vmod f.hostOut o fun _ => t.jposOf r d.seq }).raiseOut o 0).complete r d.seq 0 0) := by
  show execSafSeoDemand r d s = _
  rw [execSafSeoDemand, State.work_due _ hd, outletOf_of_toNat ho]

theorem exec_safSeoDemand_all (h : 8 ≤ d.target.toNat) :
    exec (.safSeoDemand r d) s = .next (
      let t := s.takeUp r d
      ((t.modSaf fun f => { f with hostGlb := t.jposOf r d.seq }).raiseGlb 0).complete r d.seq 0 0) := by
  show execSafSeoDemand r d s = _
  rw [execSafSeoDemand, State.work_due _ hd, outletOf_eq_none h]

theorem exec_safStoDemand_acd {a : Acd} (ha : d.target.toNat = a.val) :
    exec (.safStoDemand r d) s = .next (
      let t := s.takeUp r d
      (t.hostStoDemand (t.jposOf r d.seq) a).complete r d.seq 0 0) := by
  show execSafStoDemand r d s = _
  rw [execSafStoDemand, State.work_due _ hd, acdOf_of_toNat ha]
  rfl

theorem exec_safStoDemand_all (h : 4 ≤ d.target.toNat) :
    exec (.safStoDemand r d) s = .next (
      let t := s.takeUp r d
      (t.forAll (State.hostStoDemand (t.jposOf r d.seq))).complete r d.seq 0 0) := by
  show execSafStoDemand r d s = _
  rw [execSafStoDemand, State.work_due _ hd, acdOf_eq_none h]
  rfl

theorem exec_safSiteStop :
    exec (.safSiteStop r d) s = .next ((((s.takeUp r d).originate 0).flushTrig).complete r d.seq 0 0) := by
  show execSafSiteStop r d s = _
  rw [execSafSiteStop, State.work_due _ hd]

end

/-- Settles O34: each command by its branches, a readback against the pad, a descriptor by its target. -/
theorem safetyFaultsRaiseTheirSources : Obligations.SafetyFaultsRaiseTheirSources := by
  unfold Obligations.SafetyFaultsRaiseTheirSources
  intro s
  refine ⟨fun hs => ⟨fun n pad hp => ⟨exec_genFault_differs hs hp, exec_genFault_padAlone hs hp⟩,
    fun a padA padB => ⟨exec_stoFault_differs hs, exec_stoFault_padsAlone hs⟩,
    fun o since hi hf => exec_imdFault_shown hs hi hf, exec_tickTokenLost hs, fun x => ?rails⟩,
    fun r d hd => ⟨fun o ho => exec_safSeoDemand_outlet hd ho, exec_safSeoDemand_all hd,
      ⟨fun a ha => exec_safStoDemand_acd hd ha, exec_safStoDemand_all hd⟩, exec_safSiteStop hd⟩⟩
  case rails =>
    dsimp only
    rw [← railsInRange_iff]
    exact ⟨exec_supplyFault_out hs, exec_supplyFault_passing hs, exec_supplyRecovered_good hs, exec_supplyRecovered_early hs⟩

end Sys2Proof.Machine
end

section
/-! Emergency stop inputs, the contactor half's own releases, the brake pulse and SAF_RESET (10 R242, R246, R249, R529). -/
namespace Sys2Proof.Machine

variable {s : State}

/-! ### Emergency stop inputs (10 R249) -/

/-- The latch of a pair that falls, with its event and the sources that follow it. -/
def State.latchEstop (e : Fin 4) (s : State) : State :=
  ((s.modSaf fun f => { f with latched := f.latched ||| bit 4 e.val }).raiseAt .saf 3 e.val 0 0).estopSources

theorem State.estopEval_idle {e : Fin 4} (h : s.estopLow e = false ∨ s.saf.latched.getLsbD e.val = true) : s.estopEval e = s :=
  if_neg (by rcases h with h | h <;> simp [h])

theorem State.estopEval_falls {e : Fin 4} (hl : s.estopLow e = true) (hn : s.saf.latched.getLsbD e.val = false) :
    s.estopEval e = if (s.latchEstop e).estopSite e then (s.latchEstop e).originate (bit 4 e.val) else s.latchEstop e :=
  if_pos (by rw [hl, hn]; rfl)

section
variable {e : Fin 4} {a b : Bool} {held : Nat} (hs : s.supplied = true)
include hs

theorem exec_estop_filtered (h : held < 2000) : exec (.estop e a b held) s = .next s := by
  show execEstop e a b held s = _
  rw [execEstop, State.live_supplied _ hs, if_pos h]

theorem exec_estop_stable (h : 2000 ≤ held) :
    exec (.estop e a b held) s = .next (((s.estopLevels e a b).estopEval e).flushTrig) := by
  show execEstop e a b held s = _
  rw [execEstop, State.live_supplied _ hs, if_neg (Nat.not_lt.mpr h)]

theorem exec_estop_idle (h : 2000 ≤ held)
    (hi : (s.estopLevels e a b).estopLow e = false ∨ (s.estopLevels e a b).saf.latched.getLsbD e.val = true) :
    exec (.estop e a b held) s = .next (s.estopLevels e a b).flushTrig := by
  rw [exec_estop_stable hs h, State.estopEval_idle hi]

/-- A pair that falls latches; it originates a stop where its map says so (10 R258). -/
theorem exec_estop_falls (h : 2000 ≤ held) (hl : (s.estopLevels e a b).estopLow e = true)
    (hn : (s.estopLevels e a b).saf.latched.getLsbD e.val = false) :
    let u := (s.estopLevels e a b).latchEstop e
    (u.estopSite e = true → exec (.estop e a b held) s = .next (u.originate (bit 4 e.val)).flushTrig) ∧
    (u.estopSite e = false → exec (.estop e a b held) s = .next u.flushTrig) := by
  intro u
  rw [exec_estop_stable hs h, State.estopEval_falls hl hn]
  refine ⟨fun hm => ?_, fun hm => ?_⟩
  · rw [if_pos hm]
  · rw [if_neg (Bool.eq_false_iff.mp hm)]

theorem exec_estopDiscrepancy {since : Nat} (hd : s.saf.disagree.get e = some since) (hn : s.saf.discrepancy.getLsbD e.val = false) :
    exec (.estopDiscrepancy e) s = .next (((s.runTo (since + ms 500)).modSaf fun f =>
      { f with discrepancy := f.discrepancy ||| bit 4 e.val }).raiseAt .saf 4 e.val 0 0) := by
  show execEstopDiscrepancy e s = _
  rw [execEstopDiscrepancy, State.live_supplied _ hs, hd, hn]
  rfl

end

/-! ### Releases of the contactor half and the brake pulse (10 R242, R246) -/

section
variable {o : Outlet} {since : Nat} (hs : s.supplied = true)
include hs

theorem exec_contactorRelease (hd : s.saf.seoSince.get o = some since) (hseo : s.seoOut o = true) :
    exec (.contactorRelease o) s = .next ((s.runTo (since + us 100)).setDrives o false) := by
  show execContactorRelease o s = _
  rw [execContactorRelease, State.live_supplied _ hs, hd, hseo]
  rfl

theorem exec_permitLost {c : OutletCfg} (hc : s.outCfg o = some c) (hp : s.saf.permitSince.get o = some since)
    (hn : s.saf.permit.get o = false) :
    exec (.permitLost o) s = .next ((s.runTo (since + ms (c.stopMs + 40))).setDrives o false) := by
  show execPermitLost o s = _
  rw [execPermitLost, State.live_supplied _ hs, hc, hp, hn]
  rfl

theorem exec_brkPulseEnd :
    exec .brkPulseEnd s = .next (if s.saf.brkTrip then (s.runTo s.saf.brkUntil).modSaf fun f => { f with brkTrip := false } else s) :=
  State.live_supplied _ hs

end

/-! ### SAF_RESET (10 R529) -/

/-- A bit of SAF_RESET evaluated where it is named; a bit that is not named is not released. -/
def evalNamed (bits : Byte) (k : Nat) (f : State → State × Bool) (u : State) : State × Bool :=
  if bits.getLsbD k = true then f u else (u, false)

/-- The result bit of a released bit. -/
def resultBit (k : Nat) (ok : Bool) : Word := if ok = true then bit 32 k else 0

/-- A bit of SAF_RESET as the model evaluates it: where it is named it acts on the state, and the result gains it where it is released. -/
def resetBit (bits : Byte) (k : Nat) (f : State → State × Bool) (u : State × Word) : State × Word :=
  if !bits.getLsbD k then u
  else let (v, ok) := f u.1; (v, if ok then u.2 ||| bit 32 k else u.2)

theorem resetBit_eq (bits : Byte) (k : Nat) (f : State → State × Bool) (u : State) (w : Word) :
    resetBit bits k f (u, w) = ((evalNamed bits k f u).1, w ||| resultBit k (evalNamed bits k f u).2) := by
  unfold resetBit evalNamed
  cases bits.getLsbD k
  case false => simp [resultBit]
  case true => cases h : (f u).2 <;> simp [h, resultBit]

theorem exec_safReset_resetBit {r : Ring} {d : Desc} (hd : s.due r d = true) :
    exec (.safReset r d) s = .next (
      let t := s.takeUp r d
      let bits := d.b 24
      let pos := t.jposOf r d.seq
      let u := resetBit bits 5 (·.resetReadback d.target) (resetBit bits 4 (·.resetSite) (resetBit bits 3 (·.resetContact d.target)
        (resetBit bits 2 (·.resetEstop d.target) (resetBit bits 1 (·.resetSto d.target pos) (resetBit bits 0 (·.resetHost d.target pos)
          (t.runToFleet (t.nextTick * Config.tickNs), (0 : Word)))))))
      u.1.flushTrig.complete r d.seq (if u.2 = (bitsOf bits 0 6 : BitVec 6).setWidth 32 then 0 else 1) u.2) := by
  show execSafReset r d s = _
  rw [execSafReset, State.work_due _ hd]
  rfl

/-- The named bits are evaluated in ascending order, each on what the lower ones have released; the result collects the bits released. -/
theorem exec_safReset {r : Ring} {d : Desc} (hd : s.due r d = true) :
    exec (.safReset r d) s = .next (
      let t := s.takeUp r d
      let u0 := evalNamed (d.b 24) 0 (·.resetHost d.target (t.jposOf r d.seq)) (t.runToFleet (t.nextTick * Config.tickNs))
      let u1 := evalNamed (d.b 24) 1 (·.resetSto d.target (t.jposOf r d.seq)) u0.1
      let u2 := evalNamed (d.b 24) 2 (·.resetEstop d.target) u1.1
      let u3 := evalNamed (d.b 24) 3 (·.resetContact d.target) u2.1
      let u4 := evalNamed (d.b 24) 4 (·.resetSite) u3.1
      let u5 := evalNamed (d.b 24) 5 (·.resetReadback d.target) u4.1
      let done : Word := resultBit 0 u0.2 ||| resultBit 1 u1.2 ||| resultBit 2 u2.2 ||| resultBit 3 u3.2 ||| resultBit 4 u4.2 ||| resultBit 5 u5.2
      u5.1.flushTrig.complete r d.seq (if done = (bitsOf (d.b 24) 0 6 : BitVec 6).setWidth 32 then 0 else 1) done) := by
  rw [exec_safReset_resetBit hd]
  simp only [resetBit_eq, BitVec.ofNat_eq_ofNat, BitVec.zero_or]

/-- Settles O35: a pair by its filtered levels and its latch, each release by its timer, SAF_RESET bit by bit. -/
theorem stopInputsAndReleasesAct : Obligations.StopInputsAndReleasesAct := by
  unfold Obligations.StopInputsAndReleasesAct
  intro s
  refine ⟨fun hs => ⟨fun e a b held h => exec_estop_filtered hs h,
    fun e a b held h => ⟨exec_estop_idle hs h, exec_estop_falls hs h⟩,
    fun e since hd hn => exec_estopDiscrepancy hs hd hn, fun o since hd ho => exec_contactorRelease hs hd ho,
    fun o c since hc hp hn => exec_permitLost hs hc hp hn,
    fun hb => (exec_brkPulseEnd hs).trans (congrArg _ (if_pos hb)),
    fun hb => (exec_brkPulseEnd hs).trans (congrArg _ (if_neg (Bool.eq_false_iff.mp hb)))⟩, fun r d hd => exec_safReset hd⟩

end Sys2Proof.Machine
end

section
/-! The comparison of a control tick, the referee's verdict and the stop of Cox (11 R274-R283). -/
namespace Sys2Proof.Machine

variable {s : State}

/-! ### The comparison (11 R277, R280, R282) -/

/-- The instant of the comparison, t + 15 µs, with the kick that the comparison is (11 R277, R283). -/
def State.atCompare (s : State) : State := (s.runToFleet (s.lne.tick * Config.tickNs + 15000)).kickCox

/-- Until the comparison nothing of what the lanes are judged by changes. -/
theorem State.atCompare_lne : s.atCompare.lne = { s.lne with lastKick := s.atCompare.clk.cycle } := by
  simp only [State.atCompare, State.kickCox, State.modLne_lne, State.modLne_frame, State.runToFleet_frame]

theorem State.atCompare_stopped : s.atCompare.lne.stopped = s.lne.stopped := by rw [State.atCompare_lne]
theorem State.atCompare_driving : s.atCompare.lne.driving = s.lne.driving := by rw [State.atCompare_lne]
theorem State.atCompare_laneIn (l : Fin 2) : s.atCompare.laneIn l = s.laneIn l := by rw [State.laneIn, State.atCompare_lne, State.laneIn]
theorem State.atCompare_recsAgree (a b : Option (Vector Word 28)) (landing : DWord) :
    s.atCompare.recsAgree a b landing = s.recsAgree a b landing := by
  unfold State.recsAgree
  rw [State.atCompare_lne]

section
variable {a b : Option (Vector Word 28)} {landing : DWord}

/-- `STOPPED` makes the comparison idle (log entry 100). -/
theorem State.compareTick_stopped (h : s.lne.stopped = true) : s.compareTick a b landing = s := if_pos h

/-- With Cox running and both lanes in step the two records are compared. -/
theorem State.compareTick_both (h : s.lne.stopped = false) (hl : s.laneIn 0 = true ∧ s.laneIn 1 = true) :
    s.compareTick a b landing = if s.recsAgree a b landing = true then s.tickMatch (recWords a) else s.tickMismatch a b landing := by
  obtain ⟨h0, h1⟩ := hl
  rw [State.compareTick, h, h0, h1]
  rfl

/-- With one lane in step the referee checks the driving lane's record. -/
theorem State.compareTick_alone (h : s.lne.stopped = false) (hl : ¬ (s.laneIn 0 = true ∧ s.laneIn 1 = true)) :
    s.compareTick a b landing =
      let w := if s.lne.driving = true then b else a
      if s.referee (laneOf s.lne.driving) w landing = 0 then s.tickMatch (recWords w) else s.discardGated.coxStop := by
  rw [State.compareTick, h, if_neg Bool.false_ne_true, if_neg (by rwa [Bool.and_eq_true])]

/-- A mismatch is counted, recorded and announced before the referee looks at the records. -/
def State.mismatchNoted (a b : Option (Vector Word 28)) (s : State) : State :=
  (s.modLne fun x => { x with cntMismatch := satInc x.cntMismatch, record := #v[recWords a, recWords b] }).raise .lne 0

/-- A cause in one lane alone is a verdict against that lane; otherwise Cox stops, and a drill ends. -/
theorem State.tickMismatch_eq :
    s.tickMismatch a b landing =
      let u := s.mismatchNoted a b
      let t := u.discardGated
      if u.referee 0 a landing ≠ 0 ∧ u.referee 1 b landing = 0 then t.verdict 0 (u.referee 0 a landing) b
      else if u.referee 0 a landing = 0 ∧ u.referee 1 b landing ≠ 0 then t.verdict 1 (u.referee 1 b landing) a
      else if t.lne.drillLeft = 0 then t.coxStop else t.coxStop.drillEnd false t.coxStop.lne.driving := by
  rw [State.tickMismatch, ← State.mismatchNoted]
  simp only [Bool.and_eq_true, decide_eq_true_eq]

end

section
variable {p q : Option TickRec} {landed : List (Word × Word)} (hs : s.supplied = true) (hr : s.pwr.controlReady = true)
  (hk : s.lne.ticked = true) (hc : s.lne.coxDead = false)
include hs hr hk hc

theorem exec_tickCompare :
    exec (.tickCompare p q landed) s =
      .next (s.atCompare.compareTick (p.map tickRecWords) (q.map tickRecWords) (writeDigest landed)) := by
  show execTickCompare p q landed s = _
  rw [execTickCompare, State.live_supplied _ hs, hr, hk, hc]
  rfl

theorem exec_tickCompare_stopped (h : s.lne.stopped = true) : exec (.tickCompare p q landed) s = .next s.atCompare := by
  rw [exec_tickCompare hs hr hk hc, State.compareTick_stopped (State.atCompare_stopped.trans h)]

theorem exec_tickCompare_both (h : s.lne.stopped = false) (hl : s.laneIn 0 = true ∧ s.laneIn 1 = true) :
    exec (.tickCompare p q landed) s = .next (
      if s.recsAgree (p.map tickRecWords) (q.map tickRecWords) (writeDigest landed) = true
      then s.atCompare.tickMatch (recWords (p.map tickRecWords))
      else s.atCompare.tickMismatch (p.map tickRecWords) (q.map tickRecWords) (writeDigest landed)) := by
  rw [exec_tickCompare hs hr hk hc, State.compareTick_both (State.atCompare_stopped.trans h) (by simpa only [State.atCompare_laneIn] using hl),
    State.atCompare_recsAgree]

theorem exec_tickCompare_alone (h : s.lne.stopped = false) (hl : ¬ (s.laneIn 0 = true ∧ s.laneIn 1 = true)) :
    exec (.tickCompare p q landed) s = .next (
      let w := if s.lne.driving = true then q.map tickRecWords else p.map tickRecWords
      if s.atCompare.referee (laneOf s.lne.driving) w (writeDigest landed) = 0 then s.atCompare.tickMatch (recWords w)
      else s.atCompare.discardGated.coxStop) := by
  rw [exec_tickCompare hs hr hk hc, State.compareTick_alone (State.atCompare_stopped.trans h) (by simpa only [State.atCompare_laneIn] using hl),
    State.atCompare_driving]

end

/-! ### Stopping (11 R282, R283) -/

/-- The tokens stop as soon as every outlet has stopped under a live Cox, otherwise 20 ms after the stop. -/
theorem exec_tokenGateStop (hs : s.supplied = true) (ht : s.lne.tokenStopped = false) (hx : s.lne.stopped = true ∨ s.lne.coxDead = true) :
    exec .tokenGateStop s =
      .next ((if s.allStopped = true ∧ s.lne.coxDead = false then s else s.runTo (s.lne.stoppedAt + ms 20)).modLne fun x =>
        { x with tokenStopped := true }) := by
  show execTokenGateStop s = _
  rw [execTokenGateStop, State.live_supplied _ hs, if_neg (by simpa [ht, or_iff_not_imp_left] using hx)]
  simp only [Bool.and_eq_true, Bool.not_eq_true']

/-- Without comparison the held writes land, but for the closes (log entry 65). -/
theorem exec_coxDead (hs : s.supplied = true) (hr : s.pwr.controlReady = true) (hc : s.lne.coxDead = false) :
    exec .coxDead s = .next (
      let t := (s.runTo (s.lne.lastKick + us 100)).releaseUnchecked
      (t.modLne fun x =>
        { x with coxDead := true, stopAll := true, stoppedAt := if x.stopped = true then x.stoppedAt else t.clk.cycle }).raise .lne 5) := by
  show execCoxDead s = _
  rw [execCoxDead, State.live_supplied _ hs, hr, hc]
  rfl

/-- Settles O38: a comparison by the lanes in step and what the records say, the stop of the tokens and the death of Cox by their instants. -/
theorem coxComparesAndTheRefereeJudges : Obligations.CoxComparesAndTheRefereeJudges := by
  unfold Obligations.CoxComparesAndTheRefereeJudges
  intro s hs
  refine ⟨fun p q landed hr hk hc => ⟨exec_tickCompare_stopped hs hr hk hc, fun h hl ha => ?agreed, fun h hl ha => ?mismatch,
    fun h hl => ⟨fun hf => ?faulted, fun hf => ?upheld⟩⟩, exec_tokenGateStop hs, exec_coxDead hs⟩
  case agreed => exact (exec_tickCompare_both hs hr hk hc h hl).trans (congrArg _ (if_pos ha))
  case mismatch =>
    exact (exec_tickCompare_both hs hr hk hc h hl).trans
      (congrArg _ ((if_neg (Bool.eq_false_iff.mp ha)).trans State.tickMismatch_eq))
  case faulted => exact (exec_tickCompare_alone hs hr hk hc h hl).trans (congrArg _ (if_neg hf))
  case upheld => exact (exec_tickCompare_alone hs hr hk hc h hl).trans (congrArg _ (if_pos hf))

end Sys2Proof.Machine
end

section
/-! Takeover, restart and resynchronisation of the lanes, the lane-swap drill and the lane descriptors (11 R281, R284-R289). -/
namespace Sys2Proof.Machine

variable {s : State}

/-! ### Takeover, restart and resynchronisation (11 R281, R284, R285) -/

section
variable (hs : s.supplied = true)
include hs

theorem exec_laneTakeover_named (hn : s.lne.nextDriving.isSome = true) :
    exec .laneTakeover s = .next ((s.runToFleet (s.nextTick * Config.tickNs)).takeOver) :=
  (State.live_supplied _ hs).trans (congrArg _ (if_pos hn))

theorem exec_laneTakeover_unnamed (hn : s.lne.nextDriving = none) : exec .laneTakeover s = .next s :=
  (State.live_supplied _ hs).trans (congrArg _ (if_neg (by rw [hn]; exact Bool.false_ne_true)))

section
variable {lane : Fin 2} (hst : s.lne.state.get lane = .restarting)

theorem exec_restartComplete_failed : exec (.restartComplete lane false) s = .next s := by
  show execRestartComplete lane false s = _
  rw [execRestartComplete, State.live_supplied _ hs, if_pos (by simp)]

include hst

/-- A self-test that passed ends the restart by the number of restarts within the last second. -/
theorem exec_restartComplete_passed :
    exec (.restartComplete lane true) s = .next (
      if 3 ≤ ((s.lne.restartTimes.get lane).filter fun t => decide (s.clk.cycle < t + sec 1)).length then s.laneDead lane
      else s.modLne fun x =>
        { x with state := vmod x.state lane fun _ => .resync, since := vmod x.since lane fun _ => s.nextTick }) := by
  show execRestartComplete lane true s = _
  rw [execRestartComplete, State.live_supplied _ hs, if_neg (by simp [hst])]

theorem exec_restartTimeout :
    exec (.restartTimeout lane) s = .next ((s.runTo (s.lne.since.get lane + ms 10)).laneDead lane) :=
  (State.live_supplied _ hs).trans (congrArg _ (if_pos hst))

end

/-- Running time leaves the lanes' memories as they are, so the copy is of the region as it was sealed. -/
theorem exec_resynced {lane : Fin 2} (hst : s.lne.state.get lane = .resync) :
    exec (.resynced lane) s =
      .next ((((s.runToFleet ((s.lne.since.get lane + 1) * Config.tickNs)).modSram (laneGroup lane) fun _ =>
        s.sram.get (laneGroup (laneOf s.lne.driving)).idx).modLne fun x =>
          { x with state := vmod x.state lane fun _ => .inStep, resyncFlag := true }).raise .lne 3) := by
  show execResynced lane s = _
  rw [execResynced, State.live_supplied _ hs, if_neg (by simp [hst])]
  simp only [State.sramCopy, State.runToFleet_frame]

end

/-! ### The lane-swap drill and the lane descriptors (11 R286, R288, R289) -/

/-- The first tick start at or after the not-before time of a drill. -/
def State.atDrill (due : Nat) (s : State) : State := (s.runTo due).runToFleet ((s.runTo due).nextTick * Config.tickNs)

theorem State.atDrill_laneIn (due : Nat) (l : Fin 2) : (s.atDrill due).laneIn l = s.laneIn l := by
  simp only [State.atDrill, State.laneIn, State.runToFleet_frame, State.runTo_frame]

/-- With both lanes in step the standby lane drives for 8 ticks; the verdict in force stays. -/
theorem exec_drillTick_inStep {r : Ring} {q : DWord} {due : Nat} (hs : s.supplied = true) (hd : s.lne.drill = some (r, q, due))
    (hn : s.lne.drillLeft = 0) (hr : s.pwr.controlReady = true) (h0 : s.laneIn 0 = true) (h1 : s.laneIn 1 = true) :
    exec .drillTick s = .next (
      let t := s.atDrill due
      (((t.modLne fun x => { x with last := 0 }).nameLane !t.lne.driving).takeOver).modLne fun x =>
        { x with last := t.lne.last, drillLeft := 8, drillStart := t.now, cntDrill := satInc x.cntDrill }) := by
  have hin : ((s.atDrill due).laneIn 0 && (s.atDrill due).laneIn 1) = true := by
    rw [State.atDrill_laneIn, State.atDrill_laneIn, h0, h1, Bool.and_true]
  show execDrillTick s = _
  rw [execDrillTick, State.live_supplied _ hs, hd]
  exact congrArg _ ((if_neg (by simp [hn, hr])).trans (if_pos hin))

section
variable {r : Ring} {d : Desc} (hd : s.due r d = true)
include hd

theorem exec_lneSwapDrill_first (h : s.lne.drill = none) :
    exec (.lneSwapDrill r d) s = .next ((s.takeUp r d).modLne fun x => { x with drill := some (r, d.seq, s.clk.cycle) }) := by
  have hn : (s.takeUp r d).lne.drill = none := h
  show execLneSwapDrill r d s = _
  rw [execLneSwapDrill, State.work_due _ hd, hn]
  rfl

/-- With a drill pending a second one completes at once as failed, which is the choice of the model. -/
theorem exec_lneSwapDrill_pending (h : s.lne.drill.isSome = true) :
    exec (.lneSwapDrill r d) s = .next ((s.takeUp r d).complete r d.seq 1 (if s.lne.driving = true then 1 else 0)) := by
  show execLneSwapDrill r d s = _
  rw [execLneSwapDrill, State.work_due _ hd]
  exact congrArg _ (if_pos h)

section
variable {lane : Fin 2} (hl : (d.b 24).toNat = lane.val)
include hl

/-- LNE_LANE_RESTORE of a lane, with its refusal still evaluated at the take-up. -/
theorem exec_lneLaneRestore :
    exec (.lneLaneRestore r d) s = .next (
      (if s.refLaneRestore lane = true then s.takeUp r d
       else ((s.takeUp r d).modLne fun x => { x with restartTimes := vmod x.restartTimes lane fun _ => [] }).restartLane lane).complete r d.seq 0 0) := by
  have hlane : (Fin.ofNat 2 (d.b 24).toNat : Fin 2) = lane := by rw [hl]; exact Fin.ofNat_val_eq_self lane
  show execLneLaneRestore r d s = _
  rw [execLneLaneRestore, State.work_due _ hd, hlane]
  rfl

theorem exec_lneLaneRestore_dead (hst : s.lne.state.get lane = .dead) (hn : s.lne.stopped = false) :
    exec (.lneLaneRestore r d) s = .next (
      (((s.takeUp r d).modLne fun x => { x with restartTimes := vmod x.restartTimes lane fun _ => [] }).restartLane lane).complete r d.seq 0 0) := by
  rw [exec_lneLaneRestore hd hl, if_neg (by simp [State.refLaneRestore, hst, hn])]

/-- Where the restore would be refused it only completes (log entry 97). -/
theorem exec_lneLaneRestore_refused (h : s.lne.state.get lane ≠ .dead ∨ s.lne.stopped = true) :
    exec (.lneLaneRestore r d) s = .next ((s.takeUp r d).complete r d.seq 0 0) := by
  rw [exec_lneLaneRestore hd hl, if_pos (by simpa [State.refLaneRestore] using h)]

end

end

/-- Settles O39: each happening by the lane's state, the drill by the lanes in step at its tick, the descriptors at their take-up. -/
theorem lanesRestartResyncAndDrill : Obligations.LanesRestartResyncAndDrill := by
  unfold Obligations.LanesRestartResyncAndDrill
  intro s
  refine ⟨fun hs => ⟨exec_laneTakeover_named hs, exec_laneTakeover_unnamed hs,
    fun lane hst => ⟨fun h3 => ?third, fun h3 => ?fewer, exec_restartComplete_failed hs, exec_restartTimeout hs hst⟩,
    fun lane hst => exec_resynced hs hst,
    fun r q due hd hn hr h0 h1 => exec_drillTick_inStep hs hd hn hr h0 h1⟩,
    fun r d hd => ⟨exec_lneSwapDrill_first hd, exec_lneSwapDrill_pending hd,
      fun lane hl => ⟨exec_lneLaneRestore_dead hd hl, exec_lneLaneRestore_refused hd hl⟩⟩⟩
  case third => exact (exec_restartComplete_passed hs hst).trans (congrArg _ (if_pos h3))
  case fewer => exact (exec_restartComplete_passed hs hst).trans (congrArg _ (if_neg (Nat.not_le.mpr h3)))

end Sys2Proof.Machine
end

section
/-! The control tick and the end of a housekeeping round (11 R272; 09 R220). -/
namespace Sys2Proof.Machine

variable {s : State}

/-! ### The next tick and the next round end -/

theorem ceilDiv_le_iff {a b k : Nat} (hb : 0 < b) : ceilDiv a b ≤ k ↔ a ≤ k * b := by
  rw [ceilDiv, Nat.div_le_iff_le_mul_add_pred hb, Nat.mul_comm]
  omega

/-- The ticks at or behind the next one are those that start at or after now and have not been taken. -/
theorem State.nextTick_le_iff {k : Nat} :
    s.nextTick ≤ k ↔ s.now ≤ k * Config.tickNs ∧ (s.lne.ticked = true → s.lne.tick < k) := by
  rw [State.nextTick, max_le_iff, ceilDiv_le_iff (by decide)]
  refine and_congr_right fun _ => ?_
  split
  case isTrue h => simp [h]
  case isFalse h => simp [h]

/-- The next tick is the least such one. -/
theorem State.nextTick_eq {k : Nat} (hn : s.now ≤ k * Config.tickNs) (ht : s.lne.ticked = true → s.lne.tick < k)
    (hk : ∀ j, s.now ≤ j * Config.tickNs → (s.lne.ticked = true → s.lne.tick < j) → k ≤ j) : s.nextTick = k := by
  obtain ⟨hnow, htick⟩ := State.nextTick_le_iff.mp (le_refl s.nextTick)
  exact le_antisymm (State.nextTick_le_iff.mpr ⟨hn, ht⟩) (hk _ hnow htick)

/-- A round ends now where now is its end and has not been noted; otherwise the round in progress ends next. -/
theorem State.nextHk_eq {k : Nat} (h0 : s.now % Config.hkNs = 0 ∧ s.thm.hkEnd < s.now / Config.hkNs → k = s.now / Config.hkNs)
    (h1 : s.now % Config.hkNs ≠ 0 ∨ s.now / Config.hkNs ≤ s.thm.hkEnd → k = s.now / Config.hkNs + 1) : s.nextHk = k := by
  rw [State.nextHk]
  split
  case isTrue h => exact (h0 (by simpa using h)).symm
  case isFalse h => exact (h1 (by simpa [imp_iff_not_or] using h)).symm

/-! ### The two clocked steps -/

/-- What every tick does before the lanes: time and number, the metrology record, the samples, the inputs, the battery, the token (log
entry 26). -/
def State.tickBegun (inp : TickIn) (k : Nat) (s : State) : State :=
  let t := (s.runToFleet (k * Config.tickNs)).modLne fun l => { l with tick := k, ticked := true }
  ((((if t.bil.legalUp = true then t.liveRecord k else t).sampleTick inp.sense).latchInputs inp).batTick).tokenTick

/-- The lanes act only while the control plane is ready, the safety block at every tick (log entry 131). -/
theorem exec_controlTick (hs : s.supplied = true) (inp : TickIn) :
    exec (.controlTick inp) s = .next (
      if (s.tickBegun inp s.nextTick).pwr.controlReady = true
      then ((s.tickBegun inp s.nextTick).lanesTick s.nextTick).safetyTick.flushTrig
      else (s.tickBegun inp s.nextTick).safetyTick.flushTrig) := by
  show execControlTick inp s = _
  rw [execControlTick, State.live_supplied _ hs]
  dsimp only
  rw [← State.tickBegun]
  split <;> rfl

/-- The code of the proximity input is taken for the fitted outlets of kind 0 (log entry 164). -/
theorem exec_housekeepingRoundEnd (hs : s.supplied = true) (inp : HkIn) :
    exec (.housekeepingRoundEnd inp) s = .next (
      let t := (s.runToFleet (s.nextHk * Config.hkNs)).modThm fun x => { x with hkEnd := s.nextHk }
      (((((t.thermalRound inp).laneTerms).batRound).forAll fun (o : Outlet) u =>
        u.modOut o fun x =>
          { x with ppCode := if ((u.outCfg o).any fun c => c.kind == 0) = true then Config.cableCoding (inp.pp.get o) else 0 }).diaRound inp)) := by
  show execHousekeepingRoundEnd inp s = _
  rw [execHousekeepingRoundEnd, State.live_supplied _ hs]
  dsimp only
  congr 3
  funext o u
  cases u.outCfg o <;> rfl

/-- Settles O60: the next tick and the next round end are the ones that the statement describes; the lanes' part is a branch of the tick. -/
theorem ticksAndHousekeepingRoundsRun : Obligations.TicksAndHousekeepingRoundsRun := by
  unfold Obligations.TicksAndHousekeepingRoundsRun
  intro s hs
  refine ⟨fun inp k hn ht hk => ?tick, fun inp k h0 h1 => ?round⟩
  case tick =>
    have hexec := exec_controlTick hs inp
    rw [State.nextTick_eq hn ht hk] at hexec
    exact ⟨fun hr => hexec.trans (congrArg _ (if_pos hr)), fun hr => hexec.trans (congrArg _ (if_neg (Bool.eq_false_iff.mp hr)))⟩
  case round =>
    have hexec := exec_housekeepingRoundEnd hs inp
    rwa [State.nextHk_eq h0 h1] at hexec

end Sys2Proof.Machine
end

section
/-! What every command keeps: it is answered by a next state, which keeps the queue, the variant and the canonical form of the stores. -/
namespace Sys2Proof.Machine

variable {s t : State}

/-- Each command keeps what Laws/Keeps*.lean says of its meaning: one arm for each arm of `exec`. -/
theorem exec_keeps : ∀ (c : Instr) (s : State), KeepsO s (exec c s)
  | .controlTick inp, s => execControlTick_keeps inp s (.refl s)
  | .recordExpired o, s => execRecordExpired_keeps o s (.refl s)
  | .demandWrite m o len offset d, s => execDemandWrite_keeps m o len offset d s (.refl s)
  | .housekeepingRoundEnd inp, s => execHousekeepingRoundEnd_keeps inp s (.refl s)
  | .upSend, s => execUpSend_keeps s (.refl s)
  | .upReceive p h u, s => execUpReceive_keeps p h u s (.refl s)
  | .search, s => execSearch_keeps s (.refl s)
  | .downReceive p h d, s => execDownReceive_keeps p h d s (.refl s)
  | .downEvaluate, s => execDownEvaluate_keeps s (.refl s)
  | .applyInstant, s => execApplyInstant_keeps s (.refl s)
  | .clampTransfer, s => execClampTransfer_keeps s (.refl s)
  | .mirrorReceive p h m, s => execMirrorReceive_keeps p h m s (.refl s)
  | .umpireDecide, s => execUmpireDecide_keeps s (.refl s)
  | .takeover, s => execTakeover_keeps s (.refl s)
  | .treeSwitch, s => execTreeSwitch_keeps s (.refl s)
  | .drillRound, s => execDrillRound_keeps s (.refl s)
  | .curtailChange samples, s => execCurtailChange_keeps samples s (.refl s)
  | .alcSetCap r d, s => execAlcSetCap_keeps r d s (.refl s)
  | .alcDrill r d, s => execAlcDrill_keeps r d s (.refl s)
  | .alcTakeover r d, s => execAlcTakeover_keeps r d s (.refl s)
  | .alcRoleRestore r d, s => execAlcRoleRestore_keeps r d s (.refl s)
  | .alcHoldClear r d, s => execAlcHoldClear_keeps r d s (.refl s)
  | .probeSend triggered, s => execProbeSend_keeps triggered s (.refl s)
  | .probeReceive p h b, s => execProbeReceive_keeps p h b s (.refl s)
  | .portEnWrite m p w, s => execPortEnWrite_keeps m p w s (.refl s)
  | .syncAcquired p aligned groups, s => execSyncAcquired_keeps p aligned groups s (.refl s)
  | .syncLost p los codeErrs, s => execSyncLost_keeps p los codeErrs s (.refl s)
  | .neighbourSilent p, s => execNeighbourSilent_keeps p s (.refl s)
  | .portActive p, s => execPortActive_keeps p s (.refl s)
  | .frameForward p h body, s => execFrameForward_keeps p h body s (.refl s)
  | .cfgSegmentReceive p h kind msgId index count bytes, s => execCfgSegmentReceive_keeps p h kind msgId index count bytes s (.refl s)
  | .cfgMessageTimeout, s => execCfgMessageTimeout_keeps s (.refl s)
  | .join identity, s => execJoin_keeps identity s (.refl s)
  | .joinRepeat identity, s => execJoinRepeat_keeps identity s (.refl s)
  | .joinReceive p h b, s => execJoinReceive_keeps p h b s (.refl s)
  | .joinAck id round, s => execJoinAck_keeps id round s (.refl s)
  | .joinRefuse id reason, s => execJoinRefuse_keeps id reason s (.refl s)
  | .admissionRound, s => execAdmissionRound_keeps s (.refl s)
  | .leave p h b, s => execLeave_keeps p h b s (.refl s)
  | .leaveAck id round, s => execLeaveAck_keeps id round s (.refl s)
  | .memberRemoved id, s => execMemberRemoved_keeps id s (.refl s)
  | .timeOffsetUpdate p t1 t2 t3 t4, s => execTimeOffsetUpdate_keeps p t1 t2 t3 t4 s (.refl s)
  | .timeHoldover, s => execTimeHoldover_keeps s (.refl s)
  | .crewForm, s => execCrewForm_keeps s (.refl s)
  | .taiCheck, s => execTaiCheck_keeps s (.refl s)
  | .taiCorrectionApply, s => execTaiCorrectionApply_keeps s (.refl s)
  | .ppsEdge, s => execPpsEdge_keeps s (.refl s)
  | .ptpMessage mgmtPort domain m, s => execPtpMessage_keeps mgmtPort domain m s (.refl s)
  | .cfgStage r d, s => execCfgStage_keeps r d s (.refl s)
  | .stageVerifyDone sigOk, s => execStageVerifyDone_keeps sigOk s (.refl s)
  | .cfgActivate r d, s => execCfgActivate_keeps r d s (.refl s)
  | .cfgStageCancel r d, s => execCfgStageCancel_keeps r d s (.refl s)
  | .stageReport, s => execStageReport_keeps s (.refl s)
  | .stageReportReceive h status pair, s => execStageReportReceive_keeps h status pair s (.refl s)
  | .activationTimeout, s => execActivationTimeout_keeps s (.refl s)
  | .announce, s => execAnnounce_keeps s (.refl s)
  | .announceReceive h pair round, s => execAnnounceReceive_keeps h pair round s (.refl s)
  | .adopted, s => execAdopted_keeps s (.refl s)
  | .catchUp, s => execCatchUp_keeps s (.refl s)
  | .pwmShadowWrite m n reg w, s => execPwmShadowWrite_keeps m n reg w s (.refl s)
  | .pwmCommit m n w, s => execPwmCommit_keeps m n w s (.refl s)
  | .pwmGroupCommit m w, s => execPwmGroupCommit_keeps m w s (.refl s)
  | .pwmStart m w, s => execPwmStart_keeps m w s (.refl s)
  | .pwmCtrlWrite m n w, s => execPwmCtrlWrite_keeps m n w s (.refl s)
  | .pwmDtMinWrite m w, s => execPwmDtMinWrite_keeps m w s (.refl s)
  | .pwmAuxCommit m a w, s => execPwmAuxCommit_keeps m a w s (.refl s)
  | .pwmAuxCtrlWrite m a w, s => execPwmAuxCtrlWrite_keeps m a w s (.refl s)
  | .pendingTransfer c, s => execPendingTransfer_keeps c s (.refl s)
  | .periodBoundary c samples, s => execPeriodBoundary_keeps c samples s (.refl s)
  | .comparatorTrip n tm sense, s => execComparatorTrip_keeps n tm sense s (.refl s)
  | .dmaxLimit n, s => execDmaxLimit_keeps n s (.refl s)
  | .regApplyArm m w, s => execRegApplyArm_keeps m w s (.refl s)
  | .regCtrlWrite m n w, s => execRegCtrlWrite_keeps m n w s (.refl s)
  | .regPhaseRestore r d, s => execRegPhaseRestore_keeps r d s (.refl s)
  | .overcurrent n a b, s => execOvercurrent_keeps n a b s (.refl s)
  | .trackError o, s => execTrackError_keeps o s (.refl s)
  | .rampTimeout o, s => execRampTimeout_keeps o s (.refl s)
  | .pauseTimeout o, s => execPauseTimeout_keeps o s (.refl s)
  | .outEnable r d, s => execOutEnable_keeps r d s (.refl s)
  | .outDisable r d, s => execOutDisable_keeps r d s (.refl s)
  | .outStop r d, s => execOutStop_keeps r d s (.refl s)
  | .outFaultClear r d, s => execOutFaultClear_keeps r d s (.refl s)
  | .outSessionCap r d, s => execOutSessionCap_keeps r d s (.refl s)
  | .pilotChange idx samples, s => execPilotChange_keeps idx samples s (.refl s)
  | .cableCheckDone o, s => execCableCheckDone_keeps o s (.refl s)
  | .cableCheckTimeout o, s => execCableCheckTimeout_keeps o s (.refl s)
  | .prechargeTimeout o, s => execPrechargeTimeout_keeps o s (.refl s)
  | .contactorDeadline o, s => execContactorDeadline_keeps o s (.refl s)
  | .contactorFeedback o plus minus, s => execContactorFeedback_keeps o plus minus s (.refl s)
  | .stopRampEnd o, s => execStopRampEnd_keeps o s (.refl s)
  | .weldCheck o, s => execWeldCheck_keeps o s (.refl s)
  | .weldCheckTimeout o, s => execWeldCheckTimeout_keeps o s (.refl s)
  | .imdAlarm o, s => execImdAlarm_keeps o s (.refl s)
  | .moveCurrentZero n, s => execMoveCurrentZero_keeps n s (.refl s)
  | .moveTimeout n, s => execMoveTimeout_keeps n s (.refl s)
  | .matrixFeedback k closed, s => execMatrixFeedback_keeps k closed s (.refl s)
  | .reversalCurrentZero o, s => execReversalCurrentZero_keeps o s (.refl s)
  | .vehicleMessage o msg, s => execVehicleMessage_keeps o msg s (.refl s)
  | .protoSelected o offered, s => execProtoSelected_keeps o offered s (.refl s)
  | .slacMatch o mean, s => execSlacMatch_keeps o mean s (.refl s)
  | .slacFail o, s => execSlacFail_keeps o s (.refl s)
  | .tlsFail o, s => execTlsFail_keeps o s (.refl s)
  | .recordRefresh o, s => execRecordRefresh_keeps o s (.refl s)
  | .authTimeout o, s => execAuthTimeout_keeps o s (.refl s)
  | .loopTimeout o, s => execLoopTimeout_keeps o s (.refl s)
  | .chargerFrameSend o, s => execChargerFrameSend_keeps o s (.refl s)
  | .vclSessionNextRead m, s => execVclSessionNextRead_keeps m s (.refl s)
  | .vclSessionPolicy r d, s => execVclSessionPolicy_keeps r d s (.refl s)
  | .vclAuth r d, s => execVclAuth_keeps r d s (.refl s)
  | .vclFetch r d, s => execVclFetch_keeps r d s (.refl s)
  | .vclCertResponse r d, s => execVclCertResponse_keeps r d s (.refl s)
  | .vclSchedule r d, s => execVclSchedule_keeps r d s (.refl s)
  | .vclStationChain r d, s => execVclStationChain_keeps r d s (.refl s)
  | .drivePoll n, s => execDrivePoll_keeps n s (.refl s)
  | .driveResponse n flow temp, s => execDriveResponse_keeps n flow temp s (.refl s)
  | .driveResponseTimeout n, s => execDriveResponseTimeout_keeps n s (.refl s)
  | .flowFault l, s => execFlowFault_keeps l s (.refl s)
  | .dieTrip temp, s => execDieTrip_keeps temp s (.refl s)
  | .safSeoDemand r d, s => execSafSeoDemand_keeps r d s (.refl s)
  | .safStoDemand r d, s => execSafStoDemand_keeps r d s (.refl s)
  | .safSiteStop r d, s => execSafSiteStop_keeps r d s (.refl s)
  | .safReset r d, s => execSafReset_keeps r d s (.refl s)
  | .estop e a b held, s => execEstop_keeps e a b held s (.refl s)
  | .estopDiscrepancy e, s => execEstopDiscrepancy_keeps e s (.refl s)
  | .contactorRelease o, s => execContactorRelease_keeps o s (.refl s)
  | .permitLost o, s => execPermitLost_keeps o s (.refl s)
  | .genFault n pad, s => execGenFault_keeps n pad s (.refl s)
  | .stoFault a padA padB, s => execStoFault_keeps a padA padB s (.refl s)
  | .brkPulseEnd, s => execBrkPulseEnd_keeps s (.refl s)
  | .imdFault o, s => execImdFault_keeps o s (.refl s)
  | .heartbeatSend triggered, s => execHeartbeatSend_keeps triggered s (.refl s)
  | .heartbeatReceive p h f, s => execHeartbeatReceive_keeps p h f s (.refl s)
  | .releaseAnnounceEnd origin, s => execReleaseAnnounceEnd_keeps origin s (.refl s)
  | .connExpired p, s => execConnExpired_keeps p s (.refl s)
  | .acdFrameSend a, s => execAcdFrameSend_keeps a s (.refl s)
  | .acdFrameReceive a f, s => execAcdFrameReceive_keeps a f s (.refl s)
  | .tickTokenLost, s => execTickTokenLost_keeps s (.refl s)
  | .supplyFault x, s => execSupplyFault_keeps x s (.refl s)
  | .supplyRecovered x, s => execSupplyRecovered_keeps x s (.refl s)
  | .rootLost gap locked, s => execRootLost_keeps gap locked s (.refl s)
  | .driftCheck edges, s => execDriftCheck_keeps edges s (.refl s)
  | .xtalFail freq, s => execXtalFail_keeps freq s (.refl s)
  | .clockFaultReset, s => execClockFaultReset_keeps s (.refl s)
  | .tickCompare a b landed, s => execTickCompare_keeps a b landed s (.refl s)
  | .laneTakeover, s => execLaneTakeover_keeps s (.refl s)
  | .tokenGateStop, s => execTokenGateStop_keeps s (.refl s)
  | .coxDead, s => execCoxDead_keeps s (.refl s)
  | .restartComplete lane ok, s => execRestartComplete_keeps lane ok s (.refl s)
  | .restartTimeout lane, s => execRestartTimeout_keeps lane s (.refl s)
  | .resynced lane, s => execResynced_keeps lane s (.refl s)
  | .drillTick, s => execDrillTick_keeps s (.refl s)
  | .lneSwapDrill r d, s => execLneSwapDrill_keeps r d s (.refl s)
  | .lneLaneRestore r d, s => execLneLaneRestore_keeps r d s (.refl s)
  | .secondBoundary, s => execSecondBoundary_keeps s (.refl s)
  | .sessionEvent o start, s => execSessionEvent_keeps o start s (.refl s)
  | .gridWindowEnd g, s => execGridWindowEnd_keeps g s (.refl s)
  | .laneFault n bits, s => execLaneFault_keeps n bits s (.refl s)
  | .laneClear n, s => execLaneClear_keeps n s (.refl s)
  | .reversedSensor idx, s => execReversedSensor_keeps idx s (.refl s)
  | .darkBurst samples, s => execDarkBurst_keeps samples s (.refl s)
  | .metCapture r d, s => execMetCapture_keeps r d s (.refl s)
  | .captureDone, s => execCaptureDone_keeps s (.refl s)
  | .intervalEnd, s => execIntervalEnd_keeps s (.refl s)
  | .clockStep, s => execClockStep_keeps s (.refl s)
  | .receiptReady number signed verified, s => execReceiptReady_keeps number signed verified s (.refl s)
  | .bilTariffSet r d, s => execBilTariffSet_keeps r d s (.refl s)
  | .bilReceiptFetch r d, s => execBilReceiptFetch_keeps r d s (.refl s)
  | .bilExport r d, s => execBilExport_keeps r d s (.refl s)
  | .bilErase r d, s => execBilErase_keeps r d s (.refl s)
  | .displayDwell o, s => execDisplayDwell_keeps o s (.refl s)
  | .displayPoll o, s => execDisplayPoll_keeps o s (.refl s)
  | .displayAnswer o bytes, s => execDisplayAnswer_keeps o bytes s (.refl s)
  | .tamper y low held, s => execTamper_keeps y low held s (.refl s)
  | .stepMeasurement v1 i1 v2 i2 spread, s => execStepMeasurement_keeps v1 i1 v2 i2 spread s (.refl s)
  | .heldDone, s => execHeldDone_keeps s (.refl s)
  | .heldStepStart, s => execHeldStepStart_keeps s (.refl s)
  | .batteryEnd, s => execBatteryEnd_keeps s (.refl s)
  | .batteryHistoryWrite, s => execBatteryHistoryWrite_keeps s (.refl s)
  | .bakEstimate, s => execBakEstimate_keeps s (.refl s)
  | .batHeldStep r d, s => execBatHeldStep_keeps r d s (.refl s)
  | .batShip r d, s => execBatShip_keeps r d s (.refl s)
  | .ringDbSq m r p, s => execRingDbSq_keeps m r p s (.refl s)
  | .ringDbCq m r c, s => execRingDbCq_keeps m r c s (.refl s)
  | .ringCtrlWrite m r w, s => execRingCtrlWrite_keeps m r w s (.refl s)
  | .busMasterEnable f on, s => execBusMasterEnable_keeps f on s (.refl s)
  | .drainDone r, s => execDrainDone_keeps r s (.refl s)
  | .descriptorDecide r d contentOk, s => execDescriptorDecide_keeps r d contentOk s (.refl s)
  | .acceptanceCommit r verified, s => execAcceptanceCommit_keeps r verified s (.refl s)
  | .notBeforeReached r seq, s => execNotBeforeReached_keeps r seq s (.refl s)
  | .completionWrite r, s => execCompletionWrite_keeps r s (.refl s)
  | .ringNop r d, s => execRingNop_keeps r d s (.refl s)
  | .ringFence r d, s => execRingFence_keeps r d s (.refl s)
  | .irqModerationTimer v, s => execIrqModerationTimer_keeps v s (.refl s)
  | .journalRetry verified, s => execJournalRetry_keeps verified s (.refl s)
  | .rgtTimeOfDay r d, s => execRgtTimeOfDay_keeps r d s (.refl s)
  | .rgtTunnelSend r d, s => execRgtTunnelSend_keeps r d s (.refl s)
  | .rgtTunnelRecv r d, s => execRgtTunnelRecv_keeps r d s (.refl s)
  | .tunnelReceive p h channel msgId index count length bytes, s => execTunnelReceive_keeps p h channel msgId index count length bytes s (.refl s)
  | .tunnelTimeout, s => execTunnelTimeout_keeps s (.refl s)
  | .tunnelRecvTimeout, s => execTunnelRecvTimeout_keeps s (.refl s)
  | .functionLevelReset f, s => execFunctionLevelReset_keeps f s (.refl s)
  | .windowAccess m g write addr bytes, s => execWindowAccess_keeps m g write addr bytes s (.refl s)
  | .winClaim r d, s => execWinClaim_keeps r d s (.refl s)
  | .winRelease r d, s => execWinRelease_keeps r d s (.refl s)
  | .winPartWrite m w, s => execWinPartWrite_keeps m w s (.refl s)
  | .winOwnRead f, s => execWinOwnRead_keeps f s (.refl s)
  | .frzReleaseWrite m w, s => execFrzReleaseWrite_keeps m w s (.refl s)
  | .loWordRead m off, s => execLoWordRead_keeps m off s (.refl s)
  | .lcsPortAuthWrite m w sigOk, s => execLcsPortAuthWrite_keeps m w sigOk s (.refl s)
  | .unmappedAccess m off write, s => execUnmappedAccess_keeps m off write s (.refl s)
  | .registerWrite m off w, s => execRegisterWrite_keeps m off w s (.refl s)
  | .dlvRingForget r d, s => execDlvRingForget_keeps r d s (.refl s)
  | .journalRecovery, s => execJournalRecovery_keeps s (.refl s)
  | .caddyRequest arrivals, s => execCaddyRequest_keeps arrivals s (.refl s)
  | .keySlotWrite r d, s => execKeySlotWrite_keeps r d s (.refl s)
  | .keySlotErase r d, s => execKeySlotErase_keeps r d s (.refl s)
  | .keyOtpWrite r d verified, s => execKeyOtpWrite_keeps r d verified s (.refl s)
  | .keyAnchorSet r d, s => execKeyAnchorSet_keeps r d s (.refl s)
  | .keyLegacySet r d, s => execKeyLegacySet_keeps r d s (.refl s)
  | .keyQuote r d, s => execKeyQuote_keeps r d s (.refl s)
  | .keyCertFetch r d, s => execKeyCertFetch_keeps r d s (.refl s)
  | .keyTamper x, s => execKeyTamper_keeps x s (.refl s)
  | .lcsChallenge r d, s => execLcsChallenge_keeps r d s (.refl s)
  | .lcsTransition r d, s => execLcsTransition_keeps r d s (.refl s)
  | .lcsPortOpen r d, s => execLcsPortOpen_keeps r d s (.refl s)
  | .lcsPortClose r d, s => execLcsPortClose_keeps r d s (.refl s)
  | .lcsImageWrite r d, s => execLcsImageWrite_keeps r d s (.refl s)
  | .lcsImageActivate r d, s => execLcsImageActivate_keeps r d s (.refl s)
  | .lcsImageConfirm r d, s => execLcsImageConfirm_keeps r d s (.refl s)
  | .lcsPolicySet r d, s => execLcsPolicySet_keeps r d s (.refl s)
  | .lcsLock r d, s => execLcsLock_keeps r d s (.refl s)
  | .readyTimeout kind, s => execReadyTimeout_keeps kind s (.refl s)
  | .planeReady p integrator, s => execPlaneReady_keeps p integrator s (.refl s)
  | .coldReset source held aonOk slots estopA estopB, s => execColdReset_keeps source held aonOk slots estopA estopB s (.refl s)
  | .warmReset clockFault held, s => execWarmReset_keeps clockFault held s (.refl s)
  | .planeReset p, s => execPlaneReset_keeps p s (.refl s)
  | .pwrReset r d, s => execPwrReset_keeps r d s (.refl s)
  | .pwrIdle r d, s => execPwrIdle_keeps r d s (.refl s)
  | .pwrRun r d, s => execPwrRun_keeps r d s (.refl s)
  | .powerFailWarning pfw x, s => execPowerFailWarning_keeps pfw x s (.refl s)
  | .pfwRecovered pfw x, s => execPfwRecovered_keeps pfw x s (.refl s)
  | .holdEntry x, s => execHoldEntry_keeps x s (.refl s)
  | .aonStop vbak, s => execAonStop_keeps vbak s (.refl s)
  | .diaExport r d, s => execDiaExport_keeps r d s (.refl s)
  | .diaHealth r d, s => execDiaHealth_keeps r d s (.refl s)
  | .diaRemote r d, s => execDiaRemote_keeps r d s (.refl s)
  | .diaRemoteTimeout, s => execDiaRemoteTimeout_keeps s (.refl s)
  | .diagRequest p h id crew reqId, s => execDiagRequest_keeps p h id crew reqId s (.refl s)
  | .diagReply p h reqId record, s => execDiagReply_keeps p h reqId record s (.refl s)
  | .driftWindow, s => execDriftWindow_keeps s (.refl s)
  | .permitChange o closed, s => execPermitChange_keeps o closed s (.refl s)
  | .legalSample inp, s => execLegalSample_keeps inp s (.refl s)
  | .compareEvent n, s => execCompareEvent_keeps n s (.refl s)
  | .roleRestoreRound, s => execRoleRestoreRound_keeps s (.refl s)
  | .removalRound, s => execRemovalRound_keeps s (.refl s)
  | .rootRecovered held locked, s => execRootRecovered_keeps held locked s (.refl s)
  | .extSourceLost, s => execExtSourceLost_keeps s (.refl s)
  | .imageVerifyDone ok, s => execImageVerifyDone_keeps ok s (.refl s)
  | .policyAction act, s => execPolicyAction_keeps act s (.refl s)
  | .bakChargerMode vbak microamps, s => execBakChargerMode_keeps vbak microamps s (.refl s)

/-- A row of the table that a register write stands for is itself answered. -/
theorem rowWrite_answers {m : Master} {off : Nat} {w : Word} {x : Host.Outcome State Fault Refusal} (h : rowWrite m off w s = some x) :
    ∃ t, x = .next t := by
  unfold rowWrite at h
  dsimp only at h
  repeat' split at h
  all_goals cases h
  all_goals exact ⟨_, rfl⟩

/-- No command ends in a fault or a refusal. A REGISTER_WRITE may stand for another row; every other meaning is a next state as written. -/
theorem exec_answers (c : Instr) (s : State) : ∃ t, exec c s = .next t := by
  cases c with
  | registerWrite m off w =>
    show ∃ t, execRegisterWrite m off w s = .next t
    unfold execRegisterWrite
    split
    case h_1 x hx =>
      split at hx
      · exact rowWrite_answers hx
      · cases hx
    case h_2 => exact ⟨_, rfl⟩
  | _ => exact ⟨_, rfl⟩

/-- Settles O3: the answer is a next state, and every meaning keeps the queue and the variant. -/
theorem everyCommandIsAnsweredAndTheQueueKept : Obligations.EveryCommandIsAnsweredAndTheQueueKept := by
  unfold Obligations.EveryCommandIsAnsweredAndTheQueueKept
  intro c s
  obtain ⟨t, ht⟩ := exec_answers c s
  have hk : Keeps s t := (exec_keeps c s).keeps t ht
  exact ⟨t, ht, hk.pending, hk.variant⟩

/-- Settles O4: an idle cycle passes time alone; a command keeps the stores, and taking it from the queue leaves them. -/
theorem everyStepKeepsTheStoresSound : Obligations.EveryStepKeepsTheStoresSound := by
  unfold Obligations.EveryStepKeepsTheStoresSound
  intro s t hw ht
  unfold step at ht
  split at ht
  case h_1 =>
    cases ht
    exact (State.runCycles_keeps 1 s (.refl s)).stores hw
  case h_2 c rest hq => exact ((exec_keeps c _).keeps t ht).stores hw

/-- Settles O1: with a command in front the step is its `exec`; on an empty queue one cycle passes, which is time alone. -/
theorem aStepRunsTheFrontCommand : Obligations.AStepRunsTheFrontCommand := by
  unfold Obligations.AStepRunsTheFrontCommand
  intro s
  refine ⟨fun c rest => rfl, fun hq => ⟨s.runCycles 1, ?idles, rfl, ?rate, rfl⟩⟩
  case idles => rw [step, hq]
  case rate => rw [State.runCycles_fleet, Nat.one_mul]

end Sys2Proof.Machine
end

section
/-! Transactions of a frozen master: dropped and counted before anything of the access is judged (16 R401-R403; log entry 34). -/
namespace Sys2Proof.Machine

variable {s : State} {m : Master}

/-- What a drop changes of a master that has a code. -/
theorem State.dropFrozen_code {k : Fin 24} (h : m.code = some k) :
    s.dropFrozen m = s.modFrz fun z => { z with m := vmod z.m k fun x => { x with dropped := satInc x.dropped } } := by
  rw [State.dropFrozen, h]

/-- Only a master with a code is ever frozen (16 R401). -/
theorem State.frozen_coded (h : s.frozen m = true) : m.code ≠ none := by
  intro hc
  simp [State.frozen, hc] at h

section
variable (hs : s.supplied = true) (hz : s.frozen m = true)
include hs hz

/-- Every access that is a transaction of the master, whatever it would do at its beat, is dropped. -/
theorem State.live_transact_frozen (act : State → State → State) :
    s.live (fun u => u.transact m (act u)) = .next (s.dropFrozen m) := by
  rw [State.live_supplied _ hs, State.transact_frozen _ hz]

theorem State.live_doorbell_frozen (r : Ring) (off : Nat) (v : Word) (keep take : State → State) :
    s.live (fun u => u.doorbell m r off v keep take) = .next (s.dropFrozen m) := by
  rw [State.live_supplied _ hs]
  unfold State.doorbell
  split <;> rw [State.transact_frozen _ hz]

/-- The management core, whose right the policy gives, has no code. -/
theorem execFrzReleaseWrite_frozen (w : Word) : execFrzReleaseWrite m w s = .next (s.dropFrozen m) := by
  have hm : m ≠ .mgmt := fun e => State.frozen_coded hz (e ▸ rfl)
  rw [execFrzReleaseWrite, State.live_supplied _ hs, if_neg (by simp [hm]), State.guardedWrite_frozen _ hz]

/-- The inspection channel has no code; every other master's write is guarded. -/
theorem execLcsPortAuthWrite_frozen (w : Word) (ok : Bool) : execLcsPortAuthWrite m w ok s = .next (s.dropFrozen m) := by
  have hm : m ≠ .port := fun e => State.frozen_coded hz (e ▸ rfl)
  rw [execLcsPortAuthWrite, State.live_supplied _ hs, if_pos hm, State.guardedWrite_frozen _ hz]

/-- A row that a register write stands for is dropped as the row itself is; no free value is taken for it. -/
theorem rowWrite_frozen {off : Nat} {w : Word} {x : Host.Outcome State Fault Refusal} (h : rowWrite m off w s = some x) :
    x = .next (s.dropFrozen m) := by
  have hauth : s.cond (s.supplied && !s.frozen m) (·.useFree) = s := by rw [hs, hz]; rfl
  unfold rowWrite at h
  dsimp only at h
  rw [hauth] at h
  repeat' split at h
  all_goals cases h
  case h_3 => exact execFrzReleaseWrite_frozen hs hz w
  case h_7 => exact execLcsPortAuthWrite_frozen hs hz w _
  all_goals exact State.live_transact_frozen hs hz _

/-- REGISTER_WRITE: a row of the table, or an access to the map. -/
theorem execRegisterWrite_frozen (off : Nat) (w : Word) : execRegisterWrite m off w s = .next (s.dropFrozen m) := by
  unfold execRegisterWrite
  split
  case h_1 x hx =>
    split at hx
    · exact rowWrite_frozen hs hz hx
    · cases hx
  case h_2 => exact State.live_transact_frozen hs hz _

/-- Each register access of the table is a transaction of its master. -/
theorem exec_access_frozen {c : Instr} (h : accessBy c = some m) : exec c s = .next (s.dropFrozen m) := by
  cases c with
  | portEnWrite | pwmShadowWrite | pwmCommit | pwmGroupCommit | pwmStart | pwmCtrlWrite | pwmDtMinWrite | pwmAuxCommit | pwmAuxCtrlWrite
  | regApplyArm | regCtrlWrite | vclSessionNextRead | ringCtrlWrite | winPartWrite | loWordRead | unmappedAccess =>
    cases h
    dsimp only [exec]
    exact State.live_transact_frozen hs hz _
  | ringDbSq | ringDbCq =>
    cases h
    exact State.live_doorbell_frozen hs hz _ _ _ _ _
  | frzReleaseWrite => cases h; exact execFrzReleaseWrite_frozen hs hz _
  | lcsPortAuthWrite => cases h; exact execLcsPortAuthWrite_frozen hs hz _ _
  | registerWrite => cases h; exact execRegisterWrite_frozen hs hz _ _
  | _ => cases h

end

/-- Settles O6: all these accesses are transactions of the frozen master, and a drop changes its count alone. -/
theorem aFrozenMastersAccessIsDroppedAndCounted : Obligations.AFrozenMastersAccessIsDroppedAndCounted := by
  unfold Obligations.AFrozenMastersAccessIsDroppedAndCounted
  intro s m k hs hz hc
  rw [← State.dropFrozen_code hc]
  refine ⟨fun c h => exec_access_frozen hs hz h, fun g write a l => ?window, fun o n a d => ?demand, fun f hf => ?own⟩
  case window =>
    show execWindowAccess m g write a l s = _
    exact State.live_transact_frozen hs hz _
  case demand =>
    show execDemandWrite m o n a d s = _
    exact State.live_transact_frozen hs hz _
  case own =>
    subst hf
    show execWinOwnRead f s = _
    exact State.live_transact_frozen hs hz _

end Sys2Proof.Machine
end

section
/-! What does not act: commands without the main supply, and work that is not due (20 R475; 15 R377, R378; 17 R418, R424). -/
namespace Sys2Proof.Machine

variable {s : State}

/-! ### Without the main supply -/

section
variable (hs : s.supplied = false)
include hs

theorem State.planeReset_unsupplied (p : Plane) : s.planeReset p = s := by rw [State.planeReset, hs]; rfl
theorem State.warmReset_unsupplied (cause : BitVec 3) : s.warmReset cause = s := by rw [State.warmReset, hs]; rfl

/-- A row that a register write stands for is an access to a supplied block; no free value is taken for it. -/
theorem rowWrite_unsupplied {m : Master} {off : Nat} {w : Word} {x : Host.Outcome State Fault Refusal} (h : rowWrite m off w s = some x) :
    x = .next s := by
  have hauth : s.cond (s.supplied && !s.frozen m) (·.useFree) = s := by rw [hs]; rfl
  unfold rowWrite at h
  dsimp only at h
  rw [hauth] at h
  repeat' split at h
  all_goals cases h
  all_goals exact State.live_unsupplied _ hs

theorem execRegisterWrite_unsupplied (m : Master) (off : Nat) (w : Word) : execRegisterWrite m off w s = .next s := by
  unfold execRegisterWrite
  split
  case h_1 x hx =>
    split at hx
    · exact rowWrite_unsupplied hs hx
    · cases hx
  case h_2 => exact State.live_unsupplied _ hs

theorem execReadyTimeout_unsupplied (kind : Fin 6) : execReadyTimeout kind s = .next s := by
  unfold execReadyTimeout
  dsimp only
  split <;> simp [hs]

theorem execClockFaultReset_unsupplied : execClockFaultReset s = .next s := by
  unfold execClockFaultReset
  split <;> simp [hs]

theorem execWarmReset_unsupplied (fault : Bool) (held : Nat) : execWarmReset fault held s = .next s := by
  simp [execWarmReset, State.cond, State.warmReset_unsupplied hs]

theorem execPlaneReady_unsupplied (p : Plane) (integrator : Bool) : execPlaneReady p integrator s = .next s := by
  simp [execPlaneReady, State.mayReady, hs]

end

/-- The legal domain acts in service alone. -/
theorem State.legalOn_down (h : s.bil.legalUp = false) : s.legalOn = false := by rw [State.legalOn, h]; rfl

/-- Commands of the supplied block do nothing without supply, the legal domain's nothing while it is down. -/
theorem exec_unsupplied {c : Instr} (hs : s.supplied = false) (hl : s.bil.legalUp = false) (ha : actsUnsupplied c = false)
    (hc : carried c = none) : exec c s = .next s := by
  cases c with
  | alcSetCap | alcDrill | alcTakeover | alcRoleRestore | alcHoldClear | cfgStage | cfgActivate | cfgStageCancel | regPhaseRestore
  | outEnable | outDisable | outStop | outFaultClear | outSessionCap | vclSessionPolicy | vclAuth | vclFetch | vclCertResponse
  | vclSchedule | vclStationChain | safSeoDemand | safStoDemand | safSiteStop | safReset | lneSwapDrill | lneLaneRestore | metCapture
  | bilReceiptFetch | bilExport | bilErase | batHeldStep | batShip | ringNop | ringFence | rgtTimeOfDay | rgtTunnelSend
  | rgtTunnelRecv | winClaim | winRelease | dlvRingForget | keySlotWrite | keySlotErase | keyOtpWrite | keyAnchorSet | keyLegacySet
  | keyQuote | keyCertFetch | lcsChallenge | lcsTransition | lcsPortOpen | lcsPortClose | lcsImageWrite | lcsImageActivate
  | lcsImageConfirm | lcsPolicySet | lcsLock | pwrReset | pwrIdle | pwrRun | diaExport | diaHealth | diaRemote => cases hc
  | tamper | darkBurst | keyTamper | aonStop | coldReset | secondBoundary | intervalEnd => cases ha
  | rootLost => dsimp only [exec]; simp [execRootLost, hs]
  | driftCheck => dsimp only [exec]; simp [execDriftCheck, hs]
  | xtalFail => dsimp only [exec]; simp [execXtalFail, hs]
  | rootRecovered => dsimp only [exec]; simp [execRootRecovered, hs]
  | powerFailWarning => dsimp only [exec]; simp [execPowerFailWarning, hs]
  | pfwRecovered => dsimp only [exec]; simp [execPfwRecovered, hs]
  | holdEntry => dsimp only [exec]; simp [execHoldEntry, hs]
  | bakChargerMode => dsimp only [exec]; simp [execBakChargerMode, hs]
  | planeReset => dsimp only [exec]; simp [execPlaneReset, State.planeReset_unsupplied hs]
  | clockFaultReset => exact execClockFaultReset_unsupplied hs
  | readyTimeout kind => exact execReadyTimeout_unsupplied hs kind
  | planeReady p integrator => exact execPlaneReady_unsupplied hs p integrator
  | warmReset fault held => exact execWarmReset_unsupplied hs fault held
  | registerWrite m off w => exact execRegisterWrite_unsupplied hs m off w
  | sessionEvent => dsimp only [exec]; simp [execSessionEvent, State.legalOn_down hl]
  | clockStep => dsimp only [exec]; simp [execClockStep, State.legalOn_down hl]
  | bilTariffSet => dsimp only [exec]; simp [execBilTariffSet, State.legalOn_down hl]
  | displayDwell => dsimp only [exec]; simp [execDisplayDwell, State.legalOn_down hl]
  | displayPoll => dsimp only [exec]; simp [execDisplayPoll, State.legalOn_down hl]
  | receiptReady => dsimp only [exec]; simp [execReceiptReady, hl]
  | displayAnswer => dsimp only [exec]; simp [execDisplayAnswer, hl]
  | _ =>
    dsimp only [exec]
    exact State.live_unsupplied _ hs

/-! ### The work of a descriptor -/

/-- A fence's work waits for what it names as well. -/
theorem execRingFence_notDue {r : Ring} {d : Desc} (h : s.due r d = false) : execRingFence r d s = .next s := by
  rw [execRingFence, State.work_notDue _ h, ite_self]

/-- Each command that carries a descriptor is that descriptor's work. -/
theorem exec_notDue {c : Instr} {r : Ring} {d : Desc} (hc : carried c = some (r, d)) (h : s.due r d = false) : exec c s = .next s := by
  cases c with
  | ringFence => cases hc; exact execRingFence_notDue h
  | alcSetCap | alcDrill | alcTakeover | alcRoleRestore | alcHoldClear | cfgStage | cfgActivate | cfgStageCancel | regPhaseRestore
  | outEnable | outDisable | outStop | outFaultClear | outSessionCap | vclSessionPolicy | vclAuth | vclFetch | vclCertResponse
  | vclSchedule | vclStationChain | safSeoDemand | safStoDemand | safSiteStop | safReset | lneSwapDrill | lneLaneRestore | metCapture
  | bilReceiptFetch | bilExport | bilErase | batHeldStep | batShip | ringNop | rgtTimeOfDay | rgtTunnelSend
  | rgtTunnelRecv | winClaim | winRelease | dlvRingForget | keySlotWrite | keySlotErase | keyOtpWrite | keyAnchorSet | keyLegacySet
  | keyQuote | keyCertFetch | lcsChallenge | lcsTransition | lcsPortOpen | lcsPortClose | lcsImageWrite | lcsImageActivate
  | lcsImageConfirm | lcsPolicySet | lcsLock | pwrReset | pwrIdle | pwrRun | diaExport | diaHealth | diaRemote =>
    cases hc
    exact congrArg _ (State.work_notDue _ h)
  | _ => cases hc

/-- What a slot update leaves at its own descriptor is the updated slot. -/
theorem State.slot?_modSlot (r : Ring) (seq : DWord) (f : JSlot → JSlot) (hf : ∀ j, (f j).seq = j.seq) :
    (s.modSlot r seq f).slot? r seq = (s.slot? r seq).map f := by
  have key : ∀ l : List JSlot, (l.map fun j => if j.seq = seq then f j else j).find? (fun j => j.seq == seq) =
      (l.find? fun j => j.seq == seq).map f := by
    intro l
    induction l with
    | nil => rfl
    | cons j l ih =>
      by_cases hj : j.seq = seq
      · simp [hj, hf]
      · simp [hj, ih]
  simp only [State.slot?, State.modSlot, State.modDlv_dlv, vmod_self]
  exact key _

/-- Work that has been taken up is not due again (17 R418). -/
theorem State.takeUp_notDue (r : Ring) (d : Desc) : (s.takeUp r d).due r d = false := by
  have h : (s.takeUp r d).slot? r d.seq = (s.slot? r d.seq).map fun j => { j with st := .handed, tookUp := true } :=
    State.slot?_modSlot _ _ _ fun _ => rfl
  rw [State.due, h]
  cases s.slot? r d.seq with
  | none => rfl
  | some j => simp

/-- Settles O5. -/
theorem nothingActsUnsuppliedOrBeforeItsTime : Obligations.NothingActsUnsuppliedOrBeforeItsTime := by
  unfold Obligations.NothingActsUnsuppliedOrBeforeItsTime
  intro s c
  exact ⟨exec_unsupplied, fun r d => exec_notDue, fun r d _ _ => State.takeUp_notDue r d⟩

end Sys2Proof.Machine
end

section
/-! Announcing an event: the flag, one record in the journal or a suppression, the block's interrupt (15 R388; 21 R484-R486; log entry 62). -/
namespace Sys2Proof.Machine

variable {s t : State}

/-! ### Interrupts leave the journal alone -/

theorem State.sendMsi_dia (v : IrqVec) : (s.sendMsi v).dia = s.dia := by
  unfold State.sendMsi
  split <;> rfl

theorem State.irqItem_dia (v : IrqVec) (now : Bool) : (s.irqItem v now).dia = s.dia := by
  unfold State.irqItem
  dsimp only
  split
  · rw [State.sendMsi_dia]; rfl
  · rfl

/-! ### The journal leaves interrupts alone -/

theorem State.storeRec_irq (r : JRec) : (s.storeRec r).irq = s.irq ∧ (s.storeRec r).hostOut = s.hostOut := by
  unfold State.storeRec
  split
  · split <;> exact ⟨rfl, rfl⟩
  · exact ⟨rfl, rfl⟩

theorem State.journal_irq (block code subject a b origin : Nat) :
    (s.journal block code subject a b origin).irq = s.irq ∧ (s.journal block code subject a b origin).hostOut = s.hostOut := by
  unfold State.journal
  dsimp only
  split
  · split
    · exact ⟨rfl, rfl⟩
    · exact State.storeRec_irq (s := State.modDia _ s) _
  · exact State.storeRec_irq (s := State.modDia _ s) _

/-! ### Records and suppressions (21 R485, R486) -/

/-- The last record's key of an occurrence, with its time and the occurrences suppressed since. -/
def Dia.keyOf (d : Dia) (block code subject : Nat) : Option JKey :=
  d.keys.find? fun k => k.block == block && k.code == code && k.subject == subject

/-- A record that is journaled while MRAM may be written comes first in the journal. -/
theorem State.storeRec_open (r : JRec) (h : s.thm.mramBlocked = false) :
    s.storeRec r = s.modDia fun d => { d with journal := (r :: d.journal).take 65536, wrapped := d.wrapped || decide (65536 ≤ d.journal.length) } := by
  rw [State.storeRec, h, if_neg Bool.false_ne_true]

/-- One record of an occurrence goes in front of the journal of `d`, with its number, time, key and the number of those suppressed before. -/
structure Dia.Records (d : Dia) (now block code subject : Nat) (d' : Dia) : Prop where
  next : d'.next = d.next + 1
  suppressed : d'.cntSuppressed = d.cntSuppressed
  record : ∃ r, d'.journal = (r :: d.journal).take 65536 ∧ r.number = d.next ∧ r.time = now ∧ r.block = block ∧ r.code = code ∧
    r.subject = subject ∧ ∀ k, d.keyOf block code subject = some k → r.suppressed = k.suppressed

section
variable {block code subject a b origin : Nat}

theorem State.journal_records (hk : ∀ k, s.dia.keyOf block code subject = some k → k.last + 100000000 ≤ s.now ∨ neverSuppressed block = true)
    (hm : s.thm.mramBlocked = false) :
    s.dia.Records s.now block code subject (s.journal block code subject a b origin).dia := by
  unfold State.journal
  dsimp only
  rw [← Dia.keyOf]
  split
  case h_1 k hkey =>
    rw [if_neg, State.storeRec_open (s := State.modDia _ s) _ hm]
    · refine ⟨rfl, rfl, _, rfl, rfl, rfl, rfl, rfl, rfl, fun k' h' => ?_⟩
      rw [hkey] at h'
      cases h'
      rfl
    · have := hk k hkey
      simp only [Bool.and_eq_true, Bool.not_eq_true', decide_eq_true_eq]
      rintro ⟨h1, h2⟩
      rcases this with h | h
      · omega
      · rw [h] at h1; cases h1
  case h_2 hkey =>
    rw [State.storeRec_open (s := State.modDia _ s) _ hm]
    exact ⟨rfl, rfl, _, rfl, rfl, rfl, rfl, rfl, rfl, fun k h' => by rw [hkey] at h'; cases h'⟩

/-- A suppressed occurrence is counted, takes no number (log entry 62) and writes nothing. -/
theorem State.journal_suppressed {k : JKey} (hk : s.dia.keyOf block code subject = some k) (ht : s.now < k.last + 100000000)
    (hn : neverSuppressed block = false) :
    let d := (s.journal block code subject a b origin).dia
    d.next = s.dia.next ∧ d.journal = s.dia.journal ∧ d.waiting = s.dia.waiting ∧ d.cntSuppressed = satInc s.dia.cntSuppressed := by
  unfold State.journal
  dsimp only
  rw [← Dia.keyOf, hk]
  simp [hn, ht]

end

/-! ### Announcing -/

/-- The state in which the occurrence is journaled: the flag is set. -/
def State.flagged (e : EvSrc) (b : Nat) (s : State) : State := s.evSet e { s.evGet e with flags := (s.evGet e).flags ||| bit 32 b }

theorem State.raise_eq (e : EvSrc) (b : Nat) :
    s.raise e b =
      let t := (s.flagged e b).journal e.block b e.subject 0 0 e.origin
      if (s.evGet e).en.getLsbD b = true then t.irqItem e.vec false else t := rfl

theorem State.raise_dia (e : EvSrc) (b : Nat) :
    (s.raise e b).dia = ((s.flagged e b).journal e.block b e.subject 0 0 e.origin).dia := by
  rw [State.raise_eq]
  dsimp only
  split
  · rw [State.irqItem_dia]
  · rfl

theorem State.raise_evGet (e : EvSrc) (b : Nat) :
    (s.raise e b).evGet e = { s.evGet e with flags := (s.evGet e).flags ||| bit 32 b } := by
  rw [State.evGet_ev (t := s.evSet e _) e (State.raise_ev e b), State.evGet_set_same]

/-- A disabled event sends no interrupt (15 R388). -/
theorem State.raise_disabled {e : EvSrc} {b : Nat} (h : (s.evGet e).en.getLsbD b = false) :
    (s.raise e b).irq = s.irq ∧ (s.raise e b).hostOut = s.hostOut := by
  rw [State.raise_eq, h]
  exact State.journal_irq (s := s.flagged e b) ..

/-- Settles O7: the flag and the interrupt by the rules of `raise`, the record by those of the journal, which sees the state with the flag set. -/
theorem anEventSetsItsFlagAndWritesOneRecord : Obligations.AnEventSetsItsFlagAndWritesOneRecord := by
  unfold Obligations.AnEventSetsItsFlagAndWritesOneRecord
  intro s e b
  refine ⟨OnlyEvents.raise e b, State.raise_evGet e b, fun e' h => State.raise_other e e' b h, State.raise_disabled, fun hk hm => ?recorded,
    fun k hk ht hn => ?suppressed⟩
  case recorded =>
    rw [State.raise_dia]
    obtain ⟨h1, h2, h3⟩ := State.journal_records (s := s.flagged e b) (a := 0) (b := 0) (origin := e.origin) hk hm
    exact ⟨h1, h2, h3⟩
  case suppressed =>
    rw [State.raise_dia]
    exact State.journal_suppressed (s := s.flagged e b) hk ht hn

end Sys2Proof.Machine
end

section
/-! Closing a net: whole mWh are posted, the rest is carried (12 R297, R298, R303; 13 R316). -/
namespace Sys2Proof.Machine

variable {s : State}

/-! ### The division of a net -/

/-- What is posted and what is carried make up what the accumulator and the old remainder held. -/
theorem closeNet_total (acc rem : Int) : acc + rem = (closeNet acc rem).1 * 281250000000 + (closeNet acc rem).2 := by
  simp only [closeNet, kWh]; omega

theorem closeNet_carried (acc rem : Int) : (closeNet acc rem).2 = (acc + rem).tmod 281250000000 := by
  have := Int.tmod_add_mul_tdiv (acc + rem) 281250000000
  simp only [closeNet, kWh]; omega

/-- Less than a whole mWh is carried. -/
theorem closeNet_small (acc rem : Int) : (closeNet acc rem).2.natAbs < 281250000000 := by
  rw [closeNet_carried, Int.natAbs_tmod]
  exact Nat.mod_lt _ (by decide)

/-- What is carried has the sign of the total, by truncation toward zero (R303). -/
theorem closeNet_pos (acc rem : Int) (h : 0 < (closeNet acc rem).2) : 0 < acc + rem := by
  rw [closeNet_carried] at h
  by_contra hn
  have hneg : 0 ≤ (-(acc + rem)).tmod 281250000000 := Int.tmod_nonneg _ (by omega)
  rw [Int.neg_tmod] at hneg
  omega

theorem closeNet_neg (acc rem : Int) (h : (closeNet acc rem).2 < 0) : acc + rem < 0 := by
  rw [closeNet_carried] at h
  by_contra hn
  have := Int.tmod_nonneg 281250000000 (not_lt.mp hn)
  omega

/-! ### What a close notes beside its energy -/

/-- The note leaves every energy register, remainder and accumulator. -/
theorem State.netNote_energies (k : Fin 9) (e : Int) (neg : Bool) :
    let t := s.netNote k e neg
    (t.bil.core.outlets = s.bil.core.outlets ∧ t.bil.core.grid = s.bil.core.grid) ∧
    (t.bil.core.remOut = s.bil.core.remOut ∧ t.bil.core.remP = s.bil.core.remP ∧ t.bil.core.remQ = s.bil.core.remQ) ∧
    t.met.accOut = s.met.accOut ∧ t.met.accP = s.met.accP ∧ t.met.accQ = s.met.accQ := by
  unfold State.netNote State.cond
  dsimp only
  split <;> split <;> exact ⟨⟨rfl, rfl⟩, ⟨rfl, rfl, rfl⟩, rfl, rfl, rfl⟩

/-! ### Outlets -/

/-- The same update of equal vectors. -/
theorem vmod_eq_of_eq {α : Type} {n : Nat} {v w : Vector α n} (h : v = w) (i : Fin n) (f : α → α) : vmod v i f = vmod w i f := h ▸ rfl

theorem State.closeOutlet_absent {o : Outlet} (h : s.hasOutlet o = false) : s.closeOutlet o = s := by
  rw [State.closeOutlet, h]; rfl

/-- The energies after the close of a fitted outlet's net. -/
theorem State.closeOutlet_energies {o : Outlet} (h : s.hasOutlet o = true) :
    let t := s.closeOutlet o
    let (e, rem) := closeNet (s.met.accOut.get o) (s.bil.core.remOut.get o)
    t.bil.core.outlets = vmod s.bil.core.outlets o (fun v => vmod v s.tariffIx fun p => { imp := p.imp + e.toNat, exp := p.exp + (-e).toNat }) ∧
    t.bil.core.remOut = vmod s.bil.core.remOut o (fun _ => rem) ∧ t.met.accOut = vmod s.met.accOut o (fun _ => 0) ∧
    t.bil.core.grid = s.bil.core.grid ∧ t.bil.core.remP = s.bil.core.remP ∧ t.met.accP = s.met.accP ∧ t.met.accQ = s.met.accQ := by
  rw [State.closeOutlet, if_neg (by simp [h])]
  obtain ⟨e, rem⟩ := closeNet (s.met.accOut.get o) (s.bil.core.remOut.get o)
  obtain ⟨⟨ho, hg⟩, ⟨hr, hp, -⟩, ha, haP, haQ⟩ :=
    State.netNote_energies (s := s) ⟨o.val, by omega⟩ e (decide (s.met.accOut.get o + s.bil.core.remOut.get o < 0))
  dsimp only [State.modMet, State.modCore, State.modBil]
  exact ⟨vmod_eq_of_eq ho _ _, vmod_eq_of_eq hr _ _, vmod_eq_of_eq ha _ _, hg, hp, haP, haQ⟩

/-! ### The grid -/

/-- The energies after the close of the grid nets; the quadrant of the reactive part is that of the two signs. -/
theorem State.closeGrid_energies :
    let t := s.closeGrid
    let (e, rp) := closeNet s.met.accP s.bil.core.remP
    let (q, rq) := closeNet s.met.accQ s.bil.core.remQ
    (∃ quad : Fin 4, t.bil.core.grid = vmod s.bil.core.grid s.tariffIx fun g =>
      { imp := g.imp + e.toNat, exp := g.exp + (-e).toNat, q := vmod g.q quad (· + q.natAbs) }) ∧
    t.bil.core.remP = rp ∧ t.bil.core.remQ = rq ∧ t.met.accP = 0 ∧ t.met.accQ = 0 ∧
    t.bil.core.outlets = s.bil.core.outlets ∧ t.met.accOut = s.met.accOut := by
  unfold State.closeGrid
  dsimp only
  obtain ⟨e, rp⟩ := closeNet s.met.accP s.bil.core.remP
  obtain ⟨q, rq⟩ := closeNet s.met.accQ s.bil.core.remQ
  obtain ⟨⟨ho, hg⟩, -, ha, -⟩ :=
    State.netNote_energies (s := s) 8 (if e = 0 then q else e) (decide (s.met.accP + s.bil.core.remP < 0))
  dsimp only [State.modMet, State.modCore, State.modBil]
  exact ⟨⟨_, vmod_eq_of_eq hg _ _⟩, rfl, rfl, rfl, rfl, ho, ha⟩

/-- Settles O43: the registers by what the two closes leave, the sums by the division of a net. -/
theorem aNetClosePostsWholeMilliwattHours : Obligations.ANetClosePostsWholeMilliwattHours := by
  unfold Obligations.ANetClosePostsWholeMilliwattHours
  intro s
  refine ⟨fun o h => ?outlet, fun o => State.closeOutlet_absent, ?grid⟩
  case outlet =>
    obtain ⟨ho, hr, ha, hg, hp, haP, haQ⟩ := State.closeOutlet_energies h
    refine ⟨(closeNet (s.met.accOut.get o) (s.bil.core.remOut.get o)).1, ?_⟩
    dsimp only
    rw [ho, hr, ha, vmod_self, vmod_self, vmod_self, vmod_self]
    refine ⟨rfl, closeNet_total _ _, closeNet_small _ _, closeNet_pos _ _, closeNet_neg _ _, rfl, fun k hk => ?_, fun p hp => ?_, hg, hp, haP, haQ⟩
    · exact vmod_other _ _ _ _ hk.symm
    · exact ⟨vmod_other _ _ _ _ hp.symm, vmod_other _ _ _ _ hp.symm, vmod_other _ _ _ _ hp.symm⟩
  case grid =>
    obtain ⟨⟨quad, hg⟩, hp, hq, haP, haQ, ho, ha⟩ := State.closeGrid_energies (s := s)
    refine ⟨(closeNet s.met.accP s.bil.core.remP).1, (closeNet s.met.accQ s.bil.core.remQ).1, ?_⟩
    dsimp only
    rw [hg, hp, hq, vmod_self]
    exact ⟨haP, haQ, closeNet_total _ _, closeNet_small _ _, closeNet_total _ _, closeNet_small _ _, rfl, rfl,
      fun k hk => vmod_other _ _ _ _ hk.symm, ho, ha⟩

end Sys2Proof.Machine
end

section
/-! A legal sample: what it adds to the nets, the sums and the battery, and what a capture takes of it (12 R293, R297-R299, R311; 14 R350). -/
namespace Sys2Proof.Machine

variable {s t u : State}

/-! ### Captures -/

/-- From `s` to `t` metrology keeps all but the capture in progress, billing and battery everything. -/
structure KeepsMeters (s t : State) : Prop where
  met : { t.met with capture := none } = { s.met with capture := none }
  bil : t.bil = s.bil
  bat : t.bat = s.bat

theorem KeepsMeters.refl (s : State) : KeepsMeters s s := ⟨rfl, rfl, rfl⟩
theorem KeepsMeters.trans (a : KeepsMeters s t) (b : KeepsMeters t u) : KeepsMeters s u :=
  ⟨b.met.trans a.met, b.bil.trans a.bil, b.bat.trans a.bat⟩

/-- A quantity of metrology that is not the capture stands. -/
theorem KeepsMeters.view {α : Type} (h : KeepsMeters s t) (f : Met → α) (hf : ∀ m, f { m with capture := none } = f m) : f t.met = f s.met := by
  rw [← hf t.met, h.met, hf]

theorem State.capturePut_keepsMeters (b : Byte) : KeepsMeters s (s.capturePut b) := by
  unfold State.capturePut
  split
  · exact .refl s
  · split
    · exact ⟨rfl, rfl, rfl⟩
    · exact .refl s

theorem State.captureFeed_keepsMeters (v : Vector Int 24) (x : LegalIn) : KeepsMeters s (s.captureFeed v x) := by
  have bytes : ∀ (l : List Byte) (t : State), KeepsMeters t (l.foldl (fun t b => t.capturePut b) t) := by
    intro l
    induction l with
    | nil => exact fun t => .refl t
    | cons b l ih => exact fun t => (State.capturePut_keepsMeters b).trans (ih _)
  unfold State.captureFeed
  split
  · exact .refl s
  · exact .trans (t := State.modMet _ s) ⟨rfl, rfl, rfl⟩ (bytes _ _)

theorem State.captureFeed_idle (v : Vector Int 24) (x : LegalIn) (h : s.met.capture = none) : s.captureFeed v x = s := by
  rw [State.captureFeed, h]

/-! ### The sample -/

/-- The value of a lane: its calibrated code, or 0 while the legal lane is faulty (R297). -/
theorem State.laneValue_eq (n : MLane) (raw : Int) :
    s.laneValue n raw = if n.val < 22 ∧ s.met.laneFault.getLsbD n.val = true then 0 else s.laneCode n (s.met.k.get n) raw := by
  simp only [State.laneValue, Bool.and_eq_true, decide_eq_true_eq]

/-- The values of the lanes in a sample. -/
def State.laneValues (s : State) (x : LegalIn) : Vector Int 24 := Vector.ofFn fun n => s.laneValue n (x.code.get n)

/-- The values enter the nets, the second's sums, the tick's sums and the battery. -/
def State.enterNets (v : Vector Int 24) (s : State) : State :=
  (s.modMet fun m =>
    { m with accOut := vmapIdx m.accOut fun o a => if s.hasOutlet o then a + v.get (laneV o) * v.get (laneI o) else a,
             accP := m.accP + v.get 16 * v.get 19 + v.get 17 * v.get 20 + v.get 18 * v.get 21,
             sums := vmapIdx m.sums fun o q =>
               if s.hasOutlet o then
                 { q with v := q.v + v.get (laneV o), i := q.i + v.get (laneI o), p := q.p + v.get (laneV o) * v.get (laneI o), n := q.n + 1 }
               else q,
             tickSum := vmapIdx m.tickSum fun o a => if s.hasOutlet o then a + v.get (laneI o) else a,
             tickN := m.tickN + 1 }).batSample (v.get 22) (v.get 23)

/-- Time runs to the next output of the decimator (log entry 7). -/
theorem exec_legalSample (hs : s.supplied = true) (x : LegalIn) :
    exec (.legalSample x) s = .next (
      ((s.runTo ((s.clk.cycle / sampleCycles + 1) * sampleCycles)).enterNets (s.laneValues x)).captureFeed (s.laneValues x) x) := by
  show execLegalSample x s = _
  rw [execLegalSample, State.live_supplied _ hs]
  rfl

theorem State.enterNets_accOut (v : Vector Int 24) (o : Outlet) :
    (s.enterNets v).met.accOut.get o =
      if s.hasOutlet o = true then s.met.accOut.get o + v.get (laneV o) * v.get (laneI o) else s.met.accOut.get o := by
  dsimp only [State.enterNets, State.batSample, State.modMet, State.modBat]
  rw [vmapIdx_get]

theorem State.enterNets_sums (v : Vector Int 24) (o : Outlet) :
    (s.enterNets v).met.sums.get o =
      let q := s.met.sums.get o
      if s.hasOutlet o = true then
        { q with v := q.v + v.get (laneV o), i := q.i + v.get (laneI o), p := q.p + v.get (laneV o) * v.get (laneI o), n := q.n + 1 }
      else q := by
  dsimp only [State.enterNets, State.batSample, State.modMet, State.modBat]
  rw [vmapIdx_get]

/-- Settles O40: the capture takes nothing of what the sample added, and the sample adds it to the state that time has left. -/
theorem aLegalSampleEntersEveryNet : Obligations.ALegalSampleEntersEveryNet := by
  unfold Obligations.ALegalSampleEntersEveryNet
  intro s x hs val
  have hval : ∀ n, (s.laneValues x).get n = val n := fun n => by rw [State.laneValues, ofFn_get, State.laneValue_eq]
  refine ⟨_, exec_legalSample hs x, ?_⟩
  generalize hk : (s.clk.cycle / sampleCycles + 1) * sampleCycles = k
  have hm := State.captureFeed_keepsMeters (s := (s.runTo k).enterNets (s.laneValues x)) (s.laneValues x) x
  have hAcc := fun o => congrArg (Vector.get · o) (hm.view (·.accOut) fun _ => rfl)
  have hSum := fun o => congrArg (Vector.get · o) (hm.view (·.sums) fun _ => rfl)
  simp only [State.enterNets_accOut, State.enterNets_sums, hval] at hAcc hSum
  refine ⟨fun o ho => ?fitted, fun o ho => ?absent, ?grid, (hm.view (·.accQ) fun _ => rfl), (hm.view (·.session) fun _ => rfl), hm.bil.trans rfl,
    ?acc, ?volts, (congrArg Bat.c hm.bat).trans rfl, (congrArg Bat.soc hm.bat).trans rfl, fun hc => ?idle⟩
  case fitted =>
    have ho' : (s.runTo k).hasOutlet o = true := ho
    rw [hAcc, hSum, if_pos ho', if_pos ho']
    exact ⟨rfl, rfl, rfl, rfl⟩
  case absent =>
    have ho' : ¬ (s.runTo k).hasOutlet o = true := Bool.eq_false_iff.mp ho
    rw [hAcc, hSum, if_neg ho', if_neg ho']
    exact ⟨rfl, rfl⟩
  case grid =>
    rw [hm.view (·.accP) fun _ => rfl]
    simp only [← hval]
    rfl
  case acc => rw [hm.bat, ← hval]; rfl
  case volts => rw [hm.bat, ← hval]; rfl
  case idle =>
    rw [State.captureFeed_idle (s := (s.runTo k).enterNets _) _ _ hc]
    exact ⟨fun _ => rfl, rfl⟩

end Sys2Proof.Machine
end

section
/-! Window accesses: where the bytes of a write land, and what a closed page does (16 R394, R395, R402; 01 R13, R14, R16). -/
namespace Sys2Proof.Machine

variable {s t : State} {m : Master}

/-! ### The window under a breach -/

/-- The freeze of a master leaves the window alone. -/
theorem State.freeze_win (cause : Nat) (place : Word) : (s.freeze m cause place).win = s.win := by
  unfold State.freeze
  split
  · rfl
  · refine (OnlyEvents.raiseAt _ _ _ _ _).win.trans ?_
    split
    · refine State.forAll_induct _ (fun t => t.win = s.win) (fun r t h => ?_) rfl
      split
      · rw [State.writeShadow]
        split
        · exact h
        · exact h
      · exact h
    · rfl

theorem State.firewallDrop_win (a v : Nat) : (s.firewallDrop m a v).win = s.win := (OnlyEvents.journal _ _ _ _ _ _).win

theorem State.memRead_win (h : t.win = s.win) (a : Nat) : t.memRead a = s.memRead a := by rw [State.memRead, h]; rfl
theorem State.page_win (h : t.win = s.win) (p : Nat) : t.page p = s.page p := by rw [State.page, h]; rfl
theorem State.mayAccess_win (h : t.win = s.win) (p : Nat) : t.mayAccess m p = s.mayAccess m p := by
  simp only [State.mayAccess, State.page_win h, h]

theorem State.memWriteList_page (a : Nat) (l : List Byte) (p : Nat) : (s.memWriteList a l).page p = s.page p := by
  have hpages : (s.memWriteList a l).win.pages = s.win.pages := by
    have e := congrArg (fun x : State => x.win.pages) (State.memWriteList_frame (s := s) a l)
    exact e
  rw [State.page, hpages]
  rfl

/-! ### How far a write lands -/

/-- The number of bytes before the first one that the master may not write. -/
def State.openRun (s : State) (m : Master) (addr n : Nat) : Nat :=
  ((List.range n).takeWhile fun i => s.mayAccess m ((addr + i) / 4096)).length

/-- A run of the first numbers that satisfy a test ends before the first that fails. -/
theorem takeWhile_range_length {p : Nat → Bool} {n k : Nat} (hk : k ≤ n) (hp : ∀ i < k, p i = true) (hn : k < n → p k = false) :
    ((List.range n).takeWhile p).length = k := by
  obtain ⟨j, rfl⟩ := Nat.exists_eq_add_of_le hk
  rw [List.range_add, List.takeWhile_append_of_pos fun i hi => hp i (List.mem_range.mp hi), List.length_append, List.length_range]
  cases j with
  | zero => rfl
  | succ j =>
    rw [List.range_succ_eq_map, List.map_cons, List.takeWhile_cons_of_neg (by rw [Nat.add_zero, hn (by omega)]; decide)]
    rfl

variable {addr : Nat} {bytes : List Byte}

theorem State.openRun_open {n i : Nat} (h : i < s.openRun m addr n) : s.mayAccess m ((addr + i) / 4096) = true := by
  have hp := List.takeWhile_prefix (l := List.range n) fun i => s.mayAccess m ((addr + i) / 4096)
  have hi : (List.takeWhile (fun i => s.mayAccess m ((addr + i) / 4096)) (List.range n))[i]'h = i := by
    rw [List.IsPrefix.getElem hp h, List.getElem_range]
  have hm := List.mem_takeWhile_imp (List.getElem_mem h)
  rwa [hi] at hm

/-- A write lands as far as its pages are open; a closed page is a breach of a master of R401 and a drop of another. -/
theorem State.windowWrite_eq :
    s.windowWrite m addr bytes =
      let k := s.openRun m addr bytes.length
      let t := s.memWriteList addr (bytes.take k)
      if k = bytes.length then t
      else match m.code with
        | some _ => t.freeze m 1 (BitVec.ofNat 32 (addr + k))
        | none => t.firewallDrop m (addr + k) 0 := rfl

/-- The window after a write is the window after the bytes before the first closed page. -/
theorem State.windowWrite_win : (s.windowWrite m addr bytes).win = (s.memWriteList addr (bytes.take (s.openRun m addr bytes.length))).win := by
  rw [State.windowWrite_eq]
  dsimp only
  split
  · rfl
  · split
    · exact State.freeze_win _ _
    · exact State.firewallDrop_win _ _

theorem State.windowWrite_page (p : Nat) : (s.windowWrite m addr bytes).page p = s.page p :=
  (State.page_win State.windowWrite_win p).trans (State.memWriteList_page _ _ p)

/-- No byte of a closed page changes. -/
theorem State.windowWrite_closed {a : Nat} (h : s.mayAccess m (a / 4096) = false) : (s.windowWrite m addr bytes).memRead a = s.memRead a := by
  rw [State.memRead_win State.windowWrite_win]
  refine State.memWriteList_other _ _ _ ?_
  by_contra hn
  have hlen := List.length_take_le (s.openRun m addr bytes.length) bytes
  have ho := State.openRun_open (s := s) (m := m) (addr := addr) (n := bytes.length) (i := a - addr) (by omega)
  rw [show addr + (a - addr) = a by omega, h] at ho
  exact Bool.noConfusion ho

/-! ### An access -/

/-- What an access that is carried out does after its beats. -/
def State.accessed (m : Master) (g : Region) (w : Bool) (addr : Nat) (bytes : List Byte) (t : State) : State :=
  if !w || decide (g.size < addr + bytes.length) then t
  else if g = .window then t.windowWrite m addr bytes
  else t.regionWrite g m addr bytes

theorem beatsOf_pos (addr n : Nat) : beatsOf addr n - 1 + 1 = beatsOf addr n := by
  unfold beatsOf
  split <;> omega

/-- An access of a master that is not frozen takes a beat for each 32 bytes. -/
theorem exec_windowAccess (g : Region) (w : Bool) (h : s.reaches m = true) :
    exec (.windowAccess m g w addr bytes) s = .next ((s.beats (beatsOf addr bytes.length) m).accessed m g w addr bytes) := by
  obtain ⟨hs, hz⟩ := State.reaches_iff.mp h
  show execWindowAccess m g w addr bytes s = _
  rw [execWindowAccess, State.live_supplied _ hs, State.transact_free _ hz, ← beatsOf_pos addr bytes.length]
  rfl

/-- An access of a master that does not reach the fabric touches no page and no byte. -/
theorem exec_windowAccess_lost (g : Region) (w : Bool) (h : ¬ s.reaches m = true) :
    ∃ t, exec (.windowAccess m g w addr bytes) s = .next t ∧ t.win = s.win := by
  show ∃ t, execWindowAccess m g w addr bytes s = .next t ∧ t.win = s.win
  rw [State.reaches_iff, not_and, Bool.not_eq_false] at h
  rw [execWindowAccess]
  cases hs : s.supplied
  · exact ⟨_, State.live_unsupplied _ hs, rfl⟩
  · rw [State.live_supplied _ hs, State.transact_frozen _ (h hs)]
    refine ⟨_, rfl, ?_⟩
    rw [State.dropFrozen]
    split
    · rfl
    · rfl

theorem State.accessed_idle {g : Region} {w : Bool} (h : w = false ∨ g.size < addr + bytes.length) : s.accessed m g w addr bytes = s := by
  rw [State.accessed, if_pos]
  simpa using h

theorem State.accessed_window (hn : addr + bytes.length ≤ 2 ^ 24) : s.accessed m .window true addr bytes = s.windowWrite m addr bytes := by
  have hn' : ¬ Region.window.size < addr + bytes.length := Nat.not_lt.mpr hn
  rw [State.accessed, if_neg (by simpa using hn'), if_pos rfl]

theorem State.accessed_region {g : Region} (hg : g ≠ .window) (hn : addr + bytes.length ≤ g.size) :
    s.accessed m g true addr bytes = s.regionWrite g m addr bytes := by
  rw [State.accessed, if_neg (by simpa using hn), if_neg hg]

/-- A write to another region of memory stays outside the window. -/
theorem State.regionWrite_win (g : Region) : (s.regionWrite g m addr bytes).win = s.win := by
  unfold State.regionWrite
  split
  · exact State.firewallDrop_win _ _
  · split
    · rfl
    · rfl

theorem State.regionWrite_denied {g : Region} (h : g.writer m = false) : s.regionWrite g m addr bytes = s.firewallDrop m addr 0 := by
  unfold State.regionWrite
  rw [h, Bool.not_false, if_pos rfl]

theorem State.regionWrite_priv {c : CoreGroup} (h : (Region.priv c).writer m = true) :
    s.regionWrite (.priv c) m addr bytes = s.sramWrite c addr bytes := by
  simp [State.regionWrite, h]

/-- The other regions hold records that no plain write changes. -/
theorem State.regionWrite_records {g : Region} (h : g.writer m = true) (hg : ∀ c, g ≠ .priv c) : s.regionWrite g m addr bytes = s := by
  cases g with
  | priv c => exact absurd rfl (hg c)
  | window | journal | legalStore | eventJournal | configArea => simp [State.regionWrite, h]

theorem State.accessed_closed {g : Region} {w : Bool} {a : Nat} (h : s.mayAccess m (a / 4096) = false) :
    (s.accessed m g w addr bytes).memRead a = s.memRead a := by
  unfold State.accessed
  split
  · rfl
  · split
    · exact State.windowWrite_closed h
    · exact State.memRead_win (State.regionWrite_win g) a

theorem State.accessed_page (g : Region) (w : Bool) (p : Nat) : (s.accessed m g w addr bytes).page p = s.page p := by
  unfold State.accessed
  split
  · rfl
  · split
    · exact State.windowWrite_page p
    · exact State.page_win (State.regionWrite_win g) p

/-- A write all of whose pages are open lands whole. -/
theorem State.windowWrite_open (h : ∀ i < bytes.length, s.mayAccess m ((addr + i) / 4096) = true) :
    s.windowWrite m addr bytes = s.memWriteList addr bytes := by
  have hk : s.openRun m addr bytes.length = bytes.length := takeWhile_range_length le_rfl h fun hn => absurd hn (lt_irrefl _)
  simp only [State.windowWrite_eq, hk, if_true, List.take_length]

/-- A write that meets a closed page lands up to its first byte there. -/
theorem State.windowWrite_breach {k : Nat} (hk : k < bytes.length) (ho : ∀ i < k, s.mayAccess m ((addr + i) / 4096) = true)
    (hc : s.mayAccess m ((addr + k) / 4096) = false) :
    s.windowWrite m addr bytes = match m.code with
      | some _ => (s.memWriteList addr (bytes.take k)).freeze m 1 (BitVec.ofNat 32 (addr + k))
      | none => (s.memWriteList addr (bytes.take k)).firewallDrop m (addr + k) 0 := by
  have hr : s.openRun m addr bytes.length = k := takeWhile_range_length hk.le ho fun _ => hc
  simp only [State.windowWrite_eq, hr, if_neg hk.ne]

/-- Settles O48. A write lands on the run of bytes before the first closed page; the ownership table, the supply and the freeze are
as they were before the beats of the access. -/
theorem aWindowWriteLandsOnlyOnItsMastersPages : Obligations.AWindowWriteLandsOnlyOnItsMastersPages := by
  unfold Obligations.AWindowWriteLandsOnlyOnItsMastersPages
  intro s m g w addr bytes
  cases hr : s.reaches m with
  | false =>
    obtain ⟨t, ht, hwin⟩ := exec_windowAccess_lost (bytes := bytes) (addr := addr) g w (by rw [hr]; decide)
    exact ⟨t, ht, fun a _ => State.memRead_win hwin a, State.page_win hwin, fun h => Bool.noConfusion h⟩
  | true =>
    obtain ⟨hwin, -, -, -, htime⟩ := State.beats_frame (s := s) (beatsOf addr bytes.length) m
    have hacc := fun p => State.mayAccess_win (m := m) hwin p
    have hread := fun a => State.memRead_win hwin a
    refine ⟨_, exec_windowAccess g w hr, fun a ha => (State.accessed_closed ((hacc _).trans ha)).trans (hread a),
      fun p => (State.accessed_page g w p).trans (State.page_win hwin p), fun _ => ⟨htime, State.accessed_idle, ?window, ?region⟩⟩
    case window =>
      rintro rfl rfl hn
      rw [State.accessed_window hn]
      simp only [← hacc]
      refine ⟨fun ho => ?_, fun k hk ho hc => State.windowWrite_breach hk ho hc⟩
      rw [State.windowWrite_open ho]
      refine ⟨fun hwf i hi => State.memWriteList_same addr i bytes hi (by rw [hwin]; exact hwf),
        fun a ha => (State.memWriteList_other addr a bytes ha).trans (hread a), ?_⟩
      rw [← hwin]
      exact State.memWriteList_frame addr bytes
    case region =>
      rintro hg rfl hn
      rw [State.accessed_region hg hn]
      exact ⟨State.regionWrite_denied, fun hm => ⟨by rintro c rfl; exact State.regionWrite_priv hm, State.regionWrite_records hm⟩⟩

end Sys2Proof.Machine
end

section
/-! Lane faults, grid windows, reversed sensors, the dark burst and captures (12 R297, R300-R302, R305, R307, R308, R311). -/
namespace Sys2Proof.Machine

variable {s : State}

/-! ### Lane faults -/

/-- A window is faulty with 200 bits of which too few or too many are ones. -/
theorem streamFaulty_iff (bits : List Bool) : streamFaulty bits = true ↔ bits.length = 200 ∧ (bits.count true < 4 ∨ 196 < bits.count true) := by
  simp only [streamFaulty, Bool.and_eq_true, Bool.or_eq_true, beq_iff_eq, decide_eq_true_eq]

/-- A lane's new fault is noted: its bit and its net are marked, it is counted and announced (R297). -/
def State.laneFaulted (n : MLane) (s : State) : State :=
  (((s.laneBad n).modDia fun d => { d with laneFaults := vmod d.laneFaults n fun k => clampU 8 (k.toNat + 1) }).withErr fun t => t.modMet fun m =>
    { m with laneFault := m.laneFault ||| bit 24 n.val,
             netFault := match netOf n with | some k => m.netFault ||| bit 9 k.val | none => m.netFault }).raiseAt .met 0 n.val 0 0

theorem exec_laneFault (hs : s.supplied = true) {n : MLane} (hn : s.hasLane n = true) (bits : List Bool) :
    exec (.laneFault n bits) s = .next (
      if streamFaulty bits = false then s
      else if s.met.laneFault.getLsbD n.val = true then s.laneBad n
      else s.laneFaulted n) := by
  show execLaneFault n bits s = _
  rw [execLaneFault, State.live_supplied _ hs]
  simp only [hn, Bool.not_true, Bool.false_or, Bool.not_eq_true']
  rfl

/-- 10 ms after the last faulty window the fault of a lane clears (log entry 7). -/
theorem exec_laneClear (hs : s.supplied = true) (n : MLane) :
    exec (.laneClear n) s = .next (
      if s.met.laneFault.getLsbD n.val = true then
        ((s.runTo (s.met.laneBadAt.get n + ms 10)).modMet fun m => { m with laneFault := m.laneFault &&& ~~~ bit 24 n.val }).raiseAt .met 1 n.val 0 0
      else s) := by
  show execLaneClear n s = _
  rw [execLaneClear, State.live_supplied _ hs]

/-! ### Grid windows -/

theorem State.closeLate_met (n : Int) : (s.closeLate n).met = s.met := by
  simp only [State.closeLate, State.cond]
  split <;> rfl

theorem State.cond_met (c : Bool) (f : State → State) (h : ∀ t : State, (f t).met = t.met) : (s.cond c f).met = s.met := by
  cases c
  · rfl
  · exact h s

theorem OnlyEvents.cond_raise (c : Bool) (e : EvSrc) (b : Nat) : OnlyEvents s (s.cond c (·.raise e b)) := by
  cases c
  · exact .refl
  · exact .raise e b

/-- Metrology after a grid window of which a part may lie before the newest second boundary. -/
def State.windowMet (s : State) (g : GridIn) (m : Met) : Met :=
  let live := g.ref.isSome
  let f := if live then g.freq else 0
  let choose := live && !s.met.nominalKnown
  let seq := s.met.window + 1
  { m with freq := f, window := seq, noVoltage := !live,
           nominalKnown := live && (m.nominalKnown || (decide (45000 ≤ f) && decide (f < 65000))),
           nominal60 := if choose && decide (55000 ≤ f) && decide (f < 65000) then true
             else if choose && decide (45000 ≤ f) && decide (f < 55000) then false else m.nominal60,
           grid := Vector.ofFn fun p => gridQty g p live,
           harm := Vector.ofFn fun b => harmWords seq (if live then g.mag.get b else []) (if live then g.ang.get b else []),
           accQ := m.accQ + (reactiveUnits g g.length - if s.legalOn then reactiveUnits g (s.windowLate g.length) else 0) }

/-- The state in which the window is taken over: its late part is closed as a net of the second it lies in. -/
def State.lateClosed (s : State) (g : GridIn) : State :=
  s.cond (s.legalOn && s.windowLate g.length != 0) (·.closeLate (reactiveUnits g (s.windowLate g.length)))

theorem State.lateClosed_met (g : GridIn) : (s.lateClosed g).met = s.met := State.cond_met _ _ fun _ => State.closeLate_met _

theorem State.lateClosed_bil (g : GridIn) :
    (s.lateClosed g).bil = (if s.legalOn = true ∧ s.windowLate g.length ≠ 0 then s.closeLate (reactiveUnits g (s.windowLate g.length)) else s).bil := by
  simp only [State.lateClosed, State.cond, Bool.and_eq_true, bne_iff_ne]

/-- The window is taken over, the loss of voltage is announced. -/
def State.windowTaken (s : State) (g : GridIn) : State :=
  ((s.lateClosed g).modMet (s.windowMet g)).cond (!g.ref.isSome && !s.met.noVoltage) (·.raise .met 2)

theorem State.windowTaken_met (g : GridIn) : (s.windowTaken g).met = s.windowMet g s.met := by
  refine (OnlyEvents.cond_raise _ _ _).met.trans ?_
  rw [State.modMet, State.lateClosed_met]

theorem State.windowTaken_bil (g : GridIn) : (s.windowTaken g).bil = (s.lateClosed g).bil := (OnlyEvents.cond_raise _ _ _).bil

/-- After the window the shifts follow the frequency. -/
theorem exec_gridWindowEnd (hs : s.supplied = true) (g : GridIn) : exec (.gridWindowEnd g) s = .next ((s.windowTaken g).setShifts) := by
  show execGridWindowEnd g s = _
  rw [execGridWindowEnd, State.live_supplied _ hs]
  rfl

/-- The shifts alone follow. -/
theorem State.setShifts_met : s.setShifts.met = { s.met with shift := s.setShifts.met.shift } := rfl
theorem State.setShifts_bil : s.setShifts.bil = s.bil := by simp only [State.setShifts, State.modMet_frame]

theorem gridWindowEnd_shows (hs : s.supplied = true) (g : GridIn) : ∃ t : State, exec (.gridWindowEnd g) s = .next t ∧
    t.met.freq = (if g.ref.isSome = true then g.freq else 0) ∧ t.met.window = s.met.window + 1 ∧ t.met.noVoltage = !g.ref.isSome ∧
    (∀ p : Fin 3, t.met.grid.get p = gridQty g p g.ref.isSome) ∧
    t.met.accQ = s.met.accQ + (reactiveUnits g g.length - if s.legalOn = true then reactiveUnits g (s.windowLate g.length) else 0) ∧
    t.bil = (if s.legalOn = true ∧ s.windowLate g.length ≠ 0 then s.closeLate (reactiveUnits g (s.windowLate g.length)) else s).bil ∧
    t.met.accP = s.met.accP ∧ t.met.accOut = s.met.accOut := by
  refine ⟨_, exec_gridWindowEnd hs g, ?_⟩
  rw [State.setShifts_met, State.setShifts_bil, State.windowTaken_met, State.windowTaken_bil, State.lateClosed_bil]
  exact ⟨rfl, rfl, rfl, fun p => ofFn_get .., rfl, rfl, rfl, rfl⟩

/-! ### Reversed sensors -/

theorem exec_reversedSensor (hs : s.supplied = true) (i : Fin 9) :
    exec (.reversedSensor i) s = .next (
      if s.met.reversed.getLsbD i.val = false ∧ (if i.val < 8 then 10 else 60) ≤ s.met.revRun.get i then
        ((s.modMet fun m =>
          { m with reversed := m.reversed ||| bit 9 i.val,
                   session := vmapIdx m.session fun o x => if o.val = i.val && x.running then { x with flags := x.flags ||| 16 } else x }).raiseAt
          .met 4 i.val 0 0).tamperEvent 6 s.now
      else s) := by
  show execReversedSensor i s = _
  rw [execReversedSensor, State.live_supplied _ hs, State.revDeclare]
  simp only [Bool.and_eq_true, Bool.not_eq_true', decide_eq_true_eq]

/-! ### The dark burst -/

/-- The dark current of an outlet counts where it lies above 0.5 % of full scale (R308). -/
theorem State.darkSecond_eq (sec : Nat) (o : Outlet) (x : Vector Int 32) :
    s.darkSecond sec o x =
      let i := ((sumFinI 32 fun k => s.laneCode (laneI o) 0 (x.get k)).tdiv 32).natAbs
      let n := s.met.darkRem.get o + 10 * i
      if s.hasOutlet o = true ∧ s.laneUser (laneI o) 0 8388607 < 200 * i then
        s.modMet fun m =>
          { m with dark := vmod m.dark o (· + n / 36), darkRem := vmod m.darkRem o fun _ => n % 36, darkPending := true,
                   darkFirst := vmod m.darkFirst o fun y => y <|> some sec, darkLast := vmod m.darkLast o fun _ => sec }
      else s :=
  if_congr (by rw [Bool.and_eq_true, decide_eq_true_eq, State.burstMean]) rfl rfl

/-- AUXPWR, 500 µs, MOD_CLK for 1 ms with the samples, and off (R307; log entry 7). -/
theorem exec_darkBurst (h : s.pwr.mode = .hold) (x : Vector (Vector Int 32) 8) :
    exec (.darkBurst x) s = .next (
      ((((((s.runToFleet ((s.now / 1000000000 + 1) * 1000000000)).modPwr fun p => { p with burst := .powered }).runCycles (us 500)).modPwr fun p =>
        { p with burst := .clocked }).forAll fun (o : Outlet) u => u.darkSecond ((s.now / 1000000000 + 1) * 1000000000) o (x.get o)).runCycles
          (ms 1)).modPwr fun p => { p with burst := .off }) := by
  show execDarkBurst x s = _
  rw [execDarkBurst, if_neg (not_not_intro h)]
  simp only [State.burstStep, State.runCycles_zero]
  rfl

theorem exec_darkBurst_awake (h : s.pwr.mode ≠ .hold) (x : Vector (Vector Int 32) 8) : exec (.darkBurst x) s = .next s := by
  show execDarkBurst x s = _
  rw [execDarkBurst, if_pos h]

/-! ### Captures -/

theorem exec_captureDone (hs : s.supplied = true) {c : CaptureRun} (hc : s.met.capture = some c) :
    exec .captureDone s = .next (
      if c.bytes = c.refs.length * 4096 then
        ((s.modMet fun m => { m with capture := none }).raise .met 6).completeAt c.ring c.seq 0 (BitVec.ofNat 32 c.bytes) (c.first.getD s.now)
      else s) := by
  show execCaptureDone s = _
  rw [execCaptureDone, State.live_supplied _ hs, hc]

theorem exec_metCapture {r : Ring} {d : Desc} (h : s.due r d = true) :
    exec (.metCapture r d) s = .next ((s.takeUp r d).modMet fun m =>
      { m with capture := some ⟨r, d.seq, bitsOf (d.w 24) 0 24, d.b 27 == 1, (s.takeUp r d).listRefs (d.w 28) (d.w 32).toNat, 0, none⟩ }) := by
  show execMetCapture r d s = _
  rw [execMetCapture, State.work_due _ h]

/-- Settles O41, a command at a time. -/
theorem lanesWindowsAndCapturesAreNoted : Obligations.LanesWindowsAndCapturesAreNoted := by
  unfold Obligations.LanesWindowsAndCapturesAreNoted
  refine fun s => ⟨fun hs => ⟨fun n bits hn => ⟨?newFault, ?oldFault, ?sound⟩, fun n hf => ?clear, fun n hf => ?notFaulty,
    gridWindowEnd_shows hs, fun i => ⟨fun hr hn => ?reversed, fun h => ?notReversed⟩, fun c hc => ⟨fun hb => ?full, fun hb => ?filling⟩⟩,
    fun x => ⟨fun h => ?burst, fun h => exec_darkBurst_awake h x⟩, fun r d h => exec_metCapture h⟩
  case newFault =>
    intro hl ho hf
    rw [exec_laneFault hs hn, (streamFaulty_iff bits).mpr ⟨hl, ho⟩, hf]
    rfl
  case oldFault =>
    intro hl ho hf
    rw [exec_laneFault hs hn, (streamFaulty_iff bits).mpr ⟨hl, ho⟩, hf]
    rfl
  case sound =>
    intro h
    have hf : streamFaulty bits = false := by
      rw [← Bool.not_eq_true, streamFaulty_iff]
      omega
    rw [exec_laneFault hs hn, if_pos hf]
  case clear => rw [exec_laneClear hs, if_pos hf]
  case notFaulty => rw [exec_laneClear hs, hf]; rfl
  case reversed => rw [exec_reversedSensor hs, if_pos ⟨hr, hn⟩]
  case notReversed =>
    rw [exec_reversedSensor hs, if_neg]
    rintro ⟨hr, hn⟩
    rcases h with h | h
    · rw [hr] at h
      exact Bool.noConfusion h
    · omega
  case full => rw [exec_captureDone hs hc, if_pos hb]
  case filling => rw [exec_captureDone hs hc, if_neg hb]
  case burst =>
    rw [exec_darkBurst h]
    simp only [State.darkSecond_eq]

end Sys2Proof.Machine
end

section
/-! The legal domain's instants: second boundaries, interval ends, session events, tariff sets, clock steps, tamper inputs (12 R303, R304,
R312; 13 R319, R324, R325, R328, R339). -/
namespace Sys2Proof.Machine

variable {s : State}

/-! ### Second boundaries -/

/-- The next whole second, that of the legal domain where it acts. -/
def State.nextSecond (s : State) : Nat := ((if s.legalOn = true then s.met.second else s.now / 1000000000) + 1) * 1000000000

/-- Time has come to the next whole second; with supply the real-time clock is set to it (20 R465). -/
def State.atSecond (s : State) : State :=
  let u := s.runToFleet s.nextSecond
  if s.supplied = true then u.modClk fun c => { c with rtcFix := c.fleetFix } else u

/-- Time leaves the supply as it is. -/
theorem State.atSecond_eq :
    s.atSecond = (s.runToFleet s.nextSecond).cond ((s.runToFleet s.nextSecond).pwr.mode == .run || (s.runToFleet s.nextSecond).pwr.mode == .idle)
      (·.modClk fun c => { c with rtcFix := c.fleetFix }) := by
  rw [(State.runToFleet_frame _).1]
  rfl

theorem exec_secondBoundary_consumed (h : consumedAt s.met.doneAt s.now = true) :
    exec .secondBoundary s = .next (s.modMet fun m => { m with doneAt := none }) := by
  show execSecondBoundary s = _
  simp only [execSecondBoundary, h, if_true]

theorem exec_secondBoundary (h : consumedAt s.met.doneAt s.now = false) :
    exec .secondBoundary s = .next (
      if s.atSecond.legalOn = false then s.atSecond
      else
        let i := decide (s.atSecond.nextBoundaryFleet = s.nextSecond)
        (s.atSecond.instant s.nextSecond true i (s.atSecond.signalsAt s.nextSecond)).cond i (·.modBil fun b => { b with doneAt := some s.nextSecond })) := by
  show execSecondBoundary s = _
  simp only [State.atSecond_eq, execSecondBoundary, h, State.nextSecond, Config.secondNs, Bool.false_eq_true, if_false, Bool.not_eq_true']
  rfl

/-! ### Interval ends -/

/-- The next interval end, with the whole second of the same time. -/
theorem State.intervalInstant_eq :
    s.intervalInstant =
      let t := s.nextBoundaryFleet
      let u := s.runToFleet t
      let sc : Bool := decide ((s.met.second + 1) * 1000000000 = t)
      let v := u.instant t sc true (u.signalsAt t)
      if sc = true then v.modMet fun m => { m with doneAt := some t } else v := by
  simp only [State.intervalInstant, State.runToFleet_frame, State.cond, Config.secondNs]

theorem exec_intervalEnd_consumed (h : consumedAt s.bil.doneAt s.now = true) :
    exec .intervalEnd s = .next (s.modBil fun b => { b with doneAt := none }) := by
  show execIntervalEnd s = _
  simp only [execIntervalEnd, h, if_true]

theorem exec_intervalEnd (h : consumedAt s.bil.doneAt s.now = false) :
    exec .intervalEnd s = .next (if s.legalOn = true then s.intervalInstant else s) := by
  show execIntervalEnd s = _
  simp only [execIntervalEnd, h, Bool.false_eq_true, if_false, Bool.not_eq_true', ← Bool.not_eq_true, ite_not]

/-- A held tariff set acts at the interval end that it names (R319). -/
theorem exec_bilTariffSet {r : Ring} {d : Desc} (hl : s.legalOn = true) (hd : s.tariffSets.contains (r, d) = true)
    (ht : d.notBefore.toNat ≤ s.nextBoundaryFleet) :
    exec (.bilTariffSet r d) s = .next (s.intervalInstant.modBil fun b => { b with doneAt := some s.nextBoundaryFleet }) := by
  show execBilTariffSet r d s = _
  simp only [execBilTariffSet, hl, hd, ht, decide_true, Bool.and_self, if_true]

/-! ### Session events and clock steps -/

/-- A session event away from a second and from an interval end is an instant of its own. -/
theorem exec_sessionEvent {o : Outlet} {start : Bool} {x : Outlet × Bool × Word × Nat × Byte} (hl : s.legalOn = true)
    (hx : (s.met.signals.find? fun y => y.1 == o && y.2.1 == start) = some x) (hs : (s.met.second + 1) * 1000000000 ≠ x.2.2.2.1)
    (hi : s.nextBoundaryFleet ≠ x.2.2.2.1) :
    exec (.sessionEvent o start) s = .next (s.instant x.2.2.2.1 false false (s.signalsAt x.2.2.2.1)) := by
  show execSessionEvent o start s = _
  rw [execSessionEvent, hl, hx]
  simp only [Config.secondNs, hs, hi, decide_false, State.cond_false]

theorem exec_clockStep {x : StepRec} {l : List StepRec} (hl : s.legalOn = true) (hx : s.bil.stepPend = x :: l) :
    exec .clockStep s = .next (((((s.modBil fun b => { b with stepPend := l }).closeNets).clockStepAt x s.now).publish 0 s.now).exportAt s.now) := by
  show execClockStep s = _
  rw [execClockStep, hl, hx]

/-! ### Tamper inputs -/

theorem exec_tamper_low (h : s.pwr.mode ≠ .ship) (y : Fin 3) (held : Nat) :
    exec (.tamper y true held) s = .next (
      if tamperNs y ≤ held ∧ s.bil.tamperArm.getLsbD y.val = true then (s.armTamper y false).tamperEvent ⟨y.val, by omega⟩ s.now else s) := by
  show execTamper y true held s = _
  simp only [execTamper, if_neg h, if_true, Bool.and_eq_true, decide_eq_true_eq]

theorem exec_tamper_high (h : s.pwr.mode ≠ .ship) (y : Fin 3) (held : Nat) :
    exec (.tamper y false held) s = .next (if 10000000 ≤ held then s.armTamper y true else s) := by
  show execTamper y false held s = _
  rw [execTamper, if_neg h]
  rfl

theorem exec_tamper_ship (h : s.pwr.mode = .ship) (y : Fin 3) (low : Bool) (held : Nat) : exec (.tamper y low held) s = .next s := by
  show execTamper y low held s = _
  rw [execTamper, if_pos h]

/-- Settles O42, a command at a time. -/
theorem legalInstantsAreProcessedOnce : Obligations.LegalInstantsAreProcessedOnce := by
  unfold Obligations.LegalInstantsAreProcessedOnce
  refine fun s => ⟨⟨exec_secondBoundary_consumed, fun hc hl => ?off, fun hc hl => ⟨fun hi => ?second, fun hi => ?both⟩⟩,
    ⟨exec_intervalEnd_consumed, fun hc hl => ?intervalOff, fun hc hl => ?interval, fun r d hl hd ht => ?tariff⟩,
    fun o start x hl hx => fun hs hi => exec_sessionEvent hl hx hs hi, fun x l hl hx => exec_clockStep hl hx,
    fun y held => ⟨fun h => ⟨fun hn ha => ?tamper, fun hn => ?quiet, fun hh => ?rearmed, fun hh => ?high⟩,
      fun h low => exec_tamper_ship h y low held⟩⟩
  case off => exact (exec_secondBoundary hc).trans (congrArg _ (if_pos hl))
  case second =>
    have hi' : decide (s.atSecond.nextBoundaryFleet = s.nextSecond) = false := decide_eq_false hi
    have hl' : s.atSecond.legalOn = true := hl
    rw [exec_secondBoundary hc, hl', hi']
    rfl
  case both =>
    have hi' : decide (s.atSecond.nextBoundaryFleet = s.nextSecond) = true := decide_eq_true hi
    have hl' : s.atSecond.legalOn = true := hl
    rw [exec_secondBoundary hc, hl', hi']
    rfl
  case intervalOff => rw [exec_intervalEnd hc, hl]; rfl
  case interval => rw [exec_intervalEnd hc, if_pos hl, State.intervalInstant_eq]
  case tariff => rw [exec_bilTariffSet hl hd ht, State.intervalInstant_eq]
  case tamper => rw [exec_tamper_low h, if_pos ⟨hn, ha⟩]; rfl
  case quiet =>
    rw [exec_tamper_low h, if_neg]
    rintro ⟨hn', ha⟩
    rcases hn with hn | hn
    · exact absurd hn' (Nat.not_le.mpr hn)
    · exact Bool.noConfusion (ha.symm.trans hn)
  case rearmed => rw [exec_tamper_high h, if_pos hh]; rfl
  case high => rw [exec_tamper_high h, if_neg (Nat.not_le.mpr hh)]

end Sys2Proof.Machine
end

section
/-! Receipts, exports and displays (13 R333, R334, R337, R338, R343, R346). -/
namespace Sys2Proof.Machine

variable {s : State}

/-! ### Receipts and exports -/

/-- A signed receipt, or one without a signature, is stored among the newest 128 (R333, R334). -/
def State.storeReceipt (s : State) (number : Nat) (x : Receipt) (ok verified : Bool) : State :=
  let full := decide (128 ≤ s.bil.receipts.length)
  ((s.withErr fun t => t.modBil fun b =>
    { b with unsignedR := b.unsignedR.filter fun y => y.number != number, receipts := ({ x with signed := ok } :: b.receipts).take 128,
             errSign := b.errSign || !ok, errStore := b.errStore || !verified,
             cntOverwritten := if full = true then satInc b.cntOverwritten else b.cntOverwritten }).modKey fun k =>
      { k with cntSign := if ok = true then satInc k.cntSign else k.cntSign }).raise .bil 6

theorem exec_receiptReady {number : Nat} {x : Receipt} (hl : s.bil.legalUp = true)
    (hx : (s.bil.unsignedR.find? fun y => y.number == number) = some x) (signed verified : Bool) :
    exec (.receiptReady number signed verified) s = .next (
      let t := s.storeReceipt number x (signed && s.canSign) verified
      if decide (128 ≤ s.bil.receipts.length) = true then t.raise .bil 7 else t) := by
  show execReceiptReady number signed verified s = _
  rw [execReceiptReady, hl, hx]
  rfl

theorem exec_receiptReady_unknown {number : Nat} (signed verified : Bool)
    (h : (s.bil.unsignedR.find? fun y => y.number == number) = none ∨ s.bil.legalUp = false) :
    exec (.receiptReady number signed verified) s = .next s := by
  show execReceiptReady number signed verified s = _
  rw [execReceiptReady]
  rcases h with h | h
  · rw [h]
    exact congrArg _ (ite_self _)
  · rw [h]
    rfl

section
variable {r : Ring} {d : Desc} (hd : s.due r d = true)
include hd

/-- A fetch copies the bytes of a held receipt to its page (R346). -/
theorem exec_bilReceiptFetch {x : Receipt} (hx : s.receipt? (d.w 24) = some x) :
    exec (.bilReceiptFetch r d) s =
      .next (((s.takeUp r d).memWriteList ((pageOf (d.w 28)).val * 4096) (x.bytes (s.takeUp r d).receiptKey)).complete r d.seq 0
        (BitVec.ofNat 32 (x.bytes (s.takeUp r d).receiptKey).length)) := by
  have hx' : (s.takeUp r d).receipt? (d.w 24) = some x := hx
  show execBilReceiptFetch r d s = _
  rw [execBilReceiptFetch, State.work_due _ hd, hx']

theorem exec_bilExport : exec (.bilExport r d) s = .next ((s.takeUp r d).modBil fun b => { b with exportRun := some (r, d) }) := by
  show execBilExport r d s = _
  rw [execBilExport, State.work_due _ hd]

end

/-! ### Displays -/

section
variable {o : Fin 8}

/-- At the end of the dwell the next item is shown, or a sequence starts (R337). -/
theorem exec_displayDwell {c : DisplayCfg} (hl : s.legalOn = true) (hc : (s.bil.disp.get o).entry = some c) :
    exec (.displayDwell o) s = .next (
      let t := s.runTo ((s.bil.disp.get o).since + sec c.dwell)
      if (s.bil.disp.get o).item + 1 < (DispSt.codes c).length then
        (t.modBil fun b => { b with disp := vmod b.disp o fun y => { y with item := y.item + 1, since := t.clk.cycle } }).dispShow o
      else t.dispStart o) := by
  show execDisplayDwell o s = _
  simp only [execDisplayDwell, hl, hc, Bool.not_true, Bool.false_eq_true, if_false]

theorem exec_displayDwell_start (hl : s.legalOn = true) (hc : (s.bil.disp.get o).entry = none) :
    exec (.displayDwell o) s = .next (s.dispStart o) := by
  show execDisplayDwell o s = _
  simp only [execDisplayDwell, hl, hc, Bool.not_true, Bool.false_eq_true, if_false]

theorem exec_displayPoll {c : DisplayCfg} (hl : s.legalOn = true) (hc : (s.bil.disp.get o).entry = some c) :
    exec (.displayPoll o) s = .next (
      let t := s.runTo ((s.bil.disp.get o).lastPoll + sec 1)
      (t.modBil fun b =>
        { b with disp := vmod b.disp o fun y => { y with lastPoll := t.clk.cycle, waiting := some t.clk.cycle } }).dispSend c 2 0 (List.replicate 32 32#8)) := by
  show execDisplayPoll o s = _
  rw [execDisplayPoll, hl, hc]

/-- A right answer has four bytes: the address, a status with bit 0 set, and the check over the two (R338). -/
theorem answerOk_iff (c : DisplayCfg) (l : List Byte) :
    answerOk c l = true ↔ ∃ st lo hi : Byte, l = [BitVec.ofNat 8 c.pos, st, lo, hi] ∧ st.getLsbD 0 = true ∧ hi ++ lo = crc16 [BitVec.ofNat 8 c.pos, st] := by
  constructor
  · intro h
    unfold answerOk at h
    split at h
    case h_1 a st lo hi =>
      simp only [Bool.and_eq_true, beq_iff_eq] at h
      obtain ⟨⟨rfl, hst⟩, hcrc⟩ := h
      exact ⟨st, lo, hi, rfl, hst, hcrc⟩
    case h_2 => exact Bool.noConfusion h
  · rintro ⟨st, lo, hi, rfl, hst, hcrc⟩
    simp only [answerOk, hst, hcrc, beq_self_eq_true, Bool.and_self]

/-- The two halves of a check are its bytes. -/
theorem half_bytes (x : Half) : (bitsOf x 8 8 : Byte) ++ (bitsOf x 0 8 : Byte) = x := by
  refine BitVec.eq_of_getLsbD_eq fun i hi => ?_
  simp only [bitsOf, BitVec.getLsbD_append, BitVec.getLsbD_extractLsb']
  by_cases h : i < 8
  · simp [h]
  · simp [h, show i - 8 < 8 by omega, show 8 + (i - 8) = i by omega]

theorem exec_displayAnswer {c : DisplayCfg} {w : Nat} (hl : s.bil.legalUp = true) (hw : (s.bil.disp.get o).waiting = some w)
    (hc : (s.bil.disp.get o).entry = some c) (bytes : List Byte) :
    exec (.displayAnswer o bytes) s = .next (
      if answerOk c bytes = true then
        s.modBil fun b =>
          { b with dispFaulty := b.dispFaulty &&& ~~~ dispBit c, disp := vmod b.disp o fun y => { y with waiting := none, missed := 0 } }
      else
        let t := (s.runTo (w + ms 10)).modBil fun b => { b with disp := vmod b.disp o fun y => { y with waiting := none, missed := y.missed + 1 } }
        if 3 ≤ (s.bil.disp.get o).missed + 1 ∧ s.bil.dispFaulty &&& dispBit c = 0 then
          (t.withErr fun t => t.modBil fun b => { b with dispFaulty := b.dispFaulty ||| dispBit c }).raise .bil 10
        else t) := by
  show execDisplayAnswer o bytes s = _
  simp only [execDisplayAnswer, hl, hw, hc, Bool.not_true, Bool.false_eq_true, if_false, Bool.and_eq_true, decide_eq_true_eq,
    State.runTo_frame]

/-- A wrong length, address, status or check is no right answer. -/
theorem answerOk_wrong {c : DisplayCfg} {l : List Byte}
    (h : l.length ≠ 4 ∨ l[0]? ≠ some (BitVec.ofNat 8 c.pos) ∨ (∃ y, l[1]? = some y ∧ y.getLsbD 0 = false) ∨
      (∃ y z, l[2]? = some y ∧ l[3]? = some z ∧ z ++ y ≠ crc16 (l.take 2))) : ¬ answerOk c l = true := by
  rw [answerOk_iff]
  rintro ⟨st, lo, hi, rfl, hst, hcrc⟩
  rcases h with h | h | ⟨y, hy, hy0⟩ | ⟨y, z, hy, hz, hne⟩
  · exact h rfl
  · exact h rfl
  · cases hy
    exact Bool.noConfusion (hst.symm.trans hy0)
  · cases hy
    cases hz
    exact hne hcrc

end

/-- Settles O44, a command at a time. -/
theorem receiptsExportsAndDisplaysAct : Obligations.ReceiptsExportsAndDisplaysAct := by
  unfold Obligations.ReceiptsExportsAndDisplaysAct
  refine fun s => ⟨fun number signed verified x hl hx => exec_receiptReady hl hx signed verified,
    fun number signed verified h => exec_receiptReady_unknown signed verified h,
    fun r d hd => ⟨fun x hx => exec_bilReceiptFetch hd hx, exec_bilExport hd⟩,
    fun o c hc => ⟨fun hl => ⟨⟨fun hi => ?next, fun hi => ?last⟩, exec_displayPoll hl hc⟩,
      fun w hu hw => ⟨fun st hst => ?answer, fun bytes hb => ⟨fun hm => ?missed, fun hm hf => ?faulty⟩⟩⟩,
    fun o hl hc => exec_displayDwell_start hl hc⟩
  case next => exact (exec_displayDwell hl hc).trans (congrArg _ (if_pos hi))
  case last => exact (exec_displayDwell hl hc).trans (congrArg _ (if_neg (Nat.not_lt.mpr hi)))
  case answer =>
    have hok : answerOk c [BitVec.ofNat 8 c.pos, st, bitsOf (crc16 [BitVec.ofNat 8 c.pos, st]) 0 8, bitsOf (crc16 [BitVec.ofNat 8 c.pos, st]) 8 8] = true :=
      (answerOk_iff c _).mpr ⟨st, _, _, rfl, hst, half_bytes _⟩
    exact (exec_displayAnswer hu hw hc _).trans (congrArg _ (if_pos hok))
  case missed =>
    rw [exec_displayAnswer hu hw hc, if_neg (answerOk_wrong hb)]
    refine congrArg _ (if_neg ?_)
    rintro ⟨hm', hf⟩
    rcases hm with hm | hm
    · omega
    · exact hm hf
  case faulty =>
    rw [exec_displayAnswer hu hw hc, if_neg (answerOk_wrong hb)]
    exact congrArg _ (if_pos ⟨Nat.succ_le_succ hm, hf⟩)

end Sys2Proof.Machine
end

section
/-! Held steps, the battery's timers, its history, the backup estimate, the impedance table, and its two descriptors (14 R353, R354, R357,
R359-R362). -/
namespace Sys2Proof.Machine

variable {s : State}

/-- The estimate of the backup cell a minute after the last one (R362). -/
def State.backupEstimated (s : State) : State :=
  let t := s.runTo (s.bat.lastEstimate + sec 60)
  let vbak : Half := BitVec.ofNat 16 (t.thm.supply.get 5)
  let e := bakEstimate vbak.toNat
  t.modBat fun x =>
    { x with vbak := vbak, bakEst := BitVec.ofNat 8 e, bakLow := decide (e < 20), bakCrit := decide (e < 5), lastEstimate := t.clk.cycle }

/-- The measurement's time has come, and it is no longer awaited. -/
def State.measured (s : State) (k : Nat) : State := (s.runTo (k + ms 5)).modBat fun x => { x with meas := none }

theorem State.measured_z (k : Nat) : (s.measured k).bat.z = s.bat.z := by
  simp only [State.measured, State.modBat, State.runTo_frame]

/-- The row and the column of the table that a measurement is for. -/
def State.measRow (s : State) (b : BatCfg) : Fin 8 := Fin.ofNat 8 (nearest (s.batTemp b) b.temps)
def State.measCol (s : State) : Fin 10 := Fin.ofNat 10 (min 9 (s.bat.soc / 1000))

/-- The conditions under which a step measurement counts (R353). -/
def stepCounts (b : BatCfg) (i1 i2 r cell : Int) (spread : Nat) : Prop :=
  i2 - i1 ≠ 0 ∧ (if 0 < i2 then b.chgI else b.disI) ≤ (i2 - i1).natAbs * 20 ∧ spread * 100 ≤ i2.natAbs ∧ cell ≤ 4 * r ∧ r ≤ 4 * cell

section
variable (hs : s.supplied = true)
include hs

/-! ### Held steps -/

/-- A request starts in NORMAL, at the apply instant after its time (log entry 7). -/
theorem exec_heldStepStart {w : List (Ring × DWord)} {k : Nat} (hw : s.bat.heldReq = some (w, k)) (hn : s.alc.st = .normal) :
    exec .heldStepStart s = .next ((s.runToFleet (k + 20000)).runToOffset 150000).heldStart := by
  show execHeldStepStart s = _
  simp only [execHeldStepStart, State.live_supplied _ hs, hw, hn, if_true]

/-- 120,000 rounds on, the reference is taken. -/
theorem exec_heldDone {h : HeldRun} {b : BatCfg} (hh : s.bat.heldRun = some h) (hb : s.cfg.active.battery = some b) :
    exec .heldDone s = .next (
      let t := s.runToFleet (h.start + 120000 * 250000)
      (((t.trueRefTaken (t.socV b) 150).modBat fun x => { x with cntHeld := satInc x.cntHeld }).raise .bat 8).heldEnd 0) := by
  show execHeldDone s = _
  simp only [execHeldDone, State.live_supplied _ hs, hh, hb, Config.roundNs]

/-! ### Ends, history, backup -/

theorem exec_batteryEnd {b : BatCfg} {k : Nat} (hb : s.cfg.active.battery = some b) (hk : (s.bat.eodSince <|> s.bat.eocSince) = some k) :
    exec .batteryEnd s = .next ((s.runTo (k + sec 1)).batEnds b).heldCheck := by
  show execBatteryEnd s = _
  rw [execBatteryEnd, State.live_supplied _ hs, hb, hk]

theorem exec_batteryHistoryWrite (hp : s.bat.present = true) :
    exec .batteryHistoryWrite s = .next (((s.runTo (s.bat.lastHistory + sec 60)).batStore).modBat fun x =>
      { x with lastHistory := (s.runTo (s.bat.lastHistory + sec 60)).clk.cycle }) := by
  show execBatteryHistoryWrite s = _
  rw [execBatteryHistoryWrite, State.live_supplied _ hs, if_pos hp]

theorem exec_bakEstimate (hr : s.pwr.mode = .run) :
    exec .bakEstimate s = .next (
      if bakEstimate (BitVec.ofNat 16 ((s.runTo (s.bat.lastEstimate + sec 60)).thm.supply.get 5)).toNat < 20 ∧ s.bat.bakLow = false then
        s.backupEstimated.raise .bat 11
      else s.backupEstimated) := by
  show execBakEstimate s = _
  simp only [execBakEstimate, State.live_supplied _ hs, hr, bne_self_eq_false, Bool.false_eq_true, if_false, Bool.and_eq_true,
    decide_eq_true_eq, Bool.not_eq_true', State.backupEstimated]

/-! ### The impedance table -/

variable {v1 i1 v2 i2 : Int} {spread k : Nat} {b : BatCfg} (hk : s.bat.meas = some k) (hb : s.cfg.active.battery = some b)
include hk hb

/-- A measurement that counts moves the cell by an eighth of the difference. -/
theorem exec_stepMeasurement {u : State} (hu : s.measured k = u) {cell r : Int}
    (hcell : ((s.bat.z.get (u.measRow b)).get u.measCol).toNat = cell) (hr : ((v2 - v1) * 1000000).tdiv (i2 - i1) = r) (hok : stepCounts b i1 i2 r cell spread) :
    exec (.stepMeasurement v1 i1 v2 i2 spread) s = .next (u.modBat fun x =>
      { x with z := vmod x.z (u.measRow b) fun row => vmod row u.measCol fun _ => clampU 32 (cell + (r - cell).tdiv 8).toNat,
               rLast := clampU 32 r.toNat, cntSteps := satInc x.cntSteps }) := by
  obtain ⟨h1, h2, h3, h4, h5⟩ := hok
  subst hu
  rw [← State.measured_z k] at hcell
  subst hcell hr
  show execStepMeasurement v1 i1 v2 i2 spread s = _
  rw [execStepMeasurement, State.live_supplied _ hs, hk, hb]
  refine congrArg _ (if_pos ?_)
  simp only [Bool.and_eq_true, decide_eq_true_eq]
  exact ⟨⟨⟨⟨h1, h2⟩, h3⟩, h4⟩, h5⟩

/-- Every other measurement is rejected. -/
theorem exec_stepMeasurement_rejected {u : State} (hu : s.measured k = u) {cell r : Int}
    (hcell : ((s.bat.z.get (u.measRow b)).get u.measCol).toNat = cell) (hr : ((v2 - v1) * 1000000).tdiv (i2 - i1) = r) (hok : ¬ stepCounts b i1 i2 r cell spread) :
    exec (.stepMeasurement v1 i1 v2 i2 spread) s = .next (u.modBat fun x => { x with cntReject := satInc x.cntReject }) := by
  subst hu
  rw [← State.measured_z k] at hcell
  subst hcell hr
  show execStepMeasurement v1 i1 v2 i2 spread s = _
  rw [execStepMeasurement, State.live_supplied _ hs, hk, hb]
  refine congrArg _ (if_neg ?_)
  simp only [Bool.and_eq_true, decide_eq_true_eq]
  rintro ⟨⟨⟨⟨h1, h2⟩, h3⟩, h4⟩, h5⟩
  exact hok ⟨h1, h2, h3, h4, h5⟩

end

/-! ### The two descriptors -/

section
variable {r : Ring} {d : Desc} (hd : s.due r d = true)
include hd

theorem exec_batHeldStep {l : List (Ring × DWord) × Nat} (hl : s.bat.heldReq.getD ([], (s.takeUp r d).now) = l) :
    exec (.batHeldStep r d) s =
      .next ((s.takeUp r d).modBat fun x => { x with heldReq := some (l.1 ++ [(r, d.seq)], l.2), lastHeldReq := some (s.takeUp r d).now }) := by
  show execBatHeldStep r d s = _
  rw [execBatHeldStep, State.work_due _ hd, ← hl]
  rfl

theorem exec_batShip :
    exec (.batShip r d) s = .next (((s.takeUp r d).modBat fun x => { x with shipArmed := !(d.b 24).getLsbD 0 }).complete r d.seq 0 0) := by
  show execBatShip r d s = _
  rw [execBatShip, State.work_due _ hd]

end

/-- Settles O45, a command at a time. -/
theorem heldStepsAndBatteryTimers : Obligations.HeldStepsAndBatteryTimers := by
  unfold Obligations.HeldStepsAndBatteryTimers
  refine fun s => ⟨fun hs => ⟨fun w k hw hn => exec_heldStepStart hs hw hn, fun h b hh hb => exec_heldDone hs hh hb,
    fun b k hb hk => exec_batteryEnd hs hb hk, exec_batteryHistoryWrite hs, fun hr => ⟨fun he hl => ?crossed, fun h => ?notCrossed⟩,
    fun v1 i1 v2 i2 spread k b hk hb => ⟨exec_stepMeasurement hs hk hb rfl rfl rfl, exec_stepMeasurement_rejected hs hk hb rfl rfl rfl⟩⟩,
    fun r d hd => ⟨fun h => ?first, fun w k h => ?joined, exec_batShip hd⟩⟩
  case crossed => exact (exec_bakEstimate hs hr).trans (congrArg _ (if_pos ⟨he, hl⟩))
  case notCrossed =>
    refine (exec_bakEstimate hs hr).trans (congrArg _ (if_neg ?_))
    rintro ⟨he, hl⟩
    rcases h with h | h
    · exact absurd he (Nat.not_lt.mpr h)
    · exact Bool.noConfusion (hl.symm.trans h)
  case first => exact exec_batHeldStep hd (by rw [h])
  case joined => exact exec_batHeldStep hd (by rw [h])

end Sys2Proof.Machine
end

section
/-! Doorbells, and the commands that move the state of a ring (15 R370, R372, R392, R393, R530; 16 R402). -/
namespace Sys2Proof.Machine

variable {s : State}

/-! ### Doorbells -/

section
variable {r : Ring} {off : Nat} {v : Word} {keep take : State → State}

/-- A doorbell of another function's ring is a breach (16 R402). -/
theorem State.doorbell_foreign {f : Fn} (hz : s.frozen (.pf f) = false) (hf : ringFn r ≠ f) :
    s.doorbell (.pf f) r off v keep take = (s.beat (.pf f)).freeze (.pf f) 3 (BitVec.ofNat 32 (r.val * 0x400 + off)) := by
  rw [State.doorbell, State.transact_free _ hz, if_pos hf]

variable (hz : s.frozen (.pf (ringFn r)) = false)
include hz

theorem State.doorbell_kept (h : (s.ring.get r).st = .disabled ∨ (s.ring.get r).st = .held) :
    s.doorbell (.pf (ringFn r)) r off v keep take = keep (s.beat (.pf (ringFn r))) := by
  rw [State.doorbell, State.transact_free _ hz, if_neg (not_not_intro rfl), (State.beat_frame _).2.2.2.1]
  rcases h with h | h
  · rw [h]
  · rw [h]

theorem State.doorbell_ignored (h : (s.ring.get r).st = .frozen) :
    s.doorbell (.pf (ringFn r)) r off v keep take = s.beat (.pf (ringFn r)) := by
  rw [State.doorbell, State.transact_free _ hz, if_neg (not_not_intro rfl), (State.beat_frame _).2.2.2.1, h]

theorem State.doorbell_taken (h : (s.ring.get r).st = .running ∨ (s.ring.get r).st = .draining) :
    s.doorbell (.pf (ringFn r)) r off v keep take = take (s.beat (.pf (ringFn r))) := by
  rw [State.doorbell, State.transact_free _ hz, if_neg (not_not_intro rfl), (State.beat_frame _).2.2.2.1]
  rcases h with h | h
  · rw [h]
  · rw [h]

end

/-- P is taken where it is no more than N ahead of A. -/
theorem State.takeP_eq (r : Ring) (p : Word) :
    s.takeP r p = if (p - (s.ring.get r).a).toNat ≤ (s.ring.get r).entries then s.modRing r fun q => { q with p := p, waitDb := false }
      else s.raise (.ring (ringFn r)) 2 := by
  simp only [State.takeP, RingSt.okP, decide_eq_true_eq]
  rfl

/-- C is taken where it moves within the completions written. -/
theorem State.takeC_eq (r : Ring) (c : Word) :
    s.takeC r c = if ((s.ring.get r).q - c).toNat ≤ (s.ring.get r).entries ∧ (c - (s.ring.get r).c).toNat ≤ ((s.ring.get r).q - (s.ring.get r).c).toNat then
        s.consume r c
      else s.raise (.ring (ringFn r)) 2 := by
  simp only [State.takeC, RingSt.okC, Bool.and_eq_true, decide_eq_true_eq]
  rfl

/-! ### The states of a ring -/

section
variable (hs : s.supplied = true)
include hs

theorem exec_ringDbSq (m : Master) (r : Ring) (v : Word) :
    exec (.ringDbSq m r v) s = .next (s.doorbell m r 0 v (fun t => t.modRing r fun q => { q with keptSq := some v }) (·.takeP r v)) :=
  State.live_supplied _ hs

theorem exec_ringDbCq (m : Master) (r : Ring) (v : Word) :
    exec (.ringDbCq m r v) s = .next (s.doorbell m r 4 v (fun t => t.modRing r fun q => { q with keptCq := some v }) (·.takeC r v)) :=
  State.live_supplied _ hs

/-- A ring's own function writes its classes, its vector and EN (R392). -/
theorem exec_ringCtrlWrite {r : Ring} (hz : s.frozen (.pf (ringFn r)) = false) (w : Word) :
    exec (.ringCtrlWrite (.pf (ringFn r)) r w) s = .next (((s.beat (.pf (ringFn r))).modRing r fun q =>
      { q with classes := bitsOf w 1 5, vector := vectorOf (ringFn r) (bitsOf w 8 7) }).ringEnable r (w.getLsbD 0)) := by
  have ho : ownsRing (.pf (ringFn r)) r = true := beq_self_eq_true _
  show execRingCtrlWrite (.pf (ringFn r)) r w s = _
  rw [execRingCtrlWrite, State.live_supplied _ hs, ho, State.guardedWrite_granted _ hz rfl]

/-- Bus mastering on runs the enabled rings that wait for it, off holds those that run (R530). -/
def State.busMastered (on : Bool) (f : Fn) (r : Ring) (t : State) : State :=
  if ringFn r = f then
    (if on = true then (if (t.ring.get r).st = .held ∧ (t.ring.get r).en = true then t.ringRun r else t)
     else if (t.ring.get r).st = .running ∨ (t.ring.get r).st = .draining then t.ringGo r .held else t)
  else t

theorem exec_busMasterEnable (f : Fn) (on : Bool) :
    exec (.busMasterEnable f on) s = .next ((s.modRingF f fun x => { x with busMaster := on }).forAll (State.busMastered on f)) := by
  show execBusMasterEnable f on s = _
  rw [execBusMasterEnable, State.live_supplied _ hs]
  refine congrArg (fun g => Host.Outcome.next (State.forAll g _)) (funext fun r => funext fun t => ?_)
  unfold State.busMastered
  by_cases hf : ringFn r = f
  · rw [if_neg (not_not_intro hf), if_pos hf]
    cases on
    · cases (t.ring.get r).st <;> rfl
    · cases (t.ring.get r).st with
      | held => simp only [if_true, true_and]
      | disabled | running | draining | frozen => rfl
  · rw [if_pos hf, if_neg hf]

theorem exec_drainDone (r : Ring) :
    exec (.drainDone r) s = .next (
      if (s.ring.get r).st = .draining ∧ (s.ring.get r).outstanding = 0 ∧ (s.ring.get r).committing = [] ∧ (s.ring.get r).refusals = [] then
        s.ringGo r .disabled
      else s) := by
  show execDrainDone r s = _
  rw [execDrainDone, State.live_supplied _ hs]
  simp only [Bool.and_eq_true, decide_eq_true_eq, List.isEmpty_iff, and_assoc]

end

/-- Settles O46, a command at a time. -/
theorem doorbellsAndRingStatesMove : Obligations.DoorbellsAndRingStatesMove := by
  unfold Obligations.DoorbellsAndRingStatesMove
  intro s hs
  refine ⟨?doorbells, fun f r v hz hf => ⟨?foreignSq, ?foreignCq⟩, ?ctrl, exec_busMasterEnable hs, fun r => ⟨fun h => ?drained, fun h => ?draining⟩,
    fun f => State.live_supplied _ hs⟩
  case foreignSq => rw [exec_ringDbSq hs, State.doorbell_foreign hz hf, Nat.add_zero]
  case foreignCq => rw [exec_ringDbCq hs, State.doorbell_foreign hz hf]
  case ctrl =>
    rintro f r w hz rfl
    exact exec_ringCtrlWrite hs hz w
  case drained => exact (exec_drainDone hs r).trans (congrArg _ (if_pos h))
  case draining => exact (exec_drainDone hs r).trans (congrArg _ (if_neg h))
  case doorbells =>
    rintro f r v hz rfl
    have hring : (s.beat (.pf (ringFn r))).ring = s.ring := (State.beat_frame _).2.2.2.1
    refine ⟨fun h => ⟨?keptSq, ?keptCq⟩, fun h => ⟨?ignoredSq, ?ignoredCq⟩,
      fun h => ⟨fun hp => ?takenP, fun hp => ?wrongP, fun h1 h2 => ?takenC, fun hc => ?wrongC⟩⟩
    case keptSq => rw [exec_ringDbSq hs, State.doorbell_kept hz h]
    case keptCq => rw [exec_ringDbCq hs, State.doorbell_kept hz h]
    case ignoredSq => rw [exec_ringDbSq hs, State.doorbell_ignored hz h]
    case ignoredCq => rw [exec_ringDbCq hs, State.doorbell_ignored hz h]
    case takenP => rw [exec_ringDbSq hs, State.doorbell_taken hz h, State.takeP_eq, hring, if_pos hp]
    case wrongP => rw [exec_ringDbSq hs, State.doorbell_taken hz h, State.takeP_eq, hring, if_neg (Nat.not_le.mpr hp)]
    case takenC => rw [exec_ringDbCq hs, State.doorbell_taken hz h, State.takeC_eq, hring, if_pos ⟨h1, h2⟩]
    case wrongC =>
      rw [exec_ringDbCq hs, State.doorbell_taken hz h, State.takeC_eq, hring, if_neg]
      rintro ⟨h1, h2⟩
      omega

end Sys2Proof.Machine
end

section
/-! Completion writes, the ring-level opcodes, interrupt moderation, tunnelled messages (15 R375, R378, R384-R387, R389). -/
namespace Sys2Proof.Machine

variable {s : State}

/-! ### Timed commands -/

section
variable (hs : s.supplied = true)
include hs

/-- An original completion waits for its fleet time of effect (R385). -/
theorem exec_completionWrite_original {r : Ring} {j : JSlot} {c : Comp} (h : (s.commitComps r).nextComp r = .original j c) :
    exec (.completionWrite r) s = .next (((s.commitComps r).runToFleet c.effect.toNat).writeComp r) := by
  show execCompletionWrite r s = _
  simp only [execCompletionWrite, State.live_supplied _ hs, h]

theorem exec_completionWrite_other {r : Ring} (h : ∀ (j : JSlot) (c : Comp), (s.commitComps r).nextComp r ≠ .original j c) :
    exec (.completionWrite r) s = .next ((s.commitComps r).writeComp r) := by
  show execCompletionWrite r s = _
  rw [execCompletionWrite, State.live_supplied _ hs]
  dsimp only
  split
  case h_1 j c hj => exact absurd hj (h j c)
  case h_2 => rfl

theorem exec_irqModerationTimer {v : IrqVec} {c : Nat} (hc : (s.irq.get v).timer = some c) :
    exec (.irqModerationTimer v) s = .next ((s.runTo (c + us (s.irq.get v).time.toNat)).sendMsi v) := by
  show execIrqModerationTimer v s = _
  simp only [execIrqModerationTimer, State.live_supplied _ hs, hc]

theorem exec_tunnelTimeout {a : TunnelPart} {l : List TunnelPart} (h : s.tun.parts = a :: l) :
    exec .tunnelTimeout s = .next (s.runTo (l.foldl (fun m x => min m x.since) a.since + ms 100)).tunnelStale := by
  show execTunnelTimeout s = _
  simp only [execTunnelTimeout, State.live_supplied _ hs, h]

theorem exec_tunnelRecvTimeout {w : TunnelWait} {l : List TunnelWait} (h : s.tun.recv = w :: l) :
    exec .tunnelRecvTimeout s = .next (((s.runTo (w.since + sec 2)).modTun fun x => { x with recv := l }).complete w.ring w.seq 0 0) := by
  show execTunnelRecvTimeout s = _
  simp only [execTunnelRecvTimeout, State.live_supplied _ hs, h]

/-! ### Segments received -/

/-- A segment joins its message, and a message that is whole is delivered (R387). -/
def State.tunnelSegment (h : Hdr) (channel : BitVec 4) (msgId : Word) (index count : Nat) (length : Word) (bytes : List Byte) (t : State) : State :=
  let t := t.tunnelStale
  let source : BitVec 16 := h.crew ++ h.src
  let same : TunnelPart → Bool := fun a => a.source == source && a.channel == channel && a.msgId == msgId
  let old := (t.tun.parts.find? same).getD ⟨source, channel, msgId, length, count, [], t.clk.cycle⟩
  let got := (index, bytes) :: old.got.filter fun x => x.1 != index
  if got.length = old.count then
    (t.modTun fun x => { x with parts := x.parts.filter fun a => !same a }).tunnelDeliver source channel
      ((((List.range old.count).map fun i => ((got.find? fun x => x.1 == i).map (·.2)).getD []).flatten).take old.length.toNat)
  else t.modTun fun x => { x with parts := { old with got := got } :: x.parts.filter fun a => !same a }

/-- A segment counts on a frame for this controller, an admitted member, with fields in their ranges. -/
theorem exec_tunnelReceive (p : Port) (h : Hdr) (channel : BitVec 4) (msgId : Word) (index count : Nat) (length : Word) (bytes : List Byte) :
    exec (.tunnelReceive p h channel msgId index count length bytes) s = .next (s.rxClass .data p h fun t =>
      if t.forMe h = false ∨ t.admitted = false ∨ ¬ (index < count ∧ count ≤ 33 ∧ bytes.length ≤ 1992) then t
      else t.tunnelSegment h channel msgId index count length bytes) := by
  show execTunnelReceive p h channel msgId index count length bytes s = _
  rw [execTunnelReceive, State.live_supplied _ hs]
  refine congrArg (fun g => Host.Outcome.next (s.rxClass .data p h g)) (funext fun t => ?_)
  refine if_congr ?_ rfl rfl
  simp only [Bool.or_eq_true, Bool.not_eq_true', Bool.and_eq_false_iff, decide_eq_false_iff_not, not_and_or, or_assoc]

end

/-! ### Descriptors -/

section
variable {r : Ring} {d : Desc} (hd : s.due r d = true)
include hd

theorem exec_ringNop : exec (.ringNop r d) s = .next ((s.takeUp r d).complete r d.seq 0 0) := congrArg _ (State.work_due _ hd)

theorem exec_ringFence (hf : s.fenceFree d = true) : exec (.ringFence r d) s = .next ((s.takeUp r d).complete r d.seq 0 0) := by
  show execRingFence r d s = _
  rw [execRingFence, if_pos hf, State.work_due _ hd]

theorem exec_rgtTimeOfDay :
    exec (.rgtTimeOfDay r d) s = .next ((s.takeUp r d).modTun fun x => { x with tod := x.tod ++ [(r, d.seq, d.q 24, (s.takeUp r d).acceptedAt r d.seq)] }) :=
  congrArg _ (State.work_due _ hd)

theorem exec_rgtTunnelRecv :
    exec (.rgtTunnelRecv r d) s = .next ((s.takeUp r d).modTun fun x =>
      { x with recv := x.recv ++ [⟨r, d.seq, bitsOf (d.b 24) 0 4, (d.w 32).toNat, d.w 28, (s.takeUp r d).clk.cycle⟩] }) :=
  congrArg _ (State.work_due _ hd)

/-- A route lost since acceptance ends the transfer (log entry 97). -/
theorem exec_rgtTunnelSend_unrouted (hp : s.routeTo (bitsOf (d.h 24) 0 12) = none) :
    exec (.rgtTunnelSend r d) s = .next ((s.takeUp r d).complete r d.seq 0 0) := by
  have hp' : (s.takeUp r d).routeTo (bitsOf (d.h 24) 0 12) = none := hp
  show execRgtTunnelSend r d s = _
  rw [execRgtTunnelSend, State.work_due _ hd]
  simp only [hp']

/-- The segments of a message go to the port of its route while that carries DATA and this controller is admitted (R387). -/
theorem exec_rgtTunnelSend {p : Port} (hp : s.routeTo (bitsOf (d.h 24) 0 12) = some p) :
    exec (.rgtTunnelSend r d) s = .next (
      let t := s.takeUp r d
      let len := (d.w 32).toNat
      let bytes := (t.readPages (t.listRefs (d.w 28) (ceilDiv len 4096))).take len
      (((List.range (ceilDiv len 1992)).foldl (fun u i =>
        if u.admitted = false ∨ (u.rgt.port.get p).carries .data = false then u
        else u.sendFrame p (some (bitsOf (d.h 24) 0 12, bitsOf (d.h 24) 12 4)) 32 false
          (.tunnel (bitsOf (d.b 26) 0 4) t.tun.nextId i (ceilDiv len 1992) (d.w 32) ((bytes.drop (1992 * i)).take 1992))) t).modTun fun x =>
            { x with nextId := x.nextId + 1 }).complete r d.seq 0 (BitVec.ofNat 32 (ceilDiv len 1992))) := by
  have hp' : (s.takeUp r d).routeTo (bitsOf (d.h 24) 0 12) = some p := hp
  show execRgtTunnelSend r d s = _
  rw [execRgtTunnelSend, State.work_due _ hd]
  simp only [hp', Bool.or_eq_true, Bool.not_eq_true']

end

/-- Settles O47, a command at a time. -/
theorem completionsTunnelsAndInterruptsAct : Obligations.CompletionsTunnelsAndInterruptsAct := by
  unfold Obligations.CompletionsTunnelsAndInterruptsAct
  exact fun s => ⟨fun hs => ⟨fun r => ⟨fun j c h => exec_completionWrite_original hs h, fun h => exec_completionWrite_other hs h⟩,
      fun v c hc => exec_irqModerationTimer hs hc, exec_tunnelReceive hs, fun a l h => exec_tunnelTimeout hs h,
      fun w l h => exec_tunnelRecvTimeout hs h⟩,
    fun r d hd => ⟨exec_ringNop hd, exec_ringFence hd, exec_rgtTimeOfDay hd, exec_rgtTunnelSend_unrouted hd, fun p hp => exec_rgtTunnelSend hd hp,
      exec_rgtTunnelRecv hd⟩,
    fun r d hf => congrArg _ (if_neg (by rw [hf]; decide))⟩

end Sys2Proof.Machine
end

section
/-! Window descriptors and registers: claims, releases, the partition, the ownership readout, the release of a freeze (16 R394, R399, R404,
R407, R408). -/
namespace Sys2Proof.Machine

variable {s : State}

/-! ### Claims and releases -/

section
variable {r : Ring} {d : Desc} (hd : s.due r d = true)
include hd

theorem exec_winClaim : exec (.winClaim r d) s = .next ((s.takeUp r d).moveRun r d .free .host) := congrArg _ (State.work_due _ hd)
theorem exec_winRelease : exec (.winRelease r d) s = .next ((s.takeUp r d).moveRun r d .host .free) := congrArg _ (State.work_due _ hd)

end

/-- The pages of the run that are as the descriptor needs them pass, each to its next generation (R399); what has been taken up leaves
the table alone. -/
theorem State.moveRun_takeUp (r : Ring) (d : Desc) (src dst : PageOwner) :
    (s.takeUp r d).moveRun r d src dst =
      let go := (runOf d).filter fun p => (s.page p).owner == src && s.win.rangeOf p == ringFn r
      (go.foldl (fun t p => t.setPage p ⟨dst, (t.page p).gen + 1, 0⟩) (s.takeUp r d)).complete r d.seq
        (if go.length < (d.h 26).toNat then 1 else 0) (BitVec.ofNat 32 go.length) := rfl

/-! ### The partition and the ownership readout -/

theorem State.beat_partOk (m : Master) (a b : BitVec 12) : (s.beat m).partOk a b = s.partOk a b := by
  simp only [State.partOk, State.beat_frame]

/-- Before lock PF2 writes a partition, where it is one (R394). -/
theorem exec_winPartWrite (h : s.reaches (.pf 2) = true) (hl : s.lcs.lock = false) (w : Word) :
    exec (.winPartWrite (.pf 2) w) s = .next (
      if s.partOk (bitsOf w 0 12) (bitsOf w 16 12) = true then
        (s.beat (.pf 2)).modWin fun x => { x with pf1First := bitsOf w 0 12, pf2First := bitsOf w 16 12 }
      else (s.beat (.pf 2)).raise .frz 3) := by
  obtain ⟨hs, hz⟩ := State.reaches_iff.mp h
  have ho : ((Master.pf 2 == .pf 2) && !s.lcs.lock) = true := by rw [hl]; rfl
  show execWinPartWrite (.pf 2) w s = _
  rw [execWinPartWrite, State.live_supplied _ hs, ho, State.guardedWrite_granted _ hz rfl]
  simp only [State.beat_partOk]

theorem exec_winOwnRead {f : Fn} (h : s.reaches (.pf f) = true) :
    exec (.winOwnRead f) s = .next ((s.beat (.pf f)).modWin fun w => { w with ownSel := vmod w.ownSel f (· + 1) }) := by
  obtain ⟨hs, hz⟩ := State.reaches_iff.mp h
  show execWinOwnRead f s = _
  rw [execWinOwnRead, State.live_supplied _ hs, State.transact_free _ hz]

/-! ### The release of a freeze -/

theorem exec_frzReleaseWrite_pf2 (h : s.reaches (.pf 2) = true) (w : Word) :
    exec (.frzReleaseWrite (.pf 2) w) s = .next ((s.beat (.pf 2)).releaseFreeze w) := by
  obtain ⟨hs, hz⟩ := State.reaches_iff.mp h
  exact (State.live_supplied _ hs).trans (congrArg _ (State.guardedWrite_granted _ hz rfl))

/-- The management core releases under a policy that permits it (19 R459). -/
theorem exec_frzReleaseWrite_mgmt (hs : s.supplied = true) (hp : s.permitted 0 = true) (w : Word) :
    exec (.frzReleaseWrite .mgmt w) s = .next ((s.beat .mgmt).releaseFreeze w) := by
  show execFrzReleaseWrite .mgmt w s = _
  rw [execFrzReleaseWrite, State.live_supplied _ hs, hp]
  exact congrArg _ (State.guardedWrite_granted _ rfl rfl)

theorem exec_frzReleaseWrite_mgmt_denied (hs : s.supplied = true) (hp : s.permitted 0 = false) (w : Word) :
    exec (.frzReleaseWrite .mgmt w) s = .next (s.firewallDrop .mgmt 0x8004 w.toNat) := by
  show execFrzReleaseWrite .mgmt w s = _
  rw [execFrzReleaseWrite, State.live_supplied _ hs, hp]
  rfl

/-- A token that no frozen master holds is a mismatch (R404). -/
theorem State.releaseFreeze_mismatch {w : Word} (h : ∀ c : Fin 24, ¬ ((s.frz.m.get c).frozen = true ∧ (s.frz.m.get c).token = w)) :
    s.releaseFreeze w = s.raise .frz 2 := by
  have hn : (List.finRange 24).find? (fun c => (s.frz.m.get c).frozen && (s.frz.m.get c).token == w) = none :=
    List.find?_eq_none.mpr fun c _ hc => h c (by simpa using hc)
  rw [State.releaseFreeze, hn]

/-- Settles O49, a command at a time. -/
theorem windowDescriptorsAndRegistersAct : Obligations.WindowDescriptorsAndRegistersAct := by
  unfold Obligations.WindowDescriptorsAndRegistersAct
  refine fun s => ⟨fun r d hd => ⟨?claim, ?release⟩, fun h => ⟨fun w hl => ⟨fun hp => ?partition, fun hp => ?noPartition⟩,
      fun w => ⟨exec_frzReleaseWrite_pf2 h w, State.releaseFreeze_mismatch⟩⟩,
    fun hs w => ⟨fun hp => exec_frzReleaseWrite_mgmt hs hp w, fun hp => exec_frzReleaseWrite_mgmt_denied hs hp w⟩, fun f h => exec_winOwnRead h⟩
  case claim => rw [exec_winClaim hd, State.moveRun_takeUp]; rfl
  case release => rw [exec_winRelease hd, State.moveRun_takeUp]; rfl
  case partition => exact (exec_winPartWrite h hl w).trans (congrArg _ (if_pos hp))
  case noPartition => exact (exec_winPartWrite h hl w).trans (congrArg _ (if_neg (by rw [hp]; decide)))

end Sys2Proof.Machine
end

section
/-! Acceptance: commits, the journal's retries and recovery, hand-over, the forgetting of a ring, the decision of a descriptor, and what the
management core does under a policy (15 R376-R382; 16 R402; 17 R410-R423; 19 R459). -/
namespace Sys2Proof.Machine

variable {s : State}

section
variable (hs : s.supplied = true)
include hs

/-! ### Commits -/

/-- A commit that verifies accepts its descriptor. -/
theorem exec_acceptanceCommit {r : Ring} {x : Committing} {rest : List Committing} (hc : (s.ring.get r).committing = x :: rest) :
    exec (.acceptanceCommit r true) s = .next (((s.modRing r fun q => { q with committing := rest }).accept r x).shadowA r) := by
  show execAcceptanceCommit r true s = _
  simp only [execAcceptanceCommit, State.live_supplied _ hs, hc, if_true]

/-- One that does not is undone, with those behind it (17 R413). -/
theorem exec_acceptanceCommit_failed {r : Ring} {x : Committing} {rest : List Committing} (hc : (s.ring.get r).committing = x :: rest) :
    exec (.acceptanceCommit r false) s = .next (
      let t := (s.modRing r fun q => { q with committing := [], exp := x.desc.seq }).modDlv fun v => { v with fault := true, lastRetry := s.clk.cycle }
      (rest.foldl (fun u y => (u.undecide r y).refuseComp r y.desc .state 2 0) ((t.undecide r x).refuseComp r x.desc .state 5 0)).shadowA r) := by
  show execAcceptanceCommit r false s = _
  simp only [execAcceptanceCommit, State.live_supplied _ hs, hc, Bool.false_eq_true, if_false]

theorem exec_acceptanceCommit_none {r : Ring} (hc : (s.ring.get r).committing = []) (ok : Bool) : exec (.acceptanceCommit r ok) s = .next s := by
  show execAcceptanceCommit r ok s = _
  simp only [execAcceptanceCommit, State.live_supplied _ hs, hc]

theorem exec_journalRetry (ok : Bool) :
    exec (.journalRetry ok) s = .next (
      if s.dlv.fault = false then s
      else (s.runTo (s.dlv.lastRetry + ms 10)).modDlv fun v =>
        { v with fault := !ok, lastRetry := (s.runTo (s.dlv.lastRetry + ms 10)).clk.cycle }) := by
  show execJournalRetry ok s = _
  simp only [execJournalRetry, State.live_supplied _ hs, Bool.not_eq_true']

/-! ### Hand-over and recovery -/

/-- An accepted DC3 descriptor is handed over at its time, where its carrier is ready (17 R410). -/
theorem exec_notBeforeReached {r : Ring} {seq : DWord} {j : JSlot} (hj : s.slot? r seq = some j) (ha : j.st = .accepted) (hc : j.desc.cls = 3) :
    exec (.notBeforeReached r seq) s = .next (
      let t := s.runToFleet j.desc.notBefore.toNat
      if t.carrierReady r j.desc = true then t.modSlot r seq fun x => { x with st := .handed } else t) := by
  show execNotBeforeReached r seq s = _
  simp only [execNotBeforeReached, State.live_supplied _ hs, hj, ha, hc, decide_true, Bool.and_self, if_true]

theorem exec_journalRecovery :
    exec .journalRecovery s = .next (s.forAll fun (f : Fn) t =>
      if (t.ringF.get f).recovering = true then t.modRingF f fun x => { x with recovering := false, recovered := true } else t).recoverAll := by
  show execJournalRecovery s = _
  rw [execJournalRecovery, State.live_supplied _ hs]

/-! ### Decisions -/

/-- The buckets are filled, and the first descriptor of a ring sets the expected sequence (R379). -/
def State.fetched (s : State) (r : Ring) (d : Desc) : State :=
  (s.fillBuckets r).modRing r fun q => { q with exp := if q.exp = 0 then d.seq else q.exp }

/-- A descriptor that reaches its own checks has its signature verified. -/
def State.authChecked (s : State) (r : Ring) (d : Desc) (contentOk : Bool) : State :=
  match s.reachesState r d contentOk with | some op => s.verifyAuth d op contentOk | none => s

theorem exec_descriptorDecide {r : Ring} (hf : s.canFetch r = true) (d : Desc) (contentOk : Bool) :
    exec (.descriptorDecide r d contentOk) s =
      .next (((s.fetched r d).authChecked r d contentOk).decided r d ((s.fetched r d).decision r d contentOk)) := by
  show execDescriptorDecide r d contentOk s = _
  rw [execDescriptorDecide, State.live_supplied _ hs, hf]
  rfl

theorem exec_descriptorDecide_stopped {r : Ring} (hf : s.canFetch r = false) (d : Desc) (contentOk : Bool) :
    exec (.descriptorDecide r d contentOk) s = .next s := by
  show execDescriptorDecide r d contentOk s = _
  rw [execDescriptorDecide, State.live_supplied _ hs, hf]
  rfl

/-- What is decided is carried out. -/
theorem exec_descriptorDecide_as {r : Ring} {d : Desc} {contentOk : Bool} (hf : s.canFetch r = true) {x : Decision}
    (hx : (s.fetched r d).decision r d contentOk = x) :
    exec (.descriptorDecide r d contentOk) s = .next (((s.fetched r d).authChecked r d contentOk).decided r d x) :=
  hx ▸ exec_descriptorDecide hs hf d contentOk

/-! ### Policies -/

section
variable (hm : s.pwr.mgmtReady = true) (hr : s.lcs.recovery = false)
include hm hr

/-- With the management plane up the core acts as its policy permits (19 R459). -/
theorem exec_policyAction (act : PolicyAct) :
    exec (.policyAction act) s = .next (match act with
      | .release token => if s.permitted 0 then s.releaseFreeze token else s.firewallDrop .mgmt 0x8004 token.toNat
      | .stage crew part => if s.permitted 1 && !s.refStage && !s.journalClosed then s.stage crew part none else s
      | .desc d contentOk => s.policyDesc d contentOk) := by
  show execPolicyAction act s = _
  rw [execPolicyAction, State.live_supplied _ hs, hm, hr]
  rfl

end
end

theorem State.policyDesc_permitted {d : Desc} {contentOk : Bool} {row : OpRow} {b : Nat} (ho : opRow? d.opcode = some row)
    (hb : policyBit row.op = some b) (hp : s.permitted b = true) (h1 : s.payloadOk d row.op = true) (h2 : s.mgmtPages d row.op = true)
    (h3 : s.journalClosed = false) (h4 : s.refOp d contentOk row.op = false) :
    s.policyDesc d contentOk = s.policyEffect d contentOk row.op := by
  simp only [State.policyDesc, ho, hb, hp, h1, h2, h3, h4, Bool.not_false, Bool.and_self, if_true]

theorem State.policyDesc_forbidden {d : Desc} {contentOk : Bool} {row : OpRow} {b : Nat} (ho : opRow? d.opcode = some row)
    (hb : policyBit row.op = some b) (hp : s.permitted b = false) : s.policyDesc d contentOk = s := by
  simp only [State.policyDesc, ho, hb, hp, Bool.false_and, Bool.false_eq_true, if_false]

/-! ### The forgetting of a ring -/

/-- A disabled ring whose records are all consumed loses them; the result is their number (17 R423). -/
theorem exec_dlvRingForget {r : Ring} {d : Desc} {q : Ring} (hd : s.due r d = true) (hq : d.target.toNat = q.val) (hst : (s.ring.get q).st = .disabled)
    (hall : (((s.takeUp r d).dlv.slots.get q).all fun j => j.st == .consumed) = true) :
    exec (.dlvRingForget r d) s = .next ((((s.takeUp r d).modDlv fun v =>
      { v with slots := vmod v.slots q fun _ => [], first := vmod v.first q fun _ => 0 }).modRing q fun x => { x with exp := 0 }).complete r d.seq 0
        (BitVec.ofNat 32 ((s.takeUp r d).dlv.slots.get q).length)) := by
  have hring : forgetRing d = q := by rw [forgetRing, hq]; exact Fin.ofNat_val_eq_self q
  have hst' : ((s.takeUp r d).ring.get q).st = .disabled := hst
  have hany : (((s.takeUp r d).dlv.slots.get q).any fun j => j.st != .consumed) = false := by
    rw [List.any_eq_false]
    intro j hj
    have := List.all_eq_true.mp hall j hj
    simpa using this
  show execDlvRingForget r d s = _
  rw [execDlvRingForget, State.work_due _ hd]
  simp only [hring, State.refForget, hst', hany, bne_self_eq_false, Bool.or_self, Bool.false_eq_true, if_false]

/-- Settles O50, a command at a time. -/
theorem aCommitAcceptsInOrder : Obligations.ACommitAcceptsInOrder := by
  unfold Obligations.ACommitAcceptsInOrder
  refine fun s => ⟨fun hs => ⟨fun r x rest hc => ⟨exec_acceptanceCommit hs hc, exec_acceptanceCommit_failed hs hc⟩,
    fun r ok hc => exec_acceptanceCommit_none hs hc ok, fun ok hf => ?retry, fun ok hf => ?noFault,
    fun r seq j hj ha hc => ⟨fun h => ?ready, fun h => ?notReady⟩, exec_journalRecovery hs⟩,
    fun r d q hd hq hst hall => exec_dlvRingForget hd hq hst hall⟩
  case retry => exact (exec_journalRetry hs ok).trans (congrArg _ (if_neg (by rw [hf]; decide)))
  case noFault => exact (exec_journalRetry hs ok).trans (congrArg _ (if_pos hf))
  case ready => exact (exec_notBeforeReached hs hj ha hc).trans (congrArg _ (if_pos h))
  case notReady => exact (exec_notBeforeReached hs hj ha hc).trans (congrArg _ (if_neg (by rw [h]; decide)))

/-- Settles O51: the decision is that of `State.decision`, and `State.decided` carries each of its values out. -/
theorem aFetchedDescriptorIsDecidedOnce : Obligations.AFetchedDescriptorIsDecidedOnce := by
  unfold Obligations.AFetchedDescriptorIsDecidedOnce
  refine fun s hs => ⟨fun r d contentOk => ⟨fun hf => exec_descriptorDecide_stopped hs hf d contentOk, fun hf =>
      ⟨fun st detail result h => exec_descriptorDecide_as hs hf h, fun h => exec_descriptorDecide_as hs hf h,
        fun ref h => exec_descriptorDecide_as hs hf h, fun pages h => exec_descriptorDecide_as hs hf h⟩⟩,
    fun hm hr => ⟨fun token => ⟨fun hp => ?release, fun hp => ?noRelease⟩, fun crew part hp h1 h2 => ?stage,
      fun d contentOk row b ho hb => ⟨fun hp h1 h2 h3 h4 => ?permitted, fun hp => ?forbidden⟩⟩⟩
  case release => exact (exec_policyAction hs hm hr _).trans (congrArg _ (if_pos hp))
  case noRelease => exact (exec_policyAction hs hm hr _).trans (congrArg _ (if_neg (by rw [hp]; decide)))
  case stage => exact (exec_policyAction hs hm hr _).trans (congrArg _ (if_pos (by rw [hp, h1, h2]; rfl)))
  case permitted => exact (exec_policyAction hs hm hr _).trans (congrArg _ (State.policyDesc_permitted ho hb hp h1 h2 h3 h4))
  case forbidden => exact (exec_policyAction hs hm hr _).trans (congrArg _ (State.policyDesc_forbidden ho hb hp))

end Sys2Proof.Machine
end

section
/-! Life-cycle transitions, the erase, the maker port, nonces, policies and the lock (19 R446, R447, R449-R451, R458-R460; 13 R344;
22 R504). -/
namespace Sys2Proof.Machine

variable {s : State}

/-! ### What taking up, completing and erasing leave of the life cycle -/

theorem State.takeUp_lcs (r : Ring) (d : Desc) : (s.takeUp r d).lcs = s.lcs := rfl
theorem State.takeUp_now (r : Ring) (d : Desc) : (s.takeUp r d).now = s.now := rfl
theorem State.complete_lcs (r : Ring) (q : DWord) (detail : Half) (v : Word) : (s.complete r q detail v).lcs = s.lcs := rfl
theorem State.eraseLegal_lcs : s.eraseLegal.lcs = s.lcs := rfl

section
variable {r : Ring} {d : Desc} (hd : s.due r d = true)
include hd

/-! ### Transitions (R446) -/

/-- Toward RETURN a transition from SERVICE waits for the erase. -/
theorem exec_lcsTransition_return (hst : s.lcs.st = .service) (ht : lcOfCode (authOf ((s.takeUp r d).pageBytes (d.w 40) 64)).target = some .ret) :
    exec (.lcsTransition r d) s = .next ((s.takeUp r d).modLcs fun l => { l with returnPending := true, returnWait := some (r, d.seq) }) := by
  show execLcsTransition r d s = _
  rw [execLcsTransition, State.work_due _ hd]
  simp only [State.takeUp_lcs, hst, ht]

/-- Toward SERVICE it cancels the one that waits, and both complete with the state in force. -/
theorem exec_lcsTransition_cancel {w : Ring × DWord} (hst : s.lcs.st = .service)
    (ht : lcOfCode (authOf ((s.takeUp r d).pageBytes (d.w 40) 64)).target = some .service) (hw : (s.takeUp r d).lcs.returnWait = some w) :
    exec (.lcsTransition r d) s = .next ((((s.takeUp r d).complete w.1 w.2 0 2).modLcs fun l =>
      { l with returnPending := false, returnWait := none }).complete r d.seq 0 2) := by
  rw [State.takeUp_lcs] at hw
  show execLcsTransition r d s = _
  rw [execLcsTransition, State.work_due _ hd]
  simp only [State.takeUp_lcs, hst, ht, hw]

/-- Any other makes the transition and completes with the new state. -/
theorem exec_lcsTransition {st : LcState} (hst : s.lcs.st ≠ .service) (ht : lcOfCode (authOf ((s.takeUp r d).pageBytes (d.w 40) 64)).target = some st) :
    exec (.lcsTransition r d) s = .next (((s.takeUp r d).transition st (bitsOf d.payload 0 128)).complete r d.seq 0 (BitVec.ofNat 32 st.code)) := by
  show execLcsTransition r d s = _
  rw [execLcsTransition, State.work_due _ hd]
  simp only [State.takeUp_lcs, ht]
  split
  case h_1 h _ => exact absurd h hst
  case h_2 h _ => exact absurd h hst
  case h_3 st' h _ _ => cases h; rfl
  case h_4 h => cases h

/-! ### The erase (13 R344) -/

theorem exec_bilErase (hp : s.lcs.returnPending = false) : exec (.bilErase r d) s = .next ((s.takeUp r d).eraseLegal.complete r d.seq 0 0) := by
  show execBilErase r d s = _
  rw [execBilErase, State.work_due _ hd]
  simp only [State.complete_lcs, State.eraseLegal_lcs, State.takeUp_lcs, hp, Bool.not_false, if_true]

/-- With RETURN pending the transition follows. -/
theorem exec_bilErase_return {w : Ring × DWord} (hp : s.lcs.returnPending = true) (hw : s.lcs.returnWait = some w) :
    exec (.bilErase r d) s = .next
      ((((((s.takeUp r d).eraseLegal.complete r d.seq 0 0).transition .ret 0).complete w.1 w.2 0 3).modLcs fun l => { l with returnWait := none })) := by
  show execBilErase r d s = _
  rw [execBilErase, State.work_due _ hd]
  simp only [State.complete_lcs, State.eraseLegal_lcs, State.takeUp_lcs, hp, hw, Bool.not_true, Bool.false_eq_true, if_false]

/-! ### Port, nonces, policies, lock -/

theorem exec_lcsPortOpen : exec (.lcsPortOpen r d) s = .next (((s.takeUp r d).openPort ((s.takeUp r d).pageBytes (d.w 28) 64)).complete r d.seq 0 0) :=
  congrArg _ (State.work_due _ hd)
theorem exec_lcsPortClose : exec (.lcsPortClose r d) s = .next (((s.takeUp r d).modLcs fun l => { l with portOpen := false }).complete r d.seq 0 0) :=
  congrArg _ (State.work_due _ hd)

/-- The nonce is a free value (log entry 4). -/
theorem exec_lcsChallenge : ∃ n : Digest, exec (.lcsChallenge r d) s =
    .next ((((s.takeUp r d).useFree.modLcs fun l => { l with nonce := n, nonceAt := some s.now }).writePages [d.w 28]
      (leBytes 32 n.toNat ++ leBytes 16 Config.serial.toNat ++ leBytes 4 s.lcs.nt ++ leBytes 1 s.lcs.st.code ++ leBytes 11 0)).complete r d.seq 0 64) :=
  by
  refine ⟨BitVec.ofNat 256 (Config.freeNat (s.takeUp r d).free), ?_⟩
  show execLcsChallenge r d s = _
  rw [execLcsChallenge, State.work_due _ hd]
  simp only [State.takeUp_lcs, State.takeUp_now]

/-- A policy's effect is its acceptance. -/
theorem exec_lcsPolicySet :
    exec (.lcsPolicySet r d) s = .next (((s.takeUp r d).modLcs fun l =>
      { l with policy := some (BitVec.ofNat 4 (field ((s.takeUp r d).pageBytes (d.w 28) 64) 32 4)) }).completeAt r d.seq 0 0
        ((s.takeUp r d).acceptedAt r d.seq)) :=
  congrArg _ (State.work_due _ hd)
theorem exec_lcsLock : exec (.lcsLock r d) s = .next (((s.takeUp r d).modLcs fun l => { l with lock := true }).complete r d.seq 0 0) :=
  congrArg _ (State.work_due _ hd)

end

/-! ### The inspection channel (22 R504) -/

section
variable (hs : s.supplied = true) {w : Word} {ok : Bool}
include hs

theorem exec_lcsPortAuthWrite_locked {m : Master} (hm : m ≠ .port) :
    exec (.lcsPortAuthWrite m w ok) s = .next (s.guardedWrite m s.pwr.mgmtReady true false 0x70200 id) := by
  show execLcsPortAuthWrite m w ok s = _
  rw [execLcsPortAuthWrite, State.live_supplied _ hs, if_pos hm]

theorem exec_lcsPortAuthWrite_scrap (hst : s.lcs.st = .scrap) : exec (.lcsPortAuthWrite .port w ok) s = .next s := by
  show execLcsPortAuthWrite .port w ok s = _
  rw [execLcsPortAuthWrite, State.live_supplied _ hs, if_neg (not_not_intro rfl), if_pos hst]

/-- Words are taken until the signature's length is reached; then the authorisation is evaluated. -/
theorem exec_lcsPortAuthWrite (hst : s.lcs.st ≠ .scrap) :
    exec (.lcsPortAuthWrite .port w ok) s = .next (
      let l := s.lcs.portAuth ++ leBytes 4 w.toNat
      if l.length < 68 ∨ l.length < 68 + field l 64 4 then s.modLcs fun x => { x with portAuth := l }
      else
        let u := (s.modLcs fun x => { x with portAuth := [] }).useNonce (authOf (l.take 64))
        if s.portAuthOk (l.take 64) ok = true then u.openPort (l.take 64) else u.authFailed) := by
  show execLcsPortAuthWrite .port w ok s = _
  rw [execLcsPortAuthWrite, State.live_supplied _ hs, if_neg (not_not_intro rfl), if_neg hst]
  simp only [Bool.or_eq_true, decide_eq_true_eq]

end

/-- Settles O53, a command at a time. -/
theorem transitionsPortsAndPoliciesAct : Obligations.TransitionsPortsAndPoliciesAct := by
  unfold Obligations.TransitionsPortsAndPoliciesAct
  refine fun s => ⟨fun r d hd => ⟨exec_lcsTransition_return hd, fun w => exec_lcsTransition_cancel hd, fun st => exec_lcsTransition hd,
      ⟨exec_bilErase hd, fun w => exec_bilErase_return hd⟩, exec_lcsPortOpen hd, exec_lcsPortClose hd, exec_lcsChallenge hd, exec_lcsPolicySet hd,
      exec_lcsLock hd⟩,
    fun hs m w ok => ⟨exec_lcsPortAuthWrite_locked hs, exec_lcsPortAuthWrite_scrap hs,
      fun hst => ⟨fun h => ?more, fun h1 h2 ha => ?opened, fun h1 h2 ha => ?failed⟩⟩⟩
  case more => exact (exec_lcsPortAuthWrite hs hst).trans (congrArg _ (if_pos h))
  case opened =>
    refine (exec_lcsPortAuthWrite hs hst).trans (congrArg _ ((if_neg ?_).trans (if_pos ha)))
    exact not_or.mpr ⟨Nat.not_lt.mpr h2, Nat.not_lt.mpr h1⟩
  case failed =>
    refine (exec_lcsPortAuthWrite hs hst).trans (congrArg _ ((if_neg ?_).trans (if_neg (by rw [ha]; decide))))
    exact not_or.mpr ⟨Nat.not_lt.mpr h2, Nat.not_lt.mpr h1⟩

end Sys2Proof.Machine
end

section
/-! Images: write, verification, activation, confirmation (19 R452, R454, R456, R457, R460). -/
namespace Sys2Proof.Machine

variable {s : State}

section
variable {r : Ring} {d : Desc} (hd : s.due r d = true)
include hd

/-- The image is written, not valid, and its verification queued. -/
theorem exec_lcsImageWrite : exec (.lcsImageWrite r d) s = .next ((s.takeUp r d).imageWrite (some r) d.seq d) := congrArg _ (State.work_due _ hd)

/-! ### Activation -/

/-- The other slot is preferred, on a trial of 3 tries; the descriptor waits for the start of its slot (R456). -/
def State.activated (s : State) (r : Ring) (d : Desc) : State :=
  (s.imagePrefer (kindIx (d.b 24))).modLcs fun l => { l with activating := l.activating ++ [(r, d.seq, kindIx (d.b 24))] }

theorem exec_lcsImageActivate_later (h : d.b 25 ≠ 1) : exec (.lcsImageActivate r d) s = .next ((s.takeUp r d).activated r d) := by
  show execLcsImageActivate r d s = _
  rw [execLcsImageActivate, State.work_due _ hd]
  exact congrArg _ (if_pos h)

/-- With 'now' the plane of the kind is reset: that of the control kind, of the two data kinds, of the management kind. -/
theorem exec_lcsImageActivate_now (h : d.b 25 = 1) :
    exec (.lcsImageActivate r d) s = .next (
      let t := (s.takeUp r d).activated r d
      match kindIx (d.b 24) with
      | 1 => t.planeReset .control
      | 2 | 5 => t.planeReset .data
      | 3 => t.planeReset .mgmt
      | _ => t) := by
  show execLcsImageActivate r d s = _
  rw [execLcsImageActivate, State.work_due _ hd]
  exact congrArg _ (if_neg (not_not_intro h))

theorem exec_lcsImageActivate_control (h : d.b 25 = 1) (hk : kindIx (d.b 24) = 1) :
    exec (.lcsImageActivate r d) s = .next (((s.takeUp r d).activated r d).planeReset .control) := by
  rw [exec_lcsImageActivate_now hd h, hk]
  rfl

theorem exec_lcsImageActivate_data (h : d.b 25 = 1) (hk : kindIx (d.b 24) = 2 ∨ kindIx (d.b 24) = 5) :
    exec (.lcsImageActivate r d) s = .next (((s.takeUp r d).activated r d).planeReset .data) := by
  rw [exec_lcsImageActivate_now hd h]
  rcases hk with hk | hk
  · rw [hk]
    rfl
  · rw [hk]
    rfl

theorem exec_lcsImageActivate_mgmt (h : d.b 25 = 1) (hk : kindIx (d.b 24) = 3) :
    exec (.lcsImageActivate r d) s = .next (((s.takeUp r d).activated r d).planeReset .mgmt) := by
  rw [exec_lcsImageActivate_now hd h, hk]
  rfl

theorem exec_lcsImageActivate_other (h : d.b 25 = 1) (hk : kindIx (d.b 24) = 0 ∨ kindIx (d.b 24) = 4) :
    exec (.lcsImageActivate r d) s = .next ((s.takeUp r d).activated r d) := by
  rw [exec_lcsImageActivate_now hd h]
  rcases hk with hk | hk
  · rw [hk]
    rfl
  · rw [hk]
    rfl

end

/-! ### Confirmation -/

/-- The index at which a confirmation leaves the rollback counter: that of the running image where it is higher, but for the legal image
in SERVICE (R456, R457). -/
def State.confirmIndex (s : State) (k : Fin 6) : BitVec 6 :=
  let g := s.lcs.img.get k
  if k.val = 4 && s.lcs.st = .service then g.rollback else if g.rollback.toNat < g.running.index.toNat then g.running.index else g.rollback

theorem State.confirmIndex_kept {k : Fin 6}
    (h : (k.val = 4 ∧ s.lcs.st = .service) ∨ (s.lcs.img.get k).running.index.toNat ≤ (s.lcs.img.get k).rollback.toNat) :
    s.confirmIndex k = (s.lcs.img.get k).rollback := by
  simp only [State.confirmIndex, Bool.and_eq_true, decide_eq_true_eq]
  by_cases hk : k.val = 4 ∧ s.lcs.st = .service
  · rw [if_pos hk]
  · rw [if_neg hk, if_neg (Nat.not_lt.mpr (h.resolve_left hk))]

theorem State.confirmIndex_raised {k : Fin 6} (hk : ¬ (k.val = 4 ∧ s.lcs.st = .service))
    (h : (s.lcs.img.get k).rollback.toNat < (s.lcs.img.get k).running.index.toNat) : s.confirmIndex k = (s.lcs.img.get k).running.index := by
  simp only [State.confirmIndex, Bool.and_eq_true, decide_eq_true_eq]
  rw [if_neg hk, if_pos h]

section
variable {r : Ring} {d : Desc} (hd : s.due r d = true) {n : BitVec 6} (hn : s.confirmIndex (kindIx (d.b 24)) = n)
include hd hn

/-- The trial ends, and the event tells of a counter that moves. -/
theorem exec_lcsImageConfirm :
    exec (.lcsImageConfirm r d) s = .next
      ((((s.takeUp r d).modLcs fun l => { l with img := vmod l.img (kindIx (d.b 24)) fun g => { g with trial := false, tries := 0, rollback := n } }).cond
        (n != (s.lcs.img.get (kindIx (d.b 24))).rollback) (·.raise .lcs 5)).complete r d.seq 0 (n.setWidth 32)) := by
  subst hn
  exact congrArg _ (State.work_due _ hd)

end

/-! ### Verification -/

section
variable (hs : s.supplied = true)
include hs

theorem exec_imageVerifyDone_none (ok : Bool) (h : s.lcs.writing = []) : exec (.imageVerifyDone ok) s = .next s := by
  show execImageVerifyDone ok s = _
  simp only [execImageVerifyDone, State.live_supplied _ hs, h]

/-- The slot is valid exactly where its header, its body, its key and the signature are good. -/
def State.imageVerified (s : State) (x : ImgWrite) (rest : List ImgWrite) (ok : Bool) : State :=
  s.modLcs fun l => { l with writing := rest, img := vmod l.img x.kind fun g => g.put x.slotB { x.img with valid := ok && x.img.valid } }

theorem exec_imageVerifyDone {x : ImgWrite} {rest : List ImgWrite} (ok : Bool) (h : s.lcs.writing = x :: rest) :
    exec (.imageVerifyDone ok) s = .next (
      match x.ring with
      | some r => (s.imageVerified x rest ok).complete r x.seq 0 (if (ok && x.img.valid) = true then 0 else 1)
      | none => s.imageVerified x rest ok) := by
  show execImageVerifyDone ok s = _
  rw [execImageVerifyDone, State.live_supplied _ hs, h]
  rfl

end

/-- Settles O54, a command at a time. -/
theorem imagesAreWrittenTriedAndConfirmed : Obligations.ImagesAreWrittenTriedAndConfirmed := by
  unfold Obligations.ImagesAreWrittenTriedAndConfirmed
  refine fun s => ⟨fun r d hd => ⟨exec_lcsImageWrite hd, ⟨exec_lcsImageActivate_later hd, exec_lcsImageActivate_control hd, exec_lcsImageActivate_data hd,
        exec_lcsImageActivate_mgmt hd, exec_lcsImageActivate_other hd⟩,
      ⟨fun h => ?kept, fun hk h => ?raised⟩⟩,
    fun hs ok => ⟨exec_imageVerifyDone_none hs ok, fun x rest h => ⟨fun r hr => ?ringed, fun hr => ?unringed⟩⟩⟩
  case kept =>
    have hn : s.confirmIndex (kindIx (d.b 24)) = (s.lcs.img.get (kindIx (d.b 24))).rollback := State.confirmIndex_kept h
    rw [exec_lcsImageConfirm hd hn, bne_self_eq_false]
    rfl
  case raised =>
    have hn : s.confirmIndex (kindIx (d.b 24)) = (s.lcs.img.get (kindIx (d.b 24))).running.index := State.confirmIndex_raised hk h
    have hne : ((s.lcs.img.get (kindIx (d.b 24))).running.index != (s.lcs.img.get (kindIx (d.b 24))).rollback) = true :=
      bne_iff_ne.mpr fun he => (Nat.lt_irrefl _) (lt_of_lt_of_eq h (congrArg BitVec.toNat he))
    rw [exec_lcsImageConfirm hd hn, hne]
    rfl
  case ringed =>
    rw [exec_imageVerifyDone hs ok h, hr]
    rfl
  case unringed =>
    rw [exec_imageVerifyDone hs ok h, hr]
    rfl

end Sys2Proof.Machine
end

section
/-! The clock monitor: loss of the root, drift, the crystal, the response to a clock fault and the reset that follows it (20 R466-R469,
R480, R483). -/
namespace Sys2Proof.Machine

variable {s : State}

/-! ### The response (R469) -/

/-- The block after the first steps of the response: the source in force, no drive, failsafes held, holdover, no fetching. -/
def State.faultStopped (s : State) : State :=
  let a := (((s.raiseGlb 4).syncControlFault).forAll fun (o : Outlet) u => u.setDrives o false).forAll fun (x : Aux) u =>
    if (u.pwm.aux.get x).en = true then u.modAux x fun c => { c with heldFs := true } else u
  ((a.modClk fun c => { c with holdover := true }).stopEngine).modPwr fun w => { w with fetchStopped := true }

/-- The legal state is committed unless a power-fail warning has done so (R480). -/
theorem State.clockFaultAct_eq :
    s.clockFaultAct = (if s.faultStopped.pwr.pfw = true then s.faultStopped else s.faultStopped.legalWarning).modClk fun c =>
      { c with faultSince := some s.clk.cycle } := by
  have h : s.clockFaultAct = (s.faultStopped.cond (!s.faultStopped.pwr.pfw) (·.legalWarning)).modClk fun c =>
      { c with faultSince := some s.clk.cycle } := rfl
  rw [h]
  cases s.faultStopped.pwr.pfw
  · rfl
  · rfl

/-- The response, with its first steps written out. -/
theorem State.clockFaultAct_response :
    s.clockFaultAct =
      let a := (((s.raiseGlb 4).syncControlFault).forAll fun (o : Outlet) u => u.setDrives o false).forAll fun (x : Aux) u =>
        if (u.pwm.aux.get x).en = true then u.modAux x fun c => { c with heldFs := true } else u
      let b := ((a.modClk fun c => { c with holdover := true }).stopEngine).modPwr fun w => { w with fetchStopped := true }
      (if b.pwr.pfw = true then b else b.legalWarning).modClk fun c => { c with faultSince := some s.clk.cycle } := State.clockFaultAct_eq

/-- A fault that is found is answered where none stands. -/
theorem State.cond_clockFault {t : State} (h : s.clk.faultSince = none) :
    t.cond (!s.clk.faultSince.isSome) (·.clockFaultAct) = t.clockFaultAct := by
  rw [h]
  rfl
theorem State.cond_clockFault_standing {t : State} (h : s.clk.faultSince.isSome = true) :
    t.cond (!s.clk.faultSince.isSome) (·.clockFaultAct) = t := by
  rw [h]
  rfl

/-! ### What the monitor finds -/

/-- A window shows drift from 22 edges on, from 5 % on while the crystal is out of range (R467, R468). -/
theorem driftFound_iff (x : Bool) (edges : Nat) :
    driftFound x edges = true ↔ (if x = true then 48828 < 20 * ((edges : Int) - 48828).natAbs else 22 ≤ ((edges : Int) - 48828).natAbs) := by
  cases x
  · simp only [driftFound, Bool.false_eq_true, if_false, decide_eq_true_eq]
  · simp only [driftFound, if_true, decide_eq_true_eq]

theorem xtalOff_iff (freq : Nat) : xtalOff freq = true ↔ 32768 < 20 * ((freq : Int) - 32768).natAbs := decide_eq_true_iff

/-- The clock monitor's crystal state after a measurement in range: a second of them ends the failure (log entry 55). -/
def Clk.xtalInRange (c : Clk) : Clk :=
  match c.xtalGood with
  | none => { c with xtalGood := some c.cycle }
  | some t => if t + sec 1 ≤ c.cycle then { c with xtalFail := false, xtalGood := none } else c

section
variable (hs : s.supplied = true)
include hs

/-! ### The root (R466, R467) -/

theorem exec_rootLost_ignored {gap : Nat} {locked : Bool} (h : s.clk.rootLost = true ∨ (gap < 1000 ∧ locked = true)) :
    exec (.rootLost gap locked) s = .next s := by
  refine congrArg _ (if_pos ?_)
  simpa [hs, and_comm] using h

/-- The loss sets its flag, counts, and is answered (log entry 7). -/
theorem exec_rootLost {gap : Nat} {locked : Bool} (h : s.clk.rootLost = false) (hl : 1000 ≤ gap ∨ locked = false) :
    exec (.rootLost gap locked) s = .next (((s.modClk fun c => { c with rootLost := true, cntLoss := satInc c.cntLoss }).raise .clk 0).cond
      (!s.clk.faultSince.isSome) (·.clockFaultAct)) := by
  refine congrArg _ (if_neg ?_)
  simp only [hs, h, Bool.not_true, Bool.false_or, Bool.and_eq_true, decide_eq_true_eq]
  rintro ⟨hk, hg⟩
  rcases hl with hl | hl
  · omega
  · exact Bool.noConfusion (hk.symm.trans hl)

theorem exec_driftCheck_quiet {edges : Nat} (h : driftFound s.clk.xtalFail edges = false ∨ s.clk.drift = true) :
    exec (.driftCheck edges) s = .next (s.modClk fun c => { c with rootPpm := clampS 16 (roundDivI (((edges : Int) - 48828) * 1000000) 48828) }) := by
  show execDriftCheck edges s = _
  simp only [execDriftCheck, hs, Bool.not_true, Bool.false_eq_true, if_false, Bool.or_eq_true, Bool.not_eq_true', if_pos h, ppmOf]

/-- Drift sets its flag, counts, and is answered (log entry 7). -/
theorem exec_driftCheck_found {edges : Nat} (hf : driftFound s.clk.xtalFail edges = true) (hd : s.clk.drift = false) :
    exec (.driftCheck edges) s = .next
      ((((s.modClk fun c => { c with rootPpm := clampS 16 (roundDivI (((edges : Int) - 48828) * 1000000) 48828) }).modClk fun c =>
        { c with drift := true, cntDrift := satInc c.cntDrift }).raise .clk 1).cond
        (!s.clk.faultSince.isSome) (·.clockFaultAct)) := by
  show execDriftCheck edges s = _
  simp only [execDriftCheck, hs, hf, hd, Bool.not_true, Bool.or_self, Bool.false_eq_true, if_false, ppmOf]

/-! ### The crystal (R468) -/

theorem exec_xtalFail_off {freq : Nat} (h : xtalOff freq = true) :
    exec (.xtalFail freq) s = .next (
      let t := s.modClk fun c => { c with xtalGood := none }
      if s.clk.xtalFail = true then t else (t.modClk fun c => { c with xtalFail := true }).raise .clk 2) := by
  show execXtalFail freq s = _
  simp only [execXtalFail, hs, h, Bool.not_true, Bool.false_eq_true, if_false, if_true]

theorem exec_xtalFail_good {freq : Nat} (h : ¬ xtalOff freq = true) :
    exec (.xtalFail freq) s = .next (if s.clk.xtalFail = false then s else s.modClk Clk.xtalInRange) := by
  rw [Bool.not_eq_true] at h
  show execXtalFail freq s = _
  simp only [execXtalFail, hs, h, Bool.not_true, Bool.false_eq_true, if_false, Bool.not_eq_true']
  rfl

/-! ### The reset -/

theorem exec_clockFaultReset {t : Nat} (ht : s.clk.faultSince = some t) (hr : s.clk.resetHeld = false) :
    exec .clockFaultReset s = .next ((s.runTo (t + ms 5)).warmReset 6) := by
  show execClockFaultReset s = _
  simp only [execClockFaultReset, ht, hs, hr, Bool.not_false, Bool.and_self, if_true]

theorem exec_rootRecovered (held : Nat) (locked : Bool) :
    exec (.rootRecovered held locked) s = .next (
      if (s.clk.resetHeld = true ∧ locked = true) ∧ 100000000 ≤ held then (s.modClk fun c => { c with holdover := false }).warmBoot else s) := by
  show execRootRecovered held locked s = _
  simp only [execRootRecovered, hs, Bool.true_and, Bool.and_eq_true, decide_eq_true_eq]

end

theorem exec_clockFaultReset_idle (h : s.clk.faultSince = none ∨ s.clk.resetHeld = true) : exec .clockFaultReset s = .next s := by
  show execClockFaultReset s = _
  rw [execClockFaultReset]
  split
  case h_1 t ht =>
    have hr : s.clk.resetHeld = true := h.resolve_left (by rw [ht]; exact Option.some_ne_none t)
    rw [hr, Bool.not_true, Bool.and_false]
    rfl
  case h_2 => rfl

/-- A change of the clock that its present state makes none. -/
theorem State.modClk_congr {f g : Clk → Clk} (h : f s.clk = g s.clk) : s.modClk f = s.modClk g := by rw [State.modClk, h]; rfl
theorem State.modClk_same {f : Clk → Clk} (h : f s.clk = s.clk) : s.modClk f = s := State.modClk_congr (g := id) h

/-- Settles O55, a command at a time. -/
theorem clockFaultsHoldTheBlock : Obligations.ClockFaultsHoldTheBlock := by
  unfold Obligations.ClockFaultsHoldTheBlock
  refine fun s hs => ⟨⟨fun gap locked h => exec_rootLost_ignored hs h, fun gap locked h hl => ⟨fun hn => ?lost, fun hn => ?lostAgain⟩,
      fun edges => ⟨fun h => ?noDrift, fun hf hd => ⟨fun hn => ?drift, fun hn => ?driftAgain⟩⟩⟩,
    fun freq => ⟨fun ho hx => ?off, fun ho hx => ?offAgain, fun ho hx => ?good, fun ho hx hg => ?goodFirst,
      fun k ho hx hg => ⟨fun hk => ?goodLong, fun hk => ?goodShort⟩⟩,
    fun t ht hr => exec_clockFaultReset hs ht hr, exec_clockFaultReset_idle, fun held locked => ⟨fun hr hh hl => ?recovered, fun h => ?notRecovered⟩⟩
  case lost => rw [exec_rootLost hs h hl, State.cond_clockFault hn, State.clockFaultAct_response]
  case lostAgain => rw [exec_rootLost hs h hl, State.cond_clockFault_standing hn]
  case noDrift =>
    refine exec_driftCheck_quiet hs (h.imp_left fun hf => ?_)
    rwa [← driftFound_iff, Bool.not_eq_true] at hf
  case drift => rw [exec_driftCheck_found hs ((driftFound_iff ..).mpr hf) hd, State.cond_clockFault hn, State.clockFaultAct_response]
  case driftAgain => rw [exec_driftCheck_found hs ((driftFound_iff ..).mpr hf) hd, State.cond_clockFault_standing hn]
  case off => rw [exec_xtalFail_off hs ((xtalOff_iff freq).mpr ho), hx]; rfl
  case offAgain => rw [exec_xtalFail_off hs ((xtalOff_iff freq).mpr ho), hx]; rfl
  case good => rw [exec_xtalFail_good hs (mt (xtalOff_iff freq).mp ho), if_pos hx]
  case goodFirst =>
    rw [exec_xtalFail_good hs (mt (xtalOff_iff freq).mp ho), hx]
    exact congrArg _ (State.modClk_congr (by rw [Clk.xtalInRange, hg]))
  case goodLong =>
    rw [exec_xtalFail_good hs (mt (xtalOff_iff freq).mp ho), hx]
    exact congrArg _ (State.modClk_congr (by rw [Clk.xtalInRange, hg]; exact if_pos hk))
  case goodShort =>
    rw [exec_xtalFail_good hs (mt (xtalOff_iff freq).mp ho), hx]
    exact congrArg _ (State.modClk_same (by rw [Clk.xtalInRange, hg]; exact if_neg (Nat.not_le.mpr hk)))
  case recovered => rw [exec_rootRecovered hs, if_pos ⟨⟨hr, hl⟩, hh⟩]
  case notRecovered =>
    rw [exec_rootRecovered hs, if_neg]
    rintro ⟨⟨hr, hl⟩, hh⟩
    rcases h with h | h | h
    · exact Bool.noConfusion (hr.symm.trans h)
    · omega
    · exact Bool.noConfusion (hl.symm.trans h)

end Sys2Proof.Machine
end

section
/-! Cold, warm and plane resets, ready reports, and the power descriptors (19 R454; 20 R470-R475, R481). -/
namespace Sys2Proof.Machine

variable {s : State}

/-! ### Cold resets (R470, R483) -/

/-- The sources that belong to a power mode. -/
theorem State.coldFits_iff (source : BitVec 3) (held : Nat) :
    s.coldFits source held = true ↔ (s.pwr.mode = .hold ∧ source = 4) ∨ (s.pwr.mode = .ship ∧ source = 5) ∨
      (s.pwr.mode ≠ .hold ∧ s.pwr.mode ≠ .ship ∧ (source = 0 ∨ (source = 2 ∧ 10000 ≤ held) ∨ (source = 3 ∧ 2000 ≤ held))) := by
  unfold State.coldFits
  cases s.pwr.mode <;> simp [or_assoc]

theorem exec_coldReset (source : BitVec 3) (held : Nat) (aonOk : Bool) (slots : BitVec 2) (a b : BitVec 4) :
    exec (.coldReset source held aonOk slots a b) s = .next (if s.coldFits source held = true then s.coldStart source aonOk slots a b else s) := rfl

/-! ### Warm resets (R471) -/

/-- Nothing begins while a reset is held. -/
theorem State.warmReset_held (cause : BitVec 3) (h : s.clk.resetHeld = true) : s.warmReset cause = s := by
  rw [State.warmReset, h, Bool.or_true, if_pos rfl]

theorem State.planeReset_held (p : Plane) (h : s.clk.resetHeld = true) : s.planeReset p = s := by
  rw [State.planeReset, h, Bool.or_true, if_pos rfl]

theorem exec_warmReset_short {held : Nat} (h : held < 10000) : exec (.warmReset false held) s = .next s := by
  show execWarmReset false held s = _
  simp only [execWarmReset, Bool.false_eq_true, if_false, Nat.not_le.mpr h, decide_false, State.cond_false]

theorem exec_warmReset_pin {held : Nat} (h : 10000 ≤ held) : exec (.warmReset false held) s = .next (s.warmReset 1) := by
  show execWarmReset false held s = _
  simp only [execWarmReset, Bool.false_eq_true, if_false, h, decide_true, State.cond_true]

theorem exec_warmReset_noFault (held : Nat) (h : s.clk.faultSince = none) : exec (.warmReset true held) s = .next s := by
  show execWarmReset true held s = _
  simp only [execWarmReset, if_true, h, Option.isSome_none, State.cond_false]

theorem exec_warmReset_fault (held : Nat) (h : s.clk.faultSince.isSome = true) : exec (.warmReset true held) s = .next (s.warmReset 6) := by
  show execWarmReset true held s = _
  simp only [execWarmReset, if_true, h, State.cond_true]

theorem exec_warmReset_held (held : Nat) (h : s.clk.resetHeld = true) : exec (.warmReset false held) s = .next s := by
  rcases Nat.lt_or_ge held 10000 with hn | hn
  · exact exec_warmReset_short hn
  · rw [exec_warmReset_pin hn, State.warmReset_held _ h]

section
variable (hs : s.supplied = true) (hr : s.clk.resetHeld = false)
include hs hr

/-- The blocks are reset and the planes boot. -/
theorem State.warmReset_boots (cause : BitVec 3) (h : s.clk.faultSince = none) : s.warmReset cause = (s.warmEnter cause).warmBoot := by
  simp only [State.warmReset, hs, hr, h, Bool.not_true, Bool.or_self, Bool.false_eq_true, if_false, Option.isSome_none]

/-- While a clock fault stands the reset is held (R469). -/
theorem State.warmReset_holds (cause : BitVec 3) (h : s.clk.faultSince.isSome = true) :
    s.warmReset cause = (s.warmEnter cause).modClk fun c => { c with resetHeld := true, holdover := true } := by
  simp only [State.warmReset, hs, hr, h, Bool.not_true, Bool.or_self, Bool.false_eq_true, if_false, if_true]

/-! ### Planes (R472, R474) -/

theorem exec_planeReset (p : Plane) :
    exec (.planeReset p) s = .next ((((((s.noteReset [planeCarrier p] false).blocksReset p).modRingF (planeIx p) fun x =>
      { x with recovering := true, lastReset := 3 }).bootAll (kindsOf p)).bootEnd).modPwr fun w => { w with planeRst := w.planeRst ||| bit 3 (planeIx p).val }) := by
  show Host.Outcome.next (s.planeReset p) = _
  rw [State.planeReset, hs, hr]
  rfl

omit hr in
/-- A plane that has not reported by 5 s is reset (19 R454). -/
theorem exec_readyTimeout {p : Plane} {t : Nat} (h : (s.lcs.img.get (kindOf p)).since = some t) :
    exec (.readyTimeout (kindOf p)) s = .next ((s.runTo (t + sec 5)).planeReset p) := by
  show execReadyTimeout (kindOf p) s = _
  cases p with
  | control | data | mgmt =>
    dsimp only [kindOf] at h ⊢
    simp only [execReadyTimeout, h, hs, if_true]

theorem exec_planeReady {p : Plane} (hp : s.planeReady p = false) (hi : (s.lcs.img.get (kindOf p)).since.isSome = true) :
    exec (.planeReady p false) s = .next (s.readyNow p) := by
  refine congrArg Host.Outcome.next ((if_neg Bool.false_ne_true).trans (if_pos ?_))
  rw [State.mayReady, hs, hr, hp, hi]
  rfl

theorem exec_planeReady_again {p : Plane} (hp : s.planeReady p = true) : exec (.planeReady p false) s = .next s := by
  refine congrArg Host.Outcome.next ((if_neg Bool.false_ne_true).trans (if_neg ?_))
  rw [State.mayReady, hs, hr, hp]
  exact Bool.false_ne_true

/-- The integrator cores report once their image has started. -/
theorem exec_planeReady_integrator (p : Plane) (hi : (s.lcs.img.get 5).since.isSome = true) :
    exec (.planeReady p true) s = .next
      ((s.modLcs fun l => { l with img := vmod l.img 5 fun g => { g with since := none, started := true } }).modPwr fun w => { w with integratorReady := true }) := by
  show execPlaneReady p true s = _
  rw [execPlaneReady, hs, hr, hi]
  rfl

theorem exec_planeReady_integrator_early (p : Plane) (hi : (s.lcs.img.get 5).since = none) : exec (.planeReady p true) s = .next s := by
  show execPlaneReady p true s = _
  rw [execPlaneReady, hs, hr, hi]
  rfl

end

/-! ### The power descriptors (R481) -/

section
variable {r : Ring} {d : Desc} (hd : s.due r d = true)
include hd

/-- The reset of a plane completes when the plane is ready. -/
def State.resetWaiting (s : State) (r : Ring) (d : Desc) (p : Plane) : State :=
  (s.modPwr fun w => { w with resetWait := w.resetWait ++ [(r, d.seq, p)] }).planeReset p

/-- PWR_RESET resets what its byte names. -/
theorem exec_pwrReset :
    exec (.pwrReset r d) s = .next (
      match (d.b 24).toNat with
      | 1 => (s.takeUp r d).warmReset 1
      | 2 => (s.takeUp r d).resetWaiting r d .control
      | 3 => (s.takeUp r d).resetWaiting r d .data
      | _ => (s.takeUp r d).planeReset .mgmt) := by
  show execPwrReset r d s = _
  rw [execPwrReset, State.work_due _ hd]
  rfl

theorem exec_pwrIdle :
    exec (.pwrIdle r d) s = .next (
      if s.allOff = true then
        let u := (s.takeUp r d).clearAllEn.modPwr fun w => { w with mode := .idle }
        State.complete r d.seq 0 0 { u with vcl := { u.vcl with ch := u.vcl.ch.map VclSt.afterReset } }
      else (s.takeUp r d).complete r d.seq 0 0) := by
  have ho : (s.takeUp r d).refIdle = !s.allOff := rfl
  show execPwrIdle r d s = _
  rw [execPwrIdle, State.work_due _ hd]
  dsimp only
  rw [ho]
  cases s.allOff
  · rfl
  · rfl

theorem exec_pwrRun : exec (.pwrRun r d) s = .next (((s.takeUp r d).modPwr fun w => { w with mode := .run }).complete r d.seq 0 0) :=
  congrArg _ (State.work_due _ hd)

end

theorem State.allOff_iff : s.allOff = true ↔ ∀ o : Outlet, s.hasOutlet o = true → (s.out.get o).st = .off := by
  rw [State.allOff, List.all_eq_true]
  refine ⟨fun h o ho => ?_, fun h o _ => ?_⟩
  · simpa [ho] using h o (List.mem_finRange o)
  · rw [Bool.or_eq_true, Bool.not_eq_true', beq_iff_eq]
    exact (Bool.eq_false_or_eq_true (s.hasOutlet o)).symm.imp_right (h o)

/-- Settles O56, a command at a time. -/
theorem resetsAndReadyReportsAct : Obligations.ResetsAndReadyReportsAct := by
  unfold Obligations.ResetsAndReadyReportsAct
  refine fun s => ⟨fun source held aonOk slots a b => ⟨fun h => ?fits, fun h => ?noFit⟩,
    fun hs hr => ⟨fun hn => ⟨fun held h => ?warm, fun held => exec_warmReset_noFault held hn⟩,
      fun hn => ⟨fun held h => ?warmHeld, fun held => ?faultHeld⟩,
      fun p => ⟨exec_planeReset hs hr p, fun t h => exec_readyTimeout hs h, exec_planeReady hs hr, exec_planeReady_again hs hr,
        exec_planeReady_integrator hs hr p, exec_planeReady_integrator_early hs hr p⟩⟩,
    fun held h => exec_warmReset_short h, fun h => ⟨fun held => exec_warmReset_held held h, fun p => congrArg _ (State.planeReset_held p h)⟩,
    fun r d hd => ⟨fun h => ?device, fun h => ?control, fun h => ?data, fun h => ?mgmt, fun h => ?idle, fun o ho h => ?busy, exec_pwrRun hd⟩⟩
  case fits => rw [exec_coldReset, if_pos ((State.coldFits_iff source held).mpr h)]
  case noFit => rw [exec_coldReset, if_neg (mt (State.coldFits_iff source held).mp h)]
  case warm => rw [exec_warmReset_pin h, State.warmReset_boots hs hr _ hn]
  case warmHeld => rw [exec_warmReset_pin h, State.warmReset_holds hs hr _ hn]
  case faultHeld => rw [exec_warmReset_fault _ hn, State.warmReset_holds hs hr _ hn]
  case device => rw [exec_pwrReset hd, h]; rfl
  case control => rw [exec_pwrReset hd, h]; rfl
  case data => rw [exec_pwrReset hd, h]; rfl
  case mgmt => rw [exec_pwrReset hd, h]; rfl
  case idle => exact (exec_pwrIdle hd).trans (congrArg _ (if_pos (State.allOff_iff.mpr h)))
  case busy => exact (exec_pwrIdle hd).trans (congrArg _ (if_neg fun hn => h (State.allOff_iff.mp hn o ho)))

end Sys2Proof.Machine
end

section
/-! Drift windows, the health record, the journal as it leaves, remote records (21 R484, R489, R491-R493). -/
namespace Sys2Proof.Machine

variable {s : State}

/-! ### Timed commands -/

section
variable (hs : s.supplied = true)
include hs

theorem exec_driftWindow :
    exec .driftWindow s = .next (
      let t := s.runTo (s.dia.windowAt + sec 60)
      (t.modDia fun d => { d with windowAt := t.clk.cycle, ind := vmapIdx d.ind fun i x => x.close (driftLimit i) }).forAll
        fun (i : Fin 16) u => u.driftFlag i) := by
  show execDriftWindow s = _
  rw [execDriftWindow, State.live_supplied _ hs]

theorem exec_diaRemoteTimeout_none (h : s.dia.remote = []) : exec .diaRemoteTimeout s = .next s := by
  show execDiaRemoteTimeout s = _
  rw [execDiaRemoteTimeout, State.live_supplied _ hs, h]

theorem exec_diaRemoteTimeout {w : RemoteWait} {l : List RemoteWait} (h : s.dia.remote = w :: l) :
    exec .diaRemoteTimeout s = .next (((s.runTo (w.since + ms 500)).modDia fun x => { x with remote := l }).complete w.ring w.seq 0 0) := by
  show execDiaRemoteTimeout s = _
  rw [execDiaRemoteTimeout, State.live_supplied _ hs, h]

/-! ### Remote records (R492) -/

variable {p : Port} {h : Hdr} (ha : s.accepts .cfg p h = true)
include ha

/-- A request for this controller is answered where the management plane runs, the requester is accepted and a route leads back. -/
theorem exec_diagRequest (id : CtrlId) (crew : BitVec 4) (q : Word) :
    exec (.diagRequest p h id crew q) s = .next (
      let t := s.received p h
      let u := t.takeMsg 0x20
      if s.forMe h = false then t
      else if (s.pwr.mgmtReady = false ∨ u.requesterOk p id crew = false) ∨ (u.routeTo id).isSome = false then u
      else ((u.sendCfg (id, crew) (.diagReply q u.healthRecord)).modDia fun d => { d with cntRemote := satInc d.cntRemote }).raise .dia 3) := by
  have hpwr : ((s.received p h).takeMsg 0x20).pwr = s.pwr := rfl
  show execDiagRequest p h id crew q s = _
  rw [execDiagRequest, State.live_supplied _ hs, State.rxClass_accepts _ ha]
  simp only [State.received_forMe, hpwr, Bool.not_eq_true', Bool.or_eq_true, Option.isSome_eq_false_iff]

/-- A reply to a request that waits fills its page and completes it. -/
theorem exec_diagReply (q : Word) (record : List Byte) :
    exec (.diagReply p h q record) s = .next (
      let t := s.received p h
      let u := t.takeMsg 0x21
      if s.forMe h = false then t
      else match u.dia.remote.find? fun w => w.reqId == q && w.dest == (h.crew ++ h.src) with
        | none => u
        | some w =>
          ((u.modDia fun x => { x with remote := x.remote.filter fun y => y.reqId != q }).fillPage w.page (record.take 1024)).complete w.ring w.seq 0 1024) := by
  show execDiagReply p h q record s = _
  rw [execDiagReply, State.live_supplied _ hs, State.rxClass_accepts _ ha]
  dsimp only
  rw [State.received_forMe]
  cases s.forMe h
  · rfl
  · rfl

end

/-! ### Descriptors -/

section
variable {r : Ring} {d : Desc} (hd : s.due r d = true)
include hd

theorem exec_diaHealth :
    exec (.diaHealth r d) s = .next (((s.takeUp r d).memWriteList ((pageOf (d.w 28)).val * 4096) (s.takeUp r d).healthRecord).complete r d.seq 0 1024) := by
  show execDiaHealth r d s = _
  rw [execDiaHealth, State.work_due _ hd, State.fillPage]

/-- The records that DIA_EXPORT writes: from the number asked for, up to its acceptance, 128 a page (R493). -/
def State.exported (s : State) (r : Ring) (d : Desc) : List JRec :=
  (s.dia.records.filter fun x => decide ((d.q 24).toNat ≤ x.number) && decide (x.time ≤ (s.takeUp r d).acceptedAt r d.seq)).take (128 * (d.w 36).toNat)

/-- Detail 1 tells that records between the number asked for and the oldest are gone. -/
theorem exec_diaExport :
    exec (.diaExport r d) s = .next (((s.takeUp r d).writePages ((s.takeUp r d).listRefs (d.w 32) (d.w 36).toNat) ((s.exported r d).flatMap JRec.bytes)).complete
      r d.seq (if (d.q 24).toNat ≠ 0 ∧ (d.q 24).toNat < (oldestEvent s.dia).toNat then 1 else 0) (BitVec.ofNat 32 (s.exported r d).length)) := by
  have hdia : (s.takeUp r d).dia = s.dia := rfl
  show execDiaExport r d s = _
  rw [execDiaExport, State.work_due _ hd]
  simp only [hdia, State.exported, Bool.and_eq_true, bne_iff_ne, decide_eq_true_eq]

theorem exec_diaRemote :
    exec (.diaRemote r d) s = .next (((s.takeUp r d).sendCfg (bitsOf (d.h 24) 0 12, bitsOf (d.h 24) 12 4)
      (.diagRequest s.rgt.id s.rgt.crew s.dia.nextReq)).modDia fun x =>
        { x with nextReq := s.dia.nextReq + 1, remote := x.remote ++ [⟨r, d.seq, d.h 24, s.dia.nextReq, d.w 28, s.clk.cycle⟩] }) :=
  congrArg _ (State.work_due _ hd)

end

/-- Settles O58, a command at a time. -/
theorem driftHealthAndRemoteRecordsAct : Obligations.DriftHealthAndRemoteRecordsAct := by
  unfold Obligations.DriftHealthAndRemoteRecordsAct
  refine fun s => ⟨fun hs => ⟨exec_driftWindow hs, exec_diaRemoteTimeout_none hs, fun w l h => exec_diaRemoteTimeout hs h,
      fun p h ha => ⟨fun id crew q => ⟨fun hm => ?notMe, fun hm hp ho hr => ?answered, fun hm hn => ?unanswered⟩,
        fun q record => ⟨fun hm => ?replyNotMe, fun w hm hw => ?reply, fun hm hw => ?replyUnknown⟩⟩⟩,
    fun r d hd => ⟨exec_diaHealth hd, ⟨fun h => ?gone, fun h => ?complete⟩, exec_diaRemote hd⟩⟩
  case notMe => rw [exec_diagRequest hs ha, hm]; rfl
  case answered =>
    refine (exec_diagRequest hs ha id crew q).trans (congrArg _ ((if_neg (by rw [hm]; decide)).trans (if_neg ?_)))
    rintro ((h1 | h1) | h1)
    · exact Bool.noConfusion (hp.symm.trans h1)
    · exact Bool.noConfusion (ho.symm.trans h1)
    · exact Bool.noConfusion (hr.symm.trans h1)
  case unanswered =>
    exact (exec_diagRequest hs ha id crew q).trans (congrArg _ ((if_neg (by rw [hm]; decide)).trans (if_pos (or_assoc.mpr hn))))
  case replyNotMe => rw [exec_diagReply hs ha, hm]; rfl
  case reply =>
    rw [exec_diagReply hs ha, hm]
    simp only [hw]
    rfl
  case replyUnknown =>
    rw [exec_diagReply hs ha, hm]
    simp only [hw]
    rfl
  case gone => rw [exec_diaExport hd, if_pos h]; rfl
  case complete =>
    rw [exec_diaExport hd, if_neg]
    · rfl
    · rintro ⟨h1, h2⟩
      omega

end Sys2Proof.Machine
end
